-- ==== Sys2Proof/Word.lean ====
section
/-! DEFINITION. The word types of the W9 (R8, R186) and their plainest arithmetic. -/
namespace Sys2Proof

abbrev Byte := BitVec 8
abbrev Half := BitVec 16
abbrev Word32 := BitVec 32
/-- A w, k or m register, an address, a PC (R102, R106). -/
abbrev Word := BitVec 64
/-- The bits of one vector register (R171). -/
abbrev Vec := BitVec 512
/-- One instruction slot (R99). -/
abbrev Slot := BitVec 96
/-- The bytes of one fetch line, one 512-bit number (R8, R99). -/
abbrev LineBits := BitVec 512
/-- One event record (R68). -/
abbrev Record := BitVec 256

end Sys2Proof
end

