-- ==== Sys2Proof/Machine/Formats.lean ====
section
/-! DEFINITION. The format tags of R199 and what R186 to R189 and R194 say of each format. -/
namespace Sys2Proof.Machine

abbrev Tag := BitVec 5

/-- Not a reserved code (R199). -/
def knownTag (t : Tag) : Bool := t.toNat ≤ 0x0D || (0x10 ≤ t.toNat && t.toNat ≤ 0x16) || (0x18 ≤ t.toNat && t.toNat ≤ 0x1A)

/-- The element width in bits; 0 for raw and reserved codes (R186, R188, R194). -/
def tagWidth (t : Tag) : Nat :=
  match t.toNat with
  | 0x01 | 0x02 => 2
  | 0x03 | 0x04 => 4
  | 0x05 | 0x06 => 8
  | 0x07 | 0x08 => 16
  | 0x09 | 0x0A => 32
  | 0x0B | 0x0C => 64
  | 0x0D => 1
  | 0x10 => 4
  | 0x11 | 0x12 => 8
  | 0x13 | 0x14 => 16
  | 0x15 => 32
  | 0x16 => 64
  | 0x18 => 4
  | 0x19 => 8
  | 0x1A => 16
  | _ => 0

/-- The element width used for geometry and logs: raw elements are bytes (R256, R273). -/
def elemWidth (t : Tag) : Nat := if t == 0 then 8 else tagWidth t

/-- INT2 to UINT64 (R199). -/
def intTag (t : Tag) : Bool := 1 ≤ t.toNat && t.toNat ≤ 0x0C
/-- A signed integer format: the odd codes of INT2 to INT64 (R199). -/
def signedTag (t : Tag) : Bool := intTag t && t.toNat % 2 == 1
def fpTag (t : Tag) : Bool := 0x10 ≤ t.toNat && t.toNat ≤ 0x16
/-- FP16, BF16, FP32 or FP64 (R207). -/
def stdFpTag (t : Tag) : Bool := 0x13 ≤ t.toNat && t.toNat ≤ 0x16
def wbTag (t : Tag) : Bool := 0x18 ≤ t.toNat && t.toNat ≤ 0x1A

/-- The signed or unsigned integer tag of a width (R171, R199). -/
def intTagOf (signed : Bool) (w : Nat) : Tag :=
  let s : Tag := match w with | 2 => 1 | 4 => 3 | 8 => 5 | 16 => 7 | 32 => 9 | 64 => 11 | _ => 0
  if w == 1 then 0x0D else if signed then s else s + 1

/-- The mantissa width m of a WB format (R194). -/
def wbMant (t : Tag) : Nat := tagWidth t - 1

/-- Blocks a vector register holds of a WB format (R196). -/
def wbBlocks (t : Tag) : Nat := if wbTag t then 512 / (32 * tagWidth t) else 0

/-- Lanes of a vector register (R171, R187). -/
def tagLanes (t : Tag) : Nat := if tagWidth t == 0 then 0 else 512 / tagWidth t

end Sys2Proof.Machine
end

