-- ==== Sys2Proof/Syntax.lean ====
section
/-! DEFINITION. The syntax of the W9: register fields, the four instruction formats (R104 to R113), the data that events
carry, and `Instr`, one constructor per row of the opcode table: the 156 coded instructions and the 123 events of the part. -/
namespace Sys2Proof

/-! ## Register fields and formats -/

/-- The register named by a 6-bit field (R106). In the matrix stream `w i` with i below 16 is m i. -/
inductive Reg where
  | w (i : Fin 24) | k (i : Fin 8) | v (i : Fin 8) | p (i : Fin 8) | t (i : Fin 16)
  deriving DecidableEq, Repr

/-- The guard of a slot: GNEG and GPRED (R104, R105). -/
structure Guard where
  neg  : Bool
  pred : Fin 8
  deriving DecidableEq, Repr

/-- The common fields of every slot but OPC (R104). -/
structure Common where
  guard : Guard
  mod   : BitVec 8
  dst   : Reg
  sa    : Reg
  sb    : Reg
  sc    : Reg
  u     : Bool
  deriving DecidableEq, Repr

/-- Format GEN (R108). -/
structure Gen extends Common where
  fn  : BitVec 3
  imm : BitVec 48
  deriving DecidableEq, Repr

/-- Format BRN (R109); `rsv` is bits [50:48]. -/
structure Brn extends Common where
  rsv    : BitVec 3
  offset : BitVec 29
  slot   : BitVec 3
  prio   : BitVec 16
  deriving DecidableEq, Repr

/-- Format MEM (R110). -/
structure Mem extends Common where
  scale : BitVec 2
  x     : Bool
  disp  : BitVec 48
  deriving DecidableEq, Repr

/-- Format JMP (R111); `rsv` is bits [50:48]. -/
structure Jmp extends Common where
  rsv   : BitVec 3
  bound : BitVec 16
  prio  : BitVec 16
  label : BitVec 16
  deriving DecidableEq, Repr

/-! ## What events carry -/

/-- The requester of a management-block access (R51). -/
inductive Requester where
  | operator | other
  deriving DecidableEq, Repr

/-- The rail groups of R13. -/
inductive Rail where
  | vcore | vhbm | vser | vaux
  deriving DecidableEq, Repr

/-- A firmware image as the boot ROM or the standby receives it (R21, R24, R25). -/
structure FirmwareImage where
  bytes      : List Byte
  signature  : BitVec 768
  secVersion : Nat
  major      : BitVec 16
  minor      : BitVec 16
  deriving DecidableEq, Repr

/-- What one boot step meets: whether its action succeeds, its failure detail and how long it takes, in gt. -/
structure BootStepResult where
  ok     : Bool
  detail : BitVec 16
  dt     : Nat
  deriving DecidableEq, Repr

/-- The outside of one start (R17): the result of each step in order, the firmware slots, the launcher microcode, the rows that the SRAM
self-test finds bad, the peers whose links train. -/
structure BootInputs where
  results   : List BootStepResult
  slotA     : FirmwareImage
  slotB     : FirmwareImage
  microcode : FirmwareImage
  badRows   : List Nat
  peersUp   : List Nat
  deriving DecidableEq, Repr

/-- A context table entry as the host driver writes it (R54). -/
structure ContextEntry where
  ptroot   : Word
  errqbase : Word
  errqlen  : Word32
  fgroup   : BitVec 16
  instq    : Half
  cbase    : Word32
  ccount   : Word32
  gang     : Half
  viewlen  : Word32
  viewoff  : Word
  seed     : Word
  trapvec  : Word
  cflags   : Word
  deriving DecidableEq, Repr

/-- A fabric access table entry (R377). -/
structure FatEntry where
  flags : Byte
  sdev  : BitVec 4
  sctx  : Half
  tctx  : Half
  aoff  : Word
  alen  : Word
  tva   : Word
  deriving DecidableEq, Repr

/-- The firn geometry registers (R71). -/
inductive FirnReg where
  | base | size | opsz
  deriving DecidableEq, Repr

/-- The flow a fabric request belongs to (R372). -/
inductive Flow where
  | course (skein panel course : Nat) | pair (ctx : Nat) | coll (cause : Word32)
  deriving DecidableEq, Repr

/-- An IEEE 1588 message (R77): a two-step sync (no stamp) or a one-step sync, what follows a two-step sync, and the three messages of the
peer delay mechanism with their stamps. -/
inductive PtpMsg where
  | sync (seq : Half) (stamp : Option Nat)
  | followUp (seq : Half) (stamp : Nat)
  | pdelayReq (seq : Half)
  | pdelayResp (seq : Half) (received : Nat)
  | pdelayFollowUp (seq : Half) (sent : Nat)
  deriving DecidableEq, Repr

/-- What a packet says beyond its header (R371 leaves INFO and the payload to each kind). -/
inductive Body where
  | none
  | read (offset : Word) (size : Nat)
  | value (v : Word)
  | write (offset : Word) (bytes : List Byte)
  | atomic (offset : Word) (op : BitVec 4) (size : Nat) (operand : Word)
  | reduce (offset : Word) (red : BitVec 3) (etag : BitVec 5) (bytes : List Byte)
  | signal (word : Word) (key : Half)
  | chunk (tag : Word32) (result : Bool) (offset : Word) (bytes : List Byte)
  | ready (tag : Word32) (stage dst : Word)
  | barrier (tag : Word32)
  | departure (tag : Word32)
  | ptp (domain : Byte) (m : PtpMsg)
  | link (peer : Nat) (up : Bool)
  | late (record : Record)
  deriving DecidableEq, Repr

/-- A fabric packet: the header of R371, the kind's own content, and (the model's) the request it belongs to. -/
structure Packet where
  cause : Word32
  ctx   : Half
  ent   : Byte
  kind  : Byte
  seq   : Half
  len   : Byte
  src   : BitVec 4
  dst   : BitVec 4
  mode  : BitVec 2
  mark  : Bool
  rly   : Bool
  relay : BitVec 4
  info  : BitVec 24
  flow  : Flow
  req   : Nat
  body  : Body
  deriving DecidableEq, Repr

/-- Where an uncorrectable error is found (R412, one constructor per row). -/
inductive UeWhere where
  | registers (core slot lane : Nat) (field : BitVec 6)
  | scratchpad (die : Bool) (addr : Nat)
  | memory (lpddr : Bool) (addr : Nat)
  | corrected (kind : Fin 3)
  | accumulator (core : Nat) (cell : Nat)
  | counter (n : Nat)
  | killClass (ctx : Nat) (core : Nat)
  | queueTable (q : Nat)
  | complexMemory
  | traceStaging (source : Half)
  | icache (core ctx : Nat) (line : Word) (slot : Nat)
  deriving DecidableEq, Repr

/-- A debug hit: DEBUG_STOP's reason, core, course slot and PC (R416, R431). -/
structure StopHit where
  reason : Byte
  core   : BitVec 8
  slot   : BitVec 5
  pc     : Word
  deriving DecidableEq, Repr

/-- What ATTACH names (R413, R452). -/
inductive AttachTarget where
  | skein (id : Nat)
  | node (ctx : Nat) (gbase : Word) (index : Nat)
  deriving DecidableEq, Repr

/-! ## Instructions and events -/

/-- One constructor per row of the opcode table: the coded instructions, then the events (the events that no definition of the
model builds stand last, since compiled code numbers only the first 245 constructors). A row with a format record is an instruction of a
fetch line; every other row is an event of the part, whole and indivisible (chapter "What each step holds"). -/
inductive Instr where
  /-- NOP (R159). -/
  | nop (f : Gen)
  /-- BRA (R160). -/
  | bra (f : Brn)
  /-- BRP (R161). -/
  | brp (f : Brn)
  /-- JTB (R162). -/
  | jtb (f : Jmp)
  /-- LPAD (R163). -/
  | lpad (f : Jmp)
  /-- CALL (R164). -/
  | call (f : Brn)
  /-- RET (R165). -/
  | ret (f : Gen)
  /-- EXIT (R166). -/
  | exit (f : Gen)
  /-- STREAM_EXIT (R319). -/
  | streamExit (f : Gen)
  /-- YIELD (R167). -/
  | yield (f : Gen)
  /-- RGN (R168). -/
  | rgn (f : Gen)
  /-- ADD (R172). -/
  | add (f : Gen)
  /-- ADDI (R173). -/
  | addi (f : Gen)
  /-- SUB (R172). -/
  | sub (f : Gen)
  /-- MUL (R172). -/
  | mul (f : Gen)
  /-- MULH (R172). -/
  | mulh (f : Gen)
  /-- MULHU (R172). -/
  | mulhu (f : Gen)
  /-- DIV (R174). -/
  | div (f : Gen)
  /-- DIVU (R174). -/
  | divu (f : Gen)
  /-- REM (R174). -/
  | rem (f : Gen)
  /-- REMU (R174). -/
  | remu (f : Gen)
  /-- AND (R172). -/
  | and (f : Gen)
  /-- OR (R172). -/
  | or (f : Gen)
  /-- XOR (R172). -/
  | xor (f : Gen)
  /-- ANDN (R172). -/
  | andn (f : Gen)
  /-- SHL (R172). -/
  | shl (f : Gen)
  /-- SHR (R172). -/
  | shr (f : Gen)
  /-- SAR (R172). -/
  | sar (f : Gen)
  /-- ROL (R172). -/
  | rol (f : Gen)
  /-- CLZ (R175). -/
  | clz (f : Gen)
  /-- CTZ (R175). -/
  | ctz (f : Gen)
  /-- POPC (R175). -/
  | popc (f : Gen)
  /-- BREV (R175). -/
  | brev (f : Gen)
  /-- ABS (R175). -/
  | abs (f : Gen)
  /-- BFX (R176). -/
  | bfx (f : Gen)
  /-- BFI (R176). -/
  | bfi (f : Gen)
  /-- MIN (R172). -/
  | min (f : Gen)
  /-- MAX (R172). -/
  | max (f : Gen)
  /-- MINU (R172). -/
  | minu (f : Gen)
  /-- MAXU (R172). -/
  | maxu (f : Gen)
  /-- SEL (R177). -/
  | sel (f : Gen)
  /-- MOV (R178). -/
  | mov (f : Gen)
  /-- MOVI (R179). -/
  | movi (f : Gen)
  /-- MOVH (R179). -/
  | movh (f : Gen)
  /-- LEA (R182). -/
  | lea (f : Mem)
  /-- CMP (R180). -/
  | cmp (f : Gen)
  /-- PLOP (R181). -/
  | plop (f : Gen)
  /-- RDID (R183). -/
  | rdid (f : Gen)
  /-- FADD (R209). -/
  | fadd (f : Gen)
  /-- FSUB (R209). -/
  | fsub (f : Gen)
  /-- FMUL (R209). -/
  | fmul (f : Gen)
  /-- FMA (R209). -/
  | fma (f : Gen)
  /-- FDIV (R209). -/
  | fdiv (f : Gen)
  /-- FSQRT (R209). -/
  | fsqrt (f : Gen)
  /-- FRCP (R209). -/
  | frcp (f : Gen)
  /-- FRSQ (R209). -/
  | frsq (f : Gen)
  /-- FEX2 (R209). -/
  | fex2 (f : Gen)
  /-- FLG2 (R209). -/
  | flg2 (f : Gen)
  /-- FMIN (R210). -/
  | fmin (f : Gen)
  /-- FMAX (R210). -/
  | fmax (f : Gen)
  /-- FCMP (R211). -/
  | fcmp (f : Gen)
  /-- FCVT (R212). -/
  | fcvt (f : Gen)
  /-- FCLS (R213). -/
  | fcls (f : Gen)
  /-- FRND (R214). -/
  | frnd (f : Gen)
  /-- VSPL (R216). -/
  | vspl (f : Gen)
  /-- VPRM (R217). -/
  | vprm (f : Gen)
  /-- VEXT (R218). -/
  | vext (f : Gen)
  /-- VINS (R218). -/
  | vins (f : Gen)
  /-- VRED (R221). -/
  | vred (f : Gen)
  /-- VSCN (R221). -/
  | vscn (f : Gen)
  /-- VSEL (R219). -/
  | vsel (f : Gen)
  /-- VMSK (R220). -/
  | vmsk (f : Gen)
  /-- VQNT (R222). -/
  | vqnt (f : Gen)
  /-- VDQN (R223). -/
  | vdqn (f : Gen)
  /-- VTAG (R224). -/
  | vtag (f : Gen)
  /-- VPACK (R227). -/
  | vpack (f : Gen)
  /-- VUNPK (R229). -/
  | vunpk (f : Gen)
  /-- VPMUL (R228). -/
  | vpmul (f : Gen)
  /-- VRAND (R225). -/
  | vrand (f : Gen)
  /-- XSHF (R231). -/
  | xshf (f : Gen)
  /-- XBRD (R232). -/
  | xbrd (f : Gen)
  /-- XRED (R233). -/
  | xred (f : Gen)
  /-- XSCN (R233). -/
  | xscn (f : Gen)
  /-- XVOT (R234). -/
  | xvot (f : Gen)
  /-- XUNI (R235). -/
  | xuni (f : Gen)
  /-- LD (R258). -/
  | ld (f : Mem)
  /-- ST (R259). -/
  | st (f : Mem)
  /-- LDV (R260). -/
  | ldv (f : Mem)
  /-- STV (R260). -/
  | stv (f : Mem)
  /-- GATH (R261). -/
  | gath (f : Mem)
  /-- SCAT (R261). -/
  | scat (f : Mem)
  /-- AADD (R263). -/
  | aadd (f : Mem)
  /-- AMIN (R263). -/
  | amin (f : Mem)
  /-- AMAX (R263). -/
  | amax (f : Mem)
  /-- AAND (R263). -/
  | aand (f : Mem)
  /-- AOR (R263). -/
  | aor (f : Mem)
  /-- AXOR (R263). -/
  | axor (f : Mem)
  /-- AXCH (R263). -/
  | axch (f : Mem)
  /-- ACAS (R263). -/
  | acas (f : Mem)
  /-- AFAD (R263). -/
  | afad (f : Mem)
  /-- TDSC (R286). -/
  | tdsc (f : Gen)
  /-- TFCH (R287). -/
  | tfch (f : Gen)
  /-- TEVC (R287). -/
  | tevc (f : Gen)
  /-- TMOV (R288). -/
  | tmov (f : Gen)
  /-- TACC (R289). -/
  | tacc (f : Gen)
  /-- TSET (R289). -/
  | tset (f : Mem)
  /-- TGET (R289). -/
  | tget (f : Mem)
  /-- TCMP (R289). -/
  | tcmp (f : Gen)
  /-- TLOG_COMPACT (R290). -/
  | tlogCompact (f : Gen)
  /-- TLOG_APPLY (R290). -/
  | tlogApply (f : Gen)
  /-- TLOG_DISCARD (R290). -/
  | tlogDiscard (f : Gen)
  /-- TLOG_QUERY (R290). -/
  | tlogQuery (f : Gen)
  /-- CPY (R291). -/
  | cpy (f : Gen)
  /-- CPY_SNAP (R281). -/
  | cpySnap (f : Gen)
  /-- CWT (R292). -/
  | cwt (f : Gen)
  /-- RLQ (R293). -/
  | rlq (f : Gen)
  /-- GRD (R329). -/
  | grd (f : Gen)
  /-- JOB (R330). -/
  | job (f : Gen)
  /-- JWT (R331). -/
  | jwt (f : Gen)
  /-- JRS (R332). -/
  | jrs (f : Gen)
  /-- ACZ (R333). -/
  | acz (f : Gen)
  /-- ACS (R334). -/
  | acs (f : Gen)
  /-- ACL (R334). -/
  | acl (f : Gen)
  /-- EXT (R335). -/
  | ext (f : Gen)
  /-- SBA (R336). -/
  | sba (f : Gen)
  /-- SBW (R336). -/
  | sbw (f : Gen)
  /-- BARA (R361). -/
  | bara (f : Gen)
  /-- BARW (R361). -/
  | barw (f : Gen)
  /-- BAR (R361). -/
  | bar (f : Gen)
  /-- BARQ (R362). -/
  | barq (f : Gen)
  /-- CINC (R363). -/
  | cinc (f : Gen)
  /-- CWAIT (R365). -/
  | cwait (f : Gen)
  /-- CSET (R364). -/
  | cset (f : Gen)
  /-- CDCL (R366). -/
  | cdcl (f : Gen)
  /-- FENCE (R356). -/
  | fence (f : Gen)
  /-- FLD (R379). -/
  | fld (f : Gen)
  /-- FST (R380). -/
  | fst (f : Gen)
  /-- FATM (R380). -/
  | fatm (f : Gen)
  /-- QPST (R384). -/
  | qpst (f : Gen)
  /-- QARM (R384). -/
  | qarm (f : Gen)
  /-- COLL (R386). -/
  | coll (f : Gen)
  /-- CWD_QUERY (R391). -/
  | cwdQuery (f : Gen)
  /-- CWD_EXTEND (R391). -/
  | cwdExtend (f : Gen)
  /-- PENT (R381). -/
  | pent (f : Gen)
  /-- TRAP (R423). -/
  | trap (f : Gen)
  /-- RTT (R400). -/
  | rtt (f : Gen)
  /-- SRD (R425). -/
  | srd (f : Gen)
  /-- SWR (R425). -/
  | swr (f : Gen)
  /-- ICINV (R426). -/
  | icinv (f : Gen)
  /-- BKPT (R423). -/
  | bkpt (f : Gen)
  /-- EVT (R427). -/
  | evt (f : Gen)
  /-- CAUS (R428). -/
  | caus (f : Gen)
  /-- CAUS_NEW (R428). -/
  | causNew (f : Gen)
  /-- HALT (R423). -/
  | halt (f : Gen)
  /-- GLCH (R429). -/
  | glch (f : Gen)
  /-- KILL (R429). -/
  | kill (f : Gen)
  /-- TAIL_WRITE (R58). -/
  | tailWrite (q : Nat) (v : Option Word)
  /-- PACKET_NOP (R61). -/
  | packetNop (q : Nat)
  /-- PACKET_GRAPH (R64). -/
  | packetGraph (q : Nat)
  /-- PACKET_SIGNAL (R61). -/
  | packetSignal (q : Nat)
  /-- PACKET_WAIT (R61). -/
  | packetWait (q : Nat)
  /-- WAIT_PACKET_RELEASE (R61). -/
  | waitPacketRelease (q : Nat)
  /-- PACKET_MARKER (R61). -/
  | packetMarker (q : Nat)
  /-- NODE_KERNEL (R45). -/
  | nodeKernel (gi : Nat)
  /-- NODE_COPY (R37). -/
  | nodeCopy (gi : Nat)
  /-- NODE_COLLECTIVE (R446). -/
  | nodeCollective (gi : Nat)
  /-- NODE_JOIN (R37). -/
  | nodeJoin (gi : Nat)
  /-- NODE_CONDITIONAL (R40). -/
  | nodeConditional (gi : Nat)
  /-- NODE_LOOP (R41). -/
  | nodeLoop (gi : Nat)
  /-- NODE_EVENT (R37). -/
  | nodeEvent (gi : Nat)
  /-- NODE_END (R42). -/
  | nodeEnd (gi : Nat)
  /-- NODE_DONE (R64). -/
  | nodeDone (gi : Nat) (node : Nat)
  /-- DEADLINE (R43). -/
  | deadline (launch : Nat)
  /-- CASTON_ATTEMPT (R89). -/
  | castonAttempt (agent : Nat)
  /-- RESERVE (R90). -/
  | reserve (agent : Nat)
  /-- RESERVE_REPLY (R90). -/
  | reserveReply (agent : Nat)
  /-- COMMIT (R90). -/
  | commit (agent : Nat)
  /-- RELEASE (R90). -/
  | release (agent : Nat)
  /-- COMMIT_WINDOW_LAPSE (R91). -/
  | commitWindowLapse (agent : Nat)
  /-- SKEIN_SAVED (R403). -/
  | skeinSaved (skein : Nat)
  /-- ICACHE_FILL (R124): one 32-byte sector of a line, by its address. -/
  | icacheFill (core ctx : Nat) (sector : Word) (ue : Bool)
  /-- YIELD_EXPIRY (R167). -/
  | yieldExpiry (core slot : Nat)
  /-- BREAKPOINT_HIT (R414). -/
  | breakpointHit (core slot : Nat)
  /-- SINGLE_STEP_TRAP (R419). -/
  | singleStepTrap (core slot : Nat)
  /-- PARKED_ACCESS_RESUME (R252). -/
  | parkedAccessResume (core slot : Nat)
  /-- FAULT_RETRY (R250). -/
  | faultRetry (id : Nat)
  /-- SECTOR_COMPLETE (R270). -/
  | sectorComplete (op : Nat)
  /-- TILE_FETCH (R287). -/
  | tileFetch (op : Nat)
  /-- TILE_EVICT (R287). -/
  | tileEvict (op : Nat)
  /-- TMOV_COMPLETE (R288). -/
  | tmovComplete (op : Nat)
  /-- TLOG_COMPLETE (R290). -/
  | tlogComplete (op : Nat)
  /-- SNAPSHOT_COPY_START (R281). -/
  | snapshotCopyStart (op : Nat)
  /-- COPY_DONE (R291). -/
  | copyDone (op : Nat)
  /-- DEPTH_STEP (R307). -/
  | depthStep (core : Nat)
  /-- SBW_GATE_OPEN (R336). -/
  | sbwGateOpen (core : Nat)
  /-- TILE_EXTRACT (R336). -/
  | tileExtract (core : Nat)
  /-- ENGINE_STOP (R314). -/
  | engineStop (core : Nat) (code : BitVec 8)
  /-- FABRIC_READ (R379). -/
  | fabricRead (p : Packet)
  /-- FABRIC_READ_RESPONSE (R379). -/
  | fabricReadResponse (p : Packet)
  /-- FABRIC_WRITE (R380). -/
  | fabricWrite (p : Packet)
  /-- FABRIC_ATOMIC (R380). -/
  | fabricAtomic (p : Packet)
  /-- FABRIC_WRITE_REDUCE (R383). -/
  | fabricWriteReduce (p : Packet)
  /-- FABRIC_SIGNAL (R383). -/
  | fabricSignal (p : Packet)
  /-- FABRIC_ACK (R383). -/
  | fabricAck (p : Packet)
  /-- FABRIC_NACK (R374). -/
  | fabricNack (p : Packet)
  /-- FABRIC_CHUNK (R387). -/
  | fabricChunk (p : Packet)
  /-- FABRIC_READY (R387). -/
  | fabricReady (p : Packet)
  /-- FABRIC_BARRIER_ARRIVAL (R390). -/
  | fabricBarrierArrival (p : Packet)
  /-- FABRIC_CONTROL (R77). -/
  | fabricControl (p : Packet)
  /-- FLD_REPLY_TIMEOUT (R379). -/
  | fldReplyTimeout (req : Nat)
  /-- FABRIC_TIMEOUT (R380). -/
  | fabricTimeout (req : Nat)
  /-- REPLY_ABANDON (R433). -/
  | replyAbandon (req : Nat)
  /-- READY_RESEND (R387). -/
  | readyResend (coll : Nat)
  /-- REDUCE_PANEL (R387). -/
  | reducePanel (coll : Nat)
  /-- COLL_LATE (R389). -/
  | collLate (coll : Nat)
  /-- DEBUG_STOP (R416). -/
  | debugStop (skein : Nat) (hit : StopHit)
  /-- COURSE_RETIRED (R432). -/
  | courseRetired (core slot : Nat)
  /-- SKEIN_BOUND_OFF (R435). -/
  | skeinBoundOff (skein : Nat)
  /-- DATUM_ARRIVAL (R258). -/
  | datumArrival (id : Nat)
  /-- DEPARTURE_REPORT (R390). -/
  | departureReport (p : Packet)
  /-- PC_SAMPLE (R155). -/
  | pcSample (core partition : Nat)
  /-- SEAL (R444). -/
  | seal (ctx : Nat) (addr : Word)
  /-- QUEUE_LOST (R60). -/
  | queueLost (q : Nat)
  /-- FAILOVER (R23). -/
  | failover (ecc : Bool)
  /-- HEARTBEAT (R23). -/
  | heartbeat (arrives : Bool)
  /-- THERMAL_TRIP (R15). -/
  | thermalTrip (t : Int)
  /-- THERMAL_CEILING_RISE (R15). -/
  | thermalCeilingRise (t : Int)
  /-- THERMAL_CEILING_FALL (R15). -/
  | thermalCeilingFall (t : Int)
  /-- THERMAL_EXCURSION_END (R27). -/
  | thermalExcursionEnd (t : Int)
  /-- PACKET_RELAY (R373). -/
  | packetRelay (p : Packet)
  /-- CONTEXT_KILL (R401). -/
  | contextKill (ctx : Nat) (reason : BitVec 4)
  /-- ATTACH (R452). -/
  | attach (target : AttachTarget)
  /-- DETACH (R413). -/
  | detach (skein : Nat)
  /-- STOP (R413). -/
  | stop (skein : Nat)
  /-- RESUME (R413). -/
  | resume (skein : Nat)
  /-- STEP_COURSE (R418). -/
  | stepCourse (core slot : Nat)
  /-- STEP_PHASE (R418). -/
  | stepPhase (core pslot : Nat)
  /-- DEBUG_READ (R413). -/
  | debugRead (skein off len : Nat)
  /-- DEBUG_WRITE (R413). -/
  | debugWrite (skein off : Nat) (bytes : List Byte)
  /-- DEBUG_ICINV (R413). -/
  | debugIcinv (skein : Nat) (base : Word) (len : Nat)
  /-- CXL_MEM_WRITE (R248). -/
  | cxlMemWrite (addr : Nat) (bytes : List Byte)
  /-- VERIFY (R445). -/
  | verify (ctx : Nat) (shards : List Word) (job : BitVec 128) (result : Word)
  /-- POWER_ON (R17). -/
  | powerOn (b : BootInputs)
  /-- DEVICE_RESET (R74). -/
  | deviceReset (b : BootInputs)
  /-- MANAGEMENT_REGISTER_WRITE (R51). -/
  | managementRegisterWrite (r : Requester) (off : Nat) (size : Nat) (v : Word)
  /-- DOMAIN_WRITE (R52). -/
  | domainWrite (r : Requester) (v : Word)
  /-- CONTEXT_ENTRY_WRITE (R54). -/
  | contextEntryWrite (r : Requester) (id : Nat) (e : ContextEntry)
  /-- QUEUE_STATE_OFF (R60). -/
  | queueStateOff (r : Requester) (q : Nat)
  /-- QUEUE_STATE_RUN (R57). -/
  | queueStateRun (r : Requester) (q : Nat)
  /-- REGION_FENCE_WRITE (R56). -/
  | regionFenceWrite (r : Requester) (region : Nat) (v : Word32)
  /-- FIRN_GEOMETRY_WRITE (R71). -/
  | firnGeometryWrite (r : Requester) (reg : FirnReg) (v : Word)
  /-- FIRN_ENABLE (R71). -/
  | firnEnable (r : Requester)
  /-- FIRN_DISABLE (R71). -/
  | firnDisable (r : Requester)
  /-- FABRIC_ACCESS_TABLE_WRITE (R377). -/
  | fabricAccessTableWrite (idx : Nat) (e : FatEntry)
  /-- LINK_DOWN (R370). -/
  | linkDown (peer : Nat)
  /-- LINK_UP (R370). -/
  | linkUp (peer : Nat)
  /-- SRAM_UE (R412). -/
  | sramUe (place : UeWhere)
  /-- ICACHE_SOFT_ERROR (R125). -/
  | icacheSoftError (core ctx : Nat) (line : Word) (slot : Nat)
  /-- GRANDMASTER_MESSAGE (R77). -/
  | grandmasterMessage (offset : Int)
  /-- RESERVED_KIND_PACKET (R371). -/
  | reservedKindPacket (p : Packet)
  /-- POWER_LOSS (R18). -/
  | powerLoss (vaux : Bool)
  /-- JUNCTION_BELOW_80C (R16). -/
  | junctionBelow80c (t : Int) (b : BootInputs)
  /-- LIFEIDX_CLEAR (R28). -/
  | lifeidxClear (r : Requester) (idx : BitVec 8)
  /-- LIFEIDX_SELECT (R28). -/
  | lifeidxSelect (r : Requester) (idx : BitVec 8)
  /-- ATTESTATION_REPORT (R22). -/
  | attestationReport (nonce : BitVec 384)
  /-- LIVE_UPDATE (R24). -/
  | liveUpdate (img : FirmwareImage)
  /-- DROOP_EXCURSION (R14). -/
  | droopExcursion (rail : Rail) (gt : Nat)
  /-- VCORE_CURRENT_SAMPLE (R14). -/
  | vcoreCurrentSample (amps : Nat)
  /-- CLOCK_REDUCTION (R14). -/
  | clockReduction
  /-- CLOCK_RAISE (R14). -/
  | clockRaise
  /-- POWER_UP_COMMAND (R16). -/
  | powerUpCommand (b : BootInputs)
  /-- UPDATE_DONE (R24). -/
  | updateDone
  /-- UPDATE_ABANDONED (R26). -/
  | updateAbandoned
  /-- AFFINE_ATTEMPT (R87). -/
  | affineAttempt
  /-- DRAIN_START (R95). -/
  | drainStart
  /-- PREEMPT_REQUEST (R96). -/
  | preemptRequest
  /-- SYNC_INTERVAL (R77). -/
  | syncInterval
  /-- TRIGGER (R420). -/
  | trigger
  /-- CXL_LINK_RETRAIN (R27). -/
  | cxlLinkRetrain
  deriving DecidableEq, Repr

end Sys2Proof
end

