-- ==== Sys2Proof/Config.lean ====
section
/-! DEFINITION. What one W9 fixes and the spec does not: constants of the implementation and the free values. An `opaque`
here has no body, so no proof can learn its value. -/
namespace Sys2Proof.Config

/-- Bytes of LPDDR6 fitted, before the limit of R4 (free; log 12). -/
opaque lpddrFitted : Nat

/-- Installed LPDDR6: at most 1 TiB (R4, R243). -/
def lpddrBytes : Nat := min lpddrFitted (2 ^ 40)

/-- HBM4E: 512 GiB (R4, R243). -/
def hbmBytes : Nat := 2 ^ 39

/-- Bytes of one die scratchpad: 6 MiB (R4, R243). -/
def dieBytes : Nat := 6 * 2 ^ 20

/-- Bytes of one scratchpad granule (R240). -/
def granuleBytes : Nat := 131072

/-- H-die serial number, 48 bits (R22, R52). -/
opaque hdieSerial : BitVec 48

/-- C-die serial numbers (R22). -/
opaque cdieSerial : Nat → BitVec 48

/-- IDENT[15:0]: build and stepping (R52). -/
opaque buildStepping : BitVec 16

/-- The fused security version (R21). -/
opaque fusedVersion : Nat

/-- Whether an image's ECDSA P-384 signature verifies against the fused vendor key hash (R21). -/
opaque signatureValid : List Byte → BitVec 768 → Bool

/-- The signature the device identity key makes over a SHA-384 digest (R22); the private half never leaves the H-die. -/
opaque identitySign : BitVec 384 → BitVec 768

/-- Report version and length in bytes 0x000 to 0x00F of an attestation report: the spec gives no encoding (R22). -/
opaque reportHeader : Nat → Half → BitVec 128

/-- The SHA-384 hash of the boot ROM, which the spec does not give (R21). -/
opaque bootRomHash : BitVec 384

/-- A value the spec leaves open, fresh at each count (log 3). -/
opaque freeWord : Nat → Word

/-- How an engine's queue depth, current cause and deadline stand in a snapshot: the spec gives no layout (R420, log 32). -/
opaque packEngine (depth cause deadline : Nat) : BitVec 256

/-- How the waiting barriers and counters stand in a snapshot: the spec gives no layout (R420, log 32). -/
opaque packSync (barriers : List Nat) (counters : List Nat) : BitVec 256

/-- How a port's queue occupancy and marks stand in a snapshot: the spec gives no layout (R420, log 32). -/
opaque packPort (occupancy marks : Nat) : BitVec 256

/-- How many of the packets that a port has been given are still in its queue, by their number: the spec gives no rate (R420, log 32). -/
opaque portQueued : Nat → Nat

/-- Whether the trace port can still take a record while n records wait for it: the spec gives no depth (R421, log 8). -/
opaque tracePortTakes : Nat → Bool

/-- Whether the operator masks PRIV payloads at the trace port: the spec gives no register for it (R421, log 8). -/
opaque tracePortMasks : Bool

/-- The copy engine that carries an operation: the spec gives no number of engines (R68, R295, log 3). -/
opaque copyEngine : Nat → BitVec 12

/-- Whether a port's output queue is more than three quarters full when the n-th packet joins it: the spec gives no depth (R374, log 3). -/
opaque portFull : Nat → Bool

end Sys2Proof.Config
end

