-- ==== Sys2Proof/Machine/State.lean ====
section
/-! DEFINITION. The state of the W9 as plain data, the reasons a step can stop, and the machine right after reset. -/
namespace Sys2Proof.Machine

/-- Why the machine stops. -/
inductive Fault where
  /-- Raised by the meaning of a coded instruction when no course or sequencer is issuing (focus `none` or naming a unit that
  is not there). The step never calls a meaning so. Safe: only a call of `exec` outside a step meets it. -/
  | noIssuer
  deriving DecidableEq, Repr

/-- Why an instruction has no meaning here. -/
inductive Refusal where
  /-- Raised by a row of the opcode table that has no meaning yet. Safe: nothing can be proved of a step that refuses. -/
  | notModelled (mnemonic : String)
  deriving DecidableEq, Repr

/-- A sparse table: entries in strictly rising key order. -/
abbrev KMap (α : Type) := List (Nat × α)

/-- One memory: the listed bytes in strictly rising address order, none equal to the byte an unlisted address reads as. -/
abbrev Memory := List Host.Cell

/-- The memories that are homes (R243): the target of a leaf entry, or the granules of the cores. -/
inductive Store where
  | hbm | lpddr | host | die | unit
  deriving DecidableEq, Repr

/-- A home location: unit addresses are core × 2^21 + granule × 2^17 + position, die addresses die × 2^23 + offset. -/
structure Loc where
  store : Store
  addr  : Nat
  deriving DecidableEq, Repr

/-! ## Strands, courses and panels -/

/-- A return-stack entry (R151, R152). -/
structure RetEntry where
  pc   : Word
  prio : Half
  n    : Nat
  deriving DecidableEq, Repr

/-- A vector register: bits, tag and exponent word (R196, R200). -/
structure VReg where
  bits : Vec
  tag  : BitVec 5
  exps : Word
  deriving DecidableEq, Repr

/-- A per-strand register that an asynchronous write keeps pending (R142). -/
inductive Pend where
  | pos (n : Nat) | k (i : Nat) | v (i : Nat) | p (i : Nat)
  deriving DecidableEq, Repr

/-- A strand's or sequencer's latest arrival at a barrier, with the phase it waits for (R345), and its cause, parent and time, by which a
phase that it opens or completes later is reported (R346, R369). -/
structure Arrival where
  level  : Nat
  number : Nat
  phase  : Word32
  cause  : Word32
  parent : Word32
  at_    : Nat
  deriving DecidableEq, Repr

/-- One strand (R31, R140, R149, R193, R396, R410). -/
structure Strand where
  k0      : Word
  k2      : Word
  stack   : KMap Word
  wb      : Nat
  low     : Nat
  depth   : Nat
  rstack  : List RetEntry
  v       : Vector VReg 8
  p       : BitVec 8
  fpstat  : BitVec 5
  tscr1   : Word
  tscr2   : Word
  pending : List Pend
  arrs    : List Arrival
  deriving DecidableEq, Repr

/-- Why a frontier entry is held at an instruction that it will issue again (R144, R155). -/
inductive Hold where
  | absentLine | tileLog | counter (n : Nat) | cwt | fence | icinv | fault | parked | lockFull
  deriving DecidableEq, Repr

/-- What a frontier entry waits for; an entry that has issued an instruction that is not complete takes no merge (R144), but
for RTT, which completes by merging (R400). `barrier` waits until PHASE passes `phase`; `again` waits for the event that lets the
instruction issue again, which makes it `retry`, or `recheck` for a CWAIT, which is still pending on its counter (R353). -/
inductive Wait where
  | none
  | barrier (level number : Nat) (phase : Word32)
  | rtt
  | remote
  | again (why : Hold)
  | retry
  | recheck (counter : Nat)
  deriving DecidableEq, Repr

/-- A frontier entry with its spin record (R143, R146, R409): the recorded PC and fold, the fold since the last backward transfer
and the flag A. -/
structure Entry where
  pc      : Word
  prio    : Half
  mask    : BitVec 16
  demoted : Bool
  wait    : Wait
  spinPc  : Word
  spinF   : Word
  spinAcc : Word
  spinA   : Bool
  deriving DecidableEq, Repr

/-- The per-course trap registers of one level (R396). -/
structure TrapBank where
  tcause : Word
  tpc    : Word
  tval   : Word
  tmask  : Word
  tprio  : Word
  deriving DecidableEq, Repr

/-- A barrier and what its awaited-party record needs (R342 to R346). `arrived` and `departed` name parties: lanes, courses
(8 the sequencer), panels or skein indices; `devArrived` and `devDeparted` name devices, one occurrence per arrival that has come in and
is not yet counted in a completed phase, with the cause its packet carried; `told` says that the joined devices were told of this phase's local arrival (R390). -/
structure Barrier where
  seq         : Bool
  joined      : Bool
  joinMask    : BitVec 16
  phase       : Word32
  fstamp      : BitVec 48
  fcause      : Word32
  expect      : Nat
  arrived     : List Nat
  departed    : List Nat
  devArrived  : List (Nat × Word32)
  devDeparted : List Nat
  told        : Bool
  deriving DecidableEq, Repr

/-- A course (R29, R397, R409, R414 to R419, R428). `ccause` 0 means the skein's own cause; `cparent` is the parent of a
cause set by CAUS; `exitAt` is the time of exit (R440); `touched`: a debugger
has changed its state since it stopped (R399, R415); `orphan` keeps the context, cause and parent of a torn-down course that
waits to retire (R433). -/
structure Course where
  skein     : Nat
  pslot     : Nat
  f2        : Nat
  f1        : Nat
  kreg      : Vector Word 8
  strands   : Vector Strand 16
  present   : BitVec 16
  fr0       : List Entry
  fr1       : List Entry
  fr2       : List Entry
  level     : Fin 3
  tl1       : TrapBank
  tl2       : TrapBank
  sstep     : Bool
  bps       : Vector Word 4
  stopRec   : Word
  ccause    : Word32
  cparent   : Word32
  entropy   : Byte
  fmode     : BitVec 2
  asyncOut  : Nat
  barriers  : Vector Barrier 4
  started   : Bool
  stopped   : Bool
  passAt    : Option Word
  resumed   : Bool
  touched   : Bool
  stepFree  : Bool
  notify    : Option Word
  yielding  : Nat
  staged    : BitVec 24
  abandoned : Nat
  exitAt    : Nat
  orphan    : Option (Nat × Word32 × Word32)
  deriving DecidableEq, Repr

/-- A tile handle (R287, R408). -/
structure Handle where
  tile    : BitVec 10
  tag     : BitVec 5
  bound   : Bool
  pending : Bool
  deriving DecidableEq, Repr

/-- An SBA or SBW gate (R316, R336). -/
structure Gate where
  sbw     : Bool
  barrier : Nat
  tile    : Nat
  deriving DecidableEq, Repr

/-- A watchpoint and the home bytes it was translated to when written (R417). -/
structure Watch where
  base : Word
  ctl  : Word
  home : List (Loc × Nat)
  deriving DecidableEq, Repr

/-- What a sequencer waits for (R317, R319, R329 to R336, R345, R367). -/
inductive SeqWait where
  | none
  | again
  | barrier (number : Nat) (phase : Word32)
  deriving DecidableEq, Repr

/-! ## The product engine -/

/-- A job card of 128 bytes (R321). -/
abbrev Card := BitVec 1024

/-- The extraction of one output tile in progress (R311, R325, R335): the digits, scale and masks it turns into elements, the
card it follows, the destination (or base element index), and `cursor`: destination sectors below it, or elements before it, are done.
`op` holds an EXT's ranges; `byExt` is an EXT, `clr` its CLR, `card0` its card's address and `cause` its own cause. -/
structure Extract where
  tile     : Nat
  card     : Card
  x        : Nat
  digits   : KMap Int
  exp      : Int
  maskr    : BitVec 256
  maskc    : BitVec 256
  cursor   : Nat
  started  : Nat
  pslot    : Nat
  cause    : Word32
  op       : Nat
  byExt    : Bool
  clr      : Bool
  deriving DecidableEq, Repr

/-- A loaded job (R324, R330): its card, cause, attached gates (an SBW gate with the phase that must have completed), its counts,
the times of its start and of its output tile's first step, the time waited for the tile (R339), and whether its walk has ended.
`stopReq` is a stop that takes place when the extraction in progress has completed. -/
structure Job where
  card      : Card
  addr      : Word
  cause     : Word32
  pslot     : Nat
  sba       : List Gate
  sbw       : List (Gate × Word32)
  op        : Nat
  tiles     : Nat
  startGt   : Nat
  tileStart : Nat
  waited    : Nat
  waitFrom  : Option Nat
  stopReq   : Option Nat
  walked    : Bool
  deriving DecidableEq, Repr

/-- A product engine (R312): digits are listed by half × 65,536 + row × 256 + column, zero when unlisted. -/
structure Engine where
  digits  : KMap Int
  erow    : Word32
  ecol    : Word32
  edep    : Word32
  eloop   : Vector Half 5
  eacc    : Word32
  emaskr  : BitVec 256
  emaskc  : BitVec 256
  eloss   : Word32
  estat   : Word32
  owner   : Option Nat
  waiters : List Nat
  job     : Option Job
  extract : Option Extract
  deriving DecidableEq, Repr

/-- A panel with its uniform sequencer (R316, R317, R408). `efDetail` is the detail of the fault in EFAULT; `ending`: a trap return
ends the sequencer as EXIT does (R400); `held` is the engine state of a restored panel that waits to own its engine (R405). -/
structure Panel where
  skein     : Nat
  f2        : Nat
  handles   : Vector Handle 16
  barriers  : Vector Barrier 16
  watches   : Vector Watch 4
  hasStream : Bool
  spc       : Word
  m         : Vector Word 16
  gates     : List Gate
  own       : Bool
  efAddr    : Word
  efCause   : Byte
  efDetail  : Byte
  run       : BitVec 2
  swait     : SeqWait
  sarrs     : List Arrival
  sstarted  : Bool
  stopped   : Bool
  ending    : Bool
  held      : Option Engine
  image     : Option Nat
  deriving DecidableEq, Repr

/-- A cached instruction line with its marks (R123, R124). -/
structure IcLine where
  ctx   : Nat
  line  : Word
  bits  : LineBits
  lbad  : Bool
  sbad  : BitVec 5
  deriving DecidableEq, Repr

/-- A range-lock table entry (R283, R293). -/
structure Lock where
  base   : Word
  len    : Nat
  dst    : Bool
  issuer : BitVec 2
  op     : Nat
  deriving DecidableEq, Repr

/-- A granule that is not free (R85): held by a resident skein, or saved in place with the member and the index in allocation order that
its bytes are the image of. -/
inductive Granule where
  | held (skein : Nat)
  | saved (skein member index : Nat)
  deriving DecidableEq, Repr

/-- One core's shared units. Locks are the 32 numbered entries; icache lines are most recently used first; `filling` are the fills that have
read their first sector, by context and line (R124). -/
structure Core where
  icache   : List IcLine
  filling  : List (Nat × Word × BitVec 256)
  locks    : KMap Lock
  granules : KMap Granule
  engine   : Engine
  deriving DecidableEq, Repr

/-! ## Work: contexts, queues, graphs, launches and skeins -/

/-- A context: its table entry, and whether it is killed (R401). -/
structure Context where
  entry  : ContextEntry
  killed : Bool
  deriving DecidableEq, Repr

/-- A launch queue (R57): its table entry, the tail the launcher last read, the packet at its head when the launcher has read it (none
where that read faulted), and the device counter and value a WAIT packet at its head waits for (R58, R61). -/
structure Queue where
  qbase    : Word
  tailaddr : Word
  headaddr : Word
  ctx      : Half
  log2size : Byte
  qclass   : Byte
  state    : Byte
  head     : Word
  tail     : Word
  packet   : Option (Option Nat)
  waiting  : Option (Nat × Word)
  deriving DecidableEq, Repr

/-- A node that is running or has finished and is not yet reported, as the walker read it (R64): `held` says that a CONDITIONAL's test
held (R40). -/
structure NodeRun where
  node   : Nat
  cause  : Word32
  bits   : BitVec 512
  held   : Bool
  status : Option Byte
  op     : Option Nat
  deriving DecidableEq, Repr

/-- A loop between its evaluations, as the walker read it (R41). -/
structure LoopRun where
  trips : Nat
  cause : Word32
  bits  : BitVec 512
  deriving DecidableEq, Repr

/-- A graph instance in flight (R63 to R65). Arrival counts are the walker's own; it also writes them at INSTAREA, whose homes are `areaAt`.
`backs` counts the arrivals at a loop from its body (R41); `early` are the nodes that were ready when END fired (R42). -/
structure GraphRun where
  queue    : Nat
  ctx      : Nat
  entry    : ContextEntry
  gbase    : Word
  first    : Nat
  nnodes   : Nat
  area     : Word
  areaAt   : List (Loc × Nat)
  donesig  : Word
  doneaddr : Word
  cause    : Word32
  parent   : Word32
  counts   : KMap Nat
  ordinary : List Nat
  ready    : List Nat
  running  : List NodeRun
  loops    : KMap LoopRun
  backs    : KMap Nat
  early    : List Nat
  ended    : Bool
  failed   : Bool
  deriving DecidableEq, Repr

/-- A launch header as the launcher read it (R43, R44). -/
structure Header where
  entryPc   : Word
  stream    : Word
  shape     : Word
  e3        : Nat
  e4        : Nat
  e5        : Nat
  ttcount   : Nat
  ntens     : Nat
  affinity  : Word
  deadline  : Word
  ttbase    : Word
  statbuf   : Word
  trbase    : Word
  trsize    : Nat
  trctl     : Word32
  localbase : Word
  localsize : Nat
  entryprio : Half
  deriving DecidableEq, Repr

/-- A launch (R43, R75, R76, R205, R342). `bound` counts skeins bound off and `applied` the logs its retirement applied (R438); `stats` is keyed 3t + k, k being 0 SAT, 1 FLUSH, 2 NONFIN; `sampled` counts, per partition, the PC samples whose time has passed (R155). -/
structure Launch where
  run       : Nat
  node      : Nat
  ctx       : Nat
  entry     : ContextEntry
  hdr       : Header
  args      : Vector Word 5
  cause     : Word32
  parent    : Word32
  traced    : Bool
  stats     : KMap Nat
  sampled   : KMap Nat
  barriers  : Vector Barrier 4
  joins     : List Nat
  bound     : Nat
  applied   : Nat
  suspended : Option Word
  dropped   : Nat
  late      : Bool
  killed    : Bool
  attached  : Bool
  deriving DecidableEq, Repr

/-- A granule claimed from a saved skein whose bytes are still to be copied to its save area (R85, R403): the claiming skein and its core,
whose panels wait, with the cause and context of its record, the granule's number, and its place in the victim's image. -/
structure Claim where
  claimant : Nat
  core     : Nat
  number   : Nat
  member   : Nat
  index    : Nat
  cause    : Word32
  ctx      : Nat
  deriving DecidableEq, Repr

/-- Where a skein stands (R81, R85, R97, R402, R435). -/
inductive SkeinPhase where
  | queued | placed | saving | saved
  deriving DecidableEq, Repr

/-- A skein (R30, R31, R81, R85, R342). `granules` lists, per member core, the allocated granules in order; `blocked` waits for a change
of occupancy and `quota` for its context's gang usage to fall to a value (R87, R89, R93); `claims` are those made on its saved
granules.
`saveSlot` and `saveBase` name the save area, `asked` is the time of the pre-emption request, `inImage` lists the granules that have been
copied there, and `stashP` and `stashC` keep what its records do not hold. `homes` counts residences written home at bind-off. -/
structure Skein where
  launch    : Nat
  index     : Nat
  cause     : Word32
  parent    : Word32
  stamp     : Nat
  phase     : SkeinPhase
  cores     : List Nat
  granules  : List (List Nat)
  barriers  : Vector Barrier 8
  attempts  : Nat
  denials   : Nat
  nextTry   : Nat
  blocked   : Bool
  quota     : Option Nat
  placedAt  : Nat
  claims    : List Claim
  attached  : Bool
  stopped   : Bool
  saveSlot  : Nat
  saveBase  : Word
  stashP    : List Panel
  stashC    : List Course
  asked     : Nat
  inImage   : List (Nat × Nat)
  homes     : Nat
  deriving DecidableEq, Repr

/-- How far an attempt has come (R90, R91): the origin core, and for a reservation the time of its grant. `lapsed` is a grant that the
arbiter has dropped. -/
inductive Attempt where
  | holding
  | sent (origin : Nat)
  | granted (origin since : Nat)
  | denied (origin : Nat)
  | committing (origin since : Nat)
  | releasing (origin since : Nat)
  | lapsed (origin : Nat)
  deriving DecidableEq, Repr

/-- A skein held by a cast-on agent, 0 to 3, or in an attempt of the affine dispatcher, 4 (R87, R88). -/
structure Agent where
  agent : Nat
  skein : Nat
  state : Attempt
  deriving DecidableEq, Repr

/-- A drain rectangle, or one set aside by a pre-emption, for a head (R95, R96). -/
structure Drain where
  skein   : Nat
  cores   : List Nat
  preempt : Bool
  deriving DecidableEq, Repr

/-! ## Asynchronous work -/

/-- Who issued an asynchronous operation: a course or panel by its place in its skein, which a restoration keeps (R404, R406). -/
inductive Issuer where
  | course (skein p k : Nat)
  | panel (skein p : Nat)
  | node (run node : Nat)
  | device
  deriving DecidableEq, Repr

/-- What an asynchronous operation does (R283, R287 to R291, R327, R383, R37). -/
inductive OpKind where
  /-- TFCH: panel in the skein and handle, tile, RES word, destination base, image bytes, log entries applied. -/
  | fetch (p handle tile : Nat) (res : Word) (base : Word) (size applied : Nat) (mc : Bool)
  /-- TEVC: the residence that ends. -/
  | evict (tile : Nat) (res : Word) (size : Nat) (drop : Bool)
  | move (dtile stile : Nat) (tr pln : Bool) (rm : BitVec 2)
  | copy (src dst : Word) (len : Nat) (deadline : Word)
  | snap (tile : Nat) (dst : Word) (size : Nat) (started : Bool)
  | log (tile : Nat) (act : BitVec 2)
  /-- A granule of a restored skein that is filled line by line (R405): where its bytes or line marks stand, where they go, and the offset
  in the save image that the bytes come from, none for a granule still in place. -/
  | refill (src dst : Nat) (image : Option Nat)
  /-- A work entry (R382) being executed. -/
  | entry (bits : BitVec 512) (sent : Bool)
  /-- A collective's ranges (R283). -/
  | coll (cause : Word32)
  /-- A product job's ranges (R327). -/
  | job (core : Nat)
  deriving DecidableEq, Repr

/-- An accepted asynchronous operation. `signal` is the device counter, its number in the quota and the increment; `cursor` is the next sector; `done` the condition that every sector has completed. -/
structure Op where
  kind    : OpKind
  ctx     : Nat
  launch  : Option Nat
  skein   : Option Nat
  issuer  : Issuer
  core    : Nat
  cause   : Word32
  parent  : Word32
  signal  : Option (Nat × Nat × Word)
  cursor  : Nat
  started : Nat
  moved   : Nat
  doneAt  : Nat
  waiting : Bool
  fault   : Option Nat
  deriving DecidableEq, Repr

/-- A tile directory entry (R266): the physical home range in pieces (offset in the image, place, length); `skein` is the skein
whose granules hold a residence in unit scratchpad or window; `base` is the address by which TFCH named a die residence, whose RES
holds only its place (R242, R265, R284); `inAt` and `inDur` are the start and length of its copy-in (R436). -/
structure DirEntry where
  launch   : Nat
  skein    : Option Nat
  tile     : Nat
  home     : List (Nat × Loc × Nat)
  evicting : Bool
  base     : Word
  inAt     : Nat
  inDur    : Nat
  deriving DecidableEq, Repr

/-- Why a scratchpad line is absent (R252). -/
inductive Absent where
  /-- A transfer writes the line: the operations that cover it and have not completed its sectors (R270). -/
  | incoming (ops : List Nat)
  | restore (skein : Nat)
  | poisoned
  deriving DecidableEq, Repr

/-- A load's datum on its way (R142, R258). -/
structure Datum where
  core  : Nat
  slot  : Nat
  lane  : Nat
  reg   : Pend
  value : VReg
  deriving DecidableEq, Repr

/-- Who is parked on an unresolved fault (R250, R280, R314, R399). -/
inductive FaultWho where
  | course (core slot : Nat) (pc : Word)
  | stream (core pslot : Nat)
  | op (id : Nat)
  | engine (core : Nat)
  deriving DecidableEq, Repr

/-- A fault on the host fault queue (R250): the table lines its walk read, when it was last tried, whether one of those lines has been
written since, and whether it is being tried again. -/
structure Parked where
  who    : FaultWho
  ctx    : Nat
  cause  : Word32
  parent : Word32
  addr   : Word
  detail : Byte
  core   : Byte
  slot   : BitVec 5
  issuer : Byte
  lines  : List Nat
  tried  : Nat
  due    : Bool
  again  : Bool
  deriving DecidableEq, Repr

/-- A declared signaller (R350, R353). -/
structure Decl where
  dev     : BitVec 4
  key     : Half
  expect  : BitVec 20
  arrived : BitVec 20
  deriving DecidableEq, Repr

/-- An armed work entry (R351, R384); `core` is the core of its course, which a restoration of the skein follows. -/
structure Armed where
  threshold : Word
  bits      : BitVec 512
  core      : Nat
  ctx       : Nat
  launch    : Option Nat
  skein     : Option Nat
  cause     : Word32
  parent    : Word32
  deriving DecidableEq, Repr

/-- A counter (R348, R353). -/
structure Counter where
  value  : Word
  gen    : Word32
  poison : Bool
  decl   : List Decl
  armed  : List Armed
  deriving DecidableEq, Repr

/-! ## Fabric and collectives -/

/-- A flow toward one device (R372, R375); `next` is an entropy and mode that wait to take effect. -/
structure FlowState where
  flow : Flow
  dev  : Nat
  seq  : Half
  ent  : Nat
  mode : BitVec 2
  next : Option (Nat × BitVec 2)
  deriving DecidableEq, Repr

/-- What a response to an outstanding request does. An FLD's reply is written to `reg` of the strands of `mask`. -/
inductive ReqKind where
  | fld (skein p k : Nat) (mask : BitVec 16) (reg : Reg) (size : Nat) (sx : Bool)
  | posted (skein p k : Nat)
  | entry (op : Nat) (last : Bool)
  | chunk (coll : Word32)
  | ready (coll : Word32) (pos : Nat)
  deriving DecidableEq, Repr

/-- How an outstanding request ended (R379). -/
inductive ReqEnd where
  | value (v : Word)
  | nack (reason detail : Byte)
  | timeout
  deriving DecidableEq, Repr

/-- An outstanding fabric request. -/
structure Req where
  kind   : ReqKind
  flow   : Flow
  dev    : Nat
  ctx    : Nat
  cause  : Word32
  parent : Word32
  laddr  : Word
  sent   : Nat
  packet : Packet
  ended  : Option ReqEnd
  deriving DecidableEq, Repr

/-- What a participant holds of one position of a collective (R387, R389, R391): `parts` are the bytes that have arrived of each chunk that is
not whole, under twice its number, and one more for a chunk of the result. -/
structure Position where
  ready  : Bool
  stage  : Word
  dst    : Word
  chunks : Nat
  result : Nat
  last   : Nat
  parts  : KMap Nat
  deriving DecidableEq, Repr

/-- A collective at this participant (R386 to R391). `counter` is the chunk counter; `sentTo` counts the packets sent: to each position,
then of the result to each position; `resend` lists what goes out again: when, to which device, and what. -/
structure Coll where
  cause    : Word32
  parent   : Word32
  ctx      : Nat
  launch   : Option Nat
  skein    : Option Nat
  issuer   : Issuer
  desc     : BitVec 1024
  deadline : Word
  issued   : Nat
  pos      : List Position
  counter  : Nat
  sentTo   : List Nat
  reduced  : Bool
  done     : Bool
  fired    : Bool
  late     : Nat
  lateSteps : Word32
  op       : Nat
  resend   : List (Nat × Nat × Body)
  deriving DecidableEq, Repr

/-! ## The device -/

/-- A boot record (R20). -/
abbrev BootRecord := BitVec 128

/-- Power, boot, control complexes and the always-on domain (R14 to R28): `sampleGt` is the time of the last current sample, `hotFirst` the
start of a thermal excursion (before 0 when a start came since), `heartAt` the time of the next heartbeat, `cxError` an uncorrectable error
in the active complex's instruction memory, `cxImage` the image each complex runs and `cxPrev` the one a live update replaced. -/
structure Device where
  powered     : Bool
  tripped     : Bool
  powerUpSeen : Bool
  clock       : Nat
  ceiling     : Nat
  samples     : List Nat
  sampleGt    : Nat
  overGt      : Nat
  underGt     : Nat
  junction    : Int
  hotGt       : Option Nat
  hotFirst    : Option Int
  coolGt      : Option Nat
  bootDone    : Byte
  bootFailed  : Byte
  recovery    : Bool
  ready       : Bool
  booting     : Option Byte
  bootNo      : Half
  curRecords  : List BootRecord
  prevRecords : List BootRecord
  measure     : Vector (BitVec 384) 4
  activeCx    : Bool
  missed      : Nat
  heartAt     : Nat
  cxError     : Bool
  cxImage     : Vector (Option FirmwareImage) 2
  cxPrev      : Option FirmwareImage
  updating    : Option FirmwareImage
  major       : BitVec 16
  minor       : BitVec 16
  life        : KMap Nat
  lifeIdx     : Byte
  selfRefresh : Bool
  firstBoot   : Bool
  repairMap   : List Nat
  deriving DecidableEq, Repr

/-- Global time, its discipline and the domain registers (R5, R52, R77, R78): the latest estimate of the offset, what of it is still to be
slewed away and the time counted toward the next unit of it, the lowest-numbered time master heard, and the time of the last sync
messages. Of the PTP messages: the next sequence number, the sync that a follow-up is to complete (device, sequence, time of receipt), the
peer delay request under way to each device (sequence, time sent, and of its response the peer's and the own time of receipt), and the
delay measured to each. -/
structure TimeState where
  gt          : Nat
  offset      : Int
  loaded      : Bool
  locked      : Bool
  inBand      : Nat
  outBand     : Nat
  unsync      : Bool
  slew        : Int
  slewAcc     : Nat
  master      : Option Nat
  lastSync    : Nat
  ptpSeq      : Half
  syncIn      : Option (Nat × Half × Nat)
  asking      : KMap (Half × Nat × Option (Nat × Nat))
  delays      : KMap Int
  domain      : Word
  nextDomain  : Option Word
  logsync     : BitVec 8
  deriving DecidableEq, Repr

/-- The trace port (R421): the records it has carried, two to a frame; until when those it has taken keep it busy; the records it could not
carry; and whether the next frame is to say how many. -/
structure TracePort where
  out   : List Record
  busy  : Nat
  drops : Nat
  owes  : Bool
  deriving DecidableEq, Repr

/-- The firn registers, the record stream of the trace network and the trace port (R55, R68 to R74, R421). -/
structure FirnState where
  base     : Word
  size     : Word
  opsz     : Word
  wp       : Nat
  drop     : Nat
  enabled  : Bool
  mark     : Bool
  dropping : List Half
  records  : List Record
  port     : TracePort
  msix     : List Nat
  deriving DecidableEq, Repr

/-- The management tables (R52 to R57, R377). -/
structure Tables where
  contexts : KMap Context
  queues   : KMap Queue
  fences   : KMap (BitVec 12)
  access   : KMap FatEntry
  deriving DecidableEq, Repr

/-- The memories behind global space and the granules (R243), the conditions of absent lines, and latent errors. -/
structure Memories where
  hbm    : Memory
  lpddr  : Memory
  host   : Memory
  die    : Memory
  unit   : Memory
  absent : List (Loc × Absent)
  bad    : List Loc
  deriving DecidableEq, Repr

/-- The launcher, the walker and the placement unit. `agents` lists the attempts and held skeins, earliest first, `agentFree` the time from
which each agent may take a skein, `handed` the time of the last launch handed over (R81, R448). `blocks` holds what each taker has left of its block of cause sequences:
the next and how many (R66); taker 0 is the launcher, 1 + c core c. `lastQueue` is, per QCLASS, one more than the queue last taken,
`takeAt` the time from which the launcher may accept another packet (R62). -/
structure WorkState where
  causeSeq : BitVec 28
  blocks   : KMap (Nat × Nat)
  runs     : KMap GraphRun
  launches : KMap Launch
  skeins   : KMap Skein
  agents   : List Agent
  agentFree : Vector Nat 5
  handed   : Nat
  head     : Option Nat
  headAt   : Nat
  drains   : List Drain
  nextId   : Nat
  lastQueue : Vector Nat 4
  takeAt   : Nat
  deriving DecidableEq, Repr

/-- Everything asynchronous: operations, the tile directory, counters, faults, data in flight, fabric, collectives. `down` lists the links
that do not work, by their ends, and `linkErrors` counts per port (R370, R371, R373). -/
structure AsyncState where
  ops      : KMap Op
  dir      : List DirEntry
  appends  : KMap (Nat × Nat × BitVec 128)
  counters : KMap Counter
  faults   : KMap Parked
  data     : KMap Datum
  flows    : List FlowState
  reqs     : KMap Req
  down     : List (Nat × Nat)
  expected : List (Nat × Flow × Byte × Half)
  early    : List Packet
  outbox   : List Packet
  linkErrors : KMap Nat
  colls    : KMap Coll
  deriving DecidableEq, Repr

/-- The debug channel and the snapshot trigger (R413 to R420, R452), the management interface's answers (R22): `stepping` is the panel
that is being stepped, by core and slot, with the course slot of a course step; `issued` is the course that issued last (`courseKey`) and
when (R155). -/
structure DebugState where
  attachNodes : List (Nat × Word × Nat)
  replies     : List (Bool × List Byte)
  pulled      : Option Nat
  snapshots   : List (Record × BitVec 256)
  stepping    : Option (Nat × Nat × Option Nat)
  issued      : Option (Nat × Nat)
  reports     : List (List Byte)
  ckptReplies : List Byte
  deriving DecidableEq, Repr

/-- Who is issuing the instruction that a meaning runs. -/
inductive Focus where
  | none
  | course (core slot : Nat)
  | stream (core pslot : Nat)
  deriving DecidableEq, Repr

/-- What one step does: a course issues, a sequencer issues, or an event of the part takes place. -/
inductive Turn where
  | course (core slot : Nat)
  | stream (core pslot : Nat)
  | event (i : Instr)
  deriving DecidableEq, Repr

/-- An agenda item: a turn and the least global time at which it happens. -/
structure Item where
  at_  : Nat
  turn : Turn
  deriving DecidableEq, Repr

/-- The whole device. `agenda`, `focus`, `rotor` (the unit that took the last turn) and `freeCount` are the model's own (logs 3 and 4). -/
structure State where
  dev       : Device
  time      : TimeState
  firn      : FirnState
  tables    : Tables
  mem       : Memories
  work      : WorkState
  cores     : KMap Core
  panels    : KMap Panel
  courses   : KMap Course
  async     : AsyncState
  dbg       : DebugState
  agenda    : List Item
  focus     : Focus
  rotor     : Nat × Nat
  freeCount : Nat
  deriving DecidableEq, Repr

/-! ## Values at start -/

def TrapBank.zero : TrapBank := { tcause := 0, tpc := 0, tval := 0, tmask := 0, tprio := 0 }

def VReg.zero : VReg := { bits := 0, tag := 0, exps := 0 }

def Barrier.start (expect : Nat) (seq : Bool) : Barrier :=
  { seq, joined := false, joinMask := 0, phase := 0, fstamp := 0, fcause := 0, expect, arrived := [], departed := [],
    devArrived := [], devDeparted := [], told := false }

def Handle.unbound : Handle := { tile := 0, tag := 0, bound := false, pending := false }

def Watch.off : Watch := { base := 0, ctl := 0, home := [] }

/-- The engine state after ACZ's reset column (R312). -/
def Engine.zero : Engine :=
  { digits := [], erow := 0, ecol := 0, edep := 0, eloop := Vector.replicate 5 0, eacc := 0, emaskr := 0, emaskc := 0,
    eloss := 0, estat := 0, owner := none, waiters := [], job := none, extract := none }

def Core.zero : Core := { icache := [], filling := [], locks := [], granules := [], engine := Engine.zero }

/-- A counter's reset values (R353). -/
def Counter.zero : Counter := { value := 0, gen := 0, poison := false, decl := [], armed := [] }

def ContextEntry.zero : ContextEntry :=
  { ptroot := 0, errqbase := 0, errqlen := 0, fgroup := 0, instq := 0, cbase := 0, ccount := 0, gang := 0, viewlen := 0,
    viewoff := 0, seed := 0, trapvec := 0, cflags := 0 }

def Context.zero : Context := { entry := ContextEntry.zero, killed := false }

def Queue.zero : Queue :=
  { qbase := 0, tailaddr := 0, headaddr := 0, ctx := 0, log2size := 0, qclass := 0, state := 0, head := 0, tail := 0,
    packet := none, waiting := none }

/-- The device before its first start: powered, nothing booted, the arithmetic clock and ceiling at 1.6 GHz (R14, R15). -/
def Device.start : Device :=
  { powered := true, tripped := false, powerUpSeen := false, clock := 1600, ceiling := 1600, samples := [], sampleGt := 0, overGt := 0,
    underGt := 0, junction := 25, hotGt := none, hotFirst := none, coolGt := none, bootDone := 0, bootFailed := 0,
    recovery := false, ready := false, booting := none, bootNo := 0, curRecords := [], prevRecords := [],
    measure := Vector.replicate 4 0, activeCx := false, missed := 0, heartAt := 0, cxError := false,
    cxImage := Vector.replicate 2 none, cxPrev := none, updating := none, major := 0, minor := 0, life := [],
    lifeIdx := 0, selfRefresh := false, firstBoot := true, repairMap := [] }

/-- Global time from 0 (R5), DOMAIN and TCTL at their first values (R52), not locked (R78). -/
def TimeState.start : TimeState :=
  { gt := 0, offset := 0, loaded := false, locked := false, inBand := 0, outBand := 0, unsync := true, slew := 0,
    slewAcc := 0, master := none, lastSync := 0, ptpSeq := 0, syncIn := none, asking := [], delays := [],
    domain := 0x0800, nextDomain := none, logsync := 0xFD }

def FirnState.start : FirnState :=
  { base := 0, size := 0, opsz := 0, wp := 0, drop := 0, enabled := false, mark := false, dropping := [], records := [],
    port := { out := [], busy := 0, drops := 0, owes := false }, msix := [] }

def Memories.start : Memories :=
  { hbm := [], lpddr := [], host := [], die := [], unit := [], absent := [], bad := [] }

def WorkState.start : WorkState :=
  { causeSeq := 0, blocks := [], runs := [], launches := [], skeins := [], agents := [],
    agentFree := Vector.replicate 5 0, handed := 0, head := none, headAt := 0, drains := [], nextId := 0, lastQueue := Vector.replicate 4 0, takeAt := 0 }

def AsyncState.start : AsyncState :=
  { ops := [], dir := [], appends := [], counters := [], faults := [], data := [], flows := [], reqs := [], down := [],
    expected := [], early := [], outbox := [], linkErrors := [], colls := [] }

def DebugState.start : DebugState :=
  { attachNodes := [], replies := [], pulled := none, snapshots := [], stepping := none, issued := none, reports := [], ckptReplies := [] }

/-- The machine right after reset: no work, no memory written, every register at the spec's value or the one log 1 names. -/
def State.reset : State :=
  { dev := Device.start, time := TimeState.start, firn := FirnState.start,
    tables := { contexts := [], queues := [], fences := [], access := [] },
    mem := Memories.start, work := WorkState.start, cores := [], panels := [], courses := [], async := AsyncState.start,
    dbg := DebugState.start, agenda := [], focus := .none, rotor := (0, 0), freeCount := 0 }

end Sys2Proof.Machine
end

