-- ==== Sys2Proof/Machine/Maps.lean ====
section
/-! DEFINITION. Sparse tables, byte order and bit helpers (R8). -/
namespace Sys2Proof.Machine

/-! ## Sparse tables: entries in strictly rising key order -/

def kget {α : Type} : KMap α → Nat → Option α
  | [], _ => none
  | (j, a) :: t, k => if j = k then some a else kget t k

def kset {α : Type} : KMap α → Nat → α → KMap α
  | [], k, a => [(k, a)]
  | (j, b) :: t, k, a => if k < j then (k, a) :: (j, b) :: t else if k = j then (k, a) :: t else (j, b) :: kset t k a

def kdel {α : Type} : KMap α → Nat → KMap α
  | [], _ => []
  | (j, b) :: t, k => if j = k then kdel t k else (j, b) :: kdel t k

def kmod {α : Type} (m : KMap α) (k : Nat) (f : α → α) : KMap α :=
  match kget m k with
  | some a => kset m k (f a)
  | none => m

/-- Keys strictly rise. -/
def krising {α : Type} : KMap α → Bool
  | [] => true
  | [_] => true
  | (j, _) :: (k, b) :: t => decide (j < k) && krising ((k, b) :: t)

def kvals {α : Type} (m : KMap α) : List α := m.map (·.2)
def kkeys {α : Type} (m : KMap α) : List Nat := m.map (·.1)
def kmapVals {α : Type} (m : KMap α) (f : Nat → α → α) : KMap α := m.map (fun (k, a) => (k, f k a))
def kfind {α : Type} (m : KMap α) (p : Nat → α → Bool) : Option (Nat × α) := m.find? (fun (k, a) => p k a)

/-! ## Memories: a byte that is not listed reads as 0 (log 2) -/

namespace Memory

/-- The canonical form: rising addresses, no entry equal to the unlisted byte. -/
def wf (m : Memory) : Bool := krising m && m.all (fun (_, b) => b != 0)

def read (m : Memory) (a : Nat) : Byte := (kget m a).getD 0

def write (m : Memory) (a : Nat) (b : Byte) : Memory := if b = 0 then kdel m a else kset m a b

/-- n bytes from a, little-endian (R8). -/
def readNat (m : Memory) (a : Nat) : Nat → Nat
  | 0 => 0
  | n + 1 => (read m a).toNat + 256 * readNat m (a + 1) n

def readList (m : Memory) (a : Nat) : Nat → List Byte
  | 0 => []
  | n + 1 => read m a :: readList m (a + 1) n

def writeList (m : Memory) (a : Nat) : List Byte → Memory
  | [] => m
  | b :: t => writeList (write m a b) (a + 1) t

end Memory

/-! ## Byte order and fields -/

/-- The number a list of bytes holds, the first byte lowest (R8). -/
def leNat : List Byte → Nat
  | [] => 0
  | b :: t => b.toNat + 256 * leNat t

/-- The low n bytes of a number, lowest first (R8). -/
def leBytes : Nat → Nat → List Byte
  | 0, _ => []
  | n + 1, v => BitVec.ofNat 8 v :: leBytes n (v / 256)

/-- Bits [hi:lo] of a number. -/
def bitsOf (v hi lo : Nat) : Nat := (v >>> lo) % 2 ^ (hi + 1 - lo)

/-- The two's-complement reading of the low n bits (R157). -/
def signExt (v n : Nat) : Int :=
  let r := v % 2 ^ n
  if n = 0 then 0 else if r < 2 ^ (n - 1) then (r : Int) else (r : Int) - 2 ^ n

/-- An integer modulo 2^n, as a natural number. -/
def wrapInt (v : Int) (n : Nat) : Nat := (v % (2 ^ n : Nat)).toNat

/-- A word from an integer, modulo 2^64. -/
def wordOf (v : Int) : Word := BitVec.ofNat 64 (wrapInt v 64)

/-- Saturating 32-bit increment (R27, R205, R312). -/
def satInc32 (n : Nat) : Nat := min (n + 1) 0xFFFFFFFF

/-- Insertion sort by a relation that says whether the first comes before the second. -/
def insertBy {α : Type} (before : α → α → Bool) (x : α) : List α → List α
  | [] => [x]
  | y :: t => if before x y then x :: y :: t else y :: insertBy before x t
def sortBy {α : Type} (before : α → α → Bool) : List α → List α
  | [] => []
  | x :: t => insertBy before x (sortBy before t)

/-- Split a list into pieces of n. -/
def chunksOf {α : Type} (n : Nat) : Nat → List α → List (List α)
  | 0, _ => []
  | _ + 1, [] => []
  | f + 1, l => l.take n :: chunksOf n f (l.drop n)

/-- The lanes of a mask in ascending order. -/
def lanesOf (m : BitVec 16) : List Nat := (List.range 16).filter (fun i => m.getLsbD i)

/-- The mask of a list of lanes. -/
def maskOf (l : List Nat) : BitVec 16 := l.foldl (fun m i => m ||| (1 <<< i)) 0

/-- The base-2 logarithm rounded up, for n ≥ 1. -/
def ceilDiv (a b : Nat) : Nat := (a + b - 1) / b

end Sys2Proof.Machine
end

