-- ==== Sys2Proof/Machine/Flags.lean ====
section
/-! DEFINITION. FPSTAT flags, exact values, the one rounding of R191, and the arithmetic of R209 to R214 on exact values. -/
namespace Sys2Proof.Machine

/-! ## FPSTAT (R193) -/

abbrev Flags := BitVec 5
def flagNV : Flags := 1
def flagDZ : Flags := 2
def flagOF : Flags := 4
def flagUF : Flags := 8
def flagNX : Flags := 16

/-- What a conversion counts (R205). -/
inductive Cnt where
  | none | sat | flush | nonfin
  deriving DecidableEq, Repr

/-- A value: (−1)^neg × mag × 2^exp, an infinity, or NaN (R188, R190). -/
inductive FpNum where
  | fin (neg : Bool) (mag : Nat) (exp : Int)
  | inf (neg : Bool)
  | nan
  deriving DecidableEq, Repr

/-- The bits of a result, the flags it sets and what it counts. -/
structure Rnd where
  bits  : Nat
  flags : Flags
  cnt   : Cnt
  deriving DecidableEq, Repr

def bitLen (n : Nat) : Nat := if n = 0 then 0 else n.log2 + 1

/-! ## Formats (R188, R189) -/

/-- Fraction bits k. -/
def fracBits (t : Tag) : Nat :=
  match t.toNat with
  | 0x10 => 1 | 0x11 => 3 | 0x12 => 2 | 0x13 => 10 | 0x14 => 7 | 0x15 => 23 | _ => 52
def fpBias (t : Tag) : Nat :=
  match t.toNat with
  | 0x10 => 1 | 0x11 => 7 | 0x12 => 15 | 0x13 => 15 | 0x14 => 127 | 0x15 => 127 | _ => 1023
/-- The encoding of the largest finite magnitude. -/
def fpMaxEnc (t : Tag) : Nat :=
  match t.toNat with
  | 0x10 => 0x7 | 0x11 => 0x7E | 0x12 => 0x7B | 0x13 => 0x7BFF | 0x14 => 0x7F7F | 0x15 => 0x7F7FFFFF | _ => 0x7FEFFFFFFFFFFFFF
/-- The canonical NaN; FP4 has none and takes +0 (R189, R192). -/
def fpNan (t : Tag) : Nat :=
  match t.toNat with
  | 0x10 => 0 | 0x11 => 0x7F | 0x12 => 0x7E | 0x13 => 0x7E00 | 0x14 => 0x7FC0 | 0x15 => 0x7FC00000 | 0x16 => 0x7FF8000000000000
  | _ => 0
def fpHasInf (t : Tag) : Bool := 0x12 ≤ t.toNat && t.toNat ≤ 0x16
def signBit (t : Tag) (neg : Bool) : Nat := if neg then 2 ^ (tagWidth t - 1) else 0

/-- An element's value, from its bits, for an integer or floating-point tag (R186, R188). -/
def numOf (t : Tag) (b : Nat) : FpNum :=
  let w := tagWidth t
  let b := b % 2 ^ w
  if fpTag t then
    let k := fracBits t
    let neg := b.testBit (w - 1)
    let e := b % 2 ^ (w - 1) / 2 ^ k
    let f := b % 2 ^ k
    if fpMaxEnc t < b % 2 ^ (w - 1) then (if fpHasInf t && f == 0 then .inf neg else .nan)
    else if e == 0 then .fin neg f (1 - (fpBias t : Int) - k)
    else .fin neg (2 ^ k + f) ((e : Int) - fpBias t - k)
  else if signedTag t then
    let v := signExt b w
    .fin (decide (v < 0)) v.natAbs 0
  else .fin false b 0

/-! ## Rounding (R191, R192) -/

/-- A magnitude mag × 2^(−sh) rounded to an integer, for a value of a sign; whether it was inexact. -/
def roundMag (rm : Nat) (neg : Bool) (mag : Nat) (sh : Int) : Nat × Bool :=
  if sh ≤ 0 then (mag <<< (-sh).toNat, false)
  else
    let n := sh.toNat
    let q := mag >>> n
    let r := mag % 2 ^ n
    if r = 0 then (q, false)
    else
      let up := match rm with
        | 0 => decide (2 ^ n < 2 * r) || (2 * r == 2 ^ n && q % 2 == 1)
        | 1 => false
        | 2 => !neg
        | _ => neg
      (if up then q + 1 else q, true)

def Rnd.exact (b : Nat) : Rnd := ⟨b, 0, .none⟩

/-- One rounding of a nonzero value into a floating-point format: the encoding grows with the magnitude, so a carry moves into
the next binade by itself. -/
def roundFp (t : Tag) (rm : Nat) (neg : Bool) (mag : Nat) (exp : Int) : Rnd :=
  let k := fracBits t
  let emin : Int := 1 - (fpBias t : Int) - k
  let lsb := max ((bitLen mag : Int) - 1 + exp - k) emin
  let (q, inexact) := roundMag rm neg mag (lsb - exp)
  let enc := (lsb - emin).toNat * 2 ^ k + q
  if fpMaxEnc t < enc then
    let toInf := fpHasInf t && (rm == 0 || (rm == 2 && !neg) || (rm == 3 && neg))
    if toInf then ⟨signBit t neg + (fpMaxEnc t / 2 ^ k + 1) * 2 ^ k, flagOF ||| flagNX, .nonfin⟩
    else ⟨signBit t neg + fpMaxEnc t, flagOF ||| flagNX, .sat⟩
  else
    ⟨signBit t neg + enc,
      if inexact then (if enc < 2 ^ k then flagNX ||| flagUF else flagNX) else 0,
      if enc = 0 then .flush else .none⟩

/-- A value rounded into an integer format and clamped (R192). A clamp sets NV, and NX as well where the rounding itself was
inexact (R193; log 42). -/
def roundToInt (t : Tag) (rm : Nat) (x : FpNum) : Rnd :=
  let w := tagWidth t
  let lo : Int := if signedTag t then -(2 ^ (w - 1)) else 0
  let hi : Int := if signedTag t then 2 ^ (w - 1) - 1 else 2 ^ w - 1
  match x with
  | .nan => ⟨0, flagNV, .nonfin⟩
  | .inf neg => ⟨wrapInt (if neg then lo else hi) w, flagNV, .nonfin⟩
  | .fin neg mag exp =>
    let nx : Flags := if decide (exp < 0) && mag % 2 ^ (-exp).toNat != 0 then flagNX else 0
    -- a nonzero magnitude at or above 2^65 is beyond every format
    if mag ≠ 0 ∧ 66 ≤ (bitLen mag : Int) + exp then ⟨wrapInt (if neg then lo else hi) w, flagNV ||| nx, .sat⟩
    else if mag = 0 then .exact 0
    else
      let (q, _) := roundMag rm neg mag (-exp)
      let v : Int := if neg then -(q : Int) else q
      if hi < v then ⟨wrapInt hi w, flagNV ||| nx, .sat⟩
      else if v < lo then ⟨wrapInt lo w, flagNV ||| nx, .sat⟩
      else ⟨wrapInt v w, nx, .none⟩

/-- The count of a conversion that counts SAT only for a clamp to a largest magnitude (R205, R212): an unsigned format's clamp
of a negative value gives 0 and counts nothing. -/
def Rnd.largestOnly (r : Rnd) : Rnd := if r.cnt = .sat ∧ r.bits = 0 then { r with cnt := .none } else r

/-- One rounding of an exact value into a format. -/
def roundTo (t : Tag) (rm : Nat) (x : FpNum) : Rnd :=
  if fpTag t then
    match x with
    | .nan => ⟨fpNan t, 0, .nonfin⟩
    | .inf neg =>
      if fpHasInf t then ⟨signBit t neg + (fpMaxEnc t / 2 ^ fracBits t + 1) * 2 ^ fracBits t, 0, .nonfin⟩
      else ⟨signBit t neg + fpMaxEnc t, 0, .nonfin⟩
    | .fin neg 0 _ => .exact (signBit t neg)
    | .fin neg mag exp => roundFp t rm neg mag exp
  else roundToInt t rm x

/-! ## Exact arithmetic -/

/-- Two finite values on one exponent, signed. -/
def alignNum (n1 : Bool) (m1 : Nat) (e1 : Int) (n2 : Bool) (m2 : Nat) (e2 : Int) : Int × Int × Int :=
  let e := min e1 e2
  let a : Int := m1 <<< (e1 - e).toNat
  let b : Int := m2 <<< (e2 - e).toNat
  (if n1 then -a else a, if n2 then -b else b, e)

def FpNum.neg : FpNum → FpNum
  | .fin n m e => .fin (!n) m e
  | .inf n => .inf (!n)
  | .nan => .nan

/-- The exact sum, with the sign of a zero sum in the rounding mode (R191), and NV for ∞ − ∞. -/
def FpNum.add (rm : Nat) : FpNum → FpNum → FpNum × Flags
  | .nan, _ => (.nan, 0)
  | _, .nan => (.nan, 0)
  | .inf a, .inf b => if a == b then (.inf a, 0) else (.nan, flagNV)
  | .inf a, _ => (.inf a, 0)
  | _, .inf b => (.inf b, 0)
  | .fin n1 m1 e1, .fin n2 m2 e2 =>
    let (a, b, e) := alignNum n1 m1 e1 n2 m2 e2
    let v := a + b
    if v = 0 then (.fin (if n1 == n2 then n1 else rm == 3) 0 0, 0)
    else (.fin (decide (v < 0)) v.natAbs e, 0)

/-- The exact product, and NV for 0 × ∞. -/
def FpNum.mul : FpNum → FpNum → FpNum × Flags
  | .nan, _ => (.nan, 0)
  | _, .nan => (.nan, 0)
  | .inf a, .inf b => (.inf (a != b), 0)
  | .inf a, .fin b m _ => if m = 0 then (.nan, flagNV) else (.inf (a != b), 0)
  | .fin a m _, .inf b => if m = 0 then (.nan, flagNV) else (.inf (a != b), 0)
  | .fin n1 m1 e1, .fin n2 m2 e2 => (.fin (n1 != n2) (m1 * m2) (e1 + e2), 0)

/-- Add the flags that came before the rounding. -/
def Rnd.also (r : Rnd) (f : Flags) : Rnd := { r with flags := r.flags ||| f }

/-- RoundRNE(x + y, t) and the other modes. -/
def addRnd (t : Tag) (rm : Nat) (x y : FpNum) : Rnd :=
  let (z, f) := x.add rm y
  (roundTo t rm z).also f

def mulRnd (t : Tag) (rm : Nat) (x y : FpNum) : Rnd :=
  let (z, f) := x.mul y
  (roundTo t rm z).also f

/-- a × b + c with a single rounding (R209). -/
def fmaRnd (t : Tag) (rm : Nat) (a b c : FpNum) : Rnd :=
  let (p, f) := a.mul b
  let (z, g) := p.add rm c
  (roundTo t rm z).also (f ||| g)

/-- A positive quotient n ÷ d as a magnitude whose last bit is set when the division leaves a remainder. -/
def stickyDiv (n d : Nat) : Nat × Int :=
  let sh := 70 + bitLen d
  let q := (n <<< sh) / d
  (2 * q + (if (n <<< sh) % d = 0 then 0 else 1), -(sh : Int) - 1)

def divRnd (t : Tag) (rm : Nat) : FpNum → FpNum → Rnd
  | .nan, _ => roundTo t rm .nan
  | _, .nan => roundTo t rm .nan
  | .inf _, .inf _ => (roundTo t rm .nan).also flagNV
  | .inf a, .fin b _ _ => roundTo t rm (.inf (a != b))
  | .fin a _ _, .inf b => roundTo t rm (.fin (a != b) 0 0)
  | .fin a m e, .fin b m' e' =>
    if m' = 0 then
      if m = 0 then (roundTo t rm .nan).also flagNV else (roundTo t rm (.inf (a != b))).also flagDZ
    else if m = 0 then roundTo t rm (.fin (a != b) 0 0)
    else
      let (q, x) := stickyDiv m m'
      roundTo t rm (.fin (a != b) q (e - e' + x))

/-- The integer square root, bit by bit from the top. -/
def isqrt (n : Nat) : Nat :=
  (List.range (bitLen n / 2 + 1)).reverse.foldl (fun r i => if (r + 2 ^ i) * (r + 2 ^ i) ≤ n then r + 2 ^ i else r) 0

def sqrtRnd (t : Tag) (rm : Nat) : FpNum → Rnd
  | .nan => roundTo t rm .nan
  | .inf false => roundTo t rm (.inf false)
  | .inf true => (roundTo t rm .nan).also flagNV
  | .fin neg m e =>
    if m = 0 then roundTo t rm (.fin neg 0 0)
    else if neg then (roundTo t rm .nan).also flagNV
    else
      let sh := 140 + (e - 140) % 2
      let r := isqrt (m <<< sh.toNat)
      roundTo t rm (.fin false (2 * r + (if r * r = m <<< sh.toNat then 0 else 1)) ((e - sh) / 2 - 1))

/-- 1 ÷ √a (R209). -/
def rsqrtRnd (t : Tag) (rm : Nat) : FpNum → Rnd
  | .nan => roundTo t rm .nan
  | .inf false => roundTo t rm (.fin false 0 0)
  | .inf true => (roundTo t rm .nan).also flagNV
  | .fin neg m e =>
    if m = 0 then (roundTo t rm (.inf neg)).also flagDZ
    else if neg then (roundTo t rm .nan).also flagNV
    else
      let m := m <<< (e % 2).toNat
      let e := e - e % 2
      let p := bitLen m + 80
      let r := isqrt (2 ^ (2 * p) / m)
      roundTo t rm (.fin false (2 * r + (if r * r * m = 2 ^ (2 * p) then 0 else 1)) (-(p : Int) - e / 2 - 1))

/-- 2^(F ÷ 2^256) from below, with 320 fraction bits: the product of 2^(2^−i) over the set bits (log 13). -/
def pow2Frac (f : Nat) : Nat :=
  ((List.range 256).foldl (fun (acc : Nat × Nat) i =>
    let root := isqrt (acc.2 <<< 320)
    (if f.testBit (255 - i) then (acc.1 * root) >>> 320 else acc.1, root)) (2 ^ 320, 2 ^ 321)).1

/-- 2^a (R209). A result that is not exact is irrational. -/
def exp2Rnd (t : Tag) (rm : Nat) : FpNum → Rnd
  | .nan => roundTo t rm .nan
  | .inf false => roundTo t rm (.inf false)
  | .inf true => roundTo t rm (.fin false 0 0)
  | .fin neg m e =>
    if m = 0 then roundTo t rm (.fin false 1 0)
    else if 15 ≤ (bitLen m : Int) + e then roundTo t rm (.fin false 1 (if neg then -32768 else 32768))
    else
      let j := (-e).toNat
      let v : Int := if neg then -((m <<< e.toNat : Nat) : Int) else ((m <<< e.toNat : Nat) : Int)
      let n := v / 2 ^ j
      let f := (v % 2 ^ j).toNat
      if f = 0 then roundTo t rm (.fin false 1 n)
      else
        let f256 := if j ≤ 256 then f <<< (256 - j) else f >>> (j - 256)
        roundTo t rm (.fin false (2 * pow2Frac f256 + 1) (n - 321))

/-- 256 binary digits of log2 (y ÷ 2^700) for y from 2^700 to 2^701, by repeated squaring (log 13). -/
def log2Frac (y : Nat) : Nat :=
  ((List.range 256).foldl (fun (acc : Nat × Nat) _ =>
    let sq := (acc.2 * acc.2) >>> 700
    if 2 ^ 701 ≤ sq then (2 * acc.1 + 1, sq >>> 1) else (2 * acc.1, sq)) (0, y)).1

/-- log2 a (R209). A result that is not exact is irrational. -/
def log2Rnd (t : Tag) (rm : Nat) : FpNum → Rnd
  | .nan => roundTo t rm .nan
  | .inf false => roundTo t rm (.inf false)
  | .inf true => (roundTo t rm .nan).also flagNV
  | .fin neg m e =>
    if m = 0 then (roundTo t rm (.inf true)).also flagDZ
    else if neg then (roundTo t rm .nan).also flagNV
    else
      let l := bitLen m - 1
      let x : Int := (l : Int) + e
      if m = 2 ^ l then roundTo t rm (.fin (decide (x < 0)) x.natAbs 0)
      else
        let v : Int := 2 * (x * 2 ^ 256 + log2Frac (m <<< (700 - l))) + 1
        roundTo t rm (.fin (decide (v < 0)) v.natAbs (-257))

/-- Round to an integral value of the format (R214): NX only. -/
def rndIntegral (t : Tag) (rm : Nat) : FpNum → Rnd
  | .nan => ⟨fpNan t, 0, .none⟩
  | .inf n => roundTo t rm (.inf n)
  | .fin neg m e =>
    let (q, inexact) := roundMag rm neg m (-e)
    if !inexact then roundTo t rm (.fin neg m e)
    else { roundTo t rm (.fin neg q 0) with flags := flagNX }

/-! ## Comparison (R210, R211, R213) -/

/-- a < b, a == b; both false when either is NaN. -/
def FpNum.lt : FpNum → FpNum → Bool
  | .nan, _ => false
  | _, .nan => false
  | .inf a, .inf b => a && !b
  | .inf a, .fin _ _ _ => a
  | .fin _ _ _, .inf b => !b
  | .fin n1 m1 e1, .fin n2 m2 e2 => let (a, b, _) := alignNum n1 m1 e1 n2 m2 e2; decide (a < b)
def FpNum.eq : FpNum → FpNum → Bool
  | .nan, _ => false
  | _, .nan => false
  | .inf a, .inf b => a == b
  | .inf _, .fin _ _ _ => false
  | .fin _ _ _, .inf _ => false
  | .fin n1 m1 e1, .fin n2 m2 e2 => let (a, b, _) := alignNum n1 m1 e1 n2 m2 e2; decide (a = b)
def FpNum.isNan : FpNum → Bool
  | .nan => true
  | _ => false
def FpNum.isFin : FpNum → Bool
  | .fin _ _ _ => true
  | _ => false
def FpNum.isNeg : FpNum → Bool
  | .fin n _ _ => n
  | .inf n => n
  | .nan => false
def FpNum.isZero : FpNum → Bool
  | .fin _ m _ => m == 0
  | _ => false

/-- The lesser or greater operand's bits, −0 below +0 (R210). -/
def fpMinMax (t : Tag) (wantMax : Bool) (a b : Nat) : Nat :=
  let x := numOf t a
  let y := numOf t b
  if x.isNan && y.isNan then fpNan t
  else if x.isNan then b
  else if y.isNan then a
  else
    let less := x.lt y || (x.eq y && x.isNeg && !y.isNeg)
    if less == wantMax then b else a

/-- The conditions of R211, and whether a NaN operand sets NV. -/
def fpCond (cond : Nat) (x y : FpNum) : Bool × Flags :=
  let un := x.isNan || y.isNan
  match cond with
  | 0 => (x.eq y, 0)
  | 1 => (!x.eq y, 0)
  | 2 => (x.lt y, if un then flagNV else 0)
  | 3 => (x.lt y || x.eq y, if un then flagNV else 0)
  | 4 => (y.lt x, if un then flagNV else 0)
  | 5 => (y.lt x || x.eq y, if un then flagNV else 0)
  | 6 => (un, 0)
  | _ => (!un, 0)

/-- The class bit of R213. -/
def fpClass (t : Tag) (b : Nat) : Nat :=
  match numOf t b with
  | .nan => 2 ^ 8
  | .inf n => if n then 1 else 2 ^ 7
  | .fin n m _ =>
    if m = 0 then (if n then 2 ^ 3 else 2 ^ 4)
    else if m < 2 ^ fracBits t then (if n then 2 ^ 2 else 2 ^ 5)
    else (if n then 2 ^ 1 else 2 ^ 6)

/-! ## Integer elements -/

/-- The lesser or greater of two integer elements by their type (R221, R277, R279). -/
def intMinMax (t : Tag) (wantMax : Bool) (a b : Nat) : Nat :=
  let w := tagWidth t
  let less := if signedTag t then decide (signExt a w < signExt b w) else decide (a < b)
  if less == wantMax then b else a

/-! ## Sums in tree order (R202) -/

/-- One level of the tree: neighbours combine. -/
def treeLevel {α : Type} (add : α → α → α) : List (Option α) → List (Option α)
  | a :: b :: t => (match a, b with
      | none, y => y
      | x, none => x
      | some x, some y => some (add x y)) :: treeLevel add t
  | l => l

/-- The tree of R202 over n inputs, `none` ABSENT. -/
def treeFold {α : Type} (add : α → α → α) : Nat → List (Option α) → Option α
  | 0, l => (l[0]?).bind id
  | f + 1, l => match l with
    | [] => none
    | [x] => x
    | l => treeFold add f (treeLevel add l)

/-! ## The block formats (R194 to R198) -/

/-- An element's value in a block: NaN when either exponent is 255 (R194). -/
def wbElem (t : Tag) (e0 e1 el : Nat) : FpNum :=
  let m := wbMant t
  if e0 == 255 || e1 == 255 then .nan
  else
    let v := signExt el m
    .fin (decide (v < 0)) v.natAbs (((if el.testBit m then e1 else e0) : Int) - 127 - ((m : Int) - 1))

/-- A converted block with its counts, and whether some element's value differs from the value it was converted from. -/
structure WbBlock where
  e0      : Nat
  e1      : Nat
  elems   : List Nat
  sat     : Nat
  flush   : Nat
  nonfin  : Nat
  inexact : Bool
  deriving DecidableEq, Repr

/-- floor(log2 |x|) + 128 of a nonzero finite value. -/
def wbLog (x : FpNum) : Int :=
  match x with
  | .fin _ m e => (bitLen m : Int) - 1 + e + 128
  | _ => 0

/-- x ÷ 2^(E − 127 − (m − 1)) rounded to nearest even, and whether it was exact. -/
def wbQuot (x : FpNum) (m : Nat) (E : Int) : Int × Bool :=
  match x with
  | .fin neg mag e =>
    let (q, inexact) := roundMag 0 neg mag ((E - 127 - ((m : Int) - 1)) - e)
    (if neg then -(q : Int) else q, !inexact)
  | _ => (0, true)

/-- R197 on one block of values. -/
def wbConvert (t : Tag) (xs : List FpNum) : WbBlock :=
  let m := wbMant t
  let hi : Int := 2 ^ (m - 1) - 1
  let lo : Int := -(2 ^ (m - 1))
  if xs.any (fun x => !x.isFin) then ⟨255, 255, xs.map (fun _ => 0), 0, 0, 1, false⟩
  else
    let nz := xs.filter (fun x => !x.isZero)
    if nz.isEmpty then ⟨0, 0, xs.map (fun _ => 0), 0, 0, 0, false⟩
    else
      let clamp := fun (v : Int) => max 0 (min 254 v)
      let E1 := clamp ((nz.map wbLog).foldl max (-100000))
      let L := nz.filter (fun x => wbLog x < E1 && !(wbQuot x m E1).2)
      let E0 := if L.isEmpty then E1 else max 0 ((L.map wbLog).foldl max (-100000))
      let conv := xs.map (fun x =>
        let q0 := (wbQuot x m E0).1
        let fine := E0 < E1 && lo ≤ q0 && q0 ≤ hi
        let q1 := (wbQuot x m E1).1
        let sat := !fine && (hi < q1 || q1 < lo)
        let q := if fine then q0 else max lo (min hi q1)
        ((if fine then 0 else 2 ^ m) + wrapInt q m, sat, q == 0 && !x.isZero, sat || !(wbQuot x m (if fine then E0 else E1)).2))
      ⟨E0.toNat, E1.toNat, conv.map (·.1), (conv.filter (·.2.1)).length, (conv.filter (·.2.2.1)).length, 0, conv.any (·.2.2.2)⟩

end Sys2Proof.Machine
end

