-- ==== Sys2Proof/WellFormed.lean ====
section
/-! DEFINITION. Well-formed instructions: checks 5 to 9 of R116 and the static checks of the forms, from the encoding tables
of each chapter. `check` answers the detail and the failing slot bit of the first check that fails. -/
namespace Sys2Proof

open Machine (Tag knownTag tagWidth intTag signedTag fpTag stdFpTag wbTag wbBlocks tagLanes)

/-- Where an opcode is legal (R115). -/
inductive Legal where
  | strand | stream | both
  deriving DecidableEq, Repr

/-- The register classes a field accepts (R107); `no` is a field the form does not use. -/
inductive Use where
  | no | w | wk | p | v | t | wkp | wkt | wv | vOrZero
  deriving DecidableEq, Repr

/-- An ILLEGAL trap's detail and the lowest slot bit of the failing field, 0x7F when there is none (R116). -/
structure Illegal where
  detail : Byte
  bit    : Nat
  deriving DecidableEq, Repr

/-- What the checks need of one instruction: its opcode, fields and bits [50:0], and what its form accepts. -/
structure Form where
  opc   : Byte
  legal : Legal
  c     : Common
  low   : BitVec 51
  modOk : Bool
  dst   : Use
  sa    : Use
  sb    : Use
  sc    : Use
  /-- DST is a destination, not a data source (R257). -/
  dstW  : Bool
  /-- The bits of [50:0] that the form uses. -/
  used  : BitVec 51
  /-- The lowest bit of a field that holds a reserved value (check 7). -/
  bad   : Option Nat
  /-- The form's own static check (after check 9). -/
  own   : Option (Nat × Nat)
  deriving DecidableEq, Repr

/-! ## Registers as fields -/

/-- The 6-bit code of a register (R106). -/
def Reg.field : Reg → BitVec 6
  | .w i => BitVec.ofNat 6 i.val
  | .k i => BitVec.ofNat 6 (0x18 + i.val)
  | .v i => BitVec.ofNat 6 (0x20 + i.val)
  | .p i => BitVec.ofNat 6 (0x28 + i.val)
  | .t i => BitVec.ofNat 6 (0x30 + i.val)

/-- Whether a field of strand code accepts a register (R106, R107). -/
def Use.strand : Use → Reg → Bool
  | .no, r => r == .w 0
  | .w, .w _ => true
  | .wk, .w _ => true
  | .wk, .k _ => true
  | .p, .p _ => true
  | .v, .v _ => true
  | .t, .t _ => true
  | .wkp, .w _ => true
  | .wkp, .k _ => true
  | .wkp, .p _ => true
  | .wkt, .w _ => true
  | .wkt, .k _ => true
  | .wkt, .t _ => true
  | .wv, .w _ => true
  | .wv, .v _ => true
  | .vOrZero, .v _ => true
  | .vOrZero, r => r == .w 0
  | _, _ => false

/-- Whether a field accepts a register in its stream: in the matrix stream only m0 to m15 (R106). -/
def Use.ok (stream : Bool) (u : Use) (r : Reg) : Bool :=
  if stream then
    match u, r with
    | .no, r => r == .w 0
    | _, .w i => i.val < 16
    | _, _ => false
  else u.strand r

/-! ## The bits below the common fields -/

def genLow (g : Gen) : BitVec 51 := g.fn ++ g.imm
def brnLow (b : Brn) : BitVec 51 := b.rsv ++ b.offset ++ b.slot ++ b.prio
def memLow (m : Mem) : BitVec 51 := m.scale ++ BitVec.ofBool m.x ++ m.disp
def jmpLow (j : Jmp) : BitVec 51 := j.rsv ++ j.bound ++ j.prio ++ j.label

def genUsed (imm : BitVec 48) : BitVec 51 := (0 : BitVec 3) ++ imm
def genUsedFn (imm : BitVec 48) : BitVec 51 := (7 : BitVec 3) ++ imm
def brnUsed : BitVec 51 := (0 : BitVec 3) ++ BitVec.allOnes 48
def memUsed : BitVec 51 := BitVec.allOnes 51
/-- JTB uses BOUND and LABEL, LPAD uses PRIO and LABEL (R111). -/
def jmpUsed (lpad : Bool) : BitVec 51 := if lpad then 0x0000FFFFFFFF else 0xFFFF0000FFFF

def brnBad (b : Brn) : Option Nat := if b.slot.toNat ≤ 4 then none else some 16
def jtbBad (j : Jmp) : Option Nat := if j.bound == 0 then some 32 else none
/-- SCALE must be 0 when X is 0 or SA names a handle (R110); the bit is its lowest nonzero one. -/
def memBad (m : Mem) : Option Nat :=
  if !m.x || (match m.sa with | .t _ => true | _ => false) then
    (if m.scale.getLsbD 0 then some 49 else if m.scale.getLsbD 1 then some 50 else none)
  else none
/-- In the matrix stream no field names a handle. -/
def leaBad (stream : Bool) (m : Mem) : Option Nat := if stream then memBad { m with sa := .w 0 } else memBad m
/-- X must be 1 (R261). -/
def gathBad (m : Mem) : Option Nat := if m.x then memBad m else some 48

/-! ## Modifiers (R113 and the forms' tables) -/

def immAll : BitVec 48 := BitVec.allOnes 48
def immIf (c : Bool) : BitVec 48 := if c then immAll else 0
def tagOf (m : Byte) : Tag := m.extractLsb' 0 5
def vOr (m : Byte) (u : Use) : Use := if m.getLsbD 7 then .v else u
/-- Source B is unused when I is set (R169). -/
def orImm (m : Byte) (u : Use) : Use := if m.getLsbD 3 then .no else u
def orImm5 (m : Byte) (u : Use) : Use := if m.getLsbD 5 then .no else u
def reg (m : Byte) (b : Nat) : Use := if m.getLsbD b then .wk else .no
def ix (x : Bool) : Use := if x then .wk else .no

/-- R169: COND zero but for BFX's SGN, I only where accepted, SX only in a scalar form of W below 64. -/
def intMod (m : Byte) (imm sgn : Bool) : Bool :=
  (if sgn then (m &&& 0x60) == 0 else (m &&& 0x70) == 0) && (imm || !m.getLsbD 3) &&
    (!m.getLsbD 2 || (!m.getLsbD 7 && (m &&& 3) != 3))
def cmpMod (m : Byte) : Bool := !m.getLsbD 7 && !m.getLsbD 2 && ((m >>> 4) &&& 7).toNat ≤ 5
/-- A w or k register of strand code, or an m register of the matrix stream. -/
def Reg.scalar (stream : Bool) (r : Reg) : Bool :=
  match r with
  | .w i => !stream || i.val < 16
  | .k _ => !stream
  | _ => false
/-- A predicate of strand code. -/
def Reg.isP (stream : Bool) (r : Reg) : Bool := match r with | .p _ => !stream | _ => false
def Reg.isV (r : Reg) : Bool := match r with | .v _ => true | _ => false
/-- R178: the widths and SX of each pairing of the table; a pairing that it does not list fails at its registers (check 8). -/
def movMod (stream : Bool) (m : Byte) (dst sa : Reg) : Bool :=
  (m &&& 0x78) == 0 &&
    (if m.getLsbD 7 then m == 0x83 || !(dst.isV && sa.isV)
      else if dst.isP stream && sa.scalar stream then !m.getLsbD 2
      else if (dst.isP stream || dst.scalar stream) && sa.isP stream then m == 3
      else !(dst.scalar stream && sa.scalar stream) || !m.getLsbD 2 || (m &&& 3) != 3)
def movDst (m : Byte) : Use := if m.getLsbD 7 then .v else .wkp
def movSrc (m : Byte) (_dst : Reg) : Use := if m.getLsbD 7 then .v else .wkp
/-- R207: an accepted type, and no rounding where the form takes none. -/
def fpMod (m : Byte) (rm : Bool) : Bool := stdFpTag (tagOf m) && (rm || (m &&& 0x60) == 0)
/-- R212: the types FCVT converts between. -/
def cvtType (t : Tag) : Bool := (0x03 ≤ t.toNat && t.toNat ≤ 0x0C) || fpTag t
/-- MOD[87:85] holds no bit outside the mask (R215). -/
def noHigh (m mask : Byte) : Bool := (m &&& 0xE0 &&& ~~~mask) == 0
def isWb (t : Tag) : Bool := wbTag t
/-- R216, R218: any code but raw, WB and reserved. -/
def splatType (t : Tag) : Bool := knownTag t && t != 0 && !wbTag t
/-- R215: a type of width 8 to 64. -/
def wide8 (t : Tag) : Bool := knownTag t && 8 ≤ tagWidth t
/-- R221: the types and operations of a reduction. -/
def redMod (m : Byte) : Bool :=
  let t := tagOf m; let op := (m >>> 5).toNat
  op ≤ 5 && ((intTag t && 8 ≤ tagWidth t) || (stdFpTag t && op ≤ 2))
def isUint8 (t : Tag) : Bool := t == 0x06 || t == 0x08 || t == 0x0A || t == 0x0C
def mskMod (m : Byte) : Bool :=
  !m.getLsbD 7 && (match (m >>> 5).toNat with | 0 | 1 => wide8 (tagOf m) | 2 => isUint8 (tagOf m) | _ => false)
def dqnType (t : Tag) : Bool := t == 0x13 || t == 0x14 || t == 0x15
/-- R227: INT2 to UINT16. -/
def packType (t : Tag) : Bool := 1 ≤ t.toNat && t.toNat ≤ 8
/-- R229: INT8, INT16, INT32 or INT64. -/
def unpackType (t : Tag) : Bool := t == 0x05 || t == 0x07 || t == 0x09 || t == 0x0B
def intType (t : Tag) : Bool := intTag t
def votMod (m : Byte) : Bool := !m.getLsbD 7 && (if (m >>> 5).toNat == 3 then intTag (tagOf m) else tagOf m == 0)
/-- R257: sizes n to d, NH with n only, SX not with d. -/
def ldMod (m : Byte) : Bool :=
  (m &&& 0xE0) == 0 && (m &&& 7).toNat ≤ 4 && (!m.getLsbD 3 || (m &&& 7) == 0) && (!m.getLsbD 4 || (m &&& 7) != 4)
def stMod (m : Byte) : Bool := (m &&& 0xF0) == 0 && (m &&& 7).toNat ≤ 4 && (!m.getLsbD 3 || (m &&& 7) == 0)
def vecMod (m : Byte) : Bool := (m &&& 7) == 4 && knownTag ((m >>> 3).extractLsb' 0 5)
def gathMod (m : Byte) : Bool := (m &&& 0xC0) == 0 && ((m &&& 7) == 3 || (m &&& 7) == 4)
def atomMod (m : Byte) (uns : Bool) : Bool := (m &&& 0xF0) == 0 && ((m &&& 7) == 3 || (m &&& 7) == 4) && (uns || !m.getLsbD 3)
/-- R285: WR and MC need a WHERE, MC needs unit scratchpad and no WR. -/
def tfchMod (m : Byte) : Bool :=
  (m &&& 0xF0) == 0 && (((m &&& 3) != 0) || (m &&& 0x0C) == 0) && (!m.getLsbD 3 || (m &&& 7) == 1)

/-! ## The forms' own static checks -/

def popCount {n : Nat} (x : BitVec n) : Nat := (List.range n).countP (fun i => x.getLsbD i)
/-- A subfield at bit 0 under a mask must be below a bound. -/
def ownBelow (imm mask : BitVec 48) (bound : Nat) : Option (Nat × Nat) :=
  if (imm &&& mask).toNat < bound then none else some (3, 0)
/-- R168. -/
def ownRgn (imm : BitVec 48) : Option (Nat × Nat) := if popCount imm ≤ 16 then none else some (3, 0)
/-- R176: LEN 1 to 64, POS + LEN at most W. -/
def ownBf (m : Byte) (imm : BitVec 48) : Option (Nat × Nat) :=
  let pos := (imm &&& 0x3F).toNat; let len := ((imm >>> 8) &&& 0x7F).toNat; let w := 8 * 2 ^ (m &&& 3).toNat
  if len == 0 || 64 < len then some (3, 8) else if w < pos + len then some (3, 0) else none
/-- R212: at least one floating-point format, and the lane group's range. -/
def ownFcvt (m : Byte) (imm : BitVec 48) : Option (Nat × Nat) :=
  let s : Tag := imm.extractLsb' 0 5; let t := tagOf m; let p := ((imm >>> 8) &&& 7).toNat
  if !cvtType s || (intTag s && intTag t) then some (2, 0x7F)
  else if m.getLsbD 7 then
    if p < max (tagWidth s) (tagWidth t) / min (tagWidth s) (tagWidth t) then none else some (3, 8)
  else if p == 0 then none else some (3, 8)
/-- R223: H is 0 for a 16-bit type. -/
def ownVdqn (m : Byte) (imm : BitVec 48) : Option (Nat × Nat) :=
  if imm.getLsbD 10 && tagOf m != 0x15 then some (3, 10) else none
def gOf (imm : BitVec 48) : Nat := 8 * (((imm >>> 16) &&& 3).toNat + 1)
/-- R227. -/
def ownVpack (m : Byte) (imm : BitVec 48) : Option (Nat × Nat) :=
  let n := (imm &&& 0xFF).toNat; let s := ((imm >>> 8) &&& 0xFF).toNat; let g := gOf imm; let t := tagOf m
  if n == 0 || 512 < n * g || tagLanes t < s + n then some (3, 0)
  else if g < tagWidth t + (if signedTag t then 0 else 1) then some (3, 16) else none
def evenV : Reg → Bool
  | .v i => i.val % 2 == 0
  | _ => false
/-- R228: the low register of a pair is v0, v2, v4 or v6. -/
def ownEvenV (r : Reg) (bit : Nat) : Option (Nat × Nat) := if evenV r then none else some (4, bit)
/-- R229. -/
def ownVunpk (m : Byte) (imm : BitVec 48) (sa : Reg) : Option (Nat × Nat) :=
  let n := (imm &&& 0xFF).toNat; let j := ((imm >>> 8) &&& 0xFF).toNat; let g := gOf imm; let h := ((imm >>> 20) &&& 15).toNat
  let t := tagOf m; let pair := m.getLsbD 6
  if pair && !evenV sa then some (4, 64)
  else if n == 0 || tagLanes t < n then some (3, 0)
  else if g ≤ h || tagWidth t < g - h then some (3, 16)
  else if (if pair then 1024 else 512) < (j + n) * g then some (3, 0) else none
def sameClass : Reg → Reg → Bool
  | .w _, .w _ => true
  | .v _, .v _ => true
  | _, _ => false
/-- R231: DST and SA of one class. -/
def ownSame (d a : Reg) : Option (Nat × Nat) := if sameClass d a then none else some (4, 64)
/-- R260: a WB type takes a tile operand only. -/
def ownLdv (f : Mem) : Option (Nat × Nat) :=
  match f.sa with
  | .t _ => none
  | _ => if wbTag ((f.mod >>> 3).extractLsb' 0 5) then some (4, 64) else none
/-- R328: no G code 3, H at most g − 8. -/
def ownGrd (_m : Byte) (imm : BitVec 48) : Option (Nat × Nat) :=
  let g := (imm &&& 3).toNat; let h := ((imm >>> 8) &&& 0x1F).toNat
  if g == 3 then some (3, 0) else if 8 * (g + 2) < h + 8 then some (3, 0) else none
/-- R318: an SBA gate names a panel barrier of which the sequencer is a party. -/
def ownSba (imm : BitVec 48) : Option (Nat × Nat) := if (imm &&& 15).toNat < 8 then none else some (3, 0)
/-- The barriers of each level (R341). -/
def barLimit (level : Nat) : Nat := match level with | 0 => 4 | 1 => 16 | 2 => 8 | _ => 4
/-- R361, R318: the number's range, and the levels and numbers the stream accepts. -/
def ownBar (stream arrives : Bool) (m : Byte) (imm : BitVec 48) : Option (Nat × Nat) :=
  let level := (m &&& 3).toNat
  if stream && level != 1 then some (3, 80)
  else if m.getLsbD 2 then none
  else if (imm &&& 15).toNat < (if stream && arrives then 8 else barLimit level) then none else some (3, 0)
/-- R362. -/
def ownBarq (m : Byte) (imm : BitVec 48) : Option (Nat × Nat) :=
  let word := ((imm >>> 16) &&& 0x1F).toNat
  if m.getLsbD 3 then (if word ≤ 17 then none else some (3, 16))
  else if !m.getLsbD 2 && barLimit (m &&& 3).toNat ≤ (imm &&& 15).toNat then some (3, 0)
  else if word ≤ 3 then none else some (3, 16)
def barqImm (m : Byte) : BitVec 48 :=
  0x1F0000 ||| (if m.getLsbD 2 then 0 else if m.getLsbD 3 then 0xFFFF else 0xF)
def ctrImm (m : Byte) (key : BitVec 48) : BitVec 48 :=
  key ||| (if m.getLsbD 0 then 0 else 0xFFFF) ||| (if m.getLsbD 1 then 0xFFFF00000000 else 0)
/-- R425: the system registers that exist, and for SWR those that are not RO. -/
def ownSel (imm : BitVec 48) (write : Bool) : Option (Nat × Nat) :=
  let n := (imm &&& 0xFF).toNat
  let known := n ≤ 3 || (0x10 ≤ n && n ≤ 0x15) || (0x20 ≤ n && n ≤ 0x25) || (0x30 ≤ n && n ≤ 0x33)
  let ro := n == 1 || n == 2 || n == 0x12 || n == 0x13 || n == 0x22 || n == 0x23
  if known && !(write && ro) then none else some (3, 0)

def mk (opc : Byte) (legal : Legal) (c : Common) (low : BitVec 51) (modOk : Bool) (dst sa sb sc : Use) (dstW : Bool)
    (used : BitVec 51) (bad : Option Nat) (own : Option (Nat × Nat)) : Form :=
  { opc, legal, c, low, modOk, dst, sa, sb, sc, dstW, used, bad, own }

/-- The form of each coded instruction (R114, R115 and the forms' tables: R158, R169 to R183, R207 to R223, R257, R285, R328,
R360, R378, R422); an event has none. -/
def Instr.form (stream : Bool) : Instr → Option Form
  | .nop f => some
    (mk 0x00 .both f.toCommon (genLow f) (f.mod == 0) .no .no .no .no true (genUsed (0)) (none) (none))
  | .bra f => some
    (mk 0x01 .both f.toCommon (brnLow f) (f.mod == 0) .no .no .no .no true (brnUsed) (brnBad f) (none))
  | .brp f => some
    (mk 0x02 .both f.toCommon (brnLow f) (f.mod.toNat ≤ 5) .no .wk .no .no true (brnUsed) (brnBad f) (none))
  | .jtb f => some
    (mk 0x03 .strand f.toCommon (jmpLow f) (f.mod == 0) .no .wk .wk .no true (jmpUsed false) (jtbBad f) (none))
  | .lpad f => some
    (mk 0x04 .strand f.toCommon (jmpLow f) (f.mod == 0) .no .no .no .no true (jmpUsed true) (none) (none))
  | .call f => some
    (mk 0x05 .strand f.toCommon (brnLow f) (1 ≤ f.mod.toNat ∧ f.mod.toNat ≤ 23) .no .no .no .no true (brnUsed) (brnBad f) (none))
  | .ret f => some
    (mk 0x06 .strand f.toCommon (genLow f) (f.mod == 0) .no .no .no .no true (genUsed (0)) (none) (none))
  | .exit f => some
    (mk 0x07 .strand f.toCommon (genLow f) (f.mod == 0) .no .no .no .no true (genUsed (0)) (none) (none))
  | .yield f => some
    (mk 0x08 .strand f.toCommon (genLow f) (f.mod == 0) .no .no .no .no true (genUsed (0xFF)) (none) (none))
  | .rgn f => some
    (mk 0x09 .strand f.toCommon (genLow f) (f.mod == 0) .no .no .no .no true (genUsed (0xFFFFFF)) (none) (ownRgn f.imm))
  | .add f => some
    (mk 0x10 .both f.toCommon (genLow f) (intMod f.mod false false) (vOr f.mod .wk) (vOr f.mod .wk) (vOr f.mod .wk) .no true (genUsed (0)) (none) (none))
  | .addi f => some
    (mk 0x11 .both f.toCommon (genLow f) (intMod f.mod false false) (vOr f.mod .wk) (vOr f.mod .wk) .no .no true (genUsed (immAll)) (none) (none))
  | .sub f => some
    (mk 0x12 .both f.toCommon (genLow f) (intMod f.mod false false) (vOr f.mod .wk) (vOr f.mod .wk) (vOr f.mod .wk) .no true (genUsed (0)) (none) (none))
  | .mul f => some
    (mk 0x13 .both f.toCommon (genLow f) (intMod f.mod false false) (vOr f.mod .wk) (vOr f.mod .wk) (vOr f.mod .wk) .no true (genUsed (0)) (none) (none))
  | .mulh f => some
    (mk 0x14 .strand f.toCommon (genLow f) (intMod f.mod false false) (vOr f.mod .wk) (vOr f.mod .wk) (vOr f.mod .wk) .no true (genUsed (0)) (none) (none))
  | .mulhu f => some
    (mk 0x15 .strand f.toCommon (genLow f) (intMod f.mod false false) (vOr f.mod .wk) (vOr f.mod .wk) (vOr f.mod .wk) .no true (genUsed (0)) (none) (none))
  | .div f => some
    (mk 0x16 .strand f.toCommon (genLow f) (intMod f.mod false false) (vOr f.mod .wk) (vOr f.mod .wk) (vOr f.mod .wk) .no true (genUsed (0)) (none) (none))
  | .divu f => some
    (mk 0x17 .strand f.toCommon (genLow f) (intMod f.mod false false) (vOr f.mod .wk) (vOr f.mod .wk) (vOr f.mod .wk) .no true (genUsed (0)) (none) (none))
  | .rem f => some
    (mk 0x18 .strand f.toCommon (genLow f) (intMod f.mod false false) (vOr f.mod .wk) (vOr f.mod .wk) (vOr f.mod .wk) .no true (genUsed (0)) (none) (none))
  | .remu f => some
    (mk 0x19 .strand f.toCommon (genLow f) (intMod f.mod false false) (vOr f.mod .wk) (vOr f.mod .wk) (vOr f.mod .wk) .no true (genUsed (0)) (none) (none))
  | .and f => some
    (mk 0x1A .both f.toCommon (genLow f) (intMod f.mod true false) (vOr f.mod .wk) (vOr f.mod .wk) (orImm f.mod (vOr f.mod .wk)) .no true (genUsed (immIf (f.mod.getLsbD 3))) (none) (none))
  | .or f => some
    (mk 0x1B .both f.toCommon (genLow f) (intMod f.mod true false) (vOr f.mod .wk) (vOr f.mod .wk) (orImm f.mod (vOr f.mod .wk)) .no true (genUsed (immIf (f.mod.getLsbD 3))) (none) (none))
  | .xor f => some
    (mk 0x1C .both f.toCommon (genLow f) (intMod f.mod true false) (vOr f.mod .wk) (vOr f.mod .wk) (orImm f.mod (vOr f.mod .wk)) .no true (genUsed (immIf (f.mod.getLsbD 3))) (none) (none))
  | .andn f => some
    (mk 0x1D .both f.toCommon (genLow f) (intMod f.mod true false) (vOr f.mod .wk) (vOr f.mod .wk) (orImm f.mod (vOr f.mod .wk)) .no true (genUsed (immIf (f.mod.getLsbD 3))) (none) (none))
  | .shl f => some
    (mk 0x1E .both f.toCommon (genLow f) (intMod f.mod true false) (vOr f.mod .wk) (vOr f.mod .wk) (orImm f.mod (vOr f.mod .wk)) .no true (genUsed (immIf (f.mod.getLsbD 3))) (none) (none))
  | .shr f => some
    (mk 0x1F .both f.toCommon (genLow f) (intMod f.mod true false) (vOr f.mod .wk) (vOr f.mod .wk) (orImm f.mod (vOr f.mod .wk)) .no true (genUsed (immIf (f.mod.getLsbD 3))) (none) (none))
  | .sar f => some
    (mk 0x20 .both f.toCommon (genLow f) (intMod f.mod true false) (vOr f.mod .wk) (vOr f.mod .wk) (orImm f.mod (vOr f.mod .wk)) .no true (genUsed (immIf (f.mod.getLsbD 3))) (none) (none))
  | .rol f => some
    (mk 0x21 .strand f.toCommon (genLow f) (intMod f.mod true false) (vOr f.mod .wk) (vOr f.mod .wk) (orImm f.mod (vOr f.mod .wk)) .no true (genUsed (immIf (f.mod.getLsbD 3))) (none) (none))
  | .bfx f => some
    (mk 0x23 .both f.toCommon (genLow f) (intMod f.mod false true) (vOr f.mod .wk) (vOr f.mod .wk) .no .no true (genUsed (0x7F3F)) (none) (ownBf f.mod f.imm))
  | .bfi f => some
    (mk 0x24 .both f.toCommon (genLow f) (intMod f.mod false false) (vOr f.mod .wk) (vOr f.mod .wk) (vOr f.mod .wk) .no true (genUsed (0x7F3F)) (none) (ownBf f.mod f.imm))
  | .min f => some
    (mk 0x25 .both f.toCommon (genLow f) (intMod f.mod true false) (vOr f.mod .wk) (vOr f.mod .wk) (orImm f.mod (vOr f.mod .wk)) .no true (genUsed (immIf (f.mod.getLsbD 3))) (none) (none))
  | .max f => some
    (mk 0x26 .both f.toCommon (genLow f) (intMod f.mod true false) (vOr f.mod .wk) (vOr f.mod .wk) (orImm f.mod (vOr f.mod .wk)) .no true (genUsed (immIf (f.mod.getLsbD 3))) (none) (none))
  | .minu f => some
    (mk 0x27 .both f.toCommon (genLow f) (intMod f.mod true false) (vOr f.mod .wk) (vOr f.mod .wk) (orImm f.mod (vOr f.mod .wk)) .no true (genUsed (immIf (f.mod.getLsbD 3))) (none) (none))
  | .maxu f => some
    (mk 0x28 .both f.toCommon (genLow f) (intMod f.mod true false) (vOr f.mod .wk) (vOr f.mod .wk) (orImm f.mod (vOr f.mod .wk)) .no true (genUsed (immIf (f.mod.getLsbD 3))) (none) (none))
  | .sel f => some
    (mk 0x29 .strand f.toCommon (genLow f) (intMod f.mod false false && !f.mod.getLsbD 7) .wk .wk .wk .p true (genUsed (0)) (none) (none))
  | .mov f => some
    (mk 0x2A .both f.toCommon (genLow f) (movMod stream f.mod f.dst f.sa) (movDst f.mod) (movSrc f.mod f.dst) .no .no true (genUsed (0)) (none) (none))
  | .lea f => some
    (mk 0x2C .both f.toCommon (memLow f) (f.mod == 3) .wk .wk (ix f.x) .no true (memUsed) (leaBad stream f) (none))
  | .cmp f => some
    (mk 0x2D .strand f.toCommon (genLow f) (cmpMod f.mod) .p .wk (orImm f.mod .wk) .no true (genUsed (immIf (f.mod.getLsbD 3))) (none) (none))
  | .plop f => some
    (mk 0x2E .strand f.toCommon (genLow f) (f.mod == 0) .p .p .p .p true (genUsed (0xFF)) (none) (none))
  | .rdid f => some
    (mk 0x2F .strand f.toCommon (genLow f) (f.mod == 3) .wk .no .no .no true (genUsed (0xFF)) (none) (ownBelow f.imm 0xFF 14))
  | .clz f => some
    (mk 0x22 .strand f.toCommon (genLow f) ((intMod f.mod false false) && f.fn == 0) (vOr f.mod .wk) (vOr f.mod .wk) .no .no true (genUsedFn (0)) (none) (none))
  | .ctz f => some
    (mk 0x22 .strand f.toCommon (genLow f) ((intMod f.mod false false) && f.fn == 1) (vOr f.mod .wk) (vOr f.mod .wk) .no .no true (genUsedFn (0)) (none) (none))
  | .popc f => some
    (mk 0x22 .strand f.toCommon (genLow f) ((intMod f.mod false false) && f.fn == 2) (vOr f.mod .wk) (vOr f.mod .wk) .no .no true (genUsedFn (0)) (none) (none))
  | .brev f => some
    (mk 0x22 .strand f.toCommon (genLow f) ((intMod f.mod false false) && f.fn == 3) (vOr f.mod .wk) (vOr f.mod .wk) .no .no true (genUsedFn (0)) (none) (none))
  | .abs f => some
    (mk 0x22 .strand f.toCommon (genLow f) ((intMod f.mod false false) && f.fn == 4) (vOr f.mod .wk) (vOr f.mod .wk) .no .no true (genUsedFn (0)) (none) (none))
  | .movi f => some
    (mk 0x2B .both f.toCommon (genLow f) ((intMod f.mod false false && !f.mod.getLsbD 7) && f.fn == 0) .wk .no .no .no true (genUsedFn (immAll)) (none) (none))
  | .movh f => some
    (mk 0x2B .both f.toCommon (genLow f) ((f.mod == 3) && f.fn == 1) .wk .no .no .no true (genUsedFn (0xFFFF)) (none) (none))
  | .fadd f => some
    (mk 0x30 .strand f.toCommon (genLow f) (fpMod f.mod true) (vOr f.mod .wk) (vOr f.mod .wk) (vOr f.mod .wk) .no true (genUsed (0)) (none) (none))
  | .fsub f => some
    (mk 0x31 .strand f.toCommon (genLow f) (fpMod f.mod true) (vOr f.mod .wk) (vOr f.mod .wk) (vOr f.mod .wk) .no true (genUsed (0)) (none) (none))
  | .fmul f => some
    (mk 0x32 .strand f.toCommon (genLow f) (fpMod f.mod true) (vOr f.mod .wk) (vOr f.mod .wk) (vOr f.mod .wk) .no true (genUsed (0)) (none) (none))
  | .fma f => some
    (mk 0x33 .strand f.toCommon (genLow f) (fpMod f.mod true) (vOr f.mod .wk) (vOr f.mod .wk) (vOr f.mod .wk) (vOr f.mod .wk) true (genUsed (0)) (none) (none))
  | .fdiv f => some
    (mk 0x34 .strand f.toCommon (genLow f) (fpMod f.mod true) (vOr f.mod .wk) (vOr f.mod .wk) (vOr f.mod .wk) .no true (genUsed (0)) (none) (none))
  | .fsqrt f => some
    (mk 0x35 .strand f.toCommon (genLow f) (fpMod f.mod true) (vOr f.mod .wk) (vOr f.mod .wk) .no .no true (genUsed (0)) (none) (none))
  | .frcp f => some
    (mk 0x36 .strand f.toCommon (genLow f) (fpMod f.mod true) (vOr f.mod .wk) (vOr f.mod .wk) .no .no true (genUsed (0)) (none) (none))
  | .frsq f => some
    (mk 0x37 .strand f.toCommon (genLow f) (fpMod f.mod true) (vOr f.mod .wk) (vOr f.mod .wk) .no .no true (genUsed (0)) (none) (none))
  | .fex2 f => some
    (mk 0x38 .strand f.toCommon (genLow f) (fpMod f.mod true) (vOr f.mod .wk) (vOr f.mod .wk) .no .no true (genUsed (0)) (none) (none))
  | .flg2 f => some
    (mk 0x39 .strand f.toCommon (genLow f) (fpMod f.mod true) (vOr f.mod .wk) (vOr f.mod .wk) .no .no true (genUsed (0)) (none) (none))
  | .fmin f => some
    (mk 0x3A .strand f.toCommon (genLow f) (fpMod f.mod false) (vOr f.mod .wk) (vOr f.mod .wk) (vOr f.mod .wk) .no true (genUsed (0)) (none) (none))
  | .fmax f => some
    (mk 0x3B .strand f.toCommon (genLow f) (fpMod f.mod false) (vOr f.mod .wk) (vOr f.mod .wk) (vOr f.mod .wk) .no true (genUsed (0)) (none) (none))
  | .fcmp f => some
    (mk 0x3C .strand f.toCommon (genLow f) (fpMod f.mod false) (if f.mod.getLsbD 7 then .w else .p) (vOr f.mod .wk) (vOr f.mod .wk) .no true (genUsed (0xF)) (none) (ownBelow f.imm 0xF 8))
  | .fcvt f => some
    (mk 0x3D .strand f.toCommon (genLow f) (cvtType (tagOf f.mod)) (vOr f.mod .wk) (vOr f.mod .wk) .no .no true (genUsed (0xFFF071F)) (none) (ownFcvt f.mod f.imm))
  | .fcls f => some
    (mk 0x3E .strand f.toCommon (genLow f) (fpMod f.mod false) (vOr f.mod .wk) (vOr f.mod .wk) .no .no true (genUsed (0)) (none) (none))
  | .frnd f => some
    (mk 0x3F .strand f.toCommon (genLow f) (fpMod f.mod true) (vOr f.mod .wk) (vOr f.mod .wk) .no .no true (genUsed (0)) (none) (none))
  | .vspl f => some
    (mk 0x40 .strand f.toCommon (genLow f) (noHigh f.mod 0x20 && splatType (tagOf f.mod)) .v (orImm5 f.mod .wk) .no .no true (genUsed (immIf (f.mod.getLsbD 5))) (none) (none))
  | .vprm f => some
    (mk 0x41 .strand f.toCommon (genLow f) (noHigh f.mod 0 && wide8 (tagOf f.mod)) .v .v .v .no true (genUsed (0)) (none) (none))
  | .vext f => some
    (mk 0x42 .strand f.toCommon (genLow f) (noHigh f.mod 0x20 && splatType (tagOf f.mod)) .wk .v (orImm5 f.mod .wk) .no true (genUsed ((if f.mod.getLsbD 5 then 0x1FF else 0))) (none) (none))
  | .vins f => some
    (mk 0x43 .strand f.toCommon (genLow f) (noHigh f.mod 0x20 && splatType (tagOf f.mod)) .v .wk (orImm5 f.mod .wk) .no true (genUsed ((if f.mod.getLsbD 5 then 0x1FF else 0))) (none) (none))
  | .vred f => some
    (mk 0x44 .strand f.toCommon (genLow f) (redMod f.mod) .wk .v (if f.imm.getLsbD 0 then .wk else .no) .no true (genUsed (1)) (none) (none))
  | .vscn f => some
    (mk 0x45 .strand f.toCommon (genLow f) (redMod f.mod) .v .v (if f.imm.getLsbD 0 then .wk else .no) .no true (genUsed (1)) (none) (none))
  | .vsel f => some
    (mk 0x46 .strand f.toCommon (genLow f) (noHigh f.mod 0 && wide8 (tagOf f.mod)) .v .v .v .wk true (genUsed (0)) (none) (none))
  | .vmsk f => some
    (mk 0x47 .strand f.toCommon (genLow f) (mskMod f.mod) (if (f.mod >>> 5).toNat == 2 then .v else .w) (if (f.mod >>> 5).toNat == 2 then .wk else .v) .no .no true (genUsed (0)) (none) (none))
  | .vqnt f => some
    (mk 0x48 .strand f.toCommon (genLow f) (noHigh f.mod 0 && isWb (tagOf f.mod)) .v .v .vOrZero .no true (genUsed (0xFFF0300)) (none) (ownBelow ((f.imm >>> 8) &&& 3) 3 (wbBlocks (tagOf f.mod)) |>.map (fun o => (o.1, 8))))
  | .vdqn f => some
    (mk 0x49 .strand f.toCommon (genLow f) (noHigh f.mod 0x60 && dqnType (tagOf f.mod)) .v .v .no .no true (genUsed (0xFFF0700)) (none) (ownVdqn f.mod f.imm))
  | .vtag f => some
    (mk 0x4A .strand f.toCommon (genLow f) (noHigh f.mod 0 && knownTag (tagOf f.mod)) .v .v .no .no true (genUsed (0)) (none) (none))
  | .vpack f => some
    (mk 0x4B .strand f.toCommon (genLow f) (noHigh f.mod 0x20 && packType (tagOf f.mod)) .v .v .no .no true (genUsed (0x3FFFF)) (none) (ownVpack f.mod f.imm))
  | .vunpk f => some
    (mk 0x4C .strand f.toCommon (genLow f) (noHigh f.mod 0x60 && unpackType (tagOf f.mod)) .v .v .no .no true (genUsed (0xF3FFFF)) (none) (ownVunpk f.mod f.imm f.sa))
  | .vpmul f => some
    (mk 0x4D .strand f.toCommon (genLow f) (f.mod == 0x0B) .v .v .v .no true (genUsed (0)) (none) (ownEvenV f.dst 70))
  | .vrand f => some
    (mk 0x4E .strand f.toCommon (genLow f) (noHigh f.mod 0 && isUint8 (tagOf f.mod)) .v .wk .no .no true (genUsed (0)) (none) (none))
  | .xshf f => some
    (mk 0x50 .strand f.toCommon (genLow f) (noHigh f.mod 0x60 && tagOf f.mod == 0) .wv .wv (if (f.mod >>> 5).toNat == 0 then .wk else .no) .no true (genUsed ((if (f.mod >>> 5).toNat == 0 then 0 else 0xF))) (none) (ownSame f.dst f.sa))
  | .xbrd f => some
    (mk 0x51 .strand f.toCommon (genLow f) (noHigh f.mod 0x20 && tagOf f.mod == 0) .wv .wv (orImm5 f.mod .wk) .no true (genUsed ((if f.mod.getLsbD 5 then 0xF else 0))) (none) (ownSame f.dst f.sa))
  | .xred f => some
    (mk 0x52 .strand f.toCommon (genLow f) (redMod f.mod) .wv .wv .no .no true (genUsed (0)) (none) (ownSame f.dst f.sa))
  | .xscn f => some
    (mk 0x53 .strand f.toCommon (genLow f) (redMod f.mod) .wv .wv .no .no true (genUsed (1)) (none) (ownSame f.dst f.sa))
  | .xvot f => some
    (mk 0x54 .strand f.toCommon (genLow f) (votMod f.mod) (if (f.mod >>> 5).toNat == 2 then .w else .p) (if (f.mod >>> 5).toNat == 3 then .w else .p) .no .no true (genUsed (0)) (none) (none))
  | .xuni f => some
    (mk 0x55 .strand f.toCommon (genLow f) (noHigh f.mod 0 && intType (tagOf f.mod)) .w .wk .no .no true (genUsed (0)) (none) (none))
  | .ld f => some
    (mk 0x60 .strand f.toCommon (memLow f) (ldMod f.mod) .wk .wkt (ix f.x) .no true (memUsed) (memBad f) (none))
  | .st f => some
    (mk 0x61 .strand f.toCommon (memLow f) (stMod f.mod) .wk .wkt (ix f.x) .no false (memUsed) (memBad f) (none))
  | .ldv f => some
    (mk 0x62 .strand f.toCommon (memLow f) (vecMod f.mod) .v .wkt (ix f.x) .no true (memUsed) (memBad f) (ownLdv f))
  | .stv f => some
    (mk 0x63 .strand f.toCommon (memLow f) (vecMod f.mod) .v .wkt (ix f.x) .no false (memUsed) (memBad f) (ownLdv f))
  | .gath f => some
    (mk 0x64 .strand f.toCommon (memLow f) (gathMod f.mod) .v .wk .v (if f.mod.getLsbD 5 then .wk else .no) true (memUsed) (gathBad f) (none))
  | .scat f => some
    (mk 0x65 .strand f.toCommon (memLow f) (gathMod f.mod) .v .wk .v (if f.mod.getLsbD 5 then .wk else .no) false (memUsed) (gathBad f) (none))
  | .aadd f => some
    (mk 0x70 .strand f.toCommon (memLow f) (atomMod f.mod false) .wk .wk (ix f.x) .wk true (memUsed) (memBad f) (none))
  | .amin f => some
    (mk 0x71 .strand f.toCommon (memLow f) (atomMod f.mod true) .wk .wk (ix f.x) .wk true (memUsed) (memBad f) (none))
  | .amax f => some
    (mk 0x72 .strand f.toCommon (memLow f) (atomMod f.mod true) .wk .wk (ix f.x) .wk true (memUsed) (memBad f) (none))
  | .aand f => some
    (mk 0x73 .strand f.toCommon (memLow f) (atomMod f.mod false) .wk .wk (ix f.x) .wk true (memUsed) (memBad f) (none))
  | .aor f => some
    (mk 0x74 .strand f.toCommon (memLow f) (atomMod f.mod false) .wk .wk (ix f.x) .wk true (memUsed) (memBad f) (none))
  | .axor f => some
    (mk 0x75 .strand f.toCommon (memLow f) (atomMod f.mod false) .wk .wk (ix f.x) .wk true (memUsed) (memBad f) (none))
  | .axch f => some
    (mk 0x76 .strand f.toCommon (memLow f) (atomMod f.mod false) .wk .wk (ix f.x) .wk true (memUsed) (memBad f) (none))
  | .acas f => some
    (mk 0x77 .strand f.toCommon (memLow f) (atomMod f.mod false) .wk .wk (ix f.x) .wk true (memUsed) (memBad f) (none))
  | .afad f => some
    (mk 0x78 .strand f.toCommon (memLow f) (atomMod f.mod false) .wk .wk (ix f.x) .wk true (memUsed) (memBad f) (none))
  | .tdsc f => some
    (mk 0x80 .strand f.toCommon (genLow f) (f.mod == 0) .no .wk .wk .no true (genUsed (0xF)) (none) (ownBelow f.imm 0xF 10))
  | .tfch f => some
    (mk 0x81 .strand f.toCommon (genLow f) (tfchMod f.mod) .t .wk .wk .no true (genUsed (0x1FFFF)) (none) (none))
  | .tevc f => some
    (mk 0x82 .strand f.toCommon (genLow f) (f.mod.toNat ≤ 1) .no .t .no .no true (genUsed (0x1FFFF)) (none) (none))
  | .tmov f => some
    (mk 0x83 .strand f.toCommon (genLow f) (f.mod.toNat ≤ 15) .t .t .no .no true (genUsed (0x1FFFF)) (none) (none))
  | .tacc f => some
    (mk 0x84 .strand f.toCommon (genLow f) (f.mod.toNat ≤ 2) .no .t .wk .wk true (genUsed (0)) (none) (none))
  | .tset f => some
    (mk 0x85 .strand f.toCommon (memLow f) (f.mod.toNat ≤ 3) .wk .t (ix f.x) .no false (memUsed) (memBad f) (none))
  | .tget f => some
    (mk 0x86 .strand f.toCommon (memLow f) (f.mod == 0) .wk .t (ix f.x) .no true (memUsed) (memBad f) (none))
  | .tcmp f => some
    (mk 0x87 .strand f.toCommon (genLow f) (f.mod.toNat ≤ 3) .p .t .wk .wk true (genUsed (0)) (none) (none))
  | .tlogCompact f => some
    (mk 0x88 .strand f.toCommon (genLow f) (f.mod == 0) .no .t .no .no true (genUsed (0x1FFFF)) (none) (none))
  | .tlogApply f => some
    (mk 0x88 .strand f.toCommon (genLow f) (f.mod == 1) .no .t .no .no true (genUsed (0x1FFFF)) (none) (none))
  | .tlogDiscard f => some
    (mk 0x88 .strand f.toCommon (genLow f) (f.mod == 2) .no .t .no .no true (genUsed (0x1FFFF)) (none) (none))
  | .tlogQuery f => some
    (mk 0x88 .strand f.toCommon (genLow f) (f.mod == 3) .w .t .no .no true (genUsed (0)) (none) (none))
  | .cpy f => some
    (mk 0x89 .strand f.toCommon (genLow f) (f.mod == 0) .no .wk .wk .wk true (genUsed (0x1FFFF)) (none) (none))
  | .cpySnap f => some
    (mk 0x89 .strand f.toCommon (genLow f) (f.mod == 1) .no .wk .t .no true (genUsed (0x1FFFF)) (none) (none))
  | .cwt f => some
    (mk 0x8A .strand f.toCommon (genLow f) (f.mod == 0) .no .no .no .no true (genUsed (0xFF)) (none) (none))
  | .rlq f => some
    (mk 0x8B .strand f.toCommon (genLow f) (f.mod.toNat ≤ 2) .w .wk .no .no true (genUsed (0)) (none) (none))
  | .grd f => some
    (mk 0x90 .stream f.toCommon (genLow f) (f.mod.toNat ≤ 1) .no .no .no .no true (genUsed ((if f.mod == 1 then 0x1F03 else 0x7FF00001F03))) (none) (ownGrd f.mod f.imm))
  | .job f => some
    (mk 0x91 .stream f.toCommon (genLow f) (f.mod == 0) .wk .wk .no .no true (genUsed (0)) (none) (none))
  | .jwt f => some
    (mk 0x92 .stream f.toCommon (genLow f) (f.mod.toNat ≤ 1) .wk .no .no .no true (genUsed (0)) (none) (none))
  | .jrs f => some
    (mk 0x93 .stream f.toCommon (genLow f) (f.mod == 0) .no .wk .no .no true (genUsed (0)) (none) (none))
  | .acz f => some
    (mk 0x94 .stream f.toCommon (genLow f) (f.mod == 0) .no .no .no .no true (genUsed (0)) (none) (none))
  | .acs f => some
    (mk 0x95 .stream f.toCommon (genLow f) (f.mod == 0) .no .wk .no .no true (genUsed (0)) (none) (none))
  | .acl f => some
    (mk 0x96 .stream f.toCommon (genLow f) (f.mod == 0) .no .wk .no .no true (genUsed (0)) (none) (none))
  | .ext f => some
    (mk 0x97 .stream f.toCommon (genLow f) (f.mod.toNat ≤ 1) .no .wk .no .no true (genUsed (0)) (none) (none))
  | .sba f => some
    (mk 0x98 .stream f.toCommon (genLow f) (f.mod == 0) .no .no .no .no true (genUsed (0xFFFF000F)) (none) (ownSba f.imm))
  | .sbw f => some
    (mk 0x99 .stream f.toCommon (genLow f) (f.mod == 0) .no .no .no .no true (genUsed (0xFFFF000F)) (none) (none))
  | .bara f => some
    (mk 0xA0 .both f.toCommon (genLow f) (f.mod.toNat ≤ 7) .no (reg f.mod 2) .no .no true (genUsed ((if f.mod.getLsbD 2 then 0 else 0xF))) (none) (ownBar stream true f.mod f.imm))
  | .barw f => some
    (mk 0xA1 .both f.toCommon (genLow f) (f.mod.toNat ≤ 7) .no (reg f.mod 2) .no .no true (genUsed ((if f.mod.getLsbD 2 then 0 else 0xF))) (none) (ownBar stream false f.mod f.imm))
  | .bar f => some
    (mk 0xA2 .both f.toCommon (genLow f) (f.mod.toNat ≤ 7) .no (reg f.mod 2) .no .no true (genUsed ((if f.mod.getLsbD 2 then 0 else 0xF))) (none) (ownBar stream true f.mod f.imm))
  | .barq f => some
    (mk 0xA3 .strand f.toCommon (genLow f) (f.mod.toNat ≤ 15 && !(f.mod.getLsbD 3 && f.mod.toNat % 4 != 0)) .wk (reg f.mod 2) .no .no true (genUsed (barqImm f.mod)) (none) (ownBarq f.mod f.imm))
  | .cinc f => some
    (mk 0xA4 .strand f.toCommon (genLow f) (f.mod.toNat ≤ 15) (reg f.mod 3) (reg f.mod 0) (if f.mod.getLsbD 1 then .no else .wk) .no true (genUsed (ctrImm f.mod 0xFFFF0000)) (none) (none))
  | .cwait f => some
    (mk 0xA5 .strand f.toCommon (genLow f) (f.mod.toNat ≤ 15) (reg f.mod 3) (reg f.mod 0) (if f.mod.getLsbD 1 then .no else .wk) .no true (genUsed (ctrImm f.mod 0)) (none) (none))
  | .cset f => some
    (mk 0xA6 .strand f.toCommon (genLow f) (f.mod.toNat ≤ 15) (reg f.mod 3) (reg f.mod 0) (if f.mod.getLsbD 1 then .no else .wk) .no true (genUsed (ctrImm f.mod 0)) (none) (none))
  | .cdcl f => some
    (mk 0xA7 .strand f.toCommon (genLow f) (f.mod.toNat ≤ 1) .no (reg f.mod 0) .wk .no true (genUsed ((if f.mod.getLsbD 0 then 0x1F0000 else 0x1FFFFF))) (none) (ownBelow ((f.imm >>> 16) &&& 0x1F) 0x1F 17 |>.map (fun o => (o.1, 16))))
  | .fence f => some
    (mk 0xA8 .both f.toCommon (genLow f) (f.mod.toNat ≤ 2) .no .no .no .no true (genUsed (0)) (none) (none))
  | .fld f => some
    (mk 0xB0 .strand f.toCommon (genLow f) (f.mod.toNat ≤ 15 && 1 ≤ f.mod.toNat % 8 && f.mod.toNat % 8 ≤ 4) .wk .wk .no .no true (genUsed (immAll)) (none) (none))
  | .fst f => some
    (mk 0xB1 .strand f.toCommon (genLow f) (1 ≤ f.mod.toNat && f.mod.toNat ≤ 4) .no .wk .wk .no true (genUsed (immAll)) (none) (none))
  | .fatm f => some
    (mk 0xB2 .strand f.toCommon (genLow f) ((f.mod.toNat % 8 == 3 || f.mod.toNat % 8 == 4) && f.mod.toNat / 8 ≤ 9) .no .wk .wk .no true (genUsed (immAll)) (none) (none))
  | .qpst f => some
    (mk 0xB3 .strand f.toCommon (genLow f) (f.mod == 0) .no .wk .no .no true (genUsed (0)) (none) (none))
  | .qarm f => some
    (mk 0xB4 .strand f.toCommon (genLow f) (f.mod == 0) .no .wk .wk .no true (genUsed (0xFFFF)) (none) (none))
  | .coll f => some
    (mk 0xB5 .strand f.toCommon (genLow f) (f.mod == 0) .wk .wk .no .no true (genUsed (0)) (none) (none))
  | .cwdQuery f => some
    (mk 0xB6 .strand f.toCommon (genLow f) (f.mod == 0) .wk .wk .no .no true (genUsed (0x1F)) (none) (ownBelow f.imm 0x1F 4))
  | .cwdExtend f => some
    (mk 0xB6 .strand f.toCommon (genLow f) (f.mod == 1) .no .wk .wk .no true (genUsed (0)) (none) (none))
  | .pent f => some
    (mk 0xB7 .strand f.toCommon (genLow f) (f.mod.toNat ≤ 2) .no .no .no .no true (genUsed (0xFF)) (none) (none))
  | .trap f => some
    (mk 0xC0 .strand f.toCommon (genLow f) (f.mod == 0) .no .no .no .no true (genUsed (0xFFFF)) (none) (none))
  | .rtt f => some
    (mk 0xC1 .strand f.toCommon (genLow f) (f.mod == 0) .no .no .no .no true (genUsed (0)) (none) (none))
  | .srd f => some
    (mk 0xC2 .strand f.toCommon (genLow f) (f.mod == 0) .wk .no .no .no true (genUsed (0xFF)) (none) (ownSel f.imm false))
  | .swr f => some
    (mk 0xC3 .strand f.toCommon (genLow f) (f.mod == 0) .no .wk .no .no true (genUsed (0xFF)) (none) (ownSel f.imm true))
  | .icinv f => some
    (mk 0xC4 .strand f.toCommon (genLow f) (f.mod.toNat ≤ 3) .no .wk .wk .no true (genUsed (0)) (none) (none))
  | .bkpt f => some
    (mk 0xC5 .strand f.toCommon (genLow f) (f.mod == 0) .no .no .no .no true (genUsed (0xFFFF)) (none) (none))
  | .evt f => some
    (mk 0xC6 .strand f.toCommon (genLow f) (f.mod.toNat ≤ 1) .no .wk .wk .no true (genUsed (0xF)) (none) (none))
  | .caus f => some
    (mk 0xC7 .strand f.toCommon (genLow f) (f.mod == 0) .no .wk .no .no true (genUsed (0)) (none) (none))
  | .causNew f => some
    (mk 0xC7 .strand f.toCommon (genLow f) (f.mod == 1) .wk .no .no .no true (genUsed (0)) (none) (none))
  | .halt f => some
    (mk 0xC8 .strand f.toCommon (genLow f) (f.mod == 0) .no .no .no .no true (genUsed (0)) (none) (none))
  | .glch f => some
    (mk 0xC9 .strand f.toCommon (genLow f) (f.mod == 0) .no .no .no .no true (genUsed (0xFFFF)) (none) (none))
  | .kill f => some
    (mk 0xCA .strand f.toCommon (genLow f) (f.mod == 0) .no .no .no .no true (genUsed (0xFFFF)) (none) (none))
  | .streamExit f => some
    (mk 0x07 .stream f.toCommon (genLow f) (f.mod == 0) .no .no .no .no true (genUsed (0)) (none) (none))
  | .powerOn _ => none
  | .deviceReset _ => none
  | .vcoreCurrentSample _ => none
  | .clockReduction => none
  | .clockRaise => none
  | .droopExcursion _ _ => none
  | .thermalCeilingFall _ => none
  | .thermalCeilingRise _ => none
  | .thermalTrip _ => none
  | .powerUpCommand _ => none
  | .heartbeat _ => none
  | .failover _ => none
  | .liveUpdate _ => none
  | .updateDone => none
  | .updateAbandoned => none
  | .attestationReport _ => none
  | .lifeidxSelect _ _ => none
  | .lifeidxClear _ _ => none
  | .managementRegisterWrite _ _ _ _ => none
  | .domainWrite _ _ => none
  | .contextEntryWrite _ _ _ => none
  | .queueStateOff _ _ => none
  | .queueStateRun _ _ => none
  | .regionFenceWrite _ _ _ => none
  | .firnGeometryWrite _ _ _ => none
  | .firnEnable _ => none
  | .firnDisable _ => none
  | .fabricAccessTableWrite _ _ => none
  | .tailWrite _ _ => none
  | .queueLost _ => none
  | .packetNop _ => none
  | .packetGraph _ => none
  | .packetSignal _ => none
  | .packetWait _ => none
  | .waitPacketRelease _ => none
  | .packetMarker _ => none
  | .nodeKernel _ => none
  | .nodeCopy _ => none
  | .nodeCollective _ => none
  | .nodeJoin _ => none
  | .nodeConditional _ => none
  | .nodeLoop _ => none
  | .nodeEvent _ => none
  | .nodeEnd _ => none
  | .nodeDone _ _ => none
  | .deadline _ => none
  | .affineAttempt => none
  | .castonAttempt _ => none
  | .reserve _ => none
  | .reserveReply _ => none
  | .commit _ => none
  | .release _ => none
  | .commitWindowLapse _ => none
  | .drainStart => none
  | .preemptRequest => none
  | .skeinSaved _ => none
  | .icacheFill _ _ _ _ => none
  | .icacheSoftError _ _ _ _ => none
  | .pcSample _ _ => none
  | .yieldExpiry _ _ => none
  | .breakpointHit _ _ => none
  | .singleStepTrap _ _ => none
  | .parkedAccessResume _ _ => none
  | .faultRetry _ => none
  | .sectorComplete _ => none
  | .tileFetch _ => none
  | .tileEvict _ => none
  | .tmovComplete _ => none
  | .tlogComplete _ => none
  | .snapshotCopyStart _ => none
  | .copyDone _ => none
  | .depthStep _ => none
  | .sbwGateOpen _ => none
  | .tileExtract _ => none
  | .engineStop _ _ => none
  | .linkDown _ => none
  | .linkUp _ => none
  | .fabricRead _ => none
  | .fabricReadResponse _ => none
  | .fabricWrite _ => none
  | .fabricAtomic _ => none
  | .fabricWriteReduce _ => none
  | .fabricSignal _ => none
  | .fabricAck _ => none
  | .fabricNack _ => none
  | .fabricChunk _ => none
  | .fabricReady _ => none
  | .fabricBarrierArrival _ => none
  | .fabricControl _ => none
  | .grandmasterMessage _ => none
  | .syncInterval => none
  | .fldReplyTimeout _ => none
  | .fabricTimeout _ => none
  | .replyAbandon _ => none
  | .readyResend _ => none
  | .reducePanel _ => none
  | .collLate _ => none
  | .contextKill _ _ => none
  | .sramUe _ => none
  | .debugStop _ _ => none
  | .attach _ => none
  | .detach _ => none
  | .stop _ => none
  | .resume _ => none
  | .stepPhase _ _ => none
  | .stepCourse _ _ => none
  | .debugRead _ _ _ => none
  | .debugWrite _ _ _ => none
  | .debugIcinv _ _ _ => none
  | .trigger => none
  | .courseRetired _ _ => none
  | .skeinBoundOff _ => none
  | .seal _ _ => none
  | .verify _ _ _ _ => none
  | .powerLoss _ => none
  | .junctionBelow80c _ _ => none
  | .thermalExcursionEnd _ => none
  | .cxlLinkRetrain => none
  | .cxlMemWrite _ _ => none
  | .datumArrival _ => none
  | .packetRelay _ => none
  | .reservedKindPacket _ => none
  | .departureReport _ => none

/-! ## The checks of R116 -/

/-- The lowest set bit. -/
def lowBit {n : Nat} (x : BitVec n) : Option Nat := (List.range n).find? (fun i => x.getLsbD i)

/-- The register fields with their classes and lowest slot bits, in operand order DST, SA, SB, SC (R104, R141). -/
def Form.fields (f : Form) : List (Use × Reg × Nat) :=
  [(f.dst, f.c.dst, 70), (f.sa, f.c.sa, 64), (f.sb, f.c.sb, 58), (f.sc, f.c.sc, 52)]

/-- Check 7: the failing field is the lowest-placed one, so the answer is the least failing bit (log 9). -/
def Form.check7 (stream : Bool) (f : Form) : Option Nat :=
  let unused := lowBit (f.low &&& ~~~f.used)
  let regs := f.fields.filterMap (fun (u, r, b) => if u == .no then (lowBit r.field).map (· + b) else none)
  let guard := if stream then
      (lowBit (BitVec.ofNat 3 f.c.guard.pred.val)).map (· + 76) |>.orElse (fun _ => if f.c.guard.neg then some 79 else none)
    else none
  let u := if f.c.u && (stream || f.opc >>> 4 == 5) then some 51 else none
  ((unused.toList ++ f.bad.toList) ++ (u.toList ++ regs ++ guard.toList)).min?

/-- Check 8: a register field of a class that is not accepted; of several, the lowest-placed one (log 9). -/
def Form.check8 (stream : Bool) (f : Form) : Option Nat :=
  (f.fields.filterMap (fun (u, r, b) => if u != .no && !u.ok stream r then some b else none)).min?

/-- Check 9: k0 named as a destination (R107). -/
def Form.check9 (f : Form) : Bool := f.dstW && f.dst != .no && f.c.dst == .k 0

/-- Whether an opcode is legal in the stream that issues it (R115). -/
def Legal.ok (stream : Bool) : Legal → Bool
  | .strand => !stream
  | .stream => stream
  | .both => true

/-- Checks 5 to 9 of R116 in order, then the form's own static checks. -/
def Form.check (stream : Bool) (f : Form) : Option Illegal :=
  if !f.legal.ok stream then some ⟨0x05, 0x7F⟩
  else if !f.modOk || (stream && f.c.mod.getLsbD 7) then some ⟨0x02, 0x7F⟩
  else match f.check7 stream with
    | some b => some ⟨0x03, b⟩
    | none => match f.check8 stream with
      | some b => some ⟨0x04, b⟩
      | none =>
        if f.check9 then some ⟨0x07, 70⟩
        else f.own.map (fun (d, b) => ⟨BitVec.ofNat 8 d, b⟩)

/-- A coded instruction that every static check of its stream passes. -/
def Instr.wellFormed (stream : Bool) (i : Instr) : Bool :=
  match i.form stream with
  | some f => (f.check stream).isNone
  | none => false

end Sys2Proof
end

