-- ==== Sys2Proof/Decode.lean ====
section
/-! DEFINITION. Fetch lines, the decoder and the encoder (R99 to R116). -/
namespace Sys2Proof

/-! ## Lines (R99 to R102) -/

/-- Slot i of a line (R99). -/
def lineSlot (l : LineBits) (i : Nat) : Slot := l.extractLsb' (96 * i) 96
/-- The line word (R99). -/
def lineWord (l : LineBits) : Word32 := l.extractLsb' 480 32

/-- The exclusive OR of the bits (R101). -/
def xorBits {n : Nat} (x : BitVec n) : Bool := popCount x % 2 == 1

/-- The line word holds an even number of ones (R101). -/
def lineParityOk (l : LineBits) : Bool := !xorBits (lineWord l)
/-- Slot i and its SPAR bit together hold an even number of ones (R101). -/
def slotParityOk (l : LineBits) (i : Nat) : Bool := xorBits (lineSlot l i) == (lineWord l).getLsbD (9 + i)
/-- Line-word bits [31:15] are zero (R100). -/
def lineReservedOk (l : LineBits) : Bool := lineWord l >>> 15 == 0
/-- TGTMASK bit i: slot i is a legal branch target (R100). -/
def lineTarget (l : LineBits) (i : Nat) : Bool := (lineWord l).getLsbD i

/-- A valid PC (R102). -/
def pcValid (pc : Word) : Bool := pc >>> 56 == 0 && (pc >>> 3) &&& 7 == 0 && (pc &&& 7).toNat ≤ 4
def pcLine (pc : Word) : Word := pc &&& ~~~0x3F
def pcSlot (pc : Word) : Nat := (pc &&& 7).toNat
/-- The sequential successor of a slot (R102). -/
def pcNext (pc : Word) : Word := if pcSlot pc < 4 then pc + 1 else pcLine pc + 64
/-- The target of a relative transfer (R109). -/
def brnTarget (pc : Word) (b : Brn) : Word := pcLine pc + b.offset.signExtend 64 * 64 + b.slot.setWidth 64

/-! ## Fields of a slot (R104, R106, R108 to R111) -/

/-- The register a 6-bit field names (R106). -/
def Reg.ofField (x : BitVec 6) : Reg :=
  if h : x.toNat < 0x18 then .w ⟨x.toNat, h⟩
  else if h : x.toNat < 0x20 then .k ⟨x.toNat - 0x18, by omega⟩
  else if h : x.toNat < 0x28 then .v ⟨x.toNat - 0x20, by omega⟩
  else if h : x.toNat < 0x30 then .p ⟨x.toNat - 0x28, by omega⟩
  else .t ⟨x.toNat - 0x30, by have := x.isLt; omega⟩

/-- The guard field [79:76] (R104). -/
def Guard.ofBits (x : BitVec 4) : Guard :=
  { neg := x.getLsbD 3, pred := ⟨x.toNat % 8, Nat.mod_lt _ (by decide)⟩ }
def Guard.bits (g : Guard) : BitVec 4 := BitVec.ofBool g.neg ++ BitVec.ofNat 3 g.pred.val

def commonOf (w : Slot) : Common :=
  { guard := Guard.ofBits (w.extractLsb' 76 4), mod := w.extractLsb' 80 8, dst := Reg.ofField (w.extractLsb' 70 6),
    sa := Reg.ofField (w.extractLsb' 64 6), sb := Reg.ofField (w.extractLsb' 58 6), sc := Reg.ofField (w.extractLsb' 52 6),
    u := w.getLsbD 51 }
def genOf (c : Common) (low : BitVec 51) : Gen := { toCommon := c, fn := low.extractLsb' 48 3, imm := low.extractLsb' 0 48 }
def brnOf (c : Common) (low : BitVec 51) : Brn :=
  { toCommon := c, rsv := low.extractLsb' 48 3, offset := low.extractLsb' 19 29, slot := low.extractLsb' 16 3,
    prio := low.extractLsb' 0 16 }
def memOf (c : Common) (low : BitVec 51) : Mem :=
  { toCommon := c, scale := low.extractLsb' 49 2, x := low.getLsbD 48, disp := low.extractLsb' 0 48 }
def jmpOf (c : Common) (low : BitVec 51) : Jmp :=
  { toCommon := c, rsv := low.extractLsb' 48 3, bound := low.extractLsb' 32 16, prio := low.extractLsb' 16 16,
    label := low.extractLsb' 0 16 }

/-- A slot from its opcode, common fields and bits [50:0] (R104). -/
def packSlot (opc : Byte) (c : Common) (low : BitVec 51) : Slot :=
  opc ++ c.mod ++ c.guard.bits ++ c.dst.field ++ c.sa.field ++ c.sb.field ++ c.sc.field ++ BitVec.ofBool c.u ++ low

/-! ## The opcode map (R114) -/

/-- The instruction of an opcode, its fields and bits [50:0]; `none` where FN or the modifier's selector is reserved (R114) or
the opcode is unassigned. -/
def Instr.ofParts (stream : Bool) (opc : Byte) (c : Common) (low : BitVec 51) : Option Instr :=
  match opc with
  | 0x00 => some (.nop (genOf c low))
  | 0x01 => some (.bra (brnOf c low))
  | 0x02 => some (.brp (brnOf c low))
  | 0x03 => some (.jtb (jmpOf c low))
  | 0x04 => some (.lpad (jmpOf c low))
  | 0x05 => some (.call (brnOf c low))
  | 0x06 => some (.ret (genOf c low))
  | 0x07 => some (if stream then .streamExit (genOf c low) else .exit (genOf c low))
  | 0x08 => some (.yield (genOf c low))
  | 0x09 => some (.rgn (genOf c low))
  | 0x10 => some (.add (genOf c low))
  | 0x11 => some (.addi (genOf c low))
  | 0x12 => some (.sub (genOf c low))
  | 0x13 => some (.mul (genOf c low))
  | 0x14 => some (.mulh (genOf c low))
  | 0x15 => some (.mulhu (genOf c low))
  | 0x16 => some (.div (genOf c low))
  | 0x17 => some (.divu (genOf c low))
  | 0x18 => some (.rem (genOf c low))
  | 0x19 => some (.remu (genOf c low))
  | 0x1A => some (.and (genOf c low))
  | 0x1B => some (.or (genOf c low))
  | 0x1C => some (.xor (genOf c low))
  | 0x1D => some (.andn (genOf c low))
  | 0x1E => some (.shl (genOf c low))
  | 0x1F => some (.shr (genOf c low))
  | 0x20 => some (.sar (genOf c low))
  | 0x21 => some (.rol (genOf c low))
  | 0x22 => if (genOf c low).fn == 0 then some (.clz (genOf c low)) else if (genOf c low).fn == 1 then some (.ctz (genOf c low)) else if (genOf c low).fn == 2 then some (.popc (genOf c low)) else if (genOf c low).fn == 3 then some (.brev (genOf c low)) else if (genOf c low).fn == 4 then some (.abs (genOf c low)) else none
  | 0x23 => some (.bfx (genOf c low))
  | 0x24 => some (.bfi (genOf c low))
  | 0x25 => some (.min (genOf c low))
  | 0x26 => some (.max (genOf c low))
  | 0x27 => some (.minu (genOf c low))
  | 0x28 => some (.maxu (genOf c low))
  | 0x29 => some (.sel (genOf c low))
  | 0x2A => some (.mov (genOf c low))
  | 0x2B => if (genOf c low).fn == 0 then some (.movi (genOf c low)) else if (genOf c low).fn == 1 then some (.movh (genOf c low)) else none
  | 0x2C => some (.lea (memOf c low))
  | 0x2D => some (.cmp (genOf c low))
  | 0x2E => some (.plop (genOf c low))
  | 0x2F => some (.rdid (genOf c low))
  | 0x30 => some (.fadd (genOf c low))
  | 0x31 => some (.fsub (genOf c low))
  | 0x32 => some (.fmul (genOf c low))
  | 0x33 => some (.fma (genOf c low))
  | 0x34 => some (.fdiv (genOf c low))
  | 0x35 => some (.fsqrt (genOf c low))
  | 0x36 => some (.frcp (genOf c low))
  | 0x37 => some (.frsq (genOf c low))
  | 0x38 => some (.fex2 (genOf c low))
  | 0x39 => some (.flg2 (genOf c low))
  | 0x3A => some (.fmin (genOf c low))
  | 0x3B => some (.fmax (genOf c low))
  | 0x3C => some (.fcmp (genOf c low))
  | 0x3D => some (.fcvt (genOf c low))
  | 0x3E => some (.fcls (genOf c low))
  | 0x3F => some (.frnd (genOf c low))
  | 0x40 => some (.vspl (genOf c low))
  | 0x41 => some (.vprm (genOf c low))
  | 0x42 => some (.vext (genOf c low))
  | 0x43 => some (.vins (genOf c low))
  | 0x44 => some (.vred (genOf c low))
  | 0x45 => some (.vscn (genOf c low))
  | 0x46 => some (.vsel (genOf c low))
  | 0x47 => some (.vmsk (genOf c low))
  | 0x48 => some (.vqnt (genOf c low))
  | 0x49 => some (.vdqn (genOf c low))
  | 0x4A => some (.vtag (genOf c low))
  | 0x4B => some (.vpack (genOf c low))
  | 0x4C => some (.vunpk (genOf c low))
  | 0x4D => some (.vpmul (genOf c low))
  | 0x4E => some (.vrand (genOf c low))
  | 0x50 => some (.xshf (genOf c low))
  | 0x51 => some (.xbrd (genOf c low))
  | 0x52 => some (.xred (genOf c low))
  | 0x53 => some (.xscn (genOf c low))
  | 0x54 => some (.xvot (genOf c low))
  | 0x55 => some (.xuni (genOf c low))
  | 0x60 => some (.ld (memOf c low))
  | 0x61 => some (.st (memOf c low))
  | 0x62 => some (.ldv (memOf c low))
  | 0x63 => some (.stv (memOf c low))
  | 0x64 => some (.gath (memOf c low))
  | 0x65 => some (.scat (memOf c low))
  | 0x70 => some (.aadd (memOf c low))
  | 0x71 => some (.amin (memOf c low))
  | 0x72 => some (.amax (memOf c low))
  | 0x73 => some (.aand (memOf c low))
  | 0x74 => some (.aor (memOf c low))
  | 0x75 => some (.axor (memOf c low))
  | 0x76 => some (.axch (memOf c low))
  | 0x77 => some (.acas (memOf c low))
  | 0x78 => some (.afad (memOf c low))
  | 0x80 => some (.tdsc (genOf c low))
  | 0x81 => some (.tfch (genOf c low))
  | 0x82 => some (.tevc (genOf c low))
  | 0x83 => some (.tmov (genOf c low))
  | 0x84 => some (.tacc (genOf c low))
  | 0x85 => some (.tset (memOf c low))
  | 0x86 => some (.tget (memOf c low))
  | 0x87 => some (.tcmp (genOf c low))
  | 0x88 => if c.mod.toNat % 4 == 0 then some (.tlogCompact (genOf c low)) else if c.mod.toNat % 4 == 1 then some (.tlogApply (genOf c low)) else if c.mod.toNat % 4 == 2 then some (.tlogDiscard (genOf c low)) else if c.mod.toNat % 4 == 3 then some (.tlogQuery (genOf c low)) else none
  | 0x89 => if c.mod.toNat % 2 == 0 then some (.cpy (genOf c low)) else if c.mod.toNat % 2 == 1 then some (.cpySnap (genOf c low)) else none
  | 0x8A => some (.cwt (genOf c low))
  | 0x8B => some (.rlq (genOf c low))
  | 0x90 => some (.grd (genOf c low))
  | 0x91 => some (.job (genOf c low))
  | 0x92 => some (.jwt (genOf c low))
  | 0x93 => some (.jrs (genOf c low))
  | 0x94 => some (.acz (genOf c low))
  | 0x95 => some (.acs (genOf c low))
  | 0x96 => some (.acl (genOf c low))
  | 0x97 => some (.ext (genOf c low))
  | 0x98 => some (.sba (genOf c low))
  | 0x99 => some (.sbw (genOf c low))
  | 0xA0 => some (.bara (genOf c low))
  | 0xA1 => some (.barw (genOf c low))
  | 0xA2 => some (.bar (genOf c low))
  | 0xA3 => some (.barq (genOf c low))
  | 0xA4 => some (.cinc (genOf c low))
  | 0xA5 => some (.cwait (genOf c low))
  | 0xA6 => some (.cset (genOf c low))
  | 0xA7 => some (.cdcl (genOf c low))
  | 0xA8 => some (.fence (genOf c low))
  | 0xB0 => some (.fld (genOf c low))
  | 0xB1 => some (.fst (genOf c low))
  | 0xB2 => some (.fatm (genOf c low))
  | 0xB3 => some (.qpst (genOf c low))
  | 0xB4 => some (.qarm (genOf c low))
  | 0xB5 => some (.coll (genOf c low))
  | 0xB6 => if c.mod.toNat % 4 == 0 then some (.cwdQuery (genOf c low)) else if c.mod.toNat % 4 == 1 then some (.cwdExtend (genOf c low)) else none
  | 0xB7 => some (.pent (genOf c low))
  | 0xC0 => some (.trap (genOf c low))
  | 0xC1 => some (.rtt (genOf c low))
  | 0xC2 => some (.srd (genOf c low))
  | 0xC3 => some (.swr (genOf c low))
  | 0xC4 => some (.icinv (genOf c low))
  | 0xC5 => some (.bkpt (genOf c low))
  | 0xC6 => some (.evt (genOf c low))
  | 0xC7 => if c.mod.toNat % 2 == 0 then some (.caus (genOf c low)) else if c.mod.toNat % 2 == 1 then some (.causNew (genOf c low)) else none
  | 0xC8 => some (.halt (genOf c low))
  | 0xC9 => some (.glch (genOf c low))
  | 0xCA => some (.kill (genOf c low))
  | _ => none

/-- The opcode is assigned (R114). -/
def opcodeAssigned (opc : Byte) : Bool :=
  match (opc >>> 4).toNat with
  | 0 => (opc &&& 15).toNat ≤ 9
  | 1 | 2 | 3 => true
  | 4 => (opc &&& 15).toNat ≤ 14
  | 5 => (opc &&& 15).toNat ≤ 5
  | 6 => (opc &&& 15).toNat ≤ 5
  | 7 => (opc &&& 15).toNat ≤ 8
  | 8 => (opc &&& 15).toNat ≤ 11
  | 9 => (opc &&& 15).toNat ≤ 9
  | 10 => (opc &&& 15).toNat ≤ 8
  | 11 => (opc &&& 15).toNat ≤ 7
  | 12 => (opc &&& 15).toNat ≤ 10
  | _ => false

/-- The opcode is legal in the stream (R115), whatever its FN and modifier. -/
def opcodeLegal (stream : Bool) (opc : Byte) : Bool :=
  let n := opc.toNat
  let both := n == 0 || n == 1 || n == 2 || n == 7 || n == 0x10 || n == 0x11 || n == 0x12 || n == 0x13 ||
    (0x1A ≤ n && n ≤ 0x20) || (0x23 ≤ n && n ≤ 0x28) || n == 0x2A || n == 0x2B || n == 0x2C || n == 0xA0 || n == 0xA1 ||
    n == 0xA2 || n == 0xA8
  both || (stream == (opc >>> 4 == 9))

/-- Checks 4 to 9 of R116 on a slot, with the forms' static checks: the instruction, or the ILLEGAL detail and bit. -/
def decodeSlot (stream : Bool) (w : Slot) : Except Illegal Instr :=
  let opc : Byte := w.extractLsb' 88 8
  if !opcodeAssigned opc then .error ⟨0x01, 0x7F⟩
  else if !opcodeLegal stream opc then .error ⟨0x05, 0x7F⟩
  else match Instr.ofParts stream opc (commonOf w) (w.extractLsb' 0 51) with
    | none => .error ⟨0x02, 0x7F⟩
    | some i =>
      match i.form stream with
      | none => .error ⟨0x02, 0x7F⟩
      | some f => match f.check stream with
        | some e => .error e
        | none => .ok i

/-- The slot of a coded instruction, from the encoding tables (R104 to R114); 0 for an event, which has no encoding. -/
def encode (i : Instr) : Slot :=
  match i.form (match i with | .streamExit _ => true | _ => false) with
  | some f => packSlot f.opc f.c f.low
  | none => 0

/-- The decoder on a number whose bit 0 is the slot's least significant bit: strand code first, then the matrix stream. -/
def decodeTableWord (nbits w : Nat) : Option Instr :=
  if 96 < nbits then none else
  match decodeSlot false (BitVec.ofNat 96 w) with
  | .ok i => some i
  | .error _ => match decodeSlot true (BitVec.ofNat 96 w) with
    | .ok i => some i
    | .error _ => none

end Sys2Proof
end

