-- ==== Sys2Proof/Machine/Mem.lean ====
section
/-! DEFINITION. Homes, translation tables and address spaces (R237 to R247, R252). -/
namespace Sys2Proof.Machine

/-! ## Bytes at their homes -/

def Memories.of (m : Memories) : Store → Memory
  | .hbm => m.hbm
  | .lpddr => m.lpddr
  | .host => m.host
  | .die => m.die
  | .unit => m.unit

def Memories.put (m : Memories) (st : Store) (v : Memory) : Memories :=
  match st with
  | .hbm => { m with hbm := v }
  | .lpddr => { m with lpddr := v }
  | .host => { m with host := v }
  | .die => { m with die := v }
  | .unit => { m with unit := v }

/-- The byte at a home. -/
def State.peek (s : State) (l : Loc) : Byte := (s.mem.of l.store).read l.addr
/-- n bytes from a home. -/
def State.peekList (s : State) (l : Loc) (n : Nat) : List Byte := (s.mem.of l.store).readList l.addr n
/-- n bytes from a home as a number (R8). -/
def State.peekNat (s : State) (l : Loc) (n : Nat) : Nat := (s.mem.of l.store).readNat l.addr n

/-- Whether two byte ranges meet. -/
def overlap (a n b m : Nat) : Bool := a < b + m && b < a + n

/-- Store bytes at a home: the bytes, the end of a latent error there, and the wake of every fault whose failed walk read a
written 64-byte line of HBM4E (R248, R250). -/
def State.poke (s : State) (l : Loc) (bs : List Byte) : State :=
  { s with
    mem := { s.mem.put l.store ((s.mem.of l.store).writeList l.addr bs) with
             bad := s.mem.bad.filter (fun b => !(b.store == l.store && l.addr ≤ b.addr && b.addr < l.addr + bs.length)) }
    async := if l.store == .hbm then
        { s.async with faults := kmapVals s.async.faults (fun _ p =>
            if p.lines.any (fun ln => overlap (ln * 64) 64 l.addr bs.length) then { p with due := true } else p) }
      else s.async }

def State.pokeNat (s : State) (l : Loc) (n v : Nat) : State := s.poke l (leBytes n v)

/-- A latent uncorrectable error in a range (R249, R412). -/
def State.badIn (s : State) (l : Loc) (n : Nat) : Bool :=
  s.mem.bad.any (fun b => b.store == l.store && l.addr ≤ b.addr && b.addr < l.addr + n)

/-- The home of a byte of a core's granule (R240). -/
def unitLoc (core granule pos : Nat) : Loc := ⟨.unit, core * 2 ^ 21 + granule * 131072 + pos⟩

/-! ## Absent lines (R252) -/

def Loc.line (l : Loc) : Loc := ⟨l.store, l.addr / 128 * 128⟩

def State.absentAt (s : State) (l : Loc) : Option Absent :=
  (s.mem.absent.find? (fun (k, _) => k == l.line)).map (·.2)

def State.setAbsent (s : State) (l : Loc) (a : Absent) : State :=
  { s with mem := { s.mem with absent := (l.line, a) :: s.mem.absent.filter (fun (k, _) => k != l.line) } }

def State.setPresent (s : State) (l : Loc) : State :=
  { s with mem := { s.mem with absent := s.mem.absent.filter (fun (k, _) => k != l.line) } }

/-! ## Translation (R245 to R247) -/

/-- What an access wants of a leaf (R243, R247, R378). -/
inductive Access where
  | load | store | exec | peerLoad | peerStore
  deriving DecidableEq, Repr

/-- Where an address leads: a home, or an offset into a peer's aperture. -/
inductive Place where
  | home (l : Loc)
  | peer (dev off : Nat)
  deriving DecidableEq, Repr

/-- XLATE: the detail of R247 and the 64-byte table lines the walk read (R250). -/
structure XFail where
  detail : Byte
  lines  : List Nat
  deriving DecidableEq, Repr

namespace Xlate
def space : Byte := 0x01
def notValid : Byte := 0x02
def write : Byte := 0x03
def exec : Byte := 0x04
def high : Byte := 0x05
def bound : Byte := 0x06
def target : Byte := 0x07
def table : Byte := 0x08
def poison : Byte := 0x09
end Xlate

/-- The domain size N and this device's number (R52). -/
def State.domainSize (s : State) : Nat := bitsOf s.time.domain.toNat 12 8
def State.devNo (s : State) : Nat := bitsOf s.time.domain.toNat 3 0

/-- The form of an entry at a level, checked as the walk reads it (R246, R247): V, then TABLE. -/
def entryForm (level e : Nat) : Option Byte :=
  let leaf := e.testBit 1
  let pa := bitsOf e 51 8 * 256
  let target := bitsOf e 63 61
  let page := match level with | 1 => 2 ^ 30 | 2 => 2 ^ 21 | _ => 2 ^ 16
  let next := match level with | 0 => 4096 | 1 => 4096 | _ => 256
  if !e.testBit 0 then some Xlate.notValid
  else if bitsOf e 56 52 != 0 || bitsOf e 7 5 != 0 || e.testBit 2 then some Xlate.table
  else if leaf then
    if level == 0 || 5 ≤ target || (target != 4 && bitsOf e 60 57 != 0) || (target == 3 && level != 3) || pa % page != 0 then
      some Xlate.table
    else none
  else if level == 3 || target != 0 || bitsOf e 60 57 != 0 || e.testBit 3 || e.testBit 4 || pa % next != 0 ||
      Config.hbmBytes ≤ pa then some Xlate.table
  else none

/-- A physical offset lies in its target's range (R243, R247). -/
def physOk (target phys : Nat) : Bool :=
  match target with
  | 0 => phys < Config.hbmBytes
  | 1 => phys < Config.lpddrBytes
  | 2 => phys < 2 ^ 52
  | 3 => phys / 2 ^ 23 < 4 && phys % 2 ^ 23 < Config.dieBytes
  | _ => true

/-- The leaf's checks after its own form: range (TABLE), target against space and access (TARGET), rights (R247). -/
def leafPlace (s : State) (e phys : Nat) (acc : Access) (dieOnly : Bool) : Except Byte Place :=
  let target := bitsOf e 63 61
  let peer := bitsOf e 60 57
  let wantsPeer := acc == .peerLoad || acc == .peerStore
  if !physOk target phys then .error Xlate.table
  else if wantsPeer != (target == 4) || (dieOnly && target != 3) || (target == 4 && (peer == s.devNo || s.domainSize ≤ peer))
    then .error Xlate.target
  else if (acc == .store || acc == .peerStore) && !e.testBit 3 then .error Xlate.write
  else if acc == .exec && !e.testBit 4 then .error Xlate.exec
  else match target with
    | 0 => .ok (.home ⟨.hbm, phys⟩)
    | 1 => .ok (.home ⟨.lpddr, phys⟩)
    | 2 => .ok (.home ⟨.host, phys⟩)
    | 3 => .ok (.home ⟨.die, phys⟩)
    | _ => .ok (.peer peer phys)

/-- The levels still to walk: level, shift and index width (R245). -/
def walkLevels : List (Nat × Nat × Nat) := [(0, 39, 17), (1, 30, 9), (2, 21, 9), (3, 16, 5)]

/-- The walk from a table base (R247): one untorn entry per level. -/
def walkFrom (s : State) (va : Nat) (acc : Access) (dieOnly : Bool) : List (Nat × Nat × Nat) → Nat → List Nat → Except XFail Place
  | [], _, lines => .error ⟨Xlate.table, lines⟩
  | (level, shift, width) :: rest, base, lines =>
    let at_ := base + (va >>> shift) % 2 ^ width * 8
    let e := s.mem.hbm.readNat at_ 8
    let lines := (at_ / 64) :: lines
    match entryForm level e with
    | some d => .error ⟨d, lines⟩
    | none =>
      if e.testBit 1 then
        match leafPlace s e (bitsOf e 51 8 * 256 + va % 2 ^ shift) acc dieOnly with
        | .ok p => .ok p
        | .error d => .error ⟨d, lines⟩
      else walkFrom s va acc dieOnly rest (bitsOf e 51 8 * 256) lines

/-- The whole walk of a virtual address; a root of 0 is a disabled context, and a misaligned root is TABLE (R54, R247). -/
def walk (s : State) (root va : Nat) (acc : Access) (dieOnly : Bool) : Except XFail Place :=
  if root == 0 then .error ⟨Xlate.notValid, []⟩
  else if root % 2 ^ 20 != 0 || Config.hbmBytes < root + 2 ^ 20 then .error ⟨Xlate.table, []⟩
  else walkFrom s va acc dieOnly walkLevels root []

/-! ## Address spaces (R237 to R242) -/

/-- Who makes an access: its context's tables, its skein and core, its strand's local area. -/
structure Who where
  ctx    : Nat
  root   : Nat
  skein  : Option Nat
  core   : Nat
  launch : Option Nat
  strand : Option Nat
  deriving DecidableEq, Repr

def spaceOf (a : Word) : Nat := bitsOf a.toNat 63 60
def offsetOf (a : Word) : Nat := a.toNat % 2 ^ 60
def vaOf (a : Word) : Nat := a.toNat % 2 ^ 56

/-- Fields of the SHAPE word (R44). -/
def Header.courses (h : Header) : Nat := bitsOf h.shape.toNat 3 0
def Header.panels (h : Header) : Nat := bitsOf h.shape.toNat 8 4
def Header.scols (h : Header) : Nat := bitsOf h.shape.toNat 11 9
def Header.srows (h : Header) : Nat := bitsOf h.shape.toNat 13 12
def Header.strands (h : Header) : Nat := bitsOf h.shape.toNat 18 14
def Header.f1w (h : Header) : Nat := bitsOf h.shape.toNat 20 19
def Header.f2w (h : Header) : Nat := bitsOf h.shape.toNat 23 21
def Header.f3w (h : Header) : Nat := bitsOf h.shape.toNat 29 24
def Header.f4w (h : Header) : Nat := bitsOf h.shape.toNat 35 30
def Header.f5w (h : Header) : Nat := bitsOf h.shape.toNat 41 36
def Header.depth (h : Header) : Nat := bitsOf h.shape.toNat 45 42 * 8
def Header.ugran (h : Header) : Nat := bitsOf h.shape.toNat 50 46
def Header.sgran (h : Header) : Nat := bitsOf h.shape.toNat 55 51
def Header.place (h : Header) : Nat := bitsOf h.shape.toNat 57 56
def Header.pclass (h : Header) : Nat := bitsOf h.shape.toNat 59 58
/-- Member cores of a skein (R30). -/
def Header.members (h : Header) : Nat := h.scols * h.srows

/-- A list's element by index (granules and cores in order). -/
def nth {α : Type} (l : List α) (i : Nat) : Option α := l[i]?

/-- The home of an address for one accessor (R237 to R242, R247). -/
def State.place (s : State) (w : Who) (acc : Access) (a : Word) : Except XFail Place :=
  let o := offsetOf a
  let high := bitsOf a.toNat 59 56
  let hdr := (w.launch.bind (kget s.work.launches)).map (·.hdr)
  let sk := w.skein.bind (kget s.work.skeins)
  match spaceOf a with
  | 0x0 => if high != 0 then .error ⟨Xlate.high, []⟩ else walk s w.root (vaOf a) acc false
  | 0xA =>
    match hdr, w.strand with
    | some h, some st =>
      if h.localsize ≤ o then .error ⟨Xlate.bound, []⟩
      else walk s w.root ((h.localbase.toNat + st * h.localsize + o) % 2 ^ 56) acc false
    | _, _ => .error ⟨Xlate.space, []⟩
  | 0xC => if high != 0 then .error ⟨Xlate.high, []⟩ else walk s w.root (vaOf a) acc true
  | 0xD =>
    match hdr, sk with
    | some h, some k =>
      if h.sgran * 131072 * h.members ≤ o then .error ⟨Xlate.bound, []⟩
      else
        let line := o / 128
        let m := line % h.members
        let om := line / h.members * 128 + o % 128
        match nth k.cores m, (nth k.granules m).bind (nth · (h.ugran + om / 131072)) with
        | some core, some g => .ok (.home (unitLoc core g (om % 131072)))
        | _, _ => .error ⟨Xlate.bound, []⟩
    | _, _ => .error ⟨Xlate.space, []⟩
  | 0xE =>
    match hdr, sk with
    | some h, some k =>
      if h.ugran * 131072 ≤ o then .error ⟨Xlate.bound, []⟩
      else match (k.cores.idxOf? w.core).bind (nth k.granules ·) |>.bind (nth · (o / 131072)) with
        | some g => .ok (.home (unitLoc w.core g (o % 131072)))
        | none => .error ⟨Xlate.bound, []⟩
    | _, _ => .error ⟨Xlate.space, []⟩
  | _ => .error ⟨Xlate.space, []⟩

/-- The home of an address that must not be a peer's. -/
def State.home (s : State) (w : Who) (acc : Access) (a : Word) : Except XFail Loc :=
  match s.place w acc a with
  | .ok (.home l) => .ok l
  | .ok (.peer _ _) => .error ⟨Xlate.target, []⟩
  | .error e => .error e

/-- Homes of a byte range, in pieces that do not cross a 128-byte line. -/
def State.homes (s : State) (w : Who) (acc : Access) (a : Word) : Nat → Nat → Except XFail (List (Loc × Nat))
  | 0, _ => .ok []
  | f + 1, n =>
    if n == 0 then .ok [] else
    let k := min n (128 - a.toNat % 128)
    match s.home w acc a with
    | .error e => .error e
    | .ok l => match State.homes s w acc (a + BitVec.ofNat 64 k) f (n - k) with
      | .error e => .error e
      | .ok t => .ok ((l, k) :: t)

/-- Read a range that lies wholly in mapped memory, at its homes. -/
def State.readRange (s : State) (w : Who) (a : Word) (n : Nat) : Except XFail (List Byte) :=
  match s.homes w .load a (n / 128 + 2) n with
  | .error e => .error e
  | .ok l => .ok (l.flatMap (fun (loc, k) => s.peekList loc k))

/-- Write a range at its homes; nothing is written when any byte of it does not translate. -/
def State.writeRange (s : State) (w : Who) (a : Word) (bs : List Byte) : Except XFail State :=
  match s.homes w .store a (bs.length / 128 + 2) bs.length with
  | .error e => .error e
  | .ok l => .ok (l.foldl (fun (acc : State × List Byte) (p : Loc × Nat) =>
      (acc.1.poke p.1 (acc.2.take p.2), acc.2.drop p.2)) (s, bs)).1

end Sys2Proof.Machine
end

