-- ==== Sys2Proof/Machine/Records.lean ====
section
/-! DEFINITION. Stamps, cause identifiers, event records, the firn store, error queues and tenant trace buffers (R6, R55, R66
to R76). -/
namespace Sys2Proof.Machine

/-! ## Stamps and causes -/

/-- Bits [47:0] of global time (R6). -/
def State.stamp (s : State) : Nat := s.time.gt % 2 ^ 48

/-- A new cause identifier for one taker of sequences (R66): blocks of 256, 0 skipped. -/
def State.newCause (s : State) (taker : Nat) : Word32 × State :=
  let (next, left, seq) := match kget s.work.blocks taker with
    | some (n, k + 1) => (n, k + 1, s.work.causeSeq)
    | _ => (s.work.causeSeq.toNat, 256, s.work.causeSeq + 256)
  let (next, left) := if next % 2 ^ 28 == 0 then (1, left - 1) else (next, left)
  (BitVec.ofNat 32 (s.devNo * 2 ^ 28 + next % 2 ^ 28),
    { s with work := { s.work with causeSeq := seq, blocks := kset s.work.blocks taker (next + 1, left - 1) } })

/-- The taker of the launcher and walker, and of a core (R66). -/
def launcherTaker : Nat := 0
def coreTaker (core : Nat) : Nat := 1 + core

/-! ## Records -/

/-- An event before it is stamped. -/
structure Ev where
  source  : Nat
  type    : Nat
  priv    : Bool := false
  err     : Bool := false
  cause   : Word32 := 0
  parent  : Word32 := 0
  ctx     : Nat := 0xFFFF
  payload : Nat := 0
  deriving DecidableEq, Repr

/-- SOURCE: class and instance (R68). -/
def src (cls inst : Nat) : Nat := cls * 4096 + inst
/-- The source of a core's partition (R68, R84). -/
def partSrc (core slot : Nat) : Nat := src 2 (core * 16 + slot / 4)

/-- A record's fields (R68). -/
def recordOf (stamp source type flags : Nat) (cause parent : Word32) (ctx payload : Nat) : Record :=
  BitVec.ofNat 48 stamp ++ BitVec.ofNat 16 source ++ BitVec.ofNat 8 type ++ BitVec.ofNat 8 flags ++ cause ++ parent ++
    BitVec.ofNat 16 ctx ++ BitVec.ofNat 96 payload

/-- UNSYNC (R78). -/
def State.unsyncNow (s : State) : Bool := s.time.unsync || !s.time.locked

/-- The record of an event now; DROP when the source has lost a record before it (R68, R73). -/
def State.recordFor (s : State) (e : Ev) : Record :=
  recordOf s.stamp e.source e.type
    ((if e.priv then 1 else 0) + (if s.firn.dropping.contains (BitVec.ofNat 16 e.source) then 2 else 0) +
      (if s.unsyncNow then 8 else 0) + (if e.err then 16 else 0)) e.cause e.parent e.ctx e.payload

def recordBytes (r : Record) : List Byte := leBytes 32 r.toNat

/-- The record with its payload zeroed (R72). -/
def noPayload (r : Record) : Record := r >>> 96 <<< 96
def recordPriv (r : Record) : Bool := r.getLsbD 176
def recordCtx (r : Record) : Nat := bitsOf r.toNat 111 96
def setError (r : Record) : Record := r ||| (1 <<< 180)

/-- A context's table entry (R54). -/
def State.ctxEntry (s : State) (ctx : Nat) : ContextEntry := ((kget s.tables.contexts ctx).getD Context.zero).entry
def State.ctxKilled (s : State) (ctx : Nat) : Bool := ((kget s.tables.contexts ctx).getD Context.zero).killed

/-- The next slot of the operator ring takes 32 bytes, while the store is enabled (R71, R72). -/
def State.ringSlot (s : State) (b : List Byte) : State :=
  if !s.firn.enabled then s else
  let s := s.poke ⟨.lpddr, s.firn.base.toNat + 4096 + s.firn.wp % (s.firn.opsz.toNat / 32) * 32⟩ b
  { s with firn := { s.firn with wp := s.firn.wp + 1 } }

/-- The operator ring receives a record, its payload zeroed when it carries PRIV (R72). -/
def State.ringWrite (s : State) (r : Record) : State := s.ringSlot (recordBytes (if recordPriv r then noPayload r else r))

/-- The launch whose work an action of a cause is. -/
def State.launchOfCause (s : State) (c : Word32) : Option Nat :=
  let ofSkein (n : Nat) : Option Nat := (kget s.work.skeins n).map (·.launch)
  if c == 0 then none else
  match s.work.launches.find? (fun (_, v) => v.cause == c), s.work.skeins.find? (fun (_, k) => k.cause == c),
      s.courses.find? (fun (_, x) => x.ccause == c), s.async.ops.find? (fun (_, o) => o.cause == c) with
  | some (l, _), _, _, _ => some l
  | none, some (_, k), _, _ => some k.launch
  | none, none, some (_, x), _ => ofSkein x.skein
  | none, none, none, some (_, o) => o.launch
  | none, none, none, none => none

/-- The context entry that an action of a cause goes by: the one its instance began with, which it keeps (R54); none when no instance in
flight began it. -/
def State.entryOfCause (s : State) (c : Word32) : Option ContextEntry :=
  if c == 0 then none else
  match s.work.runs.find? (fun (_, g) => g.cause == c || g.running.any (fun n => n.cause == c)) with
  | some (_, g) => some g.entry
  | none => ((s.launchOfCause c).bind (kget s.work.launches)).map (·.entry)

/-- The entry that says where a record's context has its view: the instance's own, by the record's cause or its parent, else the
context's (R54, R72). -/
def State.viewEntry (s : State) (r : Record) : ContextEntry :=
  match s.entryOfCause (r.extractLsb' 144 32), s.entryOfCause (r.extractLsb' 112 32) with
  | some e, _ => e
  | none, some e => e
  | none, none => s.ctxEntry (recordCtx r)

/-- The context's view (R72): the control slot, whose other bytes are zero, takes the count, and then the record is written. -/
def State.viewWrite (s : State) (r : Record) : State :=
  let ctx := recordCtx r
  let e := s.viewEntry r
  if !s.firn.enabled || ctx == 0 || 0x0FFF < ctx || e.viewlen == 0 then s else
  let off := e.viewoff.toNat
  let slots := e.viewlen.toNat * 128
  if off < 4096 + s.firn.opsz.toNat || s.firn.size.toNat < off + slots * 32 || off % 4096 != 0 then
    { s with firn := { s.firn with drop := s.firn.drop + 1 } }
  else
    let at_ := s.firn.base.toNat + off
    let n := s.peekNat ⟨.lpddr, at_⟩ 8
    let s := s.poke ⟨.lpddr, at_⟩ (leBytes 8 (n + 1) ++ List.replicate 24 0)
    s.poke ⟨.lpddr, at_ + 32 * (1 + n % (slots - 1))⟩ (recordBytes r)

/-! ## The trace port (R421) -/

/-- How long the port takes for one record: 1.0 × 10^9 records a second. -/
def portGt : Nat := 16

/-- The port puts a record into its frames. -/
def TracePort.put (p : TracePort) (now : Nat) (r : Record) : TracePort := { p with out := p.out ++ [r], busy := max p.busy now + portGt }

/-- A record reaches the port: it is carried, after a record of the drop count when one is owed, or dropped from the port only. How many
records may wait for the port is open (log 8). -/
def TracePort.take (p : TracePort) (now : Nat) (r : Record) : TracePort :=
  if p.busy ≤ now || Config.tracePortTakes ((p.busy - now) / portGt) then
    let p := if p.owes then { p.put now (recordOf (now % 2 ^ 48) 0 0 0 0 0 0xFFFF (p.drops % 2 ^ 64)) with owes := false } else p
    p.put now (if Config.tracePortMasks && recordPriv r then noPayload r else r)
  else { p with drops := p.drops + 1, owes := true }

/-- A finished record reaches the trace port (R421), the operator ring and the context's view (R72). -/
def State.carry (s : State) (r : Record) : State :=
  ({ s with firn := { s.firn with records := s.firn.records ++ [r], port := s.firn.port.take s.time.gt r } }.ringWrite r).viewWrite r

/-- RESET_MARK, when a reset has happened and nothing has been recorded since (R70, R74). -/
def State.resetMark (s : State) : State :=
  if !s.firn.mark then s else
  let s := { s with firn := { s.firn with mark := false } }
  s.carry (recordOf s.stamp (src 8 (if s.dev.activeCx then 1 else 0)) 0x06 (4 + (if s.unsyncNow then 8 else 0)) 0 0 0xFFFF
    (s.firn.wp % 2 ^ 64 + s.dev.bootNo.toNat * 2 ^ 64))

/-- Emit an event (R67 to R74). -/
def State.emit (s : State) (e : Ev) : State :=
  let s := s.resetMark
  let r := s.recordFor e
  { s.carry r with firn := { (s.carry r).firn with dropping := s.firn.dropping.filter (· != BitVec.ofNat 16 e.source) } }

/-! ## Error queues (R55) -/

/-- Whose tables an engine of a context uses: its current entry's (R54). -/
def State.whoOf (s : State) (ctx : Nat) : Who :=
  { ctx, root := (s.ctxEntry ctx).ptroot.toNat, skein := none, core := 0, launch := none, strand := none }

def errLenOk (n : Nat) : Bool := 16 ≤ n && n ≤ 65536 && n &&& (n - 1) == 0

/-- Write an entry to a context's error queue: the count, then the entry whole; a fault leaves it to the operator ring. A queue whose
ERRQLEN is out of range, or whose ERRQBASE is not 64-byte aligned or not in global space, counts as one whose write faults (DESIGN CHOICE,
logs 23 and 67). -/
def State.errEntry (s : State) (ctx : Nat) (r : Record) : State :=
  let e := s.ctxEntry ctx
  let w := s.whoOf ctx
  let raised := { s with firn := { s.firn with msix := s.firn.msix ++ [ctx] } }
  let lost := s.ringWrite (setError r)
  if !errLenOk e.errqlen.toNat || e.errqbase.toNat % 64 != 0 || spaceOf e.errqbase != 0 then lost else
  match s.readRange w e.errqbase 8 with
  | .error _ => lost
  | .ok cnt =>
    let n := leNat cnt
    let slot := e.errqbase + BitVec.ofNat 64 (64 + n % e.errqlen.toNat * 32)
    match raised.writeRange w e.errqbase (leBytes 8 (n + 1)) with
    | .error _ => lost
    | .ok s1 => match s1.writeRange w slot (recordBytes r) with
      | .error _ => s1.ringWrite (setError r)
      | .ok s2 => s2

/-- Emit an event and write the same record to a context's error queue. -/
def State.emitErr (s : State) (ctx : Nat) (e : Ev) : State :=
  let s := s.resetMark
  (s.emit e).errEntry ctx (s.recordFor e)

/-! ## Tenant trace buffers (R75, R76) -/

def State.launch? (s : State) (l : Nat) : Option Launch := kget s.work.launches l
def State.setLaunch (s : State) (l : Nat) (v : Launch) : State :=
  { s with work := { s.work with launches := kset s.work.launches l v } }

/-- A launch's own accesses: the entry its instance began with (R54). -/
def launchWho (l : Nat) (v : Launch) : Who :=
  { ctx := v.ctx, root := v.entry.ptroot.toNat, skein := none, core := 0, launch := some l, strand := none }

/-- Count a record that tracing loses, in the control block too where it can be written (R76). -/
def State.traceLost (s : State) (l : Nat) (v : Launch) : State :=
  let v := { v with dropped := v.dropped + 1 }
  let s := s.setLaunch l v
  let w := launchWho l v
  match s.writeRange w (v.hdr.trbase + 8) (leBytes 8 v.dropped) with
  | .error _ => s
  | .ok s' => s'

/-- Suspend tracing at a faulting address (R76). -/
def State.traceSuspend (s : State) (l : Nat) (v : Launch) (a : Word) : State :=
  let v := { v with suspended := some a }
  let w := launchWho l v
  let s := match s.writeRange w (v.hdr.trbase + 0x10) [1] with
    | .error _ => s
    | .ok s1 => match s1.writeRange w (v.hdr.trbase + 0x18) (leBytes 8 a.toNat) with
      | .error _ => s1
      | .ok s2 => s2
  s.traceLost l v

/-- Write one record to a launch's trace buffer: the count, then the record (R75). -/
def State.traceRecord (s : State) (l : Nat) (r : Record) : State :=
  match s.launch? l with
  | none => s
  | some v =>
    if v.hdr.trbase == 0 || v.hdr.trsize < 96 then s
    else if v.suspended.isSome then s.traceLost l v
    else
      let w := launchWho l v
      match s.readRange w v.hdr.trbase 8 with
      | .error _ => s.traceSuspend l v v.hdr.trbase
      | .ok cnt =>
        let n := leNat cnt
        match s.writeRange w v.hdr.trbase (leBytes 8 (n + 1)) with
        | .error _ => s.traceSuspend l v v.hdr.trbase
        | .ok s1 =>
          let a := v.hdr.trbase + BitVec.ofNat 64 (64 + n % ((v.hdr.trsize - 64) / 32) * 32)
          match s1.writeRange w a (recordBytes r) with
          | .error _ => s1.traceSuspend l v a
          | .ok s2 => s2

/-- An event that goes only to a tenant trace buffer. -/
def State.traceEv (s : State) (l : Nat) (e : Ev) : State := s.traceRecord l (s.recordFor e)

/-! ## Free values (log 3) -/

/-- A fresh value of 64 bits that the spec leaves open. -/
def State.freshWord (s : State) : Word × State := (Config.freeWord s.freeCount, { s with freeCount := s.freeCount + 1 })

/-- The copy engine that carries an operation (R68). -/
def State.copySrc (op : Nat) : Nat := src 3 (Config.copyEngine op).toNat

/-! ## Life counters (R27) -/

/-- Add one to a life counter. -/
def State.life (s : State) (i : Nat) : State :=
  { s with dev := { s.dev with life := kset s.dev.life i (satInc32 ((kget s.dev.life i).getD 0)) } }

end Sys2Proof.Machine
end

