-- ==== Sys2Proof/Machine/Units.lean ====
section
/-! DEFINITION. Accessors of cores, panels, courses, strands, skeins and launches, registers by name (R106, R140, R149), and the
frontier (R143 to R147). -/
namespace Sys2Proof.Machine

/-! ## Units -/

/-- One clock of the arithmetic clock, in gt (R5, R14). -/
def State.clockGt (s : State) : Nat := ceilDiv 16000 (max s.dev.clock 1)

def courseKey (core slot : Nat) : Nat := core * 32 + slot
def panelKey (core pslot : Nat) : Nat := core * 4 + pslot

def State.course? (s : State) (core slot : Nat) : Option Course := kget s.courses (courseKey core slot)
def State.setCourse (s : State) (core slot : Nat) (c : Course) : State :=
  { s with courses := kset s.courses (courseKey core slot) c }
def State.modCourse (s : State) (core slot : Nat) (f : Course → Course) : State :=
  { s with courses := kmod s.courses (courseKey core slot) f }
def State.dropCourse (s : State) (core slot : Nat) : State := { s with courses := kdel s.courses (courseKey core slot) }

def State.panel? (s : State) (core pslot : Nat) : Option Panel := kget s.panels (panelKey core pslot)
def State.setPanel (s : State) (core pslot : Nat) (p : Panel) : State :=
  { s with panels := kset s.panels (panelKey core pslot) p }
def State.modPanel (s : State) (core pslot : Nat) (f : Panel → Panel) : State :=
  { s with panels := kmod s.panels (panelKey core pslot) f }

def State.core (s : State) (c : Nat) : Core := (kget s.cores c).getD Core.zero
def State.setCore (s : State) (c : Nat) (v : Core) : State := { s with cores := kset s.cores c v }
def State.modCore (s : State) (c : Nat) (f : Core → Core) : State := s.setCore c (f (s.core c))
def State.engine (s : State) (c : Nat) : Engine := (s.core c).engine
def State.modEngine (s : State) (c : Nat) (f : Engine → Engine) : State :=
  s.modCore c (fun k => { k with engine := f k.engine })

def State.skein? (s : State) (i : Nat) : Option Skein := kget s.work.skeins i
def State.setSkein (s : State) (i : Nat) (v : Skein) : State :=
  { s with work := { s.work with skeins := kset s.work.skeins i v } }
def State.modSkein (s : State) (i : Nat) (f : Skein → Skein) : State :=
  { s with work := { s.work with skeins := kmod s.work.skeins i f } }
def State.modLaunch (s : State) (i : Nat) (f : Launch → Launch) : State :=
  { s with work := { s.work with launches := kmod s.work.launches i f } }

/-- A fresh number for an operation, launch, skein, instance, fault or request. -/
def State.newId (s : State) : Nat × State :=
  (s.work.nextId, { s with work := { s.work with nextId := s.work.nextId + 1 } })

def State.op? (s : State) (i : Nat) : Option Op := kget s.async.ops i
def State.setOp (s : State) (i : Nat) (v : Op) : State := { s with async := { s.async with ops := kset s.async.ops i v } }
def State.dropOp (s : State) (i : Nat) : State := { s with async := { s.async with ops := kdel s.async.ops i } }

/-- Courses as (core, slot, course), of a skein or of a panel. -/
def State.coursesWhere (s : State) (f : Nat → Course → Bool) : List (Nat × Nat × Course) :=
  (s.courses.filter (fun (k, c) => f (k / 32) c)).map (fun (k, c) => (k / 32, k % 32, c))
def State.skeinCourses (s : State) (sk : Nat) : List (Nat × Nat × Course) := s.coursesWhere (fun _ c => c.skein == sk)
def State.panelCourses (s : State) (core pslot : Nat) : List (Nat × Nat × Course) :=
  s.coursesWhere (fun k c => k == core && c.pslot == pslot && c.orphan.isNone)
def State.skeinPanels (s : State) (sk : Nat) : List (Nat × Nat × Panel) :=
  (s.panels.filter (fun (_, p) => p.skein == sk)).map (fun (k, p) => (k / 4, k % 4, p))

/-- Whose accesses a skein makes on a core (R237). -/
def State.skeinWho (s : State) (sk core : Nat) (strand : Option Nat) : Who :=
  match s.skein? sk with
  | none => { ctx := 0, root := 0, skein := none, core, launch := none, strand := none }
  | some k => match s.launch? k.launch with
    | none => { ctx := 0, root := 0, skein := none, core, launch := none, strand := none }
    | some l => { ctx := l.ctx, root := l.entry.ptroot.toNat, skein := some sk, core, launch := some k.launch, strand }

def State.skeinCtx (s : State) (sk : Nat) : Nat :=
  ((s.skein? sk).bind (fun k => s.launch? k.launch)).elim 0 (·.ctx)

/-- The index of a strand in its launch, 16 lanes to a course (R43). -/
def strandIndex (h : Header) (enum panel course lane : Nat) : Nat := ((enum * h.panels + panel) * h.courses + course) * 16 + lane

/-! ## Causes of skeins and courses (R67) -/

def State.skeinCause (s : State) (sk : Nat) : Word32 := (s.skein? sk).elim 0 (·.cause)
def State.skeinParent (s : State) (sk : Nat) : Word32 := (s.skein? sk).elim 0 (·.parent)
/-- The current cause of a course: its own where CAUS has set one, else its skein's (R428). -/
def State.causeOf (s : State) (c : Course) : Word32 := if c.ccause == 0 then s.skeinCause c.skein else c.ccause
def State.parentOf (s : State) (c : Course) : Word32 := if c.ccause == 0 then s.skeinParent c.skein else c.cparent

/-! ## Regions, gang usage and changes of occupancy (R56, R87, R89, R93, R448) -/

/-- The placement cycle after a time, in gt (R448). -/
def nextCycle (gt : Nat) : Nat := (gt / 10 + 1) * 10

/-- The region of a core: two rows of four (R3). -/
def regionOf (core : Nat) : Nat := core / 8

/-- A region's fence admits a launch's context (R56). -/
def State.fenceAdmits (s : State) (l : Launch) (region : Nat) : Bool :=
  ((kget s.tables.fences region).getD 0).toNat == bitsOf l.entry.fgroup.toNat 11 0

def State.skeinLaunch (s : State) (k : Skein) : Option Launch := s.launch? k.launch
/-- PLACE is cast-on. -/
def State.castsOn (s : State) (k : Skein) : Bool := (s.skeinLaunch k).elim false (fun l => l.hdr.place == 1)

/-- A context's gang usage: the cores of its resident cast-on skeins, and of those that are charged and on their way (R90, R93). -/
def State.gangUsage (s : State) (ctx : Nat) : Nat :=
  let size (k : Skein) : Nat := match s.skeinLaunch k with
    | some l => if l.ctx == ctx && l.hdr.place == 1 then l.hdr.members else 0
    | none => 0
  (s.work.skeins.map (fun (_, k) => if k.phase == .placed || k.phase == .saving then size k else 0)).sum +
    (s.work.agents.map (fun a => match a.state with
      | .committing _ _ => (s.skein? a.skein).elim 0 size
      | _ => 0)).sum

/-- The placement queue's order (R81): PCLASS highest first, enqueue stamp, enumeration index. -/
def State.queuedBefore (s : State) (a b : Nat × Skein) : Bool :=
  let cls (k : Skein) : Nat := (s.launch? k.launch).elim 0 (·.hdr.pclass)
  let ca := cls a.2
  let cb := cls b.2
  if ca != cb then cb < ca
  else if a.2.stamp != b.2.stamp then a.2.stamp < b.2.stamp
  else if a.2.index != b.2.index then a.2.index < b.2.index
  else a.1 ≤ b.1

/-- The skeins that wait for placement, in queue order. -/
def State.placementQueue (s : State) : List (Nat × Skein) :=
  sortBy s.queuedBefore (s.work.skeins.filter (fun (_, k) => k.phase == .queued || k.phase == .saved))

/-- The head of the queue, and since when it is (R81). -/
def State.newHead (s : State) : State :=
  let h := (s.placementQueue.head?).map (·.1)
  if h == s.work.head then s else { s with work := { s.work with head := h, headAt := s.time.gt } }

/-- A panel slot, a course slot or a granule has become free: affine skeins that waited are looked at again (R87). -/
def State.wakeAffine (s : State) : State :=
  let wake (k : Skein) : Skein := if k.blocked && !s.castsOn k then { k with blocked := false, nextTry := nextCycle s.time.gt } else k
  { s with work := { s.work with skeins := kmapVals s.work.skeins (fun _ k => wake k) } }

/-- A skein has left some cores: blocked cast-on skeins that their regions admit are tried again in the next cycle, and skeins whose
context's usage has fallen far enough may be taken again (R89, R93, R448). -/
def State.wakeCastOn (s : State) (cores : List Nat) : State :=
  let again (k : Skein) : Skein := { k with blocked := false, quota := none, nextTry := nextCycle s.time.gt }
  let wake (k : Skein) : Skein := match s.skeinLaunch k with
    | none => k
    | some l =>
      if l.hdr.place == 1 && k.blocked && cores.any (fun c => s.fenceAdmits l (regionOf c)) then again k
      else match k.quota with
        | some q => if s.gangUsage l.ctx ≤ q then again k else k
        | none => k
  ({ s with work := { s.work with skeins := kmapVals s.work.skeins (fun _ k => wake k) } } : State).wakeAffine

/-! ## Strands and registers -/

/-- A strand at course start, but for k0 and k2 (R32). -/
def Strand.start (k0 k2 : Word) : Strand :=
  { k0, k2, stack := [], wb := 0, low := 0, depth := 0, rstack := [], v := Vector.replicate 8 VReg.zero, p := 0, fpstat := 0,
    tscr1 := 0, tscr2 := 0, pending := [], arrs := [] }

def Course.st (c : Course) (lane : Nat) : Strand := c.strands[lane]?.getD (Strand.start 0 0)
def Course.setSt (c : Course) (lane : Nat) (x : Strand) : Course := { c with strands := c.strands.setIfInBounds lane x }
def Course.modSt (c : Course) (lane : Nat) (f : Strand → Strand) : Course := c.setSt lane (f (c.st lane))

/-- Register wj names position WB + j (R149); positions that hold zero are not listed. -/
def Strand.posGet (x : Strand) (n : Nat) : Word := (kget x.stack n).getD 0
def Strand.posSet (x : Strand) (n : Nat) (v : Word) : Strand :=
  { x with stack := if v = 0 then kdel x.stack n else kset x.stack n v }
def Strand.w (x : Strand) (j : Nat) : Word := x.posGet (x.wb + j)
def Strand.setW (x : Strand) (j : Nat) (v : Word) : Strand := x.posSet (x.wb + j) v

/-- p0 is true and not held (R106). -/
def Strand.pred (x : Strand) (i : Nat) : Bool := i == 0 || x.p.getLsbD i
def Strand.setPred (x : Strand) (i : Nat) (b : Bool) : Strand :=
  if i == 0 then x else { x with p := if b then x.p ||| (1 <<< i) else x.p &&& ~~~((1 : BitVec 8) <<< i) }
def Strand.vreg (x : Strand) (i : Nat) : VReg := x.v[i]?.getD VReg.zero
def Strand.setV (x : Strand) (i : Nat) (r : VReg) : Strand := { x with v := x.v.setIfInBounds i r }

/-- A scalar source: w, k, or a predicate as 0 or 1 (R106, R140). -/
def Course.read (c : Course) (lane : Nat) (r : Reg) : Word :=
  let x := c.st lane
  match r with
  | .w i => x.w i.val
  | .k i => if i.val == 0 then x.k0 else if i.val == 2 then x.k2 else c.kreg[i.val]
  | .p i => if x.pred i.val then 1 else 0
  | .v i => (x.vreg i.val).bits.setWidth 64
  | .t i => BitVec.ofNat 64 i.val

/-- A scalar result: w, k, or a predicate from bit 0. k0 is read only (R106). -/
def Course.write (c : Course) (lane : Nat) (r : Reg) (v : Word) : Course :=
  match r with
  | .w i => c.modSt lane (·.setW i.val v)
  | .k i =>
    if i.val == 0 then c
    else if i.val == 2 then c.modSt lane (fun x => { x with k2 := v })
    else { c with kreg := c.kreg.set i.val v }
  | .p i => c.modSt lane (·.setPred i.val (v.getLsbD 0))
  | _ => c

/-- Held once per course or panel: k1, k3 to k7 and tile handles (R140). -/
def Reg.shared : Reg → Bool
  | .k i => i.val != 0 && i.val != 2
  | .t _ => true
  | _ => false

/-- The pending bit of a register in a strand (R142); shared registers' bits are looked for in every strand. -/
def pendOf (x : Strand) : Reg → Option Pend
  | .w i => some (.pos (x.wb + i.val))
  | .k i => some (.k i.val)
  | .v i => some (.v i.val)
  | .p i => if i.val == 0 then none else some (.p i.val)
  | .t _ => none

def Strand.setPend (x : Strand) (p : Pend) : Strand := if x.pending.contains p then x else { x with pending := p :: x.pending }
def Strand.clearPend (x : Strand) (p : Pend) : Strand := { x with pending := x.pending.filter (· != p) }

/-- Mark a register pending in some strands, or end that (R142). -/
def Course.setPends (c : Course) (m : BitVec 16) (r : Reg) : Course :=
  (lanesOf m).foldl (fun c i => match pendOf (c.st i) r with | some p => c.modSt i (·.setPend p) | none => c) c
def Course.clearPends (c : Course) (m : BitVec 16) (r : Reg) : Course :=
  (lanesOf m).foldl (fun c i => match pendOf (c.st i) r with | some p => c.modSt i (·.clearPend p) | none => c) c

/-- Write a register by its pending name. -/
def Course.writePend (c : Course) (lane : Nat) (p : Pend) (v : VReg) : Course :=
  let w : Word := v.bits.setWidth 64
  match p with
  | .pos n => c.modSt lane (·.posSet n w)
  | .k i => if h : i < 8 then c.write lane (.k ⟨i, h⟩) w else c
  | .v i => c.modSt lane (·.setV i v)
  | .p i => c.modSt lane (·.setPred i (w.getLsbD 0))

/-! ## The frontier (R143 to R147) -/

def Course.fr (c : Course) : Nat → List Entry
  | 0 => c.fr0
  | 1 => c.fr1
  | _ => c.fr2
def Course.setFr (c : Course) (level : Nat) (l : List Entry) : Course :=
  match level with
  | 0 => { c with fr0 := l }
  | 1 => { c with fr1 := l }
  | _ => { c with fr2 := l }
/-- The frontier of the current level (R397). -/
def Course.front (c : Course) : List Entry := c.fr c.level.val
def Course.setFront (c : Course) (l : List Entry) : Course := c.setFr c.level.val l

/-- A new entry with a cleared spin record. -/
def Entry.fresh (pc : Word) (prio : Half) (mask : BitVec 16) (demoted : Bool) : Entry :=
  { pc, prio, mask, demoted, wait := .none, spinPc := 0, spinF := 0, spinAcc := 0, spinA := false }

/-- Whether strands may merge into an entry (R144); an RTT completes by merging (R400). -/
def Entry.merges (e : Entry) : Bool := e.wait == .none || e.wait == .rtt

/-- The order of R143; at one PC the entry that takes no merge first (R144). -/
def Entry.before (a b : Entry) : Bool :=
  if a.demoted != b.demoted then b.demoted
  else if a.prio != b.prio then decide (b.prio.toNat < a.prio.toNat)
  else if a.pc != b.pc then decide (a.pc.toNat < b.pc.toNat)
  else !a.merges && b.merges

def insertEntry (e : Entry) : List Entry → List Entry
  | [] => [e]
  | f :: t => if e.before f then e :: f :: t else f :: insertEntry e t

def sortEntries : List Entry → List Entry
  | [] => []
  | e :: t => insertEntry e (sortEntries t)

/-- Whether an entry may issue: it waits for nothing. -/
def Entry.canIssue (e : Entry) : Bool :=
  match e.wait with
  | .none | .retry | .recheck _ => true
  | _ => false

/-- The entry that issues next: the first in order that waits for nothing; none while an entry is parked on a host fault or on the
replies of an FLD, which hold the whole course (R144, R250, R379). -/
def headEntry (l : List Entry) : Option Entry :=
  if l.any (fun e => e.wait == .again .fault || e.wait == .remote) then none else l.find? (·.canIssue)

/-- Strands of a group, by next PC: mask and the greatest priority. -/
def groupByPc : List (Nat × Word × Half) → List (Word × Half × BitVec 16)
  | [] => []
  | (lane, pc, prio) :: t =>
    let rest := groupByPc t
    match rest.find? (fun (q, _, _) => q == pc) with
    | some (_, pr, m) => (pc, (if pr.toNat < prio.toNat then prio else pr), m ||| (1 <<< lane)) :: rest.filter (fun (q, _, _) => q != pc)
    | none => (pc, prio, 1 <<< lane) :: rest

/-- Insert one group into the frontier, merging where an entry at its PC takes merges. -/
def placeGroup (E : Entry) (keeper : Option Nat) (l : List Entry) (g : Word × Half × BitVec 16) : List Entry :=
  let (pc, prio, m) := g
  match l.find? (fun f => f.pc == pc && f.merges) with
  | some f =>
    let f' := { f with mask := f.mask ||| m, prio := (if f.prio.toNat < prio.toNat then prio else f.prio),
                       demoted := f.demoted && E.demoted }
    f' :: l.erase f
  | none =>
    let keep := match keeper with | some k => m.getLsbD k | none => false
    let e := Entry.fresh pc prio m E.demoted
    (if keep then { e with spinPc := E.spinPc, spinF := E.spinF, spinAcc := E.spinAcc, spinA := E.spinA } else e) :: l

/-- The update of R144 after an instruction completes for entry E: `nexts` gives each remaining strand its next PC and
priority, `jumped` the strands that transferred (R146). -/
def updateFrontier (l : List Entry) (E : Entry) (nexts : List (Nat × Word × Half)) (jumped : List Nat) : List Entry :=
  let keeper := match jumped.min? with
    | some j => some j
    | none => (nexts.map (·.1)).min?
  sortEntries ((groupByPc nexts).foldl (placeGroup E keeper) (l.erase E))

/-- A memory-visible action of an entry releases every demoted entry (R146, R147). -/
def releaseDemoted (l : List Entry) : List Entry := sortEntries (l.map (fun e => { e with demoted := false }))

/-- Fold one value into a spin record (R146). -/
def foldSpin (f v : Word) : Word := f.rotateLeft 1 ^^^ v

/-- The spin detector at a backward transfer (R146). -/
def spinStep (e : Entry) : Entry :=
  { e with demoted := e.demoted || (e.pc == e.spinPc && e.spinAcc == e.spinF && !e.spinA), spinPc := e.pc,
           spinF := e.spinAcc, spinAcc := 0, spinA := false }

/-- What an entry waits for once what held it has changed: nothing, but a CWAIT is pending until it has looked (R353). -/
def Hold.woken : Hold → Wait
  | .counter n => .recheck n
  | _ => .retry

/-- Entries held for one of some reasons issue again. -/
def Course.rouse (c : Course) (p : Hold → Bool) : Course :=
  let f (e : Entry) : Entry := match e.wait with
    | .again h => if p h then { e with wait := h.woken } else e
    | _ => e
  { c with fr0 := c.fr0.map f, fr1 := c.fr1.map f, fr2 := c.fr2.map f }

/-! ## What an instruction reads and writes, and the scoreboard (R140, R142) -/

/-- The registers an instruction reads as sources, in operand order DST, SA, SB, SC; `rmw` when it reads its destination. -/
def formSources (f : Form) (rmw : Bool) : List Reg :=
  (if f.dst != .no && (!f.dstW || rmw) then [f.c.dst] else []) ++ (if f.sa != .no then [f.c.sa] else []) ++
    (if f.sb != .no && (f.sb != .vOrZero || f.c.sb != .w 0) then [f.c.sb] else []) ++ (if f.sc != .no then [f.c.sc] else [])

/-- Uniform issue (R140): U, or only p0 and registers held per course or panel read under guard ?p0 or ?!p0. -/
def formUniform (f : Form) (rmw : Bool) : Bool :=
  f.c.u || (f.c.guard.pred == 0 && (formSources f rmw).all (fun r => Reg.shared r || r == .p 0))

/-- The register after a v register. -/
def nextV (r : Reg) : Reg :=
  match r with
  | .v i => .v ⟨(i.val + 1) % 8, Nat.mod_lt _ (by decide)⟩
  | r => r

/-- The return entry that a RET pops is on chip: how far the window slides back; else at most 23 positions. -/
def Strand.slide (x : Strand) : Nat := (x.rstack.getLast?).elim 23 (·.n)

/-- The window positions that CALL and RET spill, fill, zero or discard (R150). -/
def Strand.windowMoves (x : Strand) (depthMax : Nat) (i : Instr) (n : Nat) : Bool :=
  match i with
  | .call f =>
    let low := x.wb + f.mod.toNat + 24 - depthMax
    (x.low ≤ n && n < low) || x.wb + 24 ≤ n
  | .ret _ => x.depth != 0 && (x.wb + 24 ≤ n + x.slide || n < x.low)
  | _ => false

/-- The registers an instruction reads or writes beside those its fields name: the second of a pair (R228, R229). -/
def pairRegs : Instr → List Reg
  | .vpmul f => [nextV f.dst]
  | .vunpk f => if f.mod.getLsbD 6 then [nextV f.sa] else []
  | _ => []

/-- The scoreboard (R142): a register that an instruction reads or writes is pending. -/
def State.pendingFor (s : State) (core : Nat) (c : Course) (E : Entry) (i : Instr) : Bool :=
  match i.form false with
  | none => false
  | some f =>
    let regs := formSources f true ++ pairRegs i ++ (if f.c.guard.pred == 0 then [] else [Reg.p f.c.guard.pred])
    let depth := ((s.skein? c.skein).bind (fun k => s.launch? k.launch)).elim 64 (·.hdr.depth)
    let any (p : Pend) : Bool := c.strands.toList.any (fun x => x.pending.contains p)
    regs.any (fun r => match r with
      | .t h => (s.panel? core c.pslot).elim false (fun p => (p.handles[h.val]?).elim false (·.pending))
      | r => (lanesOf E.mask).any (fun i => (pendOf (c.st i) r).elim false any)) ||
    (lanesOf E.mask).any (fun l => (c.st l).pending.any (fun p => match p with
      | .pos n => (c.st l).windowMoves depth i n
      | _ => false))

end Sys2Proof.Machine
end

