-- ==== Sys2Proof/Machine/Counters.lean ====
section
/-! DEFINITION. Counters: signals, firings and poison (R348 to R353, R369, R384). -/
namespace Sys2Proof.Machine

/-- The device counter of a context's counter number, none outside its quota (R54). -/
def counterOf (e : ContextEntry) (cnum : Nat) : Option Nat :=
  if cnum < e.ccount.toNat then some ((e.cbase.toNat + cnum) % 65536) else none

def State.counter (s : State) (i : Nat) : Counter := (kget s.async.counters i).getD Counter.zero
/-- A counter at its reset values is not listed. -/
def State.setCounter (s : State) (i : Nat) (c : Counter) : State :=
  { s with async := { s.async with
      counters := if c = Counter.zero then kdel s.async.counters i else kset s.async.counters i c } }

/-- Entries and queues that wait on a counter look at it again (R61, R365). -/
def State.wakeCounter (s : State) (i : Nat) : State :=
  let wake := fun (l : List Entry) => l.map (fun e => if e.wait == .again (.counter i) then { e with wait := .recheck i } else e)
  { s with courses := kmapVals s.courses (fun _ c => { c with fr0 := wake c.fr0, fr1 := wake c.fr1, fr2 := wake c.fr2 }) }

/-- A course has an entry whose CWAIT on a counter is pending. -/
def Course.waitsOn (c : Course) (i : Nat) : Bool :=
  (c.fr0 ++ c.fr1 ++ c.fr2).any (fun e => e.wait == .again (.counter i) || e.wait == .recheck i)

/-- Whether a CWAIT, of a saved skein too, or a WAIT packet is pending on a counter (R353). -/
def State.counterWaited (s : State) (i : Nat) : Bool :=
  s.courses.any (fun (_, c) => c.waitsOn i) || s.work.skeins.any (fun (_, k) => k.stashC.any (·.waitsOn i)) ||
    s.tables.queues.any (fun (_, q) => match q.waiting with | some (n, _) => n == i | none => false)

/-! ## Work entries (R382) -/

def entField (b : BitVec 512) (off size : Nat) : Nat := (b.toNat >>> (8 * off)) % 2 ^ (8 * size)
def entOp (b : BitVec 512) : Nat := entField b 0 1
def entDev (b : BitVec 512) : Nat := entField b 5 1
def entLen (b : BitVec 512) : Nat := entField b 0x18 4

/-- The fabric port that faces a peer (R370). -/
def State.portOf (s : State) (peer : Nat) : Nat := if peer < s.devNo then peer else peer - 1

/-- A work entry starts executing (R383): an operation of the copy engines. -/
def State.startEntry (s : State) (a : Armed) : State :=
  let (id, s) := s.newId
  s.setOp id { kind := .entry a.bits false, ctx := a.ctx, launch := a.launch, skein := a.skein, issuer := .device, core := a.core,
               cause := a.cause, parent := a.parent, signal := none, cursor := 0, started := s.time.gt, moved := 0,
               doneAt := 0, waiting := false, fault := none }

/-- The event source of the port toward a peer. -/
def State.portSrc (s : State) (peer : Nat) : Nat := src 6 (s.portOf peer)

/-! ## Signals -/

/-- Count a signal toward the first declared entry that matches and is still awaited (R350). -/
def countDecl (dev key : Nat) : List Decl → List Decl
  | [] => []
  | d :: t =>
    if d.dev.toNat == dev && d.key.toNat == key && d.arrived.toNat < d.expect.toNat then
      { d with arrived := d.arrived + 1 } :: t
    else d :: countDecl dev key t

/-- Fire one armed entry (R351, R369, R384). -/
def State.fireOne (s : State) (ctx i cnum : Nat) (cause parent : Word32) (a : Armed) : State :=
  let v := (s.counter i).value.toNat
  let s := s.emit { source := src 4 0, type := 0x92, cause, parent, ctx, payload := cnum + v * 2 ^ 16 }
  let s := s.emit { source := s.portSrc (entDev a.bits), type := 0xA4, priv := true, cause := a.cause, parent := a.parent,
                    ctx := a.ctx, payload := cnum + entOp a.bits * 2 ^ 16 + entDev a.bits % 16 * 2 ^ 24 + v * 2 ^ 28 }
  s.startEntry a

/-- Fire the armed entries whose threshold VALUE has reached, in arming order (R351). -/
def State.fireArmed (s : State) (ctx i cnum : Nat) (cause parent : Word32) : State :=
  let c := s.counter i
  let (fired, kept) := c.armed.partition (fun a => decide (a.threshold.toNat ≤ c.value.toNat))
  fired.foldl (fun s a => s.fireOne ctx i cnum cause parent a) (s.setCounter i { c with armed := kept })

/-- A signal of a counter (R349 to R351): dropped when it is poisoned (R352). -/
def State.signal (s : State) (ctx i cnum : Nat) (incr : Word) (dev key : Nat) (cause parent : Word32) : State :=
  let c := s.counter i
  if c.poison then s else
  let s := s.setCounter i { c with value := c.value + incr, gen := c.gen + 1, decl := countDecl dev key c.decl }
  (s.fireArmed ctx i cnum cause parent).wakeCounter i

/-- A counter signal word applied for a context under one of its entries: nothing when CEN is 0 or CNUM is outside the quota
(R38). -/
def State.signalWord (s : State) (ctx : Nat) (e : ContextEntry) (w : Word) (dev key : Nat) (cause parent : Word32) : State :=
  let cnum := bitsOf w.toNat 15 0
  if !w.getLsbD 16 then s else
  match counterOf e cnum with
  | none => s
  | some i => s.signal ctx i cnum (BitVec.ofNat 64 (bitsOf w.toNat 63 32)) dev key cause parent

/-- Whether a signal word names a counter in the quota and its reserved bits are zero (R38). CNUM is not looked at when CEN is 0 (DESIGN
CHOICE, log 67). -/
def signalWordOk (e : ContextEntry) (w : Word) : Bool :=
  bitsOf w.toNat 31 17 == 0 && (!w.getLsbD 16 || bitsOf w.toNat 15 0 < e.ccount.toNat)

/-- CSET (R364): a new VALUE, one GEN, and the firings. -/
def State.setValue (s : State) (ctx i cnum : Nat) (v : Word) (cause parent : Word32) : State :=
  let c := s.counter i
  ((s.setCounter i { c with value := v, gen := c.gen + 1 }).fireArmed ctx i cnum cause parent).wakeCounter i

/-- Poison one counter (R352, R412). -/
def State.poison (s : State) (ctx i cnum : Nat) (cause parent : Word32) : State :=
  let c := s.counter i
  let s := (s.setCounter i { c with poison := true, armed := [], gen := c.gen + 1 }).wakeCounter i
  s.emit { source := src 4 0, type := 0x93, err := true, cause, parent, ctx, payload := cnum }

/-- Poison every counter of a quota (R352). -/
def State.poisonQuota (s : State) (ctx : Nat) (e : ContextEntry) (cause parent : Word32) : State :=
  (List.range (min e.ccount.toNat 65536)).foldl (fun s n =>
    match counterOf e n with
    | some i => s.poison ctx i n cause parent
    | none => s) s

end Sys2Proof.Machine
end

