-- ==== Sys2Proof/Machine/Links.lean ====
section
/-! DEFINITION. Links, relays, flows and the sending of packets (R370 to R376). -/
namespace Sys2Proof.Machine

/-- Whether the link from this device to a peer is up (R370): trained by step 0x08 and not listed as down. -/
def State.linkUp (s : State) (peer : Nat) : Bool :=
  8 ≤ s.dev.bootDone.toNat && peer != s.devNo && peer < s.domainSize && !s.async.down.contains (s.devNo, peer)

/-- Whether the link between two other devices is down, as either has reported it (R371, R373). -/
def State.farDown (s : State) (a b : Nat) : Bool := s.async.down.contains (a, b) || s.async.down.contains (b, a)

/-- The devices a packet from this device to `dst` may be relayed through, in the order of ENT e ≥ 1 (R373). -/
def State.relays (s : State) (dst e : Nat) : List Nat :=
  let l := (List.range s.domainSize).filter (fun d => d != s.devNo && d != dst)
  let k := (e - 1) % l.length
  l.drop k ++ l.take k

/-- The first usable relay (R373): both links of its path up. -/
def State.relayFor (s : State) (dst e : Nat) : Option Nat :=
  (s.relays dst e).find? (fun r => s.linkUp r && !s.farDown r dst)

/-- How a packet with an ENT reaches a peer: `none` unreachable, `some none` the direct link, `some (some r)` by relay r (R373,
R374). -/
def State.route (s : State) (dst ent : Nat) : Option (Option Nat) :=
  let direct := s.linkUp dst
  if s.domainSize ≤ dst || dst == s.devNo then none
  else if ent == 0 && direct then some none
  else match s.relayFor dst (max ent 1) with
    | some r => some (some r)
    | none => if direct then some none else none

/-- The flow's record toward a device, or a new one with an entropy and mode (R372, R381). -/
def State.flowFor (s : State) (f : Flow) (dst ent : Nat) (mode : BitVec 2) : FlowState :=
  (s.async.flows.find? (fun x => x.flow == f && x.dev == dst)).getD { flow := f, dev := dst, seq := 0, ent, mode, next := none }

def State.setFlow (s : State) (x : FlowState) : State :=
  { s with async := { s.async with
      flows := x :: s.async.flows.filter (fun y => !(y.flow == x.flow && y.dev == x.dev)) } }

/-- Requests of a flow that have no response yet. -/
def State.outstanding (s : State) (f : Flow) (dst : Nat) : Bool :=
  s.async.reqs.any (fun (_, r) => r.flow == f && r.dev == dst && r.ended.isNone)

/-- A pending change of entropy takes effect when nothing of the flow is outstanding, or at once in mode 0x2 (R375). -/
def State.settleFlow (s : State) (x : FlowState) : FlowState :=
  match x.next with
  | none => x
  | some (ent, mode) => if x.mode == 2 || !s.outstanding x.flow x.dev then { x with ent, mode, next := none } else x

/-- A packet leaves by a port, which marks it when its output queue is more than three quarters full (R374). -/
def State.portOut (s : State) (p : Packet) : State :=
  { s with async := { s.async with outbox := s.async.outbox ++ [{ p with mark := p.mark || Config.portFull s.async.outbox.length }] } }

/-- Put a packet on its way (R371): to a port, with its route. -/
def State.launchPacket (s : State) (p : Packet) : State :=
  s.portOut (match s.route p.dst.toNat p.ent.toNat with
    | some (some r) => { p with rly := true, relay := BitVec.ofNat 4 r }
    | _ => p)

/-- Send a control flit, which carries no cause (R371). -/
def State.sendControl (s : State) (dst ctx : Nat) (f : Flow) (body : Body) : State :=
  s.launchPacket { cause := 0, ctx := BitVec.ofNat 16 ctx, ent := 0, kind := 0x0C, seq := 0, len := 0, src := BitVec.ofNat 4 s.devNo,
                   dst := BitVec.ofNat 4 dst, mode := 0, mark := false, rly := false, relay := 0, info := 0, flow := f, req := 0, body }

/-- A link message to every peer that can be reached: the state of this device's link to some peers (R371; DESIGN CHOICE, log 69). -/
def State.reportLinks (s : State) (of_ : List Nat) : State :=
  let down (d : Nat) : Bool := s.async.down.contains (s.devNo, d)
  ((List.range s.domainSize).filter s.linkUp).foldl (fun s q =>
    (of_.filter (· != q)).foldl (fun s d => s.sendControl q 0xFFFF (.pair 0) (.link d (!down d))) s) s

/-- A link message: what the device that sent it says of its link to a peer. -/
def State.linkHeard (s : State) (from_ peer : Nat) (up : Bool) : State :=
  if from_ == s.devNo then s else
  let rest := s.async.down.filter (· != (from_, peer))
  { s with async := { s.async with down := if up then rest else (from_, peer) :: rest } }

/-- Further flits of a payload: 48 bytes ride in the first flit (R371). -/
def flitLen (n : Nat) : Byte := BitVec.ofNat 8 (ceilDiv (n - 48) 64)

/-- Bytes a body carries. -/
def bodyBytes : Body → Nat
  | .write _ b => b.length
  | .reduce _ _ _ b => b.length
  | .chunk _ _ _ b => b.length
  | _ => 0

/-- Send one packet of a flow (R372 to R375); the flow's SEQ advances. Answers the packet as sent. -/
def State.sendPacket (s : State) (f : Flow) (dst kind ctx ent0 : Nat) (mode0 : BitVec 2) (cause : Word32) (req : Nat) (body : Body) :
    State × Packet :=
  let x := s.settleFlow (s.flowFor f dst ent0 mode0)
  let p : Packet :=
    { cause, ctx := BitVec.ofNat 16 ctx, ent := BitVec.ofNat 8 x.ent, kind := BitVec.ofNat 8 kind, seq := x.seq,
      len := flitLen (bodyBytes body), src := BitVec.ofNat 4 s.devNo, dst := BitVec.ofNat 4 dst, mode := x.mode, mark := false,
      rly := false, relay := 0, info := 0, flow := f, req, body }
  ((s.setFlow { x with seq := x.seq + 1 }).launchPacket p, p)

/-- An answer to a packet: ack, nack or read response, carrying the mark (R371, R374). -/
def State.answer (s : State) (q : Packet) (kind : Nat) (info : Nat) (body : Body) : State :=
  s.launchPacket { q with kind := BitVec.ofNat 8 kind, src := q.dst, dst := q.src, len := 0, info := BitVec.ofNat 24 info, body,
                          rly := false, relay := 0 }

/-- A nack with a reason and, for reason 0x03, a detail (R374). -/
def nackInfo (reason detail : Byte) : Nat := reason.toNat + detail.toNat * 256

/-- The agenda in order of time, earlier items first at one time (log 4). -/
def insertItem (it : Item) : List Item → List Item
  | [] => [it]
  | x :: t => if it.at_ < x.at_ then it :: x :: t else x :: insertItem it t

/-- Put an event to happen at a time. -/
def State.laterAt (s : State) (t : Nat) (i : Instr) : State := { s with agenda := insertItem ⟨t, .event i⟩ s.agenda }
/-- Put an event to happen now, after what already waits to happen now (log 4). -/
def State.later (s : State) (i : Instr) : State := s.laterAt s.time.gt i

/-- Send a request and remember it until its response (R372, R379, R380); an unreachable one is nacked 0x01
(R374): it never joins the order of its flow, so it takes no SEQ (R372, R376; log 41). -/
def State.sendReq (s : State) (kind : ReqKind) (f : Flow) (dst pk ctx ent0 : Nat) (mode0 : BitVec 2) (cause parent : Word32)
    (laddr : Word) (body : Body) : State :=
  let (id, s) := s.newId
  let reach := (s.route dst (s.settleFlow (s.flowFor f dst ent0 mode0)).ent).isSome
  let (s2, p) := s.sendPacket f dst pk ctx ent0 mode0 cause id body
  let r : Req := { kind, flow := f, dev := dst, ctx, cause, parent, laddr, sent := s.time.gt, packet := p, ended := none }
  let s := if reach then s2 else s
  let s := { s with async := { s.async with reqs := kset s.async.reqs id r } }
  if reach then s
  else s.later (.fabricNack { p with kind := 8, src := p.dst, dst := p.src, info := 1, len := 0, body := .none })

end Sys2Proof.Machine
end

