-- ==== Sys2Proof/Machine/Barriers.lean ====
section
/-! DEFINITION. Barriers at the four levels: arrivals, departures, completion and the awaited-party record (R341 to R347, R390). -/
namespace Sys2Proof.Machine

/-- How many barriers a level has (R341). -/
def barrierCount : Nat → Nat
  | 0 => 4
  | 1 => 16
  | 2 => 8
  | _ => 4

/-- The unit a barrier belongs to. -/
inductive BarUnit where
  | course (core slot : Nat)
  | panel (core pslot : Nat)
  | skein (id : Nat)
  | launch (id : Nat)
  deriving DecidableEq, Repr

def BarUnit.level : BarUnit → Nat
  | .course _ _ => 0
  | .panel _ _ => 1
  | .skein _ => 2
  | .launch _ => 3

/-- The unit of a level that a course lies in. -/
def State.unitOf (s : State) (core slot : Nat) (c : Course) (level : Nat) : BarUnit :=
  match level with
  | 0 => .course core slot
  | 1 => .panel core c.pslot
  | 2 => .skein c.skein
  | _ => .launch ((s.skein? c.skein).elim 0 (·.launch))

def State.bars (s : State) : BarUnit → List Barrier
  | .course k i => (s.course? k i).elim [] (·.barriers.toList)
  | .panel k i => (s.panel? k i).elim [] (·.barriers.toList)
  | .skein i => (s.skein? i).elim [] (·.barriers.toList)
  | .launch i => (s.launch? i).elim [] (·.barriers.toList)

def State.bar? (s : State) (u : BarUnit) (n : Nat) : Option Barrier := nth (s.bars u) n

def State.setBar (s : State) (u : BarUnit) (n : Nat) (b : Barrier) : State :=
  match u with
  | .course k i => s.modCourse k i (fun c => { c with barriers := c.barriers.setIfInBounds n b })
  | .panel k i => s.modPanel k i (fun c => { c with barriers := c.barriers.setIfInBounds n b })
  | .skein i => s.modSkein i (fun c => { c with barriers := c.barriers.setIfInBounds n b })
  | .launch i => s.modLaunch i (fun c => { c with barriers := c.barriers.setIfInBounds n b })

/-- The courses in a unit. -/
def State.unitCourses (s : State) : BarUnit → List (Nat × Nat × Course)
  | .course k i => (s.course? k i).elim [] (fun c => [(k, i, c)])
  | .panel k i => s.panelCourses k i
  | .skein i => s.skeinCourses i
  | .launch i => s.coursesWhere (fun _ c => (s.skein? c.skein).elim false (fun k => k.launch == i))

/-! ## Who has arrived -/

def findArr (l : List Arrival) (level n : Nat) : Option Arrival := l.find? (fun a => a.level == level && a.number == n)
def setArr (l : List Arrival) (a : Arrival) : List Arrival :=
  a :: l.filter (fun b => !(b.level == a.level && b.number == a.number))

/-- An arrival counts toward phase P, or was made for a later one and so covers P (R345). -/
def arrCovers (l : List Arrival) (level n : Nat) (P : Word32) : Bool :=
  match findArr l level n with
  | some a => (a.phase - P).toNat < 2 ^ 31
  | none => false

/-- A phase has completed: PHASE has passed it (R345). -/
def phasePassed (phase P : Word32) : Bool := phase != P && (P - phase).toNat < 2 ^ 31

/-- Every strand of the course that has not departed has arrived (R344). -/
def Course.arrivedAt (c : Course) (level n : Nat) (P : Word32) : Bool :=
  c.present != 0 && (lanesOf c.present).all (fun i => arrCovers (c.st i).arrs level n P)

/-- Every course of the panel has arrived (R344). -/
def State.panelArrived (s : State) (core pslot level n : Nat) (P : Word32) : Bool :=
  let l := (s.panelCourses core pslot).filter (fun (_, _, c) => c.present != 0)
  !l.isEmpty && l.all (fun (_, _, c) => c.arrivedAt level n P)

/-- Every panel of the skein has arrived (R344). -/
def State.skeinArrived (s : State) (sk level n : Nat) (P : Word32) : Bool :=
  let l := s.skeinPanels sk
  !l.isEmpty && l.all (fun (k, i, _) => s.panelArrived k i level n P)

/-- A saved skein's arrivals stand as they were (R347). -/
def Skein.savedArrived (k : Skein) (level n : Nat) (P : Word32) : Bool :=
  !k.stashP.isEmpty && k.stashP.all (fun p =>
    let l := k.stashC.filter (fun c => c.f2 == p.f2 && c.present != 0)
    !l.isEmpty && l.all (fun c => c.arrivedAt level n P))

/-- The parties of a unit's barrier that have arrived for phase P, by what their members have done (R344). -/
def State.partiesArrived (s : State) (u : BarUnit) (n : Nat) (P : Word32) : List Nat :=
  match u with
  | .course k i => match s.course? k i with
    | none => []
    | some c => (lanesOf c.present).filter (fun l => arrCovers (c.st l).arrs 0 n P)
  | .panel k i =>
    ((s.panelCourses k i).filter (fun (_, _, c) => c.arrivedAt 1 n P)).map (fun (_, _, c) => c.f1) ++
      (match s.panel? k i with | some p => if arrCovers p.sarrs 1 n P then [8] else [] | none => [])
  | .skein i => ((s.skeinPanels i).filter (fun (k, q, _) => s.panelArrived k q 2 n P)).map (fun (_, _, p) => p.f2)
  | .launch i =>
    ((s.work.skeins.filter (fun (_, k) => k.launch == i)).filter (fun (j, k) =>
      if k.phase == .saved then k.savedArrived 3 n P else s.skeinArrived j 3 n P)).map (fun (_, k) => k.index)

/-- The arrivals that a party's arrival at a unit's barrier is made of. -/
def State.partyArrivals (s : State) (u : BarUnit) (n party : Nat) : List Arrival :=
  let ofCourse (c : Course) : List Arrival := (lanesOf c.present).filterMap (fun i => findArr (c.st i).arrs u.level n)
  match u with
  | .course k i => (s.course? k i).elim [] (fun c => (findArr (c.st party).arrs 0 n).toList)
  | .panel k i =>
    if party == 8 then (s.panel? k i).elim [] (fun p => (findArr p.sarrs 1 n).toList)
    else (s.panelCourses k i).flatMap (fun (_, _, c) => if c.f1 == party then ofCourse c else [])
  | .skein i => (s.skeinCourses i).flatMap (fun (_, _, c) => if c.f2 == party then ofCourse c else [])
  | .launch i => (s.work.skeins.filter (fun (_, k) => k.launch == i && k.index == party)).flatMap (fun (j, k) =>
      (s.skeinCourses j).flatMap (fun (_, _, c) => ofCourse c) ++ k.stashC.flatMap ofCourse)

/-- The last of some arrivals in time. -/
def lastArrival : List Arrival → Option Arrival
  | [] => none
  | a :: t => match lastArrival t with
    | some b => if b.at_ < a.at_ then some a else some b
    | none => some a
/-- The first of some arrivals in time. -/
def firstArrival : List Arrival → Option Arrival
  | [] => none
  | a :: t => match firstArrival t with
    | some b => if b.at_ < a.at_ then some b else some a
    | none => some a

/-! ## Joined devices (R390) -/

/-- The join that raised a launch barrier, by its collective. -/
def State.joinOf (s : State) (launch n : Nat) : Option (Nat × Coll) :=
  kfind s.async.colls (fun _ c => c.launch == some launch && bitsOf c.desc.toNat 7 0 == 6 &&
    bitsOf c.desc.toNat (8 * 0x60 + 1) (8 * 0x60) == n)

/-- Joined devices that have not departed. -/
def Barrier.joinedDevs (b : Barrier) : List Nat :=
  if b.joined then (lanesOf b.joinMask).filter (fun d => !b.devDeparted.contains d) else []
/-- Joined devices whose arrival counts in the current phase. -/
def Barrier.devsIn (b : Barrier) : List Nat := b.joinedDevs.filter (fun d => b.devArrived.any (fun x => x.1 == d))
/-- The cause that the first or last counted arrival of a joined device carried. -/
def Barrier.devCause (b : Barrier) (last : Bool) : Option Word32 :=
  let l := (b.devArrived.filter (fun x => b.devsIn.contains x.1)).map (·.2)
  if last then l.getLast? else l.head?
/-- ARRIVED (R346). -/
def Barrier.arrivedCount (b : Barrier) : Nat := b.arrived.length + b.devsIn.length

/-- Tell the joined devices that all local parties have arrived, or that this device departs. -/
def State.tellJoined (s : State) (launch n : Nat) (cause : Word32) (departs : Bool) : State :=
  match s.joinOf launch n with
  | none => s
  | some (k, c) =>
    let tag : Word32 := BitVec.ofNat 32 (bitsOf c.desc.toNat 95 64)
    ((s.bar? (.launch launch) n).elim [] (·.joinedDevs)).foldl (fun s d =>
      (s.sendPacket (.coll (BitVec.ofNat 32 k)) d 0x0B c.ctx 0 (BitVec.ofNat 2 (bitsOf c.desc.toNat 41 40)) cause 0
        (if departs then .departure tag else .barrier tag)).1) s

/-! ## Completion (R345) -/

/-- Entries that waited for a phase that has passed complete their instruction and go on (R345, R144). -/
def releaseEntries (level n : Nat) (P : Word32) (l : List Entry) : List Entry :=
  (l.filter (fun e => match e.wait with
    | .barrier lv m ph => lv == level && m == n && phasePassed ph P
    | _ => false)).foldl (fun l e =>
      updateFrontier l e ((lanesOf e.mask).map (fun i => (i, pcNext e.pc, e.prio))) []) l

/-- Release the waiters of one course at every level of its frontier. -/
def Course.releaseBar (level n : Nat) (P : Word32) (c : Course) : Course :=
  { c with fr0 := releaseEntries level n P c.fr0, fr1 := releaseEntries level n P c.fr1,
           fr2 := releaseEntries level n P c.fr2 }

/-- Release the waiters of a unit's barrier, the sequencers of the panel among them. -/
def State.releaseBar (s : State) (u : BarUnit) (n : Nat) (P : Word32) : State :=
  let s := (s.unitCourses u).foldl (fun s (k, i, _) => s.modCourse k i (Course.releaseBar u.level n P)) s
  match u with
  | .panel k i => s.modPanel k i (fun p => match p.swait with
    | .barrier m ph => if m == n && phasePassed ph P then { p with swait := .none, spc := pcNext p.spc } else p
    | _ => p)
  | _ => s

/-- The context, launch or skein events of a barrier belong to. -/
def State.unitCtx (s : State) : BarUnit → Nat
  | .skein i => s.skeinCtx i
  | .launch i => (s.launch? i).elim 0xFFFF (·.ctx)
  | .course k i => (s.course? k i).elim 0xFFFF (fun c => s.skeinCtx c.skein)
  | .panel k i => (s.panel? k i).elim 0xFFFF (fun p => s.skeinCtx p.skein)

/-- The phase completes (R345): PHASE advances, ARRIVED returns to 0, waiters are released and BAR_COMPLETE is emitted at the
skein and launch levels (R369). A device that has already arrived for the next phase is its first arrival (R346). -/
def State.completePhase (s : State) (u : BarUnit) (n : Nat) (b : Barrier) (cause parent : Word32) : State :=
  let P := b.phase + 1
  let used (l : List (Nat × Word32)) (d : Nat) : List (Nat × Word32) := match l.find? (fun x => x.1 == d) with
    | some x => l.erase x
    | none => l
  let next := { b with phase := P, arrived := [], devArrived := b.devsIn.foldl used b.devArrived, told := false, fstamp := 0, fcause := 0 }
  let next := match next.devCause false with
    | some c => { next with fstamp := BitVec.ofNat 48 s.stamp, fcause := c }
    | none => next
  let s := s.setBar u n next
  let s := if 2 ≤ u.level then
      let from_ := (s.stamp + 2 ^ 48 - b.fstamp.toNat) % 2 ^ 48
      s.emit { source := src 4 0, type := 0x90, cause, parent, ctx := s.unitCtx u,
               payload := u.level + n * 4 + P.toNat * 2 ^ 8 + from_ * 2 ^ 40 }
    else s
  s.releaseBar u n P

/-- The parties of a barrier that have arrived and are not yet counted. -/
def State.newParties (s : State) (u : BarUnit) (n : Nat) (b : Barrier) : List Nat :=
  (s.partiesArrived u n b.phase).filter (fun p => !b.arrived.contains p && !b.departed.contains p)

/-- Look at a barrier once: count the parties whose members have all arrived, tell joined devices, and complete the phase when ARRIVED
reaches EXPECT, which is nonzero. `first` is the cause of a first arrival, `cause` and `parent` those of the party that completes. -/
def State.evalOnce (s : State) (u : BarUnit) (n : Nat) (first cause parent : Word32) : Bool × State :=
  match s.bar? u n with
  | none => (false, s)
  | some b =>
    let new := s.newParties u n b
    let opens := b.arrivedCount == 0 && !(new.isEmpty)
    let b := { b with arrived := b.arrived ++ new,
                      fstamp := if opens then BitVec.ofNat 48 s.stamp else b.fstamp,
                      fcause := if opens then first else b.fcause }
    let localAll := !b.arrived.isEmpty && b.arrived.length + b.joinedDevs.length == b.expect
    let tell := b.joined && localAll && !b.told
    let b := if tell then { b with told := true } else b
    let s := s.setBar u n b
    let s := match tell, u with
      | true, .launch i => s.tellJoined i n cause false
      | _, _ => s
    if b.arrivedCount == b.expect && b.expect != 0 && b.arrivedCount != 0 then (true, s.completePhase u n b cause parent)
    else (false, s)

/-- Arrivals made for a phase before it began count in it, each under the cause it was made with (R345, R346, R369). -/
def State.evalCarried (s : State) (u : BarUnit) (n : Nat) : Nat → State
  | 0 => s
  | f + 1 =>
    match s.bar? u n with
    | none => s
    | some b =>
      let l := (s.newParties u n b).filterMap (fun p => lastArrival (s.partyArrivals u n p))
      let (cause, parent) := match lastArrival l with
        | some a => (a.cause, a.parent)
        | none => ((b.devCause true).getD 0, 0)
      match s.evalOnce u n ((firstArrival l).elim 0 (·.cause)) cause parent with
      | (true, s) => s.evalCarried u n f
      | (false, s) => s

/-- Look at a barrier again after an arrival, a departure or a join with a cause and parent, and then at the phases that arrivals already
made open and complete. -/
def State.evalBar (s : State) (u : BarUnit) (n : Nat) (cause parent : Word32) : Nat → State
  | 0 => s
  | f + 1 => match s.evalOnce u n cause cause parent with
    | (true, s) => s.evalCarried u n f
    | (false, s) => s

/-- Look at one barrier of a course's unit of a level, and so at nothing above it: a strand's arrival is at one level (R344). -/
def State.evalAt (s : State) (core slot level n : Nat) (cause parent : Word32) : State :=
  match s.course? core slot with
  | none => s
  | some c => s.evalBar (s.unitOf core slot c level) n cause parent 3

/-- The parties of a unit have changed: look at all its barriers. -/
def State.evalAll (s : State) (u : BarUnit) (cause parent : Word32) : State :=
  (List.range (barrierCount u.level)).foldl (fun s n => s.evalBar u n cause parent 3) s

/-! ## Arrivals (R344, R345) -/

/-- The phase a new arrival counts toward, and whether it must wait for the strand's pending one first (R345). -/
def nextArrival (l : List Arrival) (level n : Nat) (P : Word32) : Word32 × Bool :=
  match findArr l level n with
  | some a => if (a.phase - P).toNat < 2 ^ 31 then (a.phase + 1, true) else (P, false)
  | none => (P, false)

/-- Record the arrivals of some strands; answers the state and the phases they wait for, `true` where the strand's own previous
arrival is still pending. -/
def State.arriveStrands (s : State) (core slot level n : Nat) (lanes : List Nat) : State × List (Nat × Word32 × Bool) :=
  match s.course? core slot with
  | none => (s, [])
  | some c =>
    match s.bar? (s.unitOf core slot c level) n with
    | none => (s, [])
    | some b =>
      let ph := lanes.map (fun i => (i, nextArrival (c.st i).arrs level n b.phase))
      let c := ph.foldl (fun c (i, p, _) => c.modSt i (fun x => { x with arrs := setArr x.arrs ⟨level, n, p, s.causeOf c, s.parentOf c, s.time.gt⟩ })) c
      (s.setCourse core slot c, ph)

/-! ## Departures (R343) -/

/-- A party leaves one barrier: EXPECT falls by one, and ARRIVED with it if the party had arrived. -/
def Barrier.depart (b : Barrier) (party : Nat) : Barrier :=
  if b.departed.contains party then b
  else { b with expect := b.expect - 1, arrived := b.arrived.erase party, departed := party :: b.departed }

/-- A party leaves every barrier of a unit that counts it (R342, R343). -/
def State.departAll (s : State) (u : BarUnit) (party : Nat) (counted : Nat → Bool) (cause parent : Word32) : State :=
  (List.range (barrierCount u.level)).foldl (fun s n =>
    if !counted n then s else
    match s.bar? u n with
    | none => s
    | some b => (s.setBar u n (b.depart party)).evalBar u n cause parent 3) s

/-- Strands of a course have left: its course barriers lose the lanes, and the barriers above may find the course arrived. -/
def State.strandsDepart (s : State) (core slot : Nat) (lanes : List Nat) (cause parent : Word32) : State :=
  let s := lanes.foldl (fun s i => s.departAll (.course core slot) i (fun _ => true) cause parent) s
  match s.course? core slot with
  | none => s
  | some c =>
    if c.present == 0 then
      let s := s.departAll (.panel core c.pslot) c.f1 (fun _ => true) cause parent
      (s.evalAll (.skein c.skein) cause parent).evalAll (s.unitOf core slot c 3) cause parent
    else ((s.evalAll (.panel core c.pslot) cause parent).evalAll (.skein c.skein) cause parent).evalAll
      (s.unitOf core slot c 3) cause parent

/-! ## The awaited-party record (R346) -/

/-- AWAITED (R346): parties that have neither arrived nor departed. -/
def State.awaited (s : State) (u : BarUnit) (b : Barrier) : Nat :=
  let bits (l : List Nat) : Nat := l.foldl (fun m i => m ||| 2 ^ i) 0
  let waits (i : Nat) : Bool := !b.arrived.contains i && !b.departed.contains i
  match u with
  | .course k i => match s.course? k i with
    | some c => bits ((lanesOf c.present).filter waits)
    | none => 0
  | .panel k i =>
    bits ((((s.panelCourses k i).map (fun (x : Nat × Nat × Course) => x.2.2.f1)) ++ (if b.seq then [8] else [])).filter waits)
  | .skein i => bits (((s.skeinPanels i).map (fun (x : Nat × Nat × Panel) => x.2.2.f2)).filter waits)
  | .launch i =>
    let total := (s.launch? i).elim 0 (fun l => l.hdr.e3 * l.hdr.e4 * l.hdr.e5)
    let low := (List.range (b.arrived.length + b.departed.length + 1)).find? (fun j => waits j && j < total)
    bits (b.joinedDevs.filter (fun d => !b.devsIn.contains d)) + (low.getD 0xFFFFFFFF) * 2 ^ 32

/-- The record of 256 bits (R346). -/
def State.barRecord (s : State) (u : BarUnit) (n : Nat) (b : Barrier) : Nat :=
  s.awaited u b + b.expect % 2 ^ 32 * 2 ^ 64 + b.arrivedCount % 2 ^ 32 * 2 ^ 96 + b.phase.toNat * 2 ^ 128 + b.fcause.toNat * 2 ^ 160 +
    (if b.joined then 2 ^ 200 else 0) + (if b.seq then 2 ^ 201 else 0) + n * 2 ^ 202 + u.level * 2 ^ 206 + b.fstamp.toNat * 2 ^ 208

end Sys2Proof.Machine
end

