-- ==== Sys2Proof/Machine/Fetch.lean ====
section
/-! DEFINITION. Instruction lines: the cache, the fill and the checks of a slot and of a transfer target (R102, R116, R119,
R121, R123 to R127). -/
namespace Sys2Proof.Machine

/-! ## Reasons an instruction does not take effect -/

namespace Cause
def illegal : Byte := 0x01
def target : Byte := 0x02
def landing : Byte := 0x03
def parity : Byte := 0x04
def div0 : Byte := 0x05
def xlate : Byte := 0x06
def align : Byte := 0x07
def rangelock : Byte := 0x08
def format : Byte := 0x09
def uniform : Byte := 0x0A
def guard : Byte := 0x0B
def window : Byte := 0x0C
def priv : Byte := 0x0D
def brk : Byte := 0x0E
def watch : Byte := 0x0F
def sstep : Byte := 0x10
def preempt : Byte := 0x11
def ecc : Byte := 0x12
end Cause

/-- A trap about to be raised (R394): `lines` are the table lines a failed walk read (R250) and `ue` the home of an uncorrectable
error (R251, R412). -/
structure Trp where
  cause  : Byte
  detail : Byte
  tval   : Word
  lines  : List Nat := []
  ue     : Option Loc := none
  deriving DecidableEq, Repr

/-- Why one strand, or a whole entry, does not take an instruction's effect. -/
inductive Stop where
  | trap (t : Trp)
  | hold (h : Hold)
  deriving DecidableEq, Repr

def Trp.stop (cause detail : Byte) (tval : Word) : Stop := .trap { cause, detail, tval }
def XFail.stop (e : XFail) (a : Word) : Stop := .trap { cause := Cause.xlate, detail := e.detail, tval := a, lines := e.lines }
def eccStop (l : Loc) (a : Word) : Stop := .trap { cause := Cause.ecc, detail := 0x01, tval := a, ue := some l }

/-! ## The cache (R123, R124) -/

def icSet (line : Word) : Nat := bitsOf line.toNat 12 6

/-- Put a line at the most recently used place of its set; a set holds eight. -/
def icInsert (x : IcLine) (l : List IcLine) : List IcLine :=
  let rest := l.filter (fun y => !(y.ctx == x.ctx && y.line == x.line))
  let mine := (rest.filter (fun y => icSet y.line == icSet x.line)).take 7
  x :: (mine ++ rest.filter (fun y => icSet y.line != icSet x.line))

def State.icFind (s : State) (core ctx : Nat) (line : Word) : Option IcLine :=
  (s.core core).icache.find? (fun y => y.ctx == ctx && y.line == line)

/-- The fills that go on of other lines. -/
def Core.otherFills (k : Core) (ctx : Nat) (line : Word) : List (Nat × Word × BitVec 256) :=
  k.filling.filter (fun (c, l, _) => !(c == ctx && l == line))

def State.icPut (s : State) (core : Nat) (x : IcLine) : State :=
  s.modCore core (fun k => { k with icache := icInsert x k.icache, filling := k.otherFills x.ctx x.line })

/-- A line as a fill marks it (R124). -/
def icMark (ctx : Nat) (line : Word) (bits : LineBits) : IcLine :=
  let ok := lineParityOk bits
  { ctx, line, bits, lbad := !ok,
    sbad := BitVec.ofNat 5 ((List.range 5).foldl (fun m i => if ok && !slotParityOk bits i then m + 2 ^ i else m) 0) }

/-- Read a line at its home through the context's tables. -/
def State.lineRead (s : State) (w : Who) (line : Word) : Except Stop LineBits :=
  match s.home w .exec line with
  | .error e => .error (e.stop line)
  | .ok l => if s.badIn l 64 then .error (eccStop l line) else .ok (BitVec.ofNat 512 (s.peekNat l 64))

/-- Both parities of a line hold. -/
def lineOk (bits : LineBits) : Bool := lineParityOk bits && (List.range 5).all (slotParityOk bits)

/-- What a fill keeps of a line (R124, R129): the line as it is read now, or, where the fill has read the first sector before, that sector
with the second one as it is now. A combination whose parity fails is filled again, whole; a line that is read at once reads the same again,
and so does a read that fails. -/
def State.fillRead (s : State) (w : Who) (line : Word) : Except Stop LineBits :=
  match s.lineRead w line with
  | .error e => .error e
  | .ok bits => match (s.core w.core).filling.find? (fun (c, l, _) => c == w.ctx && l == line) with
    | none => .ok bits
    | some (_, _, first) =>
      let mixed : LineBits := bits.extractLsb' 256 256 ++ first
      .ok (if lineOk mixed then mixed else bits)

/-- Obtain a line for issue or for a transfer: the cached copy, or a fill. A fill that meets a translation fault or a memory error
is not kept, so that the next use fills again. -/
def State.obtain (s : State) (core : Nat) (w : Who) (line : Word) : State × Except Stop IcLine :=
  match s.icFind core w.ctx line with
  | some x => (s.icPut core x, .ok x)
  | none => match s.fillRead w line with
    | .error e => (s, .error e)
    | .ok bits => let x := icMark w.ctx line bits; (s.icPut core x, .ok x)

/-- Invalidate a context's lines in a range on one core (R128); length 0 names every line. -/
def State.icDrop (s : State) (core ctx : Nat) (base : Word) (len : Nat) : State :=
  let out (c : Nat) (l : Word) : Bool := c == ctx && (len == 0 || (base.toNat ≤ l.toNat && l.toNat < base.toNat + len))
  s.modCore core (fun k => { k with icache := k.icache.filter (fun y => !out y.ctx y.line), filling := k.filling.filter (fun (c, l, _) => !out c l) })

/-- Invalidate a context's lines on every core (R123). -/
def State.icDropAll (s : State) (ctx : Nat) : State :=
  { s with cores := kmapVals s.cores (fun _ k =>
      { k with icache := k.icache.filter (fun y => y.ctx != ctx), filling := k.filling.filter (fun (c, _, _) => c != ctx) }) }

/-! ## Checks of a slot (R116) -/

/-- TVAL of ILLEGAL (R116). -/
def illegalTval (w : Slot) (bit : Nat) : Word :=
  BitVec.ofNat 64 ((w.extractLsb' 80 8).toNat + (w.extractLsb' 88 8).toNat * 256 + bit * 65536)

def illegalStop (w : Slot) (detail : Byte) (bit : Nat) : Stop :=
  Trp.stop Cause.illegal detail (illegalTval w bit)

/-- Checks 1 to 9 of R116 on a slot of an obtained line. -/
def slotCheck (stream : Bool) (x : IcLine) (pc : Word) : Except Stop Instr :=
  let i := pcSlot pc
  let w := lineSlot x.bits i
  let at_ : Word := x.line + BitVec.ofNat 64 i
  if x.lbad then .error (Trp.stop Cause.parity 0 (at_ + 8))
  else if !lineReservedOk x.bits then .error (illegalStop w 0x06 0x7F)
  else if x.sbad.getLsbD i then .error (Trp.stop Cause.parity 0 at_)
  else match decodeSlot stream w with
    | .ok j => .ok j
    | .error e => .error (illegalStop w e.detail e.bit)

/-! ## Checks of a transfer (R119, R121) -/

/-- The obtained target line passes R119 step 2: TVAL is the target PC; PARITY's also says that LWPAR failed (R124). -/
def lineWordStop (x : IcLine) (pc : Word) : Option Stop :=
  if x.lbad then some (Trp.stop Cause.parity 0 (pc ||| 8))
  else if !lineReservedOk x.bits then some (Trp.stop Cause.illegal 0x06 pc)
  else none

/-- A failure to obtain a target line is reported with TVAL the target PC (R119). -/
def Stop.at_ (e : Stop) (pc : Word) : Stop :=
  match e with
  | .trap t => .trap { t with tval := pc }
  | .hold h => .hold h

/-- R119 on one target; TGTMASK is not consulted for a return from a trap (R400). -/
def State.checkTarget (s : State) (core : Nat) (w : Who) (tgt : Bool) (pc : Word) : State × Option Stop :=
  if !pcValid pc then (s, some (Trp.stop Cause.target 0x02 pc)) else
  match s.obtain core w (pcLine pc) with
  | (s, .error e) => (s, some (e.at_ pc))
  | (s, .ok x) => match lineWordStop x pc with
    | some e => (s, some e)
    | none => (s, if tgt && !lineTarget x.bits (pcSlot pc) then some (Trp.stop Cause.target 0x01 pc) else none)

/-- The LPAD that a slot of a line holds, by its LABEL and PRIO (R121, R122). -/
def landingPad (x : IcLine) (pc : Word) : Option (Half × Half) :=
  if (lineSlot x.bits (pcSlot pc)).extractLsb' 88 8 == 0x04#8 then
    some ((lineSlot x.bits (pcSlot pc)).extractLsb' 0 16, (lineSlot x.bits (pcSlot pc)).extractLsb' 16 16)
  else none

/-- Checks 4 to 7 of R121 on an entry read: the landing priority. -/
def State.checkLanding (s : State) (core : Nat) (w : Who) (label : Half) (pc : Word) : State × Except Stop Half :=
  if !pcValid pc then (s, .error (Trp.stop Cause.landing 0x02 pc)) else
  match s.checkTarget core w true pc with
  | (s, some e) => (s, .error e)
  | (s, none) => match s.obtain core w (pcLine pc) with
    | (s, .error e) => (s, .error (e.at_ pc))
    | (s, .ok x) => match landingPad x pc with
      | none => (s, .error (Trp.stop Cause.landing 0x03 pc))
      | some (lab, prio) => (s, if lab == label then .ok prio else .error (Trp.stop Cause.landing 0x04 pc))

end Sys2Proof.Machine
end

