-- ==== Sys2Proof/Machine/Teardown.lean ====
section
/-! DEFINITION. Engine ownership and stops (R314, R317), freeing of locks and operations (R283), the end of launches and
instances (R63, R206, R438, R439) and context kill (R401). -/
namespace Sys2Proof.Machine

/-! ## Locks and operations (R283) -/

/-- Free an operation's range locks on every core. -/
def State.freeLocks (s : State) (op : Nat) : State :=
  { s with cores := kmapVals s.cores (fun _ k => { k with locks := k.locks.filter (fun (_, x) => x.op != op) }) }

/-- An operation is gone: its locks, its handle on absent lines and its record. -/
def State.endOp (s : State) (op : Nat) : State :=
  let s := (s.freeLocks op).dropOp op
  { s with mem := { s.mem with absent := s.mem.absent.filterMap (fun (l, a) => match a with
      | .incoming ops =>
        let left := ops.filter (· != op)
        if left.isEmpty then none else some (l, .incoming left)
      | a => some (l, a)) } }

/-! ## The product engine's owner and stop (R314, R317) -/

def engineSrc (core : Nat) : Nat := src 2 (core * 16 + 9)
def seqSrc (core : Nat) : Nat := src 2 (core * 16 + 8)

/-- ESTAT's fields (R313). -/
def Engine.live (e : Engine) : Bool := e.estat.getLsbD 10
def Engine.stop (e : Engine) : Nat := bitsOf e.estat.toNat 7 0
def Engine.running (e : Engine) : Bool := e.live && e.stop == 0
def Engine.setLive (e : Engine) (b : Bool) : Engine :=
  { e with estat := (e.estat &&& ~~~0x400) ||| (if b then 0x400 else 0) }
def Engine.setStop (e : Engine) (c : Nat) : Engine := { e with estat := (e.estat &&& ~~~0xFF) ||| BitVec.ofNat 32 (c % 256) }

/-- ACZ's reset column, keeping ESTAT's G, H, MODE and SAT (R312, R333). -/
def Engine.cleared (e : Engine) : Engine :=
  { Engine.zero with estat := e.estat &&& 0x00FFF800, owner := e.owner, waiters := e.waiters }

/-- An event of a panel's engine or sequencer (R338): the cause of the job that the panel has loaded, whose parent is the skein's cause;
without a job the skein's own. -/
def State.panelEv (s : State) (core pslot source type payload : Nat) : Ev :=
  match s.panel? core pslot with
  | none => { source, type, priv := true, payload }
  | some p =>
    let ev : Ev := { source, type, priv := true, cause := s.skeinCause p.skein, parent := s.skeinParent p.skein,
                     ctx := s.skeinCtx p.skein, payload }
    match ((s.core core).engine.job).filter (fun j => (s.core core).engine.owner == some pslot && j.pslot == pslot) with
    | some j => { ev with cause := j.cause, parent := ev.cause }
    | none => ev

/-- An event of a job (R338). -/
def State.jobEv (s : State) (core pslot : Nat) (cause : Word32) (type payload : Nat) : Ev :=
  let sk := (s.panel? core pslot).map (·.skein)
  { source := engineSrc core, type, priv := true, cause, parent := (sk.map s.skeinCause).getD 0, ctx := (sk.map s.skeinCtx).getD 0, payload }

/-- A panel becomes the owner (R317); a restored panel's engine state is loaded then (R405). -/
def State.acquireEngine (s : State) (core pslot : Nat) : State :=
  let held := (s.panel? core pslot).bind (·.held)
  let s := s.modEngine core (fun e =>
    { (held.getD e) with owner := some pslot, waiters := e.waiters.erase pslot })
  let s := s.modPanel core pslot (fun p => { p with own := true, held := none })
  s.emit (s.panelEv core pslot (engineSrc core) 0x86 (pslot + 4))

/-- Release ownership and give the engine, cleared, to the panel that has waited longest (R317; log 14). -/
def State.releaseEngine (s : State) (core : Nat) : State :=
  match (s.engine core).owner with
  | none => s
  | some p =>
    let ev := s.panelEv core p (engineSrc core) 0x86 p
    let s := s.modEngine core (fun e => { e with owner := none, job := none })
    let s := s.modPanel core p (fun x => { x with own := false })
    let s := s.emit ev
    match (s.engine core).waiters with
    | [] => s
    | q :: _ => (s.modEngine core Engine.cleared).acquireEngine core q

/-- The loop indices as 80 bits (R338). -/
def Engine.loopBits (e : Engine) : Nat := leNat (e.eloop.toList.flatMap (fun h => leBytes 2 h.toNat))

/-- Stop a running job with a code (R314): the completed steps stay, its ranges are freed (R327), JOB_STOP is emitted (R338). An
extraction in progress completes first; a walk that has ended has no step left to interrupt. -/
def State.stopEngine (s : State) (core code : Nat) : State :=
  let e := s.engine core
  match e.job with
  | none => s
  | some j =>
    if !e.running || j.walked then s
    else if e.extract.isSome then s.modEngine core (fun e => { e with job := some { j with stopReq := some code } })
    else
    let s := (s.modEngine core (·.setStop code)).endOp j.op
    let s := { s with async := { s.async with faults := s.async.faults.filter (fun (_, p) => p.who != FaultWho.engine core) } }
    s.emit { s.jobEv core j.pslot j.cause 0x82 (code + e.loopBits * 2 ^ 8) with err := code == 2 || code == 3 }

/-! ## The end of a launch (R206, R438 steps 3 to 6, R439) -/

/-- Write pieces in order, stopping at the first that faults. -/
def State.writePieces (s : State) (w : Who) : List (Word × List Byte) → State × Bool
  | [] => (s, true)
  | (a, b) :: t => match s.writeRange w a b with
    | .error _ => (s, false)
    | .ok s => s.writePieces w t

/-- The statistics buffer: entries, then the header (R206). Answers whether it was written whole and whether a write faulted. -/
def State.writeStats (s : State) (l : Nat) (v : Launch) (status : Byte) : State × Bool × Bool :=
  if v.hdr.statbuf == 0 then (s, false, false) else
  let stat (k : Nat) : List Byte := leBytes 4 ((kget v.stats k).getD 0)
  let entries := (List.range v.hdr.ntens).map (fun t =>
    (v.hdr.statbuf + BitVec.ofNat 64 (64 + 16 * t), stat (3 * t) ++ stat (3 * t + 1) ++ stat (3 * t + 2) ++ leBytes 4 0))
  let header := leBytes 4 v.cause.toNat ++ leBytes 2 v.hdr.ntens ++ [status, 0] ++ leBytes 8 s.time.gt ++ leBytes 48 0
  let (s, ok) := s.writePieces (launchWho l v) (entries ++ [(v.hdr.statbuf, header)])
  (s, ok, !ok)

/-- Steps 3 to 6 of R438; the walker learns of the completion by NODE_DONE, whose copy for the trace buffer is written here, while the
launch is still there (R33, R75). -/
def State.finishLaunch (s : State) (l : Nat) (status : Byte) (applied : Nat) : State :=
  match s.launch? l with
  | none => s
  | some v0 =>
    let (s, whole, faulted) := s.writeStats l v0 status
    let v := (s.launch? l).getD v0
    let s := (List.range 4).foldl (fun s n =>
      if (s.bar? (.launch l) n).elim false (·.joined) then s.tellJoined l n v.cause true else s) s
    let s := match v.traced, kget s.work.runs v.run with
      | true, some g => s.traceEv l
          { source := src 0 0, type := 0x23, cause := v.cause, parent := v.parent, ctx := v.ctx,
            payload := g.gbase.toNat % 2 ^ 56 + v.node * 2 ^ 56 + 2 ^ 72 + status.toNat * 2 ^ 80 }
      | _, _ => s
    let v := (s.launch? l).getD v
    let s := match v.suspended with
      | none => s
      | some a => s.emit { source := src 1 0, type := 0x0A, cause := v.cause, parent := v.parent, ctx := v.ctx,
                           payload := a.toNat % 2 ^ 56 + v.dropped % 2 ^ 32 * 2 ^ 56 }
    let s := s.emit { source := src 1 0, type := 0xD3, cause := v.cause, parent := v.parent, ctx := v.ctx,
                      payload := (if whole then 1 else 0) + (if faulted then 2 else 0) + (if v.suspended.isSome then 4 else 0) +
                        status.toNat * 2 ^ 8 + applied % 2 ^ 32 * 2 ^ 16 }
    let s := { s with
      work := { s.work with
        launches := kdel s.work.launches l
        skeins := s.work.skeins.filter (fun (_, k) => k.launch != l)
        runs := kmod s.work.runs v.run (fun (g : GraphRun) => { g with running := g.running.map (fun (n : NodeRun) =>
          if n.node == v.node && n.status.isNone then { n with status := some status } else n) }) }
      async := { s.async with dir := s.async.dir.filter (fun d => d.launch != l),
                              appends := s.async.appends.filter (fun (_, d, _, _) => d != l)
                              colls := s.async.colls.filter (fun (_, c) => !(c.launch == some l && c.done && (s.op? c.op).isNone)) } }
    s.later (.nodeDone v.run v.node)

/-! ## The end of an instance (R63, R65) -/

/-- The instance completes: the word at DONEADDR, DONESIG, INSTANCE_DONE. -/
def State.instanceDone (s : State) (gi : Nat) (g : GraphRun) : State :=
  let bad := g.failed || !g.ended
  let word := (if bad then 1 else 0) + g.cause.toNat * 2 ^ 8
  let w : Who := { ctx := g.ctx, root := g.entry.ptroot.toNat, skein := none, core := 0, launch := none, strand := none }
  let (s, lost) := match s.writeRange w g.doneaddr (leBytes 8 word) with
    | .ok s => (s, false)
    | .error _ => (s, true)
  let s := s.signalWord g.ctx g.entry g.donesig s.devNo 0 g.cause g.parent
  let ev : Ev := { source := src 0 0, type := 0x25, cause := g.cause, parent := g.parent, ctx := g.ctx,
                   payload := g.gbase.toNat % 2 ^ 56 + (if bad then 2 ^ 56 else 0) + (if lost then 2 ^ 64 else 0) }
  let s := if lost then s.emitErr g.ctx { ev with err := true } else s.emit ev
  { s with work := { s.work with runs := kdel s.work.runs gi } }

/-- The instance completes when END has fired and nothing runs, or when nothing runs or is ready (R65). -/
def State.checkInstance (s : State) (gi : Nat) : State :=
  match kget s.work.runs gi with
  | none => s
  | some g => if g.running.isEmpty && (g.ended || g.ready.isEmpty) then s.instanceDone gi g else s

/-! ## Context kill (R401) -/

/-- What a kill records (R431, R457). -/
structure KillInfo where
  source : Nat
  cause  : Word32
  parent : Word32
  tcause : Byte := 0
  detail : Byte := 0
  level  : Nat := 0
  core   : Nat := 0
  slot   : Nat := 0
  tpc    : Word := 0
  tval   : Word := 0
  tmask  : Half := 0
  code   : Half := 0
  deriving DecidableEq, Repr

/-- The two records (R401 step 1, R431). -/
def State.killRecords (s : State) (ctx : Nat) (reason : BitVec 4) (k : KillInfo) : State :=
  let ev (type payload : Nat) : Ev :=
    { source := k.source, type, err := true, cause := k.cause, parent := k.parent, ctx, payload }
  let s := s.emitErr ctx (ev 0xC3 (k.tcause.toNat + k.detail.toNat * 2 ^ 8 + reason.toNat * 2 ^ 16 + k.level * 2 ^ 20 +
    k.core * 2 ^ 24 + k.slot * 2 ^ 32 + k.tpc.toNat % 2 ^ 56 * 2 ^ 40))
  s.emitErr ctx (ev 0xC4 (k.tval.toNat + k.tmask.toNat * 2 ^ 64 + k.code.toNat * 2 ^ 80))

/-- A remote reply still owed to a course (R433). -/
def State.owed (s : State) (c : Course) : Bool :=
  s.async.reqs.any (fun (_, r) => match r.kind with
    | .fld sk p k _ _ _ _ => sk == c.skein && p == c.f2 && k == c.f1 && r.ended.isNone
    | _ => false)

/-- A course of a killed skein stops at once; only remote replies stay owed to it (R401, R433). -/
def State.stopCourse (s : State) (ctx : Nat) (core slot : Nat) (c : Course) : State :=
  let keep := s.owed c
  let s := s.setCourse core slot
    { c with present := 0, fr0 := [], fr1 := [], fr2 := [], exitAt := s.time.gt, stopped := false,
             orphan := some (ctx, s.causeOf c, s.parentOf c),
             strands := if keep then c.strands else c.strands.map (fun x => { x with pending := [] }) }
  { s with async := { s.async with data := s.async.data.filter (fun (_, d) => !(d.core == core && d.slot == slot)) } }

/-- The granules, absent lines and queue places of a skein that is gone. Agents that held it are idle in the next cycle, and the skein now
first in the queue is the head (R81, R88). -/
def State.forgetSkein (s : State) (sk : Nat) : State :=
  let held (a : Nat) : Bool := s.work.agents.any (fun x => x.skein == sk && x.agent == a)
  State.newHead { s with
    cores := kmapVals s.cores (fun _ k => { k with granules := k.granules.filter (fun (_, g) =>
      match g with | .held j => j != sk | .saved j _ _ => j != sk) })
    mem := { s.mem with absent := s.mem.absent.filter (fun (_, a) => a != .restore sk) }
    work := { s.work with
      skeins := kdel s.work.skeins sk
      agentFree := s.work.agentFree.mapIdx (fun a t => if held a then nextCycle s.time.gt else t)
      agents := s.work.agents.filter (fun a => a.skein != sk)
      drains := s.work.drains.filter (fun d => d.skein != sk) } }

/-- Tear down one skein (R401 step 2). -/
def State.tearSkein (s : State) (ctx sk : Nat) : State :=
  let cores := (s.skein? sk).elim [] (·.cores)
  let s := (s.skeinCourses sk).foldl (fun s (k, i, c) => s.stopCourse ctx k i c) s
  let s := (s.skeinPanels sk).foldl (fun s (k, i, _) =>
    let s := s.modEngine k (fun e => { e with waiters := e.waiters.erase i })
    let s := if (s.engine k).owner == some i then
        (s.modEngine k (fun e => { (e.setLive false) with job := none, extract := none })).releaseEngine k
      else s
    { s with panels := kdel s.panels (panelKey k i) }) s
  (s.forgetSkein sk).wakeCastOn cores

/-- Kill a context (R401). -/
def State.kill (s : State) (ctx : Nat) (reason : BitVec 4) (k : KillInfo) : State :=
  let s := s.killRecords ctx reason k
  let cx : Context := { entry := s.ctxEntry ctx, killed := true }
  let s := { s with tables := { s.tables with contexts := kset s.tables.contexts ctx cx } }
  let launches := (s.work.launches.filter (fun (_, v) => v.ctx == ctx)).map (·.1)
  let mine := fun (_ : Nat) (x : Skein) => launches.contains x.launch
  let skeins := (s.work.skeins.filter (fun (i, x) => mine i x)).map (·.1)
  let ops := (s.async.ops.filter (fun (_, o) => o.ctx == ctx)).map (·.1)
  let s := ops.foldl State.endOp s
  let s := skeins.foldl (fun s i => s.tearSkein ctx i) s
  let asy : AsyncState :=
    { s.async with
      faults := s.async.faults.filter (fun (_, p) => p.ctx != ctx)
      appends := s.async.appends.filter (fun (_, d, _, _) => !launches.contains d) }
  let unwait (q : Queue) : Queue := if q.ctx.toNat == ctx then { q with waiting := none } else q
  let s := { s with async := asy, tables := { s.tables with queues := kmapVals s.tables.queues (fun _ q => unwait q) } }
  let s := s.poisonQuota ctx (s.ctxEntry ctx) k.cause k.parent
  let clear (g : GraphRun) : GraphRun := if g.ctx == ctx then { g with ready := [], failed := true } else g
  let s := { s with work := { s.work with runs := kmapVals s.work.runs (fun _ g => clear g) } }
  let s := launches.foldl (fun s l => s.finishLaunch l 0x12 0) s
  let s := { s with async := { s.async with colls := s.async.colls.filter (fun (_, c) => c.ctx != ctx) } }
  let runs := s.work.runs.filter (fun (_, g) => g.ctx == ctx)
  runs.foldl (fun s (gi, g) =>
    let late := g.running.filter (fun n => n.status.isNone)
    let end_ (n : NodeRun) : NodeRun := if n.status.isNone then { n with status := some 0x12 } else n
    let s := { s with work := { s.work with runs := kmod s.work.runs gi (fun g => { g with running := g.running.map end_ }) } }
    let s := late.foldl (fun s n => s.later (.nodeDone gi n.node)) s
    s.checkInstance gi) s

end Sys2Proof.Machine
end

