-- ==== Sys2Proof/Machine/Ops.lean ====
section
/-! DEFINITION. Taking a trap, returning from one, parking, and debug stops (R395 to R400, R415 to R420, R455, R456, R458). -/
namespace Sys2Proof.Machine

/-! ## Events of a course -/

/-- An event of a course's partition with its current cause (R67, R431). -/
def State.courseEv (s : State) (core slot : Nat) (c : Course) (type payload : Nat) : Ev :=
  { source := partSrc core slot, type, cause := s.causeOf c, parent := s.parentOf c, ctx := s.skeinCtx c.skein, payload }

/-- An event of a course's partition with its skein's cause (R156). -/
def State.partEv (s : State) (core slot : Nat) (c : Course) (type payload : Nat) : Ev :=
  { source := partSrc core slot, type, cause := s.skeinCause c.skein, parent := s.skeinParent c.skein, ctx := s.skeinCtx c.skein, payload }

/-- The tables and address spaces a course uses. -/
def State.courseWho (s : State) (core : Nat) (c : Course) : Who := s.skeinWho c.skein core none

/-- The launch of a course. -/
def State.launchOf (s : State) (c : Course) : Option Launch := (s.skein? c.skein).bind (fun k => s.launch? k.launch)
def State.launchId (s : State) (c : Course) : Option Nat := (s.skein? c.skein).map (·.launch)

/-- A strand access of one lane: the launch strand whose local area it uses (R43, R238). -/
def State.strandWho (s : State) (core : Nat) (pslot : Nat) (c : Course) (lane : Nat) : Who :=
  let n := match s.skein? c.skein, s.launchOf c, s.panel? core pslot with
    | some k, some l, some p => some (strandIndex l.hdr k.index p.f2 c.f1 lane)
    | _, _, _ => none
  s.skeinWho c.skein core n

/-! ## Uncorrectable errors (R251, R412) -/

/-- An uncorrectable error met at a home: a life count and MEM_UE, or SRAM_UE for a scratchpad. -/
def State.memUe (s : State) (l : Loc) (core : Nat) (cause parent : Word32) (ctx : Nat) : State :=
  let s := s.life 4
  match l.store with
  | .hbm => s.emit { source := src 9 (bitsOf l.addr 23 16), type := 0x62, cause, parent, ctx, payload := l.addr }
  | .lpddr => s.emit { source := src 9 0x100, type := 0x62, cause, parent, ctx, payload := l.addr + 2 ^ 52 }
  | .host => s.emit { source := src 9 0x100, type := 0x62, cause, parent, ctx, payload := l.addr + 2 * 2 ^ 52 }
  | .die => s.emit { source := src 2 (core * 16), type := 0xCA, err := true, cause, parent, ctx, payload := 2 + 0xFF * 2 ^ 8 }
  | .unit => s.emit { source := src 2 (core * 16), type := 0xCA, err := true, cause, parent, ctx,
                      payload := 2 + l.addr / 2 ^ 21 * 2 ^ 8 }

/-! ## Stall reasons (R155, R454) -/

/-- A course issued on this clock. -/
def State.issuedNow (s : State) (core slot : Nat) : Bool :=
  match s.dbg.issued with
  | some (k, t) => k == courseKey core slot && decide (s.time.gt < t + s.clockGt)
  | none => false

/-- The register that a load parked on an absent line or on a tile's log order keeps pending (R142, R252, R258). -/
def State.parkedDst (s : State) (core : Nat) (c : Course) (e : Entry) : Option Reg :=
  if e.wait == .again .absentLine || e.wait == .again .tileLog then
    match (s.icFind core (s.skeinCtx c.skein) (pcLine e.pc)).map (slotCheck false · e.pc) with
    | some (.ok (.ld f)) | some (.ok (.tget f)) => some f.dst
    | _ => none
  else none

/-- A register that an instruction reads or writes is pending: one on whose datum the course waits, or, held per course, one that a parked
load of another entry will write. A strand's own registers are its own entry's. -/
def State.scoreboard (s : State) (core : Nat) (c : Course) (E : Entry) (i : Instr) : Bool :=
  s.pendingFor core c E i ||
    c.front.any (fun e => e.mask != E.mask && (match s.parkedDst core c e, i.form false with
      | some r, some f => Reg.shared r && (formSources f true).contains r
      | _, _ => false))

/-- What keeps an entry that waits for nothing from issuing: its line is not in the cache, a register it needs is pending, or another
candidate has been granted. -/
def State.stallEntry (s : State) (core : Nat) (c : Course) (e : Entry) : Nat :=
  match s.icFind core (s.skeinCtx c.skein) (pcLine e.pc) with
  | none => 4
  | some x => match slotCheck false x e.pc with
    | .ok i => if s.scoreboard core c e i then 0x0A else 0x0B
    | .error _ => 0x0B

/-- The stall reason of a course (R155): the first that applies, by its head entry; a course parked on a fault or on remote replies says
so, as does one that yields. -/
def State.stall (s : State) (core slot : Nat) (c : Course) : Nat :=
  if s.issuedNow core slot then 0
  else if c.stopped then 1
  else if c.front.any (fun e => e.wait == .again .fault) then 2
  else if c.front.any (fun e => e.wait == .remote) then 8
  else match c.front with
  | [] => 0x0B
  | e :: _ =>
    match e.wait with
    | .barrier _ _ _ => 5
    | .rtt => 2
    | .remote => 8
    | .again .absentLine | .again .tileLog => 7
    | .again (.counter _) | .recheck _ => 6
    | .again .cwt | .again .lockFull | .again .fence | .again .icinv => 9
    | .again .fault | .again .parked => 2
    | .none | .retry => if 0 < c.yielding then 0x0B else s.stallEntry core c e

/-- Bit 17 of a stop record (R454). -/
def Course.heldAtStop (c : Course) : Bool :=
  match c.front with
  | [] => false
  | e :: _ => match e.wait with
    | .none | .retry | .rtt | .again .lockFull => false
    | _ => true

def Course.headPc (c : Course) : Word := match c.front with | [] => 0 | e :: _ => e.pc

/-! ## Snapshots (R420) -/

/-- What a partition latches: per course slot the head PC [23:0] and, above it, the stall reason. -/
def State.partState (s : State) (core part : Nat) : BitVec 256 :=
  BitVec.ofNat 256 (leNat ((List.range 4).flatMap (fun i =>
    match s.course? core (part * 4 + i) with
    | some c => leBytes 3 c.headPc.toNat ++ leBytes 5 (s.stall core (part * 4 + i) c)
    | none => leBytes 8 0)))

/-- The deadline of an operation that the copy and collective engines carry, 0 when it has none (R388). -/
def State.opDeadline (s : State) (o : Op) : Nat :=
  match o.kind with
  | .copy _ _ _ d => d.toNat
  | .coll cause => (kget s.async.colls cause.toNat).elim 0 (·.deadline.toNat)
  | .entry b _ => bitsOf b.toNat 447 384
  | _ => 0

/-- What an engine latches of the operations it carries: how many, and the cause and the deadline of the first. -/
def State.engineState (s : State) (l : List Op) : BitVec 256 :=
  let o := l.head?
  Config.packEngine l.length (o.elim 0 (·.cause.toNat)) (o.elim 0 s.opDeadline)

/-- Operations of the collective engines; the others but the product engines' are the copy engines'. -/
def Op.collective (o : Op) : Bool := match o.kind with | .coll _ => true | _ => false
def Op.copying (o : Op) : Bool := match o.kind with | .coll _ => false | .job _ => false | _ => true

/-- The copy engines: the first, and those that carry an operation now. -/
def State.copyBlocks (s : State) : List (Nat × BitVec 256) :=
  let mine := s.async.ops.filter (fun (_, o) => o.copying)
  ((0 :: mine.map (fun (i, _) => (Config.copyEngine i).toNat)).eraseDups).map (fun n =>
    (src 3 n, s.engineState ((mine.filter (fun (i, _) => (Config.copyEngine i).toNat == n)).map (·.2))))

/-- What the sync engine latches: the barriers, by a number of their own in each unit, at which entries wait, and the counters that
instructions wait for. -/
def State.syncState (s : State) : BitVec 256 :=
  let waits := s.courses.flatMap (fun (_, c) => c.front.map (·.wait))
  Config.packSync (waits.filterMap (fun w => match w with | .barrier level n _ => some (level * 16 + n) | _ => none))
    (waits.filterMap (fun w => match w with | .again (.counter n) => some n | _ => none))

/-- What a fabric port latches: how many packets are in its queue, and the marks it has set (R374). -/
def State.portState (s : State) (port : Nat) : BitVec 256 :=
  let mine := s.async.outbox.filter (fun p => s.portOf (if p.rly && p.relay.toNat != s.devNo then p.relay.toNat else p.dst.toNat) == port)
  Config.packPort (Config.portQueued mine.length) (mine.filter (·.mark)).length

/-- A pull of the trigger: every block latches a record of type SNAPSHOT and its state; a pull within 16,000 gt of the previous one
is ignored. -/
def State.pullTrigger (s : State) (tag : Half) (source : Nat) : State :=
  let recent : Bool := match s.dbg.pulled with | some t => decide (s.time.gt < t + 16000) | none => false
  if recent then s else
  let rcd (src : Nat) : Record := recordOf s.stamp src 0xC9 (if s.unsyncNow then 8 else 0) 0 0 0xFFFF (tag.toNat + source * 2 ^ 16)
  let parts := (List.range 1280).map (fun i => (rcd (src 2 (i / 8 * 16 + i % 8)), s.partState (i / 8) (i % 8)))
  let others := s.copyBlocks ++ [(src 5 0, s.engineState ((s.async.ops.filter (fun (_, o) => o.collective)).map (·.2))), (src 4 0, s.syncState)] ++
    (List.range 15).map (fun p => (src 6 p, s.portState p))
  { s with dbg := { s.dbg with pulled := some s.time.gt, snapshots := parts ++ others.map (fun (x, b) => (rcd x, b)) } }

/-! ## Debug stops (R416, R453) -/

/-- A panel of a skein is being stepped. -/
def State.stepsSkein (s : State) (sk : Nat) : Bool :=
  match s.dbg.stepping with
  | some (core, i, _) => (s.panel? core i).elim false (fun p => p.skein == sk)
  | none => false

/-- A hit stops a skein: courses with their stop records, sequencers, jobs; DEBUG_STOP once. `hit` is the hitting course. -/
def State.debugStop (s : State) (sk : Nat) (h : StopHit) (hit : Option (Nat × Nat)) : State :=
  match s.skein? sk with
  | none => s
  | some k =>
    if k.stopped && !s.stepsSkein sk then s else
    let s := (s.skeinCourses sk).foldl (fun s (core, slot, c) =>
      let rec_ := (if hit == some (core, slot) then 2 ^ 16 else 0) + (if c.started && c.heldAtStop then 2 ^ 17 else 0)
      s.setCourse core slot { c with stopped := true, stopRec := BitVec.ofNat 64 rec_ }) s
    let s := (s.skeinPanels sk).foldl (fun s (core, i, p) =>
      let s := s.setPanel core i { p with stopped := true }
      if (s.engine core).owner == some i then s.stopEngine core 4 else s) s
    let s := s.modSkein sk (fun k => { k with stopped := true })
    let s := { s with dbg := { s.dbg with stepping := none } }
    let s := s.emit { source := src 1 0, type := 0xC7, cause := k.cause, parent := k.parent, ctx := s.skeinCtx sk,
                      payload := h.reason.toNat + h.core.toNat * 2 ^ 8 + h.slot.toNat * 2 ^ 16 + h.pc.toNat * 2 ^ 32 }
    s.pullTrigger 0 3

/-! ## The trap table (R395) -/

structure TrapTable where
  h1      : Word
  h2      : Word
  take    : Word32
  hprio1  : Half
  hprio2  : Half
  rnotify : Bool
  slotLen : Nat
  base    : Word
  count   : Nat
  deriving DecidableEq, Repr

/-- The context's trap table, read whole; none when there is none or it is unusable. -/
def State.trapTable (s : State) (w : Who) : Option TrapTable :=
  let a := (s.ctxEntry w.ctx).trapvec
  if a == 0 || a.toNat % 64 != 0 || spaceOf a != 0 then none else
  match s.readRange w a 64 with
  | .error _ => none
  | .ok b =>
    let f (off n : Nat) : Nat := leNat ((b.drop off).take n)
    if f 0x2C 20 != 0 || f 0x18 4 / 2 != 0 then none
    else some { h1 := BitVec.ofNat 64 (f 0 8), h2 := BitVec.ofNat 64 (f 8 8), take := BitVec.ofNat 32 (f 0x10 4),
                hprio1 := BitVec.ofNat 16 (f 0x14 2), hprio2 := BitVec.ofNat 16 (f 0x16 2), rnotify := f 0x18 4 == 1,
                slotLen := f 0x1C 4, base := BitVec.ofNat 64 (f 0x20 8), count := f 0x28 4 }

/-! ## Trap entry (R398, R399, R455) -/

/-- A trap ready to be taken: its cause and value, the strands, the PC and priority of the trapping entry, and whether it came from
the matrix stream or otherwise not from the instruction at its PC. -/
structure TrapReq where
  t     : Trp
  mask  : BitVec 16
  pc    : Word
  prio  : Half
  strm  : Bool := false
  async : Bool := false
  deriving DecidableEq, Repr

/-- TRAP_ENTER, TRAP_RETURN and TRAP_PARKED (R431). -/
def trapPayload (cause detail : Byte) (level core slot : Nat) (tpc : Word) : Nat :=
  cause.toNat + detail.toNat * 2 ^ 8 + level * 2 ^ 16 + slot * 2 ^ 18 + core * 2 ^ 24 + tpc.toNat * 2 ^ 32

/-- HOST_FAULT and FAULT_RETRY (R251). -/
def faultEv (p : Parked) (type : Nat) : Ev :=
  { source := src 7 (p.core.toNat / 40), type, priv := true, err := true, cause := p.cause, parent := p.parent, ctx := p.ctx,
    payload := p.addr.toNat + p.detail.toNat * 2 ^ 64 + p.core.toNat * 2 ^ 72 + p.slot.toNat * 2 ^ 80 + p.issuer.toNat * 2 ^ 88 }

/-- Put a fault on the host fault queue, or note that the retry of one already there has failed again (R250). -/
def State.hostFault (s : State) (p : Parked) : State :=
  match kfind s.async.faults (fun _ q => q.who == p.who) with
  | some (i, q) =>
    { s with async := { s.async with faults := kset s.async.faults i { q with lines := p.lines, tried := s.time.gt, due := false, again := false } } }
  | none =>
    let (i, s) := s.newId
    let s := s.emitErr 0 (faultEv p 0x60)
    { s with async := { s.async with faults := kset s.async.faults i p } }

/-- The fault is over: FAULT_RETRY, and its record goes. -/
def State.faultOver (s : State) (who : FaultWho) : State :=
  match kfind s.async.faults (fun _ q => q.who == who) with
  | some (i, q) =>
    let s := s.emit (faultEv q 0x61)
    { s with async := { s.async with faults := kdel s.async.faults i } }
  | none => s

/-- Set the wait of an entry of the current level. -/
def Course.setWait (c : Course) (E : Entry) (w : Wait) : Course :=
  c.setFront (sortEntries ({ E with wait := w } :: c.front.erase E))

/-- The kill of a trap that cannot be taken (R457). -/
def State.trapKill (s : State) (core slot : Nat) (c : Course) (r : TrapReq) (reason : BitVec 4) : State :=
  s.kill (s.skeinCtx c.skein) reason
    { source := partSrc core slot, cause := s.causeOf c, parent := s.parentOf c, tcause := r.t.cause, detail := r.t.detail,
      level := c.level.val, core, slot, tpc := r.pc, tval := r.t.tval, tmask := r.mask }

/-- A trap not taken at TL1 (R399): an XLATE goes to the host fault queue and holds the course (R250); any other cause writes
TRAP_PARKED and holds the entry. `E` is the trapping entry, none for a stream trap; a PREEMPT, which no entry raises, parks the head. -/
def State.park (s : State) (core slot : Nat) (c : Course) (E : Option Entry) (r : TrapReq) : State :=
  let E := if r.t.cause == Cause.preempt then c.front.head? else E
  if r.t.cause == Cause.xlate then
    let who := if r.strm then FaultWho.stream core c.pslot else .course core slot r.pc
    let s := match E with
      | some E => s.setCourse core slot (c.setWait E (.again .fault))
      | none => s
    s.hostFault { who, ctx := s.skeinCtx c.skein, cause := s.skeinCause c.skein, parent := s.skeinParent c.skein, addr := r.t.tval,
                  detail := r.t.detail, core := BitVec.ofNat 8 core,
                  slot := if r.strm then 0x1F else BitVec.ofNat 5 slot, issuer := 0, lines := r.t.lines, tried := s.time.gt,
                  due := false, again := false }
  else
    let s := match E with
      | some E => s.setCourse core slot (c.setWait E (.again .parked))
      | none => s
    let ev := s.courseEv core slot c 0xC2 (trapPayload r.t.cause r.t.detail 1 core slot r.pc)
    s.emitErr 0 { ev with priv := true, err := true }

/-- TCAUSE (R396). -/
def tcauseOf (r : TrapReq) (from_ : Nat) : Word :=
  BitVec.ofNat 64 (r.t.cause.toNat + r.t.detail.toNat * 2 ^ 8 + from_ * 2 ^ 16 + (if r.strm then 2 ^ 18 else 0) +
    (if r.async then 2 ^ 19 else 0))

/-- Take a trap (R398). `E` is the trapping entry, which stays in its frontier and no longer waits. -/
def State.takeTrap (s : State) (core slot : Nat) (E : Option Entry) (r : TrapReq) : State :=
  match s.course? core slot with
  | none => s
  | some c =>
    let s := match r.t.ue with
      | some l =>
        if l.store == Store.die || l.store == Store.unit then s.memUe l core (s.causeOf c) (s.parentOf c) (s.skeinCtx c.skein)
        else s.memUe l core (s.skeinCause c.skein) (s.skeinParent c.skein) (s.skeinCtx c.skein)
      | none => s
    let L0 := c.level.val
    if L0 == 2 then s.trapKill core slot c r 1 else
    let w := s.courseWho core c
    let tab := s.trapTable w
    let h : Word := match tab with
      | none => 0
      | some T => if L0 == 0 then (if T.take.getLsbD r.t.cause.toNat then T.h1 else 0) else T.h2
    if h == 0 then
      if L0 == 0 then s.park core slot c E r else s.trapKill core slot c r 1
    else
      match s.checkTarget core w true h with
      | (s, some _) => s.trapKill core slot c r 4
      | (s, none) =>
        let bank : TrapBank :=
          { tcause := tcauseOf r L0, tpc := r.pc, tval := r.t.tval, tmask := r.mask.setWidth 64, tprio := r.prio.setWidth 64 }
        let prio := match tab with
          | some T => if L0 == 0 then T.hprio1 else T.hprio2
          | none => 0
        let c := match E with
          | some E => c.setWait E .none
          | none => c
        let ev := s.courseEv core slot c 0xC0 (trapPayload r.t.cause r.t.detail (L0 + 1) core slot r.pc)
        let entry := Entry.fresh h prio r.mask false
        let c := if L0 == 0 then { c with tl1 := bank, fr1 := [entry], level := 1, staged := 0 }
          else { c with tl2 := bank, fr2 := [entry], level := 2, staged := 0 }
        (s.setCourse core slot c).emit { ev with priv := true }

/-! ## Stream traps (R320) -/

/-- A stream instruction traps: RUN 0x2, STREAM_TRAP, and the trap at TL1 of the panel's lowest course that has strands. -/
def State.streamTrap (s : State) (core pslot : Nat) (t : Trp) : State :=
  match s.panel? core pslot with
  | none => s
  | some p =>
    let again := s.async.faults.any (fun (_, q) => q.who == .stream core pslot)
    let s := s.setPanel core pslot { p with run := 2, swait := .none }
    let ev := s.panelEv core pslot (seqSrc core) 0x87 (p.spc.toNat + t.cause.toNat * 2 ^ 64)
    let s := if again then s else s.emit { ev with err := true }
    let live := (s.panelCourses core pslot).filter (fun (_, _, c) => c.present != 0)
    match live.find? (fun (_, _, c) => live.all (fun (_, _, d) => c.f1 ≤ d.f1)) with
    | none => s.kill (s.skeinCtx p.skein) 7
        { source := seqSrc core, cause := s.skeinCause p.skein, parent := s.skeinParent p.skein, tcause := t.cause, detail := t.detail, core,
          slot := 0x1F, tpc := p.spc, tval := t.tval }
    | some (_, slot, c) =>
      s.takeTrap core slot none
        { t, mask := c.present, pc := p.spc, prio := (c.front.head?).elim 0 (·.prio), strm := true, async := true }

/-! ## Return (R400, R456) -/

def Course.bank (c : Course) : TrapBank := if c.level.val == 2 then c.tl2 else c.tl1
/-- TCAUSE bits ASYNC, STRM and SEXIT. -/
def TrapBank.async (b : TrapBank) : Bool := b.tcause.getLsbD 19
def TrapBank.strm (b : TrapBank) : Bool := b.tcause.getLsbD 18
def TrapBank.sexit (b : TrapBank) : Bool := b.tcause.getLsbD 20

/-- The strands still present at the current level. -/
def Course.levelMask (c : Course) : BitVec 16 := c.front.foldl (fun m e => m ||| e.mask) 0

/-- Move returning strands out of their held entries to (TPRIO, TPC), under R144. -/
def moveReturning (l : List Entry) (ret : BitVec 16) (pc : Word) (prio : Half) : List Entry :=
  (l.filter (fun e => e.mask &&& ret != 0)).foldl (fun l e =>
    updateFrontier l e ((lanesOf e.mask).map (fun i =>
      if ret.getLsbD i then (i, pc, prio) else (i, e.pc, e.prio))) []) l

/-- The level pops: the frontier is emptied, the level falls, and `ret` says which strands move. A stream trap's return sets the
sequencer's PC and RUN, or ends the sequencer. -/
def State.popLevel (s : State) (core slot : Nat) (ret : BitVec 16) : State :=
  match s.course? core slot with
  | none => s
  | some c =>
    let b := c.bank
    let low := c.level.val - 1
    let c1 := { c.setFront [] with level := if low == 0 then 0 else 1, staged := 0, stepFree := true }
    let c1 := if b.async then c1 else c1.setFront (moveReturning c1.front ret b.tpc (b.tprio.setWidth 16))
    let c1 := { c1 with passAt := some c1.headPc, resumed := false }
    let s := s.setCourse core slot c1
    let s := if b.strm then
        s.modPanel core c.pslot (fun p =>
          if b.sexit then { p with run := 0, swait := .none, ending := true }
          else { p with run := 0, swait := .none, spc := b.tpc })
      else s
    let ev := s.courseEv core slot c 0xC1
      (trapPayload (b.tcause.setWidth 8) ((b.tcause >>> 8).setWidth 8) low core slot b.tpc)
    s.emit { ev with priv := true }

/-! ## How the failures of strands combine (R458) -/

/-- Any trap wins over a hold; the lowest failing strand decides. -/
def combineStops (l : List (Nat × Stop)) : Option (Stop × BitVec 16) :=
  let traps := l.filterMap (fun (i, e) => match e with | .trap t => some (i, t) | .hold _ => none)
  match traps with
  | (_, t) :: _ => some (.trap t, maskOf ((traps.filter (fun (_, u) => u.cause == t.cause && u.detail == t.detail)).map (·.1)))
  | [] => match l with
    | (_, e) :: _ => some (e, maskOf (l.map (·.1)))
    | [] => none

end Sys2Proof.Machine
end

