-- ==== Sys2Proof/Machine/Operands.lean ====
section
/-! DEFINITION. How an instruction of a course or a stream runs: executing strands, uniform issue and its checks, register operands
and results, and the completion of an instruction (R105, R138 to R147, R157, R205, R249, R456). -/
namespace Sys2Proof.Machine

/-! ## The issuing entry -/

/-- The instruction's issuer: course, head entry, executing strands in ascending order, whether it issues uniformly. -/
structure Iss where
  core   : Nat
  slot   : Nat
  c      : Course
  E      : Entry
  w      : Who
  lanes  : List Nat
  uni    : Bool
  leader : Nat

/-- The strands an instruction runs for: the leader alone when it is uniform. -/
def Iss.runs (I : Iss) : List Nat := if I.uni then [I.leader] else I.lanes

/-- The strands of an entry whose guard holds (R105). -/
def guardLanes (c : Course) (E : Entry) (g : Guard) : List Nat :=
  (lanesOf E.mask).filter (fun i => (c.st i).pred g.pred.val != g.neg)

/-- The whole value of a register of one strand, for the comparison of R141. -/
def Course.whole (c : Course) (lane : Nat) (r : Reg) : VReg :=
  match r with
  | .v i => (c.st lane).vreg i.val
  | r => { bits := (c.read lane r).setWidth 512, tag := 0, exps := 0 }

/-- The check of R141 on some source registers, in operand order. -/
def Iss.differs (I : Iss) (l : List Reg) : Option (Stop × BitVec 16) :=
  (l.map (fun r =>
    let bad := I.lanes.filter (fun i => I.c.whole i r != I.c.whole I.leader r)
    if bad.isEmpty then none else
      some (Trp.stop Cause.uniform 0 ((I.c.whole I.leader r).bits.setWidth 64), maskOf bad))).findSome? id

/-! ## Completion -/

/-- A watched access (R417). -/
structure WatchHit where
  skein : Nat
  core  : Nat
  num   : Nat
  addr  : Word
  kind  : Nat
  lane  : Nat
  deriving DecidableEq, Repr

/-- The effect of an instruction: the new state, and what becomes of the issuing entry; `popped`: its level has gone (R400). -/
structure Eff where
  s       : State
  jumps   : List (Nat × Word × Half) := []
  leave   : List Nat := []
  folds   : List Word := []
  visible : Bool := false
  back    : Bool := false
  wait    : Option Wait := none
  arrive  : Option (Nat × Nat) := none
  hits    : List WatchHit := []
  popped  : Bool := false

/-- Strands leave the course for good: every frontier entry, `present`, the barriers (R144, R343), and the level when it empties
(R400). -/
def State.strandsLeave (s : State) (core slot : Nat) (lanes : List Nat) : State :=
  match s.course? core slot with
  | none => s
  | some c =>
    let m := maskOf lanes
    let out (l : List Entry) : List Entry := (l.map (fun e => { e with mask := e.mask &&& ~~~m })).filter (fun e => e.mask != 0)
    let left := c.present &&& ~~~m
    let c1 := { c with present := left, fr0 := out c.fr0, fr1 := out c.fr1, fr2 := out c.fr2,
                       exitAt := if left == 0 then s.time.gt else c.exitAt }
    let cause := s.causeOf c
    let parent := s.parentOf c
    let s := s.setCourse core slot c1
    let s := if c1.level.val == 2 && c1.fr2.isEmpty then s.popLevel core slot 0 else s
    let s := match s.course? core slot with
      | some c2 => if c2.level.val == 1 && c2.fr1.isEmpty then s.popLevel core slot 0 else s
      | none => s
    s.strandsDepart core slot lanes cause parent

/-- The frontier after the instruction (R144, R146, R147). -/
def Course.advance (c : Course) (E : Entry) (e : Eff) : Course :=
  let rest := c.front.erase E
  let rest := if e.visible then rest.map (fun x => { x with demoted := false }) else rest
  let E1 := { E with spinAcc := e.folds.foldl foldSpin E.spinAcc, spinA := E.spinA || e.visible,
                     demoted := E.demoted && !e.visible, wait := .none }
  let E1 := if e.back then spinStep E1 else E1
  match e.wait with
  | some w => c.setFront (sortEntries ({ E1 with wait := w } :: rest))
  | none =>
    let nexts := (lanesOf E.mask).map (fun i => match e.jumps.find? (fun (j, _, _) => j == i) with
      | some x => x
      | none => (i, pcNext E.pc, E.prio))
    c.setFront (updateFrontier (E1 :: rest) E1 nexts (e.jumps.map (·.1)))

/-- Watch hits after the access: WATCH_HIT for each, a stop of an attached skein, or WATCH in the strands of the watchpoint's own
skein (R415, R417, R453), whose TVAL no rule states (log 3). -/
def State.afterHits (s : State) (I : Iss) (hits : List WatchHit) : State :=
  let s := hits.foldl (fun s h =>
    let ev := s.courseEv I.core I.slot I.c 0xC8
      (h.addr.toNat + h.num * 2 ^ 64 + h.kind * 2 ^ 66 + I.core * 2 ^ 71 + I.slot * 2 ^ 79 + 2 * 2 ^ 84)
    s.emit { ev with priv := true }) s
  let s := hits.foldl (fun s h =>
    if (s.skein? h.skein).elim false (·.attached) then
      s.debugStop h.skein { reason := 3, core := BitVec.ofNat 8 I.core, slot := BitVec.ofNat 5 I.slot, pc := I.E.pc }
        (some (I.core, I.slot))
    else s) s
  match hits.filter (fun h => h.skein == I.c.skein && !(s.skein? h.skein).elim false (·.attached)) with
  | [] => s
  | h :: t =>
    let lanes := ((h :: t).filter (fun x => x.num == h.num)).map (·.lane)
    let E := (s.course? I.core I.slot).bind (fun c => c.front.find? (fun x => x.mask &&& maskOf lanes != 0))
    let (v, s) := s.freshWord
    s.takeTrap I.core I.slot E
      { t := { cause := Cause.watch, detail := BitVec.ofNat 8 h.num, tval := v }, mask := maskOf lanes, pc := pcNext I.E.pc,
        prio := I.E.prio }

/-- An instruction completes, or its entry waits. Strands that leave do so at once, before the others are placed (R144). -/
def State.complete (I : Iss) (e : Eff) : State :=
  let s := if e.s.async.faults.isEmpty then e.s else e.s.faultOver (.course I.core I.slot I.E.pc)
  match s.course? I.core I.slot with
  | none => s
  | some c =>
    if c.orphan.isSome then s else
    let cause := s.causeOf I.c
    let parent := s.parentOf I.c
    let s := if e.popped then s
      else if e.leave.isEmpty then s.setCourse I.core I.slot (c.advance I.E e)
      else
        let E := { I.E with mask := I.E.mask &&& ~~~maskOf e.leave }
        let s := s.strandsLeave I.core I.slot e.leave
        if E.mask == 0 then s else s.modCourse I.core I.slot (fun c => c.advance E e)
    let s := match e.arrive with
      | some (level, n) => s.evalAt I.core I.slot level n cause parent
      | none => s
    if e.hits.isEmpty then s else s.afterHits I e.hits

/-- An instruction does not take effect: its entry traps or is held. -/
def State.failed (s : State) (I : Iss) (e : Stop) (mask : BitVec 16) : State :=
  match e with
  | .hold h => s.setCourse I.core I.slot (((s.course? I.core I.slot).getD I.c).setWait I.E (.again h))
  | .trap t =>
    let s := s.takeTrap I.core I.slot (some I.E) { t, mask, pc := I.E.pc, prio := I.E.prio }
    let held := match s.course? I.core I.slot with
      | some c => c.fr0.any (fun x => x.wait == Wait.again .fault)
      | none => false
    if held then s else
      { s with async := { s.async with faults := s.async.faults.filter (fun (_, p) => p.who != FaultWho.course I.core I.slot I.E.pc) } }

/-! ## Running an instruction of a course -/

/-- What a meaning answers: a state for the failing case (the instruction cache may have been filled), and the effect or the
failure with its strands. -/
abbrev Ran := State × Except (Stop × BitVec 16) Eff

/-- Run a course's instruction: guard, the checks of R141 on sources, then the body. No executing strand: nothing happens. This issue
uses up the one-time passes of R414 and R419. -/
def runCourse (s : State) (i : Instr) (rmw : Bool) (req : List Reg) (body : Iss → State → Ran) :
    Host.Outcome State Fault Refusal :=
  match s.focus with
  | .course core slot =>
    match s.course? core slot, i.form false with
    | some c, some f =>
      match headEntry c.front with
      | none => .next s
      | some E =>
        let lanes := guardLanes c E f.c.guard
        let s := if c.passAt.isSome || c.stepFree || c.resumed then s.setCourse core slot { c with passAt := none, stepFree := false, resumed := false } else s
        let I : Iss := { core, slot, c, E, w := s.courseWho core c, lanes, uni := formUniform f rmw, leader := lanes.headD 0 }
        if lanes.isEmpty then .next (State.complete I { s }) else
        match I.differs ((if f.c.u then formSources f rmw else []) ++ req) with
        | some (e, m) => .next (s.failed I e m)
        | none => match body I s with
          | (_, .ok e) => .next (State.complete I e)
          | (s, .error (e, m)) => .next (s.failed I e m)
    | _, _ => .fault .noIssuer
  | _ => .fault .noIssuer

/-- Run a per-strand function over the executing strands and combine failures by R458; a uniform failure is every strand's. -/
def Iss.each {α : Type} (I : Iss) (f : Nat → Except Stop α) : Except (Stop × BitVec 16) (List (Nat × α)) :=
  let rs := I.runs.map (fun i => (i, f i))
  match combineStops (rs.filterMap (fun (i, r) => match r with | .error e => some (i, e) | .ok _ => none)) with
  | some (e, m) => .error (e, if I.uni then maskOf I.lanes else m)
  | none => .ok (rs.filterMap (fun (i, r) => match r with | .ok a => some (i, a) | .error _ => none))

/-! ## Register results -/

/-- How an instruction reads its operands: scalars and whole vector registers. -/
structure Rd where
  get : Reg → Word
  vec : Reg → VReg

/-- What one strand writes: registers, FPSTAT flags and statistics counters (keyed 3t + k). -/
structure Res where
  writes : List (Reg × VReg) := []
  flags  : Flags := 0
  counts : List Nat := []

def VReg.ofWord (w : Word) : VReg := { bits := w.setWidth 512, tag := 0, exps := 0 }
/-- One scalar result. -/
def Res.word (r : Reg) (v : Word) : Res := { writes := [(r, VReg.ofWord v)] }

def Course.rd (c : Course) (lane : Nat) : Rd :=
  { get := c.read lane, vec := fun r => match r with | .v i => (c.st lane).vreg i.val | _ => VReg.zero }

/-- Write a register of one strand. -/
def Course.writeAny (c : Course) (lane : Nat) (r : Reg) (v : VReg) : Course :=
  match r with
  | .v i => c.modSt lane (·.setV i.val v)
  | r => c.write lane r (v.bits.setWidth 64)

def Course.apply (c : Course) (lane : Nat) (x : Res) : Course :=
  let c := x.writes.foldl (fun c (r, v) => c.writeAny lane r v) c
  if x.flags == 0 then c else c.modSt lane (fun y => { y with fpstat := y.fpstat ||| x.flags })

/-- Count statistics of a launch (R205). -/
def State.countStats (s : State) (l : Option Nat) (keys : List Nat) : State :=
  match l with
  | none => s
  | some l => if keys.isEmpty then s else
    s.modLaunch l (fun v => { v with stats := keys.foldl (fun m k => kset m k (satInc32 ((kget m k).getD 0))) v.stats })

/-- A register held per course or panel gets one value from every strand (R140, R141). -/
def sharedDiffer (rs : List (Nat × Res)) : Option (Stop × BitVec 16) :=
  match rs with
  | [] => none
  | (_, x) :: _ =>
    x.writes.findSome? (fun (r, v) =>
      if !Reg.shared r then none else
      let bad := (rs.filter (fun (_, y) => y.writes.any (fun (q, u) => q == r && u != v))).map (·.1)
      if bad.isEmpty then none else some (Trp.stop Cause.uniform 0 (v.bits.setWidth 64), maskOf bad))

/-- Apply the results of the strands: a uniform result goes to every executing strand; counts are made once. -/
def Iss.store (I : Iss) (s : State) (rs : List (Nat × Res)) : Except (Stop × BitVec 16) State :=
  match if I.uni then none else sharedDiffer rs with
  | some e => .error e
  | none =>
    let s := s.modCourse I.core I.slot (fun c =>
      if I.uni then match rs with
        | (_, x) :: _ => I.lanes.foldl (fun c i => c.apply i x) c
        | [] => c
      else rs.foldl (fun c (i, x) => c.apply i x) c)
    .ok (s.countStats (s.launchId I.c) (rs.flatMap (fun (_, x) => x.counts)))

/-- The values the sources of an instruction add to the spin fold (R146): operand by operand, ascending strand. -/
def Iss.foldVals (I : Iss) (srcs : List (Reg ⊕ Word)) : List Word :=
  srcs.flatMap (fun x => I.lanes.flatMap (fun i => match x with
    | .inr w => [w]
    | .inl (.v j) => (List.range 8).map (fun k => ((I.c.st i).vreg j.val).bits.extractLsb' (64 * k) 64)
    | .inl r => [I.c.read i r]))

/-- An instruction that reads registers and writes registers, strand by strand; ILLEGAL holds every strand of the entry (R116). -/
def runLanes (s : State) (i : Instr) (rmw : Bool) (folds : List (Reg ⊕ Word)) (f : Nat → Rd → Except Stop Res)
    (extra : List Reg := []) : Host.Outcome State Fault Refusal :=
  runCourse s i rmw extra (fun I s =>
    (s, match I.each (fun lane => f lane (I.c.rd lane)) with
      | .error (.trap t, m) => .error (.trap t, if t.cause == Cause.illegal then I.E.mask else m)
      | .error e => .error e
      | .ok rs => match I.store s rs with
        | .error e => .error e
        | .ok s => .ok { s, folds := I.foldVals folds }))

/-- The same where every strand does one thing with its own registers. -/
def runReg (s : State) (i : Instr) (rmw : Bool) (folds : List (Reg ⊕ Word)) (f : Rd → Except Stop Res) :
    Host.Outcome State Fault Refusal := runLanes s i rmw folds (fun _ => f)

/-! ## The matrix stream (R105, R139, R184, R320) -/

/-- The m register a stream field names (R106). -/
def Panel.rd (p : Panel) : Rd :=
  { get := fun r => match r with
      | .w i => if h : i.val < 16 then p.m[i.val] else 0
      | _ => 0
    vec := fun _ => VReg.zero }

def Panel.wr (p : Panel) (r : Reg) (v : Word) : Panel :=
  match r with
  | .w i => { p with m := p.m.setIfInBounds i.val v }
  | _ => p

/-- What a stream instruction does: complete with a state, wait and issue again, or trap. -/
inductive SRan where
  | done (s : State)
  | goto (s : State) (pc : Word)
  | wait (s : State) (w : SeqWait)
  | trap (s : State) (e : Trp)

/-- Run an instruction of the matrix stream of the issuing sequencer. -/
def runStream (s : State) (body : Nat → Nat → Panel → State → SRan) : Host.Outcome State Fault Refusal :=
  match s.focus with
  | .stream core pslot =>
    match s.panel? core pslot with
    | none => .fault .noIssuer
    | some p =>
      let beyond (s : State) : State := if s.async.faults.isEmpty then s else s.faultOver (.stream core pslot)
      match body core pslot p s with
      | .done s => .next ((beyond s).modPanel core pslot (fun q => { q with spc := pcNext p.spc, swait := .none }))
      | .goto s pc => .next ((beyond s).modPanel core pslot (fun q => { q with spc := pc, swait := .none }))
      | .wait s w => .next (s.modPanel core pslot (fun q => { q with swait := w }))
      | .trap s t => .next (s.streamTrap core pslot t)
  | _ => .fault .noIssuer

/-- Whether the issuer is a sequencer. -/
def State.inStream (s : State) : Bool := match s.focus with | .stream _ _ => true | _ => false

/-- A register instruction legal in both streams (R115). -/
def runBoth (s : State) (i : Instr) (rmw : Bool) (folds : List (Reg ⊕ Word)) (f : Rd → Except Stop Res) :
    Host.Outcome State Fault Refusal :=
  if s.inStream then
    runStream s (fun core pslot p s => match f p.rd with
      | .error (.trap t) => .trap s t
      | .error (.hold _) => .wait s .again
      | .ok r => .done (s.modPanel core pslot (fun q => r.writes.foldl (fun q (x, v) => q.wr x (v.bits.setWidth 64)) q)))
  else runReg s i rmw folds f

end Sys2Proof.Machine
end

