-- ==== Sys2Proof/Machine/Integer.lean ====
section
/-! DEFINITION. Integer, predicate, constant, address and identification instructions (R169 to R183). -/
namespace Sys2Proof.Machine

/-! ## Fields and lanes -/

/-- W of the modifier (R169). -/
def intWidth (m : Byte) : Nat := 8 <<< (m &&& 3).toNat
def modV (m : Byte) : Bool := m.getLsbD 7
def modImm (m : Byte) : Bool := m.getLsbD 3
def modSx (m : Byte) : Bool := m.getLsbD 2

/-- The immediate sign-extended from 48 bits, modulo 2^W (R170). -/
def immNat (imm : BitVec 48) (W : Nat) : Nat := wrapInt (signExt imm.toNat 48) W
/-- The immediate as 64 bits (R146). -/
def immWord (imm : BitVec 48) : Word := imm.signExtend 64

/-- Lane i of width W (R171). -/
def laneOf (W : Nat) (x : Vec) (i : Nat) : Nat := (x.toNat >>> (W * i)) % 2 ^ W
/-- A vector from its lanes, lowest first. -/
def packLanes (W : Nat) : List Nat → Nat
  | [] => 0
  | v :: t => v % 2 ^ W + 2 ^ W * packLanes W t
def vecOfLanes (W : Nat) (l : List Nat) : Vec := BitVec.ofNat 512 (packLanes W l)
def vecLanes (W : Nat) (x : Vec) : List Nat := (List.range (512 / W)).map (laneOf W x)

/-- The destination's tag of R172: source A's, signed or unsigned. -/
inductive TagRule where
  | a | s | u
  deriving DecidableEq, Repr

def TagRule.tag (r : TagRule) (W : Nat) (a : Tag) : Tag :=
  match r with
  | .a => a
  | .s => intTagOf true W
  | .u => intTagOf false W

/-- FORMAT for a source whose tag does not match: the register field and its tag (R171, R200). -/
def tagStop (r : Reg) (t : Tag) : Stop := Trp.stop Cause.format 0x05 (BitVec.ofNat 64 (r.field.toNat + t.toNat * 256))

/-- A v source carries an integer tag of width W (R171). -/
def needInt (rd : Rd) (W : Nat) (r : Reg) : Except Stop Unit :=
  let t := (rd.vec r).tag
  if intTag t && tagWidth t == W then .ok () else .error (tagStop r t)

/-- A scalar W-bit result extended to 64 bits (R170). -/
def extendTo (sx : Bool) (W v : Nat) : Word := if sx then wordOf (signExt v W) else BitVec.ofNat 64 (v % 2 ^ W)

/-- The signed reading of a W-bit value. -/
def sgn (W a : Nat) : Int := signExt a W

/-! ## The two-source and one-source forms -/

/-- Source B's lanes: the immediate in every lane, or a v register (R171). -/
def srcB (rd : Rd) (f : Gen) (W : Nat) : Except Stop (List Nat) :=
  if modImm f.mod then .ok (List.replicate (512 / W) (immNat f.imm W))
  else match needInt rd W f.sb with
    | .error e => .error e
    | .ok _ => .ok (vecLanes W (rd.vec f.sb).bits)

/-- The result of a two-source form (R170, R171): `op W a b`. -/
def intTwo (f : Gen) (rule : TagRule) (op : Nat → Nat → Nat → Nat) (rd : Rd) : Except Stop Res :=
  let W := intWidth f.mod
  if modV f.mod then
    match needInt rd W f.sa with
    | .error e => .error e
    | .ok _ => match srcB rd f W with
      | .error e => .error e
      | .ok bs =>
        let a := rd.vec f.sa
        .ok { writes := [(f.dst, { bits := vecOfLanes W ((vecLanes W a.bits).zipWith (op W) bs), tag := rule.tag W a.tag, exps := 0 })] }
  else
    let a := (rd.get f.sa).toNat % 2 ^ W
    let b := if modImm f.mod then immNat f.imm W else (rd.get f.sb).toNat % 2 ^ W
    .ok (Res.word f.dst (extendTo (modSx f.mod) W (op W a b)))

/-- The result of a form with source A alone (R175, R176, R173): `op W a`. -/
def intOne (f : Gen) (rule : TagRule) (op : Nat → Nat → Nat) (rd : Rd) : Except Stop Res :=
  let W := intWidth f.mod
  if modV f.mod then
    match needInt rd W f.sa with
    | .error e => .error e
    | .ok _ =>
      let a := rd.vec f.sa
      .ok { writes := [(f.dst, { bits := vecOfLanes W ((vecLanes W a.bits).map (op W)), tag := rule.tag W a.tag, exps := 0 })] }
  else .ok (Res.word f.dst (extendTo (modSx f.mod) W (op W ((rd.get f.sa).toNat % 2 ^ W))))

/-! ## The operations of R172, R174 to R176 -/

def opAdd (W a b : Nat) : Nat := (a + b) % 2 ^ W
def opSub (W a b : Nat) : Nat := (a + 2 ^ W - b) % 2 ^ W
def opMul (W a b : Nat) : Nat := a * b % 2 ^ W
def opMulh (W a b : Nat) : Nat := wrapInt (sgn W a * sgn W b / 2 ^ W) W
def opMulhu (W a b : Nat) : Nat := a * b / 2 ^ W
def opAnd (_W a b : Nat) : Nat := a &&& b
def opOr (_W a b : Nat) : Nat := a ||| b
def opXor (_W a b : Nat) : Nat := a ^^^ b
def opAndn (W a b : Nat) : Nat := a &&& (2 ^ W - 1 - b)
def opShl (W a b : Nat) : Nat := a * 2 ^ (b % W) % 2 ^ W
def opShr (W a b : Nat) : Nat := a / 2 ^ (b % W)
def opSar (W a b : Nat) : Nat := wrapInt (sgn W a / 2 ^ (b % W)) W
def opRol (W a b : Nat) : Nat := a * 2 ^ (b % W) % 2 ^ W + a / 2 ^ (W - b % W)
def opMin (W a b : Nat) : Nat := if sgn W a < sgn W b then a else b
def opMax (W a b : Nat) : Nat := if sgn W b < sgn W a then a else b
def opMinu (_W a b : Nat) : Nat := if a < b then a else b
def opMaxu (_W a b : Nat) : Nat := if b < a then a else b

def opDiv (W a b : Nat) : Nat := wrapInt ((sgn W a).tdiv (sgn W b)) W
def opRem (W a b : Nat) : Nat := wrapInt ((sgn W a).tmod (sgn W b)) W
def opDivu (_W a b : Nat) : Nat := a / b
def opRemu (_W a b : Nat) : Nat := a % b

def opClz (W a : Nat) : Nat := W - bitLen a
def opCtz (W a : Nat) : Nat := ((List.range W).find? (fun i => a.testBit i)).getD W
def opPopc (W a : Nat) : Nat := (List.range W).countP (fun i => a.testBit i)
def opBrev (W a : Nat) : Nat := (List.range W).foldl (fun m i => if a.testBit i then m + 2 ^ (W - 1 - i) else m) 0
def opAbs (W a : Nat) : Nat := if sgn W a < 0 then wrapInt (-(sgn W a)) W else a

def bfPos (f : Gen) : Nat := bitsOf f.imm.toNat 5 0
def bfLen (f : Gen) : Nat := bitsOf f.imm.toNat 14 8
def opBfx (f : Gen) (W a : Nat) : Nat :=
  let r := a / 2 ^ bfPos f % 2 ^ bfLen f
  if f.mod.getLsbD 4 then wrapInt (signExt r (bfLen f)) W else r
def opBfi (f : Gen) (_W a b : Nat) : Nat :=
  a - a / 2 ^ bfPos f % 2 ^ bfLen f * 2 ^ bfPos f + b % 2 ^ bfLen f * 2 ^ bfPos f

/-- DIV0 where a divisor is zero, else the form (R174). -/
def intDiv (f : Gen) (rule : TagRule) (op : Nat → Nat → Nat → Nat) (rd : Rd) : Except Stop Res :=
  let W := intWidth f.mod
  if modV f.mod then
    match intTwo f rule op rd with
    | .error e => .error e
    | .ok r =>
      let zero := (vecLanes W (rd.vec f.sb).bits).zipIdx.foldl (fun m (b, i) => if b == 0 then m + 2 ^ i else m) 0
      if zero == 0 then .ok r else .error (Trp.stop Cause.div0 0 (BitVec.ofNat 64 zero))
  else if (rd.get f.sb).toNat % 2 ^ W == 0 then .error (Trp.stop Cause.div0 0 (BitVec.ofNat 64 ((rd.get f.sa).toNat % 2 ^ W)))
  else intTwo f rule op rd

/-! ## Meanings -/

def execAdd (f : Gen) (s : State) : Host.Outcome State Fault Refusal := runBoth s (.add f) false [] (intTwo f .a opAdd)
def execSub (f : Gen) (s : State) : Host.Outcome State Fault Refusal := runBoth s (.sub f) false [] (intTwo f .a opSub)
def execMul (f : Gen) (s : State) : Host.Outcome State Fault Refusal := runBoth s (.mul f) false [] (intTwo f .a opMul)
def execMulh (f : Gen) (s : State) : Host.Outcome State Fault Refusal := runReg s (.mulh f) false [] (intTwo f .s opMulh)
def execMulhu (f : Gen) (s : State) : Host.Outcome State Fault Refusal := runReg s (.mulhu f) false [] (intTwo f .u opMulhu)
def execAnd (f : Gen) (s : State) : Host.Outcome State Fault Refusal := runBoth s (.and f) false [] (intTwo f .a opAnd)
def execOr (f : Gen) (s : State) : Host.Outcome State Fault Refusal := runBoth s (.or f) false [] (intTwo f .a opOr)
def execXor (f : Gen) (s : State) : Host.Outcome State Fault Refusal := runBoth s (.xor f) false [] (intTwo f .a opXor)
def execAndn (f : Gen) (s : State) : Host.Outcome State Fault Refusal := runBoth s (.andn f) false [] (intTwo f .a opAndn)
def execShl (f : Gen) (s : State) : Host.Outcome State Fault Refusal := runBoth s (.shl f) false [] (intTwo f .a opShl)
def execShr (f : Gen) (s : State) : Host.Outcome State Fault Refusal := runBoth s (.shr f) false [] (intTwo f .a opShr)
def execSar (f : Gen) (s : State) : Host.Outcome State Fault Refusal := runBoth s (.sar f) false [] (intTwo f .a opSar)
def execRol (f : Gen) (s : State) : Host.Outcome State Fault Refusal := runReg s (.rol f) false [] (intTwo f .a opRol)
def execMin (f : Gen) (s : State) : Host.Outcome State Fault Refusal := runBoth s (.min f) false [] (intTwo f .s opMin)
def execMax (f : Gen) (s : State) : Host.Outcome State Fault Refusal := runBoth s (.max f) false [] (intTwo f .s opMax)
def execMinu (f : Gen) (s : State) : Host.Outcome State Fault Refusal := runBoth s (.minu f) false [] (intTwo f .u opMinu)
def execMaxu (f : Gen) (s : State) : Host.Outcome State Fault Refusal := runBoth s (.maxu f) false [] (intTwo f .u opMaxu)

/-- R173. -/
def execAddi (f : Gen) (s : State) : Host.Outcome State Fault Refusal :=
  runBoth s (.addi f) false [] (intOne f .a (fun W a => opAdd W a (immNat f.imm W)))

/-- R174. -/
def execDiv (f : Gen) (s : State) : Host.Outcome State Fault Refusal := runReg s (.div f) false [] (intDiv f .s opDiv)
/-- R174. -/
def execDivu (f : Gen) (s : State) : Host.Outcome State Fault Refusal := runReg s (.divu f) false [] (intDiv f .u opDivu)
/-- R174. -/
def execRem (f : Gen) (s : State) : Host.Outcome State Fault Refusal := runReg s (.rem f) false [] (intDiv f .s opRem)
/-- R174. -/
def execRemu (f : Gen) (s : State) : Host.Outcome State Fault Refusal := runReg s (.remu f) false [] (intDiv f .u opRemu)

def execClz (f : Gen) (s : State) : Host.Outcome State Fault Refusal := runReg s (.clz f) false [] (intOne f .u opClz)
def execCtz (f : Gen) (s : State) : Host.Outcome State Fault Refusal := runReg s (.ctz f) false [] (intOne f .u opCtz)
def execPopc (f : Gen) (s : State) : Host.Outcome State Fault Refusal := runReg s (.popc f) false [] (intOne f .u opPopc)
def execBrev (f : Gen) (s : State) : Host.Outcome State Fault Refusal := runReg s (.brev f) false [] (intOne f .a opBrev)
def execAbs (f : Gen) (s : State) : Host.Outcome State Fault Refusal := runReg s (.abs f) false [] (intOne f .a opAbs)

/-- R176. -/
def execBfx (f : Gen) (s : State) : Host.Outcome State Fault Refusal := runBoth s (.bfx f) false [] (intOne f .a (opBfx f))
/-- R176: source B is a register; I is reserved. -/
def execBfi (f : Gen) (s : State) : Host.Outcome State Fault Refusal := runBoth s (.bfi f) false [] (intTwo f .a (opBfi f))

/-- R177. -/
def execSel (f : Gen) (s : State) : Host.Outcome State Fault Refusal :=
  runReg s (.sel f) false [] (fun rd =>
    let W := intWidth f.mod
    let a := (rd.get f.sa).toNat % 2 ^ W
    let b := (rd.get f.sb).toNat % 2 ^ W
    .ok (Res.word f.dst (extendTo (modSx f.mod) W (if rd.get f.sc == 1 then a else b))))

/-- R178, by the classes of DST and SA. -/
def movRes (f : Gen) (rd : Rd) : Except Stop Res :=
  let W := intWidth f.mod
  match f.dst, f.sa with
  | .v _, _ => .ok { writes := [(f.dst, rd.vec f.sa)] }
  | .p _, .p _ => .ok (Res.word f.dst (rd.get f.sa))
  | .p _, _ => .ok (Res.word f.dst (if (rd.get f.sa).toNat % 2 ^ W == 0 then 0 else 1))
  | _, .p _ => .ok (Res.word f.dst (rd.get f.sa))
  | _, _ => .ok (Res.word f.dst (extendTo (modSx f.mod) W ((rd.get f.sa).toNat % 2 ^ W)))

/-- R178. -/
def execMov (f : Gen) (s : State) : Host.Outcome State Fault Refusal := runBoth s (.mov f) false [] (movRes f)

/-- R179. -/
def execMovi (f : Gen) (s : State) : Host.Outcome State Fault Refusal :=
  runBoth s (.movi f) false [] (fun _ =>
    .ok (Res.word f.dst (extendTo (modSx f.mod) (intWidth f.mod) (immNat f.imm (intWidth f.mod)))))

/-- R179: the destination is also a source. -/
def execMovh (f : Gen) (s : State) : Host.Outcome State Fault Refusal :=
  runBoth s (.movh f) true [] (fun rd =>
    .ok (Res.word f.dst (BitVec.ofNat 64 ((rd.get f.dst).toNat % 2 ^ 48 + f.imm.toNat % 2 ^ 16 * 2 ^ 48))))

/-- The conditions of R180. -/
def cmpCond (cond W a b : Nat) : Bool :=
  match cond with
  | 0 => a == b
  | 1 => a != b
  | 2 => decide (sgn W a < sgn W b)
  | 3 => decide (sgn W b ≤ sgn W a)
  | 4 => decide (a < b)
  | _ => decide (b ≤ a)

/-- R180. -/
def execCmp (f : Gen) (s : State) : Host.Outcome State Fault Refusal :=
  runReg s (.cmp f) false [.inl f.sa, if modImm f.mod then .inr (immWord f.imm) else .inl f.sb] (fun rd =>
    let W := intWidth f.mod
    let a := (rd.get f.sa).toNat % 2 ^ W
    let b := if modImm f.mod then immNat f.imm W else (rd.get f.sb).toNat % 2 ^ W
    .ok (Res.word f.dst (if cmpCond (bitsOf f.mod.toNat 6 4) W a b then 1 else 0)))

/-- R181. -/
def execPlop (f : Gen) (s : State) : Host.Outcome State Fault Refusal :=
  runReg s (.plop f) false [.inl f.sa, .inl f.sb, .inl f.sc] (fun rd =>
    let ix := (rd.get f.sa).toNat * 4 + (rd.get f.sb).toNat * 2 + (rd.get f.sc).toNat
    .ok (Res.word f.dst (if f.imm.getLsbD ix then 1 else 0)))

/-- The address of a memory operand with a scalar base (R110). -/
def memAddr (f : Mem) (rd : Rd) : Word :=
  rd.get f.sa + (if f.x then rd.get f.sb <<< f.scale.toNat else 0) + immWord f.disp

/-- R182. -/
def execLea (f : Mem) (s : State) : Host.Outcome State Fault Refusal :=
  runBoth s (.lea f) false [] (fun rd => .ok (Res.word f.dst (memAddr f rd)))

/-- The values of R183. -/
def rdidVal (s : State) (I : Iss) (lane sel : Nat) : Word :=
  let k := s.skein? I.c.skein
  let x := I.c.st lane
  let n : Nat := match sel with
    | 0 => I.core
    | 1 => I.slot / 4
    | 2 => I.slot
    | 3 => lane
    | 4 => I.core / 40
    | 5 => I.core / 40 * 5 + I.core % 40 / 4 / 2
    | 6 => s.devNo
    | 7 => s.skeinCtx I.c.skein
    | 8 => s.time.gt
    | 9 => (k.bind (fun k => k.cores.idxOf? I.core)).getD 0
    | 10 => (s.skeinCause I.c.skein).toNat
    | 11 => ((s.strandWho I.core I.c.pslot I.c lane).strand).getD 0
    | 12 => x.depth
    | _ => x.wb
  BitVec.ofNat 64 n

/-- R183: issued once, each executing strand receiving its own value. -/
def execRdid (f : Gen) (s : State) : Host.Outcome State Fault Refusal :=
  runCourse s (.rdid f) false [] (fun I s =>
    let rs := I.lanes.map (fun i => (i, Res.word f.dst (rdidVal s I i (bitsOf f.imm.toNat 7 0))))
    (s, match ({ I with uni := false }).store s rs with
      | .error e => .error e
      | .ok s => .ok { s }))

end Sys2Proof.Machine
end

