-- ==== Sys2Proof/Machine/Tiles.lean ====
section
/-! DEFINITION. Tile descriptors, the tile directory, residences and drift logs (R46 to R48, R195, R256, R265 to R282). -/
namespace Sys2Proof.Machine

/-! ## Descriptors (R46, R47) -/

/-- A descriptor as one use reads it; `base` is the address that names a die residence (R284). -/
structure Tile where
  launch : Nat
  idx    : Nat
  at_    : Word
  home   : Word
  side   : Word
  rows   : Nat
  cols   : Nat
  pitch  : Nat
  tensor : Nat
  tag    : Tag
  layout : Nat
  res    : Word
  base   : Word
  die    : Nat
  logOff : Nat
  logcap : Nat
  logcnt : Nat
  policy : Nat
  deriving DecidableEq, Repr

/-- Why a descriptor cannot be used. -/
inductive TErr where
  | xlate (e : XFail) (a : Word)
  | format
  deriving DecidableEq, Repr

/-- FORMAT with the tile index (R285), or XLATE at the descriptor. -/
def TErr.stop (idx : Nat) : TErr → Stop
  | .xlate e a => e.stop a
  | .format => Trp.stop Cause.format 0x01 (BitVec.ofNat 64 idx)

/-- The size of a plane block, none for a tag that plane layout does not accept (R269). -/
def planeSize (t : Tag) : Option Nat :=
  match t.toNat with
  | 0x18 => some 32 | 0x19 => some 64 | 0x1A => some 96
  | 0x01 | 0x02 => some 8
  | 0x03 | 0x04 => some 16
  | 0x05 | 0x06 => some 32
  | 0x0D => some 4
  | _ => none

/-- The checks of every use (R46, R48, R195, R269, R273). -/
def tileFields (launch idx : Nat) (at_ : Word) (ntens : Nat) (b : List Byte) : Option Tile :=
  let f (off n : Nat) : Nat := leNat ((b.drop off).take n)
  let fmt := f 0x1E 2
  let log := f 0x28 8
  let t : Tile :=
    { launch, idx, at_, home := BitVec.ofNat 64 (f 0 8), side := BitVec.ofNat 64 (f 8 8), rows := f 0x10 4, cols := f 0x14 4,
      pitch := f 0x18 4, tensor := f 0x1C 2, tag := BitVec.ofNat 5 fmt, layout := bitsOf fmt 7 5,
      res := BitVec.ofNat 64 (f 0x20 8), base := 0, die := bitsOf log 1 0, logOff := bitsOf log 55 32, logcap := f 0x30 4,
      logcnt := f 0x34 2, policy := bitsOf (f 0x36 2) 1 0 }
  let L := if t.layout == 1 then t.rows else t.cols
  let ok := spaceOf t.home == 0 && t.home.toNat % 32 == 0 && 1 ≤ t.rows && t.rows ≤ 65536 && 1 ≤ t.cols && t.cols ≤ 65536 &&
    t.pitch % 32 == 0 && t.tensor < ntens && fmt / 256 == 0 && knownTag t.tag && t.layout ≤ 2 && bitsOf t.res.toNat 15 3 == 0 &&
    bitsOf log 31 2 == 0 && bitsOf log 63 56 == 0 && t.logOff % 16 == 0 && f 0x36 2 / 4 == 0 && t.policy ≤ 2 && f 0x38 8 == 0 &&
    (t.logcap == 0 || t.logOff + t.logcap * 16 ≤ Config.dieBytes)
  let shape :=
    if t.layout == 2 then
      match planeSize t.tag with
      | some p => t.cols % 32 == 0 && t.cols / 32 * p ≤ t.pitch && t.side == 0 && t.logcap == 0
      | none => false
    else if wbTag t.tag then L % 32 == 0 && t.side.toNat % 2 == 0 && t.side != 0 && t.logcap == 0
    else t.side == 0
  if ok && shape then some t else none

/-- The directory entry of a tile (R266). -/
def State.dirOf (s : State) (launch tile : Nat) : Option DirEntry :=
  s.async.dir.find? (fun d => d.launch == launch && d.tile == tile)

/-- Read a launch's descriptor from memory (R48), with the name of its die residence. -/
def State.readTile (s : State) (launch idx : Nat) : Except TErr Tile :=
  match s.launch? launch with
  | none => .error .format
  | some v =>
    if v.hdr.ttcount ≤ idx then .error .format else
    let a := v.hdr.ttbase + BitVec.ofNat 64 (64 * idx)
    match s.readRange (launchWho launch v) a 64 with
    | .error e => .error (.xlate e a)
    | .ok b => match tileFields launch idx a v.hdr.ntens b with
      | some t => .ok { t with base := (s.dirOf launch idx).elim 0 (·.base) }
      | none => .error .format

/-- The accesses of a tile's launch. -/
def State.tileWho (s : State) (launch : Nat) : Who :=
  match s.launch? launch with
  | some v => launchWho launch v
  | none => { ctx := 0, root := 0, skein := none, core := 0, launch := none, strand := none }

/-- The W9's own update of a descriptor field: the bytes at the descriptor's home (R47, R48). -/
def State.setTile (s : State) (t : Tile) (off n v : Nat) : State :=
  match s.home (s.tileWho t.launch) .load (t.at_ + BitVec.ofNat 64 off) with
  | .ok l => s.pokeNat l n v
  | .error _ => s

def Tile.where_ (t : Tile) : Nat := bitsOf t.res.toNat 1 0
def Tile.resident (t : Tile) : Bool := t.where_ != 0
def Tile.writable (t : Tile) : Bool := t.res.getLsbD 2
def Tile.runit (t : Tile) : Nat := bitsOf t.res.toNat 23 16
def Tile.raddr (t : Tile) : Nat := bitsOf t.res.toNat 63 24

/-- The element width for geometry and logs: raw elements are bytes (R256, R273). -/
def Tile.ew (t : Tile) : Nat := elemWidth t.tag
def Tile.elems (t : Tile) : Nat := t.rows * t.cols
/-- Lines and elements per line (R265). -/
def Tile.lines (t : Tile) : Nat := if t.layout == 1 then t.cols else t.rows
def Tile.perLine (t : Tile) : Nat := if t.layout == 1 then t.rows else t.cols
/-- Bytes of the home range, and of the residence image with its side pairs (R265, R266). -/
def Tile.homeSize (t : Tile) : Nat := t.lines * t.pitch
def Tile.sideSize (t : Tile) : Nat :=
  if wbTag t.tag && t.layout != 2 then ceilDiv (t.lines * t.perLine / 32 * 2) 32 * 32 else 0
def Tile.imageSize (t : Tile) : Nat := t.homeSize + t.sideSize

/-- Line and position of element i (R256). -/
def Tile.lineOf (t : Tile) (i : Nat) : Nat × Nat :=
  if t.layout == 1 then (i / t.rows, i % t.rows) else (i / t.cols, i % t.cols)
/-- The element at a position of a line (R256). -/
def Tile.elemAt (t : Tile) (line pos : Nat) : Nat := if t.layout == 1 then line * t.rows + pos else line * t.cols + pos
/-- Byte offset of element i and its first bit in that byte (R187, R256). -/
def Tile.elemOff (t : Tile) (i : Nat) : Nat × Nat :=
  let (line, pos) := t.lineOf i
  (line * t.pitch + pos * t.ew / 8, pos * t.ew % 8)
/-- Bytes of one element, one for elements narrower than a byte. -/
def Tile.eb (t : Tile) : Nat := max (t.ew / 8) 1
/-- The elements of one image byte; none for padding (R266). -/
def Tile.byteElems (t : Tile) (off : Nat) : List Nat :=
  let line := off / t.pitch
  let bit := off % t.pitch * 8
  if t.lines ≤ line then []
  else if 8 ≤ t.ew then
    let pos := bit / t.ew
    if pos < t.perLine then [t.elemAt line pos] else []
  else ((List.range (8 / t.ew)).map (fun j => bit / t.ew + j)).filter (fun p => p < t.perLine) |>.map (t.elemAt line)
/-- Plane layout holds its blocks in every byte of a row's blocks. -/
def Tile.holds (t : Tile) (off : Nat) : Bool :=
  if t.layout == 2 then off / t.pitch < t.lines && off % t.pitch < t.cols / 32 * (planeSize t.tag).getD 0
  else !(t.byteElems off).isEmpty

/-! ## The directory (R266) -/

def dirLimit : Nat := 16384

/-- Pieces of an address range by 64 KiB page, as far as they translate, adjacent pieces joined. -/
def State.pages (s : State) (w : Who) (a : Word) : Nat → Nat → Nat → List (Nat × Loc × Nat)
  | 0, _, _ => []
  | f + 1, off, n =>
    if n == 0 then [] else
    let k := min n (65536 - (a.toNat + off) % 65536)
    let rest := State.pages s w a f (off + k) (n - k)
    match s.home w .load (a + BitVec.ofNat 64 off) with
    | .error _ => rest
    | .ok l => match rest with
      | (o2, l2, n2) :: t =>
        if o2 == off + k && l2.store == l.store && l2.addr == l.addr + k then (off, l, k + n2) :: t else (off, l, k) :: rest
      | [] => [(off, l, k)]

def State.homePieces (s : State) (t : Tile) : List (Nat × Loc × Nat) :=
  s.pages (s.tileWho t.launch) t.home (t.homeSize / 65536 + 2) 0 t.homeSize

def State.setDir (s : State) (l : List DirEntry) : State := { s with async := { s.async with dir := l } }
def State.dropDir (s : State) (launch tile : Nat) : State :=
  s.setDir (s.async.dir.filter (fun d => !(d.launch == launch && d.tile == tile)))

/-- The offset of a home byte in an entry's range. -/
def DirEntry.offset (d : DirEntry) (l : Loc) : Option Nat :=
  d.home.findSome? (fun (o, p, n) =>
    if p.store == l.store && p.addr ≤ l.addr && l.addr < p.addr + n then some (o + (l.addr - p.addr)) else none)

/-- The entry whose range holds a home byte, and the byte's offset. -/
def State.dirFind (s : State) (l : Loc) : Option (DirEntry × Nat) :=
  s.async.dir.findSome? (fun d => (d.offset l).map (fun o => (d, o)))

/-- Whether an address range's homes meet a directory entry (R291). -/
def State.dirMeets (s : State) (l : Loc) (n : Nat) : Bool :=
  s.async.dir.any (fun d => d.home.any (fun (_, p, m) => p.store == l.store && overlap p.addr m l.addr n))

/-- A running snapshot copy of a tile (R282): its cursor in sectors. -/
def State.snapOf (s : State) (launch tile : Nat) : Option Nat :=
  s.async.ops.findSome? (fun (_, o) => match o.kind with
    | .snap i _ _ started => if o.launch == some launch && i == tile && started then some o.cursor else none
    | _ => none)

/-- The tile's waiting log work (R280). -/
def State.logBusy (s : State) (launch tile : Nat) : Bool :=
  s.async.appends.any (fun (_, d, i, _) => d == launch && i == tile) ||
    s.async.ops.any (fun (_, o) => match o.kind with
      | .log i _ => o.launch == some launch && i == tile && o.fault.isSome
      | _ => false)

/-- A fetch of the tile still runs (R275, R287). -/
def State.fetchRuns (s : State) (launch tile : Nat) : Bool :=
  s.async.ops.any (fun (_, o) => match o.kind with
    | .fetch _ _ i _ _ _ _ _ => o.launch == some launch && i == tile
    | _ => false)

/-- A log operation of the tile has not yet run (R275). -/
def State.logWaits (s : State) (launch tile : Nat) : Bool :=
  s.async.ops.any (fun (_, o) => match o.kind with
    | .log i _ => o.launch == some launch && i == tile
    | _ => false)

/-- An entry for a tile, admitted while the directory has room; `none` when it is full. -/
def State.admitTile (s : State) (t : Tile) (skein : Option Nat) : Option State :=
  match s.dirOf t.launch t.idx with
  | some _ => some s
  | none =>
    if dirLimit ≤ s.async.dir.length then none
    else some (s.setDir (s.async.dir ++ [{ launch := t.launch, skein, tile := t.idx, home := s.homePieces t, evicting := false, base := 0,
                                              inAt := 0, inDur := 0 }]))

/-- An entry goes when its tile is not resident, has no log and no snapshot copy (R266). -/
def State.tidyDir (s : State) (launch tile : Nat) : State :=
  match s.readTile launch tile with
  | .error _ => s
  | .ok t => if t.resident || t.logcnt != 0 || (s.snapOf launch tile).isSome then s else s.dropDir launch tile

/-! ## Residences (R265, R266, R272) -/

/-- The home of a residence byte, as seen from a core: a multicast set is read on the reader's own member core. -/
def State.resLoc (s : State) (t : Tile) (core off : Nat) : Except XFail Loc :=
  let sk := (s.dirOf t.launch t.idx).bind (·.skein)
  let members := (sk.bind s.skein?).elim [] (·.cores)
  let at_ (c : Nat) (space : Nat) : Except XFail Loc :=
    s.home { s.tileWho t.launch with skein := sk, core := c } .load (BitVec.ofNat 64 (space * 2 ^ 60 + t.raddr + off))
  match t.where_ with
  | 1 => at_ (if t.runit == 0xFF then (if members.contains core then core else members.headD 0) else t.runit) 0xE
  | 2 => at_ t.runit 0xD
  | _ => .ok ⟨.die, t.runit * 2 ^ 23 + t.raddr + off⟩

/-! ## Log entries (R274, R277, R279) -/

/-- A log entry. -/
structure LogEntry where
  index : Nat
  op    : Nat
  type  : Nat
  mask  : Nat
  value : Nat
  rsv   : Nat
  deriving DecidableEq, Repr

def LogEntry.ofBits (b : Nat) : LogEntry :=
  { index := bitsOf b 31 0, op := bitsOf b 39 32, type := bitsOf b 47 40, mask := bitsOf b 55 48, value := bitsOf b 127 64,
    rsv := bitsOf b 63 56 }
def LogEntry.bits (y : LogEntry) : Nat :=
  y.index + y.op * 2 ^ 32 + y.type * 2 ^ 40 + y.mask * 2 ^ 48 + y.rsv * 2 ^ 56 + y.value * 2 ^ 64

def Tile.logLoc (t : Tile) (k : Nat) : Loc := ⟨.die, t.die * 2 ^ 23 + t.logOff + 16 * k⟩

/-- Every mask bit of an element. -/
def Tile.fullMask (t : Tile) : Nat := 2 ^ t.eb - 1

/-- A malformed entry (R273). -/
def Tile.malformed (t : Tile) (y : LogEntry) : Bool :=
  !(1 ≤ y.op && y.op ≤ 4) || t.elems ≤ y.index || y.type != t.tag.toNat || t.fullMask < y.mask || y.rsv != 0

/-- The entries of a tile's log, with their slots. -/
def State.logEntries (s : State) (t : Tile) : List (Nat × LogEntry) :=
  (List.range t.logcnt).map (fun k => (k, LogEntry.ofBits (s.peekNat (t.logLoc k) 16)))

/-- The format of the value register and of log operands: FP32 for floating-point elements up to 32 bits, FP64 for FP64 (R289). -/
def wideTag (t : Tag) : Tag := if t == 0x16 then 0x16 else 0x15

/-- The operand field of an ADD, MIN or MAX entry. -/
def LogEntry.operand (y : LogEntry) (t : Tag) : Nat := if fpTag t then y.value % 2 ^ 32 else y.value % 2 ^ tagWidth t

/-- The arithmetic of R279 on an element's bits: op 2 ADD, 3 MIN, 4 MAX, with an operand of the value register's format. -/
def elemOp (t : Tag) (op : Nat) (e v : Nat) : Nat × Cnt :=
  if fpTag t then
    let w := wideTag t
    let r := if op == 2 then addRnd t 0 (numOf t e) (numOf w v)
      else roundTo t 0 (numOf w (fpMinMax w (op == 4) (roundTo w 0 (numOf t e)).bits v))
    (r.bits, r.cnt)
  else
    let n := tagWidth t
    if op == 2 then ((e + v) % 2 ^ n, .none) else (intMinMax t (op == 4) (e % 2 ^ n) (v % 2 ^ n), .none)

/-- Merge an entry's bytes into a value under its mask. -/
def maskBytes (mask n old new : Nat) : Nat :=
  leNat ((List.range n).map (fun b => BitVec.ofNat 8 ((if mask.testBit b then new else old) / 256 ^ b)))

/-- Apply an entry to an element (R279). -/
def Tile.applyEntry (t : Tile) (e : Nat) (y : LogEntry) : Nat × Cnt :=
  if y.op == 1 then
    (if t.ew < 8 then (if y.mask.testBit 0 then y.value % 2 ^ t.ew else e) else maskBytes y.mask t.eb e y.value, .none)
  else elemOp t.tag y.op e (y.operand t.tag)

/-- Apply the entries of a log to one element, skipping malformed ones (R273, R278); counts what R279 counts. -/
def Tile.applyAll (t : Tile) (log : List LogEntry) (i e : Nat) : Nat × List Nat :=
  log.foldl (fun (e, ks) y =>
    if y.index == i && !t.malformed y then
      let (e', c) := t.applyEntry e y
      (e', match c with | .sat => ks ++ [3 * t.tensor] | .nonfin => ks ++ [3 * t.tensor + 2] | _ => ks)
    else (e, ks)) (e, [])

/-- Element i within the bytes of its image; `get` reads image bytes. -/
def Tile.elemBits (t : Tile) (get : Nat → Byte) (i : Nat) : Nat :=
  let (off, bit) := t.elemOff i
  leNat ((List.range t.eb).map (fun b => get (off + b))) / 2 ^ bit % 2 ^ t.ew

/-- The image byte at an offset with a log's entries applied (R278), from the home bytes. -/
def Tile.mergedByte (t : Tile) (log : List LogEntry) (get : Nat → Byte) (off : Nat) : Byte × List Nat :=
  let es := t.byteElems off
  if 8 ≤ t.ew then
    match es with
    | i :: _ =>
      let (v, ks) := t.applyAll log i (t.elemBits get i)
      (BitVec.ofNat 8 (v / 256 ^ (off - (t.elemOff i).1)), if off == (t.elemOff i).1 then ks else [])
    | [] => (get off, [])
  else es.foldl (fun (b, ks) i =>
    let (v, k) := t.applyAll log i (t.elemBits get i)
    let bit := (t.elemOff i).2
    (BitVec.ofNat 8 (b.toNat - b.toNat / 2 ^ bit % 2 ^ t.ew * 2 ^ bit + v * 2 ^ bit), ks ++ k)) (get off, [])

/-! ## Compaction (R277) -/

/-- What visiting entry y does to the earlier entries kept: some list with y absorbed, or none when y is kept. -/
def Tile.compactOne (t : Tile) (kept : List LogEntry) (y : LogEntry) : List LogEntry :=
  let isFull (e : LogEntry) : Bool := e.op == 1 && e.mask == t.fullMask
  if isFull y then kept.filter (fun z => z.index != y.index) ++ [y] else
  match kept.reverse.findIdx? (fun z => z.index == y.index) with
  | none => kept ++ [y]
  | some r =>
    let j := kept.length - 1 - r
    match kept[j]? with
    | none => kept ++ [y]
    | some z =>
      if y.op == 1 && z.op == 1 then
        kept.set j { z with value := if t.ew < 8 then (if y.mask.testBit 0 then y.value else z.value)
                              else maskBytes y.mask 8 z.value y.value, mask := z.mask ||| y.mask }
      else if y.op == 2 && z.op == 2 then
        let v := if fpTag t.tag then (addRnd 0x15 0 (numOf 0x15 (z.operand t.tag)) (numOf 0x15 (y.operand t.tag))).bits
          else (z.value + y.value) % 2 ^ tagWidth t.tag
        kept.set j { z with value := v }
      else if (y.op == 3 || y.op == 4) && z.op == y.op then
        let v := if fpTag t.tag then fpMinMax 0x15 (y.op == 4) (z.operand t.tag) (y.operand t.tag)
          else intMinMax t.tag (y.op == 4) (z.operand t.tag) (y.operand t.tag)
        kept.set j { z with value := v }
      else if y.op != 1 && isFull z then kept.set j { z with value := (t.applyEntry (z.value % 2 ^ t.ew) y).1 }
      else kept ++ [y]

/-- The event template of an operation on a tile: cause, parent, context and copy engine (R295). -/
def tileEv (b : Ev) (type payload : Nat) (err : Bool := false) : Ev := { b with type, payload, err, priv := true }

/-- Rewrite a log and LOGCNT. -/
def State.writeLog (s : State) (t : Tile) (l : List LogEntry) : State :=
  (l.zipIdx.foldl (fun s (y, k) => s.pokeNat (t.logLoc k) 16 y.bits) s).setTile t 0x34 2 l.length

/-- LOG_FAULT for each malformed entry removed (R273). -/
def State.dropMalformed (s : State) (t : Tile) (b : Ev) : State :=
  ((s.logEntries t).filter (fun (_, y) => t.malformed y)).foldl (fun s (k, _) =>
    s.emit (tileEv b 0x6C (t.idx + 2 * 2 ^ 16 + (t.logOff + 16 * k) * 2 ^ 24) true)) s

/-- Compact a tile's log (R277). -/
def State.compactLog (s : State) (t : Tile) (b : Ev) : State × Tile :=
  let s0 := s.dropMalformed t b
  let good := ((s.logEntries t).filter (fun (_, y) => !t.malformed y)).map (·.2)
  let l := good.foldl t.compactOne []
  let s1 := (s0.writeLog t l).emit (tileEv b 0x6A (t.idx + t.logcnt * 2 ^ 16 + l.length * 2 ^ 32))
  (s1, { t with logcnt := l.length })

/-! ## Application at home (R279, R280) -/

/-- The sectors of the home image that the entries touch, ascending. -/
def Tile.dirtySectors (t : Tile) (log : List LogEntry) : List Nat :=
  (log.map (fun y => (t.elemOff y.index).1 / 32)).foldl (fun l x => if l.contains x then l else l ++ [x]) [] |> sortBy (fun a b => decide (a ≤ b))

/-- Apply the log to one sector of the home image. -/
def State.applySector (s : State) (t : Tile) (log : List LogEntry) (sec : Nat) : Except (XFail × Word) State :=
  let a := t.home + BitVec.ofNat 64 (32 * sec)
  match s.home (s.tileWho t.launch) .store a with
  | .error e => .error (e, a)
  | .ok l =>
    let get (off : Nat) : Byte := s.peek ⟨l.store, l.addr + (off - 32 * sec)⟩
    let out := (List.range 32).map (fun j => t.mergedByte log get (32 * sec + j))
    .ok ((s.poke l (out.map (·.1))).countStats (some t.launch) (out.flatMap (·.2)))

/-- Apply sectors until one faults: the state, the sectors done and the fault. -/
def State.applySectors (s : State) (t : Tile) (log : List LogEntry) : List Nat → State × Option (XFail × Word × Nat)
  | [] => (s, none)
  | sec :: rest => match s.applySector t log sec with
    | .error (e, a) => (s, some (e, a, sec))
    | .ok s => s.applySectors t log rest

/-- LOG_FAULT of an application that faults, once: a retry that fails again writes no new record (R250, R280). -/
def State.logFault (s : State) (op : Option Nat) (b : Ev) (tile : Nat) (a : Word) : State :=
  if op.any (fun i => s.async.faults.any (fun (_, p) => p.who == .op i)) then s
  else s.emit (tileEv b 0x6C (tile + 1 * 2 ^ 16 + a.toNat * 2 ^ 24) true)

/-- Apply a log at home, for an operation where one asked for it: all of it, or up to a fault with the entries not applied kept.
Answers the entries applied. -/
def State.applyHome (s : State) (op : Option Nat) (t : Tile) (b : Ev) : State × Nat × Option (XFail × Word) :=
  let s0 := s.dropMalformed t b
  let good := ((s.logEntries t).filter (fun (_, y) => !t.malformed y)).map (·.2)
  match s0.applySectors t good (t.dirtySectors good) with
  | (s1, none) => (s1.setTile t 0x34 2 0, good.length, none)
  | (s1, some (e, a, sec)) =>
    let left := good.filter (fun y => sec ≤ (t.elemOff y.index).1 / 32)
    ((s1.writeLog t left).logFault op b t.idx a, good.length - left.length, some (e, a))

/-- A log operation parked on a fault of its application: it is retried as R250 lays down. -/
def State.parkLog (s : State) (t : Tile) (b : Ev) (act : BitVec 2) (e : XFail) (a : Word) : State :=
  let (id, s) := s.newId
  let ctx := b.ctx
  let s := s.setOp id { kind := .log t.idx act, ctx, launch := some t.launch, skein := none, issuer := .device, core := 0,
                        cause := b.cause, parent := b.parent, signal := none, cursor := 0, started := s.time.gt, moved := 0,
                        doneAt := 0, waiting := true, fault := some 0 }
  s.hostFault { who := .op id, ctx, cause := b.cause, parent := b.parent, addr := a, detail := e.detail, core := 0, slot := 0x1F,
                issuer := 1, lines := e.lines, tried := s.time.gt, due := false, again := false }

/-! ## Append (R276) -/

def Tile.threshold (t : Tile) : Nat :=
  match t.policy with
  | 0 => t.logcap
  | 1 => ceilDiv (3 * t.logcap) 4
  | _ => ceilDiv t.logcap 2

/-- Write an entry to the next slot, and compact at the threshold. -/
def State.pushEntry (s : State) (t : Tile) (b : Ev) (y : LogEntry) : State :=
  let s := (s.pokeNat (t.logLoc t.logcnt) 16 y.bits).setTile t 0x34 2 (t.logcnt + 1)
  let t := { t with logcnt := t.logcnt + 1 }
  if t.threshold ≤ t.logcnt then (s.compactLog t b).1 else s

/-- Append an entry to a tile's log. It waits while a snapshot copy runs and the log is full (R276), and it waits in the log engine
while an application that it set off is parked on a fault (R280). -/
def State.append (s : State) (t0 : Tile) (b : Ev) (y : LogEntry) : Except Stop State :=
  let queue (s : State) : State :=
    let (id, s) := s.newId
    { s with async := { s.async with appends := kset s.async.appends id (t0.launch, t0.idx, BitVec.ofNat 128 y.bits) } }
  if s.logBusy t0.launch t0.idx then .ok (queue s) else
  match s.readTile t0.launch t0.idx with
  | .error e => .error (e.stop t0.idx)
  | .ok t =>
    if t.logcnt < t.logcap then .ok (s.pushEntry t b y) else
    let (s, t) := s.compactLog t b
    if t.logcnt < t.logcap then .ok (s.pushEntry t b y)
    else if (s.snapOf t.launch t.idx).isSome then .error (.hold .tileLog)
    else match s.applyHome none t b with
      | (s, n, none) =>
        .ok ((s.emit (tileEv b 0x6B (t.idx + n * 2 ^ 16))).pushEntry { t with logcnt := 0 } b y)
      | (s, _, some (e, a)) => .ok (queue (s.parkLog t b 1 e a))

end Sys2Proof.Machine
end

