-- ==== Sys2Proof/Machine/Access.lean ====
section
/-! DEFINITION. One access: alignment, space, translation, routing through the tile directory, presence, range locks, errors and
watchpoints, in the order of R249 (R252 to R256, R266, R276, R278, R282, R284, R417). -/
namespace Sys2Proof.Machine

/-! ## Where the bytes of an access are performed -/

/-- One byte's destination: a place, or an image byte of a non-resident tile whose log takes part. -/
inductive Dest where
  | mem (l : Loc)
  | log (launch tile off : Nat)
  deriving DecidableEq, Repr

/-- The bytes of an access: one range at one place, or byte by byte. -/
inductive Route where
  | plain (l : Loc) (n : Nat)
  | split (ds : List Dest)
  deriving DecidableEq, Repr

def Loc.plus (l : Loc) (i : Nat) : Loc := ⟨l.store, l.addr + i⟩

/-- Presence (R252): what an absent line does to a load or a store. -/
def State.present (s : State) (store : Bool) (a : Word) (l : Loc) : Except Stop Unit :=
  match s.absentAt l with
  | none => .ok ()
  | some (.incoming _) => .error (if store then Trp.stop Cause.rangelock 0 a else .hold .absentLine)
  | some (.restore _) => .error (.hold .absentLine)
  | some .poisoned => .error (Trp.stop Cause.xlate Xlate.poison a)

/-- Where a byte of a tile's image is performed (R265 to R267, R276, R282). `operand` is a tile operand, which is logged on a
non-resident tile even when its log is empty. -/
def State.tileByte (s : State) (t : Tile) (core : Nat) (store operand : Bool) (a : Word) (off : Nat) (home : Except Stop Loc) :
    Except Stop Dest :=
  let atHome : Except Stop Dest := match home with | .ok l => .ok (.mem l) | .error e => .error e
  let d := s.dirOf t.launch t.idx
  if (d.elim false (·.evicting)) then .error (.hold .absentLine)
  else if !t.holds off then atHome
  else if t.resident then
    if store && !t.writable then .error (Trp.stop Cause.xlate Xlate.write a)
    else match s.resLoc t core off with
      | .ok l => .ok (.mem l)
      | .error e => .error (e.stop a)
  else if s.logBusy t.launch t.idx then .error (.hold .tileLog)
  else if t.logcap == 0 then atHome
  else if store then
    let snap := s.snapOf t.launch t.idx
    let bare : Bool := match snap with
      | some cur => off / 32 < cur && (t.byteElems off).all (fun i => !(s.logEntries t).any (fun (_, y) => y.index == i))
      | none => false
    if bare then atHome
    else if t.logcnt != 0 || snap.isSome || (operand && (d.isSome || s.async.dir.length < dirLimit)) then
      .ok (.log t.launch t.idx off)
    else atHome
  else if t.logcnt != 0 then .ok (.log t.launch t.idx off)
  else atHome

/-- Where a home byte of a plain address is performed (R266). -/
def State.routeByte (s : State) (core : Nat) (store : Bool) (a : Word) (l : Loc) : Except Stop Dest :=
  match s.dirFind l with
  | none => .ok (.mem l)
  | some (d, off) => match s.readTile d.launch d.tile with
    | .error _ => .ok (.mem l)
    | .ok t => s.tileByte t core store false a off (.ok l)

/-- Gather results until the first failure. -/
def allOk {α β : Type} (f : α → Except Stop β) : List α → Except Stop (List β)
  | [] => .ok []
  | x :: t => match f x with
    | .error e => .error e
    | .ok y => match allOk f t with
      | .error e => .error e
      | .ok ys => .ok (y :: ys)

/-- The route of n bytes at a home location, within one line. -/
def State.routeAt (s : State) (core : Nat) (store : Bool) (a : Word) (l : Loc) (n : Nat) : Except Stop Route :=
  if s.async.dir.isEmpty || !s.dirMeets l n then .ok (.plain l n)
  else match allOk (fun i => s.routeByte core store a (l.plus i)) (List.range n) with
    | .error e => .error e
    | .ok ds => .ok (.split ds)

/-- Every place of a route is present. -/
def State.routePresent (s : State) (store : Bool) (a : Word) : Route → Except Stop Unit
  | .plain l _ => s.present store a l
  | .split ds => match allOk (fun d => match d with | .mem l => s.present store a l | .log _ _ _ => .ok ()) ds with
    | .error e => .error e
    | .ok _ => .ok ()

/-- A byte of a tile's home image. -/
def State.homeByte (s : State) (t : Tile) (off : Nat) : Byte :=
  match s.home (s.tileWho t.launch) .load (t.home + BitVec.ofNat 64 off) with
  | .ok l => s.peek l
  | .error _ => 0

/-- An uncorrectable error under a route (R249, R412). -/
def State.routeBad (s : State) : Route → Option Loc
  | .plain l n => if s.badIn l n then some l else none
  | .split ds => ds.findSome? (fun d => match d with
    | .mem l => if s.badIn l 1 then some l else none
    | .log _ _ _ => none)

/-- The places of a route. -/
def Route.locs : Route → List (Loc × Nat)
  | .plain l n => [(l, n)]
  | .split ds => ds.filterMap (fun d => match d with | .mem l => some (l, 1) | .log _ _ _ => none)

/-- Where a home byte lies in an area given by its homes in order. -/
def areaOffset (l : Loc) : List (Loc × Nat) → Nat → Option Nat
  | [], _ => none
  | (b, n) :: t, o => if b.store == l.store && b.addr ≤ l.addr && l.addr < b.addr + n then some (o + (l.addr - b.addr)) else areaOffset l t (o + n)

/-- The byte that a load finds at a home in an instance's area: the walker's count of a node (R63). -/
def GraphRun.areaByte (g : GraphRun) (l : Loc) : Option Byte :=
  (areaOffset l g.areaAt 0).bind (fun o =>
    if o / 4 < g.nnodes then some (BitVec.ofNat 8 ((kget g.counts (o / 4)).getD 0 / 256 ^ (o % 4))) else none)

/-- What a load reads at a home: what is stored there, but for the counts that the walker holds (R63). -/
def State.loadList (s : State) (l : Loc) (n : Nat) : List Byte :=
  if s.work.runs.any (fun (_, g) => g.areaAt.any (fun (b, m) => b.store == l.store && overlap b.addr m l.addr n)) then
    (List.range n).map (fun i => (s.work.runs.findSome? (fun (_, g) => g.areaByte (l.plus i))).getD (s.peek (l.plus i)))
  else s.peekList l n

/-- Read the bytes of a route, merging logs (R278). -/
def State.routeRead (s : State) : Route → List Byte
  | .plain l n => s.loadList l n
  | .split ds => ds.flatMap (fun d => match d with
    | .mem l => s.loadList l 1
    | .log launch tile off => match s.readTile launch tile with
      | .ok t => [(t.mergedByte ((s.logEntries t).map (·.2)) (s.homeByte t) off).1]
      | .error _ => [0])

/-- The log entries of some written bytes of one tile (R276): one for each element touched, ascending. -/
def Tile.storeEntries (t : Tile) (l : List (Nat × Byte)) : List LogEntry :=
  let mk (i mask value : Nat) : LogEntry := { index := i, op := 1, type := t.tag.toNat, mask, value, rsv := 0 }
  let es := (l.flatMap (fun (off, _) => t.byteElems off)).eraseDups
  if 8 ≤ t.ew then
    es.map (fun i =>
      let o := (t.elemOff i).1
      let mine := l.filter (fun (off, _) => o ≤ off && off < o + t.eb)
      mk i (mine.foldl (fun m (off, _) => m + 2 ^ (off - o)) 0) (mine.foldl (fun v (off, b) => v + b.toNat * 256 ^ (off - o)) 0))
  else es.map (fun i =>
    let (o, bit) := t.elemOff i
    let b := (l.find? (fun (off, _) => off == o)).elim 0 (·.2.toNat)
    mk i 1 (b / 2 ^ bit % 2 ^ t.ew))

/-- Append entries to a tile's log, in order. -/
def State.appendAll (s : State) (t : Tile) (b : Ev) : List LogEntry → Except Stop State
  | [] => .ok s
  | y :: r => match s.append t b y with
    | .error e => .error e
    | .ok s => s.appendAll t b r

/-- Log some bytes written into a tile's image. -/
def State.logBytes (s : State) (launch tile : Nat) (b : Ev) (l : List (Nat × Byte)) : Except Stop State :=
  match s.readTile launch tile with
  | .error e => .error (e.stop tile)
  | .ok t => match s.admitTile t none with
    | none => .error (.hold .tileLog)
    | some s => s.appendAll t b (t.storeEntries l)

/-- Write bytes along a route. -/
def State.routeWrite (s : State) (b : Ev) (bs : List Byte) : Route → Except Stop State
  | .plain l _ => .ok (s.poke l bs)
  | .split ds =>
    let z := ds.zip bs
    let s := z.foldl (fun s (d, x) => match d with | .mem l => s.poke l [x] | .log _ _ _ => s) s
    let logs := z.filterMap (fun (d, x) => match d with | .log launch tile off => some (launch, tile, off, x) | .mem _ => none)
    let tiles := (logs.map (fun (d, i, _, _) => (d, i))).eraseDups
    tiles.foldl (fun (r : Except Stop State) (d, i) => match r with
      | .error e => .error e
      | .ok s => s.logBytes d i b ((logs.filter (fun (d', i', _, _) => d' == d && i' == i)).map (fun (_, _, off, x) => (off, x))))
      (.ok s)

/-- Merge a nibble into one byte along a route (R255, R276): into what is stored there. -/
def State.routeNibble (s : State) (b : Ev) (hi : Bool) (v : Nat) (r : Route) : Except Stop State :=
  let merge (old : Byte) : Byte :=
    if hi then BitVec.ofNat 8 (old.toNat % 16 + v % 16 * 16) else BitVec.ofNat 8 (old.toNat / 16 * 16 + v % 16)
  match r with
  | .split [.log launch tile off] =>
    match s.readTile launch tile with
    | .error e => .error (e.stop tile)
    | .ok t =>
      if 8 ≤ t.ew then s.routeWrite b ((s.routeRead r).map merge) r
      else match s.admitTile t none with
        | none => .error (.hold .tileLog)
        | some s =>
          let all := t.storeEntries [(off, merge 0)]
          s.appendAll t b (all.filter (fun y => (4 ≤ (t.elemOff y.index).2) == hi))
  | _ => s.routeWrite b ((r.locs.flatMap (fun (l, n) => s.peekList l n)).map merge) r

/-! ## Range locks (R284) -/

/-- Whether an access meets the locks of its own core: a source range stops stores, a destination range stops stores, and a
destination range in global memory stops loads. -/
def State.lockHit (s : State) (w : Who) (core : Nat) (store : Bool) (a : Word) (n : Nat) : Bool :=
  (s.core core).locks.any (fun (_, x) =>
    match s.op? x.op with
    | none => false
    | some o =>
      o.ctx == w.ctx && spaceOf a == spaceOf x.base && overlap (offsetOf a) n (offsetOf x.base) x.len &&
        (!(spaceOf a == 0xD || spaceOf a == 0xE) || o.skein == w.skein) && (store || (x.dst && spaceOf x.base == 0)))

/-! ## Watchpoints (R417) -/

/-- The enabled watchpoints that an access of a kind (33 LD, 34 ST, 35 AT, 36 ER, 37 EW) meets. -/
def State.watchHits (s : State) (kind : Nat) (a : Word) (lane : Nat) (locs : List (Loc × Nat)) : List WatchHit :=
  s.panels.flatMap (fun (k, p) =>
    (List.range 4).filterMap (fun i =>
      match p.watches[i]? with
      | none => none
      | some x =>
        if x.ctl.getLsbD 38 && x.ctl.getLsbD kind &&
            x.home.any (fun (h, m) => locs.any (fun (l, n) => h.store == l.store && overlap h.addr m l.addr n)) then
          some { skein := p.skein, core := k / 4, num := i, addr := a, kind := kind % 32, lane }
        else none))

/-- The places where watchpoints see an engine's access of n bytes at a home: the home itself, and where its bytes are performed. -/
def Route.seen (r : Route) (l : Loc) (n : Nat) : List (Loc × Nat) :=
  match r with
  | .plain l n => [(l, n)]
  | r => (l, n) :: r.locs

/-! ## One strand's operand -/

/-- A checked operand: its address, its route, its home where it is not the route's, and the bit of a sub-byte element. -/
structure Opnd where
  a     : Word
  route : Route
  home  : List (Loc × Nat)
  bit   : Nat
  deriving DecidableEq, Repr

/-- The checks of R249 after the operand's own: presence, locks and errors. -/
def State.finishAccess (s : State) (w : Who) (core : Nat) (store reads : Bool) (a : Word) (n : Nat) (r : Route) :
    Except Stop Unit :=
  match s.routePresent store a r with
  | .error e => .error e
  | .ok _ =>
    if s.lockHit w core store a n then .error (Trp.stop Cause.rangelock 0 a)
    else if reads then match s.routeBad r with
      | some l => .error (eccStop l a)
      | none => .ok ()
    else .ok ()

/-- An access to an address of n bytes, aligned to n when n is 2 or more (R249, R253). -/
def State.reach (s : State) (w : Who) (core : Nat) (store reads : Bool) (a : Word) (n : Nat) : Except Stop Opnd :=
  if 2 ≤ n && a.toNat % n != 0 then .error (Trp.stop Cause.align 0 a) else
  match s.home w (if store then .store else .load) a with
  | .error e => .error (e.stop a)
  | .ok l => match s.routeAt core store a l n with
    | .error e => .error e
    | .ok r => match s.finishAccess w core store reads a n r with
      | .error e => .error e
      | .ok _ => .ok { a, route := r, home := [(l, n)], bit := 0 }

/-- The address that names an image byte of a tile now: its residence's, in the space the program named it in (R284), or its home's. -/
def Tile.byteAddr (t : Tile) (off : Nat) : Word :=
  match t.where_ with
  | 0 => t.home + BitVec.ofNat 64 off
  | 1 => BitVec.ofNat 64 (0xE * 2 ^ 60 + t.raddr + off)
  | 2 => BitVec.ofNat 64 (0xD * 2 ^ 60 + t.raddr + off)
  | _ => t.base + BitVec.ofNat 64 off

/-- An access to n image bytes of a tile from an offset (R256, R266). -/
def State.reachTile (s : State) (w : Who) (core : Nat) (store reads : Bool) (t : Tile) (off n bit : Nat) : Except Stop Opnd :=
  let a := t.byteAddr off
  let home (i : Nat) : Except Stop Loc :=
    match s.home (s.tileWho t.launch) (if store then .store else .load) (t.home + BitVec.ofNat 64 (off + i)) with
    | .ok l => .ok l
    | .error e => .error (e.stop a)
  match allOk (fun i => s.tileByte t core store true a (off + i) (home i)) (List.range n) with
  | .error e => .error e
  | .ok ds =>
    let r := Route.split ds
    match s.finishAccess w core store reads a n r with
    | .error e => .error e
    | .ok _ => .ok { a, route := r, home := (List.range n).filterMap (fun i => match home i with | .ok l => some (l, 1) | .error _ => none),
                     bit }

/-- The places an operand's watchpoints are matched at. -/
def Opnd.locs (o : Opnd) : List (Loc × Nat) := o.home ++ o.route.locs

/-- No watchpoint is enabled. -/
def State.unwatched (s : State) : Bool := s.panels.all (fun (_, p) => p.watches.toList.all (fun x => !x.ctl.getLsbD 38))

/-- Hits of one strand's accesses. -/
def State.opndHits (s : State) (kind : Nat) (l : List (Nat × Opnd)) : List WatchHit :=
  if s.unwatched then [] else l.flatMap (fun (i, o) => s.watchHits kind o.a i o.locs)

/-! ## Tile operands (R256) -/

/-- A tile handle of the issuing panel. -/
def State.handle? (s : State) (I : Iss) (r : Reg) : Option Handle :=
  match r with
  | .t i => (s.panel? I.core I.c.pslot).bind (fun p => p.handles[i.val]?)
  | _ => none

/-- FORMAT with the tile index (R256, R285). -/
def tileStop (detail : Byte) (idx : Nat) : Stop := Trp.stop Cause.format detail (BitVec.ofNat 64 idx)

/-- The tile a handle of the issuing panel is bound to (R287). The handle's tag, taken when it was bound, is checked against the
descriptor's (R200). -/
def State.boundTile (s : State) (I : Iss) (r : Reg) : Except Stop Tile :=
  match s.handle? I r, s.launchId I.c with
  | some h, some l =>
    if !h.bound then .error (tileStop 0x03 h.tile.toNat)
    else match s.readTile l h.tile.toNat with
      | .ok t => if t.tag == h.tag then .ok t else .error (tagStop r h.tag)
      | .error e => .error (e.stop h.tile.toNat)
  | _, _ => .error (tileStop 0x03 0)

/-- The element index of a tile operand (R110). -/
def tileIndex (f : Mem) (rd : Rd) : Nat := ((if f.x then rd.get f.sb else 0) + immWord f.disp).toNat

/-- The event template of a course's tile and log work (R295). -/
def State.workEv (s : State) (c : Course) (op : Nat) : Ev :=
  { source := State.copySrc op, type := 0, priv := true, cause := s.causeOf c, parent := s.parentOf c, ctx := s.skeinCtx c.skein }

end Sys2Proof.Machine
end

