-- ==== Sys2Proof/Machine/Saved.lean ====
section
/-! DEFINITION. Courses and panels by their place in a skein, the layout of a save area, and what lands in a saved image (R404,
R406 to R410). -/
namespace Sys2Proof.Machine

/-! ## By place in the skein -/

/-- The live course of a skein at panel p, course k. -/
def State.courseBy (s : State) (sk p k : Nat) : Option (Nat × Nat × Course) :=
  (s.skeinCourses sk).find? (fun (_, _, c) => c.f2 == p && c.f1 == k)

/-- The live panel of a skein. -/
def State.panelBy (s : State) (sk p : Nat) : Option (Nat × Nat × Panel) :=
  (s.skeinPanels sk).find? (fun (_, _, x) => x.f2 == p)

/-! ## The save area (R406) -/

def imgPanel (p : Nat) : Nat := 0x200 + 1024 * p
def imgCourse (h : Header) (p k : Nat) : Nat := 0x200 + 1024 * h.panels + 4096 * (p * h.courses + k)
def imgStrand (h : Header) (p k u : Nat) : Nat :=
  0x200 + 1024 * h.panels + 4096 * (h.panels * h.courses) + 1536 * ((p * h.courses + k) * 16 + u)
def imgEngine (h : Header) (m : Nat) : Nat :=
  0x200 + 1024 * h.panels + 4096 * (h.panels * h.courses) + 24576 * (h.panels * h.courses) + 262272 * m
def imgGranule (h : Header) (m j : Nat) : Nat := imgEngine h h.members + 131072 * (m * (h.ugran + h.sgran) + j)
def imgSize (h : Header) : Nat := imgGranule h h.members 0

/-- Read or write bytes of a saved skein's image through its context's tables. -/
def State.imgRead (s : State) (sk off n : Nat) : Except XFail (List Byte) :=
  match s.skein? sk with
  | none => .ok []
  | some k => s.readRange (s.tileWho k.launch) (k.saveBase + BitVec.ofNat 64 off) n
def State.imgWrite (s : State) (sk off : Nat) (bs : List Byte) : Except XFail State :=
  match s.skein? sk with
  | none => .ok s
  | some k => s.writeRange (s.tileWho k.launch) (k.saveBase + BitVec.ofNat 64 off) bs

/-- Change a field of a saved image; a fault writing a save area kills the context with reason 0x06 (R401). -/
def State.imgChange (s : State) (sk off n : Nat) (f : Nat → Nat) : State :=
  match s.imgRead sk off n with
  | .ok b => match s.imgWrite sk off (leBytes n (f (leNat b))) with
    | .ok s => s
    | .error _ => s.kill (s.skeinCtx sk) 6 { source := src 1 0, cause := s.skeinCause sk, parent := s.skeinParent sk }
  | .error _ => s.kill (s.skeinCtx sk) 6 { source := src 1 0, cause := s.skeinCause sk, parent := s.skeinParent sk }

def State.isSaved (s : State) (sk : Nat) : Bool := (s.skein? sk).elim false (fun k => k.phase == .saved)
def State.skeinHdr (s : State) (sk : Nat) : Option Header := (s.skein? sk).bind (fun k => (s.launch? k.launch).map (·.hdr))

/-! ## A granule of a restored skein (R405) -/

/-- The next line of a granule being restored is filled, from the image or from where it is still in place, with the condition its line was
in. When the last one is, the operation ends and the old granule is free. A fault in the save area kills the context (R401). -/
def State.fillLine (s : State) (id : Nat) (o : Op) (old new : Nat) (image : Option Nat) : State :=
  let from_ : Loc := ⟨.unit, old + 128 * o.cursor⟩
  let to_ : Loc := ⟨.unit, new + 128 * o.cursor⟩
  let got : Except XFail (List Byte) := match image, o.skein with
    | some off, some sk => s.imgRead sk (off + 128 * o.cursor) 128
    | _, _ => .ok (s.peekList from_ 128)
  match got with
  | .error _ => s.kill o.ctx 6 { source := src 1 0, cause := o.cause, parent := o.parent }
  | .ok bytes =>
    let here (l : Loc) : Bool := l.store == .unit && from_.addr ≤ l.addr && l.addr < from_.addr + 128
    let marks := (s.mem.absent.filter (fun (l, _) => l == from_)).map (fun (_, a) => (to_, a))
    let s := ({ s with mem := { s.mem with
      absent := marks ++ s.mem.absent.filter (fun (l, _) => l != from_ && l != to_)
      bad := s.mem.bad.map (fun l => if here l then ⟨.unit, l.addr - from_.addr + to_.addr⟩ else l) } } : State).poke to_ bytes
    if o.cursor + 1 < 1024 then s.setOp id { o with cursor := o.cursor + 1, moved := o.moved + 128 }
    else
      let s := s.endOp id
      if image.isSome then s else
      (s.modCore (old / 2 ^ 21) (fun c => { c with granules := kdel c.granules (old % 2 ^ 21 / 131072) })).wakeAffine

/-- A load's datum lands in its register, whose pending bit clears (R142, R258). -/
def State.landDatum (s : State) (id : Nat) (d : Datum) : State :=
  let s := { s with async := { s.async with data := kdel s.async.data id } }
  s.modCourse d.core d.slot (fun c => (c.writePend d.lane d.reg d.value).modSt d.lane (·.clearPend d.reg))

/-- An asynchronous operation of a course has ended: its outstanding count, in the course or in its image (R285, R404). -/
def State.landAsync (s : State) (who : Issuer) : State :=
  match who with
  | .course sk p k =>
    if s.isSaved sk then
      match s.skeinHdr sk with
      | some h => s.imgChange sk (imgCourse h p k + 0xC82) 2 (· - 1)
      | none => s
    else match s.courseBy sk p k with
      | some (core, slot, _) => s.modCourse core slot (fun c => { c with asyncOut := c.asyncOut - 1 })
      | none => s
  | _ => s

/-- A TFCH has ended: the handle's pending bit, in the panel or in its image (R287, R404). -/
def State.landHandle (s : State) (sk p handle : Nat) : State :=
  if s.isSaved sk then s.imgChange sk (imgPanel p + 8 * handle) 8 (fun v => v - v / 2 ^ 16 % 2 * 2 ^ 16)
  else match s.panelBy sk p with
    | some (core, i, _) => s.modPanel core i (fun x => { x with handles := match x.handles[handle]? with
        | some h => x.handles.setIfInBounds handle { h with pending := false }
        | none => x.handles })
    | none => s

end Sys2Proof.Machine
end

