-- ==== Sys2Proof/Machine/Float.lean ====
section
/-! DEFINITION. Floating-point instructions (R207 to R214). -/
namespace Sys2Proof.Machine

/-- T and the rounding mode of the modifier (R207). -/
def fpT (m : Byte) : Tag := m.extractLsb' 0 5
def fpRm (m : Byte) : Nat := bitsOf m.toNat 6 5

/-- CheckTag of one v source (R200). -/
def needTag (rd : Rd) (t : Tag) (r : Reg) : Except Stop Unit :=
  if (rd.vec r).tag == t then .ok () else .error (tagStop r (rd.vec r).tag)

/-- CheckTag of several v sources, in order. -/
def needTags (rd : Rd) : List (Tag × Reg) → Except Stop Unit
  | [] => .ok ()
  | (t, r) :: l => match needTag rd t r with
    | .error e => .error e
    | .ok _ => needTags rd l

/-- The source registers of a form, by their number. -/
def formSrcs (f : Gen) (n : Nat) : List Reg := [f.sa, f.sb, f.sc].take n

/-- The result of a form on one strand (R208): `op` on each lane, or on the low bits; a .v result is tagged `dt`. -/
def fpForm (f : Gen) (n : Nat) (dt : Tag) (op : (a b c : Nat) → Rnd) (rd : Rd) : Except Stop Res :=
  let T := fpT f.mod
  let w := tagWidth T
  if modV f.mod then
    match needTags rd ((formSrcs f n).map (fun r => (T, r))) with
    | .error e => .error e
    | .ok _ =>
      let src (k i : Nat) : Nat := match (formSrcs f n)[k]? with | some r => laneOf w (rd.vec r).bits i | none => 0
      let rs := (List.range (512 / w)).map (fun i => op (src 0 i) (src 1 i) (src 2 i))
      .ok { writes := [(f.dst, { bits := vecOfLanes w (rs.map (·.bits)), tag := dt, exps := 0 })],
            flags := rs.foldl (fun m r => m ||| r.flags) 0 }
  else
    let src (k : Nat) : Nat := match (formSrcs f n)[k]? with | some r => (rd.get r).toNat % 2 ^ w | none => 0
    let r := op (src 0) (src 1) (src 2)
    .ok { writes := [(f.dst, VReg.ofWord (BitVec.ofNat 64 r.bits))], flags := r.flags }

/-- An arithmetic form of values of T, rounded in RM (R208, R209). -/
def fpArith (f : Gen) (n : Nat) (op : Tag → Nat → FpNum → FpNum → FpNum → Rnd) : Rd → Except Stop Res :=
  let T := fpT f.mod
  fpForm f n T (fun a b c => op T (fpRm f.mod) (numOf T a) (numOf T b) (numOf T c))

/-- FADD. -/
def execFadd (f : Gen) (s : State) : Host.Outcome State Fault Refusal :=
  runReg s (.fadd f) false [] (fpArith f 2 (fun t rm a b _ => addRnd t rm a b))
/-- FSUB. -/
def execFsub (f : Gen) (s : State) : Host.Outcome State Fault Refusal :=
  runReg s (.fsub f) false [] (fpArith f 2 (fun t rm a b _ => addRnd t rm a b.neg))
/-- FMUL. -/
def execFmul (f : Gen) (s : State) : Host.Outcome State Fault Refusal :=
  runReg s (.fmul f) false [] (fpArith f 2 (fun t rm a b _ => mulRnd t rm a b))
/-- FMA: one rounding; NV for 0 × ∞ even when c is NaN. -/
def execFma (f : Gen) (s : State) : Host.Outcome State Fault Refusal := runReg s (.fma f) false [] (fpArith f 3 fmaRnd)
/-- FDIV. -/
def execFdiv (f : Gen) (s : State) : Host.Outcome State Fault Refusal :=
  runReg s (.fdiv f) false [] (fpArith f 2 (fun t rm a b _ => divRnd t rm a b))
/-- FSQRT. -/
def execFsqrt (f : Gen) (s : State) : Host.Outcome State Fault Refusal :=
  runReg s (.fsqrt f) false [] (fpArith f 1 (fun t rm a _ _ => sqrtRnd t rm a))
/-- FRCP. -/
def execFrcp (f : Gen) (s : State) : Host.Outcome State Fault Refusal :=
  runReg s (.frcp f) false [] (fpArith f 1 (fun t rm a _ _ => divRnd t rm (.fin false 1 0) a))
/-- FRSQ. -/
def execFrsq (f : Gen) (s : State) : Host.Outcome State Fault Refusal :=
  runReg s (.frsq f) false [] (fpArith f 1 (fun t rm a _ _ => rsqrtRnd t rm a))
/-- FEX2. -/
def execFex2 (f : Gen) (s : State) : Host.Outcome State Fault Refusal :=
  runReg s (.fex2 f) false [] (fpArith f 1 (fun t rm a _ _ => exp2Rnd t rm a))
/-- FLG2. -/
def execFlg2 (f : Gen) (s : State) : Host.Outcome State Fault Refusal :=
  runReg s (.flg2 f) false [] (fpArith f 1 (fun t rm a _ _ => log2Rnd t rm a))

/-- FMIN (R210). -/
def execFmin (f : Gen) (s : State) : Host.Outcome State Fault Refusal :=
  runReg s (.fmin f) false [] (fpForm f 2 (fpT f.mod) (fun a b _ => Rnd.exact (fpMinMax (fpT f.mod) false a b)))
/-- FMAX (R210). -/
def execFmax (f : Gen) (s : State) : Host.Outcome State Fault Refusal :=
  runReg s (.fmax f) false [] (fpForm f 2 (fpT f.mod) (fun a b _ => Rnd.exact (fpMinMax (fpT f.mod) true a b)))

/-- FCMP on one strand (R211): a predicate, or a bit for each lane. -/
def fcmpRes (f : Gen) (rd : Rd) : Except Stop Res :=
  let T := fpT f.mod
  let w := tagWidth T
  let cond := bitsOf f.imm.toNat 3 0
  if modV f.mod then
    match needTags rd [(T, f.sa), (T, f.sb)] with
    | .error e => .error e
    | .ok _ =>
      let rs := (List.range (512 / w)).map (fun i =>
        (i, fpCond cond (numOf T (laneOf w (rd.vec f.sa).bits i)) (numOf T (laneOf w (rd.vec f.sb).bits i))))
      .ok { writes := [(f.dst, VReg.ofWord (BitVec.ofNat 64 (rs.foldl (fun m (i, b, _) => if b then m + 2 ^ i else m) 0)))],
            flags := rs.foldl (fun m (_, _, g) => m ||| g) 0 }
  else
    let (b, g) := fpCond cond (numOf T (rd.get f.sa).toNat) (numOf T (rd.get f.sb).toNat)
    .ok { writes := [(f.dst, VReg.ofWord (if b then 1 else 0))], flags := g }

/-- FCMP (R211); its source values enter the spin fold. -/
def execFcmp (f : Gen) (s : State) : Host.Outcome State Fault Refusal :=
  runReg s (.fcmp f) false [.inl f.sa, .inl f.sb] (fcmpRes f)

/-! ## FCVT (R212) -/

/-- A tensor identifier is below NTENS (R205). -/
def needTensor (ntens tens : Nat) : Except Stop Unit :=
  if tens < ntens then .ok () else .error (Trp.stop Cause.format 0x06 (BitVec.ofNat 64 tens))

/-- The counter a conversion counts, keyed 3t + k (R205, R212). -/
def cntKeys (tens : Nat) (c : Cnt) : List Nat :=
  match c with
  | .none => []
  | .sat => [3 * tens]
  | .flush => [3 * tens + 1]
  | .nonfin => [3 * tens + 2]

/-- One lane from S to T, with its count: NONFIN when the source or the result is not finite (R212). -/
def cvtLane (S T : Tag) (rm a : Nat) : Rnd :=
  let x := numOf S a
  let r := (roundTo T rm x).largestOnly
  if x.isFin then r else { r with cnt := .nonfin }

/-- FCVT on one strand. -/
def fcvtRes (f : Gen) (ntens : Nat) (rd : Rd) : Except Stop Res :=
  let T := fpT f.mod
  let S : Tag := BitVec.ofNat 5 (bitsOf f.imm.toNat 4 0)
  let rm := fpRm f.mod
  let tens := bitsOf f.imm.toNat 27 16
  let ws := tagWidth S
  let wd := tagWidth T
  if modV f.mod then
    match needTag rd S f.sa with
    | .error e => .error e
    | .ok _ => match needTensor ntens tens with
      | .error e => .error e
      | .ok _ =>
        let L := 512 / max ws wd
        let P := bitsOf f.imm.toNat 10 8
        let src := (rd.vec f.sa).bits
        let rs := (List.range L).map (fun i => cvtLane S T rm (laneOf ws src (if ws < wd then P * L + i else i)))
        let lanes := if ws < wd then rs.map (·.bits)
          else (List.range (512 / wd)).map (fun j =>
            if P * L ≤ j && j < P * L + L then (rs[j - P * L]?).elim 0 (·.bits) else laneOf wd (rd.vec f.dst).bits j)
        .ok { writes := [(f.dst, { bits := vecOfLanes wd lanes, tag := T, exps := 0 })],
              flags := rs.foldl (fun m r => m ||| r.flags) 0, counts := rs.flatMap (fun r => cntKeys tens r.cnt) }
  else
    match needTensor ntens tens with
    | .error e => .error e
    | .ok _ =>
      let r := cvtLane S T rm (rd.get f.sa).toNat
      .ok { writes := [(f.dst, VReg.ofWord (extendTo (signedTag T) wd r.bits))], flags := r.flags, counts := cntKeys tens r.cnt }

/-- NTENS of the issuing course's launch (R43). -/
def State.ntens (s : State) : Nat :=
  match s.focus with
  | .course core slot => ((s.course? core slot).bind s.launchOf).elim 0 (·.hdr.ntens)
  | _ => 0

/-- FCVT (R212): a narrowing vector conversion reads its destination. -/
def execFcvt (f : Gen) (s : State) : Host.Outcome State Fault Refusal :=
  runReg s (.fcvt f) (modV f.mod && decide (tagWidth (fpT f.mod) < tagWidth (BitVec.ofNat 5 (bitsOf f.imm.toNat 4 0)))) []
    (fcvtRes f s.ntens)

/-- FCLS (R213). -/
def execFcls (f : Gen) (s : State) : Host.Outcome State Fault Refusal :=
  runReg s (.fcls f) false []
    (fpForm f 1 (intTagOf false (tagWidth (fpT f.mod))) (fun a _ _ => Rnd.exact (fpClass (fpT f.mod) a)))

/-- FRND (R214). -/
def execFrnd (f : Gen) (s : State) : Host.Outcome State Fault Refusal :=
  runReg s (.frnd f) false [] (fpArith f 1 (fun t rm a _ _ => rndIntegral t rm a))

end Sys2Proof.Machine
end

