-- ==== Sys2Proof/Machine/Vector.lean ====
section
/-! DEFINITION. Vector instructions (R215 to R229). -/
namespace Sys2Proof.Machine

/-! ## Lanes, masks and reductions -/

/-- The form's own modifier bits (R215). -/
def vecOp (m : Byte) : Nat := bitsOf m.toNat 7 5
/-- Bit I of VSPL, VEXT, VINS and XBRD. -/
def modI5 (m : Byte) : Bool := m.getLsbD 5

/-- A vector result. -/
def Res.vec (r : Reg) (bits : Vec) (tag : Tag) : Res := { writes := [(r, { bits, tag, exps := 0 })] }

/-- Combine two elements with OP of R221: the bits and the flags of an FP addition. -/
def redOp (T : Tag) (op : Nat) (x y : Nat × Flags) : Nat × Flags :=
  let n := tagWidth T
  let f := x.2 ||| y.2
  match op with
  | 0 =>
    if fpTag T then let r := addRnd T 0 (numOf T x.1) (numOf T y.1); (r.bits, f ||| r.flags)
    else ((x.1 + y.1) % 2 ^ n, f)
  | 1 => (if fpTag T then fpMinMax T false x.1 y.1 else intMinMax T false x.1 y.1, f)
  | 2 => (if fpTag T then fpMinMax T true x.1 y.1 else intMinMax T true x.1 y.1, f)
  | 3 => (x.1 &&& y.1, f)
  | 4 => (x.1 ||| y.1, f)
  | _ => (x.1 ^^^ y.1, f)

/-- The tree of R202; zero when every input is absent. -/
def redTree (T : Tag) (op : Nat) (l : List (Option Nat)) : Nat × Flags :=
  (treeFold (redOp T op) 10 (l.map (fun x => x.map (fun v => (v, 0))))).getD (0, 0)

/-- The scan of R221: an enabled element receives the combination so far, another keeps its own. -/
def redScan (T : Tag) (op : Nat) : Option (Nat × Flags) → List (Bool × Nat) → List Nat × Flags
  | acc, [] => ([], (acc.map (·.2)).getD 0)
  | acc, (on, x) :: t =>
    if on then
      let a := match acc with | none => (x, 0) | some a => redOp T op a (x, 0)
      let (l, f) := redScan T op (some a) t
      (a.1 :: l, f)
    else
      let (l, f) := redScan T op acc t
      (x :: l, f)

/-! ## VSPL to VSCN -/

/-- VSPL (R216). -/
def execVspl (f : Gen) (s : State) : Host.Outcome State Fault Refusal :=
  runReg s (.vspl f) false [] (fun rd =>
    let T := fpT f.mod
    let n := tagWidth T
    let v := if modI5 f.mod then f.imm.toNat else (rd.get f.sa).toNat
    .ok (Res.vec f.dst (vecOfLanes n (List.replicate (512 / n) (v % 2 ^ n))) T))

/-- Fresh exponent pairs for the strands, where a form that moves elements takes a WB type: the spec gives their values nowhere
(log 42); the pairs beyond the register's block count read as zero (R196). -/
def freeExps (s : State) (T : Tag) (lane : Nat) : Word :=
  if wbTag T then BitVec.ofNat 64 ((Config.freeWord (s.freeCount + lane)).toNat % 2 ^ (16 * wbBlocks T)) else 0
def State.takeExps (s : State) (T : Tag) : State := if wbTag T then { s with freeCount := s.freeCount + 16 } else s

/-- VPRM (R217). -/
def execVprm (f : Gen) (s : State) : Host.Outcome State Fault Refusal :=
  let T := fpT f.mod
  let n := tagWidth T
  runLanes (s.takeExps T) (.vprm f) false [] (fun lane rd =>
    match needTags rd [(T, f.sa), (intTagOf false n, f.sb)] with
    | .error e => .error e
    | .ok _ =>
      let a := (rd.vec f.sa).bits
      let b := (rd.vec f.sb).bits
      let v := vecOfLanes n ((vecLanes n b).map (fun i => laneOf n a (i % (512 / n))))
      .ok { writes := [(f.dst, { bits := v, tag := T, exps := freeExps s T lane })] })

/-- The lane index of VEXT and VINS, modulo L (R215, R218). -/
def laneIndex (f : Gen) (rd : Rd) : Nat :=
  (if modI5 f.mod then bitsOf f.imm.toNat 8 0 else (rd.get f.sb).toNat) % (512 / tagWidth (fpT f.mod))

/-- VEXT (R218). -/
def execVext (f : Gen) (s : State) : Host.Outcome State Fault Refusal :=
  runReg s (.vext f) false [] (fun rd =>
    let T := fpT f.mod
    match needTag rd T f.sa with
    | .error e => .error e
    | .ok _ => .ok (Res.word f.dst (BitVec.ofNat 64 (laneOf (tagWidth T) (rd.vec f.sa).bits (laneIndex f rd)))))

/-- VINS (R218): the destination is a source. -/
def execVins (f : Gen) (s : State) : Host.Outcome State Fault Refusal :=
  runReg s (.vins f) true [] (fun rd =>
    let T := fpT f.mod
    let n := tagWidth T
    match needTag rd T f.dst with
    | .error e => .error e
    | .ok _ => .ok (Res.vec f.dst
        (vecOfLanes n ((vecLanes n (rd.vec f.dst).bits).set (laneIndex f rd) ((rd.get f.sa).toNat % 2 ^ n))) T))

/-- The enabled lanes of VRED and VSCN (R221). -/
def laneOn (f : Gen) (rd : Rd) (i : Nat) : Bool := !f.imm.getLsbD 0 || (rd.get f.sb).getLsbD i

/-- VRED (R221): the tree of R202, zero when every lane is disabled. -/
def execVred (f : Gen) (s : State) : Host.Outcome State Fault Refusal :=
  runReg s (.vred f) false [] (fun rd =>
    let T := fpT f.mod
    match needTag rd T f.sa with
    | .error e => .error e
    | .ok _ =>
      let xs := (vecLanes (tagWidth T) (rd.vec f.sa).bits).zipIdx.map (fun (x, i) => if laneOn f rd i then some x else none)
      let (v, g) := redTree T (vecOp f.mod) xs
      .ok { writes := [(f.dst, VReg.ofWord (BitVec.ofNat 64 v))], flags := g })

/-- VSCN (R221). -/
def execVscn (f : Gen) (s : State) : Host.Outcome State Fault Refusal :=
  runReg s (.vscn f) false [] (fun rd =>
    let T := fpT f.mod
    let n := tagWidth T
    match needTag rd T f.sa with
    | .error e => .error e
    | .ok _ =>
      let xs := (vecLanes n (rd.vec f.sa).bits).zipIdx.map (fun (x, i) => (laneOn f rd i, x))
      let (l, g) := redScan T (vecOp f.mod) none xs
      .ok { Res.vec f.dst (vecOfLanes n l) T with flags := g })

/-! ## VSEL, VMSK, VTAG, VRAND -/

/-- VSEL (R219). -/
def execVsel (f : Gen) (s : State) : Host.Outcome State Fault Refusal :=
  let T := fpT f.mod
  let n := tagWidth T
  runLanes (s.takeExps T) (.vsel f) false [] (fun lane rd =>
    match needTags rd [(T, f.sa), (T, f.sb)] with
    | .error e => .error e
    | .ok _ =>
      let l := (List.range (512 / n)).map (fun i =>
        laneOf n (rd.vec (if (rd.get f.sc).getLsbD i then f.sa else f.sb)).bits i)
      .ok { writes := [(f.dst, { bits := vecOfLanes n l, tag := T, exps := freeExps s T lane })] })

/-- VMSK (R220). -/
def execVmsk (f : Gen) (s : State) : Host.Outcome State Fault Refusal :=
  runReg s (.vmsk f) false [] (fun rd =>
    let T := fpT f.mod
    let n := tagWidth T
    if bitsOf f.mod.toNat 6 5 == 2 then
      .ok (Res.vec f.dst (vecOfLanes n ((List.range (512 / n)).map (fun i => if (rd.get f.sa).getLsbD i then 2 ^ n - 1 else 0))) T)
    else match needTag rd T f.sa with
      | .error e => .error e
      | .ok _ =>
        let hit (x : Nat) : Bool := if bitsOf f.mod.toNat 6 5 == 0 then x != 0 else x.testBit (n - 1)
        let v := (vecLanes n (rd.vec f.sa).bits).zipIdx.foldl (fun m (x, i) => if hit x then m + 2 ^ i else m) 0
        .ok (Res.word f.dst (BitVec.ofNat 64 v)))

/-- VTAG (R224): the exponent word stays only between WB formats, and only the pairs the new format holds (R196). -/
def execVtag (f : Gen) (s : State) : Host.Outcome State Fault Refusal :=
  runReg s (.vtag f) false [] (fun rd =>
    let T := fpT f.mod
    let a := rd.vec f.sa
    let exps : Word := if wbTag a.tag && wbTag T then BitVec.ofNat 64 (a.exps.toNat % 2 ^ (16 * wbBlocks T)) else 0
    .ok { writes := [(f.dst, { bits := a.bits, tag := T, exps })] })

/-- One mixing pass of R225. -/
def randMix (x : Word) : Word :=
  let x := x ^^^ (x >>> 32)
  let x := x * 0xD6E8FEB86659FD93
  let x := x ^^^ (x >>> 29)
  let x := x * 0xA3B195354A39B70D
  x ^^^ (x >>> 32)

/-- The context's SEED as the instance holds it (R54). -/
def State.seedOf (s : State) : Word :=
  match s.focus with
  | .course core slot => ((s.course? core slot).bind s.launchOf).elim 0 (·.entry.seed)
  | _ => 0

/-- The 512 bits of VRAND for a strand's k0 and counter. -/
def vrandBits (seed k0 n : Word) : Vec :=
  vecOfLanes 64 ((List.range 8).map (fun j => (randMix (randMix (seed ^^^ k0) ^^^ (n * 8 + BitVec.ofNat 64 j))).toNat))

/-- VRAND (R225). It reads k0, which every strand has of its own, so only .u makes it uniform (R140). -/
def execVrand (f : Gen) (s : State) : Host.Outcome State Fault Refusal :=
  runCourse s (.vrand f) false [] (fun I s =>
    let I := { I with uni := f.u }
    (s, match I.store s (I.runs.map (fun i =>
        (i, Res.vec f.dst (vrandBits s.seedOf (I.c.read i (.k 0)) (I.c.read i f.sa)) (fpT f.mod)))) with
      | .error e => .error e
      | .ok s => .ok { s }))

/-! ## The block formats: VQNT and VDQN (R222, R223) -/

/-- Block k of a WB register: its two exponents and its elements (R196). -/
def wbElems (t : Tag) (bits : Vec) (k : Nat) : List Nat :=
  (List.range 32).map (fun i => laneOf (tagWidth t) bits (32 * k + i))
def wbPair (exps : Word) (k : Nat) : Nat × Nat := (bitsOf exps.toNat (16 * k + 7) (16 * k), bitsOf exps.toNat (16 * k + 15) (16 * k + 8))

/-- VQNT on one strand: it sets NX when an element's value is not the value it was converted from, and OF when one is clamped
(R193; log 42). -/
def vqntRes (f : Gen) (ntens : Nat) (rd : Rd) : Except Stop Res :=
  let T := fpT f.mod
  let w := tagWidth T
  let K := bitsOf f.imm.toNat 9 8
  let tens := bitsOf f.imm.toNat 27 16
  let a := rd.vec f.sa
  let two := f.sb != .w 0
  let src : Except Stop (List FpNum) :=
    if two then
      if a.tag != 0x15 then .error (tagStop f.sa a.tag)
      else if (rd.vec f.sb).tag != 0x15 then .error (tagStop f.sb (rd.vec f.sb).tag)
      else .ok ((vecLanes 32 a.bits ++ vecLanes 32 (rd.vec f.sb).bits).map (numOf 0x15))
    else if a.tag != 0x13 && a.tag != 0x14 then .error (tagStop f.sa a.tag)
    else .ok ((vecLanes 16 a.bits).map (numOf a.tag))
  match src with
  | .error e => .error e
  | .ok xs =>
    let d := rd.vec f.dst
    if K != 0 && d.tag != T then .error (tagStop f.dst d.tag) else
    match needTensor ntens tens with
    | .error e => .error e
    | .ok _ =>
      let b := wbConvert T xs
      let B := 32 * w
      let old := if K == 0 then (0, 0) else (d.bits.toNat, d.exps.toNat)
      let put (whole at_ n v : Nat) : Nat := whole - whole / 2 ^ at_ % 2 ^ n * 2 ^ at_ + v * 2 ^ at_
      .ok { writes := [(f.dst, { bits := BitVec.ofNat 512 (put old.1 (B * K) B (packLanes w b.elems)), tag := T,
                                 exps := BitVec.ofNat 64 (put old.2 (16 * K) 16 (b.e0 + b.e1 * 256)) })],
            flags := (if b.inexact then flagNX else 0) ||| (if b.sat = 0 then 0 else flagOF),
            counts := List.replicate b.sat (3 * tens) ++ List.replicate b.flush (3 * tens + 1) ++
              List.replicate b.nonfin (3 * tens + 2) }

/-- VQNT (R222): with K above 0 the destination is a source. -/
def execVqnt (f : Gen) (s : State) : Host.Outcome State Fault Refusal :=
  runReg s (.vqnt f) (bitsOf f.imm.toNat 9 8 != 0) [] (vqntRes f s.ntens)

/-- VDQN on one strand: a NaN block counts NONFIN once, each other element by its own conversion (R198). -/
def vdqnRes (f : Gen) (ntens : Nat) (rd : Rd) : Except Stop Res :=
  let T := fpT f.mod
  let K := bitsOf f.imm.toNat 9 8
  let tens := bitsOf f.imm.toNat 27 16
  let a := rd.vec f.sa
  if !wbTag a.tag then .error (tagStop f.sa a.tag)
  else if wbBlocks a.tag ≤ K then .error (illegalStop (encode (.vdqn f)) 0x03 8)
  else match needTensor ntens tens with
    | .error e => .error e
    | .ok _ =>
      let (e0, e1) := wbPair a.exps K
      let es := wbElems a.tag a.bits K
      let es := if T == 0x15 then (es.drop (if f.imm.getLsbD 10 then 16 else 0)).take 16 else es
      let rs := es.map (fun x => roundTo T (fpRm f.mod) (wbElem a.tag e0 e1 x))
      let keys := if e0 == 255 || e1 == 255 then [3 * tens + 2] else rs.flatMap (fun r => cntKeys tens r.cnt)
      .ok { Res.vec f.dst (vecOfLanes (tagWidth T) (rs.map (·.bits))) T with
            flags := rs.foldl (fun m r => m ||| r.flags) 0, counts := keys }

/-- VDQN (R223). -/
def execVdqn (f : Gen) (s : State) : Host.Outcome State Fault Refusal := runReg s (.vdqn f) false [] (vdqnRes f s.ntens)

/-! ## Polynomial packing (R226 to R229) -/

/-- INT64, the tag of packed vectors. -/
def packedTag : Tag := 0x0B

/-- g of the G field (R215). -/
def packG (f : Gen) : Nat := 8 * (bitsOf f.imm.toNat 17 16 + 1)

/-- VPACK (R227). -/
def execVpack (f : Gen) (s : State) : Host.Outcome State Fault Refusal :=
  runReg s (.vpack f) false [] (fun rd =>
    let T := fpT f.mod
    let n := tagWidth T
    match needTag rd T f.sa with
    | .error e => .error e
    | .ok _ =>
      let N := bitsOf f.imm.toNat 7 0
      let S := bitsOf f.imm.toNat 15 8
      let e (i : Nat) : Int :=
        let v := laneOf n (rd.vec f.sa).bits i
        if signedTag T then signExt v n else v
      let P := (List.range N).foldl (fun (p : Int) i =>
        p + e (if modI5 f.mod then S + N - 1 - i else S + i) * 2 ^ (packG f * i)) 0
      .ok (Res.vec f.dst (BitVec.ofNat 512 (wrapInt P 512)) packedTag))

/-- VPMUL (R228): the exact product over two registers. -/
def execVpmul (f : Gen) (s : State) : Host.Outcome State Fault Refusal :=
  runReg s (.vpmul f) false [] (fun rd =>
    match needTags rd [(packedTag, f.sa), (packedTag, f.sb)] with
    | .error e => .error e
    | .ok _ =>
      let p := wrapInt (signExt (rd.vec f.sa).bits.toNat 512 * signExt (rd.vec f.sb).bits.toNat 512) 1024
      .ok { writes := [(f.dst, { bits := BitVec.ofNat 512 p, tag := packedTag, exps := 0 }),
                       (nextV f.dst, { bits := BitVec.ofNat 512 (p / 2 ^ 512), tag := packedTag, exps := 0 })] })

/-- The low n balanced digits of a number in radix 2^g, lowest first (R229). -/
def digitsAll (g : Nat) : Nat → Int → List Int
  | 0, _ => []
  | n + 1, X => let d := signExt (wrapInt X g) g; d :: digitsAll g n ((X - d) / 2 ^ g)

/-- The digits of R229: `skip` digits are passed over, the next `n` are taken. -/
def digitsFrom (g skip n : Nat) (X : Int) : List Int := (digitsAll g (skip + n) X).drop skip

/-- VUNPK on one strand. -/
def vunpkRes (f : Gen) (rd : Rd) : Except Stop Res :=
  let T := fpT f.mod
  let pair := f.mod.getLsbD 6
  match needTags rd ((packedTag, f.sa) :: (if pair then [(packedTag, nextV f.sa)] else [])) with
  | .error e => .error e
  | .ok _ =>
    let g := packG f
    let h := bitsOf f.imm.toNat 23 20
    let lo := (rd.vec f.sa).bits.toNat
    let X : Int := if pair then signExt (lo + (rd.vec (nextV f.sa)).bits.toNat * 2 ^ 512) 1024 else signExt lo 512
    let ds := digitsFrom g (bitsOf f.imm.toNat 15 8) (bitsOf f.imm.toNat 7 0) X
    let dmin : Int := -(2 ^ (g - h - 1))
    let dmax : Int := 2 ^ (g - h - 1) - 1
    let bad := ds.zipIdx.foldl (fun m (d, j) => if d < dmin || dmax < d then m + 2 ^ j else m) 0
    if bad != 0 && !modI5 f.mod then .error (Trp.stop Cause.guard 0 (BitVec.ofNat 64 bad))
    else
      let n := tagWidth T
      .ok (Res.vec f.dst (vecOfLanes n (ds.map (fun d => wrapInt (max dmin (min dmax d)) n))) T)

/-- VUNPK (R229). With PAIR the register after SA is a source too, and U compares it (R140). -/
def execVunpk (f : Gen) (s : State) : Host.Outcome State Fault Refusal :=
  runLanes s (.vunpk f) false [] (fun _ => vunpkRes f) (if f.u && f.mod.getLsbD 6 then [nextV f.sa] else [])

end Sys2Proof.Machine
end

