-- ==== Sys2Proof/Machine/Transfers.lean ====
section
/-! DEFINITION. The copy engines: range locks, incoming lines, and the sectors of fetches, evictions, tile moves and copies, with
the log operations (R252, R265 to R272, R279 to R283, R287 to R291, R295). -/
namespace Sys2Proof.Machine

/-! ## Range locks (R283) -/

/-- The free numbers of a core's table. -/
def State.freeLockNums (s : State) (core : Nat) : List Nat :=
  (List.range 32).filter (fun i => (kget (s.core core).locks i).isNone)

/-- Register an operation's ranges; none when the table has too few free entries. -/
def State.takeLocks (s : State) (core op issuer : Nat) (l : List (Word × Nat × Bool)) : Option State :=
  let free := s.freeLockNums core
  if free.length < l.length then none else
  some (s.modCore core (fun k => { k with locks := (free.zip l).foldl (fun m (i, b, n, d) =>
    kset m i { base := b, len := n, dst := d, issuer := BitVec.ofNat 2 issuer, op }) k.locks }))

/-! ## Who an operation works for -/

/-- The tables and spaces an operation's accesses use. -/
def State.opWho (s : State) (o : Op) : Who :=
  match o.skein, o.launch, o.issuer with
  | some sk, _, _ => s.skeinWho sk o.core none
  | none, some l, _ => s.tileWho l
  | none, none, .node g _ =>
    { ctx := o.ctx, root := (kget s.work.runs g).elim 0 (·.entry.ptroot.toNat), skein := none, core := 0, launch := none,
      strand := none }
  | none, none, _ => s.whoOf o.ctx

/-- The event template of an operation (R295). -/
def State.opEv (s : State) (id : Nat) (o : Op) : Ev :=
  { source := State.copySrc id, type := 0, priv := true, cause := o.cause, parent := o.parent, ctx := o.ctx }

/-- Watch hits of an engine's access (R415, R417): WATCH_HIT, and the stop of an attached skein. -/
def State.engineHits (s : State) (cls core : Nat) (cause parent : Word32) (ctx kind : Nat) (a : Word) (locs : List (Loc × Nat)) :
    State :=
  if s.unwatched then s else
  (s.watchHits kind a 0 locs).foldl (fun s h =>
    let s := s.emit { source := src 1 0, type := 0xC8, priv := true, cause, parent, ctx,
                      payload := h.addr.toNat + h.num * 2 ^ 64 + h.kind * 2 ^ 66 + core * 2 ^ 71 + 0x1F * 2 ^ 79 + cls * 2 ^ 84 }
    if (s.skein? h.skein).elim false (·.attached) then
      s.debugStop h.skein { reason := 3, core := BitVec.ofNat 8 core, slot := 0x1F, pc := 0 } none
    else s) s

/-- Why a sector cannot move now. -/
inductive Sect where
  | fault (e : XFail) (a : Word)
  | ue (l : Loc) (a : Word)
  | wait
  deriving DecidableEq, Repr

/-- An operation is parked at a sector boundary: HOST_FAULT with its issuer code (R250, R280, R291). -/
def State.parkOp (s : State) (id : Nat) (o : Op) (issuer : Nat) (e : Sect) : State :=
  match e with
  | .wait => s
  | .fault e a => park s a e.detail e.lines
  | .ue l a => park (s.memUe l o.core o.cause o.parent o.ctx) a 0x01 []
where
  park (s : State) (a : Word) (detail : Byte) (lines : List Nat) : State :=
    (s.setOp id { o with fault := some 0 }).hostFault
      { who := .op id, ctx := o.ctx, cause := o.cause, parent := o.parent, addr := a, detail, core := BitVec.ofNat 8 o.core,
        slot := 0x1F, issuer := BitVec.ofNat 8 issuer, lines, tried := s.time.gt, due := false, again := false }

/-- A parked operation has gone on. -/
def State.opGoesOn (s : State) (id : Nat) : State := if s.async.faults.isEmpty then s else s.faultOver (.op id)

/-- The end of an operation of class 0x8: its counter with release, its course's count, its locks (R283, R285, R349). -/
def State.opDone (s : State) (id : Nat) (o : Op) : State :=
  let s := (s.opGoesOn id).endOp id
  let s := match o.signal with
    | some (i, cnum, incr) => s.signal o.ctx i cnum incr s.devNo 0 o.cause o.parent
    | none => s
  s.landAsync o.issuer

/-! ## Reading and writing for the engines -/

/-- A line that an engine reads must be present; it waits for a restore or for a line that another operation brings (R252, R266). The
sectors that its own operation does not cover keep their bytes (R270). -/
def State.lineFor (s : State) (own : Option Nat) (a : Word) (l : Loc) : Except Sect Unit :=
  match s.absentAt l with
  | none => .ok ()
  | some .poisoned => .error (.fault ⟨Xlate.poison, []⟩ a)
  | some (.incoming ops) => if own.any ops.contains then .ok () else .error .wait
  | some (.restore _) => .error .wait

/-- A line that an operation writes: its own incoming lines and poisoned ones may be written. -/
def State.lineTo (s : State) (id : Nat) (l : Loc) : Except Sect Unit :=
  match s.absentAt l with
  | none => .ok ()
  | some (.incoming ops) => if ops.contains id then .ok () else .error .wait
  | some (.restore _) => .error .wait
  | some .poisoned => .ok ()

/-- Read n bytes within one line along the routes of R266. -/
def State.engineRead (s : State) (own : Option Nat) (w : Who) (core : Nat) (a : Word) (n : Nat) : Except Sect (List Byte × List (Loc × Nat)) :=
  match s.home w .load a with
  | .error e => .error (.fault e a)
  | .ok l => match s.routeAt core false a l n with
    | .error (.trap t) => .error (.fault ⟨t.detail, t.lines⟩ a)
    | .error (.hold _) => .error .wait
    | .ok r =>
      match r.locs.findSome? (fun (p, _) => match s.lineFor own a p with | .error e => some e | .ok _ => none) with
      | some e => .error e
      | none => match s.routeBad r with
        | some l => .error (.ue l a)
        | none => .ok (s.routeRead r, r.seen l n)

/-- Read n bytes of a tile's home image without routing, or of its side array. -/
def State.homeRead (s : State) (own : Option Nat) (t : Tile) (a : Word) (n : Nat) : Except Sect (List Byte × List (Loc × Nat)) :=
  match s.home (s.tileWho t.launch) .load a with
  | .error e => .error (.fault e a)
  | .ok l => match s.lineFor own a l with
    | .error e => .error e
    | .ok _ => if s.badIn l n then .error (.ue l a) else .ok (s.peekList l n, [(l, n)])

/-- Write n bytes of a tile's home image or side array. -/
def State.homeWrite (s : State) (t : Tile) (a : Word) (b : List Byte) : Except Sect (State × List (Loc × Nat)) :=
  match s.home (s.tileWho t.launch) .store a with
  | .error e => .error (.fault e a)
  | .ok l => match s.lineFor none a l with
    | .error e => .error e
    | .ok _ => .ok (s.poke l b, [(l, b.length)])

/-- The home address of an image offset: the home image, then the side pairs (R265). -/
def Tile.homeAddr (t : Tile) (off : Nat) : Word :=
  if off < t.homeSize then t.home + BitVec.ofNat 64 off else t.side + BitVec.ofNat 64 (off - t.homeSize)
/-- How many bytes of a sector of the image stand at home: pairs are not padded there. -/
def Tile.homeLen (t : Tile) (off : Nat) : Nat :=
  if off < t.homeSize then 32 else min 32 (t.lines * t.perLine / 32 * 2 - (off - t.homeSize))

/-- Mark the 128-byte lines of some places as incoming; a poisoned line only when it is written whole (R252, R270). -/
def State.markIncoming (s : State) (id : Nat) (l : List (Loc × Nat)) : State :=
  l.foldl (fun s (p, n) =>
    match p.store, s.absentAt p with
    | .unit, some .poisoned | .die, some .poisoned => if n == 128 then s.setAbsent p (.incoming [id]) else s
    | .unit, none | .die, none => s.setAbsent p (.incoming [id])
    | .unit, some (.incoming ops) | .die, some (.incoming ops) => s.setAbsent p (.incoming (ops.filter (· != id) ++ [id]))
    | _, _ => s) s

/-- A line of a destination is present for an operation when the last of its sectors that the transfer covers has completed; it becomes
present when no other operation's sectors of it are outstanding (R270). -/
def State.linePresent (s : State) (id : Nat) (l : Loc) : State :=
  match s.absentAt l with
  | some (.incoming ops) =>
    let left := ops.filter (· != id)
    if left.isEmpty then s.setPresent l else s.setAbsent l (.incoming left)
  | _ => s

/-- The scratchpad lines of a destination, in pieces of a line, whatever space names them (R252, R270). -/
def State.destLines (s : State) (w : Who) (a : Word) (n : Nat) : List (Loc × Nat) :=
  if spaceOf a == 0 then
    (s.pages w a (n / 65536 + 2) 0 n).flatMap (fun (_, l, k) =>
      if l.store == .die then
        (List.range (k / 128 + 2)).filterMap (fun i =>
          let from_ := max l.addr ((l.addr / 128 + i) * 128)
          let to_ := min (l.addr + k) ((l.addr / 128 + i + 1) * 128)
          if from_ < to_ then some (⟨.die, from_⟩, to_ - from_) else none)
      else [])
  else match s.homes w .store a (n / 128 + 2) n with
    | .ok l => l
    | .error _ => []

/-! ## TFCH (R272, R287) -/

/-- Where the members' images of a multicast, or the one image of a residence, hold an offset. -/
def State.fetchTargets (s : State) (t : Tile) (o : Op) (mc : Bool) (off : Nat) : List (Nat × Loc) :=
  let cores := if mc then (o.skein.bind s.skein?).elim [] (·.cores) else [o.core]
  cores.filterMap (fun c => match s.resLoc t c off with | .ok l => some (c, l) | .error _ => none)

/-- A multicast destination's bank that fails (R272): its lines from there on stay absent, poisoned, and the fault is recorded. -/
def State.mcastFail (s : State) (id : Nat) (o : Op) (t : Tile) (core off : Nat) (l : Loc) : State :=
  let s := s.memUe l core o.cause o.parent o.ctx
  let first := off / 128
  let s := (List.range (ceilDiv t.imageSize 128 - first)).foldl (fun s i =>
    match s.resLoc t core (128 * (first + i)) with
    | .ok p => s.setAbsent p .poisoned
    | .error _ => s) s
  s.emit { s.opEv id o with
    type := 0x6D, err := true, payload := core + Cause.ecc.toNat * 2 ^ 8 + (t.raddr + off) / 128 * 128 * 2 ^ 16 }

/-- One sector of a fetch: the home sector with the log applied, at every destination; a read-only residence's changed sectors go home
too. -/
def State.fetchSector (s : State) (id : Nat) (o : Op) (t : Tile) (mc : Bool) (size : Nat) : Except Sect State :=
  let off := 32 * o.cursor
  let a := t.homeAddr off
  match s.homeRead (some id) t a (t.homeLen off) with
  | .error e => .error e
  | .ok (b, rl) =>
    let log := if off < t.homeSize then (s.logEntries t).map (·.2) else []
    let touched := log.any (fun y => !t.malformed y && (t.elemOff y.index).1 / 32 == o.cursor)
    let out := if touched then (List.range 32).map (fun j => t.mergedByte log (fun q => (b[q - off]?).getD 0) (off + j))
      else (b ++ List.replicate (32 - b.length) 0).map (fun x => (x, []))
    let bytes := out.map (·.1)
    let back : Except Sect State := if touched && !t.writable then
        match s.homeWrite t a bytes with
        | .error e => .error e
        | .ok (s, wl) => .ok (s.engineHits 3 o.core o.cause o.parent o.ctx 37 a wl)
      else .ok s
    match back with
    | .error e => .error e
    | .ok s =>
      let s := s.countStats (some t.launch) (out.flatMap (·.2))
      let s := s.engineHits 3 o.core o.cause o.parent o.ctx 36 a rl
      let last := off + 32 == size || (off + 32) % 128 == 0
      .ok ((s.fetchTargets t o mc off).foldl (fun s (c, l) =>
        if s.absentAt l == some .poisoned then s
        else if mc && s.badIn l 32 then s.mcastFail id o t c off l
        else
          let s := (s.poke l bytes).engineHits 3 o.core o.cause o.parent o.ctx 37 (t.byteAddr off) [(l, 32)]
          if last then s.linePresent id l else s) s)

/-! ## TEVC (R287) -/

/-- One sector of a write-back. -/
def State.evictSector (s : State) (o : Op) (t : Tile) : Except Sect State :=
  let off := 32 * o.cursor
  match s.resLoc t o.core off with
  | .error e => .error (.fault e (t.byteAddr off))
  | .ok l => match s.lineFor none (t.byteAddr off) l with
    | .error e => .error e
    | .ok _ =>
      if s.badIn l 32 then .error (.ue l (t.byteAddr off)) else
      match s.homeWrite t (t.homeAddr off) ((s.peekList l 32).take (t.homeLen off)) with
      | .error e => .error e
      | .ok (s, wl) =>
        .ok ((s.engineHits 3 o.core o.cause o.parent o.ctx 36 (t.byteAddr off) [(l, 32)]).engineHits 3 o.core o.cause o.parent
          o.ctx 37 (t.homeAddr off) wl)

/-! ## TMOV (R288): elements, pairs and planes of a tile -/

/-- An image byte of a tile as an engine reads it: the residence, or a merged read at home. -/
def State.imageByte (s : State) (t : Tile) (core off : Nat) : Except Sect Byte :=
  if t.resident then
    match s.resLoc t core off with
    | .error e => .error (.fault e (t.byteAddr off))
    | .ok l => match s.lineFor none (t.byteAddr off) l with
      | .error e => .error e
      | .ok _ => if s.badIn l 1 then .error (.ue l (t.byteAddr off)) else .ok (s.peek l)
  else
    let a := t.homeAddr off
    match s.homeRead none t a 1 with
    | .error e => .error e
    | .ok (b, _) =>
      if t.logcnt == 0 || t.homeSize ≤ off then .ok (b.headD 0)
      else .ok (t.mergedByte ((s.logEntries t).map (·.2)) (s.homeByte t) off).1

/-- Gather results until the first that fails. -/
def allSect {α β : Type} (f : α → Except Sect β) : List α → Except Sect (List β)
  | [] => .ok []
  | x :: l => match f x with
    | .error e => .error e
    | .ok y => match allSect f l with
      | .error e => .error e
      | .ok ys => .ok (y :: ys)

/-- Image bytes as a number. -/
def State.imageNat (s : State) (t : Tile) (core off n : Nat) : Except Sect Nat :=
  match allSect (fun i => s.imageByte t core (off + i)) (List.range n) with
  | .error e => .error e
  | .ok b => .ok (leNat b)

/-- Byte offset of the plane block of an element (R269). -/
def Tile.planeOff (t : Tile) (line pos : Nat) : Nat := line * t.pitch + pos / 32 * (planeSize t.tag).getD 0

/-- The bits of an element at a line and position: selector above the mantissa for WB, from planes in plane layout (R187, R269). -/
def State.elemAtPos (s : State) (t : Tile) (core line pos : Nat) : Except Sect Nat :=
  if t.layout == 2 then
    let base := t.planeOff line pos + (if wbTag t.tag then 4 else 0)
    let planes := tagWidth t.tag
    match allSect (fun k => s.imageNat t core (base + 4 * k) 4) (List.range planes) with
    | .error e => .error e
    | .ok ws =>
      let bit (k : Nat) : Nat := (((ws[k]?).getD 0) >>> (pos % 32)) % 2
      -- for WB the first plane is the selector, the top bit of the element
      .ok ((List.range planes).foldl (fun v k =>
        v + bit k * 2 ^ (if wbTag t.tag then (if k == 0 then planes - 1 else k - 1) else k)) 0)
  else
    let o := line * t.pitch + pos * t.ew / 8
    match s.imageNat t core o t.eb with
    | .error e => .error e
    | .ok v => .ok (v / 2 ^ (pos * t.ew % 8) % 2 ^ t.ew)

/-- The exponent pair of a block (R195, R265, R269). -/
def State.pairAt (s : State) (t : Tile) (core line blk : Nat) : Except Sect (Nat × Nat) :=
  match s.imageNat t core (if t.layout == 2 then t.planeOff line (32 * blk) else t.homeSize + (line * t.perLine / 32 + blk) * 2) 2 with
  | .error e => .error e
  | .ok v => .ok (v % 256, v / 256)

/-- The line and position that hold a row and column. -/
def Tile.posOf (t : Tile) (r c : Nat) : Nat × Nat := if t.layout == 1 then (c, r) else (r, c)
/-- The row and column at a line and position. -/
def Tile.rowCol (t : Tile) (line pos : Nat) : Nat × Nat := if t.layout == 1 then (pos, line) else (line, pos)

/-- The value of an element. -/
def State.valueAt (s : State) (t : Tile) (core line pos : Nat) : Except Sect FpNum :=
  match s.elemAtPos t core line pos with
  | .error e => .error e
  | .ok v =>
    if wbTag t.tag then match s.pairAt t core line (pos / 32) with
      | .error e => .error e
      | .ok (e0, e1) => .ok (wbElem t.tag e0 e1 v)
    else .ok (numOf t.tag v)

/-- The source place of a destination place, transposed under TR. -/
def movSource (d a : Tile) (tr : Bool) (line pos : Nat) : Nat × Nat :=
  let (r, c) := d.rowCol line pos
  if tr then a.posOf c r else a.posOf r c

/-- A converted element of a destination that is not WB, and its counts (R212, R288): a NaN block is counted once, at its first element. -/
def State.movElem (s : State) (core : Nat) (d a : Tile) (tr : Bool) (rm line pos : Nat) : Except Sect (Nat × List Nat) :=
  let (l, p) := movSource d a tr line pos
  if a.tag == d.tag then match s.elemAtPos a core l p with | .error e => .error e | .ok v => .ok (v, [])
  else match s.valueAt a core l p with
    | .error e => .error e
    | .ok x =>
      let r := (roundTo d.tag rm x).largestOnly
      if wbTag a.tag then
        .ok (r.bits, if x.isNan then (if p % 32 == 0 then [3 * d.tensor + 2] else []) else cntKeys d.tensor r.cnt)
      else .ok (r.bits, cntKeys d.tensor (if x.isFin then r.cnt else .nonfin))

/-- A destination WB block: its exponents, elements and counts (R197, R288). -/
def State.movBlock (s : State) (core : Nat) (d a : Tile) (tr : Bool) (line blk : Nat) : Except Sect (Nat × Nat × List Nat × List Nat) :=
  let src_ := (List.range 32).map (fun i => movSource d a tr line (32 * blk + i))
  let (l0, p0) := src_.headD (0, 0)
  let same := a.tag == d.tag && p0 % 32 == 0 && src_ == (List.range 32).map (fun i => (l0, p0 + i))
  if same then
    match allSect (fun (l, p) => s.elemAtPos a core l p) src_, s.pairAt a core l0 (p0 / 32) with
    | .error e, _ => .error e
    | _, .error e => .error e
    | .ok es, .ok (e0, e1) => .ok (e0, e1, es, [])
  else match allSect (fun (l, p) => s.valueAt a core l p) src_ with
    | .error e => .error e
    | .ok xs =>
      let b := wbConvert d.tag xs
      .ok (b.e0, b.e1, b.elems, List.replicate b.sat (3 * d.tensor) ++ List.replicate b.flush (3 * d.tensor + 1) ++
        List.replicate b.nonfin (3 * d.tensor + 2))

/-- The bytes of a plane block (R269). -/
def planeBytes (t : Tag) (e0 e1 : Nat) (es : List Nat) : List Byte :=
  let plane (k : Nat) : List Byte := leBytes 4 (es.zipIdx.foldl (fun m (v, i) => if v.testBit k then m + 2 ^ i else m) 0)
  let n := tagWidth t
  let body := if wbTag t then
      leBytes 2 (e0 + e1 * 256) ++ [0, 0] ++ plane (n - 1) ++ (List.range (n - 1)).flatMap plane
    else (List.range n).flatMap plane
  body ++ List.replicate ((planeSize t).getD 0 - body.length) 0

/-- What a tile move writes over one destination sector: bytes by image offset, and counts. -/
def State.movSector (s : State) (core : Nat) (d a : Tile) (tr : Bool) (rm off : Nat) : Except Sect (List (Nat × Byte) × List Nat) :=
  let inSector (l : List (Nat × Byte)) : List (Nat × Byte) := l.filter (fun (o, _) => off ≤ o && o < off + 32)
  let at_ (o : Nat) (b : List Byte) : List (Nat × Byte) := b.zipIdx.map (fun (x, i) => (o + i, x))
  let counts (o : Nat) (c : List Nat) : List Nat := if off ≤ o && o < off + 32 then c else []
  if d.homeSize ≤ off then
    -- the side pairs
    let q0 := (off - d.homeSize) / 2
    let n := d.lines * d.perLine / 32
    match allSect (fun j =>
        let q := q0 + j
        match s.movBlock core d a tr (q * 32 / d.perLine) (q * 32 % d.perLine / 32) with
        | .error e => .error e
        | .ok (e0, e1, _, _) => .ok (at_ (d.homeSize + 2 * q) (leBytes 2 (e0 + e1 * 256)))) (List.range (min 16 (n - q0))) with
    | .error e => .error e
    | .ok l => .ok (l.flatMap id, [])
  else
    let line := off / d.pitch
    let inLine := off % d.pitch
    if d.layout == 2 then
      let B := (planeSize d.tag).getD 1
      let blocks := (List.range (32 / B + 2)).map (· + inLine / B) |>.filter (fun k => k < d.cols / 32)
      match allSect (fun k =>
          let o := line * d.pitch + k * B
          if wbTag d.tag then match s.movBlock core d a tr line k with
            | .error e => .error e
            | .ok (e0, e1, es, c) => .ok (at_ o (planeBytes d.tag e0 e1 es), counts o c)
          else match allSect (fun i => s.movElem core d a tr rm line (32 * k + i)) (List.range 32) with
            | .error e => .error e
            | .ok es => .ok (at_ o (planeBytes d.tag 0 0 (es.map (·.1))), counts o (es.flatMap (·.2)))) blocks with
      | .error e => .error e
      | .ok l => .ok (inSector (l.flatMap (·.1)), l.flatMap (·.2))
    else if wbTag d.tag then
      let B := 4 * d.ew
      let blocks := (List.range (32 / B + 2)).map (· + inLine / B) |>.filter (fun k => k < d.perLine / 32)
      match allSect (fun k =>
          let o := line * d.pitch + k * B
          match s.movBlock core d a tr line k with
          | .error e => .error e
          | .ok (_, _, es, c) => .ok (at_ o (leBytes B (packLanes d.ew es)), counts o c)) blocks with
      | .error e => .error e
      | .ok l => .ok (inSector (l.flatMap (·.1)), l.flatMap (·.2))
    else
      let first := inLine * 8 / d.ew
      let ps := (List.range (256 / d.ew)).map (· + first) |>.filter (fun p => p < d.perLine)
      match allSect (fun p => match s.movElem core d a tr rm line p with
          | .error e => .error e
          | .ok (v, c) => .ok (p, v, c)) ps with
      | .error e => .error e
      | .ok l =>
        let c := l.flatMap (fun (_, _, c) => c)
        if 8 ≤ d.ew then .ok (l.flatMap (fun (p, v, _) => at_ (line * d.pitch + p * d.eb) (leBytes d.eb v)), c)
        else
          let per := 8 / d.ew
          .ok ((chunksOf per 33 l).map (fun g =>
            let o := line * d.pitch + ((g.head?).elim 0 (·.1)) / per
            let v := g.foldl (fun m (p, v, _) => m + v * 2 ^ (p % per * d.ew)) 0
            -- bits beyond the last element of a line keep the destination's
            let keep := match s.resLoc d core o with | .ok l => (s.peek l).toNat / 2 ^ (g.length * d.ew) * 2 ^ (g.length * d.ew) | .error _ => 0
            (o, BitVec.ofNat 8 (v + keep))), c)

/-- The elements that a sector of a tile move's destination takes. -/
def Tile.sectorElems (d : Tile) (off : Nat) : List (Nat × Nat) :=
  if d.homeSize ≤ off then
    let q0 := (off - d.homeSize) / 2
    (List.range (min 16 (d.lines * d.perLine / 32 - q0))).flatMap (fun j =>
      (List.range 32).map (fun i => ((q0 + j) * 32 / d.perLine, (q0 + j) * 32 % d.perLine + i)))
  else
    let line := off / d.pitch
    let inLine := off % d.pitch
    if d.layout == 2 || wbTag d.tag then
      let B := if d.layout == 2 then (planeSize d.tag).getD 1 else 4 * d.ew
      ((List.range (32 / B + 2)).map (· + inLine / B)).filter (fun k => k < d.perLine / 32) |>.flatMap (fun k =>
        (List.range 32).map (fun i => (line, 32 * k + i)))
    else ((List.range (256 / d.ew)).map (· + inLine * 8 / d.ew)).filter (fun p => p < d.perLine) |>.map (fun p => (line, p))

/-- The image offsets and sizes of an element's bytes: its own, or its plane block's, and its pair's. -/
def Tile.elemSpan (a : Tile) (line pos : Nat) : List (Nat × Nat) :=
  if a.layout == 2 then [(a.planeOff line (pos / 32 * 32), (planeSize a.tag).getD 1)]
  else (line * a.pitch + pos * a.ew / 8, a.eb) ::
    (if wbTag a.tag then [(a.homeSize + (line * a.perLine / 32 + pos / 32) * 2, 2)] else [])

/-- Watch hits of the source bytes that a sector of a tile move reads (R417). -/
def State.movHits (s : State) (o : Op) (d a : Tile) (tr : Bool) (off : Nat) : State :=
  if s.unwatched then s else
  let spans := ((d.sectorElems off).flatMap (fun (l, p) =>
    let (l, p) := movSource d a tr l p
    a.elemSpan l p)).eraseDups
  let at_ (o2 : Nat) : Option Loc :=
    (if a.resident then s.resLoc a o.core o2 else s.home (s.tileWho a.launch) .load (a.homeAddr o2)).toOption
  match spans with
  | [] => s
  | (o2, _) :: _ => s.engineHits 3 o.core o.cause o.parent o.ctx 36 (if a.resident then a.byteAddr o2 else a.homeAddr o2)
      (spans.filterMap (fun (o2, n) => (at_ o2).map (fun l => (l, n))))

/-- One sector of a tile move. -/
def State.moveSector (s : State) (id : Nat) (o : Op) (d a : Tile) (tr : Bool) (rm : Nat) : Except Sect State :=
  let off := 32 * o.cursor
  match s.resLoc d o.core off with
  | .error e => .error (.fault e (d.byteAddr off))
  | .ok l => match s.lineTo id l with
    | .error e => .error e
    | .ok _ => match s.movSector o.core d a tr rm off with
      | .error e => .error e
      | .ok (bs, c) =>
        let s := bs.foldl (fun s (q, x) => s.poke ⟨l.store, l.addr + (q - off)⟩ [x]) s
        let s := ((s.countStats (some d.launch) c).movHits o d a tr off).engineHits 3 o.core o.cause o.parent o.ctx 37 (d.byteAddr off) [(l, 32)]
        .ok (if off + 32 == d.imageSize || (off + 32) % 128 == 0 then s.linePresent id l else s)

/-! ## Copies (R281, R282, R291) -/

/-- How a strand's stop is an engine's: what a strand waits for the engine waits for. -/
def Stop.sect (a : Word) : Stop → Sect
  | .trap t => .fault ⟨t.detail, t.lines⟩ a
  | .hold _ => .wait

/-- Write one sector of a copy's destination along the routes of R266 and R282; its line becomes present with its last sector. -/
def State.copyOut (s : State) (id : Nat) (o : Op) (dst : Word) (len : Nat) (b : List Byte) : Except Sect State :=
  let a := dst + BitVec.ofNat 64 (32 * o.cursor)
  match s.home (s.opWho o) .store a with
  | .error e => .error (.fault e a)
  | .ok l => match s.routeAt o.core true a l 32 with
    | .error e => .error (e.sect a)
    | .ok r =>
      match r.locs.findSome? (fun (p, _) => match s.lineTo id p with | .error e => some e | .ok _ => none) with
      | some e => .error e
      | none => match s.routeWrite (s.opEv id o) b r with
        | .error e => .error (e.sect a)
        | .ok s =>
          let s := s.engineHits 3 o.core o.cause o.parent o.ctx 37 a (r.seen l 32)
          .ok (if 32 * o.cursor + 32 == len || (a.toNat + 32) % 128 == 0 then s.linePresent id l else s)

/-- One sector of CPY or of a COPY node: the source is routed or merged. -/
def State.copySector (s : State) (id : Nat) (o : Op) (from_ dst : Word) (len : Nat) : Except Sect State :=
  let a := from_ + BitVec.ofNat 64 (32 * o.cursor)
  match s.engineRead (some id) (s.opWho o) o.core a 32 with
  | .error e => .error e
  | .ok (b, rl) => (s.engineHits 3 o.core o.cause o.parent o.ctx 36 a rl).copyOut id o dst len b

/-- One sector of a snapshot copy: home bytes without merging. -/
def State.snapSector (s : State) (id : Nat) (o : Op) (t : Tile) (dst : Word) (len : Nat) : Except Sect State :=
  let a := t.home + BitVec.ofNat 64 (32 * o.cursor)
  match s.homeRead (some id) t a 32 with
  | .error e => .error e
  | .ok (b, rl) => (s.engineHits 3 o.core o.cause o.parent o.ctx 36 a rl).copyOut id o dst len b

/-! ## One sector of any transfer (R270) -/

/-- Bytes a transfer moves, and whether it has started. -/
def OpKind.bytes : OpKind → Nat
  | .fetch _ _ _ _ _ size _ _ => size
  | .evict _ _ size _ => size
  | .copy _ _ len _ => len
  | .snap _ _ size _ => size
  | _ => 0

/-- The number of sectors of an operation. -/
def State.opSectors (s : State) (o : Op) : Nat :=
  match o.kind with
  | .move d _ _ _ _ => match o.launch with
    | some l => match s.readTile l d with | .ok t => t.imageSize / 32 | .error _ => 0
    | none => 0
  | .evict t _ size drop => if drop || size == 0 then 0 else match o.launch with
    | some l => match s.readTile l t with | .ok x => if x.writable then size / 32 else 0 | .error _ => 0
    | none => 0
  | k => k.bytes / 32

/-- Every sector of a started transfer has completed. -/
def State.opMoved (s : State) (o : Op) : Bool :=
  (match o.kind with | .snap _ _ _ started => started | _ => true) && s.opSectors o ≤ o.cursor

/-- A descriptor of an operation's launch, or the fault that stops the operation. -/
def State.opTile (s : State) (o : Op) (idx : Nat) : Except Sect Tile :=
  match o.launch with
  | none => .error .wait
  | some l => match s.readTile l idx with
    | .ok t => .ok t
    | .error (.xlate e a) => .error (.fault e a)
    | .error .format => .error (.fault ⟨Xlate.table, []⟩ (BitVec.ofNat 64 idx))

/-- The next sector of an operation. -/
def State.nextSector (s : State) (id : Nat) (o : Op) : Except Sect State :=
  match o.kind with
  | .fetch _ _ tile _ _ size _ mc => match s.opTile o tile with
    | .error e => .error e
    | .ok t => s.fetchSector id o t mc size
  | .evict tile _ _ _ => match s.opTile o tile with
    | .error e => .error e
    | .ok t => if s.fetchRuns t.launch tile then .error .wait else s.evictSector o t
  | .move d a tr _ rm => match s.opTile o d, s.opTile o a with
    | .ok x, .ok y => s.moveSector id o x y tr rm.toNat
    | .error e, _ => .error e
    | _, .error e => .error e
  | .copy from_ dst len _ => s.copySector id o from_ dst len
  | .snap tile dst size _ => match s.opTile o tile with
    | .error e => .error e
    | .ok t => s.snapSector id o t dst size
  | _ => .error .wait

/-! ## The ends of transfers -/

/-- TILE_FETCH (R287): LOGCNT is cleared, the handle's pending bit clears, the counter is signalled. -/
def execTileFetch (id : Nat) (s : State) : Host.Outcome State Fault Refusal :=
  match s.op? id with
  | none => .next s
  | some o => match o.kind, o.launch, o.skein with
    | .fetch p handle tile res _ _ applied mc, some l, some sk =>
      if !s.opMoved o then .next s else
      let s := match s.readTile l tile with
        | .ok t => if t.logcnt == 0 then s else (s.dropMalformed t (s.opEv id o)).setTile t 0x34 2 0
        | .error _ => s
      let s := s.setDir (s.async.dir.map (fun d =>
        if d.launch == l && d.tile == tile then { d with inDur := s.time.gt - o.started } else d))
      let s := (s.landHandle sk p handle).emit
        { s.opEv id o with type := 0x68, payload := tile + applied * 2 ^ 16 + bitsOf res.toNat 1 0 * 2 ^ 32 +
            (if res.getLsbD 2 then 2 ^ 34 else 0) + (if mc then 2 ^ 35 else 0) }
      .next (s.opDone id o)
    | _, _, _ => .next s

/-- A duration in units of 64 gt, saturated (R436). -/
def dur64 (n : Nat) : Nat := min (n / 64) 0xFFFFFF
def durOver (l : List Nat) : Nat := if l.any (fun n => 0xFFFFFF < n / 64) then 2 ^ 90 else 0

/-- The stamp of a residence that ends, when TRCTL[16] asks for it (R436, R437). -/
def State.residenceStamp (s : State) (ev : Ev) (launch tile : Nat) (started : Nat) (back : Bool) : State :=
  match s.launch? launch with
  | none => s
  | some v =>
    if !v.hdr.trctl.getLsbD 16 then s else
    let d := s.dirOf launch tile
    let out := if back then s.time.gt - started else 0
    let all := d.elim 0 (fun d => s.time.gt - d.inAt)
    let inn := d.elim 0 (·.inDur)
    let payload := 2 + tile * 2 ^ 4 + dur64 all * 2 ^ 16 + dur64 inn * 2 ^ 40 + dur64 out * 2 ^ 64 +
      (if back then 0 else 2 ^ 88) + durOver [all, inn, out]
    s.traceEv launch { ev with type := 0xD4, payload }

/-- An operation that a launch's retirement makes: its issuer is the launch's node. -/
def State.retireOp (s : State) (l : Nat) (v : Launch) (kind : OpKind) : State :=
  let (id, s) := s.newId
  s.setOp id { kind, ctx := v.ctx, launch := some l, skein := none, issuer := .node v.run v.node, core := 0, cause := v.cause,
               parent := v.parent, signal := none, cursor := 0, started := s.time.gt, moved := 0, doneAt := 0, waiting := false,
               fault := none }

/-- Steps 1 to 6 of R438 as far as they can go now: the residences left in die scratchpad are evicted, then the logs are applied at home,
and when both have completed the launch ends. -/
def State.retireCheck (s : State) (l : Nat) : State :=
  match s.launch? l with
  | none => s
  | some v =>
    if v.bound < v.hdr.e3 * v.hdr.e4 * v.hdr.e5 || s.async.ops.any (fun (_, o) => o.launch == some l && o.issuer == .node v.run v.node) then s
    else
      let tiles := (List.range v.hdr.ttcount).filterMap (fun i => match s.readTile l i with | .ok t => some t | .error _ => none)
      let here := tiles.filter (fun t => t.resident)
      let logs := tiles.filter (fun t => t.logcnt != 0)
      if !here.isEmpty then
        let s := s.setDir (s.async.dir.map (fun d => if d.launch == l && here.any (fun t => t.idx == d.tile) then { d with evicting := true } else d))
        here.foldl (fun s t => s.retireOp l v (.evict t.idx t.res t.imageSize false)) s
      else if !logs.isEmpty then
        (logs.foldl (fun s t => s.retireOp l v (.log t.idx 1)) s).modLaunch l (fun v => { v with applied := v.applied + logs.length })
      else s.finishLaunch l 0 v.applied

/-- TILE_EVICT (R287): once a fetch of the tile that still runs has completed, the residence ends; RES is zeroed, the directory lets the tile go, the counter is signalled. -/
def execTileEvict (id : Nat) (s : State) : Host.Outcome State Fault Refusal :=
  match s.op? id with
  | none => .next s
  | some o => match o.kind, o.launch with
    | .evict tile res _ drop, some l =>
      if !s.opMoved o || s.fetchRuns l tile then .next s else
      let back := !drop && res.getLsbD 2
      let s := s.residenceStamp (s.opEv id o) l tile o.started back
      let s := match s.readTile l tile with
        | .ok t => s.setTile t 0x20 8 0
        | .error _ => s
      let s := s.setDir (s.async.dir.map (fun d => if d.launch == l && d.tile == tile then { d with evicting := false, skein := none } else d))
      let s := (s.tidyDir l tile).emit { s.opEv id o with type := 0x69, payload := tile + (if back then 2 ^ 16 else 0) }
      .next ((s.opDone id o).retireCheck l)
    | _, _ => .next s

/-- TMOV_COMPLETE (R288). -/
def execTmovComplete (id : Nat) (s : State) : Host.Outcome State Fault Refusal :=
  match s.op? id with
  | none => .next s
  | some o => match o.kind with
    | .move _ _ _ _ _ => .next (if s.opMoved o then s.opDone id o else s)
    | _ => .next s

/-- A node's work has ended with a status: the walker learns of it by NODE_DONE (R64). -/
def State.nodeEnds (s : State) (gi node : Nat) (status : Byte) : State :=
  let f (n : NodeRun) : NodeRun := if n.node == node && n.status.isNone then { n with status := some status, op := none } else n
  let s := { s with work := { s.work with runs := kmod s.work.runs gi (fun g => { g with running := g.running.map f }) } }
  s.later (.nodeDone gi node)

/-- COPY_DONE (R291, R37): a copy's counter, its course or its node. -/
def execCopyDone (id : Nat) (s : State) : Host.Outcome State Fault Refusal :=
  match s.op? id with
  | none => .next s
  | some o =>
    let done (len snap : Nat) : State :=
      let s := s.emit { s.opEv id o with type := 0x6E, payload := len + snap * 2 ^ 64 }
      s.opDone id o
    if !s.opMoved o then .next s else
    match o.kind, o.launch, o.issuer with
    | .copy _ _ len _, _, .node gi node => .next ((done len 0).nodeEnds gi node 0)
    | .copy _ _ len _, _, _ => .next (done len 0)
    | .snap tile _ size _, some l, _ => .next ((done size 1).tidyDir l tile)
    | _, _, _ => .next s

/-! ## Snapshot copies and logs -/

/-- A snapshot copy of the tile is running, or an earlier one is pending (R281). -/
def State.snapBefore (s : State) (launch tile id : Nat) : Bool :=
  s.async.ops.any (fun (j, o) => match o.kind with
    | .snap i _ _ started => o.launch == some launch && i == tile && (started || decide (j < id))
    | _ => false)

/-- SNAPSHOT_COPY_START (R281): admission, the log applied at home, the cursor at the first sector. -/
def execSnapshotCopyStart (id : Nat) (s : State) : Host.Outcome State Fault Refusal :=
  match s.op? id with
  | none => .next s
  | some o => match o.kind, o.launch with
    | .snap tile dst size false, some l =>
      if o.fault.isSome || s.logBusy l tile || s.snapBefore l tile id then .next s else
      match s.opTile o tile with
      | .error e => .next (s.parkOp id o 1 e)
      | .ok t => match s.admitTile t none with
        | none => .next s
        | some s =>
          let go (s : State) : State := (s.setOp id { o with kind := .snap tile dst size true, fault := none }).opGoesOn id
          if t.logcnt == 0 then .next (go s)
          else match s.applyHome (some id) t (s.opEv id o) with
            | (s, _, none) => .next (go s)
            | (s, _, some (e, a)) => .next (s.parkOp id o 1 (.fault e a))
    | _, _ => .next s

/-- The entries that waited for a tile's log are appended in order (R280). -/
def State.drainAppends (s : State) (launch tile : Nat) (b : Ev) : State :=
  (s.async.appends.filter (fun (_, d, i, _) => d == launch && i == tile)).foldl (fun s (k, _, _, y) =>
    let s := { s with async := { s.async with appends := kdel s.async.appends k } }
    match s.readTile launch tile with
    | .ok t => match s.append t b (LogEntry.ofBits y.toNat) with
      | .ok s => s
      | .error _ => s
    | .error _ => s) s

/-- Earlier work on a tile's log still runs: a fetch that applies it, or a log operation (R275). -/
def State.logBefore (s : State) (launch tile id : Nat) : Bool :=
  s.fetchRuns launch tile || s.async.ops.any (fun (j, o) => decide (j < id) && o.launch == some launch && (match o.kind with | .log i _ => i == tile | _ => false))

/-- TLOG_COMPLETE (R290): a log operation takes its turn in the tile's log order. -/
def execTlogComplete (id : Nat) (s : State) : Host.Outcome State Fault Refusal :=
  match s.op? id with
  | none => .next s
  | some o => match o.kind, o.launch with
    | .log tile act, some l =>
      if o.fault.isSome || s.logBefore l tile id then .next s else
      match s.opTile o tile with
      | .error e => .next (s.parkOp id o 1 e)
      | .ok t =>
        let ev := s.opEv id o
        let finish (s : State) : State := (((s.opDone id o).drainAppends l tile ev).tidyDir l tile).retireCheck l
        match act with
        | 0 => .next (finish (s.compactLog t ev).1)
        | 1 =>
          if (s.snapOf l tile).isSome && t.logcnt != 0 then .next s else
          match s.applyHome (some id) t ev with
          | (s, n, none) =>
            let s := if o.issuer == .device then s.emit { ev with type := 0x6B, payload := tile + n * 2 ^ 16 } else s
            .next (finish s)
          | (s, _, some (e, a)) => .next (s.parkOp id o 1 (.fault e a))
        | _ => .next (finish ((s.setTile t 0x34 2 0).emit { ev with type := 0x6A, payload := tile + t.logcnt * 2 ^ 16 }))
    | _, _ => .next s

end Sys2Proof.Machine
end

