-- ==== Sys2Proof/Machine/Retire.lean ====
section
/-! DEFINITION. Courses, panels and skeins retire (R432 to R435). -/
namespace Sys2Proof.Machine

/-! ## Panels (R434) -/

/-- A panel retires when its courses have gone and its sequencer, if it has one, has RUN 0x1: its handles and watchpoints go with it, it
leaves the skein barriers, its slot is free. -/
def State.panelCheck (s : State) (core pslot : Nat) : State :=
  match s.panel? core pslot with
  | none => s
  | some p =>
    if !(s.panelCourses core pslot).isEmpty || (p.hasStream && p.run != 1) then s else
    let cause := s.skeinCause p.skein
    let parent := s.skeinParent p.skein
    let ctx := s.skeinCtx p.skein
    let s := s.departAll (.skein p.skein) p.f2 (fun _ => true) cause parent
    let s := ({ s with panels := kdel s.panels (panelKey core pslot) } : State).wakeAffine
    s.emit { source := src 1 0, type := 0xD1, priv := true, cause, parent, ctx, payload := core + pslot * 2 ^ 8 }

/-! ## Courses (R432, R433) -/

/-- Every frontier of a course is empty, and none of its pending bits is set. -/
def Course.gone (c : Course) : Bool :=
  c.fr0.isEmpty && c.fr1.isEmpty && c.fr2.isEmpty && c.strands.toList.all (fun x => x.pending.isEmpty)

/-- COURSE_RETIRED (R432): the slot is free; the panel may retire. -/
def execCourseRetired (core slot : Nat) (s : State) : Host.Outcome State Fault Refusal :=
  match s.course? core slot with
  | none => .next s
  | some c =>
    if !c.gone then .next s else
    let payload := slot + core * 2 ^ 5 + c.abandoned % 2 ^ 16 * 2 ^ 13 + c.exitAt % 2 ^ 64 * 2 ^ 32
    let ev : Ev := match c.orphan with
      | some (ctx, cause, parent) =>
        { source := partSrc core slot, type := 0xD0, cause, parent, ctx, payload }
      | none => s.courseEv core slot c 0xD0 payload
    let s := ((s.dropCourse core slot).wakeAffine).emit { ev with priv := true, err := c.abandoned != 0 }
    .next (if c.orphan.isSome then s else s.panelCheck core c.pslot)

/-- How long a remote reply is waited for, in gt (R379, R433). -/
def replyLimit : Nat := 160000000

/-- REPLY_ABANDON (R433): a reply to an exited course has not come in time; its pending bit clears, and the request is forgotten. -/
def execReplyAbandon (req : Nat) (s : State) : Host.Outcome State Fault Refusal :=
  match kget s.async.reqs req with
  | none => .next s
  | some r => match r.kind with
    | .fld sk p k mask reg _ _ => match s.courseBy sk p k with
      | none => .next s
      | some (core, slot, c) =>
        if r.ended.isSome || s.time.gt < r.sent + replyLimit || !(c.fr0.isEmpty && c.fr1.isEmpty && c.fr2.isEmpty) then .next s
        else
          let c := { (c.clearPends mask reg) with abandoned := c.abandoned + 1 }
          .next { (s.setCourse core slot c) with async := { s.async with reqs := kdel s.async.reqs req } }
    | _ => .next s

/-! ## Skeins (R435) -/

/-- Operations that bind-off waits for: class 0x8 operations and product jobs. -/
def Op.holdsSkein (o : Op) (sk : Nat) : Bool :=
  o.skein == some sk && (match o.kind with | .entry _ _ => false | .coll _ => false | _ => true)

/-- The residences of a skein's granules. -/
def State.skeinTiles (s : State) (sk : Nat) : List Tile :=
  (s.async.dir.filter (fun d => d.skein == some sk)).filterMap (fun d => match s.readTile d.launch d.tile with
    | .ok t => if t.where_ == 1 || t.where_ == 2 then some t else none
    | .error _ => none)

/-- Evict one residence at bind-off: a writable one is written home as TEVC writes it, a read-only one is released. -/
def State.bindOffEvict (s : State) (sk : Nat) (k : Skein) (t : Tile) : State :=
  let (id, s) := s.newId
  let s := s.setDir (s.async.dir.map (fun d => if d.launch == t.launch && d.tile == t.idx then { d with evicting := true } else d))
  let s := if t.writable then s.modSkein sk (fun k => { k with homes := k.homes + 1 }) else s
  s.setOp id { kind := .evict t.idx t.res t.imageSize false, ctx := s.skeinCtx sk, launch := some t.launch, skein := some sk,
               issuer := .device, core := (k.cores.head?).getD 0, cause := k.cause, parent := k.parent, signal := none, cursor := 0,
               started := s.time.gt, moved := 0, doneAt := 0, waiting := false, fault := none }

/-- Steps 3 and 4 of R435. -/
def State.bindOff (s : State) (sk : Nat) (k : Skein) : State :=
  let ctx := s.skeinCtx sk
  let s := { s with cores := kmapVals s.cores (fun _ c => { c with granules := c.granules.filter (fun (_, g) => g != Granule.held sk) }) }
  let s := s.departAll (.launch k.launch) k.index (fun _ => true) k.cause k.parent
  let s := s.emit { source := src 1 0, type := 0xD2, cause := k.cause, parent := k.parent, ctx,
                    payload := (k.cores.head?).getD 0 + k.homes % 2 ^ 16 * 2 ^ 8 + (s.time.gt - k.placedAt) % 2 ^ 48 * 2 ^ 48 }
  let s := { s with work := { s.work with skeins := kdel s.work.skeins sk } }
  ((s.wakeCastOn k.cores).modLaunch k.launch (fun l => { l with bound := l.bound + 1 })).retireCheck k.launch

/-- SKEIN_BOUND_OFF (R435): once the last panel has retired and the skein's operations have completed, its residences are evicted; when
none is left its granules are freed, it leaves the launch barriers, and the last one lets its launch retire (R438). -/
def execSkeinBoundOff (skein : Nat) (s : State) : Host.Outcome State Fault Refusal :=
  match s.skein? skein with
  | none => .next s
  | some k =>
    if k.phase != .placed || !(s.skeinPanels skein).isEmpty || !(s.skeinCourses skein).isEmpty ||
        s.async.ops.any (fun (_, o) => o.holdsSkein skein) then .next s
    else match s.skeinTiles skein with
      | [] => .next (s.bindOff skein k)
      | l => .next (l.foldl (fun s t => s.bindOffEvict skein k t) s)

end Sys2Proof.Machine
end

