-- ==== Sys2Proof/Machine/Memory.lean ====
section
/-! DEFINITION. Loads, stores, vector loads and stores, gathers, scatters and atomics (R257 to R263). -/
namespace Sys2Proof.Machine

/-! ## Results that arrive later (R142, R258) -/

/-- Mark a strand's register pending and put its datum on the way. -/
def State.sendDatum (s : State) (I : Iss) (lane : Nat) (r : Reg) (v : VReg) : State :=
  match pendOf (I.c.st lane) r with
  | none => s
  | some p =>
    let (id, s) := s.newId
    let s := s.modCourse I.core I.slot (fun c => c.modSt lane (·.setPend p))
    { s with async := { s.async with data := kset s.async.data id { core := I.core, slot := I.slot, lane, reg := p, value := v } } }

/-- Results of loads: every executing strand's register, or once for a register held per course (R140, R141). -/
def Iss.deliver (I : Iss) (s : State) (r : Reg) (vals : List (Nat × VReg)) : Except (Stop × BitVec 16) State :=
  let vals := if I.uni then match vals with
      | (_, v) :: _ => I.lanes.map (fun i => (i, v))
      | [] => []
    else vals
  match sharedDiffer (vals.map (fun (i, v) => (i, { writes := [(r, v)] }))) with
  | some e => .error e
  | none => .ok ((if Reg.shared r then vals.take 1 else vals).foldl (fun s (i, v) => s.sendDatum I i r v) s)

/-! ## Operands of loads and stores -/

/-- The width of a size code (R113): nibble to doubleword. -/
def sizeBits (m : Byte) : Nat :=
  match (m &&& 7).toNat with
  | 0 => 4 | 1 => 8 | 2 => 16 | 3 => 32 | _ => 64

/-- XLATE for an index at or beyond the tile's elements (R256): TVAL is the address that R256 forms (R249, R264). -/
def indexStop (t : Tile) (off : Nat) : Stop := Trp.stop Cause.xlate Xlate.bound (t.byteAddr off)

/-- The operand of LD and ST for one strand (R249, R256). -/
def State.scalarOpnd (s : State) (I : Iss) (f : Mem) (lane W : Nat) (store reads : Bool) : Except Stop Opnd :=
  let rd := I.c.rd lane
  let n := max (W / 8) 1
  match f.sa with
  | .t _ =>
    match s.boundTile I f.sa with
    | .error e => .error e
    | .ok t =>
      if t.layout == 2 then .error (tileStop 0x01 t.idx)
      else if t.tag == 0 then .error (tagStop f.sa t.tag)
      else if tagWidth t.tag != W then .error (tileStop 0x01 t.idx)
      else
        let i := tileIndex f rd
        let (off, bit) := t.elemOff i
        if t.elems ≤ i then .error (indexStop t off) else
        s.reachTile I.w I.core store reads t off n bit
  | _ => match s.reach (s.strandWho I.core I.c.pslot I.c lane) I.core store reads (memAddr f rd) n with
    | .error e => .error e
    | .ok o => .ok { o with bit := if W == 4 && f.mod.getLsbD 3 then 4 else 0 }

/-- LD (R258). -/
def execLd (f : Mem) (s : State) : Host.Outcome State Fault Refusal :=
  runCourse s (.ld f) false [] (fun I s =>
    let W := sizeBits f.mod
    (s, match I.each (fun lane => s.scalarOpnd I f lane W false true) with
      | .error e => .error e
      | .ok os =>
        let vals := os.map (fun (i, o) =>
          let x := leNat (s.routeRead o.route)
          let x := if W == 4 then x / 2 ^ o.bit % 16 else x
          (i, VReg.ofWord (extendTo (f.mod.getLsbD 4 && W < 64) W x)))
        match I.deliver s f.dst vals with
        | .error e => .error e
        | .ok s => .ok { s, hits := s.opndHits 33 os }))

/-- Apply the strands' writes in ascending order; a write that must wait holds the whole instruction. -/
def Iss.performs {α : Type} (I : Iss) (s : State) (f : State → Nat → α → Except Stop State) :
    List (Nat × α) → Except (Stop × BitVec 16) State
  | [] => .ok s
  | (i, a) :: t => match f s i a with
    | .error e => .error (e, maskOf I.lanes)
    | .ok s => I.performs s f t

/-- ST (R259). -/
def execSt (f : Mem) (s : State) : Host.Outcome State Fault Refusal :=
  runCourse s (.st f) false [] (fun I s =>
    let W := sizeBits f.mod
    (s, match I.each (fun lane => s.scalarOpnd I f lane W true false) with
      | .error e => .error e
      | .ok os =>
        let b := s.workEv I.c 0
        match I.performs s (fun s i (o : Opnd) =>
          let v := (I.c.read i f.dst).toNat
          if W == 4 then s.routeNibble b (o.bit == 4) v o.route
          else s.routeWrite b (leBytes (W / 8) v) o.route) os with
        | .error e => .error e
        | .ok s => .ok { s, visible := true, hits := s.opndHits 34 os }))

/-! ## LDV and STV (R260) -/

/-- T of LDV and STV. -/
def vecTag (m : Byte) : Tag := (m >>> 3).extractLsb' 0 5

/-- The exponent pairs of some blocks of a line, each byte where it lies: in the residence's side pairs, or in the side array at home
(R195, R260, R265). -/
def State.pairOpnd (s : State) (w : Who) (core : Nat) (store : Bool) (t : Tile) (line blk n : Nat) : Except Stop Opnd :=
  let q := line * t.perLine / 32 + blk
  let off := t.homeSize + q * 2
  let a := if t.resident then t.byteAddr off else t.side + BitVec.ofNat 64 (q * 2)
  let at_ (i : Nat) : Except Stop Dest :=
    if t.resident then match s.resLoc t core (off + i) with
      | .ok l => .ok (.mem l)
      | .error e => .error (e.stop a)
    else match s.home (s.tileWho t.launch) (if store then .store else .load) (a + BitVec.ofNat 64 i) with
      | .ok l => s.routeByte core store a l
      | .error e => .error (e.stop a)
  match allOk at_ (List.range n) with
  | .error e => .error e
  | .ok ds => match s.finishAccess w core store (!store) a n (.split ds) with
    | .error e => .error e
    | .ok _ => .ok { a, route := .split ds, home := [], bit := 0 }

/-- A checked vector operand: 64 bytes, and the pairs of a WB tile. -/
structure VOpnd where
  o     : Opnd
  pairs : Option Opnd

/-- The two operands of an access, where watchpoints see them. -/
def VOpnd.all (x : VOpnd) : List Opnd := x.o :: x.pairs.toList

/-- The operand of LDV and STV for one strand (R256, R260). -/
def State.vecOpnd (s : State) (I : Iss) (f : Mem) (lane : Nat) (store : Bool) : Except Stop VOpnd :=
  let rd := I.c.rd lane
  let T := vecTag f.mod
  match f.sa with
  | .t _ =>
    match s.boundTile I f.sa with
    | .error e => .error e
    | .ok t =>
      if t.layout == 2 && T != 0 then .error (tileStop 0x01 t.idx)
      else if T != 0 && T != t.tag then .error (tagStop f.sa t.tag)
      else
        let i := tileIndex f rd
        let (line, pos) := t.lineOf i
        let (inLine, bit, limit) := if t.layout == 2 then (pos / 32 * (planeSize t.tag).getD 0, 0, t.pitch)
          else (pos * t.ew / 8, pos * t.ew % 8, t.perLine * t.ew / 8)
        let off := line * t.pitch + inLine
        let a := t.byteAddr off
        if t.elems ≤ i then .error (indexStop t off) else
        if a.toNat % 64 != 0 || bit != 0 || limit < inLine + 64 then .error (Trp.stop Cause.align 0 a) else
        match s.reachTile I.w I.core store (!store) t off 64 0 with
        | .error e => .error e
        | .ok o =>
          if wbTag T then
            let n := wbBlocks T * 2
            match s.pairOpnd I.w I.core store t line (pos / 32) n with
            | .error e => .error e
            | .ok p => .ok { o, pairs := some p }
          else .ok { o, pairs := none }
  | _ => match s.reach (s.strandWho I.core I.c.pslot I.c lane) I.core store (!store) (memAddr f rd) 64 with
    | .error e => .error e
    | .ok o => .ok { o, pairs := none }

/-- LDV (R260). -/
def execLdv (f : Mem) (s : State) : Host.Outcome State Fault Refusal :=
  runCourse s (.ldv f) false [] (fun I s =>
    (s, match I.each (fun lane => s.vecOpnd I f lane false) with
      | .error e => .error e
      | .ok os =>
        let vals := os.map (fun (i, x) =>
          (i, { bits := BitVec.ofNat 512 (leNat (s.routeRead x.o.route)), tag := vecTag f.mod,
                exps := match x.pairs with | some p => BitVec.ofNat 64 (leNat (s.routeRead p.route)) | none => 0 }))
        match I.deliver s f.dst vals with
        | .error e => .error e
        | .ok s => .ok { s, hits := s.opndHits 33 (os.flatMap (fun (i, x) => x.all.map (fun o => (i, o)))) }))

/-- STV (R260): the source's tag is checked against T unless T is raw. -/
def execStv (f : Mem) (s : State) : Host.Outcome State Fault Refusal :=
  runCourse s (.stv f) false [] (fun I s =>
    let T := vecTag f.mod
    (s, match I.each (fun lane =>
        let r := (I.c.rd lane).vec f.dst
        if T != 0 && r.tag != T then .error (tagStop f.dst r.tag) else s.vecOpnd I f lane true) with
      | .error e => .error e
      | .ok os =>
        let b := s.workEv I.c 0
        match I.performs s (fun s i (x : VOpnd) =>
          let r := (I.c.rd i).vec f.dst
          match s.routeWrite b (leBytes 64 r.bits.toNat) x.o.route with
          | .error e => .error e
          | .ok s => match x.pairs with
            | some p => s.routeWrite b (leBytes (wbBlocks T * 2) r.exps.toNat) p.route
            | none => .ok s) os with
        | .error e => .error e
        | .ok s => .ok { s, visible := true, hits := s.opndHits 34 (os.flatMap (fun (i, x) => x.all.map (fun o => (i, o)))) }))

/-! ## GATH and SCAT (R261) -/

/-- The element tag of a size and KIND. -/
def gathTag (m : Byte) : Tag :=
  let wide := sizeBits m == 64
  match bitsOf m.toNat 4 3 with
  | 0 => 0
  | 1 => if wide then 0x0B else 0x09
  | 2 => if wide then 0x0C else 0x0A
  | _ => if wide then 0x16 else 0x15

/-- The enabled lanes and their addresses. -/
def gathAddrs (f : Mem) (rd : Rd) : Except Stop (List (Nat × Word)) :=
  let W := sizeBits f.mod
  let ix := rd.vec f.sb
  let wide := W == 64
  if !(ix.tag == (if wide then 0x0B else 0x09) || ix.tag == (if wide then 0x0C else 0x0A)) then .error (tagStop f.sb ix.tag)
  else
    let on (i : Nat) : Bool := !f.mod.getLsbD 5 || (rd.get f.sc).getLsbD i
    .ok (((List.range (512 / W)).filter on).map (fun i =>
      let v := laneOf W ix.bits i
      let x : Word := if signedTag ix.tag then wordOf (signExt v W) else BitVec.ofNat 64 v
      (i, rd.get f.sa + x <<< f.scale.toNat + immWord f.disp)))

/-- The operands of the enabled lanes, the first failing lane deciding (R249). -/
def State.gathOpnds (s : State) (I : Iss) (f : Mem) (lane : Nat) (store : Bool) : Except Stop (List (Nat × Opnd)) :=
  match gathAddrs f (I.c.rd lane) with
  | .error e => .error e
  | .ok l => allOk (fun (i, a) =>
      match s.reach (s.strandWho I.core I.c.pslot I.c lane) I.core store (!store) a (sizeBits f.mod / 8) with
      | .error e => .error e
      | .ok o => .ok (i, o)) l

/-- GATH (R261). -/
def execGath (f : Mem) (s : State) : Host.Outcome State Fault Refusal :=
  runCourse s (.gath f) false [] (fun I s =>
    let W := sizeBits f.mod
    (s, match I.each (fun lane => s.gathOpnds I f lane false) with
      | .error e => .error e
      | .ok os =>
        let vals := os.map (fun (i, l) =>
          let v := l.foldl (fun n (j, o) => n + leNat (s.routeRead o.route) * 2 ^ (W * j)) 0
          (i, ({ bits := BitVec.ofNat 512 v, tag := gathTag f.mod, exps := 0 } : VReg)))
        match I.deliver s f.dst vals with
        | .error e => .error e
        | .ok s => .ok { s, hits := s.opndHits 33 (os.flatMap (fun (i, l) => l.map (fun (_, o) => (i, o)))) }))

/-- SCAT (R261): the raw form takes a source of any tag but raw, which R200 gives to no form of SCAT (log 42). -/
def execScat (f : Mem) (s : State) : Host.Outcome State Fault Refusal :=
  runCourse s (.scat f) false [] (fun I s =>
    let W := sizeBits f.mod
    let T := gathTag f.mod
    (s, match I.each (fun lane =>
        let r := (I.c.rd lane).vec f.dst
        match gathAddrs f (I.c.rd lane) with
        | .error e => .error e
        | .ok _ => if (if T == 0 then r.tag == 0 else r.tag != T) then .error (tagStop f.dst r.tag) else s.gathOpnds I f lane true) with
      | .error e => .error e
      | .ok os =>
        let b := s.workEv I.c 0
        let flat := os.flatMap (fun (i, l) => l.map (fun (j, o) => (i, (j, o))))
        match I.performs s (fun s i (x : Nat × Opnd) =>
          s.routeWrite b (leBytes (W / 8) (laneOf W ((I.c.rd i).vec f.dst).bits x.1)) x.2.route) flat with
        | .error e => .error e
        | .ok s => .ok { s, visible := true, hits := s.opndHits 34 (flat.map (fun (i, x) => (i, x.2))) }))

/-! ## Atomics (R262, R263) -/

/-- What an atomic does to the old value: the new one, or none when it writes nothing. -/
abbrev AtomOp := (W old op dst : Nat) → Option Nat

/-- One atomic instruction (R262): the strands in ascending order, each reading, computing and writing at the home as one step. -/
def runAtomic (s : State) (i : Instr) (f : Mem) (rmw : Bool) (op : AtomOp) : Host.Outcome State Fault Refusal :=
  runCourse s i rmw [] (fun I s =>
    let W := sizeBits f.mod
    (s, match I.each (fun lane =>
        s.reach (s.strandWho I.core I.c.pslot I.c lane) I.core true true (memAddr f (I.c.rd lane)) (W / 8)) with
      | .error e => .error e
      | .ok os =>
        let b := s.workEv I.c 0
        let go := os.foldl (fun (acc : Except (Stop × BitVec 16) (State × List (Nat × VReg))) (x : Nat × Opnd) =>
          match acc with
          | .error e => .error e
          | .ok (s, vals) =>
            let old := leNat (s.routeRead x.2.route)
            let vals := vals ++ [(x.1, VReg.ofWord (BitVec.ofNat 64 old))]
            match op W old ((I.c.read x.1 f.sc).toNat % 2 ^ W) ((I.c.read x.1 f.dst).toNat % 2 ^ W) with
            | none => .ok (s, vals)
            | some new => match s.routeWrite b (leBytes (W / 8) new) x.2.route with
              | .error e => .error (e, maskOf I.lanes)
              | .ok s => .ok (s, vals)) (.ok (s, []))
        match go with
        | .error e => .error e
        | .ok (s, vals) => match I.deliver s f.dst vals with
          | .error e => .error e
          | .ok s => .ok { s, visible := true, hits := s.opndHits 35 os }))

def atomMinMax (uns wantMax : Bool) : AtomOp := fun W old op _ =>
  let less := if uns then decide (old < op) else decide (sgn W old < sgn W op)
  some (if less == wantMax then op else old)

/-- AADD. -/
def execAadd (f : Mem) (s : State) : Host.Outcome State Fault Refusal :=
  runAtomic s (.aadd f) f false (fun W old op _ => some ((old + op) % 2 ^ W))
/-- AMIN: signed, or unsigned under UNS. -/
def execAmin (f : Mem) (s : State) : Host.Outcome State Fault Refusal :=
  runAtomic s (.amin f) f false (atomMinMax (f.mod.getLsbD 3) false)
/-- AMAX: signed, or unsigned under UNS. -/
def execAmax (f : Mem) (s : State) : Host.Outcome State Fault Refusal :=
  runAtomic s (.amax f) f false (atomMinMax (f.mod.getLsbD 3) true)
def execAand (f : Mem) (s : State) : Host.Outcome State Fault Refusal :=
  runAtomic s (.aand f) f false (fun _ old op _ => some (old &&& op))
def execAor (f : Mem) (s : State) : Host.Outcome State Fault Refusal :=
  runAtomic s (.aor f) f false (fun _ old op _ => some (old ||| op))
def execAxor (f : Mem) (s : State) : Host.Outcome State Fault Refusal :=
  runAtomic s (.axor f) f false (fun _ old op _ => some (old ^^^ op))
def execAxch (f : Mem) (s : State) : Host.Outcome State Fault Refusal :=
  runAtomic s (.axch f) f false (fun _ _ op _ => some op)
/-- ACAS: SC is expected, DST is new; a failed comparison writes nothing. -/
def execAcas (f : Mem) (s : State) : Host.Outcome State Fault Refusal :=
  runAtomic s (.acas f) f true (fun _ old op dst => if old == op then some dst else none)
/-- AFAD: FP32 for w, FP64 for d, to nearest even; no flag and no count. -/
def execAfad (f : Mem) (s : State) : Host.Outcome State Fault Refusal :=
  runAtomic s (.afad f) f false (fun W old op _ =>
    let t : Tag := if W == 32 then 0x15 else 0x16
    some (addRnd t 0 (numOf t old) (numOf t op)).bits)

end Sys2Proof.Machine
end

