-- ==== Sys2Proof/Machine/TileOps.lean ====
section
/-! DEFINITION. The tile and copy instructions of class 0x8 (R285 to R293). -/
namespace Sys2Proof.Machine

/-! ## Forms that issue uniformly (R285) -/

/-- Run a form that issues uniformly with uniform-required operands: one failure is every executing strand's. -/
def runShared (s : State) (i : Instr) (req : List Reg) (visible : Bool) (body : Iss → (Reg → Word) → State → Except Stop State) :
    Host.Outcome State Fault Refusal :=
  runCourse s i false req (fun I s =>
    (s, match body I (I.c.read I.leader) s with
      | .error (.trap t) => .error (.trap t, if t.cause == Cause.illegal then I.E.mask else maskOf I.lanes)
      | .error e => .error (e, maskOf I.lanes)
      | .ok s => .ok { s, visible }))

/-- One result for every executing strand. -/
def Iss.give (I : Iss) (s : State) (r : Reg) (v : Word) : State :=
  s.modCourse I.core I.slot (fun c => I.lanes.foldl (fun c i => c.write i r v) c)

/-- The completion counter of an asynchronous form: device counter, number, increment (R285). -/
def State.cnumOf (s : State) (I : Iss) (imm : BitVec 48) : Except Stop (Option (Nat × Nat × Word)) :=
  let cnum := bitsOf imm.toNat 15 0
  if !imm.getLsbD 16 then .ok none
  else match (s.launchOf I.c).bind (fun l => counterOf l.entry cnum) with
    | some i => .ok (some (i, cnum, 1))
    | none => .error (Trp.stop Cause.priv 0x01 (BitVec.ofNat 64 cnum))

/-- A new operation of a course. -/
def State.newOp (s : State) (I : Iss) (kind : OpKind) (signal : Option (Nat × Nat × Word)) : Nat × Op × State :=
  let (id, s) := s.newId
  (id, { kind, ctx := s.skeinCtx I.c.skein, launch := s.launchId I.c, skein := some I.c.skein,
         issuer := .course I.c.skein I.c.f2 I.c.f1, core := I.core, cause := s.causeOf I.c, parent := s.parentOf I.c, signal,
         cursor := 0, started := s.time.gt, moved := 0, doneAt := 0, waiting := false, fault := none }, s)

/-- Accept an operation: it counts as outstanding of its course (R285). -/
def State.accept (s : State) (I : Iss) (id : Nat) (o : Op) : State :=
  (s.setOp id o).modCourse I.core I.slot (fun c => { c with asyncOut := c.asyncOut + 1 })

/-- An operation with nothing to move: only its counter (R287). -/
def State.acceptDone (s : State) (I : Iss) (sig : Option (Nat × Nat × Word)) : State :=
  match sig with
  | none => s
  | some (i, cnum, incr) => s.signal (s.skeinCtx I.c.skein) i cnum incr s.devNo 0 (s.causeOf I.c) (s.parentOf I.c)

/-! ## TDSC (R286) -/

/-- Offset and size of each field. -/
def tdscField : Nat → Nat × Nat
  | 0 => (0x00, 8) | 1 => (0x08, 8) | 2 => (0x10, 4) | 3 => (0x14, 4) | 4 => (0x18, 4) | 5 => (0x1C, 2) | 6 => (0x1E, 2)
  | 7 => (0x28, 8) | 8 => (0x30, 4) | _ => (0x36, 2)

/-- TDSC: the new descriptor is checked before any change. -/
def execTdsc (f : Gen) (s : State) : Host.Outcome State Fault Refusal :=
  runShared s (.tdsc f) [f.sa, f.sb] true (fun I val s =>
    let idx := (val f.sa).toNat
    let v := (val f.sb).toNat
    let field := bitsOf f.imm.toNat 3 0
    let (off, n) := tdscField field
    match s.launchId I.c with
    | none => .error (tileStop 0x01 idx)
    | some l => match s.launch? l with
      | none => .error (tileStop 0x01 idx)
      | some L =>
        if L.hdr.ttcount ≤ idx || 256 ^ n ≤ v then .error (tileStop 0x01 idx) else
        let a := L.hdr.ttbase + BitVec.ofNat 64 (64 * idx)
        match s.readRange (launchWho l L) a 64 with
        | .error e => .error (e.stop a)
        | .ok b =>
          let b' := b.take off ++ leBytes n v ++ b.drop (off + n)
          match tileFields l idx a L.hdr.ntens b' with
          | none => .error (tileStop 0x01 idx)
          | some t =>
            if (s.dirOf l idx).isSome && field != 5 && field != 9 then .error (tileStop 0x02 idx)
            else .ok (s.setTile t off n v))

/-! ## TFCH and TEVC (R287) -/

/-- The space a WHERE names. -/
def whereSpace (w : Nat) : Nat := match w with | 1 => 0xE | 2 => 0xD | _ => 0xC

/-- The residence range lies within its space: the die's place of its first byte, which the rest must follow (R240 to R242). -/
def State.checkRange (s : State) (I : Iss) (where_ : Nat) (off size : Nat) : Except Stop (Option Loc) :=
  let a : Word := BitVec.ofNat 64 (whereSpace where_ * 2 ^ 60 + off % 2 ^ 60)
  let bound := Trp.stop Cause.xlate Xlate.bound a
  match s.launchOf I.c with
  | none => .error bound
  | some L =>
    match where_ with
    | 1 => if 2 ^ 60 ≤ off || L.hdr.ugran * 131072 < off + size then .error bound else .ok none
    | 2 => if 2 ^ 60 ≤ off || L.hdr.sgran * 131072 * L.hdr.members < off + size then .error bound else .ok none
    | _ =>
      if 2 ^ 60 ≤ off then .error bound else
      match s.homes I.w .store a (size / 128 + 2) size with
      | .error e => .error (e.stop a)
      | .ok [] => .error bound
      | .ok ((l, n) :: rest) =>
        let joined := (rest.foldl (fun (acc : Nat × Bool) (p : Loc × Nat) =>
          (acc.1 + p.2, acc.2 && p.1.addr == l.addr + acc.1)) (n, true)).2
        if joined then .ok (some l) else .error bound

/-- The destination lines of a new residence, on the members it has images on. -/
def State.residenceLines (s : State) (t : Tile) (o : Op) (mc : Bool) : List (Loc × Nat) :=
  let size := t.imageSize
  (List.range (ceilDiv size 128)).flatMap (fun i =>
    (s.fetchTargets t o mc (128 * i)).map (fun (_, l) => (l, min 128 (size - 128 * i))))

/-- TFCH. -/
def execTfch (f : Gen) (s : State) : Host.Outcome State Fault Refusal :=
  runShared s (.tfch f) [f.sa, f.sb] true (fun I val s =>
    let idx := (val f.sa).toNat
    let off := (val f.sb).toNat
    let where_ := bitsOf f.mod.toNat 1 0
    let wr := f.mod.getLsbD 2
    let mc := f.mod.getLsbD 3
    match s.launchId I.c with
    | none => .error (tileStop 0x01 idx)
    | some l => match s.readTile l idx, s.cnumOf I f.imm with
      | .error e, _ => .error (e.stop idx)
      | _, .error e => .error e
      | .ok t, .ok sig =>
        let d := s.dirOf l idx
        let snapping := s.async.ops.any (fun (_, o) => o.launch == some l && (match o.kind with
          | .snap i _ _ _ => i == idx | _ => false))
        let bind (s : State) (pending : Bool) : State := match f.dst with
          | .t i =>
            let h : Handle := { tile := BitVec.ofNat 10 idx, tag := t.tag, bound := true, pending }
            s.modPanel I.core I.c.pslot (fun p => { p with handles := p.handles.setIfInBounds i.val h })
          | _ => s
        if where_ == 0 then .ok (bind (s.acceptDone I sig) false)
        else if d.elim false (·.evicting) || snapping || s.logBusy l idx || s.logWaits l idx then .error (.hold .tileLog)
        else if t.resident then
          if wr && !t.writable then .error (tileStop 0x02 idx) else .ok (bind (s.acceptDone I sig) false)
        else
          let size := t.imageSize
          match s.checkRange I where_ off size with
          | .error e => .error e
          | .ok die =>
            let base : Word := BitVec.ofNat 64 (whereSpace where_ * 2 ^ 60 + off)
            if off % 128 != 0 then .error (Trp.stop Cause.align 0 base) else
            let runit := match where_, die with
              | 1, _ => if mc then 0xFF else I.core
              | 2, _ => ((s.skein? I.c.skein).bind (·.cores.head?)).getD 0
              | _, some p => p.addr / 2 ^ 23
              | _, none => 0
            let raddr := match die with | some p => p.addr % 2 ^ 23 | none => off
            let res : Word := BitVec.ofNat 64 (where_ + (if wr then 4 else 0) + runit * 2 ^ 16 + raddr * 2 ^ 24)
            match s.admitTile t none with
            | none => .error (.hold .lockFull)
            | some s =>
              let (id, o, s) := s.newOp I (.fetch I.c.f2 (match f.dst with | .t i => i.val | _ => 0) idx res base size
                ((s.logEntries t).filter (fun (_, y) => !t.malformed y)).length mc) sig
              match s.takeLocks I.core id 0 [(t.home, t.homeSize, false), (base, size, true)] with
              | none => .error (.hold .lockFull)
              | some s =>
                let s := s.setTile t 0x20 8 res.toNat
                let s := s.setDir (s.async.dir.map (fun x => if x.launch == l && x.tile == idx then
                  { x with skein := if where_ == 3 then none else some I.c.skein, base, inAt := s.time.gt, inDur := 0 } else x))
                let t := { t with res, base }
                let s := s.markIncoming id (s.residenceLines t o mc)
                .ok (bind (s.accept I id o) true))

/-- TEVC: from issue the directory marks the tile as being evicted. -/
def execTevc (f : Gen) (s : State) : Host.Outcome State Fault Refusal :=
  runShared s (.tevc f) [] true (fun I _ s =>
    match s.boundTile I f.sa, s.cnumOf I f.imm with
    | .error e, _ => .error e
    | _, .error e => .error e
    | .ok t, .ok sig =>
      if (s.dirOf t.launch t.idx).elim false (·.evicting) then .error (.hold .tileLog)
      else if !t.resident then .ok (s.acceptDone I sig)
      else
        let (id, o, s) := s.newOp I (.evict t.idx t.res t.imageSize (f.mod.getLsbD 0)) sig
        -- the write-back reads the residence where it lies
        let o := if t.where_ == 1 && t.runit != 0xFF then { o with core := t.runit } else o
        let o := { o with skein := match s.dirOf t.launch t.idx with | some d => d.skein | none => o.skein }
        match s.takeLocks I.core id 0 [(t.byteAddr 0, t.imageSize, false), (t.home, t.homeSize, true)] with
        | none => .error (.hold .lockFull)
        | some s =>
          let s := s.setDir (s.async.dir.map (fun x => if x.launch == t.launch && x.tile == t.idx then { x with evicting := true } else x))
          .ok (s.accept I id o))

/-! ## TMOV (R288) -/

/-- What RM a conversion accepts: none where the pairing is not in the table, some true where any mode. -/
def movPairing (a d : Tag) : Option Bool :=
  if a == d then some false
  else if wbTag d then (if fpTag a || intTag a || a == 0x0D then some false else none)
  else if wbTag a then (if fpTag d then some true else none)
  else if fpTag a && (fpTag d || intTag d || d == 0x0D) then some true
  else if fpTag d && (intTag a || a == 0x0D) then some true
  else none

/-- The bytes of a tile's image, where they lie now. -/
def Tile.range (t : Tile) : Word × Nat := if t.resident then (t.byteAddr 0, t.imageSize) else (t.home, t.homeSize)

/-- Whether the images of a destination residence and of a source overlap (R288), compared where they lie: the space and its core, skein
or die; the home of a source that is not resident can lie in die scratchpad too. -/
def State.imagesMeet (s : State) (d a : Tile) : Bool :=
  let skeinOf (t : Tile) : Option Nat := (s.dirOf t.launch t.idx).bind (·.skein)
  d.idx == a.idx ||
    (if a.resident then
      d.where_ == a.where_ && (d.where_ == 2 || d.runit == a.runit || (d.where_ == 1 && a.runit == 0xFF)) &&
        (d.where_ == 3 || skeinOf d == skeinOf a) && overlap d.raddr d.imageSize a.raddr a.imageSize
    else d.where_ == 3 && (s.homePieces a).any (fun (_, l, k) => l.store == .die && overlap (d.runit * 2 ^ 23 + d.raddr) d.imageSize l.addr k))

/-- TMOV. A raw-tagged source is refused (R200; log 42). -/
def execTmov (f : Gen) (s : State) : Host.Outcome State Fault Refusal :=
  runCourse s (.tmov f) false [] (fun I s =>
    let tr := f.mod.getLsbD 0
    let rm := bitsOf f.mod.toNat 3 2
    let all := maskOf I.lanes
    let r : Except (Stop × BitVec 16) State :=
      match s.boundTile I f.dst, s.boundTile I f.sa, s.cnumOf I f.imm with
      | .error e, _, _ => .error (e, all)
      | _, .error e, _ => .error (e, all)
      | _, _, .error e => .error (e, all)
      | .ok d, .ok a, .ok sig =>
        let same := if tr then d.rows == a.cols && d.cols == a.rows else d.rows == a.rows && d.cols == a.cols
        let (da, dn) := d.range
        let (aa, an) := a.range
        if !d.resident || !d.writable || (s.dirOf d.launch d.idx).elim false (·.evicting) then .error (tileStop 0x02 d.idx, all)
        else if a.tag == 0 then .error (tagStop f.sa a.tag, all)
        else if s.imagesMeet d a then .error (tileStop 0x04 d.idx, all)
        else if !same || (f.mod.getLsbD 1 != (d.layout == 2)) then .error (tileStop 0x01 d.idx, all) else
        match movPairing a.tag d.tag with
        | none => .error (tileStop 0x01 d.idx, all)
        | some anyRm =>
            if !anyRm && rm != 0 then .error (illegalStop (encode (.tmov f)) 0x02 80, I.E.mask)
            else if (s.dirOf a.launch a.idx).elim false (·.evicting) || s.logBusy a.launch a.idx then .error (.hold .tileLog, all)
            else
              let (id, o, s) := s.newOp I (.move d.idx a.idx tr (f.mod.getLsbD 1) (BitVec.ofNat 2 rm)) sig
              match s.takeLocks I.core id 0 [(aa, an, false), (da, dn, true)] with
              | none => .error (.hold .lockFull, all)
              | some s => .ok ((s.markIncoming id (s.residenceLines d o false)).accept I id o)
    (s, match r with
      | .error e => .error e
      | .ok s => .ok { s, visible := true }))

/-! ## Elements: TACC, TSET, TGET, TCMP (R289) -/

/-- The tile of an element form: bound, in element layout, and of a tag the form takes. -/
def State.elemTile (s : State) (I : Iss) (r : Reg) (wb : Bool) : Except Stop Tile :=
  match s.boundTile I r with
  | .error e => .error e
  | .ok t => if t.layout == 2 || t.tag == 0 || (wbTag t.tag && !wb) then .error (tileStop 0x01 t.idx) else .ok t

/-- One element of a tile, checked (R249, R256). -/
def State.elemOpnd (s : State) (I : Iss) (r : Reg) (wb store reads : Bool) (i : Nat) : Except Stop (Tile × Nat × Opnd) :=
  match s.elemTile I r wb with
  | .error e => .error e
  | .ok t =>
    let (off, bit) := t.elemOff i
    if t.elems ≤ i then .error (indexStop t off) else
    match s.reachTile I.w I.core store reads t off t.eb bit with
    | .error e => .error e
    | .ok o => .ok (t, i, o)

/-- The route leads to the tile's log. -/
def Opnd.logged (o : Opnd) : Bool :=
  match o.route with
  | .split (.log _ _ _ :: _) => true
  | _ => false

/-- An element within the bytes read from its place, and the bytes with a new element. -/
def elemIn (t : Tile) (bit : Nat) (b : List Byte) : Nat := leNat b / 2 ^ bit % 2 ^ t.ew
def elemInto (t : Tile) (bit : Nat) (b : List Byte) (v : Nat) : List Byte :=
  leBytes t.eb (leNat b - elemIn t bit b * 2 ^ bit + v % 2 ^ t.ew * 2 ^ bit)

/-- Store one element: its bytes at its place, or a full STORE in the log (R276, R289). -/
def State.storeElem (s : State) (b : Ev) (t : Tile) (i : Nat) (o : Opnd) (v : Nat) : Except Stop State :=
  if o.logged then
    match s.readTile t.launch t.idx with
    | .error e => .error (e.stop t.idx)
    | .ok t => match s.admitTile t none with
      | none => .error (.hold .lockFull)
      | some s => s.append t b { index := i, op := 1, type := t.tag.toNat, mask := t.fullMask, value := v, rsv := 0 }
  else s.routeWrite b (elemInto t o.bit (s.routeRead o.route) v) o.route

/-- One strand's TACC: an entry in the log, or an atomic at the element's place. -/
def State.accElem (s : State) (b : Ev) (op : Nat) (v : Word) (x : Tile × Nat × Opnd) : Except Stop State :=
  let (t, i, o) := x
  let operand := if fpTag t.tag then v.toNat % 2 ^ tagWidth (wideTag t.tag) else v.toNat % 2 ^ t.ew
  if o.logged then
    if t.tag == 0x16 then .error (tileStop 0x02 t.idx) else
    match s.readTile t.launch t.idx with
    | .error e => .error (e.stop t.idx)
    | .ok t => match s.admitTile t none with
      | none => .error (.hold .lockFull)
      | some s => s.append t b { index := i, op, type := t.tag.toNat, mask := t.fullMask, value := operand, rsv := 0 }
  else
    let old := s.routeRead o.route
    let (v, c) := elemOp t.tag op (elemIn t o.bit old) operand
    let keys := match c with | .sat => [3 * t.tensor] | .nonfin => [3 * t.tensor + 2] | _ => []
    (s.countStats (some t.launch) keys).routeWrite b (elemInto t o.bit old v) o.route

/-- TACC: the strands in ascending order. -/
def execTacc (f : Gen) (s : State) : Host.Outcome State Fault Refusal :=
  runCourse s (.tacc f) false [] (fun I s =>
    let op := 2 + bitsOf f.mod.toNat 1 0
    (s, match I.each (fun lane => match s.elemOpnd I f.sa false true true (I.c.read lane f.sb).toNat with
        | .error e => .error e
        | .ok (t, i, o) => if o.logged && t.tag == 0x16 then .error (tileStop 0x02 t.idx) else .ok (t, i, o)) with
      | .error e => .error e
      | .ok os =>
        let b := s.workEv I.c 0
        match I.performs s (fun s i x => s.accElem b op (I.c.read i f.sc) x) os with
        | .error e => .error e
        | .ok s => .ok { s, visible := true, hits := s.opndHits 35 (os.map (fun (i, _, _, o) => (i, o))) }))

/-- The value register of a form as a number, by the tile's tag (R289). -/
def valueNum (t : Tag) (v : Word) : FpNum :=
  if fpTag t || wbTag t then numOf (wideTag t) v.toNat
  else if signedTag t then numOf 0x0B v.toNat else numOf 0x0C v.toNat

/-- TSET: the value rounded into the tag, with Count, then a store. -/
def execTset (f : Mem) (s : State) : Host.Outcome State Fault Refusal :=
  runCourse s (.tset f) false [] (fun I s =>
    let rm := bitsOf f.mod.toNat 1 0
    (s, match I.each (fun lane => s.elemOpnd I f.sa false true false (tileIndex f (I.c.rd lane))) with
      | .error e => .error e
      | .ok os =>
        let b := s.workEv I.c 0
        match I.performs s (fun s i (x : Tile × Nat × Opnd) =>
          let n := valueNum x.1.tag (I.c.read i f.dst)
          let r := roundTo x.1.tag rm n
          let c := if n.isFin then r.cnt else .nonfin
          (s.countStats (some x.1.launch) (cntKeys x.1.tensor c)).storeElem b x.1 x.2.1 x.2.2 r.bits) os with
        | .error e => .error e
        | .ok s => .ok { s, visible := true, hits := s.opndHits 34 (os.map (fun (i, _, _, o) => (i, o))) }))

/-- An element's exact value (R289). -/
def State.elemValue (s : State) (I : Iss) (x : Tile × Nat × Opnd) : Except Stop (Nat × FpNum) :=
  let (t, i, o) := x
  let v := elemIn t o.bit (s.routeRead o.route)
  if wbTag t.tag then
    let (line, pos) := t.lineOf i
    match s.pairOpnd I.w I.core false t line (pos / 32) 2 with
    | .error e => .error e
    | .ok o =>
      let p := leNat (s.routeRead o.route)
      .ok (v, wbElem t.tag (p % 256) (p / 256) v)
  else .ok (v, numOf t.tag v)

/-- A checked element with its value. -/
def State.elemRead (s : State) (I : Iss) (r : Reg) (i : Nat) : Except Stop ((Tile × Nat × Opnd) × Nat × FpNum) :=
  match s.elemOpnd I r true false true i with
  | .error e => .error e
  | .ok x => match s.elemValue I x with
    | .error e => .error e
    | .ok v => .ok (x, v)

/-- TGET: FP32 for WB and for floating-point tags up to 32 bits, FP64, or an integer extended by its signedness. -/
def execTget (f : Mem) (s : State) : Host.Outcome State Fault Refusal :=
  runCourse s (.tget f) false [] (fun I s =>
    (s, match I.each (fun lane => s.elemRead I f.sa (tileIndex f (I.c.rd lane))) with
      | .error e => .error e
      | .ok os =>
        let vals := os.map (fun (i, ((t, _, _), v, n)) =>
          (i, VReg.ofWord (if fpTag t.tag || wbTag t.tag then BitVec.ofNat 64 (roundTo (wideTag t.tag) 0 n).bits
            else extendTo (signedTag t.tag) t.ew v)))
        match I.deliver s f.dst vals with
        | .error e => .error e
        | .ok s => .ok { s, hits := s.opndHits 33 (os.map (fun (i, ((_, _, o), _, _)) => (i, o))) }))

/-- TCMP: eq, ne, lt, ge of the element and the value register; a NaN makes only ne true. -/
def execTcmp (f : Gen) (s : State) : Host.Outcome State Fault Refusal :=
  runCourse s (.tcmp f) false [] (fun I s =>
    (s, match I.each (fun lane => s.elemRead I f.sa (I.c.read lane f.sb).toNat) with
      | .error e => .error e
      | .ok os =>
        let rs := os.map (fun (i, ((t, _, _), _, n)) =>
          let y := valueNum t.tag (I.c.read i f.sc)
          let b := match bitsOf f.mod.toNat 1 0 with
            | 0 => n.eq y
            | 1 => !n.eq y
            | 2 => n.lt y
            | _ => y.lt n || n.eq y
          (i, Res.word f.dst (if b then 1 else 0)))
        match I.store s rs with
        | .error e => .error e
        | .ok s => .ok { s, hits := s.opndHits 33 (os.map (fun (i, ((_, _, o), _, _)) => (i, o))) }))

/-! ## TLOG (R290) -/

/-- A log operation of a course joins the tile's log order. -/
def State.startLog (s : State) (I : Iss) (t : Tile) (act : BitVec 2) (sig : Option (Nat × Nat × Word)) : Except Stop State :=
  if (s.dirOf t.launch t.idx).elim false (·.evicting) then .error (.hold .tileLog) else
  let (id, o, s) := s.newOp I (.log t.idx act) sig
  match if act == 1 then s.takeLocks I.core id 0 [(t.home, t.homeSize, true)] else some s with
  | none => .error (.hold .lockFull)
  | some s => .ok (s.accept I id o)

/-- The bound tile and the counter of TLOG, then the operation. -/
def State.logForm (s : State) (I : Iss) (f : Gen) (act : BitVec 2) : Except Stop State :=
  match s.boundTile I f.sa, s.cnumOf I f.imm with
  | .error e, _ => .error e
  | _, .error e => .error e
  | .ok t, .ok sig => s.startLog I t act sig

/-- TLOG compact. -/
def execTlogCompact (f : Gen) (s : State) : Host.Outcome State Fault Refusal :=
  runShared s (.tlogCompact f) [] true (fun I _ s => s.logForm I f 0)
/-- TLOG apply. -/
def execTlogApply (f : Gen) (s : State) : Host.Outcome State Fault Refusal :=
  runShared s (.tlogApply f) [] true (fun I _ s => s.logForm I f 1)
/-- TLOG discard. -/
def execTlogDiscard (f : Gen) (s : State) : Host.Outcome State Fault Refusal :=
  runShared s (.tlogDiscard f) [] true (fun I _ s => s.logForm I f 2)

/-- TLOG query: LOGCNT at once. -/
def execTlogQuery (f : Gen) (s : State) : Host.Outcome State Fault Refusal :=
  runShared s (.tlogQuery f) [] true (fun I _ s => match s.boundTile I f.sa with
    | .error e => .error e
    | .ok t => .ok (I.give s f.dst (BitVec.ofNat 64 t.logcnt)))

/-! ## CPY (R281, R291) -/

/-- Whether a range's homes meet a directory entry's home range. -/
def State.rangeMeets (s : State) (w : Who) (a : Word) (n : Nat) : Bool :=
  (s.pages w a (n / 65536 + 2) 0 n).any (fun (_, l, k) => s.dirMeets l k)

/-- CPY. -/
def execCpy (f : Gen) (s : State) : Host.Outcome State Fault Refusal :=
  runCourse s (.cpy f) false [f.sa, f.sb, f.sc] (fun I s =>
    let dst := I.c.read I.leader f.sa
    let from_ := I.c.read I.leader f.sb
    let len := (I.c.read I.leader f.sc).toNat
    let all := maskOf I.lanes
    let r : Except (Stop × BitVec 16) State :=
      match s.cnumOf I f.imm with
        | .error e => .error (e, all)
        | .ok sig =>
          if dst.toNat % 32 != 0 then .error (Trp.stop Cause.align 0 dst, all)
          else if from_.toNat % 32 != 0 then .error (Trp.stop Cause.align 0 from_, all)
          else if len == 0 || len % 32 != 0 then .error (illegalStop (encode (.cpy f)) 0x03 52, I.E.mask)
          else if spaceOf dst == spaceOf from_ && overlap (offsetOf dst) len (offsetOf from_) len then
            .error (Trp.stop Cause.format 0x04 dst, all)
          else if s.rangeMeets I.w dst len then .error (Trp.stop Cause.format 0x02 dst, all)
          else
            let (id, o, s) := s.newOp I (.copy from_ dst len 0) sig
            match s.takeLocks I.core id 0 [(from_, len, false), (dst, len, true)] with
            | none => .error (.hold .lockFull, all)
            | some s => .ok ((s.markIncoming id (s.destLines I.w dst len)).accept I id o)
    (s, match r with
      | .error e => .error e
      | .ok s => .ok { s, visible := true }))

/-- CPY.snap: the tile must be non-resident with a log. -/
def execCpySnap (f : Gen) (s : State) : Host.Outcome State Fault Refusal :=
  runShared s (.cpySnap f) [f.sa] true (fun I val s =>
    let dst := val f.sa
    match s.boundTile I f.sb, s.cnumOf I f.imm with
    | .error e, _ => .error e
    | _, .error e => .error e
    | .ok t, .ok sig =>
      if t.resident || t.logcap == 0 then .error (tileStop 0x02 t.idx)
      else if dst.toNat % 32 != 0 then .error (Trp.stop Cause.align 0 dst)
      else
        let (id, o, s) := s.newOp I (.snap t.idx dst t.homeSize false) sig
        match s.takeLocks I.core id 0 [(t.home, t.homeSize, false), (dst, t.homeSize, true)] with
        | none => .error (.hold .lockFull)
        | some s => .ok ((s.markIncoming id (s.destLines I.w dst t.homeSize)).accept I id o))

/-! ## CWT and RLQ (R292, R293) -/

/-- CWT: at most N outstanding operations of class 0x8. -/
def execCwt (f : Gen) (s : State) : Host.Outcome State Fault Refusal :=
  runShared s (.cwt f) [] true (fun I _ s =>
    if I.c.asyncOut ≤ bitsOf f.imm.toNat 7 0 then .ok s else .error (.hold .cwt))

/-- RLQ: hits of an address in its own space, or an entry's base or attributes. -/
def execRlq (f : Gen) (s : State) : Host.Outcome State Fault Refusal :=
  runShared s (.rlq f) [f.sa] true (fun I val s =>
    let a := val f.sa
    let locks := (s.core I.core).locks
    let e := kget locks (a.toNat % 32)
    let v : Nat := match bitsOf f.mod.toNat 1 0 with
      | 0 => locks.foldl (fun m (i, x) =>
          if spaceOf a == spaceOf x.base && overlap (offsetOf a) 1 (offsetOf x.base) x.len then m + 2 ^ i else m) 0
      | 1 => e.elim 0 (·.base.toNat)
      | _ => e.elim 0 (fun x => x.len % 2 ^ 32 + 2 ^ 32 + (if x.dst then 2 ^ 33 else 0) + spaceOf x.base * 2 ^ 34 + x.issuer.toNat * 2 ^ 38)
    .ok (I.give s f.dst (BitVec.ofNat 64 v)))

end Sys2Proof.Machine
end

