-- ==== Sys2Proof/Machine/Engine.lean ====
section
/-! DEFINITION. The product engine: job cards, depth steps, extraction and the events of the engine (R296 to R315, R321 to R327, R335,
R336, R338, R339). -/
namespace Sys2Proof.Machine

/-! ## Job cards (R321 to R323) -/

def Card.f (c : Card) (off n : Nat) : Nat := c.toNat >>> (8 * off) % 2 ^ (8 * n)
def Card.abase (c : Card) : Nat := c.f 0x00 8
def Card.bbase (c : Card) : Nat := c.f 0x08 8
def Card.aside (c : Card) : Nat := c.f 0x10 8
def Card.xdst (c : Card) : Nat := c.f 0x18 8
def Card.jfmt (c : Card) : Nat := c.f 0x20 8
def Card.ctl (c : Card) : Nat := c.f 0x28 8
def Card.asr (c : Card) : Nat := c.f 0x30 3
def Card.trows (c : Card) : Nat := c.f 0x33 1 + 1
def Card.bsc (c : Card) : Nat := c.f 0x34 3
def Card.tcols (c : Card) : Nat := c.f 0x37 1 + 1
def Card.trip (c : Card) (k : Nat) : Nat := c.f (0x38 + 2 * k) 2
def Card.role (c : Card) (k : Nat) : Nat := bitsOf (c.f 0x42 2) (2 * k + 1) (2 * k)
def Card.astr (c : Card) (k : Nat) : Int := signExt (c.f (0x44 + 12 * k) 4) 32
def Card.bstr (c : Card) (k : Nat) : Int := signExt (c.f (0x48 + 12 * k) 4) 32
def Card.cstr (c : Card) (k : Nat) : Int := signExt (c.f (0x4C + 12 * k) 4) 32

def Card.atag (c : Card) : Tag := BitVec.ofNat 5 c.jfmt
def Card.btag (c : Card) : Tag := BitVec.ofNat 5 (c.jfmt / 2 ^ 8)
def Card.otag (c : Card) : Tag := BitVec.ofNat 5 (c.jfmt / 2 ^ 16)
def Card.atens (c : Card) : Nat := bitsOf c.jfmt 35 24
def Card.btens (c : Card) : Nat := bitsOf c.jfmt 47 36
def Card.otens (c : Card) : Nat := bitsOf c.jfmt 59 48

def Card.xpitch (c : Card) : Nat := bitsOf c.ctl 63 48 * 32
def Card.exp (c : Card) : Int := signExt (bitsOf c.ctl 42 32) 11
def Card.h (c : Card) : Nat := bitsOf c.ctl 20 16
def Card.half (c : Card) : Nat := bitsOf c.ctl 15 15
def Card.xlvl (c : Card) : Nat := bitsOf c.ctl 14 12
def Card.xrm (c : Card) : Nat := bitsOf c.ctl 11 10
def Card.xmode (c : Card) : Nat := bitsOf c.ctl 9 8
def Card.ftrap (c : Card) : Bool := c.ctl.testBit 7
def Card.ginh (c : Card) : Bool := c.ctl.testBit 6
def Card.pol (c : Card) : Nat := bitsOf c.ctl 5 5
def Card.sat (c : Card) : Bool := c.ctl.testBit 4
def Card.g (c : Card) : Nat := bitsOf c.ctl 3 2
def Card.mode (c : Card) : Nat := bitsOf c.ctl 1 0

/-- The bytes of an A block, and of a B plane block (R269, R324). -/
def Card.ab (c : Card) : Nat := 4 * tagWidth c.atag
def Card.bb (c : Card) : Nat := (planeSize c.btag).getD 1
/-- Active slice rows and columns (R296). -/
def Card.srows (c : Card) : Nat := ceilDiv c.trows 32
def Card.scols (c : Card) : Nat := ceilDiv c.tcols 32
/-- A blocks of one slice row (R302). -/
def Card.ablocks (c : Card) : Nat := if c.mode == 2 then 2 else 1

/-- The levels an output tile spans, and those above it (R324). -/
def Card.inner (c : Card) : List Nat := List.range (if c.xlvl ≤ 4 then c.xlvl + 1 else 5)
def Card.outer (c : Card) : List Nat := (List.range 5).drop (if c.xlvl ≤ 4 then c.xlvl + 1 else 5)

/-- A mixed-radix index of some levels, the lower level less significant. -/
def mixIndex (trip l : Nat → Nat) : List Nat → Nat
  | [] => 0
  | k :: t => l k + trip k * mixIndex trip l t

/-- How many output tiles a job has. -/
def Card.tileCount (c : Card) : Nat := (c.outer.map c.trip).foldl (· * ·) 1

/-! ## Engine fields (R312, R313) -/

def Engine.g (e : Engine) : Nat := bitsOf e.estat.toNat 15 14
def Engine.gbits (e : Engine) : Nat := 16 + 8 * e.g
def Engine.h (e : Engine) : Nat := bitsOf e.estat.toNat 23 16
def Engine.mode (e : Engine) : Nat := bitsOf e.estat.toNat 13 12
def Engine.sat (e : Engine) : Bool := e.estat.getLsbD 11
def Engine.eaccV (e : Engine) : Bool := e.eacc.getLsbD 31
def Engine.derived (e : Engine) : Bool := e.eacc.getLsbD 16
def Engine.eaccExp (e : Engine) : Int := signExt e.eacc.toNat 16
def Engine.setEacc (e : Engine) (v pol : Bool) (x : Int) : Engine :=
  { e with eacc := BitVec.ofNat 32 (wrapInt x 16 + (if pol then 2 ^ 16 else 0) + (if v then 2 ^ 31 else 0)) }
/-- Write the low 24 bits of ESTAT's fields G, H, MODE and SAT. -/
def Engine.setConfig (e : Engine) (g h mode : Nat) (sat : Bool) : Engine :=
  { e with estat := (e.estat &&& ~~~0x00FFF800) ||| BitVec.ofNat 32 (h % 256 * 2 ^ 16 + g % 4 * 2 ^ 14 + mode % 4 * 2 ^ 12 +
      (if sat then 2 ^ 11 else 0)) }

def Engine.loop (e : Engine) (k : Nat) : Nat := (e.eloop[k]?).elim 0 (·.toNat)

/-- Set the loop indices, and EDEP, EROW and ECOL computed from them (R324). -/
def Engine.setLoops (e : Engine) (c : Card) (l : List Nat) : Engine :=
  let at_ (k : Nat) : Nat := (nth l k).getD 0
  let rows := (List.range 5).filter (fun k => c.role k == 1)
  let cols := (List.range 5).filter (fun k => c.role k == 2)
  { e with
    eloop := Vector.ofFn (fun k : Fin 5 => BitVec.ofNat 16 (at_ k.val))
    edep := BitVec.ofNat 32 (mixIndex c.trip at_ c.inner)
    erow := BitVec.ofNat 32 (c.trows * mixIndex c.trip at_ rows)
    ecol := BitVec.ofNat 32 (c.tcols * mixIndex c.trip at_ cols + 256 * c.half) }

def Engine.loops (e : Engine) : List Nat := (List.range 5).map e.loop
/-- The output tile number (R324). -/
def Engine.tileNo (e : Engine) (c : Card) : Nat := mixIndex c.trip e.loop c.outer
def Engine.tileFirst (e : Engine) (c : Card) : Bool := c.inner.all (fun k => e.loop k == 0)
def Engine.tileLast (e : Engine) (c : Card) : Bool := c.xlvl ≤ 4 && c.inner.all (fun k => e.loop k + 1 == c.trip k)
def Engine.walkLast (e : Engine) (c : Card) : Bool := (List.range 5).all (fun k => e.loop k + 1 == c.trip k)

/-- The next indices, L0 innermost. -/
def nextLoops (c : Card) (l : List Nat) : List Nat :=
  (l.zipIdx.foldl (fun (acc : List Nat × Bool) (p : Nat × Nat) =>
    if !acc.2 then (acc.1 ++ [p.1], false)
    else if p.1 + 1 < c.trip p.2 then (acc.1 ++ [p.1 + 1], false) else (acc.1 ++ [0], true)) ([], true)).1

/-! ## Reading and writing (R266, R297) -/

/-- Whose accesses a panel's engine makes. -/
def State.engineWho (s : State) (core pslot : Nat) : Who :=
  match s.panel? core pslot with
  | some p => s.skeinWho p.skein core none
  | none => { ctx := 0, root := 0, skein := none, core, launch := none, strand := none }

/-- Read n bytes that may span lines; `hits` answers the places read. -/
def State.engRead (s : State) (w : Who) (core : Nat) (a : Word) : Nat → Nat → Except Sect (List Byte × List (Loc × Nat))
  | 0, _ => .ok ([], [])
  | fuel + 1, n =>
    if n == 0 then .ok ([], []) else
    let k := min n (128 - a.toNat % 128)
    match s.engineRead none w core a k with
    | .error e => .error e
    | .ok (b, l) => match State.engRead s w core (a + BitVec.ofNat 64 k) fuel (n - k) with
      | .error e => .error e
      | .ok (b2, l2) => .ok (b ++ b2, l ++ l2)

/-- Write bytes along the routes of R266, spanning lines. -/
def State.engWrite (s : State) (w : Who) (core : Nat) (ev : Ev) (a : Word) : Nat → List Byte → Except Sect State
  | 0, _ => .ok s
  | fuel + 1, b =>
    if b.isEmpty then .ok s else
    let k := min b.length (128 - a.toNat % 128)
    match s.home w .store a with
    | .error e => .error (.fault e a)
    | .ok l => match s.routeAt core true a l k with
      | .error (.trap t) => .error (.fault ⟨t.detail, t.lines⟩ a)
      | .error (.hold _) => .error .wait
      | .ok r =>
        match r.locs.findSome? (fun (p, _) => match s.lineFor none a p with | .error e => some e | .ok _ => none) with
        | some e => .error e
        | none => match s.routeWrite ev (b.take k) r with
          | .error (.trap t) => .error (.fault ⟨t.detail, t.lines⟩ a)
          | .error (.hold _) => .error .wait
          | .ok s => State.engWrite s w core ev (a + BitVec.ofNat 64 k) fuel (b.drop k)

/-! ## Alignment (R299) -/

/-- An aligned block: the values, log2 of the scale, the width, the planes it needs, and its counts; none is a NaN block (R310). -/
structure Block where
  v     : List Int
  scale : Int
  width : Nat
  plane : Nat
  loss  : Nat
  flush : Nat
  deriving DecidableEq, Repr

/-- Elements of a B plane block (R269): for WB, the pair, two zero bytes, the selector plane and the mantissa planes. -/
def planeElems (t : Tag) (b : Nat) : List Nat :=
  let n := tagWidth t
  let base := if wbTag t then 32 else 0
  let bit (k i : Nat) : Nat := b / 2 ^ (base + 32 * k + i) % 2
  (List.range 32).map (fun i => (List.range n).foldl (fun v k =>
    v + bit k i * 2 ^ (if wbTag t then (if k == 0 then n - 1 else k - 1) else k)) 0)

/-- Align a WB block. -/
def alignWb (t : Tag) (e0 e1 : Nat) (es : List Nat) : Option Block :=
  if e0 == 255 || e1 == 255 then none else
  let m := wbMant t
  let eref := max ((max e0 e1 : Int) - 8) (min e0 e1 : Int)
  let el := es.map (fun x => (signExt x m, ((if x.testBit m then e1 else e0) : Int) - eref))
  let rs := el.map (fun (M, sh) =>
    if 0 ≤ sh then (M * 2 ^ sh.toNat, false, false)
    else
      let (q, inexact) := roundMag 0 (decide (M < 0)) M.natAbs (-sh)
      ((if M < 0 then -(q : Int) else q), q == 0 && M != 0, q != 0 && inexact))
  let shs := (el.filter (fun (M, _) => M != 0)).map (fun (_, sh) => sh.toNat)
  let smax := shs.foldl max 0
  let smin := (shs.min?).getD 0
  some { v := rs.map (·.1), scale := eref - 127 - ((m : Int) - 1), width := m + smax, plane := m + smax - smin,
         loss := (rs.filter (·.2.2)).length, flush := (rs.filter (·.2.1)).length }

/-- An integer block. -/
def alignInt (t : Tag) (es : List Nat) : Block :=
  let n := tagWidth t
  { v := es.map (fun x => if signedTag t then signExt x n else (x : Int)), scale := 0, width := n, plane := n, loss := 0, flush := 0 }

/-- Read and align the A block at an address (R299, R324). -/
def State.readA (s : State) (w : Who) (core : Nat) (c : Card) (y : Int) : Except Sect (Option Block × List (Word × List (Loc × Nat))) :=
  let a := wordOf y
  match s.engRead w core a 3 c.ab with
  | .error e => .error e
  | .ok (b, l) =>
    let es := (List.range 32).map (fun i => leNat b / 2 ^ (i * tagWidth c.atag) % 2 ^ tagWidth c.atag)
    if !wbTag c.atag then .ok (some (alignInt c.atag es), [(a, l)]) else
    let p := wordOf ((c.aside : Int) + (y - c.abase) / c.ab * 2)
    match s.engRead w core p 3 2 with
    | .error e => .error e
    | .ok (pb, pl) => .ok (alignWb c.atag (leNat pb % 256) (leNat pb / 256) es, [(a, l), (p, pl)])

/-- Read and align the B block at an address. -/
def State.readB (s : State) (w : Who) (core : Nat) (c : Card) (y : Int) : Except Sect (Option Block × List (Word × List (Loc × Nat))) :=
  let a := wordOf y
  match s.engRead w core a 3 c.bb with
  | .error e => .error e
  | .ok (b, l) =>
    let es := planeElems c.btag (leNat b)
    if wbTag c.btag then .ok (alignWb c.btag (leNat b % 256) (leNat b / 256 % 256) es, [(a, l)])
    else .ok (some (alignInt c.btag es), [(a, l)])

/-! ## One depth step (R300 to R302, R306 to R310) -/

/-- The coefficient of x^n in the convolution of two blocks (R301). -/
def convAt (a b : List Int) (n : Nat) : Int :=
  (List.range 32).foldl (fun z i => if i ≤ n && n - i < 32 then z + ((nth a i).getD 0) * ((nth b (n - i)).getD 0) else z) 0

/-- The exact sums of one block pair by local row and column (R300 to R302); CPLX block h fills rows 16h to 16h + 15. -/
def pairSums (mode h : Nat) (a b : List Int) : List (Nat × Nat × Int) :=
  match mode with
  | 0 => a.zipIdx.flatMap (fun (x, i) => if x == 0 then [] else b.zipIdx.map (fun (y, j) => (i, j, x * y)))
  | 1 => (List.range 63).map (fun n => (n / 32, n % 32, convAt a b n))
  | _ =>
    let at_ (l : List Int) (i : Nat) : Int := (nth l i).getD 0
    (List.range 16).flatMap (fun q => (List.range 16).flatMap (fun j =>
      let (ar, ai, br, bi) := (at_ a (2 * q), at_ a (2 * q + 1), at_ b (2 * j), at_ b (2 * j + 1))
      [(16 * h + q, 2 * j, ar * br - ai * bi), (16 * h + q, 2 * j + 1, ar * bi + ai * br)]))

/-- A digit's key: half, row, column. -/
def digitKey (half row col : Nat) : Nat := half * 65536 + row * 256 + col

/-- L of R306. -/
def modeBits (mode : Nat) : Nat := match mode with | 1 => 5 | 2 => 1 | _ => 0

/-- Add a value to a digit; zero digits are not listed. -/
def addDigit (m : KMap Int) (k : Nat) (v : Int) : KMap Int :=
  let z := (kget m k).getD 0 + v
  if z == 0 then kdel m k else kset m k z

/-- A contribution (R307): its value, and whether it was flushed or inexact. -/
def contribution (S : Int) (e E : Int) : Int × Bool × Bool :=
  if E ≤ e then (S * 2 ^ (e - E).toNat, false, false)
  else
    let (q, inexact) := roundMag 0 (decide (S < 0)) S.natAbs (E - e)
    ((if S < 0 then -(q : Int) else q), q == 0 && S != 0, q != 0 && inexact)

/-- What a depth step reads: A blocks by slice row and block, B blocks by slice column. -/
structure StepIn where
  a : List (Nat × Nat × Option Block)
  b : List (Nat × Option Block)
  deriving DecidableEq, Repr

/-- Candidate pairs (R306). -/
def StepIn.pairs (x : StepIn) : List (Nat × Nat × Nat × Block × Block) :=
  x.a.flatMap (fun (sr, h, a) => match a with
    | none => []
    | some a => x.b.filterMap (fun (sc, b) => b.map (fun b => (sr, h, sc, a, b))))

/-- 32 mask bits from a bit position. -/
def mask32 (i : Nat) : BitVec 256 := BitVec.ofNat 256 (0xFFFFFFFF * 2 ^ (32 * i))

/-- Poisoned (R310). -/
def Engine.poisoned (e : Engine) (k : Nat) : Bool := e.emaskr.getLsbD (k % 65536 / 256) || e.emaskc.getLsbD (k % 256)

/-- One depth step on the engine: the new engine with the launch's counts, or none when a digit leaves the guard range (R308). -/
def Engine.step (e : Engine) (c : Card) (x : StepIn) : Option (Engine × List Nat) :=
  let pairs := x.pairs
  let mr := x.a.foldl (fun m (sr, _, a) => if a.isNone then m ||| mask32 sr else m) e.emaskr
  let mc := x.b.foldl (fun m (sc, b) => if b.isNone then m ||| mask32 sc else m) e.emaskc
  let e1 : Engine := { e with emaskr := mr, emaskc := mc }
  let bits (a b : Block) : Int := (a.width : Int) + b.width - 1 + modeBits e.mode
  let e1 := if e.eaccV || !e.derived || pairs.isEmpty then e1 else
    let cands := pairs.map (fun (_, _, _, a, b) => a.scale + b.scale + max 0 (bits a b + e.h - e.gbits))
    e1.setEacc true true ((cands.max?).getD 0)
  let E := e1.eaccExp
  let half := if e.g == 0 then c.half else 0
  let align := x.a.filterMap (fun (_, _, a) => a) ++ x.b.filterMap (·.2)
  let loss0 := (align.map (·.loss)).sum
  let cnt0 := x.a.flatMap (fun (_, _, a) => a.elim [] (fun a => List.replicate a.flush (3 * c.atens + 1))) ++
    x.b.flatMap (fun (_, b) => b.elim [] (fun b => List.replicate b.flush (3 * c.btens + 1)))
  let (digits, loss, flush) := pairs.foldl (fun acc (sr, h, sc, a, b) =>
    (pairSums e.mode h a.v b.v).foldl (fun (acc : KMap Int × Nat × Nat) (p : Nat × Nat × Int) =>
      let (v, fl, lo) := contribution p.2.2 (a.scale + b.scale) E
      ((if v == 0 then acc.1 else addDigit acc.1 (digitKey half (32 * sr + p.1) (32 * sc + p.2.1)) v),
        (if lo then acc.2.1 + 1 else acc.2.1), (if fl then acc.2.2 + 1 else acc.2.2))) acc) (e.digits, loss0, 0)
  let lim : Int := 2 ^ (e.gbits - 1)
  let out (k : Nat) (d : Int) : Bool := !e1.poisoned k && (d < -lim || lim ≤ d)
  let beyond := digits.filter (fun (k, d) => out k d)
  if !e.sat && !beyond.isEmpty then none else
  let digits := if beyond.isEmpty then digits else
    kmapVals digits (fun k d => if out k d then (if d < 0 then -lim else lim - 1) else d)
  some ({ e1 with digits, eloss := BitVec.ofNat 32 (min (e.eloss.toNat + loss) 0xFFFFFFFF) },
    cnt0 ++ List.replicate flush (3 * c.otens + 1) ++ List.replicate beyond.length (3 * c.otens))

/-! ## Ranges (R327) -/

/-- The lowest and highest of a base moved by strides over some levels. -/
def spanOf (c : Card) (base : Int) (str : Nat → Int) (levels : List Nat) : Int × Int :=
  levels.foldl (fun (p : Int × Int) k =>
    let d := ((c.trip k : Int) - 1) * str k
    (p.1 + min d 0, p.2 + max d 0)) (base, base)

/-- Bytes of the destination image from its base, side pairs included (R325). -/
def Card.imageBytes (c : Card) : Nat :=
  let row := ceilDiv (c.tcols * tagWidth c.otag) 8
  let img := (c.trows - 1) * c.xpitch + row
  if wbTag c.otag then max img (c.trows * c.xpitch + c.trows * c.tcols / 32 * 2) else img

/-- The destination range in overwrite and accumulate modes; `walk` false for EXT, whose destination is XDST itself. -/
def Card.dstRange (c : Card) (walk : Bool) : List (Int × Int × Bool) :=
  if c.xmode == 2 || (walk && 4 < c.xlvl) then [] else
  let (lo, hi) := spanOf c c.xdst c.cstr (if walk then c.outer else [])
  [(lo, hi + c.imageBytes, true)]

/-- The ranges a job can reach: low, end, destination. -/
def Card.ranges (c : Card) : List (Int × Int × Bool) :=
  let (alo, ahi) := spanOf c c.abase c.astr (List.range 5)
  let aend := ahi + (c.srows * c.ablocks - 1) * c.asr + c.ab
  let (blo, bhi) := spanOf c c.bbase c.bstr (List.range 5)
  let pair (y : Int) : Int := (c.aside : Int) + (y - c.abase) / c.ab * 2
  [(alo, aend, false)] ++ (if c.aside != 0 then [(pair alo, pair (aend - c.ab) + 2, false)] else []) ++
    [(blo, bhi + (c.scols - 1) * c.bsc + c.bb, false)] ++ c.dstRange true

def rangeLocks (l : List (Int × Int × Bool)) : List (Word × Nat × Bool) :=
  l.map (fun (lo, hi, d) => (wordOf lo, (hi - lo).toNat, d))

/-- The operation that holds a panel's engine ranges. -/
def State.engineOp (s : State) (core pslot : Nat) (cause : Word32) : Op :=
  let sk := (s.panel? core pslot).map (·.skein)
  { kind := .job core, ctx := (sk.map s.skeinCtx).getD 0, launch := (sk.bind s.skein?).map (·.launch), skein := sk,
    issuer := .device, core, cause, parent := sk.elim 0 s.skeinCause, signal := none, cursor := 0, started := s.time.gt, moved := 0,
    doneAt := 0, waiting := false, fault := none }

/-- Register an engine's ranges under a new operation; none when the table has too few free entries. -/
def State.engineLocks (s : State) (core pslot : Nat) (cause : Word32) (l : List (Int × Int × Bool)) : Option (Nat × State) :=
  let (id, s) := s.newId
  (s.takeLocks core id 2 (rangeLocks l)).map (fun s => (id, s.setOp id (s.engineOp core pslot cause)))

/-! ## Gates (R336) -/

/-- The sequencer party's arrival at a panel barrier (R318, R344): each counts toward the phase after the one before it (R345). -/
def State.seqArrive (s : State) (core pslot n : Nat) (cause parent : Word32) : State :=
  match s.panel? core pslot, s.bar? (.panel core pslot) n with
  | some p, some b =>
    let (ph, _) := nextArrival p.sarrs 1 n b.phase
    (s.setPanel core pslot { p with sarrs := setArr p.sarrs ⟨1, n, ph, cause, parent, s.time.gt⟩ }).evalBar (.panel core pslot) n cause parent 3
  | _, _ => s

/-- Perform some SBA gates of the loaded job. -/
def State.performSba (s : State) (core : Nat) (which : Gate → Bool) : State :=
  match (s.engine core).job with
  | none => s
  | some j =>
    let s := s.modEngine core (fun e => { e with job := some { j with sba := j.sba.filter (fun g => !which g) } })
    (j.sba.filter which).foldl (fun s g => s.seqArrive core j.pslot g.barrier j.cause (s.engineOp core j.pslot 0).parent) s

/-- Whether the current output tile still has a gate that has not opened, and whether each such gate's phase has completed. -/
def State.tileGates (s : State) (core : Nat) (e : Engine) (j : Job) : List (Gate × Bool) :=
  (j.sbw.filter (fun (g, _) => g.tile == e.tileNo j.card)).map (fun (g, ph) =>
    (g, (s.bar? (.panel core j.pslot) g.barrier).elim true (fun b => phasePassed ph b.phase)))

/-- The engine stands before the first depth step of an output tile: its waiting time starts (R339). -/
def Job.enterTile (j : Job) : Job := { j with waited := 0, waitFrom := none }
/-- The engine waits, or goes on after waiting. -/
def Job.waits (j : Job) (gt : Nat) : Job := if j.waitFrom.isSome then j else { j with waitFrom := some gt }
def Job.goesOn (j : Job) (gt : Nat) : Job :=
  match j.waitFrom with
  | some t => { j with waited := j.waited + (gt - t), waitFrom := none }
  | none => j

/-- Re-register the ranges of a job that a pre-emption or a debug stop has stopped, once its skein runs again (R332). -/
def State.resumeJob (s : State) (core : Nat) : State :=
  let e := s.engine core
  match e.job with
  | none => s
  | some j =>
    let runs : Bool := match s.panel? core j.pslot with
      | some p => !p.stopped && (s.skein? p.skein).elim false (fun k => k.phase == .placed)
      | none => false
    if !(e.live && e.stop == 4 && runs) then s else
    match s.engineLocks core j.pslot j.cause j.card.ranges with
    | none => s
    | some (id, s) => s.modEngine core (fun e => { (e.setStop 0) with job := some { j with op := id } })

/-- SBW_GATE_OPEN (R336): the gates of the current output tile open when their phases have completed. -/
def execSbwGateOpen (core : Nat) (s : State) : Host.Outcome State Fault Refusal :=
  let s := s.resumeJob core
  let e := s.engine core
  match e.job with
  | none => .next s
  | some j =>
    let gs := s.tileGates core e j
    if !e.running || e.extract.isSome || !e.tileFirst j.card || gs.isEmpty || !gs.all (·.2) then .next s
    else
      let tile := e.tileNo j.card
      let j := { j with sbw := j.sbw.filter (fun (g, _) => g.tile != tile) }
      .next (s.modEngine core (fun e => { e with job := some (j.goesOn s.time.gt) }))

/-! ## The job's end, and its faults -/

/-- The job's walk has ended: STOP 0x01, the remaining gates, its ranges, JOB_DONE (R324). -/
def State.jobDone (s : State) (core : Nat) : State :=
  match (s.engine core).job with
  | none => s
  | some j =>
    let s := s.modEngine core (fun e => (e.setLive false).setStop 1)
    let s := (s.performSba core (fun _ => true)).endOp j.op
    let s := s.emit (s.jobEv core j.pslot j.cause 0x81
      (j.tiles % 2 ^ 32 + (s.engine core).eloss.toNat * 2 ^ 32 + (s.time.gt - j.startGt) / s.clockGt % 2 ^ 32 * 2 ^ 64))
    s.modEngine core (fun e => { e with job := none })

/-- The engine parks on a fault: HOST_FAULT with issuer 0x02, retried as R250 lays down (R314, R335). -/
def State.parkEngine (s : State) (core : Nat) (cause : Word32) (x : Sect) : State :=
  let pslot := (s.engine core).owner.getD 0
  let o := s.engineOp core pslot cause
  let park (s : State) (a : Word) (detail : Byte) (lines : List Nat) : State :=
    s.hostFault { who := .engine core, ctx := o.ctx, cause, parent := o.parent, addr := a, detail, core := BitVec.ofNat 8 core,
                  slot := 0x1F, issuer := 2, lines, tried := s.time.gt, due := false, again := false }
  match x with
  | .wait => s
  | .fault e a => park s a e.detail e.lines
  | .ue l a => park (s.memUe l core cause o.parent o.ctx) a 0x01 []

/-- An engine is parked on a fault that is not being tried again. -/
def State.engineParked (s : State) (core : Nat) : Bool :=
  s.async.faults.any (fun (_, p) => p.who == FaultWho.engine core && !p.again)

/-- The engine has gone on after a fault. -/
def State.engineGoesOn (s : State) (core : Nat) : State := if s.async.faults.isEmpty then s else s.faultOver (.engine core)

/-- An operand fault under FTRAP (R331): EFAULT, and STOP 0x03. -/
def State.faultStop (s : State) (core : Nat) (j : Job) (x : Sect) : State :=
  let set (s : State) (a : Word) (cause detail : Byte) : State :=
    (s.modPanel core j.pslot (fun p => { p with efAddr := a, efCause := cause, efDetail := detail })).stopEngine core 3
  match x with
  | .wait => s
  | .fault e a => set s a Cause.xlate e.detail
  | .ue l a =>
    let o := s.engineOp core j.pslot j.cause
    set (s.memUe l core j.cause o.parent o.ctx) a Cause.ecc 0x01

/-! ## DEPTH_STEP (R307, R311, R324) -/

/-- The operands of the step at the current indices. -/
def State.stepIn (s : State) (core : Nat) (j : Job) (e : Engine) : Except Sect (StepIn × List (Word × List (Loc × Nat))) :=
  let c := j.card
  let w := s.engineWho core j.pslot
  let off (str : Nat → Int) : Int := ((List.range 5).map (fun k => (e.loop k : Int) * str k)).sum
  let a := (c.abase : Int) + off c.astr
  let b := (c.bbase : Int) + off c.bstr
  let rows := (List.range c.srows).flatMap (fun sr => (List.range c.ablocks).map (fun h => (sr, h)))
  match allSect (fun (sr, h) => match s.readA w core c (a + ((c.ablocks * sr + h) * c.asr : Nat)) with
      | .error e => .error e
      | .ok (x, l) => .ok ((sr, h, x), l)) rows with
  | .error e => .error e
  | .ok as => match allSect (fun sc => match s.readB w core c (b + (sc * c.bsc : Nat)) with
      | .error e => .error e
      | .ok (x, l) => .ok ((sc, x), l)) (List.range c.scols) with
    | .error e => .error e
    | .ok bs => .ok ({ a := as.map (·.1), b := bs.map (·.1) }, as.flatMap (·.2) ++ bs.flatMap (·.2))

/-- Clear the digits of the half in use, the masks, and EACC.V under the derived policy (R309, R324). -/
def Engine.clearHalf (e : Engine) (c : Card) : Engine :=
  { e with
    digits := if e.g == 0 then e.digits.filter (fun (k, _) => k / 65536 != c.half) else []
    emaskr := 0
    emaskc := 0
    eacc := if e.derived then e.eacc &&& 0x7FFFFFFF else e.eacc }

/-- The digits of the half in use, by row and column. -/
def Engine.halfDigits (e : Engine) (c : Card) : KMap Int :=
  let half := if e.g == 0 then c.half else 0
  (e.digits.filter (fun (k, _) => k / 65536 == half)).map (fun (k, d) => (k % 65536, d))

/-- An extraction of the engine's current digits to a destination. -/
def Engine.extraction (e : Engine) (c : Card) (x tile pslot : Nat) (cause : Word32) (op : Nat) (byExt clr : Bool) (gt : Nat) : Extract :=
  { tile, card := c, x, digits := e.halfDigits c, exp := e.eaccExp, maskr := e.emaskr, maskc := e.emaskc, cursor := 0,
    started := gt, pslot, cause, op, byExt, clr }

/-- DEPTH_STEP (R307): one depth step of the running job. An absent operand line or an SBW gate makes the engine wait; an operand fault
stops the job under FTRAP and is parked otherwise (R314, R331); a digit out of range stops it with STOP 0x02 (R308). The last step of an
output tile begins its extraction (R311, R324). -/
def execDepthStep (core : Nat) (s : State) : Host.Outcome State Fault Refusal :=
  let s := s.resumeJob core
  let e := s.engine core
  match e.job with
  | none => .next s
  | some j =>
    if !e.running || e.extract.isSome || j.walked || s.engineParked core then .next s
    else
      let setJob (s : State) (j : Job) : State := s.modEngine core (fun e => { e with job := some j })
      if e.tileFirst j.card && !(s.tileGates core e j).isEmpty then .next (setJob s (j.waits s.time.gt)) else
      match s.stepIn core j e with
      | .error .wait => .next (setJob s (j.waits s.time.gt))
      | .error x => .next (if j.card.ftrap then s.faultStop core j x else s.parkEngine core j.cause x)
      | .ok (x, places) =>
        let j := j.goesOn s.time.gt
        let j := if e.tileFirst j.card then { j with tileStart := s.time.gt } else j
        let o := s.engineOp core j.pslot j.cause
        let s := (setJob s j).engineGoesOn core
        let s := places.foldl (fun s (a, l) => s.engineHits 2 core j.cause o.parent o.ctx 36 a l) s
        match e.step j.card x with
        | none => .next (s.stopEngine core 2)
        | some (e1, cnts) =>
          let s := s.countStats o.launch cnts
          let c := j.card
          let last := e.walkLast c
          let e1 := { e1 with job := some { j with walked := last } }
          if e.tileLast c then
            let dst := ((if c.xmode == 2 then bitsOf c.xdst 47 16 else c.xdst : Nat) : Int) +
              (c.outer.map (fun k => (e.loop k : Int) * c.cstr k)).sum
            let ext := e1.extraction c dst.toNat (e.tileNo c) j.pslot j.cause j.op false false s.time.gt
            let e2 := e1.clearHalf c
            let e2 := if last then e2 else e2.setLoops c (nextLoops c e.loops)
            .next (s.modEngine core (fun e => { e2 with owner := e.owner, waiters := e.waiters, extract := some ext }))
          else
            let e2 := if last then e1 else e1.setLoops c (nextLoops c e.loops)
            let s := s.modEngine core (fun e => { e2 with owner := e.owner, waiters := e.waiters })
            .next (if last then s.jobDone core else s)

/-! ## The sectors of an extraction (R311, R325) -/

/-- A digit's value, none when poisoned (R310). -/
def Extract.value (x : Extract) (r c : Nat) : Option FpNum :=
  if x.maskr.getLsbD r || x.maskc.getLsbD c then none else
  let d := (kget x.digits (r * 256 + c)).getD 0
  some (.fin (decide (d < 0)) d.natAbs x.exp)

/-- The element of a format that is not WB, with its counts (R311). -/
def Extract.elem (x : Extract) (r c : Nat) (old : FpNum) : Nat × List Nat :=
  let k := x.card
  match x.value r c with
  | none => ((if fpTag k.otag && k.otag != 0x10 then fpNan k.otag else 0), [3 * k.otens + 2])
  | some v =>
    let z := if k.xmode == 1 then (old.add k.xrm v).1 else v
    let q := roundTo k.otag k.xrm z
    (q.bits, cntKeys k.otens (if z.isFin then q.cnt else .nonfin))

/-- A WB block of row r: pair, elements and counts (R197, R311). -/
def Extract.block (x : Extract) (r blk : Nat) : Nat × Nat × List Nat × List Nat :=
  let t := x.card.otens
  let vs := (List.range 32).map (fun i => x.value r (32 * blk + i))
  let bad := (vs.filter (·.isNone)).length
  if bad != 0 then (255, 255, List.replicate 32 0, List.replicate bad (3 * t + 2))
  else
    let b := wbConvert x.card.otag (vs.map (fun v => v.getD .nan))
    (b.e0, b.e1, b.elems, List.replicate b.sat (3 * t) ++ List.replicate b.flush (3 * t + 1) ++ List.replicate b.nonfin (3 * t + 2))

/-- A run of destination bytes: its first address and its length. -/
def Extract.rows (x : Extract) : List (Nat × Nat) :=
  let c := x.card
  let nb := ceilDiv (c.tcols * tagWidth c.otag) 8
  (List.range c.trows).map (fun r => (x.x + r * c.xpitch, nb)) ++
    (if wbTag c.otag then [(x.x + c.trows * c.xpitch, c.trows * c.tcols / 32 * 2)] else [])

/-- The next destination sector at or above the cursor, none when the extraction has written all. -/
def Extract.nextSector (x : Extract) : Option Nat :=
  (x.rows.filterMap (fun (a, n) =>
    let last := (a + n - 1) / 32
    if n == 0 || last < x.cursor then none else some (max x.cursor (a / 32)))).min?

/-- Row r's part of a sector: its first address, bytes and counts; `old` are the bytes that stand there. An element belongs to the
sector of its first byte. -/
def Extract.rowPart (x : Extract) (r lo hi : Nat) (old : Nat → Nat → Except Sect Nat) : Except Sect (Nat × List Byte × List Nat) :=
  let c := x.card
  let ew := tagWidth c.otag
  let a := x.x + r * c.xpitch
  if wbTag c.otag then
    let B := 4 * ew
    let from_ := max lo a
    let to_ := min hi (a + c.tcols / 32 * B)
    let blk := ((List.range (c.tcols / 32)).filter (fun k => a + k * B < to_ && from_ < a + (k + 1) * B)).map (fun k => (k, x.block r k))
    let byte (q : Nat) : Byte :=
      let k := (q - a) / B
      match blk.find? (fun (j, _) => j == k) with
      | some (_, _, _, es, _) => BitVec.ofNat 8 (packLanes ew es / 256 ^ ((q - a) % B))
      | none => 0
    .ok (from_, (List.range (to_ - from_)).map (fun i => byte (from_ + i)),
      blk.flatMap (fun (k, _, _, _, cn) => if lo ≤ a + k * B && a + k * B < hi then cn else []))
  else
    let cols := (List.range c.tcols).filter (fun j => lo ≤ a + j * ew / 8 && a + j * ew / 8 < hi)
    match cols with
    | [] => .ok (lo, [], [])
    | j0 :: _ =>
      let start := a + j0 * ew / 8
      match allSect (fun j =>
          if c.xmode == 1 then match old (a + j * ew / 8) (j * ew % 8) with
            | .error e => .error e
            | .ok v => .ok (x.elem r j (numOf c.otag v))
          else .ok (x.elem r j .nan)) cols with
      | .error e => .error e
      | .ok es =>
        if ew == 4 then
          -- a byte whose other nibble is not an element of this row keeps that nibble
          let len := (a + (cols.getLast?.getD j0) * ew / 8) - start + 1
          match allSect (fun i =>
              let q := start + i
              let nib (h : Nat) : Option Nat := ((cols.zip es).find? (fun (j, _) => 2 * a + j == 2 * q + h)).map (fun (_, v, _) => v)
              match nib 0, nib 1 with
              | some l, some h => .ok (BitVec.ofNat 8 (l + 16 * h))
              | some l, none => match old q 4 with | .ok h => .ok (BitVec.ofNat 8 (l + 16 * h)) | .error e => .error e
              | none, some h => match old q 0 with | .ok l => .ok (BitVec.ofNat 8 (l + 16 * h)) | .error e => .error e
              | none, none => .ok 0) (List.range len) with
          | .error e => .error e
          | .ok bs => .ok (start, bs, es.flatMap (·.2))
        else .ok (start, es.flatMap (fun (v, _) => leBytes (ew / 8) v), es.flatMap (·.2))

/-- The pairs of a WB image in a sector. -/
def Extract.pairPart (x : Extract) (lo hi : Nat) : Nat × List Byte :=
  let c := x.card
  let base := x.x + c.trows * c.xpitch
  let n := c.tcols / 32
  let from_ := max lo base
  let to_ := min hi (base + c.trows * n * 2)
  (from_, (List.range (to_ - from_)).map (fun i =>
    let q := from_ + i - base
    let (e0, e1, _, _) := x.block (q / 2 / n) (q / 2 % n)
    BitVec.ofNat 8 (if q % 2 == 0 then e0 else e1)))

/-- Write one run of an extraction's bytes. -/
def State.extractWrite (s : State) (core : Nat) (x : Extract) (a : Nat) (b : List Byte) : Except Sect State :=
  if b.isEmpty then .ok s else
  let o := s.engineOp core x.pslot x.cause
  let w := s.engineWho core x.pslot
  let addr := BitVec.ofNat 64 a
  let ev := { (s.jobEv core x.pslot x.cause 0 0) with source := State.copySrc x.op }
  match s.engWrite w core ev addr 3 b with
  | .error e => .error e
  | .ok s => .ok (s.engineHits 2 core x.cause o.parent o.ctx 37 addr
      (match s.homes w .load addr 3 b.length with | .ok l => l | .error _ => []))

/-- One destination sector in overwrite and accumulate modes: its rows in ascending order, then its pairs. -/
def State.extractSector (s : State) (core : Nat) (x : Extract) (sec : Nat) : Except Sect State :=
  let c := x.card
  let lo := sec * 32
  let hi := lo + 32
  let w := s.engineWho core x.pslot
  let ew := tagWidth c.otag
  let rows := (List.range c.trows).filter (fun r =>
    let a := x.x + r * c.xpitch
    a < hi && lo < a + ceilDiv (c.tcols * ew) 8)
  let r := rows.foldl (fun (acc : Except Sect State) r => match acc with
    | .error e => .error e
    | .ok s =>
      let old (q bit : Nat) : Except Sect Nat := match s.engRead w core (BitVec.ofNat 64 q) 3 (max (ew / 8) 1) with
        | .error e => .error e
        | .ok (b, _) => .ok (leNat b / 2 ^ bit % 2 ^ ew)
      match x.rowPart r lo hi old with
      | .error e => .error e
      | .ok (a, b, cn) => match s.extractWrite core x a b with
        | .error e => .error e
        | .ok s => .ok (s.countStats (s.engineOp core x.pslot 0).launch cn)) (.ok s)
  match r with
  | .error e => .error e
  | .ok s => if wbTag c.otag then let (a, b) := x.pairPart lo hi; s.extractWrite core x a b else .ok s

/-- Element k, in row order, of a log-to-tile extraction: as TACC add on its tile (R289, R325). -/
def State.extractLog (s : State) (core : Nat) (x : Extract) (k : Nat) : Except Sect State :=
  let c := x.card
  let r := k / c.tcols
  let col := k % c.tcols
  let idx := bitsOf c.xdst 9 0
  let o := s.engineOp core x.pslot x.cause
  match o.launch with
  | none => .error .wait
  | some l => match s.readTile l idx with
    | .error (.xlate e a) => .error (.fault e a)
    | .error .format => .error (.fault ⟨Xlate.bound, []⟩ (BitVec.ofNat 64 idx))
    | .ok t =>
      let (skip, v, cn) : Bool × Nat × List Nat := match x.value r col with
        | none => (false, (if fpTag t.tag && t.tag != 0x10 then fpNan (wideTag t.tag) else 0), [3 * c.otens + 2])
        | some z =>
          let q := roundTo (if fpTag t.tag then wideTag t.tag else t.tag) c.xrm z
          (z.isZero, q.bits, cntKeys c.otens q.cnt)
      if skip then .ok s else
      let i := x.x + (if t.layout == 1 then col * t.rows + r else r * t.cols + col)
      let (off, bit) := t.elemOff i
      let a := t.byteAddr off
      if t.elems ≤ i then .error (.fault ⟨Xlate.bound, []⟩ a) else
      let home (q : Nat) : Except Stop Loc :=
        match s.home (s.tileWho t.launch) .store (t.home + BitVec.ofNat 64 (off + q)) with
        | .ok l => .ok l
        | .error e => .error (e.stop a)
      let fail (e : Stop) : Sect := match e with
        | .trap t => .fault ⟨t.detail, t.lines⟩ a
        | .hold _ => .wait
      match allOk (fun q => s.tileByte t core true true a (off + q) (home q)) (List.range t.eb) with
      | .error e => .error (fail e)
      | .ok ds =>
        let opnd : Opnd := { a, route := .split ds, home := [], bit }
        match opnd.route.locs.findSome? (fun (p, _) => match s.lineFor none a p with | .error e => some e | .ok _ => none) with
        | some e => .error e
        | none => match s.routeBad opnd.route with
          | some p => .error (.ue p a)
          | none =>
            let ev := { (s.jobEv core x.pslot x.cause 0 0) with source := State.copySrc x.op }
            match s.accElem ev 2 (BitVec.ofNat 64 v) (t, i, opnd) with
            | .error e => .error (fail e)
            | .ok s => .ok ((s.countStats (some l) cn).engineHits 2 core x.cause o.parent o.ctx 37 a opnd.route.locs)

/-- Every destination sector has completed, or every log entry has been accepted. -/
def Extract.finished (x : Extract) : Bool :=
  if x.card.xmode == 2 then x.card.trows * x.card.tcols ≤ x.cursor else x.nextSector.isNone

/-- The next sector or log entry of a core's extraction; a fault parks the engine there (R335). -/
def State.extractNext (s : State) (core : Nat) : State :=
  match (s.engine core).extract with
  | none => s
  | some x =>
    if x.finished || s.engineParked core then s else
    let (r, next) := if x.card.xmode == 2 then (s.extractLog core x x.cursor, x.cursor + 1)
      else match x.nextSector with
        | some sec => (s.extractSector core x sec, sec + 1)
        | none => (.ok s, x.cursor)
    match r with
    | .error e => s.parkEngine core x.cause e
    | .ok s => (s.modEngine core (fun e => { e with extract := some { x with cursor := next } })).engineGoesOn core

/-! ## TILE_EXTRACT (R325, R335, R336, R339) -/

/-- Poisoned elements of an extraction. -/
def Extract.poisonedCount (x : Extract) : Nat :=
  ((List.range x.card.trows).map (fun r => ((List.range x.card.tcols).filter (fun c => (x.value r c).isNone)).length)).sum

/-- The stamp of an extracted output tile (R436). -/
def State.extractStamp (s : State) (core : Nat) (x : Extract) (first waited : Nat) : State :=
  match (s.engineOp core x.pslot 0).launch with
  | none => s
  | some l =>
    if !(s.launch? l).elim false (·.hdr.trctl.getLsbD 16) then s else
    let all := s.time.gt - first
    let out := s.time.gt - x.started
    s.traceEv l (s.jobEv core x.pslot x.cause 0xD4 (1 + x.tile % 4096 * 2 ^ 4 + dur64 all * 2 ^ 16 + dur64 waited * 2 ^ 40 +
      dur64 out * 2 ^ 64 + durOver [all, waited, out]))

/-- TILE_EXTRACT (R336): the last sector has completed: the record, the tile stamp, the tile's SBA gates, and at the end of the walk the
end of the job. An EXT ends as a job of no depth steps (R335). -/
def execTileExtract (core : Nat) (s : State) : Host.Outcome State Fault Refusal :=
  match (s.engine core).extract with
  | none => .next s
  | some x =>
    if !x.finished then .next s else
    let s := s.modEngine core (fun e => { e with extract := none })
    let ev := s.jobEv core x.pslot x.cause 0x83 (x.tile % 2 ^ 32 + x.poisonedCount * 2 ^ 32 + x.card.xmode * 2 ^ 64)
    if x.byExt then
      let s := ((s.emit ev).extractStamp core x x.started 0).endOp x.op
      let s := s.modEngine core (fun e =>
        let e := if x.clr then e.clearHalf x.card else e
        if e.live && 2 ≤ e.stop && e.stop ≤ 5 then e else e.setStop 1)
      .next (s.emit (s.jobEv core x.pslot x.cause 0x81
        (1 + (s.engine core).eloss.toNat * 2 ^ 32 + (s.time.gt - x.started) / s.clockGt % 2 ^ 32 * 2 ^ 64)))
    else match (s.engine core).job with
      | none => .next s
      | some j =>
        let s := (s.emit ev).extractStamp core x j.tileStart j.waited
        let j := { j.enterTile with tiles := j.tiles + 1 }
        let s := s.modEngine core (fun e => { e with job := some { j with stopReq := none } })
        let s := s.performSba core (fun g => g.tile == x.tile)
        .next (if j.walked then s.jobDone core else match j.stopReq with
          | some code => s.stopEngine core code
          | none => s)

/-- ENGINE_STOP (R314): a pre-emption or a debug stop of the owner's skein stops the running job with STOP 0x04. -/
def execEngineStop (core : Nat) (code : BitVec 8) (s : State) : Host.Outcome State Fault Refusal :=
  let e := s.engine core
  let asked : Bool := match e.owner.bind (s.panel? core) with
    | some p => p.stopped || (s.skein? p.skein).elim false (fun k => k.phase == .saving)
    | none => false
  .next (if code == 4 && asked then s.stopEngine core 4 else s)

end Sys2Proof.Machine
end

