-- ==== Sys2Proof/Machine/Stream.lean ====
section
/-! DEFINITION. The instructions of the matrix stream: job cards and their checks, class 0x9, EXIT of a sequencer (R316 to R319, R326,
R328 to R336). -/
namespace Sys2Proof.Machine

/-! ## Answers of a stream instruction -/

/-- Why a stream instruction does not complete now. -/
inductive SStop where
  | trap (t : Trp)
  | wait

def SStop.of (cause detail : Byte) (tval : Word) : SStop := .trap { cause, detail, tval }
/-- An invalid card or image (R328); TVAL is its address (R320). -/
def SStop.bad (a : Word) : SStop := .of Cause.format 0x01 a
/-- A sector that an engine cannot move, as a trap of the instruction (R334). -/
def SStop.sect (e : Sect) : SStop :=
  match e with
  | .fault x a => .trap { cause := Cause.xlate, detail := x.detail, tval := a, lines := x.lines }
  | .ue l a => .trap { cause := Cause.ecc, detail := 0x01, tval := a, ue := some l }
  | .wait => .wait

/-- The engine's state forbids the instruction (R328); the spec gives TVAL no value there: it is free (log 3). -/
def State.forbids (s : State) : SRan :=
  let (w, s) := s.freshWord
  .trap s { cause := Cause.format, detail := 0x02, tval := w }

def SStop.ran (s : State) : SStop → SRan
  | .trap t => .trap s t
  | .wait => .wait s .again

/-- Run a form of class 0x9 that only the engine's owner may issue (R317). -/
def runOwner (s : State) (body : Nat → Nat → Panel → State → SRan) : Host.Outcome State Fault Refusal :=
  runStream s (fun core pslot p s =>
    if (s.engine core).owner == some pslot then body core pslot p s else s.forbids)

/-- This panel's job runs, or an extraction does (R329, R330, R335). -/
def State.engineBusy (s : State) (core : Nat) : Bool := (s.engine core).running || (s.engine core).extract.isSome

/-- What a stream instruction that waits for this panel's job waits for: a job that has still to resume by itself too (R332). -/
def State.jobWaits (s : State) (core : Nat) : Bool :=
  let e := s.engine core
  s.engineBusy core || (e.live && e.stop == 4 && e.job.isSome)

/-! ## The checks of a card (R326) -/

/-- The family of an operand format (R298). -/
def family (t : Tag) : Nat := if wbTag t then 1 else if (1 ≤ t.toNat && t.toNat ≤ 6) || t == 0x0D then 2 else 0

/-- An output format of R311. -/
def outTag (t : Tag) : Bool := wbTag t || (5 ≤ t.toNat && t.toNat ≤ 0x0C) || fpTag t

/-- Reserved values and bits, trips and headroom. -/
def Card.fieldsOk (c : Card) : Bool :=
  bitsOf c.jfmt 63 60 == 0 && bitsOf c.jfmt 23 21 == 0 && bitsOf c.jfmt 15 13 == 0 && bitsOf c.jfmt 7 5 == 0 &&
    bitsOf c.ctl 47 43 == 0 && bitsOf c.ctl 31 21 == 0 && c.xmode != 3 &&
    (c.xmode != 2 || (bitsOf c.xdst 15 10 == 0 && bitsOf c.xdst 63 48 == 0))
def Card.walkOk (c : Card) : Bool :=
  c.xlvl != 5 && c.xlvl != 6 && c.g != 3 && c.mode != 3 && c.f 0x42 2 / 1024 == 0 &&
    (List.range 5).all (fun k => c.role k != 3 && c.trip k != 0) && (c.ginh || c.h ≤ 8 + 8 * c.g)

/-- The output format's own conditions. -/
def Card.outOk (c : Card) : Bool :=
  outTag c.otag && (!wbTag c.otag || (c.xmode == 0 && c.tcols % 32 == 0)) && !(c.xmode == 2 && c.otag == 0x16)

/-- The strides' divisibility. -/
def Card.stridesOk (c : Card) : Bool :=
  c.asr % c.ab == 0 && c.bsc % c.bb == 0 && (List.range 5).all (fun k => c.astr k % c.ab == 0 && c.bstr k % c.bb == 0)

def engineSpace (a : Nat) : Bool := 0xC ≤ a / 2 ^ 60 && a / 2 ^ 60 ≤ 0xE
def cardSpace (a : Nat) : Bool := a / 2 ^ 60 == 0 || engineSpace a

/-- A byte range within its space's bound: the offending address otherwise. -/
def Header.rangeBad (h : Header) (base : Nat) (lo hi : Int) : Option Word :=
  let sp : Nat := base / 2 ^ 60
  let bound : Int := sp * 2 ^ 60 + (match sp with
    | 0xE => h.ugran * 131072
    | 0xD => h.sgran * 131072 * h.members
    | _ => 2 ^ 56)
  if lo < (sp : Int) * 2 ^ 60 then some (wordOf lo) else if bound < hi then some (wordOf (max lo (hi - 1))) else none

/-- The log-to-tile tile and its element indices (R48, R325). -/
def Card.logOk (c : Card) (t : Tile) (walk : Bool) : Bool :=
  let (lo, hi) := spanOf c (bitsOf c.xdst 47 16 : Nat) c.cstr (if walk then c.outer else [])
  let last := if t.layout == 1 then (c.tcols - 1) * t.rows + c.trows - 1 else (c.trows - 1) * t.cols + c.tcols - 1
  0 ≤ lo && hi + last < t.elems

/-- Read and check the card at an address, for JOB and JRS or, with `walk` false, for EXT. -/
def State.readCard (s : State) (core pslot : Nat) (a : Word) (walk : Bool) : Except SStop Card :=
  if a.toNat % 128 != 0 then .error (.of Cause.align 0 a)
  else if !cardSpace a.toNat then .error (.of Cause.xlate Xlate.target a)
  else match s.engRead (s.engineWho core pslot) core a 3 128 with
    | .error e => .error (.sect e)
    | .ok (b, _) =>
      let c : Card := BitVec.ofNat 1024 (leNat b)
      let launch := (s.engineOp core pslot 0).launch
      match launch.bind (fun l => (s.launch? l).map (fun v => (l, v.hdr))) with
      | none => .error (.bad a)
      | some (l, h) =>
        let tile := if c.xmode == 2 then some (s.readTile l (bitsOf c.xdst 9 0)) else none
        let tagOk : Bool := match tile with
          | some (.ok t) => t.tag == c.otag && t.layout != 2 && !wbTag t.tag
          | _ => true
        let e := s.engine core
        if !c.fieldsOk || (walk && !c.walkOk) then .error (.bad a)
        else if (walk && (family c.atag == 0 || family c.atag != family c.btag)) || !c.outOk || !tagOk then .error (.bad a)
        else if h.ntens ≤ c.otens || (walk && (h.ntens ≤ c.atens || h.ntens ≤ c.btens)) then .error (.bad a)
        else if walk && !c.stridesOk then .error (.bad a)
        else if walk && e.eaccV && !c.ginh && c.g != e.g then .error (.bad a)
        else
          let needs := (if walk then [c.abase, c.bbase] ++ (if c.aside != 0 || wbTag c.atag then [c.aside] else []) else [])
          match needs.find? (fun x => !engineSpace x) with
          | some x => .error (.of Cause.xlate Xlate.target (BitVec.ofNat 64 x))
          | none =>
            if c.xmode != 2 && !cardSpace c.xdst then .error (.of Cause.xlate Xlate.target (BitVec.ofNat 64 c.xdst)) else
            let bases := (if walk then [c.abase] ++ (if c.aside != 0 then [c.aside] else []) ++ [c.bbase] else []) ++ [c.xdst]
            match (bases.zip (if walk then c.ranges else c.dstRange false)).findSome? (fun (b, lo, hi, _) => h.rangeBad b lo hi) with
            | some x => .error (.of Cause.xlate Xlate.bound x)
            | none => match tile with
              | some (.ok t) => if c.logOk t walk then .ok c else .error (.bad a)
              | some (.error (.xlate e x)) => .error (.sect (.fault e x))
              | some (.error .format) => .error (.bad a)
              | none => .ok c

/-! ## GRD (R329) -/

/-- GRD. -/
def execGrd (f : Gen) (s : State) : Host.Outcome State Fault Refusal :=
  runOwner s (fun core _ _ s =>
    let g := bitsOf f.imm.toNat 1 0
    let h := bitsOf f.imm.toNat 12 8
    let pol := f.mod.getLsbD 0
    let x := signExt (bitsOf f.imm.toNat 42 32) 11
    let e := s.engine core
    if s.jobWaits core then .wait s .again
    else if e.eaccV && (g != e.g || pol != e.derived || x != e.eaccExp) then s.forbids
    else .done (s.modEngine core (fun e => (e.setConfig g h e.mode e.sat).setEacc e.eaccV pol x)))

/-! ## JOB, JWT, JRS (R330 to R332) -/

/-- Gates joined to a job: SBA gates, and SBW gates with the phases they wait for; `passed` output tiles and gates beyond the job's tiles are
left out (R332, R336). -/
def State.attach (s : State) (core pslot : Nat) (gates : List Gate) (sba0 : List Gate) (sbw0 : List (Gate × Word32)) (count passed : Nat) :
    List Gate × List (Gate × Word32) :=
  let live := gates.filter (fun g => passed ≤ g.tile)
  let ws := live.filter (fun g => g.sbw && g.tile < count)
  let sbw := ws.foldl (fun (acc : List (Gate × Word32)) g =>
    let rank := (acc.filter (fun (x, _) => x.barrier == g.barrier)).length
    let now := (s.bar? (.panel core pslot) g.barrier).elim 0 (·.phase)
    acc ++ [(g, now + BitVec.ofNat 32 rank)]) sbw0
  (sba0 ++ live.filter (fun g => !g.sbw), sbw)

/-- Load what a card gives a job's engine, with LIVE 1 and STOP 0x00 (R306, R330, R332). -/
def Engine.load (e : Engine) (c : Card) (resume : Bool) : Engine :=
  let g := if resume || c.ginh then e.g else c.g
  let h := if c.ginh then e.h else c.h
  let e := e.setConfig g h (if resume then e.mode else c.mode) c.sat
  let e := if c.ginh || e.eaccV then e else e.setEacc false (c.pol == 1) c.exp
  let e := if e.derived then e else e.setEacc true false e.eaccExp
  (e.setLive true).setStop 0

/-- Start or resume a job with a checked card: its ranges, its gates, JOB_START (R327, R330, R332). -/
def State.startJob (s : State) (core pslot : Nat) (p : Panel) (a : Word) (c : Card) (old : Option Job) (resume : Bool) :
    Option (State × Word32) :=
  let e0 := s.engine core
  let (cause, s) := match old with
    | some j => (j.cause, s)
    | none => s.newCause (coreTaker core)
  match s.engineLocks core pslot cause c.ranges with
  | none => none
  | some (op, s) =>
    let passed := if resume then e0.tileNo c else 0
    let (sba, sbw) := s.attach core pslot p.gates (old.elim [] (·.sba)) (old.elim [] (·.sbw)) c.tileCount passed
    let now := s.time.gt
    let j : Job :=
      { card := c, addr := a, cause, pslot, sba, sbw, op, tiles := old.elim 0 (·.tiles), startGt := old.elim now (·.startGt),
        tileStart := old.elim now (·.tileStart), waited := old.elim 0 (·.waited), waitFrom := none, stopReq := none, walked := false }
    let s := s.modEngine core (fun e =>
      let e := e.load c resume
      { (e.setLoops c (if resume then e.loops else [0, 0, 0, 0, 0])) with job := some j })
    let s := s.modPanel core pslot (fun p => { p with gates := [] })
    some (s.emit (s.jobEv core pslot cause 0x80 (a.toNat % 2 ^ 56 + (if resume then 2 ^ 56 else 0))), cause)

/-- JOB: a stopped job that is loaded is abandoned once the card has passed its checks. -/
def execJob (f : Gen) (s : State) : Host.Outcome State Fault Refusal :=
  runOwner s (fun core pslot p s =>
    if s.jobWaits core then .wait s .again else
    let a := p.rd.get f.sa
    match s.readCard core pslot a true with
    | .error e => e.ran s
    | .ok c => match s.startJob core pslot p a c none false with
      | none => .wait s .again
      | some (s, cause) => .done (s.modPanel core pslot (fun p => p.wr f.dst (cause.setWidth 64))))

/-- JWT: STOP to DST, or the trap of a stopped job. -/
def execJwt (f : Gen) (s : State) : Host.Outcome State Fault Refusal :=
  runStream s (fun core pslot p s =>
    let e := s.engine core
    let mine := e.owner == some pslot
    let stop := if mine then e.stop else 0
    if mine && s.jobWaits core then .wait s .again
    else if !f.mod.getLsbD 0 && stop == 2 then .trap s { cause := Cause.guard, detail := 0, tval := e.edep.setWidth 64 }
    else if !f.mod.getLsbD 0 && stop == 3 then .trap s { cause := p.efCause, detail := p.efDetail, tval := p.efAddr }
    else .done (s.modPanel core pslot (fun p => p.wr f.dst (BitVec.ofNat 64 stop))))

/-- JRS: the stopped job goes on from its indices. -/
def execJrs (f : Gen) (s : State) : Host.Outcome State Fault Refusal :=
  runOwner s (fun core pslot p s =>
    let e := s.engine core
    if !(e.live && (e.stop == 2 || e.stop == 3 || e.stop == 5)) then s.forbids
    else if e.extract.isSome then .wait s .again
    else
      let a := p.rd.get f.sa
      match s.readCard core pslot a true with
      | .error x => x.ran s
      | .ok c =>
        if c.mode != e.mode || (!c.ginh && c.g != e.g) then (SStop.bad a).ran s else
        match s.startJob core pslot p a c e.job true with
        | none => .wait s .again
        | some (s, _) => .done s)

/-! ## ACZ, ACS, ACL (R333, R334) -/

/-- Ownership for ACZ and ACL: taken when the engine is free, awaited while another panel owns it (R317). -/
def State.claimEngine (s : State) (core pslot : Nat) : Option State :=
  let e := s.engine core
  match e.owner with
  | some q => if q == pslot then some s else none
  | none => some (s.acquireEngine core pslot)

/-- A waiting panel's request reaches the engine. -/
def State.queueEngine (s : State) (core pslot : Nat) : State :=
  s.modEngine core (fun e => if e.waiters.contains pslot then e else { e with waiters := e.waiters ++ [pslot] })

/-- ACZ: the reset column, LIVE and STOP among it. -/
def execAcz (_f : Gen) (s : State) : Host.Outcome State Fault Refusal :=
  runStream s (fun core pslot _ s => match s.claimEngine core pslot with
    | none => .wait (s.queueEngine core pslot) .again
    | some s => if s.jobWaits core then .wait s .again else .done (s.modEngine core Engine.cleared))

/-- The header of an engine image, 128 bytes. -/
def Engine.imageHead (e : Engine) : List Byte :=
  leBytes 4 e.erow.toNat ++ leBytes 4 e.ecol.toNat ++ leBytes 4 e.edep.toNat ++ leBytes 4 e.eloss.toNat ++
    e.eloop.toList.flatMap (fun h => leBytes 2 h.toNat) ++ leBytes 2 0 ++ leBytes 4 e.eacc.toNat ++ leBytes 4 e.estat.toNat ++
    leBytes 28 0 ++ leBytes 32 e.emaskr.toNat ++ leBytes 32 e.emaskc.toNat

/-- Cell r × 256 + c (R334). -/
def Engine.cell (e : Engine) (i : Nat) : List Byte :=
  let d (half : Nat) : Int := (kget e.digits (half * 65536 + i)).getD 0
  if e.g == 0 then leBytes 2 (wrapInt (d 0) 16) ++ leBytes 2 (wrapInt (d 1) 16) else leBytes 4 (wrapInt (d 0) 32)

/-- 128 bytes of an engine image: the header, or 32 cells. -/
def Engine.imageLine (e : Engine) (k : Nat) : List Byte :=
  if k == 0 then e.imageHead else (List.range 32).flatMap (fun i => e.cell (32 * (k - 1) + i))

def imageLines : Nat := 2049

/-- The digits a line of cells holds. -/
def cellDigits (g k : Nat) (b : List Byte) : KMap Int :=
  (List.range 32).foldl (fun m i =>
    let v := leNat ((b.drop (4 * i)).take 4)
    let j := 32 * (k - 1) + i
    if g == 0 then addDigit (addDigit m j (signExt v 16)) (65536 + j) (signExt (v / 65536) 16) else addDigit m j (signExt v 32)) []

/-- The header's fields, none for a reserved value, a nonzero reserved byte, or a running job (R313, R334). -/
def Engine.ofHead (b : List Byte) : Option Engine :=
  let f (off n : Nat) : Nat := leNat ((b.drop off).take n)
  let e : Engine := { Engine.zero with
    erow := BitVec.ofNat 32 (f 0 4)
    ecol := BitVec.ofNat 32 (f 4 4)
    edep := BitVec.ofNat 32 (f 8 4)
    eloss := BitVec.ofNat 32 (f 0xC 4)
    eloop := Vector.ofFn (fun k : Fin 5 => BitVec.ofNat 16 (f (0x10 + 2 * k.val) 2))
    eacc := BitVec.ofNat 32 (f 0x1C 4)
    estat := BitVec.ofNat 32 (f 0x20 4)
    emaskr := BitVec.ofNat 256 (f 0x40 32)
    emaskc := BitVec.ofNat 256 (f 0x60 32) }
  let st := e.estat.toNat
  let ok := f 0x1A 2 == 0 && f 0x24 28 == 0 && bitsOf e.eacc.toNat 30 17 == 0 && -1024 ≤ e.eaccExp && e.eaccExp ≤ 1023 &&
    bitsOf st 31 24 == 0 && e.g != 3 && e.mode != 3 && bitsOf st 9 8 == 0 && e.stop ≤ 5 && !(e.live && e.stop == 0)
  if ok then some e else none

/-- The alignment and space of an image (R334). -/
def imageAddr (a : Word) : Except SStop Unit :=
  if a.toNat % 128 != 0 then .error (.of Cause.align 0 a)
  else if !cardSpace a.toNat then .error (.of Cause.xlate Xlate.target a)
  else .ok ()

/-- Write an engine image line by line, up to the first that fails. -/
def State.writeImage (s : State) (w : Who) (core : Nat) (ev : Ev) (e : Engine) (a : Word) : Nat → Nat → State × Option Sect
  | _, 0 => (s, none)
  | k, n + 1 => match s.engWrite w core ev (a + BitVec.ofNat 64 (128 * k)) 3 (e.imageLine k) with
    | .error x => (s, some x)
    | .ok s => State.writeImage s w core ev e a (k + 1) n

/-- Read the cells of an engine image. -/
def State.readCells (s : State) (w : Who) (core g : Nat) (a : Word) : Nat → Nat → Except Sect (KMap Int)
  | _, 0 => .ok []
  | k, n + 1 => match s.engRead w core (a + BitVec.ofNat 64 (128 * k)) 3 128 with
    | .error x => .error x
    | .ok (b, _) => match State.readCells s w core g a (k + 1) n with
      | .error x => .error x
      | .ok m => .ok (m.foldl (fun m (j, d) => kset m j d) (cellDigits g k b))

/-- The image's range, held from the instruction's first try to its end (R327); none while the table has no free entry. -/
def State.holdImage (s : State) (core pslot : Nat) (p : Panel) (a : Word) (dst : Bool) : Option State :=
  if p.image.isSome then some s else
  (s.engineLocks core pslot (s.skeinCause p.skein) [(a.toNat, (a.toNat + 128 * imageLines : Nat), dst)]).map (fun (id, s) =>
    s.modPanel core pslot (fun p => { p with image := some id }))

/-- ACS or ACL is over: its range is free. -/
def State.dropImage (s : State) (core pslot : Nat) : State :=
  match (s.panel? core pslot).bind (·.image) with
  | some id => (s.endOp id).modPanel core pslot (fun p => { p with image := none })
  | none => s

/-- A sector of an image that cannot move: the instruction waits, holding the range, or traps. -/
def State.imageStops (s : State) (core pslot : Nat) (x : Sect) : SRan :=
  match x with
  | .wait => .wait s .again
  | x => (SStop.sect x).ran (s.dropImage core pslot)

/-- ACS: a running job stops with STOP 0x05, the image is written, ownership is released. -/
def execAcs (f : Gen) (s : State) : Host.Outcome State Fault Refusal :=
  runOwner s (fun core pslot p s =>
    let e := s.engine core
    let a := p.rd.get f.sa
    if e.extract.isSome || (s.jobWaits core && !e.running) then .wait s .again else
    match imageAddr a with
    | .error x => x.ran s
    | .ok _ => match s.holdImage core pslot p a true with
      | none => .wait s .again
      | some s =>
        let img := if e.running then e.setStop 5 else e
        match s.writeImage (s.engineWho core pslot) core (s.panelEv core pslot (State.copySrc 0) 0 0) img a 0 imageLines with
        | (s, some x) => s.imageStops core pslot x
        | (s, none) =>
          let s := (s.stopEngine core 5).dropImage core pslot
          let s := s.emit (s.panelEv core pslot (engineSrc core) 0x84 (a.toNat % 2 ^ 56))
          .done (s.releaseEngine core))

/-- ACL: the header is checked first and changes nothing when it fails; a later fault leaves the engine as ACZ leaves it, and owned. -/
def execAcl (f : Gen) (s : State) : Host.Outcome State Fault Refusal :=
  runStream s (fun core pslot p s =>
    let a := p.rd.get f.sa
    let w := s.engineWho core pslot
    let mine := (s.engine core).owner == some pslot
    if (s.engine core).owner.isSome && !mine then .wait (s.queueEngine core pslot) .again
    else if mine && s.jobWaits core then .wait s .again
    else match imageAddr a with
      | .error x => x.ran s
      | .ok _ => match s.holdImage core pslot p a false with
        | none => .wait s .again
        | some s =>
        match s.engRead w core a 3 128 with
        | .error x => s.imageStops core pslot x
        | .ok (b, _) => match Engine.ofHead b with
          | none => (SStop.bad a).ran (s.dropImage core pslot)
          | some e =>
            match s.readCells w core e.g a 1 (imageLines - 1) with
            | .error .wait => .wait s .again
            | .error x =>
              let s := ((s.dropImage core pslot).claimEngine core pslot).getD s
              (SStop.sect x).ran (s.modEngine core Engine.cleared)
            | .ok m =>
              let s := ((s.dropImage core pslot).claimEngine core pslot).getD s
              let s := s.modEngine core (fun o => { e with digits := m, owner := o.owner, waiters := o.waiters })
              .done (s.emit (s.panelEv core pslot (engineSrc core) 0x85 (a.toNat % 2 ^ 56))))

/-! ## EXT (R335) -/

/-- EXT: the current digits are extracted by the card; it takes a cause as a job does (R67). -/
def execExt (f : Gen) (s : State) : Host.Outcome State Fault Refusal :=
  runOwner s (fun core pslot p s =>
    if s.jobWaits core then .wait s .again else
    let a := p.rd.get f.sa
    match s.readCard core pslot a false with
    | .error e => e.ran s
    | .ok c =>
      let (cause, s1) := s.newCause (coreTaker core)
      match s1.engineLocks core pslot cause (c.dstRange false) with
      | none => .wait s .again
      | some (op, s) =>
        let x := if c.xmode == 2 then bitsOf c.xdst 47 16 else c.xdst
        let s := s.modEngine core (fun e =>
          { e with extract := some (e.extraction c x 0 pslot cause op true (f.mod.getLsbD 0) s.time.gt) })
        .done (s.emit (s.jobEv core pslot cause 0x80 (a.toNat % 2 ^ 56 + 2 * 2 ^ 56))))

/-! ## SBA and SBW (R336) -/

/-- A gate joins the pending ones; a fifth of its kind is refused. -/
def State.addGate (s : State) (core pslot : Nat) (p : Panel) (g : Gate) : SRan :=
  if 4 ≤ (p.gates.filter (fun x => x.sbw == g.sbw)).length then s.forbids
  else .done (s.setPanel core pslot { p with gates := p.gates ++ [g] })

/-- SBA. -/
def execSba (f : Gen) (s : State) : Host.Outcome State Fault Refusal :=
  runStream s (fun core pslot p s =>
    s.addGate core pslot p { sbw := false, barrier := bitsOf f.imm.toNat 3 0, tile := bitsOf f.imm.toNat 31 16 })
/-- SBW. -/
def execSbw (f : Gen) (s : State) : Host.Outcome State Fault Refusal :=
  runStream s (fun core pslot p s =>
    s.addGate core pslot p { sbw := true, barrier := bitsOf f.imm.toNat 3 0, tile := bitsOf f.imm.toNat 31 16 })

/-! ## EXIT of a sequencer (R319) -/

/-- STREAM_EXIT: once no job of the panel runs, the pending SBA gates arrive, the wait gates go, the engine is released, RUN becomes 0x1, and
the sequencer leaves the panel barriers. -/
def execStreamExit (f : Gen) (s : State) : Host.Outcome State Fault Refusal :=
  let _ := f
  match s.focus with
  | .stream core pslot => match s.panel? core pslot with
    | none => .fault .noIssuer
    | some p =>
      let mine := (s.engine core).owner == some pslot
      if mine && s.jobWaits core then .next (s.modPanel core pslot (fun q => { q with swait := .again })) else
      let cause := s.skeinCause p.skein
      let parent := s.skeinParent p.skein
      let s := if mine then s.performSba core (fun _ => true) else s
      let s := (p.gates.filter (fun g => !g.sbw)).foldl (fun s g => s.seqArrive core pslot g.barrier cause parent) s
      let ev := s.panelEv core pslot (seqSrc core) 0x88 0
      let s := (if mine then s.releaseEngine core else s).dropImage core pslot
      let s := s.modEngine core (fun e => { e with waiters := e.waiters.erase pslot })
      let s := s.modPanel core pslot (fun q => { q with gates := [], run := 1, swait := .none, ending := false, held := none })
      let s := s.emit ev
      let s := s.departAll (.panel core pslot) 8 (fun n => (s.bar? (.panel core pslot) n).elim false (·.seq)) cause parent
      .next (s.panelCheck core pslot)
  | _ => .fault .noIssuer

end Sys2Proof.Machine
end

