-- ==== Sys2Proof/Machine/Sync.lean ====
section
/-! DEFINITION. The synchronisation instructions (R341 to R345, R348 to R369). -/
namespace Sys2Proof.Machine

/-! ## Barrier forms (R361) -/

/-- The barrier number of a form: SA with REG, else IMM[3:0]. -/
def barNumber (f : Gen) (get : Reg → Word) : Nat := if f.mod.getLsbD 2 then (get f.sa).toNat else bitsOf f.imm.toNat 3 0
def barLevel (f : Gen) : Nat := bitsOf f.mod.toNat 1 0
/-- SA is read and uniform-required with REG. -/
def barReq (f : Gen) : List Reg := if f.mod.getLsbD 2 then [f.sa] else []

/-- What an instruction of a course does about a barrier. -/
structure BarAct where
  arrives : Bool
  waits   : Bool

/-- The latest phase among some arrivals that is still pending, none when every one has completed (R345). -/
def pendingPhase (now : Word32) (l : List Word32) : Option Word32 :=
  l.foldl (fun (m : Option Word32) p =>
    if 2 ^ 31 ≤ (p - now).toNat then m else match m with
      | none => some p
      | some q => some (if (q - now).toNat < (p - now).toNat then p else q)) none

/-- BARA, BARW and BAR of a course: every executing strand arrives, or waits for the phase of its latest arrival, or both; a strand
whose own previous arrival is pending waits for that phase first. -/
def runBarrier (s : State) (i : Instr) (f : Gen) (act : BarAct) : Host.Outcome State Fault Refusal :=
  runCourse s i false (barReq f) (fun I s =>
    let level := barLevel f
    let n := barNumber f (I.c.read I.leader)
    match s.bar? (s.unitOf I.core I.slot I.c level) n with
    | none => (s, .error (illegalStop (encode i) 0x03 64, I.E.mask))
    | some b =>
      let latest (s : State) : List Word32 := match s.course? I.core I.slot with
        | none => []
        | some c => I.lanes.filterMap (fun l => (findArr (c.st l).arrs level n).map (·.phase))
      let (s1, own) := if act.arrives then s.arriveStrands I.core I.slot level n I.lanes else (s, [])
      let wait : Option Wait :=
        if act.waits then (pendingPhase b.phase (latest s1)).map (fun p => Wait.barrier level n p)
        else if own.any (fun (_, _, w) => w) then some (Wait.barrier level n b.phase)
        else none
      (s, .ok { s := s1, visible := act.arrives, wait, arrive := if act.arrives then some (level, n) else none }))

/-- The same for a sequencer at a panel barrier (R318). -/
def runSeqBarrier (s : State) (i : Instr) (f : Gen) (act : BarAct) : Host.Outcome State Fault Refusal :=
  runStream s (fun core pslot p s =>
    let n := barNumber f p.rd.get
    if (if act.arrives then 8 else 16) ≤ n then
      .trap s { cause := Cause.illegal, detail := 0x03, tval := illegalTval (encode i) 64 }
    else match s.bar? (.panel core pslot) n with
      | none => .done s
      | some b =>
        let (ph, must) := nextArrival p.sarrs 1 n b.phase
        let s := if act.arrives then s.seqArrive core pslot n (s.skeinCause p.skein) (s.skeinParent p.skein) else s
        let target : Option Word32 :=
          if act.arrives then (if act.waits then some ph else if must then some (ph - 1) else none)
          else (findArr p.sarrs 1 n).map (·.phase)
        let now := (s.bar? (.panel core pslot) n).elim b.phase (·.phase)
        match target with
        | none => .done s
        | some q => if (q - now).toNat < 2 ^ 31 then .wait s (.barrier n q) else .done s)

/-- BARA. -/
def execBara (f : Gen) (s : State) : Host.Outcome State Fault Refusal :=
  if s.inStream then runSeqBarrier s (.bara f) f ⟨true, false⟩ else runBarrier s (.bara f) f ⟨true, false⟩
/-- BARW. -/
def execBarw (f : Gen) (s : State) : Host.Outcome State Fault Refusal :=
  if s.inStream then runSeqBarrier s (.barw f) f ⟨false, true⟩ else runBarrier s (.barw f) f ⟨false, true⟩
/-- BAR. -/
def execBar (f : Gen) (s : State) : Host.Outcome State Fault Refusal :=
  if s.inStream then runSeqBarrier s (.bar f) f ⟨true, true⟩ else runBarrier s (.bar f) f ⟨true, true⟩

/-! ## Counters -/

/-- The counter number of a form: SA with REG, else IMM[15:0]. -/
def ctrNumber (f : Gen) (reg : Bool) (get : Reg → Word) : Nat := if reg then (get f.sa).toNat else bitsOf f.imm.toNat 15 0

/-- The device counter of a number in the issuing context's quota (R368). -/
def State.quota (s : State) (I : Iss) (cnum : Nat) : Except (Stop × BitVec 16) Nat :=
  match (s.launchOf I.c).bind (fun l => counterOf l.entry cnum) with
  | some i => .ok i
  | none => .error (Trp.stop Cause.priv 0x01 (BitVec.ofNat 64 cnum), maskOf I.lanes)

/-- The same, not poisoned (R352). -/
def State.liveCounter (s : State) (I : Iss) (cnum : Nat) : Except (Stop × BitVec 16) Nat :=
  match s.quota I cnum with
  | .error e => .error e
  | .ok i => if (s.counter i).poison then .error (Trp.stop Cause.priv 0x02 (BitVec.ofNat 64 cnum), maskOf I.lanes) else .ok i

/-- DST of some strands under OLD. -/
def Iss.oldTo (I : Iss) (s : State) (old : Bool) (r : Reg) (l : List (Nat × Word)) : Except (Stop × BitVec 16) State :=
  if old then I.store s (l.map (fun (i, v) => (i, Res.word r v))) else .ok s

/-- The word of a counter's record (R353). -/
def State.counterWord (s : State) (i k : Nat) : Word :=
  let c := s.counter i
  match k with
  | 0 => c.value
  | 1 =>
    let awaited := (c.decl.zipIdx.filter (fun (d, _) => d.arrived.toNat < d.expect.toNat)).foldl (fun m (_, e) => m + 2 ^ e) 0
    BitVec.ofNat 64 (c.decl.length + (if s.counterWaited i then 2 ^ 13 else 0) + (if c.armed.isEmpty then 0 else 2 ^ 14) +
      (if c.poison then 2 ^ 15 else 0) + awaited * 2 ^ 16 + c.gen.toNat * 2 ^ 32)
  | k => match nth c.decl (k - 2) with
    | none => 0
    | some d => BitVec.ofNat 64 (d.arrived.toNat * 2 ^ 4 + d.expect.toNat * 2 ^ 24 + d.dev.toNat * 2 ^ 44 + d.key.toNat * 2 ^ 48)

/-- BARQ (R362). -/
def execBarq (f : Gen) (s : State) : Host.Outcome State Fault Refusal :=
  runCourse s (.barq f) false (barReq f) (fun I s =>
    let word := bitsOf f.imm.toNat 20 16
    let r : Except (Stop × BitVec 16) Word :=
      if f.mod.getLsbD 3 then match s.quota I (ctrNumber f (f.mod.getLsbD 2) (I.c.read I.leader)) with
        | .error e => .error e
        | .ok i => .ok (s.counterWord i word)
      else
        let u := s.unitOf I.core I.slot I.c (barLevel f)
        let n := barNumber f (I.c.read I.leader)
        match s.bar? u n with
        | none => .error (illegalStop (encode (.barq f)) 0x03 64, I.E.mask)
        | some b => .ok (BitVec.ofNat 64 (s.barRecord u n b >>> (64 * word)))
    (s, match r with
      | .error e => .error e
      | .ok v => match I.store s (I.runs.map (fun i => (i, Res.word f.dst v))) with
        | .error e => .error e
        | .ok s => .ok { s }))

/-- CINC (R363): a signal for each executing strand in ascending order, or one when uniform. -/
def execCinc (f : Gen) (s : State) : Host.Outcome State Fault Refusal :=
  runCourse s (.cinc f) false (if f.mod.getLsbD 0 then [f.sa] else []) (fun I s =>
    let cnum := ctrNumber f (f.mod.getLsbD 0) (I.c.read I.leader)
    let incr (l : Nat) : Word := if f.mod.getLsbD 1 then BitVec.ofNat 64 (bitsOf f.imm.toNat 47 32) else I.c.read l f.sb
    let key := bitsOf f.imm.toNat 31 16
    (s, match s.liveCounter I cnum with
      | .error e => .error e
      | .ok i =>
        let olds := (I.runs.foldl (fun (acc : List (Nat × Word) × Word) l => (acc.1 ++ [(l, acc.2)], acc.2 + incr l))
          ([], (s.counter i).value)).1
        match I.oldTo s (f.mod.getLsbD 3) f.dst olds with
        | .error e => .error e
        | .ok s =>
          let s := I.runs.foldl (fun s l =>
            s.signal (s.skeinCtx I.c.skein) i cnum (incr l) s.devNo key (s.causeOf I.c) (s.parentOf I.c)) s
          .ok { s, visible := true }))

/-- CWAIT (R365). -/
def execCwait (f : Gen) (s : State) : Host.Outcome State Fault Refusal :=
  runCourse s (.cwait f) false ((if f.mod.getLsbD 0 then [f.sa] else []) ++ (if f.mod.getLsbD 1 then [] else [f.sb])) (fun I s =>
    let cnum := ctrNumber f (f.mod.getLsbD 0) (I.c.read I.leader)
    let limit : Word := if f.mod.getLsbD 1 then BitVec.ofNat 64 (bitsOf f.imm.toNat 47 32) else I.c.read I.leader f.sb
    (s, match s.liveCounter I cnum with
      | .error e => .error e
      | .ok i =>
        let v := (s.counter i).value
        if v.toNat < limit.toNat then .error (.hold (.counter i), maskOf I.lanes)
        else match I.oldTo s (f.mod.getLsbD 3) f.dst (I.runs.map (fun l => (l, v))) with
          | .error e => .error e
          | .ok s => .ok { s }))

/-- CSET (R364): a new VALUE for each executing strand in ascending order, or once when uniform. -/
def execCset (f : Gen) (s : State) : Host.Outcome State Fault Refusal :=
  runCourse s (.cset f) false (if f.mod.getLsbD 0 then [f.sa] else []) (fun I s =>
    let cnum := ctrNumber f (f.mod.getLsbD 0) (I.c.read I.leader)
    let new (l : Nat) : Word := if f.mod.getLsbD 1 then BitVec.ofNat 64 (bitsOf f.imm.toNat 47 32) else I.c.read l f.sb
    (s, match s.liveCounter I cnum with
      | .error e => .error e
      | .ok i =>
        let olds := (I.runs.foldl (fun (acc : List (Nat × Word) × Word) l => (acc.1 ++ [(l, acc.2)], new l))
          ([], (s.counter i).value)).1
        match I.oldTo s (f.mod.getLsbD 3) f.dst olds with
        | .error e => .error e
        | .ok s =>
          let s := I.runs.foldl (fun s l =>
            s.setValue (s.skeinCtx I.c.skein) i cnum (new l) (s.causeOf I.c) (s.parentOf I.c)) s
          .ok { s, visible := true }))

/-- An entry of CDCL's table (R353, R366). -/
def declOf (v : Nat) : Option Decl :=
  if bitsOf v 43 24 == 0 || bitsOf v 23 0 != 0 then none
  else some { dev := BitVec.ofNat 4 (bitsOf v 47 44), key := BitVec.ofNat 16 (bitsOf v 63 48), expect := BitVec.ofNat 20 (bitsOf v 43 24), arrived := 0 }

/-- CDCL (R366): the leader reads the table; the declaration is replaced. -/
def execCdcl (f : Gen) (s : State) : Host.Outcome State Fault Refusal :=
  runCourse s (.cdcl f) false ((if f.mod.getLsbD 0 then [f.sa] else []) ++ [f.sb]) (fun I s =>
    let cnum := ctrNumber f (f.mod.getLsbD 0) (I.c.read I.leader)
    let n := bitsOf f.imm.toNat 20 16
    let a := I.c.read I.leader f.sb
    let lead := maskOf [I.leader]
    let w := s.strandWho I.core I.c.pslot I.c I.leader
    (s, match s.liveCounter I cnum with
      | .error e => .error e
      | .ok i =>
        if a.toNat % 8 != 0 then .error (Trp.stop Cause.align 0 a, lead) else
        match allOk (fun k =>
            let at_ := a + BitVec.ofNat 64 (8 * k)
            match s.reach w I.core false true at_ 8 with
            | .error e => .error e
            | .ok o => match declOf (leNat (s.routeRead o.route)) with
              | none => .error (Trp.stop Cause.format 0x01 at_)
              | some d => .ok (o, d)) (List.range n) with
        | .error e => .error (e, lead)
        | .ok ds =>
          let c := s.counter i
          let s := s.setCounter i { c with decl := ds.map (·.2), gen := c.gen + 1 }
          let s := s.emit { source := src 4 0, type := 0x91, cause := s.causeOf I.c, parent := s.parentOf I.c,
                            ctx := s.skeinCtx I.c.skein, payload := cnum + n * 2 ^ 16 }
          .ok { s, visible := true, hits := s.opndHits 33 (ds.map (fun (o, _) => (I.leader, o))) }))

/-! ## FENCE (R356, R367) -/

/-- Posted fabric requests of a course that have no answer yet (R380). -/
def State.postedOut (s : State) (c : Course) : Bool :=
  s.async.reqs.any (fun (_, r) => r.kind == .posted c.skein c.f2 c.f1 && r.ended.isNone)

/-- FENCE: earlier accesses have been performed when it issues (log 5); it waits for asynchronous operations and posted requests. -/
def execFence (f : Gen) (s : State) : Host.Outcome State Fault Refusal :=
  if s.inStream then
    runStream s (fun core pslot _ s =>
      if (s.engine core).owner == some pslot && s.jobWaits core then .wait s .again else .done s)
  else runCourse s (.fence f) false [] (fun I s =>
    let kind := bitsOf f.mod.toNat 1 0
    let eng := kind != 0 && I.c.asyncOut != 0
    let all := kind == 2 && s.postedOut I.c
    (s, if eng || all then .error (.hold .fence, maskOf I.lanes) else .ok { s }))

end Sys2Proof.Machine
end

