-- ==== Sys2Proof/Machine/Fabric.lean ====
section
/-! DEFINITION. The fabric: links, the order of flows, what a target does with a request, remote loads, stores and atomics, and the
answers to them (R370 to R381). -/
namespace Sys2Proof.Machine

/-! ## Links (R370) -/

/-- LINK_DOWN: the link to a peer goes down and is trained again (R27, R370). -/
def execLinkDown (peer : Nat) (s : State) : Host.Outcome State Fault Refusal :=
  if !s.linkUp peer then .next s else
  let s := { s with async := { s.async with down := (s.devNo, peer) :: s.async.down } }
  .next (((s.life 5).emit { source := s.portSrc peer, type := 0xA0, payload := peer % 16 }).reportLinks [peer])

/-- LINK_UP. -/
def execLinkUp (peer : Nat) (s : State) : Host.Outcome State Fault Refusal :=
  if !s.async.down.contains (s.devNo, peer) then .next s else
  let s := { s with async := { s.async with down := s.async.down.filter (fun x => x != (s.devNo, peer)) } }
  .next ((s.emit { source := s.portSrc peer, type := 0xA1, payload := peer % 16 }).reportLinks
    (peer :: (s.async.down.filter (fun x => x.1 == s.devNo)).map (·.2)))

/-! ## Relays and reserved kinds (R371, R373) -/

/-- PACKET_RELAY (R373): this device is the relay. The packet goes on over the link to its destination; where that is down, to the next
relay after this one, keeping ENT and SEQ; with no path left it is unreachable. -/
def execPacketRelay (p : Packet) (s : State) : Host.Outcome State Fault Refusal :=
  if !p.rly || p.relay.toNat != s.devNo || p.dst.toNat == s.devNo then .next s else
  if s.linkUp p.dst.toNat then .next (s.portOut p) else
  let l := (List.range s.domainSize).filter (fun d => d != p.src.toNat && d != p.dst.toNat)
  let i := (l.idxOf? s.devNo).getD 0
  match (l.drop (i + 1) ++ l.take i).find? (fun r => s.linkUp r && !s.farDown r p.dst.toNat) with
  | some r => .next (s.portOut { p with relay := BitVec.ofNat 4 r })
  | none => .next (s.answer p 8 (nackInfo 1 0) .none)

/-- RESERVED_KIND_PACKET (R371): the port that it comes in by discards it and counts a link error. -/
def execReservedKindPacket (p : Packet) (s : State) : Host.Outcome State Fault Refusal :=
  let port := s.portOf (if p.rly && p.relay.toNat != s.devNo then p.relay.toNat else p.src.toNat)
  .next { s with async := { s.async with
    linkErrors := kset s.async.linkErrors port ((kget s.async.linkErrors port).getD 0 + 1) } }

/-! ## The order of a flow (R376) -/

/-- The ENT of the last request performed in order and the SEQ of the next one, of a flow from a source. -/
def State.seqAt (s : State) (from_ : Nat) (f : Flow) : Byte × Half :=
  match s.async.expected.find? (fun (d, g, _, _) => d == from_ && g == f) with
  | some (_, _, e, n) => (e, n)
  | none => (0, 0)

def State.setSeq (s : State) (from_ : Nat) (f : Flow) (e : Byte) (n : Half) : State :=
  { s with async := { s.async with
      expected := (from_, f, e, n) :: s.async.expected.filter (fun (d, g, _, _) => !(d == from_ && g == f)) } }

/-- A request that was performed ahead of its turn stands in `early` with KIND 0; step over those. -/
def State.skipDone (s : State) (from_ : Nat) (f : Flow) : Nat → State
  | 0 => s
  | n + 1 =>
    let (_, k) := s.seqAt from_ f
    match s.async.early.find? (fun q => q.src.toNat == from_ && q.flow == f && q.seq == k && q.kind == 0) with
    | none => s
    | some q =>
      let s := { s with async := { s.async with early := s.async.early.erase q } }
      (s.setSeq from_ f q.ent (k + 1)).skipDone from_ f n

/-- Whether a request may be performed now (R376): it is the next of its flow, or in mode 0x2 it has not been performed and every earlier
one of its flow has, or has arrived and carries another ENT. -/
def State.inTurn (s : State) (p : Packet) : Bool :=
  let (_, k) := s.seqAt p.src.toNat p.flow
  let ahead := (p.seq - k).toNat
  let seen (n : Half) (f : Packet → Bool) : Bool :=
    s.async.early.any (fun q => q.src == p.src && q.flow == p.flow && q.seq == n && f q)
  ahead == 0 || (ahead < 2 ^ 15 && p.mode == 2 && !seen p.seq (fun q => q.kind == 0) &&
    (List.range ahead).all (fun j => seen (k + BitVec.ofNat 16 j) (fun q => q.kind == 0 || q.ent != p.ent)))

/-- A request of a flow arrives: performed in its turn, else held until its predecessors arrive; one that cannot be performed yet is
held too. A copy of one already performed is dropped. -/
def State.inFlow (s : State) (p : Packet) (f : State → Bool × State) : State :=
  let from_ := p.src.toNat
  let (_, k) := s.seqAt from_ p.flow
  if p.dst.toNat != s.devNo || 2 ^ 15 ≤ (p.seq - k).toNat then s else
  let hold (s : State) : State :=
    if s.async.early.contains p then s else { s with async := { s.async with early := s.async.early ++ [p] } }
  if !s.inTurn p then hold s else
  match f s with
  | (false, s) => hold s
  | (true, s) =>
    let s := { s with async := { s.async with early := s.async.early.erase p } }
    if p.seq == k then (s.setSeq from_ p.flow p.ent (k + 1)).skipDone from_ p.flow s.async.early.length
    else { s with async := { s.async with early := s.async.early ++ [{ p with kind := 0, body := .none }] } }

/-! ## Admission and the target's memory (R374, R377) -/

/-- Why a request is not performed: a nack with its reason and detail, a translation fault or an uncorrectable error met on the way, or
not yet. -/
inductive Tgt where
  | nack (reason detail : Byte)
  | xlate (e : XFail) (a : Word)
  | ue (l : Loc) (a : Word)
  | wait

def Sect.tgt : Sect → Tgt
  | .fault e a => .xlate e a
  | .ue l a => .ue l a
  | .wait => .wait
def Tgt.sect : Tgt → Sect
  | .xlate e a => .fault e a
  | .ue l a => .ue l a
  | _ => .wait
def Stop.tgt (a : Word) : Stop → Tgt
  | .trap t => .xlate ⟨t.detail, t.lines⟩ a
  | .hold _ => .wait

/-- The entry of the fabric access table that admits a packet, with a right and, for the kinds that have one, an aperture range (R377). -/
def State.admits (s : State) (p : Packet) (right : Nat) (range : Option (Nat × Nat)) : Option FatEntry :=
  (kvals s.tables.access).find? (fun e =>
    e.flags.getLsbD 0 && e.flags.getLsbD right && e.sdev == p.src && e.sctx == p.ctx &&
      (match range with | none => true | some (o, n) => e.aoff.toNat ≤ o && o + n ≤ e.aoff.toNat + e.alen.toNat))

/-- A context that is killed or disabled (R54, R374). -/
def State.ctxDead (s : State) (ctx : Nat) : Bool := s.ctxKilled ctx || (s.ctxEntry ctx).ptroot == 0

/-- The target context of an admitted packet. -/
def State.admitted (s : State) (p : Packet) (right : Nat) (range : Option (Nat × Nat)) : Except Tgt FatEntry :=
  match s.admits p right range with
  | none => .error (.nack 2 0)
  | some e => if s.ctxDead e.tctx.toNat then .error (.nack 6 0) else .ok e

/-- The answer to a request, or `false` when it is not performed yet (R374). -/
def State.served (s : State) (p : Packet) (r : Except Tgt (State × Nat × Body)) : Bool × State :=
  match r with
  | .ok (s, kind, body) => (true, s.answer p kind 0 body)
  | .error .wait => (false, s)
  | .error (.nack r d) => (true, s.answer p 8 (nackInfo r d) .none)
  | .error (.xlate e _) => (true, s.answer p 8 (nackInfo 3 e.detail) .none)
  | .error (.ue l _) =>
    let ctx := (s.admits p 1 none).elim p.ctx.toNat (·.tctx.toNat)
    (true, (s.memUe l 0 p.cause p.cause ctx).answer p 8 (nackInfo 5 0) .none)

/-- Who performs an access at this device for a peer or for a work entry, and under which cause. -/
structure Agt where
  w      : Who
  core   : Nat
  cls    : Nat
  cause  : Word32
  parent : Word32

/-- Pieces of a byte range that do not cross a 128-byte line. -/
def linePieces (a : Word) : Nat → List Byte → List (Word × List Byte)
  | 0, _ => []
  | f + 1, l =>
    if l.isEmpty then [] else
    let k := 128 - a.toNat % 128
    (a, l.take k) :: linePieces (a + BitVec.ofNat 64 k) f (l.drop k)

/-- Read n bytes, along the routes of the tile directory (R266, R278). -/
def State.agtLoad (s : State) (g : Agt) (a : Word) (n : Nat) : Except Tgt (List Byte × List (Loc × Nat)) :=
  (linePieces a (n / 128 + 2) (List.replicate n 0)).foldl (fun acc (b, l) => match acc with
    | .error e => .error e
    | .ok (bs, ls) => match s.engineRead none g.w g.core b l.length with
      | .error e => .error e.tgt
      | .ok (x, y) => .ok (bs ++ x, ls ++ y)) (.ok ([], []))

/-- The checked route of a store. -/
def State.agtRoute (s : State) (g : Agt) (a : Word) (n : Nat) : Except Tgt Route :=
  match s.home g.w .store a with
  | .error e => .error (.xlate e a)
  | .ok l => match s.routeAt g.core true a l n with
    | .error e => .error (e.tgt a)
    | .ok r => match r.locs.findSome? (fun (p, _) => match s.lineFor none a p with | .error e => some e | .ok _ => none) with
      | some e => .error e.tgt
      | none => .ok r

def State.agtHits (s : State) (g : Agt) (kind : Nat) (a : Word) (l : List (Loc × Nat)) : State :=
  s.engineHits g.cls g.core g.cause g.parent g.w.ctx kind a l

def Agt.ev (g : Agt) : Ev := { source := State.copySrc 0, type := 0, priv := true, cause := g.cause, parent := g.parent, ctx := g.w.ctx }

/-- Where watchpoints see an agent's access (R417). -/
def State.agtSeen (s : State) (g : Agt) (a : Word) (n : Nat) (r : Route) : List (Loc × Nat) :=
  match s.home g.w .store a with
  | .ok l => r.seen l n
  | .error _ => r.locs

/-- Store bytes along the routes of the tile directory (R266, R276). -/
def State.agtStore (s : State) (g : Agt) (a : Word) (bs : List Byte) : Except Tgt State :=
  (linePieces a (bs.length / 128 + 2) bs).foldl (fun acc (b, l) => match acc with
    | .error e => .error e
    | .ok s => match s.agtRoute g b l.length with
      | .error e => .error e
      | .ok r => match s.routeWrite g.ev l r with
        | .error e => .error (e.tgt b)
        | .ok s => .ok (s.agtHits g 37 b (s.agtSeen g b l.length r))) (.ok s)

/-- The operations of FATM (R378, R380); `none` is reserved. -/
def fatmOp (op W old v : Nat) : Option Nat :=
  match op with
  | 0 => some ((old + v) % 2 ^ W)
  | 1 => atomMinMax false false W old v 0
  | 2 => atomMinMax false true W old v 0
  | 3 => atomMinMax true false W old v 0
  | 4 => atomMinMax true true W old v 0
  | 5 => some (old &&& v)
  | 6 => some (old ||| v)
  | 7 => some (old ^^^ v)
  | 8 => some v
  | 9 =>
    let t : Tag := if W == 32 then 0x15 else 0x16
    some (addRnd t 0 (numOf t old) (numOf t v)).bits
  | _ => none

/-- The tile whose log a route goes to. -/
def Route.logged : Route → Option (Nat × Nat × Nat)
  | .plain _ _ => none
  | .split ds => ds.findSome? (fun d => match d with | .log l t off => some (l, t, off) | .mem _ => none)

/-- One atomic at the target's home (R262, R263, R380); `fp` marks a floating-point operation, which an FP64 tile's log refuses
(R275, R374). -/
def State.agtAtomic (s : State) (g : Agt) (a : Word) (n : Nat) (fp : Bool) (f : Nat → Nat) : Except Tgt State :=
  match s.agtRoute g a n with
  | .error e => .error e
  | .ok r =>
    let fp64 : Bool := match r.logged with
      | some (l, t, _) => (match s.readTile l t with | .ok x => x.tag == 0x16 | .error _ => false)
      | none => false
    if fp && fp64 then .error (.nack 7 0) else
    match s.routeBad r with
    | some l => .error (.ue l a)
    | none => match s.routeWrite g.ev (leBytes n (f (leNat (s.routeRead r)))) r with
      | .error e => .error (e.tgt a)
      | .ok s => .ok (s.agtHits g 35 a (s.agtSeen g a n r))

/-- new := old op src of a REDUCE element (R383). -/
def reduceVal (t : Tag) (red old v : Nat) : Nat :=
  if red == 0 then
    if fpTag t then (addRnd t 0 (numOf t old) (numOf t v)).bits else (old + v) % 2 ^ tagWidth t
  else if fpTag t then fpMinMax t (red == 2) old v
  else intMinMax t (red == 2) old v

/-- The operand of a log entry for a REDUCE element: FP32 for the floating-point formats up to 32 bits (R274). -/
def reduceOperand (t : Tag) (v : Nat) : Nat := if fpTag t then (roundTo (wideTag t) 0 (numOf t v)).bits else v

/-- One REDUCE element: an entry in the log of a tile of that format, else an atomic at the element's place (R266, R275, R383). -/
def State.agtReduce (s : State) (g : Agt) (a : Word) (t : Tag) (red v : Nat) : Except Tgt State :=
  let n := tagWidth t / 8
  match s.agtRoute g a n with
  | .error e => .error e
  | .ok r =>
    match r.logged.bind (fun (l, i, off) => match s.readTile l i with
        | .ok x => if x.tag == t && (match x.byteElems off with | [] => false | e :: _ => (x.elemOff e).1 == off) then some (x, off) else none
        | .error _ => none) with
    | none => s.agtAtomic g a n (fpTag t) (fun old => reduceVal t red old v)
    | some (x, off) =>
      if t == 0x16 then .error (.nack 7 0) else
      match s.admitTile x none with
      | none => .error .wait
      | some s => match s.append x g.ev { index := (x.byteElems off).headD 0, op := 2 + red, type := t.toNat, mask := x.fullMask,
                                          value := reduceOperand t v, rsv := 0 } with
        | .error e => .error (e.tgt a)
        | .ok s => .ok (s.agtHits g 35 a (s.agtSeen g a n r))

/-- The elements of some bytes of a REDUCE, in ascending order (R383). -/
def State.agtReduceAll (s : State) (g : Agt) (t : Tag) (red : Nat) (a : Word) (bs : List Byte) : Except Tgt State :=
  let n := max (tagWidth t / 8) 1
  ((chunksOf n (bs.length / n + 1) bs).zipIdx).foldl (fun acc (l, i) => match acc with
    | .error e => .error e
    | .ok s => s.agtReduce g (a + BitVec.ofNat 64 (i * n)) t red (leNat l)) (.ok s)

/-- The agent of a packet in its target context: what a flit begins here has the flit's cause as its parent (R67). -/
def State.packetAgt (s : State) (p : Packet) (e : FatEntry) : Agt :=
  { w := s.whoOf e.tctx.toNat, core := 0, cls := 6, cause := p.cause, parent := p.cause }

/-- The target address of an aperture offset (R377). -/
def fatAddr (e : FatEntry) (o : Word) : Word := e.tva + (o - e.aoff)

/-- Perform a request on a range of the aperture. -/
def State.onRange (s : State) (p : Packet) (right : Nat) (o : Word) (n : Nat)
    (f : Agt → Word → Except Tgt (State × Nat × Body)) : Bool × State :=
  s.served p (match s.admitted p right (some (o.toNat, n)) with
    | .error e => .error e
    | .ok e => f (s.packetAgt p e) (fatAddr e o))

/-- An acknowledged effect. -/
def acked (r : Except Tgt State) : Except Tgt (State × Nat × Body) :=
  match r with
  | .error e => .error e
  | .ok s => .ok (s, 7, .none)

/-! ## Requests at the target -/

/-- FABRIC_READ (R379): the home location, or a merged read; the answer is a read response. -/
def execFabricRead (p : Packet) (s : State) : Host.Outcome State Fault Refusal :=
  match p.body with
  | .read o n => .next (s.inFlow p (fun s => s.onRange p 1 o n (fun g a =>
      match s.agtLoad g a n with
      | .error e => .error e
      | .ok (bs, l) => .ok (s.agtHits g 33 a l, 2, .value (BitVec.ofNat 64 (leNat bs))))))
  | _ => .next s

/-- FABRIC_WRITE (R380, R383): byte enables at the home, or the log. -/
def execFabricWrite (p : Packet) (s : State) : Host.Outcome State Fault Refusal :=
  match p.body with
  | .write o bs => .next (s.inFlow p (fun s => s.onRange p 2 o bs.length (fun g a => acked (s.agtStore g a bs))))
  | _ => .next s

/-- FABRIC_ATOMIC (R380). -/
def execFabricAtomic (p : Packet) (s : State) : Host.Outcome State Fault Refusal :=
  match p.body with
  | .atomic o op n v => .next (s.inFlow p (fun s => s.onRange p 3 o n (fun g a =>
      acked (s.agtAtomic g a n (op == 9) (fun old => (fatmOp op.toNat (8 * n) old (v.toNat % 2 ^ (8 * n))).getD old)))))
  | _ => .next s

/-- FABRIC_WRITE_REDUCE (R383). -/
def execFabricWriteReduce (p : Packet) (s : State) : Host.Outcome State Fault Refusal :=
  match p.body with
  | .reduce o red etag bs => .next (s.inFlow p (fun s => s.onRange p 2 o bs.length (fun g a =>
      acked (s.agtReduceAll g etag red.toNat a bs))))
  | _ => .next s

/-- RSIG at its target context (R374, R383): the signaller is the source device and KEY. -/
def State.applyRsig (s : State) (ctx : Nat) (e : ContextEntry) (w : Word) (dev key : Nat) (cause parent : Word32) : Except Tgt State :=
  if !w.getLsbD 16 then .ok s else
  match counterOf e (bitsOf w.toNat 15 0) with
  | none => .error (.nack 4 0)
  | some i => if (s.counter i).poison then .error (.nack 4 0) else .ok (s.signalWord ctx e w dev key cause parent)

/-- FABRIC_SIGNAL (R383). -/
def execFabricSignal (p : Packet) (s : State) : Host.Outcome State Fault Refusal :=
  match p.body with
  | .signal w key => .next (s.inFlow p (fun s => s.served p (match s.admitted p 4 none with
      | .error e => .error e
      | .ok e => acked (s.applyRsig e.tctx.toNat (s.ctxEntry e.tctx.toNat) w p.src.toNat key.toNat p.cause 0))))
  | _ => .next s

/-! ## Remote loads, stores and atomics (R378 to R381) -/

/-- Bytes of a size code (R378). -/
def fabBytes (m : Byte) : Nat := sizeBits m / 8

/-- The aperture that one strand's address names: aligned, translated, a peer's (R253, R377, R378). -/
def State.peerOpnd (s : State) (I : Iss) (f : Gen) (lane n : Nat) (acc : Access) : Except Stop (Word × Nat × Nat) :=
  let a := I.c.read lane f.sa + immWord f.imm
  if a.toNat % n != 0 then .error (Trp.stop Cause.align 0 a) else
  match s.place (s.strandWho I.core I.c.pslot I.c lane) acc a with
  | .error e => .error (e.stop a)
  | .ok (.home _) => .error (Trp.stop Cause.xlate Xlate.target a)
  | .ok (.peer dev off) => .ok (a, dev, off)

/-- The flow of a course (R372). -/
def Iss.flow (I : Iss) : Flow := .course I.c.skein I.c.f2 I.c.f1

/-- FLD: a read per executing strand, ascending; the course parks until every reply has arrived. -/
def execFld (f : Gen) (s : State) : Host.Outcome State Fault Refusal :=
  runCourse s (.fld f) false [] (fun I s =>
    let n := fabBytes f.mod
    (s, match I.each (fun lane => s.peerOpnd I f lane n .peerLoad) with
      | .error e => .error e
      | .ok os =>
        let mask (i : Nat) : BitVec 16 := if I.uni then maskOf I.lanes else maskOf [i]
        let s := s.modCourse I.core I.slot (fun c => c.setPends (maskOf I.lanes) f.dst)
        let s := os.foldl (fun s (i, a, dev, off) =>
          s.sendReq (.fld I.c.skein I.c.f2 I.c.f1 (mask i) f.dst n (f.mod.getLsbD 3)) I.flow dev 1 (s.skeinCtx I.c.skein)
            I.c.entropy.toNat I.c.fmode (s.causeOf I.c) (s.parentOf I.c) a (.read (BitVec.ofNat 64 off) n)) s
        .ok { s, visible := true, wait := some .remote }))

/-- A posted request of each executing strand, ascending (R380). -/
def runPosted (s : State) (i : Instr) (f : Gen) (kind : Nat) (body : Word → Nat → Word → Body) : Host.Outcome State Fault Refusal :=
  runCourse s i false [] (fun I s =>
    let n := fabBytes f.mod
    (s, match I.each (fun lane => s.peerOpnd I f lane n .peerStore) with
      | .error e => .error e
      | .ok os =>
        let s := os.foldl (fun s (i, a, dev, off) =>
          s.sendReq (.posted I.c.skein I.c.f2 I.c.f1) I.flow dev kind (s.skeinCtx I.c.skein) I.c.entropy.toNat I.c.fmode
            (s.causeOf I.c) (s.parentOf I.c) a (body (BitVec.ofNat 64 off) n (I.c.read i f.sb))) s
        .ok { s, visible := true }))

/-- FST. -/
def execFst (f : Gen) (s : State) : Host.Outcome State Fault Refusal :=
  runPosted s (.fst f) f 3 (fun o n v => .write o (leBytes n v.toNat))

/-- FATM. -/
def execFatm (f : Gen) (s : State) : Host.Outcome State Fault Refusal :=
  runPosted s (.fatm f) f 4 (fun o n v => .atomic o (BitVec.ofNat 4 (bitsOf f.mod.toNat 6 3)) n (BitVec.ofNat 64 (v.toNat % 2 ^ (8 * n))))

/-- A flow takes a new entropy and mode when R375 lets it. -/
def State.setEntropy (s : State) (keep : FlowState → Bool) (ent : Nat) (mode : BitVec 2) : State :=
  (s.async.flows.filter keep).foldl (fun s x => s.setFlow (s.settleFlow { x with next := some (ent, mode) })) s

/-- PENT (R381): the entropy and mode of the course's later requests. -/
def execPent (f : Gen) (s : State) : Host.Outcome State Fault Refusal :=
  runShared s (.pent f) [] true (fun I _ s =>
    let e := bitsOf f.imm.toNat 7 0
    let mode : BitVec 2 := BitVec.ofNat 2 (bitsOf f.mod.toNat 1 0)
    if s.domainSize - 1 ≤ e then .error (illegalStop (encode (.pent f)) 0x03 0) else
    let s := s.modCourse I.core I.slot (fun c => { c with entropy := BitVec.ofNat 8 e, fmode := mode })
    .ok (s.setEntropy (fun x => x.flow == I.flow) e mode))

/-! ## Answers (R374, R375, R379, R380, R383) -/

/-- A marked response rotates the entropy of an adaptive flow, and a waiting change may now take effect (R375). -/
def State.rotate (s : State) (f : Flow) (dev : Nat) (mark : Bool) : State :=
  match s.async.flows.find? (fun x => x.flow == f && x.dev == dev) with
  | none => s
  | some x =>
    let (e, m) := x.next.getD (x.ent, x.mode)
    let x := if mark && (x.mode == 1 || x.mode == 2) then { x with next := some ((e + 1) % (s.domainSize - 1), m) } else x
    s.setFlow (s.settleFlow x)

/-- The request that a response answers, if it is still outstanding. -/
def State.answered (s : State) (p : Packet) : Option Req :=
  match kget s.async.reqs p.req with
  | some r => if r.ended.isNone && r.dev == p.src.toNat && r.flow == p.flow then some r else none
  | none => none

/-- A request has ended and is forgotten; its flow may change its entropy. -/
def State.dropReq (s : State) (id : Nat) (r : Req) (mark : Bool) : State :=
  { s with async := { s.async with reqs := kdel s.async.reqs id } }.rotate r.flow r.dev mark

/-- How an FLD's end is reported (R379): none when its value came. -/
def ReqEnd.trap (a : Word) : ReqEnd → Option Trp
  | .value _ => none
  | .nack r d =>
    if r == 2 || r == 4 then some { cause := Cause.priv, detail := 0x03, tval := a }
    else if r == 3 then some { cause := Cause.xlate, detail := d, tval := a }
    else some { cause := Cause.ecc, detail := 0x03, tval := a }
  | .timeout => some { cause := Cause.ecc, detail := 0x03, tval := a }

/-- The FLD requests of a course. -/
def State.fldReqs (s : State) (sk p k : Nat) : List (Nat × Req) :=
  s.async.reqs.filter (fun (_, r) => match r.kind with
    | .fld a b c _ _ _ _ => a == sk && b == p && c == k
    | _ => false)

def Req.mask (r : Req) : BitVec 16 := match r.kind with | .fld _ _ _ m _ _ _ => m | _ => 0

/-- The value of a reply as its register takes it (R258). -/
def Req.result (r : Req) : Option (BitVec 16 × Reg × Word) :=
  match r.kind, r.ended with
  | .fld _ _ _ m reg n sx, some (.value v) => some (m, reg, BitVec.ofNat 64 (extendTo (sx && n < 8) (8 * n) v.toNat).toNat)
  | _, _ => none

def State.forget (s : State) (l : List (Nat × Req)) : State :=
  { s with async := { s.async with reqs := s.async.reqs.filter (fun (i, _) => !l.any (fun (j, _) => j == i)) } }

/-- The entry parked on remote replies goes on after its FLD, or traps (R157, R379, R458). -/
def State.fldFinish (s : State) (sk p k : Nat) : State :=
  let l := s.fldReqs sk p k
  if l.any (fun (_, r) => r.ended.isNone) then s else
  match s.courseBy sk p k with
  | none => if s.isSaved sk then s else s.forget l
  | some (core, slot, c) =>
    let s := s.forget l
    match (c.fr0 ++ c.fr1 ++ c.fr2).find? (fun e => e.wait == .remote) with
    | none => s
    | some E =>
      let bad := l.filterMap (fun (_, r) => (r.ended.bind (ReqEnd.trap r.laddr)).map (fun t => (r.mask, t)))
      match bad with
      | (_, t) :: _ =>
        let mask := (bad.filter (fun (_, u) => u.cause == t.cause && u.detail == t.detail)).foldl (fun m (x, _) => m ||| x) (0 : BitVec 16)
        s.takeTrap core slot (some E) { t, mask, pc := E.pc, prio := E.prio }
      | [] =>
        let s := if s.async.faults.isEmpty then s else s.faultOver (.course core slot E.pc)
        let c := (l.filterMap (fun (_, r) => r.result)).foldl (fun c (m, reg, v) => (lanesOf m).foldl (fun c i => c.write i reg v) c) c
        s.setCourse core slot (c.setFront (updateFrontier c.front E ((lanesOf E.mask).map (fun i => (i, pcNext E.pc, E.prio))) []))

/-- Where a strand's register lies in its saved record: the offset, and the pending bit (R410). -/
def savedReg (h : Header) (p k lane : Nat) (reg : Reg) (wb low : Nat) : Option (Nat × Nat) :=
  let b := imgStrand h p k lane
  match reg with
  | .w i => some (b + 8 * (wb + i.val - low), wb + i.val - low)
  | .k i => if i.val == 2 then some (b + 0x450, 82) else
      some (imgCourse h p k + 0xC00 + 8 * (if i.val == 1 then 0 else i.val - 2), 80 + i.val)
  | _ => none

/-- A reply to a saved skein: the strand record's pending bit clears, and once every reply has come without a failure the registers of
the record are written (R379, R404). -/
def State.fldSaved (s : State) (sk p k : Nat) (r : Req) : State :=
  match s.skeinHdr sk with
  | none => s
  | some h =>
    let place (s : State) (lane : Nat) (reg : Reg) : Option (Nat × Nat) :=
      match s.imgRead sk (imgStrand h p k lane + 0x460) 8 with
      | .ok b => savedReg h p k lane reg (leNat (b.take 4)) (leNat (b.drop 4))
      | .error _ => none
    let s := match r.kind with
      | .fld _ _ _ m reg _ _ => (lanesOf m).foldl (fun s i => match place s i reg with
          | some (_, bit) => s.imgChange sk (imgStrand h p k i + 0x580) 16 (fun v => v - v / 2 ^ bit % 2 * 2 ^ bit)
          | none => s) s
      | _ => s
    let l := s.fldReqs sk p k
    if l.any (fun (_, r) => r.result.isNone) then s else
    (l.filterMap (fun (_, r) => r.result)).foldl (fun s (m, reg, v) => (lanesOf m).foldl (fun s i => match place s i reg with
      | some (off, _) => s.imgChange sk off 8 (fun _ => v.toNat)
      | none => s) s) (s.forget l)

/-- A reply or the end of one FLD request: its pending bit clears; the last one resolves the instruction. A reply to a course that was
torn down is dropped (R379, R433). -/
def State.fldEnded (s : State) (id : Nat) (r : Req) (e : ReqEnd) (mark : Bool) : State :=
  match r.kind with
  | .fld sk p k m reg _ _ =>
    let r := { r with ended := some e }
    let s := { s with async := { s.async with reqs := kset s.async.reqs id r } }.rotate r.flow r.dev mark
    if s.isSaved sk then s.fldSaved sk p k r
    else match s.courseBy sk p k with
      | none => s.forget [(id, r)]
      | some (core, slot, _) =>
        let s := s.modCourse core slot (fun c => c.clearPends m reg)
        match s.course? core slot with
        | some c => if c.orphan.isSome then s.forget [(id, r)] else s.fldFinish sk p k
        | none => s
  | _ => s

/-- FABRIC_READ_RESPONSE (R379). -/
def execFabricReadResponse (p : Packet) (s : State) : Host.Outcome State Fault Refusal :=
  match s.answered p, p.body with
  | some r, .value v => .next (s.fldEnded p.req r (.value v) p.mark)
  | _, _ => .next s

/-- FABRIC_NACK or FABRIC_TIMEOUT of a posted request, a work entry or a collective, with its error queue entry (R380, R383, R393). -/
def State.fabricFault (s : State) (r : Req) (type reason : Nat) : State :=
  s.emitErr r.ctx { source := s.portSrc r.dev, type, priv := type == 0xA2, err := true, cause := r.cause, parent := r.parent, ctx := r.ctx,
                    payload := r.dev % 16 + reason * 2 ^ 4 + r.laddr.toNat * 2 ^ 16 }

/-- FLD_REPLY_TIMEOUT (R379): FABRIC_TIMEOUT, and the request has ended. -/
def execFldReplyTimeout (req : Nat) (s : State) : Host.Outcome State Fault Refusal :=
  match kget s.async.reqs req with
  | none => .next s
  | some r => match r.kind with
    | .fld sk p k _ _ _ _ =>
      let torn : Bool := match s.courseBy sk p k with | some (_, _, c) => c.orphan.isSome | none => !s.isSaved sk
      if r.ended.isSome || s.time.gt < r.sent + replyLimit || torn then .next s else
      let s := s.emit { source := s.portSrc r.dev, type := 0xA3, err := true, cause := r.cause, parent := r.parent, ctx := r.ctx,
                        payload := r.dev % 16 + r.laddr.toNat * 2 ^ 16 }
      .next (s.fldEnded req r .timeout false)
    | _ => .next s

end Sys2Proof.Machine
end

