-- ==== Sys2Proof/Machine/Sha.lean ====
section
/-! DEFINITION. SHA-384 (R21, R22, R444, R445), as FIPS 180-4 defines it: its constants are computed from the roots of the primes that
define them, and its eight working variables are the last four values of two sequences. -/
namespace Sys2Proof.Machine

/-! ## The constants -/

/-- The first n primes, from the numbers at or above q in order; `fuel` bounds the search. -/
def primesFrom : Nat → Nat → Nat → List Nat
  | 0, _, _ => []
  | fuel + 1, n, q =>
    if n = 0 then []
    else if (List.range q).all (fun d => d < 2 || q % d != 0) then q :: primesFrom fuel (n - 1) (q + 1)
    else primesFrom fuel n (q + 1)

/-- The greatest number whose e-th power is at most v, by its bits from the highest down. -/
def rootBits (e v : Nat) : Nat → Nat → Nat
  | 0, r => r
  | i + 1, r => rootBits e v i (if (r + 2 ^ i) ^ e ≤ v then r + 2 ^ i else r)

/-- The first 64 bits of the fraction of a prime's e-th root. -/
def rootFraction (e p : Nat) : Word := BitVec.ofNat 64 (rootBits e (p * 2 ^ (64 * e)) 69 0)

/-- The round constants: the cube roots of the first eighty primes. -/
def shaK : List Word := (primesFrom 410 80 2).map (rootFraction 3)

/-- Where the two sequences begin: the square roots of the ninth to the sixteenth prime, the newest value of each sequence first. -/
def shaStart : List Word × List Word :=
  let h := ((primesFrom 54 16 2).drop 8).map (rootFraction 2)
  (h.take 4, h.drop 4)

/-! ## The message schedule -/

/-- The exclusive or of a word's rotations to the right. -/
def turned (w : Word) (l : List Nat) : Word := l.foldl (fun z n => z ^^^ w.rotateRight n) 0

/-- The schedule word that follows those before it, the newest first. -/
def shaNext (back : List Word) : Word :=
  let ago (n : Nat) : Word := back.getD (n - 1) 0
  ago 16 + ago 7 + (turned (ago 15) [1, 8] ^^^ ago 15 >>> 7) + (turned (ago 2) [19, 61] ^^^ ago 2 >>> 6)

/-- A schedule made longer by n words, the newest first. -/
def shaExtend : Nat → List Word → List Word
  | 0, back => back
  | n + 1, back => shaExtend n (shaNext back :: back)

/-! ## Rounds and blocks -/

/-- One round: each sequence gains a value and keeps its last four. -/
def shaRound (x : List Word × List Word) (kw : Word) : List Word × List Word :=
  match x with
  | ([p0, p1, p2, p3], [q0, q1, q2, q3]) =>
    let chosen := (q1 &&& q0) ||| (q2 &&& ~~~q0)
    let most := (p0 &&& (p1 ||| p2)) ||| (p1 &&& p2)
    let t := kw + chosen + turned q0 [14, 18, 41] + q3
    ([most + turned p0 [28, 34, 39] + t, p0, p1, p2], [p3 + t, q0, q1, q2])
  | x => x

/-- Big-endian reading of bytes. -/
def beNat (l : List Byte) : Nat := l.foldl (fun n b => n * 256 + b.toNat) 0
/-- Big-endian bytes. -/
def beBytes (n v : Nat) : List Byte := (leBytes n v).reverse

/-- A block of 128 bytes: its rounds, added to where it began. -/
def shaBlock (x : List Word × List Word) (b : List Byte) : List Word × List Word :=
  let first := (chunksOf 8 16 b).map (fun w => BitVec.ofNat 64 (beNat w))
  let y := (List.zipWith (· + ·) shaK (shaExtend 64 first.reverse).reverse).foldl shaRound x
  (List.zipWith (· + ·) x.1 y.1, List.zipWith (· + ·) x.2 y.2)

/-- The message with its padding: one bit, zeros, and its length in bits. -/
def shaPad (m : List Byte) : List Byte :=
  m ++ 0x80 :: (List.replicate ((239 - m.length % 128) % 128) 0 ++ beBytes 16 (m.length * 8))

/-- SHA-384: 48 bytes, the first six words of the hash value. -/
def sha384 (m : List Byte) : List Byte :=
  let p := shaPad m
  let x := (chunksOf 128 (p.length / 128) p).foldl shaBlock shaStart
  (List.range 6).flatMap (fun i => beBytes 8 ((x.1 ++ x.2).getD i 0).toNat)

/-- The digest as one number, its first byte highest. -/
def sha384Bits (m : List Byte) : BitVec 384 := BitVec.ofNat 384 (beNat (sha384 m))

end Sys2Proof.Machine
end

