-- ==== Sys2Proof/Machine/Boot.lean ====
section
/-! DEFINITION. Power, clocks and heat, the boot steps, the control complexes, measurement and attestation, and the life counters (R13 to
R28, R74). -/
namespace Sys2Proof.Machine

/-! ## Measurement (R21) -/

/-- A 384-bit number, its highest byte first. -/
def digestBytes (d : BitVec 384) : List Byte := beBytes 48 d.toNat

/-- Extend a measurement register with a hash. -/
def State.extend (s : State) (i : Nat) (hash : BitVec 384) : State :=
  let old := s.dev.measure[i]?.getD 0
  { s with dev := { s.dev with measure := s.dev.measure.setIfInBounds i (sha384Bits (digestBytes old ++ digestBytes hash)) } }

/-- An image is refused if its signature fails or its security version is lower than the fused one. -/
def imageOk (m : FirmwareImage) : Bool :=
  Config.signatureValid m.bytes m.signature && decide (Config.fusedVersion ≤ m.secVersion)

/-! ## Boot records (R18 to R20) -/

def bootRecord (stamp bootNo detail attempt path outcome step : Nat) : BootRecord :=
  BitVec.ofNat 48 stamp ++ BitVec.ofNat 16 bootNo ++ BitVec.ofNat 16 detail ++ BitVec.ofNat 8 attempt ++ BitVec.ofNat 8 path ++
    BitVec.ofNat 8 outcome ++ BitVec.ofNat 16 0 ++ BitVec.ofNat 8 step

def recStep (r : BootRecord) : Nat := bitsOf r.toNat 7 0
def recOutcome (r : BootRecord) : Nat := bitsOf r.toNat 31 24
def recPath (r : BootRecord) : Nat := bitsOf r.toNat 39 32
def recAttempt (r : BootRecord) : Nat := bitsOf r.toNat 47 40
/-- "Started" counts as failed (R18). -/
def recFailed (r : BootRecord) : Bool := recOutcome r != 1

/-- The alternate path of a step (R17): 0x02 skips the step. -/
def altPath : Nat → Option Nat
  | 2 | 4 | 5 | 6 | 7 | 9 => some 1
  | 8 => some 2
  | _ => none

/-- What a start does at a step, by the previous start's record of it (R19): its path and ATTEMPT, or recovery mode. ATTEMPT stays at 255
(DESIGN CHOICE, log 67). -/
def bootPlan (prev : Option BootRecord) (step : Nat) : Option (Nat × Nat) :=
  match prev with
  | none => some (0, 0)
  | some p =>
    if !recFailed p then some (0, 0)
    else if 1 ≤ recAttempt p && recPath p != 0 then none
    else some ((altPath step).getD 0, min (recAttempt p + 1) 255)

/-- Write or rewrite the current start's record of a step. -/
def State.putRecord (s : State) (r : BootRecord) : State :=
  { s with dev := { s.dev with curRecords := s.dev.curRecords.filter (fun x => recStep x != recStep r) ++ [r] } }

/-! ## The boot steps (R17) -/

/-- Load, measure and verify the control firmware of both complexes: whether it is accepted. -/
def State.loadFirmware (s : State) (m : FirmwareImage) : Bool × State :=
  let h := sha384Bits m.bytes
  let s := (s.extend 1 h).extend 3 h
  if imageOk m then
    (true, { s with dev := { s.dev with major := m.major, minor := m.minor, cxImage := Vector.replicate 2 (some m) } })
  else (false, s)

/-- 1 ms and 1 µs in gt. -/
def gtMs : Nat := 16000000
def gtUs : Nat := 16000

/-- The other members of the domain. -/
def State.peers (s : State) : List Nat := (List.range s.domainSize).filter (fun d => d != s.devNo)

/-- Untrained ports are down. -/
def State.portsDown (s : State) : State := { s with async := { s.async with down := s.peers.map (fun d => (s.devNo, d)) } }

/-- Train the fabric ports: the links to the peers that take part come up, and a member that is absent is reported by LINK_DOWN (R370);
`none` leaves every port untrained and marked down (R17). -/
def State.trainPorts (s : State) (up : Option (List Nat)) : State :=
  match up with
  | none => s
  | some l =>
    let s := { s with async := { s.async with down := (s.peers.filter (fun d => !l.contains d)).map (fun d => (s.devNo, d)) } }
    (s.peers.foldl (fun s d =>
      s.emit { source := s.portSrc d, type := if l.contains d then 0xA1 else 0xA0, payload := d % 16 }) s).reportLinks (s.peers.filter l.contains)

/-- The source of the active control complex. -/
def State.complexSrc (s : State) : Nat := src 8 (if s.dev.activeCx then 1 else 0)

/-- Copy both sets of boot records to the operator ring, two records to a slot, after BOOT_COPY (R20, R71). -/
def State.bootCopy (s : State) : State :=
  let s := s.emit { source := s.complexSrc, type := 0x01, payload := s.dev.bootNo.toNat }
  let slots := chunksOf 2 16 (s.dev.curRecords ++ s.dev.prevRecords)
  slots.foldl (fun s l => s.ringSlot (l.flatMap (fun r => leBytes 16 r.toNat))) s

/-- Both complexes run and the launch queues are open; heartbeats begin (R17, R23). -/
def State.bootComplexes (s : State) : State :=
  let s := s.bootCopy
  { s with dev := { s.dev with ready := true, missed := 0, heartAt := s.time.gt + gtMs } }

/-- What a step does when it runs on a path. LPDDR6 leaves self-refresh when it is trained; the repair map is the self-test's or, on the
alternate path, the previous start's; the launcher microcode is an image of its own, hashed, extended and verified like the others
(R21). -/
def State.stepEffect (s : State) (b : BootInputs) (step path : Nat) : Bool × State :=
  match step with
  | 2 => s.loadFirmware (if path == 1 then b.slotB else b.slotA)
  | 5 => (true, { s with dev := { s.dev with selfRefresh := false } })
  | 7 => (true, if path == 1 then s else { s with dev := { s.dev with repairMap := b.badRows } })
  | 8 => (true, s.trainPorts (if path == 2 then none else some b.peersUp))
  | 10 =>
    let s := s.extend 2 (sha384Bits b.microcode.bytes)
    if imageOk b.microcode then (true, s.bootComplexes) else (false, s)
  | _ => (true, s)

/-- One boot step; the boot goes on only after a step that passed. A start whose inputs end at a step is stopped inside it. The step at which
the W9 stops in recovery mode does not run and writes no record (DESIGN CHOICE, log 67). -/
def State.bootStep (s : State) (b : BootInputs) (step : Nat) : Bool × State :=
  match bootPlan (s.dev.prevRecords.find? (fun r => recStep r == step)) step with
  | none => (false, { s with dev := { s.dev with recovery := true } })
  | some (path, attempt) =>
    let record (s : State) (detail outcome : Nat) : BootRecord :=
      bootRecord s.stamp s.dev.bootNo.toNat detail attempt path outcome step
    let s := s.putRecord (record s 0 0)
    match nth b.results (step - 1) with
    | none => (false, { s with dev := { s.dev with booting := some (BitVec.ofNat 8 step) } })
    | some r =>
      let s := { s with time := { s.time with gt := s.time.gt + r.dt } }
      let (ok, s) := if path == 2 || r.ok then s.stepEffect b step path else (false, s)
      let s := s.putRecord (record s (if ok then 0 else r.detail.toNat) (if ok then 1 else 2))
      if ok then (true, { s with dev := { s.dev with bootDone := BitVec.ofNat 8 step } })
      else (false, { s with dev := { s.dev with bootFailed := BitVec.ofNat 8 step, recovery := step == 1 } })

def State.bootSteps (s : State) (b : BootInputs) : List Nat → State
  | [] => s
  | n :: t => match s.bootStep b n with
    | (true, s) => s.bootSteps b t
    | (false, s) => s

/-! ## What a start keeps (R16, R74) -/

/-- The device with everything but the always-on domain, LPDDR6 and the host's memory back at its start; agenda times keep their
distance from now, and numbers already given out are not given again. -/
def State.cold (s : State) : State :=
  let d := s.dev
  let z := Device.start
  { State.reset with
    dev := { z with
      powered := d.powered, tripped := d.tripped, powerUpSeen := d.powerUpSeen, junction := d.junction, hotFirst := d.hotFirst.map (· - (s.time.gt : Int)),
      bootNo := d.bootNo, curRecords := d.curRecords, prevRecords := d.prevRecords, life := d.life, repairMap := d.repairMap,
      selfRefresh := d.selfRefresh, firstBoot := d.firstBoot }
    time := { TimeState.start with domain := s.time.domain, nextDomain := s.time.nextDomain, logsync := s.time.logsync }
    firn := { s.firn with dropping := [], port := { s.firn.port with busy := 0 } }
    mem := { Memories.start with host := s.mem.host, lpddr := s.mem.lpddr }
    work := { WorkState.start with causeSeq := s.work.causeSeq, nextId := s.work.nextId }
    dbg := { DebugState.start with replies := s.dbg.replies, reports := s.dbg.reports, ckptReplies := s.dbg.ckptReplies }
    agenda := s.agenda.map (fun i => { i with at_ := i.at_ - s.time.gt })
    rotor := s.rotor
    freeCount := s.freeCount }

/-- A start: a new boot number, the previous start's records set aside, the measurement registers from zero with the boot ROM, a
pending DOMAIN, RESET_MARK to come, and the boot steps in order. -/
def State.start (s : State) (b : BootInputs) : State :=
  let s := s.cold
  let failed : Nat := match (s.dev.curRecords.reverse).find? recFailed with | some r => recStep r | none => 0
  let s := { s with
    dev := { s.dev with
      powered := true, tripped := false, powerUpSeen := false, bootNo := s.dev.bootNo + 1, prevRecords := s.dev.curRecords,
      curRecords := [], bootFailed := BitVec.ofNat 8 failed, firstBoot := false }
    time := { s.time with domain := s.time.nextDomain.getD s.time.domain, nextDomain := none }
    firn := { s.firn with mark := true } }
  (s.portsDown.extend 0 Config.bootRomHash).bootSteps b [1, 2, 3, 4, 5, 6, 7, 8, 9, 10]

/-! ## Power-on, reset and loss of power (R16 to R19, R74) -/

/-- POWER_ON; after a trip the start waits for the junction to fall below 80 °C (R16). -/
def execPowerOn (b : BootInputs) (s : State) : Host.Outcome State Fault Refusal :=
  if s.dev.tripped && decide (80 ≤ s.dev.junction) then .next { s with dev := { s.dev with powerUpSeen := true } }
  else .next ((s.life 0).start b)

/-- DEVICE_RESET: the always-on domain and LPDDR6, in self-refresh, keep what they hold (R74). -/
def execDeviceReset (b : BootInputs) (s : State) : Host.Outcome State Fault Refusal :=
  if !s.dev.powered then .next s else .next ({ s with dev := { s.dev with selfRefresh := true } }.start b)

/-- Every rail but VAUX is off: work is lost, a boot step that was running leaves its record "started" (R16, R18). -/
def State.railsOff (s : State) : State :=
  let t := s.cold
  { t with dev := { t.dev with powered := false, hotFirst := s.dev.hotFirst }, time := { t.time with gt := s.time.gt }, agenda := s.agenda,
           firn := { t.firn with mark := true } }

/-- POWER_LOSS: with VAUX and the retention supply, the always-on domain, the life counters and the firn store go too (R27, R74). A tripped
part that loses all power has been power-cycled, and still waits for its junction to cool (R16). -/
def execPowerLoss (vaux : Bool) (s : State) : Host.Outcome State Fault Refusal :=
  let t := s.railsOff
  if !vaux then .next t else
  .next { t with
    dev := { t.dev with life := [], bootNo := 0, curRecords := [], prevRecords := [], powerUpSeen := t.dev.tripped,
                        hotFirst := none, repairMap := [], selfRefresh := false, firstBoot := true }
    time := { TimeState.start with gt := s.time.gt }
    firn := { FirnState.start with records := s.firn.records, port := s.firn.port, msix := s.firn.msix, mark := true }
    mem := { t.mem with lpddr := [] }
    work := { t.work with causeSeq := 0 } }

/-! ## Temperature (R15, R16, R27) -/

/-- The bin of a duration in gt: boundaries at 1, 10, 100 and 1000 µs and 10, 100 and 1000 ms (R27). A duration on a boundary counts in the
upper bin (DESIGN CHOICE, log 67). -/
def durationBin (gt : Nat) : Nat :=
  ([gtUs, 10 * gtUs, 100 * gtUs, 1000 * gtUs, 10 * gtMs, 100 * gtMs, 1000 * gtMs].filter (fun b => b ≤ gt)).length

/-- A reading of the hottest junction, and what it ends: above 95 °C and below 90 °C are timed apart. -/
def State.senseJunction (s : State) (t : Int) : State :=
  let d := s.dev
  { s with dev := { d with
      junction := t
      hotGt := if 95 < t then d.hotGt else none
      hotFirst := if 95 < t then some (d.hotFirst.getD (s.time.gt : Int)) else d.hotFirst
      coolGt := if t < 90 then some (d.coolGt.getD s.time.gt) else none } }

/-- The clock follows the ceiling down, and the reduction is counted (R14, R15). -/
def State.underCeiling (s : State) : State :=
  if s.dev.ceiling < s.dev.clock then ({ s with dev := { s.dev with clock := s.dev.ceiling } } : State).life 7 else s

/-- THERMAL_CEILING_FALL: at once above 95 °C, and after each further 1 ms. -/
def execThermalCeilingFall (t : Int) (s : State) : Host.Outcome State Fault Refusal :=
  let s := s.senseJunction t
  let due : Bool := match s.dev.hotGt with | none => true | some g => decide (g + gtMs ≤ s.time.gt)
  if !s.dev.powered || t ≤ 95 || !due then .next s else
  .next ({ s with dev := { s.dev with ceiling := max 400 (s.dev.ceiling - 100), hotGt := some s.time.gt } } : State).underCeiling

/-- THERMAL_CEILING_RISE: after each 1 ms below 90 °C. -/
def execThermalCeilingRise (t : Int) (s : State) : Host.Outcome State Fault Refusal :=
  let s := s.senseJunction t
  match s.dev.coolGt with
  | none => .next s
  | some g =>
    if !s.dev.powered || s.time.gt < g + gtMs then .next s else
    .next { s with dev := { s.dev with ceiling := min 1600 (s.dev.ceiling + 100), coolGt := some s.time.gt } }

/-- THERMAL_TRIP: above 110 °C every rail except VAUX is switched off, and the trip is counted (R15, R16). -/
def execThermalTrip (t : Int) (s : State) : Host.Outcome State Fault Refusal :=
  let s := s.senseJunction t
  if !s.dev.powered || t ≤ 110 then .next s else
  let s := s.life 8
  .next { s.railsOff with dev := { s.railsOff.dev with tripped := true, powerUpSeen := false } }

/-- THERMAL_EXCURSION_END: an excursion above 95 °C is counted by its length (R27). -/
def execThermalExcursionEnd (t : Int) (s : State) : Host.Outcome State Fault Refusal :=
  let s := s.senseJunction t
  match s.dev.hotFirst with
  | none => .next s
  | some g =>
    if 95 < t then .next s else
    .next (({ s with dev := { s.dev with hotFirst := none } } : State).life (0x10 + durationBin ((s.time.gt : Int) - g).toNat))

/-- POWER_UP_COMMAND (R16). -/
def execPowerUpCommand (b : BootInputs) (s : State) : Host.Outcome State Fault Refusal :=
  if !s.dev.tripped then .next s
  else if s.dev.junction < 80 then .next ((s.life 0).start b)
  else .next { s with dev := { s.dev with powerUpSeen := true } }

/-- JUNCTION_BELOW_80C (R16). -/
def execJunctionBelow80c (t : Int) (b : BootInputs) (s : State) : Host.Outcome State Fault Refusal :=
  let s := s.senseJunction t
  if s.dev.tripped && s.dev.powerUpSeen && decide (t < 80) then .next ((s.life 0).start b) else .next s

/-! ## Current and droop (R14) -/

/-- The samples of one mean: 16,000 gt at one per 64 gt. -/
def meanSamples : Nat := 250

/-- Whether the mean VCORE current is above n tenths of an ampere. Before 250 samples exist the mean is that of the samples present (DESIGN
CHOICE, log 67). -/
def Device.meanAbove (d : Device) (n : Nat) : Bool := decide (n * d.samples.length < 10 * d.samples.foldl (· + ·) 0)

/-- VCORE_CURRENT_SAMPLE: the measurement of every 64 gt. One that comes earlier is none; for the sampling times since the last that no
event has brought, the last reading stands (log 39). The times at the limits are followed: `overGt` when a reduction may come, `underGt`
since when the mean has stayed at or below 7,125 A. -/
def execVcoreCurrentSample (amps : Nat) (s : State) : Host.Outcome State Fault Refusal :=
  let k := (s.time.gt - s.dev.sampleGt) / 64
  if k == 0 && !s.dev.samples.isEmpty then .next s else
  let held := match s.dev.samples with | x :: _ => List.replicate (min (k - 1) meanSamples) x | [] => []
  let d := { s.dev with samples := (amps :: held ++ s.dev.samples).take meanSamples, sampleGt := s.dev.sampleGt + 64 * k }
  .next { s with dev := { d with overGt := if d.meanAbove 75000 then d.overGt else 0
                                 underGt := if d.meanAbove 71250 then s.time.gt else d.underGt } }

/-- CLOCK_REDUCTION: while the mean exceeds 7500 A, at once and after each further 16,000 gt. -/
def execClockReduction (s : State) : Host.Outcome State Fault Refusal :=
  if !s.dev.powered || !s.dev.meanAbove 75000 || s.time.gt < s.dev.overGt || s.dev.clock ≤ 400 then .next s else
  .next (({ s with dev := { s.dev with clock := max 400 (s.dev.clock - 100), overGt := s.time.gt + 16000 } } : State).life 7)

/-- CLOCK_RAISE: after each 160,000 gt at or below 7,125 A, up to the ceiling. -/
def execClockRaise (s : State) : Host.Outcome State Fault Refusal :=
  if !s.dev.powered || s.dev.meanAbove 71250 || s.time.gt < s.dev.underGt + 160000 || s.dev.ceiling ≤ s.dev.clock then .next s else
  .next { s with dev := { s.dev with clock := min s.dev.ceiling (s.dev.clock + 100), underGt := s.time.gt } }

/-- DROOP_EXCURSION: a rail more than 5 % below nominal for longer than 32 gt. -/
def execDroopExcursion (_rail : Rail) (gt : Nat) (s : State) : Host.Outcome State Fault Refusal :=
  if gt ≤ 32 then .next s else .next (s.life (0x18 + durationBin gt))

/-! ## The control complexes (R23 to R26) -/

/-- HEARTBEAT: its time comes every 16,000,000 gt, and it comes in or is missed. -/
def execHeartbeat (arrives : Bool) (s : State) : Host.Outcome State Fault Refusal :=
  if !s.dev.ready || s.time.gt < s.dev.heartAt then .next s else
  .next { s with dev := { s.dev with missed := if arrives then 0 else s.dev.missed + 1, heartAt := s.dev.heartAt + gtMs } }

/-- The standby takes over: FAILOVER and its life counter. It goes on from the state table, which is the launcher's state itself (log 68). -/
def State.takeOver (s : State) (reason : Nat) : State :=
  let s := { s with dev := { s.dev with activeCx := !s.dev.activeCx, missed := 0, cxError := false, heartAt := s.time.gt + gtMs } }
  (s.life 9).emit { source := s.complexSrc, type := 0x02, payload := (if s.dev.activeCx then 1 else 0) + reason * 2 ^ 8 }

/-- Why the active complex has failed: three missed heartbeats, or an uncorrectable error in its instruction memory (R23). -/
def State.failReason (s : State) (ecc : Bool) : Option Nat :=
  if !s.dev.ready then none else if ecc || s.dev.cxError then some 2 else if 3 ≤ s.dev.missed then some 1 else none

/-- The standby takes over from a failed complex; while an update is in progress UPDATE_ABANDONED takes its place (R26). -/
def State.failOver (s : State) (ecc : Bool) : State :=
  match s.failReason ecc, s.dev.updating with
  | some r, none => s.takeOver r
  | some _, some _ => { s with dev := { s.dev with cxError := s.dev.cxError || ecc } }
  | none, _ => s

/-- FAILOVER (R23). -/
def execFailover (ecc : Bool) (s : State) : Host.Outcome State Fault Refusal := .next (s.failOver ecc)

/-- The complex that is not active. -/
def Device.standby (d : Device) : Nat := if d.activeCx then 0 else 1

/-- LIVE_UPDATE: the image is written to the standby and measured; the standby boots it and imports the state table, or refuses its
version, which is recorded (R25). An image that fails its signature or security version is not run, and nothing is recorded of it (DESIGN
CHOICE, log 67). -/
def execLiveUpdate (img : FirmwareImage) (s : State) : Host.Outcome State Fault Refusal :=
  if !s.dev.ready || s.dev.updating.isSome then .next s else
  let s := s.extend 3 (sha384Bits img.bytes)
  if !imageOk img then .next s
  else if img.major == s.dev.major && decide (s.dev.minor.toNat ≤ img.minor.toNat) then
    .next { s with dev := { s.dev with
      updating := some img, cxPrev := (s.dev.cxImage[s.dev.standby]?).getD none
      cxImage := s.dev.cxImage.setIfInBounds s.dev.standby (some img) } }
  else .next (s.emit { source := s.complexSrc, type := 0x04, payload := s.dev.major.toNat + s.dev.minor.toNat * 2 ^ 16 })

/-- A quiescent packet boundary: no packet at a queue head has been read and not yet accepted (R24). -/
def State.quiescent (s : State) : Bool := s.tables.queues.all (fun (_, q) => q.waiting.isNone && q.packet.isNone)

/-- UPDATE_DONE: at a quiescent packet boundary the standby takes over (R24). -/
def execUpdateDone (s : State) : Host.Outcome State Fault Refusal :=
  match s.dev.updating with
  | none => .next s
  | some m =>
    if !s.quiescent || (s.failReason false).isSome then .next s else
    let s := { s with dev := { s.dev with
      activeCx := !s.dev.activeCx, updating := none, cxPrev := none, major := m.major, minor := m.minor, missed := 0
      heartAt := s.time.gt + gtMs } }
    .next (s.emit { source := s.complexSrc, type := 0x03, payload := m.major.toNat + m.minor.toNat * 2 ^ 16 })

/-- UPDATE_ABANDONED: the active complex has failed before the takeover; the standby reboots its previous image and takes over (R26). -/
def execUpdateAbandoned (s : State) : Host.Outcome State Fault Refusal :=
  match s.dev.updating, s.failReason false with
  | some _, some r =>
    let s := { s with dev := { s.dev with
      updating := none, cxImage := s.dev.cxImage.setIfInBounds s.dev.standby s.dev.cxPrev, cxPrev := none } }
    let s := s.emit { source := s.complexSrc, type := 0x05 }
    .next (s.takeOver r)
  | _, _ => .next s

/-! ## What the part does about current, heat and its complexes by itself -/

/-- The times of what R14, R15, R23, R24, R26 and R27 make the part do, by its last readings. -/
def State.partTimers (s : State) : List (Nat × Instr) :=
  let d := s.dev
  let now := s.time.gt
  (if d.meanAbove 75000 && 400 < d.clock then [(max now d.overGt, Instr.clockReduction)] else []) ++
  (if !d.meanAbove 71250 && d.clock < d.ceiling then [(d.underGt + 160000, Instr.clockRaise)] else []) ++
  (if 95 < d.junction && 400 < d.ceiling then [(d.hotGt.elim now (· + gtMs), Instr.thermalCeilingFall d.junction)] else []) ++
  (match d.coolGt with
   | some g => if d.ceiling < 1600 then [(g + gtMs, Instr.thermalCeilingRise d.junction)] else []
   | none => []) ++
  (if 110 < d.junction then [(now, Instr.thermalTrip d.junction)] else []) ++
  (if d.hotFirst.isSome && d.junction ≤ 95 then [(now, Instr.thermalExcursionEnd d.junction)] else []) ++
  (if !d.ready then [] else
    (d.heartAt, Instr.heartbeat true) ::
      (if (s.failReason false).isNone then (if d.updating.isSome && s.quiescent then [(now, Instr.updateDone)] else [])
       else [(now, if d.updating.isSome then Instr.updateAbandoned else Instr.failover false)]))

/-! ## Attestation and life counters (R22, R27, R28) -/

/-- The 384-byte report, its first 0x120 bytes signed. The numbers r and s of the signature lie lowest byte first (R8). -/
def State.report (s : State) (nonce : BitVec 384) : List Byte :=
  let body := leBytes 16 (Config.reportHeader Config.fusedVersion s.dev.bootNo).toNat ++ digestBytes nonce ++
    s.dev.measure.toList.flatMap digestBytes ++ leBytes 6 Config.hdieSerial.toNat ++
    (List.range 4).flatMap (fun k => leBytes 6 (Config.cdieSerial k).toNat) ++ [0, 0]
  let sig := Config.identitySign (sha384Bits body)
  body ++ leBytes 48 (sig.extractLsb' 384 384).toNat ++ leBytes 48 (sig.extractLsb' 0 384).toNat

/-- ATTESTATION_REPORT. -/
def execAttestationReport (nonce : BitVec 384) (s : State) : Host.Outcome State Fault Refusal :=
  .next { s with dbg := { s.dbg with reports := s.dbg.reports ++ [s.report nonce] } }

/-- LIFEIDX_SELECT: from the operator only. -/
def execLifeidxSelect (r : Requester) (idx : BitVec 8) (s : State) : Host.Outcome State Fault Refusal :=
  match r with
  | .operator => .next { s with dev := { s.dev with lifeIdx := idx } }
  | .other => .next s

/-- LIFEIDX_CLEAR: selects and clears in one access. -/
def execLifeidxClear (r : Requester) (idx : BitVec 8) (s : State) : Host.Outcome State Fault Refusal :=
  match r with
  | .operator => .next { s with dev := { s.dev with lifeIdx := idx, life := kdel s.dev.life idx.toNat } }
  | .other => .next s

/-- CXL_LINK_RETRAIN. -/
def execCxlLinkRetrain (s : State) : Host.Outcome State Fault Refusal := .next (s.life 6)

end Sys2Proof.Machine
end

