-- ==== Sys2Proof/Machine/Checkpoint.lean ====
section
/-! DEFINITION. The checkpoint channel: sealing a shard and verifying a set of shards (R441 to R445). -/
namespace Sys2Proof.Machine

/-! ## Reading a shard (R443) -/

/-- A shard's header and payload as bytes; `none` when a byte of either does not translate. -/
def State.shardHeader (s : State) (ctx : Nat) (a : Word) : Option (List Byte) :=
  if (s.ctxEntry ctx).ptroot == 0 then none else
  match s.readRange (s.whoOf ctx) a 256 with | .ok b => some b | .error _ => none

def hdrField (h : List Byte) (off n : Nat) : Nat := leNat ((h.drop off).take n)
def shardPlen (h : List Byte) : Nat := hdrField h 0x28 8
def shardStep (h : List Byte) : Nat := hdrField h 0x18 8
def shardNo (h : List Byte) : Nat := hdrField h 0x20 4
def shardCount (h : List Byte) : Nat := hdrField h 0x24 4

def State.shardPayload (s : State) (ctx : Nat) (a : Word) (h : List Byte) : Option (List Byte) :=
  match s.readRange (s.whoOf ctx) (a + 256) (shardPlen h) with | .ok b => some b | .error _ => none

/-! ## SEAL -/

def piecesMeet (l m : List (Loc × Nat)) : Bool :=
  l.any (fun (x, n) => m.any (fun (y, k) => x.store == y.store && overlap x.addr n y.addr k))

/-- The destination that a running copy still writes into (R281, R291). -/
def State.copyInto (s : State) (o : Op) : Option (Word × Nat) :=
  if s.opMoved o then none else
  match o.kind with
  | .copy _ dst len _ => some (dst, len)
  | .snap _ dst size _ => some (dst, size)
  | _ => none

/-- Whether a running copy writes into [a, a + n) of a context: the homes meet, or, where one of the two does not translate, the
addresses do. -/
def State.copyMeets (s : State) (ctx : Nat) (a : Word) (n : Nat) (o : Op) : Bool :=
  match s.copyInto o with
  | none => false
  | some (d, k) =>
    match s.homes (s.whoOf ctx) .load a (n / 128 + 2) n, s.homes (s.whoOf o.ctx) .store d (k / 128 + 2) k with
    | .ok l, .ok m => piecesMeet l m
    | _, _ => o.ctx == ctx && overlap a.toNat n d.toNat k

/-- The answer of the checkpoint channel: one status byte. -/
def State.ckptReply (s : State) (status : Byte) : State :=
  { s with dbg := { s.dbg with ckptReplies := s.dbg.ckptReplies ++ [status] } }

/-- SEAL (R444). A SEAL that waits for a copy looks again one clock later. -/
def execSeal (ctx : Nat) (addr : Word) (s : State) : Host.Outcome State Fault Refusal :=
  match s.shardHeader ctx addr with
  | none => .next (s.ckptReply 0x08)
  | some h =>
    if s.async.ops.any (fun (_, o) => s.copyMeets ctx addr (256 + shardPlen h) o) then
      .next (s.laterAt (s.time.gt + s.clockGt) (.seal ctx addr))
    else match s.shardPayload ctx addr h with
      | none => .next (s.ckptReply 0x08)
      | some pay =>
        let digest := sha384 pay
        let hdigest := sha384 (h.take 0x40 ++ digest)
        match s.writeRange (s.whoOf ctx) (addr + 0x40) (digest ++ hdigest) with
        | .error _ => .next (s.ckptReply 0x08)
        | .ok s =>
          .next ((s.emit { source := s.complexSrc, type := 0xD5, ctx, payload := vaOf addr + shardNo h * 2 ^ 56 }).ckptReply 0)

/-! ## VERIFY -/

/-- MAGIC and VERSION hold and every bit that R443 calls zero is zero. -/
def shardFormOk (h : List Byte) : Bool :=
  hdrField h 0 4 == 0x00579C4B && hdrField h 4 2 == 1 && hdrField h 6 2 < 16 && hdrField h 0x30 2 < 16 &&
    hdrField h 0x32 14 == 0 && ((h.drop 0xA0).take 96).all (· == 0)

/-- The first check that a listed shard fails, in the order of R445; 0 when none does. -/
def State.shardCode (s : State) (ctx : Nat) (job : BitVec 128) (n ref : Nat) (a : Word) : Byte :=
  match s.shardHeader ctx a with
  | none => 0x08
  | some h => match s.shardPayload ctx a h with
    | none => 0x08
    | some pay =>
      if !shardFormOk h then 0x01
      else if (h.drop 0x70).take 48 != sha384 (h.take 0x70) then 0x02
      else if hdrField h 8 16 != job.toNat then 0x03
      else if shardCount h != n then 0x04
      else if shardStep h != ref then 0x06
      else if (h.drop 0x40).take 48 != sha384 pay then 0x07
      else 0x00

/-- The header whose STEP is the reference step: the listed shard whose SHARD is 0, else the first listed. -/
def referenceHeader (hs : List (Option (List Byte))) : Option (List Byte) :=
  match hs.find? (fun o => match o with | some h => shardNo h == 0 | none => false) with
  | some o => o
  | none => hs.headD none

/-- The set check of one shard: its SHARD occurs at one place of the list. -/
def uniqueAt (hs : List (Option (List Byte))) (no : Nat) : Bool :=
  (hs.filter (fun o => match o with | some h => shardNo h == no | none => false)).length ≤ 1

/-- MISSING: how many numbers below the reference shard's COUNT no listed shard has. -/
def missingOf (hs : List (Option (List Byte))) (count : Nat) : Nat :=
  count - ((hs.filterMap (fun o => o.map shardNo)).eraseDups.filter (· < count)).length

/-- VERIFY (R445). The reference step of a list whose header cannot be read is a free value. -/
def execVerify (ctx : Nat) (shards : List Word) (job : BitVec 128) (result : Word) (s : State) : Host.Outcome State Fault Refusal :=
  let hs := shards.map (s.shardHeader ctx)
  let (s, ref, count) := match referenceHeader hs with
    | some h => (s, shardStep h, shardCount h)
    | none => (s.freshWord.2, s.freshWord.1.toNat, shards.length)
  let codes := (shards.zip hs).map (fun (a, o) =>
    let c := s.shardCode ctx job shards.length ref a
    match o with
    | some h => if c == 0 && !uniqueAt hs (shardNo h) then (0x05 : Byte) else c
    | none => c)
  let refused := codes.any (· != 0)
  let status : Byte := if refused then 1 else 0
  let block := [status, 0, 0, 0] ++ leBytes 4 (missingOf hs count) ++ leBytes 8 ref ++ List.replicate 48 0 ++ codes
  let (s, reply) := match (if (s.ctxEntry ctx).ptroot == 0 then .error ⟨0, []⟩ else s.writeRange (s.whoOf ctx) result block) with
    | .ok s => (s, status)
    | .error _ => (s, 0x08)
  let s := if refused then
      s.emit { source := s.complexSrc, type := 0xD7, err := true, ctx, payload := ref + status.toNat * 2 ^ 64 }
    else s.emit { source := s.complexSrc, type := 0xD6, ctx, payload := ref + shards.length * 2 ^ 64 }
  .next (s.ckptReply reply)

end Sys2Proof.Machine
end

