-- ==== Sys2Proof/Machine/Entries.lean ====
section
/-! DEFINITION. Work entries: posting, arming and their execution (R382 to R385), and the answers to posted requests (R380, R383). -/
namespace Sys2Proof.Machine

/-! ## Posting and arming (R382, R384) -/

def entRed (b : BitVec 512) : Nat := entField b 1 1
def entTag (b : BitVec 512) : Nat := entField b 2 1
def entFlags (b : BitVec 512) : Nat := entField b 3 1
def entMode (b : BitVec 512) : BitVec 2 := BitVec.ofNat 2 (bitsOf (entFlags b) 4 3)
def entEnt (b : BitVec 512) : Nat := entField b 4 1
def entKey (b : BitVec 512) : Nat := entField b 6 2
def entSrc (b : BitVec 512) : Word := BitVec.ofNat 64 (entField b 8 8)
def entDst (b : BitVec 512) : Word := BitVec.ofNat 64 (entField b 0x10 8)
def entRsig (b : BitVec 512) : Word := BitVec.ofNat 64 (entField b 0x20 8)
def entLsig (b : BitVec 512) : Word := BitVec.ofNat 64 (entField b 0x28 8)
def entDeadline (b : BitVec 512) : Nat := entField b 0x30 8

/-- The element formats of REDUCE (R382). -/
def reduceTag (t : Nat) : Bool := [0x09, 0x0A, 0x0B, 0x0C, 0x13, 0x14, 0x15, 0x16].contains t

/-- A work entry's fields are in their ranges and its reserved bits are zero (R382, R384). -/
def State.entryOk (s : State) (b : BitVec 512) : Bool :=
  let op := entOp b
  let len := entLen b
  1 ≤ op && op ≤ 3 && entRed b < 8 && (if op == 2 then entRed b ≤ 2 && reduceTag (entTag b) else entTag b == 0) &&
    entFlags b < 32 && entMode b != 3 && entEnt b < s.domainSize - 1 && entDev b < s.domainSize && (entSrc b).toNat % 32 == 0 &&
    len % 32 == 0 && len ≤ 2 ^ 24 && (op != 3 || len == 0) && entField b 0x1C 4 == 0 && entField b 0x38 8 == 0 &&
    bitsOf (entRsig b).toNat 31 17 == 0 && bitsOf (entLsig b).toNat 31 17 == 0

/-- The leader's read of a work entry (R249, R384). -/
def State.readEntry (s : State) (I : Iss) (a : Word) : Except Stop (BitVec 512 × Opnd) :=
  if !([0, 0xC, 0xD, 0xE].contains (spaceOf a)) then .error (Trp.stop Cause.xlate Xlate.target a) else
  match s.reach (s.strandWho I.core I.c.pslot I.c I.leader) I.core false true a 64 with
  | .error e => .error e
  | .ok o =>
    let b : BitVec 512 := BitVec.ofNat 512 (leNat (s.routeRead o.route))
    if s.entryOk b then .ok (b, o) else .error (Trp.stop Cause.format 0x01 a)

/-- An entry on behalf of the issuing course. -/
def State.entryOf (s : State) (I : Iss) (threshold : Word) (bits : BitVec 512) : Armed :=
  { threshold, bits, core := I.core, ctx := s.skeinCtx I.c.skein, launch := s.launchId I.c, skein := some I.c.skein, cause := s.causeOf I.c,
    parent := s.parentOf I.c }

/-- QPST (R384): the entry at SA is copied and executes at once. -/
def execQpst (f : Gen) (s : State) : Host.Outcome State Fault Refusal :=
  runCourse s (.qpst f) false [f.sa] (fun I s =>
    (s, match s.readEntry I (I.c.read I.leader f.sa) with
      | .error e => .error (e, maskOf [I.leader])
      | .ok (b, o) => .ok { s := s.startEntry (s.entryOf I 0 b), visible := true, hits := s.opndHits 33 [(I.leader, o)] }))

/-- Armed entries of the device (R384). -/
def State.armedTotal (s : State) : Nat := (kvals s.async.counters).foldl (fun n c => n + c.armed.length) 0

/-- QARM (R384): the entry at SA is copied and armed on a counter with threshold SB; it fires at once where VALUE has reached it. -/
def execQarm (f : Gen) (s : State) : Host.Outcome State Fault Refusal :=
  runCourse s (.qarm f) false [f.sa, f.sb] (fun I s =>
    let cnum := bitsOf f.imm.toNat 15 0
    (s, match s.liveCounter I cnum with
      | .error e => .error e
      | .ok i => match s.readEntry I (I.c.read I.leader f.sa) with
        | .error e => .error (e, maskOf [I.leader])
        | .ok (b, o) =>
          let c := s.counter i
          if 8 ≤ c.armed.length || 16384 ≤ s.armedTotal then
            .error (Trp.stop Cause.priv 0x04 (BitVec.ofNat 64 cnum), maskOf I.lanes)
          else
            let hits := s.opndHits 33 [(I.leader, o)]
            let s := s.setCounter i { c with armed := c.armed ++ [s.entryOf I (I.c.read I.leader f.sb) b] }
            .ok { s := s.fireArmed (s.skeinCtx I.c.skein) i cnum (s.causeOf I.c) (s.parentOf I.c), visible := true, hits }))

/-! ## Execution (R383, R385) -/

/-- Whose accesses an entry makes: the skein's while it lives, else the launch's, else the context's. -/
def State.entryWho (s : State) (o : Op) : Who :=
  match o.skein.bind s.skein? with
  | some _ => s.skeinWho (o.skein.getD 0) o.core none
  | none => match o.launch.bind s.launch? with
    | some _ => s.tileWho (o.launch.getD 0)
    | none => s.whoOf o.ctx

def State.entryAgt (s : State) (o : Op) : Agt := { w := s.entryWho o, core := o.core, cls := 3, cause := o.cause, parent := o.parent }

/-- An address in the granules of a skein that has bound off (R385, R435). -/
def State.goneGranule (s : State) (o : Op) (a : Word) : Bool :=
  (spaceOf a == 0xD || spaceOf a == 0xE) && (o.skein.bind s.skein?).isNone

/-- The offset in the saved image of a byte of a granule that has been claimed (R385): the member, the granule's index and the position
of the byte in it. -/
def State.imageAt (s : State) (o : Op) (a : Word) : Option (Nat × Nat) :=
  match o.skein with
  | none => none
  | some sk => match s.skein? sk, s.skeinHdr sk with
    | some k, some h =>
      let off := offsetOf a
      let (m, j, pos) : Nat × Nat × Nat :=
        if spaceOf a == 0xE then ((k.cores.idxOf? o.core).getD 0, off / 131072, off % 131072)
        else
          let line := off / 128
          let om := line / max h.members 1 * 128 + off % 128
          (line % max h.members 1, h.ugran + om / 131072, om % 131072)
      if (spaceOf a == 0xD || spaceOf a == 0xE) && k.inImage.contains (m, j) then some (sk, imgGranule h m j + pos) else none
    | _, _ => none

/-- The entry's data lands at this device (R383, R385): in place, in the saved image, or along the tile directory. -/
def State.entryLocal (s : State) (o : Op) (b : BitVec 512) (a : Word) (bs : List Byte) : Except Tgt State :=
  let g := s.entryAgt o
  if s.goneGranule o a then .error (.nack 6 0) else
  match s.imageAt o a with
  | some (sk, off) =>
    match s.imgRead sk off bs.length with
    | .error e => .error (.xlate e a)
    | .ok old =>
      let t : Tag := BitVec.ofNat 5 (entTag b)
      let n := max (tagWidth t / 8) 1
      let new := if entOp b == 2 then
          ((chunksOf n (bs.length / n + 1) old).zip (chunksOf n (bs.length / n + 1) bs)).flatMap (fun (x, y) =>
            leBytes n (reduceVal t (entRed b) (leNat x) (leNat y)))
        else bs
      match s.imgWrite sk off new with
      | .error e => .error (.xlate e a)
      | .ok s => .ok s
  | none => if entOp b == 2 then s.agtReduceAll g (BitVec.ofNat 5 (entTag b)) (entRed b) a bs else s.agtStore g a bs

/-- Sectors of an entry. -/
def entSectors (b : BitVec 512) : Nat := if entOp b == 3 then 0 else entLen b / 32

/-- The requests of an entry that are still outstanding. -/
def State.entryOut (s : State) (id : Nat) : Bool :=
  s.async.reqs.any (fun (_, r) => match r.kind with | .entry op _ => op == id && r.ended.isNone | _ => false)

/-- Earlier fabric work of the entry's context toward its device that has not been performed (R383 step 4). -/
def State.entryBehind (s : State) (id : Nat) (o : Op) (b : BitVec 512) : Bool :=
  s.async.reqs.any (fun (i, r) => i < id && r.ctx == o.ctx && r.dev == entDev b && r.ended.isNone &&
    (match r.kind with | .posted _ _ _ | .entry _ _ => true | _ => false)) ||
  s.async.ops.any (fun (i, x) => i < id && x.ctx == o.ctx && (match x.kind with | .entry c _ => entDev c == entDev b | _ => false))

/-- The context entry that an operation goes by: its launch's or its instance's own (R54), else the context's. -/
def State.opEntry (s : State) (launch : Option Nat) (issuer : Issuer) (ctx : Nat) : ContextEntry :=
  match launch.bind s.launch?, issuer with
  | some l, _ => l.entry
  | none, .node g _ => (kget s.work.runs g).elim (s.ctxEntry ctx) (·.entry)
  | none, _ => s.ctxEntry ctx

/-- The entry ends: LSIG with key 0 when it succeeded (R383 step 5). -/
def State.entryEnd (s : State) (id : Nat) (o : Op) (b : BitVec 512) (ok : Bool) : State :=
  let s := (s.opGoesOn id).endOp id
  if ok && (entFlags b).testBit 1 then s.signalWord o.ctx (s.opEntry o.launch o.issuer o.ctx) (entLsig b) s.devNo 0 o.cause o.parent else s

/-- The entry ends with a nack (R383): FABRIC_NACK and an entry in the error queue. -/
def State.entryNack (s : State) (id : Nat) (o : Op) (b : BitVec 512) (reason : Byte) (a : Word) : State :=
  let s := s.emitErr o.ctx { source := s.portSrc (entDev b), type := 0xA2, priv := true, err := true, cause := o.cause, parent := o.parent,
                             ctx := o.ctx, payload := entDev b % 16 + reason.toNat * 2 ^ 4 + a.toNat * 2 ^ 16 }
  s.entryEnd id o b false

/-- The next 32 bytes of an entry: read at LSRC, sent to the target or performed here. -/
def State.entrySector (s : State) (id : Nat) (o : Op) (b : BitVec 512) : State :=
  let off : Word := BitVec.ofNat 64 (32 * o.cursor)
  let a := entSrc b + off
  if s.goneGranule o a then s.entryNack id o b 6 a else
  match s.engineRead none (s.entryWho o) o.core a 32 with
  | .error e => s.parkOp id o 1 e
  | .ok (bs, rl) =>
    let step (s : State) : State := (s.setOp id { o with cursor := o.cursor + 1, moved := o.moved + 32, fault := none }).opGoesOn id
    let s1 := s.agtHits (s.entryAgt o) 36 a rl
    if entDev b == s.devNo then
      match s1.entryLocal o b (entDst b + off) bs with
      | .ok s => step s
      | .error .wait => s
      | .error (.nack r _) => s.entryNack id o b r a
      | .error (.xlate _ _) => s.entryNack id o b 3 a
      | .error (.ue l _) => (s.memUe l o.core o.cause o.parent o.ctx).entryNack id o b 5 a
    else
      let s1 := if o.cursor == 0 then s1.setEntropy (fun x => x.flow == .pair o.ctx && x.dev == entDev b) (entEnt b) (entMode b) else s1
      let body : Body := if entOp b == 2 then .reduce (entDst b + off) (BitVec.ofNat 3 (entRed b)) (BitVec.ofNat 5 (entTag b)) bs
        else .write (entDst b + off) bs
      step (s1.sendReq (.entry id false) (.pair o.ctx) (entDev b) (if entOp b == 2 then 5 else 3) o.ctx (entEnt b) (entMode b) o.cause
        o.parent a body)

/-- Whether an entry whose data has been performed may signal (R383 steps 3 and 4). -/
def State.entryReady (s : State) (id : Nat) (o : Op) (b : BitVec 512) : Bool :=
  entSectors b ≤ o.cursor && !s.entryOut id && !((entFlags b).testBit 0 && s.entryBehind id o b)

/-- Steps 3 to 5 of R383: RSIG with release at the target, then LSIG. -/
def State.entryFinish (s : State) (id : Nat) (o : Op) (b : BitVec 512) : State :=
  let rsig := (entFlags b).testBit 2
  if entDev b == s.devNo then
    match (if rsig then s.applyRsig o.ctx (s.opEntry o.launch o.issuer o.ctx) (entRsig b) s.devNo (entKey b) o.cause o.parent else .ok s) with
    | .ok s => s.entryEnd id o b true
    | .error _ => s.entryNack id o b 4 (entSrc b)
  else if !rsig && entOp b != 3 then s.entryEnd id o b true
  else
    let s := if entSectors b == 0 then s.setEntropy (fun x => x.flow == .pair o.ctx && x.dev == entDev b) (entEnt b) (entMode b) else s
    (s.setOp id { o with kind := .entry b true }).sendReq (.entry id true) (.pair o.ctx) (entDev b) 6 o.ctx (entEnt b) (entMode b) o.cause
      o.parent (entSrc b) (.signal (if rsig then entRsig b else 0) (BitVec.ofNat 16 (entKey b)))

/-- An entry goes on: its next sector, or its signal. -/
def State.entryNext (s : State) (id : Nat) (o : Op) (b : BitVec 512) (sent : Bool) : State :=
  if o.fault.isSome || sent then s
  else if o.cursor < entSectors b then s.entrySector id o b
  else if s.entryReady id o b then s.entryFinish id o b
  else s

/-! ## Answers to posted requests, entries and collectives (R374, R380, R383, R387) -/

/-- FABRIC_ACK (R383): the request has ended; the ack of an entry's signal applies LSIG. -/
def execFabricAck (p : Packet) (s : State) : Host.Outcome State Fault Refusal :=
  match s.answered p with
  | none => .next s
  | some r => match r.kind with
    | .fld _ _ _ _ _ _ _ => .next s
    | .entry op last =>
      let s := s.dropReq p.req r p.mark
      match last, s.op? op with
      | true, some o => (match o.kind with
        | .entry b _ => .next (s.entryEnd op o b true)
        | _ => .next s)
      | _, _ => .next s
    | _ => .next (s.dropReq p.req r p.mark)

/-- A request other than an FLD ended without success: its record, and the end of an entry. -/
def State.reqFailed (s : State) (id : Nat) (r : Req) (type reason : Nat) (mark : Bool) : State :=
  let s := s.dropReq id r mark
  match r.kind with
  | .entry op _ => match s.op? op with
    | some o => (match o.kind with
      | .entry b _ => (s.fabricFault r type reason).entryEnd op o b false
      | _ => s)
    | none => s
  | _ => s.fabricFault r type reason

/-- FABRIC_NACK (R374): an FLD takes its outcome (R379); a chunk or ready packet nacked 0x06 goes out again 16,000 gt after it was sent
(R387); everything else reports FABRIC_NACK. -/
def execFabricNack (p : Packet) (s : State) : Host.Outcome State Fault Refusal :=
  match s.answered p with
  | none => .next s
  | some r =>
    let reason : Byte := p.info.setWidth 8
    let again (c : Word32) : State :=
      let s := s.dropReq p.req r p.mark
      { s with async := { s.async with colls := kmod s.async.colls c.toNat (fun x =>
          { x with resend := x.resend ++ [(r.sent + 16000, r.dev, r.packet.body)] }) } }
    match r.kind with
    | .fld _ _ _ _ _ _ _ => .next (s.fldEnded p.req r (.nack reason (p.info.extractLsb' 8 8)) p.mark)
    | .chunk c => .next (if reason == 6 then again c else s.reqFailed p.req r 0xA2 reason.toNat p.mark)
    | .ready c _ => .next (if reason == 6 then again c else s.reqFailed p.req r 0xA2 reason.toNat p.mark)
    | _ => .next (s.reqFailed p.req r 0xA2 reason.toNat p.mark)

/-- FABRIC_TIMEOUT (R380): no ack within 160,000,000 gt. -/
def execFabricTimeout (req : Nat) (s : State) : Host.Outcome State Fault Refusal :=
  match kget s.async.reqs req with
  | none => .next s
  | some r => match r.kind with
    | .fld _ _ _ _ _ _ _ => .next s
    | _ => .next (if r.ended.isSome || s.time.gt < r.sent + replyLimit then s else s.reqFailed req r 0xA3 0 false)

end Sys2Proof.Machine
end

