-- ==== Sys2Proof/Machine/Collective.lean ====
section
/-! DEFINITION. Collectives and their watchdogs (R386 to R391, R446 to R450), and SECTOR_COMPLETE, which moves every engine's work on by
one sector, packet or chunk (R270, R383, R387, R388). -/
namespace Sys2Proof.Machine

/-! ## The descriptor (R386, R450) -/

/-- A field of a descriptor: n bytes at an offset. -/
def cdField (d : BitVec 1024) (off n : Nat) : Nat := (d.toNat >>> (8 * off)) % 2 ^ (8 * n)
def cdOp (d : BitVec 1024) : Nat := cdField d 0 1
def cdRed (d : BitVec 1024) : Nat := cdField d 1 1
def cdTag (d : BitVec 1024) : Tag := BitVec.ofNat 5 (cdField d 2 1)
def cdParts (d : BitVec 1024) : Nat := cdField d 3 1
def cdSelf (d : BitVec 1024) : Nat := cdField d 4 1
def cdMode (d : BitVec 1024) : BitVec 2 := BitVec.ofNat 2 (cdField d 5 1)
def cdName (d : BitVec 1024) : Nat := cdField d 8 4
def cdChunk (d : BitVec 1024) : Nat := cdField d 0x0C 4
def cdSrc (d : BitVec 1024) : Word := BitVec.ofNat 64 (cdField d 0x10 8)
def cdDst (d : BitVec 1024) : Word := BitVec.ofNat 64 (cdField d 0x18 8)
def cdCount (d : BitVec 1024) : Nat := cdField d 0x20 8
def cdStage (d : BitVec 1024) : Word := BitVec.ofNat 64 (cdField d 0x28 8)
def cdGrace (d : BitVec 1024) : Nat := if cdField d 0x38 8 == 0 then 16000000 else cdField d 0x38 8
def cdCsig (d : BitVec 1024) : Word := BitVec.ofNat 64 (cdField d 0x40 8)
def cdAcsig (d : BitVec 1024) : Nat := cdField d 0x48 8
def cdPart (d : BitVec 1024) (k : Nat) : Nat := cdField d (0x50 + k) 1
def cdBar (d : BitVec 1024) : Nat := cdField d 0x60 1

/-- All-reduce and reduce-scatter. -/
def cdReduces (d : BitVec 1024) : Bool := cdOp d == 1 || cdOp d == 3
def cdJoins (d : BitVec 1024) : Bool := cdOp d == 6
/-- Element bytes; of a block, and of a segment. -/
def cdElem (d : BitVec 1024) : Nat := tagWidth (cdTag d) / 8
def cdBlock (d : BitVec 1024) : Nat := cdCount d * cdElem d
def cdSegment (d : BitVec 1024) : Nat := cdCount d / max (cdParts d) 1 * cdElem d
/-- The position of a device. -/
def cdPosOf (d : BitVec 1024) (dev : Nat) : Option Nat := (List.range (cdParts d)).find? (fun k => cdPart d k == dev)
def cdPeers (d : BitVec 1024) : List Nat := (List.range (cdParts d)).filter (fun k => k != cdSelf d)

/-- A standard tag of 8 bits or more (R386). -/
def cdPlainTag (t : Nat) : Bool := t < 32 && knownTag (BitVec.ofNat 5 t) && t != 0 && !wbTag (BitVec.ofNat 5 t) && 8 ≤ tagWidth (BitVec.ofNat 5 t)

/-- The descriptor's fields are in their ranges and its reserved bits are zero (R386, R450). -/
def State.descOk (s : State) (d : BitVec 1024) : Bool :=
  let n := cdParts d
  let part := (List.range n).map (cdPart d)
  let buf (a : Word) : Bool := [0, 0xC, 0xD].contains (spaceOf a)
  1 ≤ cdOp d && cdOp d ≤ 6 && cdRed d < 8 && (!cdReduces d || (cdRed d ≤ 2 && reduceTag (cdField d 2 1))) &&
    (cdReduces d || cdPlainTag (cdField d 2 1)) && 2 ≤ n && n ≤ s.domainSize && n ≤ 16 && cdSelf d < n && cdField d 5 1 < 4 && cdMode d != 3 &&
    cdField d 6 2 == 0 && cdChunk d % 32 == 0 && 256 ≤ cdChunk d && cdChunk d ≤ 2 ^ 20 && (!cdReduces d || cdCount d % n == 0) &&
    buf (cdSrc d) && buf (cdDst d) && buf (cdStage d) && (cdReduces d || cdStage d == 0) &&
    (!cdJoins d || (cdSrc d == 0 && cdDst d == 0 && cdCount d == 0)) && bitsOf (cdCsig d).toNat 31 17 == 0 && cdAcsig d / 2 ^ 17 == 0 &&
    part.all (fun p => p < s.domainSize) && part.eraseDups.length == n && cdPart d (cdSelf d) == s.devNo &&
    (List.range (16 - n)).all (fun k => cdPart d (n + k) == 0) && cdBar d < 4 && cdField d 0x61 31 == 0

/-! ## What moves where (R386, R387) -/

/-- The slot of position j in position k's STAGE. -/
def stageSlot (j k : Nat) : Nat := if j < k then j else j - 1

/-- Bytes that this position sends a peer, first of its own data, then of its result. -/
def cdBytes (d : BitVec 1024) (from_ to_ : Nat) (result : Bool) : Nat :=
  if from_ == to_ then 0
  else if result then (if cdOp d == 1 then cdSegment d else 0)
  else match cdOp d with
    | 1 | 3 => cdSegment d
    | 2 | 5 => cdBlock d
    | 4 => if from_ == 0 then cdBlock d else 0
    | _ => 0

/-- Where the data or result for position `to` begins at its sender. -/
def cdFrom (d : BitVec 1024) (to_ : Nat) (result : Bool) : Word :=
  if result then cdDst d + BitVec.ofNat 64 (cdSelf d * cdSegment d)
  else cdSrc d + BitVec.ofNat 64 (if cdReduces d then to_ * cdSegment d else if cdOp d == 5 then to_ * cdBlock d else 0)

/-- Where the data or result of position `from_` begins at position `to`, whose buffers are given. -/
def cdInto (d : BitVec 1024) (from_ to_ : Nat) (result : Bool) (stage dst : Word) : Word :=
  if result then dst + BitVec.ofNat 64 (from_ * cdSegment d)
  else if cdReduces d then stage + BitVec.ofNat 64 (stageSlot from_ to_ * cdSegment d)
  else if cdOp d == 4 then dst
  else dst + BitVec.ofNat 64 (from_ * cdBlock d)

/-- Chunks of some bytes. -/
def cdChunks (d : BitVec 1024) (bytes : Nat) : Nat := ceilDiv bytes (max (cdChunk d) 1)

/-- The most bytes in one packet: 64 further flits (R371). -/
def packetBytes : Nat := 4096

/-- Packets of some bytes: a chunk of more than a packet takes several. -/
def cdPackets (d : BitVec 1024) (bytes : Nat) : Nat :=
  let c := max (cdChunk d) 1
  bytes / c * ceilDiv c packetBytes + ceilDiv (bytes % c) packetBytes

/-- Offset and length of the i-th packet. -/
def cdPiece (d : BitVec 1024) (bytes i : Nat) : Nat × Nat :=
  let c := max (cdChunk d) 1
  let per := ceilDiv c packetBytes
  let off := i / per * c + i % per * packetBytes
  (off, min (min packetBytes (c - i % per * packetBytes)) (bytes - off))

/-- Chunks that a position still owes this one, of data and of results. -/
def Coll.due (c : Coll) (j : Nat) : Nat × Nat :=
  (cdChunks c.desc (cdBytes c.desc j (cdSelf c.desc) false), cdChunks c.desc (cdBytes c.desc j (cdSelf c.desc) true))

def Position.none : Position := { ready := false, stage := 0, dst := 0, chunks := 0, result := 0, last := 0, parts := [] }
def Coll.at (c : Coll) (j : Nat) : Position := c.pos[j]?.getD Position.none
def Coll.modPos (c : Coll) (j : Nat) (f : Position → Position) : Coll :=
  { c with pos := match c.pos[j]? with | some x => c.pos.set j (f x) | none => c.pos }

/-- Completed steps of a position (R389). -/
def Position.steps (x : Position) : Nat := (if x.ready then 1 else 0) + x.chunks + x.result

/-- A position from which a ready packet or chunks are still expected (R389). -/
def Coll.awaits (c : Coll) (j : Nat) : Bool :=
  j != cdSelf c.desc && (!(c.at j).ready || (c.at j).chunks < (c.due j).1 || (c.at j).result < (c.due j).2)

/-- Every byte of DST has arrived; a join has every ready packet (R387, R390). -/
def Coll.complete (c : Coll) : Bool :=
  if cdJoins c.desc then (cdPeers c.desc).all (fun j => (c.at j).ready)
  else (cdPeers c.desc).all (fun j => (c.due j).1 ≤ (c.at j).chunks && (c.due j).2 ≤ (c.at j).result) && (!cdReduces c.desc || c.reduced)

/-- Packets sent to a position, of data or of the result. -/
def Coll.sent (c : Coll) (q : Nat) (result : Bool) : Nat := c.sentTo[(if result then cdParts c.desc else 0) + q]?.getD 0
def Coll.total (c : Coll) (q : Nat) (result : Bool) : Nat := cdPackets c.desc (cdBytes c.desc (cdSelf c.desc) q result)
def Coll.allSent (c : Coll) : Bool :=
  (cdPeers c.desc).all (fun q => c.total q false ≤ c.sent q false && c.total q true ≤ c.sent q true)

/-- The packet that goes out next: data, then results, the lowest position first, to positions that are ready. -/
def Coll.nextOut (c : Coll) : Option (Nat × Bool) :=
  match (cdPeers c.desc).find? (fun q => (c.at q).ready && c.sent q false < c.total q false) with
  | some q => some (q, false)
  | none => if !c.reduced then none else
    ((cdPeers c.desc).find? (fun q => (c.at q).ready && c.sent q true < c.total q true)).map (fun q => (q, true))

/-! ## The participant -/

def State.coll? (s : State) (cause : Nat) : Option Coll := kget s.async.colls cause
def State.setColl (s : State) (c : Coll) : State := { s with async := { s.async with colls := kset s.async.colls c.cause.toNat c } }

def Coll.ev (c : Coll) (type payload : Nat) : Ev :=
  { source := src 5 0, type, priv := true, cause := c.cause, parent := c.parent, ctx := c.ctx, payload }

/-- Whose tables a collective uses. -/
def State.collAgt (s : State) (c : Coll) : Agt :=
  let core := (s.op? c.op).elim 0 (·.core)
  let w : Who := match c.skein.bind s.skein? with
    | some _ => s.skeinWho (c.skein.getD 0) core none
    | none => match c.launch.bind s.launch?, c.issuer with
      | some _, _ => s.tileWho (c.launch.getD 0)
      | none, .node g _ => { s.whoOf c.ctx with root := (kget s.work.runs g).elim (s.ctxEntry c.ctx).ptroot.toNat (·.entry.ptroot.toNat) }
      | none, _ => s.whoOf c.ctx
  { w, core, cls := 5, cause := c.cause, parent := c.parent }

/-- Whose counters a collective signals. -/
def State.collEntry (s : State) (c : Coll) : ContextEntry := s.opEntry c.launch c.issuer c.ctx

/-- The locks of an operation on one side of a transfer go (R283). -/
def State.freeSide (s : State) (op : Nat) (dst : Bool) : State :=
  { s with cores := kmapVals s.cores (fun _ k => { k with locks := k.locks.filter (fun (_, x) => !(x.op == op && x.dst == dst)) }) }

/-- What is left to send has gone: the source range is free, and when DST is full too the operation ends. -/
def State.collTidy (s : State) (c : Coll) : State :=
  if !c.allSent then s
  else if c.done then s.endOp c.op
  else s.freeSide c.op false

/-- A join completes (R390, R449): EXPECT, CSIG, BARRIER_JOIN; then the arrivals that were held count. -/
def State.joinDone (s : State) (c : Coll) : State :=
  let n := cdBar c.desc
  let mask : BitVec 16 := maskOf ((cdPeers c.desc).map (cdPart c.desc))
  let launch := c.launch.getD 0
  let s := match s.bar? (.launch launch) n with
    | some b =>
      let gone := ((lanesOf mask).filter (fun d => b.devDeparted.contains d)).length
      let b := { b with joined := true, joinMask := mask, expect := b.expect + (cdParts c.desc - 1) - gone }
      let b := match b.arrived.isEmpty, b.devCause false with
        | true, some x => { b with fstamp := BitVec.ofNat 48 s.stamp, fcause := x }
        | _, _ => b
      s.setBar (.launch launch) n b
    | none => s
  let s := s.signalWord c.ctx (s.collEntry c) (cdCsig c.desc) s.devNo 0 c.cause c.parent
  let s := s.emit (c.ev 0xA9 (n + mask.toNat * 4))
  s.evalBar (.launch launch) n c.cause c.parent 3

/-- A participant whose DST has fully arrived completes (R387): CSIG with release, COLL_DONE, and its node. -/
def State.collCheck (s : State) (cause : Nat) : State :=
  match s.coll? cause with
  | none => s
  | some c =>
    if c.done || !c.complete then s.collTidy c else
    let c := { c with done := true }
    let s := s.setColl c
    let s := if cdJoins c.desc then s.joinDone c else
      let s := s.signalWord c.ctx (s.collEntry c) (cdCsig c.desc) s.devNo 0 c.cause c.parent
      (s.emit (c.ev 0xA7 (cdName c.desc + (s.time.gt - c.issued) % 2 ^ 48 * 2 ^ 32))).freeSide c.op true
    let s := match c.issuer with
      | .node g node => s.nodeEnds g node 0
      | _ => s
    s.collTidy c

/-- A chunk or ready packet of a collective (R372, R387). -/
def State.collSend (s : State) (c : Coll) (kind : ReqKind) (dev pk : Nat) (laddr : Word) (body : Body) : State :=
  s.sendReq kind (.coll c.cause) dev pk c.ctx 0 (cdMode c.desc) c.cause c.parent laddr body

/-- Ready packets to every peer (R387). -/
def State.sendReadies (s : State) (c : Coll) : State :=
  (cdPeers c.desc).foldl (fun s q => s.collSend c (.ready c.cause q) (cdPart c.desc q) 0x0A 0
    (.ready (BitVec.ofNat 32 (cdName c.desc)) (cdStage c.desc) (cdDst c.desc))) s

/-- Copy this participant's own block into its DST (R386, R450); a fault leaves it for the operation's retry. -/
def State.ownBlock (s : State) (c : Coll) : Except Tgt State :=
  let d := c.desc
  let n := match cdOp d with | 2 | 5 => cdBlock d | 4 => if cdSelf d == 0 then cdBlock d else 0 | _ => 0
  if n == 0 then .ok s else
  let g := s.collAgt c
  match s.agtLoad g (cdFrom d (cdSelf d) false) n with
  | .error e => .error e
  | .ok (bs, rl) => (s.agtHits g 36 (cdFrom d (cdSelf d) false) rl).agtStore g (cdInto d (cdSelf d) (cdSelf d) false (cdStage d) (cdDst d)) bs

/-- A collective starts: its record, COLL_START, its own block, its ready packets (R387, R450). A fault of the own block parks the
operation, whose next turn tries again. -/
def State.collStart (s : State) (op : Nat) (o : Op) (d : BitVec 1024) (deadline : Word) (issuer : Issuer) (cause parent : Word32) : State :=
  let n := cdParts d
  let c : Coll :=
    { cause, parent, ctx := o.ctx, launch := o.launch, skein := o.skein, issuer, desc := d, deadline, issued := s.time.gt,
      pos := List.replicate n Position.none, counter := if cdReduces d then (n - 1) * cdChunks d (cdSegment d) else 0,
      sentTo := List.replicate (2 * n) 0, reduced := false, done := false, fired := false, late := 0, lateSteps := 0, op, resend := [] }
  let s := (s.setOp op o).setColl c
  let s := match c.launch with
    | some l => if cdJoins d then s.modLaunch l (fun v => { v with joins := cdBar d :: v.joins }) else s
    | none => s
  let s := s.emit (c.ev 0xA5 (cdOp d + n * 2 ^ 8 + cdName d * 2 ^ 16))
  match s.ownBlock c with
  | .ok s => ((s.setOp op { o with cursor := 1 }).sendReadies c).collCheck cause.toNat
  | .error e => s.parkOp op o 3 e.sect

/-- The range locks of a collective (R283). -/
def cdLocks (d : BitVec 1024) : List (Word × Nat × Bool) :=
  if cdJoins d then [] else
  let n := cdParts d
  let srcLen := if cdOp d == 5 then n * cdBlock d else cdBlock d
  let dstLen := match cdOp d with | 3 => cdSegment d | 2 | 5 => n * cdBlock d | _ => cdBlock d
  [(cdSrc d, srcLen, false), (cdDst d, dstLen, true)] ++ (if cdReduces d then [(cdStage d, (n - 1) * cdSegment d, true)] else [])

/-- A join's launch barrier takes no second join (R390). -/
def State.joinTaken (s : State) (launch : Option Nat) (d : BitVec 1024) : Bool :=
  cdJoins d && ((launch.bind s.launch?).elim true (fun l => l.joins.contains (cdBar d)))

/-- COLL (R386): the leader reads the descriptor; DST receives the collective's cause. -/
def execColl (f : Gen) (s : State) : Host.Outcome State Fault Refusal :=
  runCourse s (.coll f) false [f.sa] (fun I s =>
    let a := I.c.read I.leader f.sa
    let w := s.strandWho I.core I.c.pslot I.c I.leader
    (s, match s.reach w I.core false true a 64 with
      | .error e => .error (e, maskOf [I.leader])
      | .ok o1 => match s.reach w I.core false true (a + 64) 64 with
        | .error e => .error (e, maskOf [I.leader])
        | .ok o2 =>
          let d : BitVec 1024 := BitVec.ofNat 1024 (leNat (s.routeRead o1.route ++ s.routeRead o2.route))
          if !s.descOk d || s.joinTaken (s.launchId I.c) d then .error (Trp.stop Cause.format 0x01 a, maskOf [I.leader]) else
          let (cause, s) := s.newCause (coreTaker I.core)
          let (id, o, s) := s.newOp I (.coll cause) none
          match s.takeLocks I.core id 2 (cdLocks d) with
          | none => .error (.hold .lockFull, maskOf I.lanes)
          | some s =>
            let o := { o with cause, parent := s.causeOf I.c }
            let s := s.collStart id o d (BitVec.ofNat 64 (cdField d 0x30 8)) o.issuer cause (s.causeOf I.c)
            .ok { s := I.give s f.dst (cause.setWidth 64), visible := true, hits := s.opndHits 33 [(I.leader, o1), (I.leader, o2)] }))

/-! ## CWD (R391) -/

/-- A word of a collective's record. -/
def Coll.word (c : Coll) (k : Nat) : Nat :=
  match k with
  | 0 => cdOp c.desc + cdParts c.desc * 2 ^ 8 + cdSelf c.desc * 2 ^ 16 + (if c.done then 2 ^ 24 else 0) + (if c.fired then 2 ^ 25 else 0) +
      cdName c.desc * 2 ^ 32
  | 1 => c.deadline.toNat
  | 2 => (cdPeers c.desc).foldl (fun v j =>
      let x := c.at j
      let (a, b) := c.due j
      v + ((if x.ready then 1 else 0) + (if a != 0 && a ≤ x.chunks then 2 else 0) + (if b != 0 && b ≤ x.result then 4 else 0)) * 2 ^ (4 * j)) 0
  | _ => if c.fired then c.late + c.lateSteps.toNat * 2 ^ 4 else 0

/-- The collective of the issuing context that a cause names. -/
def State.collOf (s : State) (I : Iss) (v : Word) : Option Coll :=
  match s.coll? v.toNat with
  | some c => if c.ctx == s.skeinCtx I.c.skein then some c else none
  | none => none

/-- CWD query. -/
def execCwdQuery (f : Gen) (s : State) : Host.Outcome State Fault Refusal :=
  runShared s (.cwdQuery f) [f.sa] false (fun I val s =>
    let k := bitsOf f.imm.toNat 4 0
    match s.collOf I (val f.sa) with
    | none => .error (illegalStop (encode (.cwdQuery f)) 0x03 64)
    | some c => if 4 ≤ k then .error (illegalStop (encode (.cwdQuery f)) 0x03 0) else .ok (I.give s f.dst (BitVec.ofNat 64 (c.word k))))

/-- CWD extend. -/
def execCwdExtend (f : Gen) (s : State) : Host.Outcome State Fault Refusal :=
  runShared s (.cwdExtend f) [f.sa, f.sb] true (fun I val s =>
    match s.collOf I (val f.sa) with
    | none => .error (illegalStop (encode (.cwdExtend f)) 0x03 64)
    | some c =>
      if c.fired || (val f.sb).toNat < c.deadline.toNat then .error (illegalStop (encode (.cwdExtend f)) 0x03 58)
      else .ok (s.setColl { c with deadline := val f.sb }))

/-! ## Packets of collectives at a participant (R387, R390) -/

/-- The running collective of a target context with a TAG; a join stays for its barrier arrivals. -/
def State.collTagged (s : State) (ctx : Nat) (tag : Word32) (beyond : Bool) : Option Coll :=
  (kfind s.async.colls (fun _ c => c.ctx == ctx && cdName c.desc == tag.toNat &&
    (if beyond then cdJoins c.desc else !c.done || (s.op? c.op).isSome))).map (·.2)

/-- The collective and position that a packet belongs to. -/
def State.collPacket (s : State) (p : Packet) (tag : Word32) (beyond : Bool) : Except Tgt (Coll × Nat) :=
  match s.admitted p 5 none with
  | .error e => .error e
  | .ok e => match s.collTagged e.tctx.toNat tag beyond with
    | none => .error (.nack 6 0)
    | some c => match cdPosOf c.desc p.src.toNat with
      | none => .error (.nack 6 0)
      | some j => if j == cdSelf c.desc then .error (.nack 6 0) else .ok (c, j)

/-- A piece of a chunk has arrived from a position: whether its chunk is whole now (R387). -/
def Coll.piece (c : Coll) (j : Nat) (result : Bool) (rel n bytes : Nat) : Bool × Coll :=
  let size := max (cdChunk c.desc) 1
  let i := rel / size
  let key := 2 * i + (if result then 1 else 0)
  let have_ := (kget (c.at j).parts key).getD 0 + n
  let whole := decide (min size (bytes - i * size) ≤ have_)
  (whole, c.modPos j (fun x => { x with parts := if whole then kdel x.parts key else kset x.parts key have_ }))

/-- Count an arriving chunk: the position's record, the chunk counter, ACSIG (R387). -/
def State.countChunk (s : State) (c : Coll) (j : Nat) (result : Bool) (dev : Nat) : State :=
  let c := c.modPos j (fun x => if result then { x with result := x.result + 1 } else { x with chunks := x.chunks + 1 })
  let c := if result then c else { c with counter := c.counter - 1 }
  let s := s.setColl c
  let a := cdAcsig c.desc
  if a.testBit 16 then
    match counterOf (s.collEntry c) (a % 2 ^ 16) with
    | some i => s.signal c.ctx i (a % 2 ^ 16) 1 dev (cdName c.desc % 2 ^ 16) c.cause c.parent
    | none => s
  else s

/-- FABRIC_CHUNK (R387): the chunk lands in STAGE or DST; a fault of the buffer parks it, with issuer 0x03 (R250). -/
def execFabricChunk (p : Packet) (s : State) : Host.Outcome State Fault Refusal :=
  match p.body with
  | .chunk tag result o bs => .next (s.inFlow p (fun s =>
      match s.collPacket p tag false with
      | .error e => s.served p (.error e)
      | .ok (c, j) =>
        if (s.op? c.op).elim false (fun o => o.fault.isSome) then (false, s) else
        let base := cdInto c.desc j (cdSelf c.desc) result (cdStage c.desc) (cdDst c.desc)
        let bytes := cdBytes c.desc j (cdSelf c.desc) result
        let rel := (o - base).toNat
        match s.agtStore (s.collAgt c) o bs with
        | .ok s =>
          let c := c.modPos j (fun x => { x with last := s.stamp })
          let s := s.opGoesOn c.op
          let (whole, c) := c.piece j result rel bs.length bytes
          let s := if whole then s.countChunk c j result p.src.toNat else s.setColl c
          s.served p (.ok (s.collCheck c.cause.toNat, 7, .none))
        | .error e => match s.op? c.op with
          | some x => (false, s.parkOp c.op x 3 e.sect)
          | none => (false, s)))
  | _ => .next s

/-- FABRIC_READY (R387, R390). -/
def execFabricReady (p : Packet) (s : State) : Host.Outcome State Fault Refusal :=
  match p.body with
  | .ready tag stage dst => .next (s.inFlow p (fun s => s.served p (match s.collPacket p tag false with
      | .error e => .error e
      | .ok (c, j) =>
        let c := c.modPos j (fun x => { x with ready := true, stage, dst, last := s.stamp })
        .ok ((s.setColl c).collCheck c.cause.toNat, 7, .none))))
  | _ => .next s

/-- A peer's arrival at a joined launch barrier, or its departure (R343, R390, R449): held until the join has completed here. -/
def State.peerArrives (s : State) (p : Packet) (c : Coll) (departs : Bool) : State :=
  let launch := c.launch.getD 0
  let n := cdBar c.desc
  let dev := p.src.toNat
  match s.bar? (.launch launch) n with
  | none => s
  | some b =>
    let b1 :=
      if departs then
        if b.devDeparted.contains dev then b
        else { b with devDeparted := dev :: b.devDeparted, devArrived := b.devArrived.filter (fun x => x.1 != dev),
                      expect := if b.joined then b.expect - 1 else b.expect }
      else
        let b1 := { b with devArrived := b.devArrived ++ [(dev, p.cause)] }
        if b.joined && b.arrivedCount == 0 then { b1 with fstamp := BitVec.ofNat 48 s.stamp, fcause := p.cause } else b1
    (s.setBar (.launch launch) n b1).evalBar (.launch launch) n p.cause 0 3

/-- A barrier-arrival packet, of an arrival or of a departure. -/
def State.barrierPacket (s : State) (p : Packet) (tag : Word32) (departs : Bool) : State :=
  s.inFlow p (fun s => s.served p (match s.collPacket p tag true with
    | .error e => .error e
    | .ok (c, _) => .ok (s.peerArrives p c departs, 7, .none)))

/-- FABRIC_BARRIER_ARRIVAL (R390, R449). -/
def execFabricBarrierArrival (p : Packet) (s : State) : Host.Outcome State Fault Refusal :=
  match p.body with
  | .barrier tag => .next (s.barrierPacket p tag false)
  | .departure tag => .next (s.barrierPacket p tag true)
  | _ => .next s

/-- DEPARTURE_REPORT (R343, R390): a joined device has retired its launch. -/
def execDepartureReport (p : Packet) (s : State) : Host.Outcome State Fault Refusal :=
  match p.body with
  | .departure tag => .next (s.barrierPacket p tag true)
  | _ => .next s

/-- READY_RESEND (R387): what was nacked with reason 0x06 goes out again when its time has come. -/
def execReadyResend (coll : Nat) (s : State) : Host.Outcome State Fault Refusal :=
  match s.coll? coll with
  | none => .next s
  | some c =>
    let (now, later) := c.resend.partition (fun (t, _, _) => decide (t ≤ s.time.gt))
    .next (now.foldl (fun s (_, dev, body) =>
      match body with
      | .ready _ _ _ => s.collSend c (.ready c.cause ((cdPosOf c.desc dev).getD 0)) dev 0x0A 0 body
      | _ => s.collSend c (.chunk c.cause) dev 9 0 body) (s.setColl { c with resend := later }))

/-! ## The reduce panel (R387, R447) -/

/-- A region's fence admits a context (R56). -/
def State.regionAdmits (s : State) (region ctx : Nat) : Bool :=
  ((kget s.tables.fences region).getD 0).toNat == bitsOf (s.ctxEntry ctx).fgroup.toNat 11 0
def State.coreIdle (s : State) (core : Nat) : Bool := !s.panels.any (fun (k, _) => k / 4 == core)
/-- Free course slots of a core. -/
def State.freeSlots (s : State) (core : Nat) : Nat := 32 - (s.courses.filter (fun (k, _) => k / 32 == core)).length

/-- Where the reduce panel goes: the lowest idle core of the lowest admitting region, else the admitting core with the most free course
slots, the lowest number breaking a tie; none while there is no free slot. -/
def State.reduceCore (s : State) (ctx : Nat) : Option Nat :=
  let l := (List.range 160).filter (fun k => s.regionAdmits (regionOf k) ctx)
  match l.find? s.coreIdle with
  | some k => some k
  | none => (l.foldl (fun (best : Option (Nat × Nat)) k =>
      let n := s.freeSlots k
      if n == 0 then best else match best with
        | some (m, b) => if m < n then some (n, k) else some (m, b)
        | none => some (n, k)) none).map (·.2)

/-- The inputs of a reduction in participant order: a segment of this position's SRC and the slots of its STAGE. -/
def State.reduceInputs (s : State) (c : Coll) : Except Tgt (List (List Byte)) :=
  let d := c.desc
  (List.range (cdParts d)).foldl (fun acc j => match acc with
    | .error e => .error e
    | .ok l =>
      let a := if j == cdSelf d then cdSrc d + BitVec.ofNat 64 (j * cdSegment d)
        else cdStage d + BitVec.ofNat 64 (stageSlot j (cdSelf d) * cdSegment d)
      match s.agtLoad (s.collAgt c) a (cdSegment d) with
      | .error e => .error e
      | .ok (b, _) => .ok (l ++ [b])) (.ok [])

/-- One element of a reduction (R202). -/
def reduceElem (t : Tag) (red : Nat) (xs : List Nat) : Nat := (treeFold (reduceVal t red) xs.length (xs.map some)).getD 0

/-- Combine the inputs element by element. -/
def reduceBytes (t : Tag) (red : Nat) (ins : List (List Byte)) (bytes : Nat) : List Byte :=
  let n := max (tagWidth t / 8) 1
  (List.range (bytes / n)).flatMap (fun i => leBytes n (reduceElem t red (ins.map (fun b => leNat ((b.drop (i * n)).take n)))))

/-- REDUCE_PANEL (R387, R447): the chunk counter has reached zero; one course combines the inputs and writes this position's DST segment,
whose packets then go out for an all-reduce. -/
def execReducePanel (coll : Nat) (s : State) : Host.Outcome State Fault Refusal :=
  match s.coll? coll with
  | none => .next s
  | some c =>
    let d := c.desc
    match s.op? c.op with
    | none => .next s
    | some o =>
      if !cdReduces d || c.reduced || c.counter != 0 || o.fault.isSome then .next s else
      match s.reduceCore c.ctx with
      | none => .next s
      | some core =>
        match s.reduceInputs c with
        | .error e => .next (s.parkOp c.op o 3 e.sect)
        | .ok ins =>
          let out := cdDst d + BitVec.ofNat 64 (if cdOp d == 1 then cdSelf d * cdSegment d else 0)
          match s.agtStore (s.collAgt c) out (reduceBytes (cdTag d) (cdRed d) ins (cdSegment d)) with
          | .error e => .next (s.parkOp c.op o 3 e.sect)
          | .ok s =>
            let s := (s.opGoesOn c.op).emit (c.ev 0xA6 (core + cdName d * 2 ^ 8))
            .next ((s.setColl { c with reduced := true }).collCheck coll)

/-! ## The watchdog (R389) -/

/-- The first late participant: fewest steps, the earliest last packet, the lowest device; this device when nothing is expected. -/
def Coll.firstLate (c : Coll) (self : Nat) : Nat × Nat × Nat :=
  let l := ((cdPeers c.desc).filter c.awaits).map (fun j => ((c.at j).steps, (c.at j).last, cdPart c.desc j))
  let before (a b : Nat × Nat × Nat) : Bool :=
    a.1 < b.1 || (a.1 == b.1 && (a.2.1 < b.2.1 || (a.2.1 == b.2.1 && a.2.2 < b.2.2)))
  match l with
  | [] => (0, 0, self)
  | x :: t => t.foldl (fun m y => if before y m then y else m) x

/-- When the watchdog fires. -/
def Coll.watchAt (c : Coll) : Nat := (if c.deadline == 0 then c.issued else c.deadline.toNat) + cdGrace c.desc

/-- COLL_LATE: once; an entry in the error queue of this participant and, by control flits, of every other. -/
def execCollLate (coll : Nat) (s : State) : Host.Outcome State Fault Refusal :=
  match s.coll? coll with
  | none => .next s
  | some c =>
    if c.fired || c.done || s.time.gt < c.watchAt then .next s else
    let (steps, last, dev) := c.firstLate s.devNo
    let ev := { c.ev 0xA8 (dev % 16 + s.devNo % 16 * 2 ^ 4 + steps % 2 ^ 32 * 2 ^ 8 + last % 2 ^ 48 * 2 ^ 40) with err := true }
    let s := s.setColl { c with fired := true, late := dev, lateSteps := BitVec.ofNat 32 steps }
    let rec_ := s.recordFor ev
    let s := s.emitErr c.ctx ev
    .next ((cdPeers c.desc).foldl (fun s q =>
      s.sendControl (cdPart c.desc q) c.ctx (.coll c.cause) (.late rec_)) s)

/-- A control flit with a peer's COLL_LATE: an entry in the participating context's error queue. -/
def State.lateArrives (s : State) (p : Packet) (r : Record) : State :=
  match s.admits p 5 none with
  | some e => s.errEntry e.tctx.toNat r
  | none => s

/-! ## One sector, packet or chunk of any engine's work -/

/-- The next turn of a collective's operation: its own block where that is still to be copied, else the next packet of a chunk. -/
def State.collNext (s : State) (id : Nat) (o : Op) (cause : Word32) : State :=
  match s.coll? cause.toNat with
  | none => s.endOp id
  | some c =>
    if o.fault.isSome then s
    else if o.cursor == 0 then
      match s.ownBlock c with
      | .ok s => (((s.setOp id { o with cursor := 1 }).opGoesOn id).sendReadies c).collCheck cause.toNat
      | .error e => s.parkOp id o 3 e.sect
    else match c.nextOut with
      | none => s.collTidy c
      | some (q, result) =>
        let bytes := cdBytes c.desc (cdSelf c.desc) q result
        let (off, n) := cdPiece c.desc bytes (c.sent q result)
        let a := cdFrom c.desc q result + BitVec.ofNat 64 off
        let x := c.at q
        let to_ := cdInto c.desc (cdSelf c.desc) q result x.stage x.dst + BitVec.ofNat 64 off
        let g := s.collAgt c
        match s.agtLoad g a n with
        | .error e => s.parkOp id o 3 e.sect
        | .ok (bs, rl) =>
          let i := (if result then cdParts c.desc else 0) + q
          let c := { c with sentTo := c.sentTo.set i (c.sent q result + 1) }
          let s := ((s.agtHits g 36 a rl).opGoesOn id).setColl c
          (s.collSend c (.chunk c.cause) (cdPart c.desc q) 9 a (.chunk (BitVec.ofNat 32 (cdName c.desc)) result to_ bs)).collTidy c

/-- SECTOR_COMPLETE (R270): the next sector of a transfer completes, in ascending order; a fault parks it at the boundary. The last
sector frees its range locks (R283). A fault while a fetch applies a log is a LOG_FAULT too (R280). An operation of the product engine
completes a sector of its extraction; a work entry and a collective send their next packet. -/
def execSectorComplete (id : Nat) (s : State) : Host.Outcome State Fault Refusal :=
  match s.op? id with
  | none => .next s
  | some o =>
    match o.kind with
    | .job core => .next (s.extractNext core)
    | .entry b sent => .next (s.entryNext id o b sent)
    | .coll cause => .next (s.collNext id o cause)
    | .refill old new image => .next (s.fillLine id o old new image)
    | _ =>
    let started := match o.kind with | .snap _ _ _ b => b | _ => true
    if !started || o.fault.isSome || s.opSectors o ≤ o.cursor then .next s else
    match s.nextSector id o with
    | .error .wait => .next s
    | .error e =>
      let s := match o.kind, e with
        | .fetch _ _ tile _ _ _ applied _, .fault _ a => if applied == 0 then s else s.logFault (some id) (s.opEv id o) tile a
        | _, _ => s
      .next (s.parkOp id o 1 e)
    | .ok s =>
      let o := { (s.op? id).getD o with cursor := o.cursor + 1, moved := o.moved + 32 }
      let s := (s.setOp id o).opGoesOn id
      .next (if s.opSectors o ≤ o.cursor then s.freeLocks id else s)


end Sys2Proof.Machine
end

