-- ==== Sys2Proof/Machine/Control.lean ====
section
/-! DEFINITION. Control instructions: NOP, transfers, jump tables, calls and returns, EXIT, YIELD, RGN (R149 to R168). -/
namespace Sys2Proof.Machine

/-- NOP (R159): no effect on any state, guard or not. -/
def execNop (f : Gen) (s : State) : Host.Outcome State Fault Refusal :=
  if s.inStream then runStream s (fun _ _ _ s => .done s)
  else runCourse s (.nop f) false [] (fun _ s => (s, .ok { s }))

/-- LPAD (R163): no effect. -/
def execLpad (f : Jmp) (s : State) : Host.Outcome State Fault Refusal :=
  runCourse s (.lpad f) false [] (fun _ s => (s, .ok { s }))

/-! ## Relative transfers (R160, R161, R184) -/

/-- Transfer some strands to one target: R119, then the transfer. -/
def Iss.jumpTo (I : Iss) (s : State) (lanes : List Nat) (pc : Word) (prio : Half) (folds : List Word) (branch : Bool) : Ran :=
  if lanes.isEmpty then (s, .ok { s, folds }) else
  match s.checkTarget I.core I.w true pc with
  | (s, some e) => (s, .error (e, maskOf lanes))
  | (s, none) => (s, .ok { s, jumps := lanes.map (fun i => (i, pc, prio)), folds, back := branch && decide (pc.toNat ≤ I.E.pc.toNat) })

/-- A sequencer's transfer (R184). -/
def streamJump (s : State) (core : Nat) (p : Panel) (pc : Word) : SRan :=
  match s.checkTarget core (s.skeinWho p.skein core none) true pc with
  | (s, some (.trap t)) => .trap s t
  | (s, some (.hold _)) => .wait s .again
  | (s, none) => .goto s pc

/-- BRA (R160). -/
def execBra (f : Brn) (s : State) : Host.Outcome State Fault Refusal :=
  if s.inStream then runStream s (fun core _ p s => streamJump s core p (brnTarget p.spc f))
  else runCourse s (.bra f) false [] (fun I s => I.jumpTo s I.lanes (brnTarget I.E.pc f) f.prio [] true)

/-- The tests of R161. -/
def brpHolds (m : Byte) (x : Word) : Bool :=
  match m.toNat with
  | 0 => x == 0
  | 1 => x != 0
  | 2 => x.msb
  | 3 => !x.msb
  | 4 => x.msb || x == 0
  | _ => !x.msb && x != 0

/-- BRP (R161); under uniform issue the leader's SA decides for every executing strand. -/
def execBrp (f : Brn) (s : State) : Host.Outcome State Fault Refusal :=
  if s.inStream then
    runStream s (fun core _ p s => if brpHolds f.mod (p.rd.get f.sa) then streamJump s core p (brnTarget p.spc f) else .done s)
  else runCourse s (.brp f) false [] (fun I s =>
    let taken := I.lanes.filter (fun i => brpHolds f.mod (I.c.read (if I.uni then I.leader else i) f.sa))
    I.jumpTo s taken (brnTarget I.E.pc f) f.prio (I.foldVals [.inl f.sa]) true)

/-! ## JTB (R121, R162) -/

/-- One strand's jump-table transfer: the fills it makes, and its target with the landing priority. -/
def State.jumpTable (s : State) (I : Iss) (f : Jmp) (lane : Nat) : State × Except Stop (Opnd × Word × Half) :=
  let base := I.c.read lane f.sa
  let ix := I.c.read lane f.sb
  if f.bound.toNat ≤ ix.toNat then (s, .error (Trp.stop Cause.landing 0x01 ix))
  else if base.toNat % 8 != 0 then (s, .error (Trp.stop Cause.align 0 base))
  else match s.reach (s.strandWho I.core I.c.pslot I.c lane) I.core false true (base + ix * 8) 8 with
    | .error e => (s, .error e)
    | .ok o =>
      let pc := BitVec.ofNat 64 (leNat (s.routeRead o.route))
      match s.checkLanding I.core I.w f.label pc with
      | (s, .error e) => (s, .error e)
      | (s, .ok prio) => (s, .ok (o, pc, prio))

/-- Run a per-strand function that may change the state (instruction fills, spilled memory) for every lane, then combine. -/
def Iss.eachState {α : Type} (lanes : List Nat) (s : State) (f : State → Nat → State × Except Stop α) :
    State × Except (Stop × BitVec 16) (List (Nat × α)) :=
  let (s, rs) := lanes.foldl (fun (acc : State × List (Nat × Except Stop α)) i =>
    let (s, r) := f acc.1 i
    (s, acc.2 ++ [(i, r)])) (s, [])
  match combineStops (rs.filterMap (fun (i, r) => match r with | .error e => some (i, e) | .ok _ => none)) with
  | some e => (s, .error e)
  | none => (s, .ok (rs.filterMap (fun (i, r) => match r with | .ok a => some (i, a) | .error _ => none)))

/-- JTB (R162). -/
def execJtb (f : Jmp) (s : State) : Host.Outcome State Fault Refusal :=
  runCourse s (.jtb f) false [] (fun I s =>
    match Iss.eachState I.runs s (fun s i => s.jumpTable I f i) with
    | (s, .error (e, m)) => (s, .error (e, if I.uni then maskOf I.lanes else m))
    | (s, .ok rs) =>
      let rs' := if I.uni then match rs with | (_, x) :: _ => I.lanes.map (fun i => (i, x)) | [] => [] else rs
      (s, .ok { s, jumps := rs'.map (fun (i, _, pc, prio) => (i, pc, prio)),
                hits := s.opndHits 33 (rs.map (fun (i, o, _, _) => (i, o))) }))

/-! ## The window and the return stack (R149 to R153) -/

/-- A local address (R151, R239). -/
def localAddr (off : Nat) : Word := BitVec.ofNat 64 (0xA * 2 ^ 60 + off)

/-- A spill or fill that faults in translation raises WINDOW at its local address (R153). -/
def windowStop : Stop → Stop
  | .trap t => if t.cause == Cause.xlate then .trap { cause := Cause.window, detail := 0, tval := t.tval } else .trap t
  | .hold h => .hold h

/-- Spill one doubleword to the local area. -/
def State.spill (s : State) (I : Iss) (lane off v : Nat) : Except Stop State :=
  match s.reach (s.strandWho I.core I.c.pslot I.c lane) I.core true false (localAddr off) 8 with
  | .error e => .error (windowStop e)
  | .ok o => match s.routeWrite (s.workEv I.c 0) (leBytes 8 v) o.route with
    | .error e => .error (windowStop e)
    | .ok s => .ok s

/-- Fill one doubleword from the local area. -/
def State.fill (s : State) (I : Iss) (lane off : Nat) : Except Stop Nat :=
  match s.reach (s.strandWho I.core I.c.pslot I.c lane) I.core false true (localAddr off) 8 with
  | .error e => .error (windowStop e)
  | .ok o => .ok (leNat (s.routeRead o.route))

/-- Spill doublewords in order; what was written before a fault stays written. -/
def State.spillAll (s : State) (I : Iss) (lane : Nat) : List (Nat × Nat) → State × Option Stop
  | [] => (s, none)
  | (off, v) :: t => match s.spill I lane off v with
    | .error e => (s, some e)
    | .ok s => s.spillAll I lane t

/-- The callee window base of the oldest entry on chip (R151). -/
def Strand.oldestBase (x : Strand) : Nat := x.wb - ((x.rstack.drop 1).map (·.n)).sum

/-- The bits of a return entry in memory (R151). -/
def RetEntry.bits (r : RetEntry) : Nat := r.pc.toNat + r.prio.toNat * 2 ^ 64 + r.n * 2 ^ 80

/-- The two words of a return entry whose callee window base is q. -/
def retWords (q : Nat) (r : RetEntry) : List (Nat × Nat) := [(24 * q + 8, r.bits % 2 ^ 64), (24 * q + 16, r.bits / 2 ^ 64)]

/-- Discard positions that lie outside the window or off the chip: they are no longer listed. -/
def Strand.drop (x : Strand) (lo hi : Nat) : Strand := { x with stack := x.stack.filter (fun (n, _) => !(lo ≤ n && n < hi)) }

/-- The event of a completed spill or fill of a strand (R153, R156). -/
def State.windowEv (s : State) (I : Iss) (lane type payload : Nat) : State :=
  s.emit { s.partEv I.core I.slot I.c type (payload + lane * 2 ^ 40 + I.slot * 2 ^ 44) with priv := true }

/-- Spill a sequence of doublewords and, when there is one and it completes, emit its event. -/
def State.spillSeq (s : State) (I : Iss) (lane type payload : Nat) (l : List (Nat × Nat)) : State × Option Stop :=
  match s.spillAll I lane l with
  | (s, some e) => (s, some e)
  | (s, none) => (if l.isEmpty then s else s.windowEv I lane type payload, none)

/-- Hits of the doublewords that CALL stores and RET loads in the local area (R417). -/
def State.windowHits (s : State) (I : Iss) (kind lane : Nat) (offs : List Nat) : List WatchHit :=
  if s.unwatched then [] else
  s.opndHits kind (offs.filterMap (fun off =>
    ((s.reach (s.strandWho I.core I.c.pslot I.c lane) I.core false false (localAddr off) 8).toOption).map (fun o => (lane, o))))

/-- The doublewords that a CALL spills from a strand: the oldest return entry, then the lowest positions; and the new low mark. -/
def Strand.spills (x : Strand) (n depthMax : Nat) : List (Nat × Nat) × List (Nat × Nat) × Nat :=
  let low := if depthMax < x.wb + n + 24 - x.low then x.wb + n + 24 - depthMax else x.low
  (match x.rstack with
    | r :: _ => if 16 ≤ x.rstack.length then retWords x.oldestBase r else []
    | [] => [],
   (List.range (low - x.low)).map (fun j => (24 * (x.low + j), (x.posGet (x.low + j)).toNat)), low)

/-- The offsets that a RET filled a strand from: the return entry, then the positions down to the caller's window. -/
def Strand.fills (x y : Strand) : List Nat :=
  (if x.rstack.isEmpty then [24 * x.wb + 8, 24 * x.wb + 16] else []) ++ (List.range (x.low - y.wb)).map (fun j => 24 * (x.low - 1 - j))

/-- CALL for one strand (R150, R164): the state with what it spilled, and the strand and whether it spilled. -/
def State.callStrand (s : State) (I : Iss) (f : Brn) (depthMax lane : Nat) : State × Except Stop (Strand × Bool) :=
  let x := I.c.st lane
  let n := f.mod.toNat
  let wb' := x.wb + n
  let full := 16 ≤ x.rstack.length
  let q := x.oldestBase
  let (retSpill, regs, low') := x.spills n depthMax
  match s.spillSeq I lane 0x52 q retSpill with
  | (s, some e) => (s, .error e)
  | (s, none) => match s.spillSeq I lane 0x50 (x.low + (low' - x.low) * 2 ^ 32) regs with
    | (s, some e) => (s, .error e)
    | (s, none) =>
      let entry : RetEntry := { pc := pcNext I.E.pc, prio := I.E.prio, n }
      let y := (x.drop (x.wb + 24) (wb' + 24)).drop x.low low'
      let y := { y with wb := wb', low := low', depth := x.depth + 1, rstack := (if full then x.rstack.drop 1 else x.rstack) ++ [entry] }
      (s, .ok (y, !(retSpill ++ regs).isEmpty))

/-- An instruction that is held has done nothing yet; one that traps keeps what its spills and fills have done. -/
def heldOr (s s1 : State) (e : Stop × BitVec 16) : Ran :=
  match e.1 with
  | .hold _ => (s, .error e)
  | .trap _ => (s1, .error e)

/-- Give each strand its new state. -/
def State.putStrands (s : State) (I : Iss) (l : List (Nat × Strand)) : State :=
  s.modCourse I.core I.slot (fun c => { l.foldl (fun c (i, x) => c.setSt i x) c with staged := 0 })

/-- CALL (R164). -/
def execCall (f : Brn) (s : State) : Host.Outcome State Fault Refusal :=
  runCourse s (.call f) false [] (fun I s =>
    let pc := brnTarget I.E.pc f
    match s.checkTarget I.core I.w true pc with
    | (s, some e) => (s, .error (e, maskOf I.lanes))
    | (s, none) =>
      let depthMax := (s.launchOf I.c).elim 64 (·.hdr.depth)
      match Iss.eachState I.lanes s (fun s i => s.callStrand I f depthMax i) with
      | (s1, .error e) => heldOr s s1 e
      | (s, .ok rs) =>
        let spilled := rs.any (fun (_, _, b) => b)
        let s := s.putStrands I (rs.map (fun (i, x, _) => (i, x)))
        let hits := I.lanes.flatMap (fun i =>
          let (r, l, _) := (I.c.st i).spills f.mod.toNat depthMax
          s.windowHits I 34 i ((r ++ l).map (·.1)))
        (s, .ok { s, jumps := I.lanes.map (fun i => (i, pc, f.prio)), visible := spilled, hits }))

/-- The return entry of a strand at call depth above zero: on chip, or filled (R152). -/
def State.popEntry (s : State) (I : Iss) (lane : Nat) : Except Stop (RetEntry × List RetEntry × Bool) :=
  let x := I.c.st lane
  match x.rstack.getLast? with
  | some r => .ok (r, x.rstack.dropLast, false)
  | none => match s.fill I lane (24 * x.wb + 8) with
    | .error e => .error e
    | .ok a => match s.fill I lane (24 * x.wb + 16) with
      | .error e => .error e
      | .ok b => .ok ({ pc := BitVec.ofNat 64 a, prio := BitVec.ofNat 16 b, n := bitsOf b 20 16 }, [], true)

/-- What RET does for one strand. -/
inductive RetEff where
  | leave
  | go (x : Strand) (pc : Word) (prio : Half)

/-- RET for one strand (R150, R165). A fill that completes emits its event, whatever becomes of the RET (R153). -/
def State.retStrand (s : State) (I : Iss) (lane : Nat) : State × Except Stop RetEff :=
  let x := I.c.st lane
  if x.depth == 0 then (s, .ok .leave) else
  match s.popEntry I lane with
  | .error e => (s, .error e)
  | .ok (r, rest, filled) =>
    let s := if filled then s.windowEv I lane 0x53 x.wb else s
    if r.n == 0 || 23 < r.n || x.wb < r.n then (s, .error (Trp.stop Cause.window 0 (localAddr (24 * x.wb + 8)))) else
    match s.checkTarget I.core I.w true r.pc with
    | (s, some e) => (s, .error e)
    | (s, none) =>
      let wb' := x.wb - r.n
      let count := x.low - wb'
      match allOk (fun j => match s.fill I lane (24 * (x.low - 1 - j)) with
          | .error e => .error e
          | .ok v => .ok (x.low - 1 - j, v)) (List.range count) with
      | .error e => (s, .error e)
      | .ok vals =>
        let s := if 0 < count then s.windowEv I lane 0x51 (wb' + count * 2 ^ 32) else s
        let y := x.drop (wb' + 24) (x.wb + 24)
        let y := vals.foldl (fun y (p, v) => y.posSet p (BitVec.ofNat 64 v)) y
        let y := { y with wb := wb', low := min x.low wb', depth := x.depth - 1, rstack := rest }
        (s, .ok (.go y r.pc r.prio))

/-- RET (R165). -/
def execRet (f : Gen) (s : State) : Host.Outcome State Fault Refusal :=
  runCourse s (.ret f) false [] (fun I s =>
    match Iss.eachState I.lanes s (fun s i => s.retStrand I i) with
    | (s1, .error e) => heldOr s s1 e
    | (s, .ok rs) =>
      let gone := rs.filterMap (fun (i, r) => match r with | .leave => some i | .go _ _ _ => none)
      let back := rs.filterMap (fun (i, r) => match r with | .go x pc prio => some (i, x, pc, prio) | .leave => none)
      let s := s.putStrands I (back.map (fun (i, x, _, _) => (i, x)))
      let hits := back.flatMap (fun (i, x, _, _) => s.windowHits I 33 i ((I.c.st i).fills x))
      (s, .ok { s, jumps := back.map (fun (i, _, pc, prio) => (i, pc, prio)), leave := gone, hits }))

/-- EXIT (R166): every executing strand leaves for good. -/
def execExit (f : Gen) (s : State) : Host.Outcome State Fault Refusal :=
  runCourse s (.exit f) false [] (fun I s => (s, .ok { s, leave := I.lanes }))

/-- YIELD (R167): no candidate for N clocks. -/
def execYield (f : Gen) (s : State) : Host.Outcome State Fault Refusal :=
  runCourse s (.yield f) false [] (fun I s =>
    let n := bitsOf f.imm.toNat 7 0
    let s := if n == 0 then s else
      (s.modCourse I.core I.slot (fun c => { c with yielding := n })).laterAt (s.time.gt + n * s.clockGt) (.yieldExpiry I.core I.slot)
    (s, .ok { s }))

/-- YIELD_EXPIRY (R167): the clocks have passed; the course offers candidates again. -/
def execYieldExpiry (core slot : Nat) (s : State) : Host.Outcome State Fault Refusal :=
  .next (s.modCourse core slot (fun c => { c with yielding := 0 }))

/-- RGN (R168): the mask of staged registers, in place of every earlier one. -/
def execRgn (f : Gen) (s : State) : Host.Outcome State Fault Refusal :=
  runCourse s (.rgn f) false [] (fun I s =>
    let s := s.modCourse I.core I.slot (fun c => { c with staged := BitVec.ofNat 24 f.imm.toNat })
    (s, .ok { s }))

end Sys2Proof.Machine
end

