-- ==== Sys2Proof/Machine/Cross.lean ====
section
/-! DEFINITION. Cross-strand instructions (R230 to R235): only the executing strands take part, and every read comes first. -/
namespace Sys2Proof.Machine

/-- Run a cross-strand form: `f` answers what one executing strand receives. -/
def runCross (s : State) (i : Instr) (req folds : List Reg) (f : Iss → Nat → Except Stop Res) :
    Host.Outcome State Fault Refusal :=
  runCourse s i false req (fun I s =>
    let I := { I with uni := false }
    (s, match I.each (fun lane => f I lane) with
      | .error e => .error e
      | .ok rs => match I.store s rs with
        | .error e => .error e
        | .ok s => .ok { s, folds := I.foldVals (folds.map .inl) }))

/-- The value a form of R231 moves: a w register's 64 bits, or a whole v register, which must not be raw. -/
def Iss.moved (I : Iss) (r : Reg) (lane u : Nat) : Except Stop VReg :=
  match r with
  | .v i =>
    let own := (I.c.st lane).vreg i.val
    if own.tag == 0 then .error (tagStop r own.tag) else .ok ((I.c.st u).vreg i.val)
  | r => .ok (VReg.ofWord (I.c.read u r))

/-- The source strand of XSHF; the strand itself where it lies outside or does not execute (R231). -/
def shufSource (f : Gen) (I : Iss) (lane : Nat) : Nat :=
  let d := bitsOf f.imm.toNat 3 0
  let u : Int := match bitsOf f.mod.toNat 6 5 with
    | 0 => ((I.c.read lane f.sb).toNat % 16 : Nat)
    | 1 => (lane : Int) - d
    | 2 => (lane : Int) + d
    | _ => (lane ^^^ d : Nat)
  if 0 ≤ u && u < 16 && I.lanes.contains u.toNat then u.toNat else lane

/-- XSHF (R231). -/
def execXshf (f : Gen) (s : State) : Host.Outcome State Fault Refusal :=
  runCross s (.xshf f) [] [] (fun I lane => match I.moved f.sa lane (shufSource f I lane) with
    | .error e => .error e
    | .ok v => .ok { writes := [(f.dst, v)] })

/-- XBRD (R232): SB is uniform-required unless I gives the lane. -/
def execXbrd (f : Gen) (s : State) : Host.Outcome State Fault Refusal :=
  runCross s (.xbrd f) (if modI5 f.mod then [] else [f.sb]) [] (fun I lane =>
    let u := if modI5 f.mod then bitsOf f.imm.toNat 3 0 else (I.c.read I.leader f.sb).toNat
    match I.moved f.sa lane (if I.lanes.contains u then u else I.leader) with
    | .error e => .error e
    | .ok v => .ok { writes := [(f.dst, v)] })

/-- The elements of a strand's SA: the lanes of a v register, or the low n bits of a w register (R233). -/
def crossElems (f : Gen) (I : Iss) (lane : Nat) : List Nat :=
  let n := tagWidth (fpT f.mod)
  match f.sa with
  | .v i => vecLanes n ((I.c.st lane).vreg i.val).bits
  | r => [(I.c.read lane r).toNat % 2 ^ n]

/-- The result of XRED or XSCN from its elements. -/
def crossRes (f : Gen) (l : List Nat) : Res :=
  match f.sa with
  | .v _ => Res.vec f.dst (vecOfLanes (tagWidth (fpT f.mod)) l) (fpT f.mod)
  | _ => Res.word f.dst (BitVec.ofNat 64 (l.headD 0))

/-- The tag check of XRED and XSCN (R233). -/
def crossTag (f : Gen) (I : Iss) (lane : Nat) : Except Stop Unit :=
  match f.sa with
  | .v _ => needTag (I.c.rd lane) (fpT f.mod) f.sa
  | _ => .ok ()

/-- XRED (R233): the tree of R202 over the 16 lanes, one result for every executing strand; no FPSTAT bit. -/
def execXred (f : Gen) (s : State) : Host.Outcome State Fault Refusal :=
  runCross s (.xred f) [] [] (fun I lane => match crossTag f I lane with
    | .error e => .error e
    | .ok _ =>
      let elems := (List.range 16).map (fun u => if I.lanes.contains u then some (crossElems f I u) else none)
      let l := (List.range (crossElems f I lane).length).map (fun j =>
        (redTree (fpT f.mod) (vecOp f.mod) (elems.map (fun e => e.bind (·[j]?)))).1)
      .ok (crossRes f l))

/-- XSCN (R233): inclusive, or exclusive under EX with zero for the lowest. -/
def execXscn (f : Gen) (s : State) : Host.Outcome State Fault Refusal :=
  runCross s (.xscn f) [] [] (fun I lane => match crossTag f I lane with
    | .error e => .error e
    | .ok _ =>
      let below := I.lanes.filter (fun u => if f.imm.getLsbD 0 then u < lane else u ≤ lane)
      let l := (List.range (crossElems f I lane).length).map (fun j =>
        ((redScan (fpT f.mod) (vecOp f.mod) none (below.map (fun u => (true, ((crossElems f I u)[j]?).getD 0)))).1.getLast?).getD 0)
      .ok (crossRes f l))

/-- XVOT (R234). -/
def execXvot (f : Gen) (s : State) : Host.Outcome State Fault Refusal :=
  runCross s (.xvot f) [] [f.sa] (fun I _ =>
    let n := tagWidth (fpT f.mod)
    let holds (u : Nat) : Bool := I.c.read u f.sa == 1
    .ok (Res.word f.dst (match bitsOf f.mod.toNat 6 5 with
      | 0 => if I.lanes.all holds then 1 else 0
      | 1 => if I.lanes.any holds then 1 else 0
      | 2 => (maskOf (I.lanes.filter holds)).setWidth 64
      | _ => if I.lanes.all (fun u => (I.c.read u f.sa).toNat % 2 ^ n == (I.c.read I.leader f.sa).toNat % 2 ^ n) then 1 else 0)))

/-- XUNI (R235). -/
def execXuni (f : Gen) (s : State) : Host.Outcome State Fault Refusal :=
  runCross s (.xuni f) [] [] (fun I lane =>
    let key (u : Nat) : Nat := (I.c.read u f.sa).toNat % 2 ^ tagWidth (fpT f.mod)
    .ok (Res.word f.dst ((maskOf (I.lanes.filter (fun u => key u == key lane))).setWidth 64)))

end Sys2Proof.Machine
end

