-- ==== Sys2Proof/Machine/Manage.lean ====
section
/-! DEFINITION. The management block: identity, time and domain registers, the context, queue, fence and fabric access tables, the firn
registers, and what reads of them return (R9, R10, R28, R51 to R57, R60, R71, R377). -/
namespace Sys2Proof.Machine

/-- A write to the management block: only the operator's (R51), and only while the part is powered and not in recovery mode, in which
BAR0 cannot be reached (R17). -/
def State.operate (s : State) (r : Requester) (f : State → State) : State :=
  match r with
  | .operator => if s.dev.powered && !s.dev.recovery then f s else s
  | .other => s

/-! ## DOMAIN and TCTL (R52) -/

/-- DOMAIN without its reserved bits. -/
def domainMask : Word := 0xFF011F0F

/-- N lies in 8 to 16 and the device number below it. -/
def domainOk (v : Word) : Bool :=
  let n := bitsOf v.toNat 12 8
  8 ≤ n && n ≤ 16 && bitsOf v.toNat 3 0 < n

/-- Whether any fabric port is up. -/
def State.anyPortUp (s : State) : Bool := (List.range 16).any s.linkUp

/-- DOMAIN_WRITE. -/
def execDomainWrite (r : Requester) (v : Word) (s : State) : Host.Outcome State Fault Refusal :=
  .next (s.operate r (fun s =>
    if !domainOk v then s
    else if s.anyPortUp then { s with time := { s.time with nextDomain := some (v &&& domainMask) } }
    else { s with time := { s.time with domain := v &&& domainMask, nextDomain := none } }))

/-- TCTL: LOGSYNC from −7 to 0. -/
def State.writeTctl (s : State) (v : Word) : State :=
  let l : BitVec 8 := v.setWidth 8
  if -7 ≤ l.toInt && l.toInt ≤ 0 then { s with time := { s.time with logsync := l } } else s

/-! ## The queue table (R57, R60) -/

def State.queue (s : State) (q : Nat) : Queue := (kget s.tables.queues q).getD Queue.zero
def State.setQueue (s : State) (q : Nat) (v : Queue) : State :=
  { s with tables := { s.tables with queues := kset s.tables.queues q v } }

/-- The 64 bytes of an entry. -/
def Queue.image (x : Queue) : Nat :=
  x.qbase.toNat + x.tailaddr.toNat * 2 ^ 64 + x.headaddr.toNat * 2 ^ 128 + x.ctx.toNat * 2 ^ 192 + x.log2size.toNat * 2 ^ 208 +
    x.qclass.toNat * 2 ^ 216 + x.state.toNat * 2 ^ 224 + x.head.toNat * 2 ^ 256

/-- Replace n bytes at an offset. -/
def replaceBytes (x off n v : Nat) : Nat := x % 2 ^ (8 * off) + v % 2 ^ (8 * n) * 2 ^ (8 * off) + x >>> (8 * (off + n)) <<< (8 * (off + n))

/-- The fields the driver sets, from an image. -/
def Queue.drive (x : Queue) (i : Nat) : Queue :=
  { x with qbase := BitVec.ofNat 64 i, tailaddr := BitVec.ofNat 64 (i >>> 64), headaddr := BitVec.ofNat 64 (i >>> 128),
           ctx := BitVec.ofNat 16 (i >>> 192), log2size := BitVec.ofNat 8 (i >>> 208), qclass := BitVec.ofNat 8 (bitsOf i 217 216) }

/-- A write to a queue entry's fields: taken only while STATE is 0x00; STATE has rows of its own. -/
def State.writeQueueField (s : State) (q off n v : Nat) : State :=
  let x := s.queue q
  if x.state != 0 then s else s.setQueue q (x.drive (replaceBytes x.image off n v))

/-- An entry that can be started: a valid context (R53), a size and alignments in their ranges (R57). -/
def Queue.startable (x : Queue) : Bool :=
  x.ctx.toNat < 0x1000 && 4 ≤ x.log2size.toNat && x.log2size.toNat ≤ 16 && x.qbase.toNat % 64 == 0 && x.tailaddr.toNat % 64 == 0 &&
    x.headaddr.toNat % 8 == 0

/-- The packet at a queue's head, as memory holds it; none when the read faults. -/
def State.readPacket (s : State) (x : Queue) : Option Nat :=
  match s.readRange (s.whoOf x.ctx.toNat) (x.qbase + BitVec.ofNat 64 (x.head.toNat % 2 ^ x.log2size.toNat * 64)) 64 with
  | .ok b => some (leNat b)
  | .error _ => none

/-- A queue has a packet that the launcher has seen the tail of and not yet read (R58). -/
def State.packetUnread (s : State) (x : Queue) : Bool :=
  x.state == 1 && x.packet.isNone && decide (x.head.toNat < x.tail.toNat) && (s.ctxEntry x.ctx.toNat).ptroot != 0

/-- The launcher reads the packet at a queue's head, once (R58). -/
def State.loadPacket (s : State) (q : Nat) : State :=
  let x := s.queue q
  if s.packetUnread x then s.setQueue q { x with packet := some (s.readPacket x) } else s

/-- The launcher reads a running queue's tail line, and then its head packet; a tail out of range is a QUEUE_ERROR (R58, R59). -/
def State.readTail (s : State) (q : Nat) : State :=
  let x := s.queue q
  if x.state != 1 then s else
  match s.readRange (s.whoOf x.ctx.toNat) x.tailaddr 8 with
  | .error _ => s
  | .ok b =>
    let t := leNat b
    if t < x.head.toNat || x.head.toNat + 2 ^ x.log2size.toNat < t then
      let s := s.setQueue q { x with state := 2, packet := none, waiting := none }
      s.emitErr x.ctx.toNat { source := src 0 0, type := 0x26, err := true, ctx := x.ctx.toNat,
                              payload := q % 2 ^ 16 + x.head.toNat * 2 ^ 16 }
    else (s.setQueue q { x with tail := BitVec.ofNat 64 t }).loadPacket q

/-- QUEUE_STATE_OFF: STATE 0x00, which ends the poison of a lost queue. -/
def execQueueStateOff (r : Requester) (q : Nat) (s : State) : Host.Outcome State Fault Refusal :=
  .next (s.operate r (fun s => if 1024 ≤ q then s else s.setQueue q { s.queue q with state := 0, packet := none, waiting := none }))

/-- QUEUE_STATE_RUN: HEAD from the word at HEADADDR; ignored for a lost queue. -/
def execQueueStateRun (r : Requester) (q : Nat) (s : State) : Host.Outcome State Fault Refusal :=
  .next (s.operate r (fun s =>
    let x := s.queue q
    if 1024 ≤ q || x.state == 3 || !x.startable then s else
    match s.readRange (s.whoOf x.ctx.toNat) x.headaddr 8 with
    | .error _ => s
    | .ok b =>
      let h : Word := BitVec.ofNat 64 (leNat b)
      (s.setQueue q { x with state := 1, head := h, tail := h, packet := none, waiting := none }).readTail q))

/-- An uncorrectable error in a queue entry's SRAM word (R60). -/
def State.queueLost (s : State) (q : Nat) : State :=
  let x := s.queue q
  let s := s.setQueue q { x with state := 3, packet := none, waiting := none }
  s.emitErr x.ctx.toNat { source := src 0 0, type := 0x27, err := true, ctx := x.ctx.toNat, payload := q }

/-- QUEUE_LOST (R60). -/
def execQueueLost (q : Nat) (s : State) : Host.Outcome State Fault Refusal :=
  .next (if 1024 ≤ q then s else s.queueLost q)

/-! ## MANAGEMENT_REGISTER_WRITE (R51) -/

/-- MANAGEMENT_REGISTER_WRITE: the registers without a row of their own, TCTL and the driver's queue fields; offsets that are read only,
reserved or have a row of their own take nothing here. -/
def execManagementRegisterWrite (r : Requester) (off size : Nat) (v : Word) (s : State) : Host.Outcome State Fault Refusal :=
  .next (s.operate r (fun s =>
    if off == 0x38 && size == 8 then s.writeTctl v
    else if 0x10000 ≤ off && off + size ≤ 0x20000 then
      let q := (off - 0x10000) / 64
      if off % 64 + size ≤ 64 then s.writeQueueField q (off % 64) size v.toNat else s
    else s))

/-! ## Contexts (R54) -/

/-- The counters of an entry meet those of another enabled context, or pass the last counter. -/
def State.quotaClash (s : State) (id : Nat) (e : ContextEntry) : Bool :=
  65536 < e.cbase.toNat + e.ccount.toNat ||
    s.tables.contexts.any (fun (i, c) => i != id && c.entry.ptroot != 0 && e.ccount != 0 && c.entry.ccount != 0 &&
      overlap e.cbase.toNat e.ccount.toNat c.entry.cbase.toNat c.entry.ccount.toNat)

/-- The firn store's header (R71). -/
def State.firnHeader (s : State) : State :=
  if !s.firn.enabled then s else
  let at_ (o : Nat) : Loc := ⟨.lpddr, s.firn.base.toNat + o⟩
  let views := (s.tables.contexts.filter (fun (_, c) => c.entry.viewlen != 0)).length
  ((s.pokeNat (at_ 0) 8 s.firn.size.toNat).pokeNat (at_ 8) 8 s.firn.opsz.toNat).pokeNat (at_ 16) 8 views

/-- Every counter of a quota loses its poison (R352). -/
def State.clearPoison (s : State) (e : ContextEntry) : State :=
  { s with async := { s.async with counters :=
      (s.async.counters.filterMap (fun (i, c) =>
        let c' := if e.cbase.toNat ≤ i && i < e.cbase.toNat + e.ccount.toNat then { c with poison := false } else c
        if c' = Counter.zero then none else some (i, c'))) } }

/-- CONTEXT_ENTRY_WRITE: for later instances; the context's instruction-cache lines go (R123), its counters' poison ends (R352), and a
killed context may start again (R401). A clash of counter ranges leaves the entry disabled. -/
def execContextEntryWrite (r : Requester) (id : Nat) (e : ContextEntry) (s : State) : Host.Outcome State Fault Refusal :=
  .next (s.operate r (fun s =>
    if 4096 ≤ id then s else
    let old := (kget s.tables.contexts id).getD Context.zero
    let put (c : Context) (s : State) : State :=
      ({ s with tables := { s.tables with contexts := kset s.tables.contexts id c } } : State).firnHeader
    if s.quotaClash id e then put { old with entry := { old.entry with ptroot := 0 } } s
    else
      let e := { e with fgroup := e.fgroup &&& 0xFFF }
      ((put { old with entry := e, killed := false } s).icDropAll id).clearPoison e))

/-! ## Region fences (R56) and the fabric access table (R377) -/

/-- REGION_FENCE_WRITE. -/
def execRegionFenceWrite (r : Requester) (region : Nat) (v : Word32) (s : State) : Host.Outcome State Fault Refusal :=
  .next (s.operate r (fun s =>
    if 20 ≤ region then s else
    let g : BitVec 12 := v.setWidth 12
    { s with tables := { s.tables with fences := if g == 0 then kdel s.tables.fences region else kset s.tables.fences region g } }))

/-- FABRIC_ACCESS_TABLE_WRITE, through the management interface, which is the operator's. -/
def execFabricAccessTableWrite (idx : Nat) (e : FatEntry) (s : State) : Host.Outcome State Fault Refusal :=
  if 256 ≤ idx || !s.dev.powered then .next s
  else .next { s with tables := { s.tables with access := kset s.tables.access idx e } }

/-! ## The firn registers (R71) -/

/-- FIRN_GEOMETRY_WRITE: stored as written while the store is disabled, and FIRNWP returns to 0. -/
def execFirnGeometryWrite (r : Requester) (reg : FirnReg) (v : Word) (s : State) : Host.Outcome State Fault Refusal :=
  .next (s.operate r (fun s =>
    if s.firn.enabled then s else
    let f := match reg with
      | .base => { s.firn with base := v }
      | .size => { s.firn with size := v }
      | .opsz => { s.firn with opsz := v }
    { s with firn := { f with wp := 0 } }))

/-- The geometry an enable asks for. -/
def FirnState.geometryOk (f : FirnState) : Bool :=
  f.base.toNat % 4096 == 0 && 65536 ≤ f.size.toNat && f.size.toNat ≤ 2 ^ 34 && f.size.toNat % 65536 == 0 && 4096 ≤ f.opsz.toNat &&
    f.opsz.toNat % 4096 == 0 && 4096 + f.opsz.toNat ≤ f.size.toNat && decide (f.base.toNat + f.size.toNat ≤ Config.lpddrBytes)

/-- FIRN_ENABLE. -/
def execFirnEnable (r : Requester) (s : State) : Host.Outcome State Fault Refusal :=
  .next (s.operate r (fun s =>
    if s.firn.geometryOk then ({ s with firn := { s.firn with enabled := true } } : State).firnHeader else s))

/-- FIRN_DISABLE. -/
def execFirnDisable (r : Requester) (s : State) : Host.Outcome State Fault Refusal :=
  .next (s.operate r (fun s => { s with firn := { s.firn with enabled := false } }))

/-! ## What reads return (R28, R51, R52) -/

/-- STATUS. -/
def State.statusWord (s : State) : Word :=
  BitVec.ofNat 64 ((if s.dev.ready then 1 else 0) + (if s.dev.recovery then 2 else 0) + (if s.dev.activeCx then 4 else 0) +
    (if s.time.locked then 8 else 0) + s.dev.bootDone.toNat * 2 ^ 8 + s.dev.bootFailed.toNat * 2 ^ 16)

/-- A context entry as its 128 bytes lie in the context table window (R54); reserved bytes read as zero. -/
def contextImage (e : ContextEntry) : Nat :=
  e.ptroot.toNat + (e.errqbase.toNat <<< 64) + (e.errqlen.toNat <<< 128) + (e.fgroup.toNat <<< 160) + (e.instq.toNat <<< 176) +
  (e.cbase.toNat <<< 192) + (e.ccount.toNat <<< 224) + (e.gang.toNat <<< 256) + (e.viewlen.toNat <<< 288) + (e.viewoff.toNat <<< 320) +
  (e.seed.toNat <<< 384) + (e.trapvec.toNat <<< 448) + (e.cflags.toNat <<< 512)

/-- A region's fence register (R56). -/
def State.fenceWord (s : State) (region : Nat) : Nat := if region < 20 then ((kget s.tables.fences region).getD 0).toNat else 0

/-- The 64 bits of the management block at an offset: a register, part of a queue or a context entry, two fence registers. Offsets not
listed read as zero. -/
def State.manageRead (s : State) (off : Nat) : Word :=
  if off == 0 then Config.buildStepping.setWidth 64 ||| Config.hdieSerial.setWidth 64 <<< 16
  else if off == 0x08 then s.statusWord
  else if off == 0x10 then s.dev.lifeIdx.setWidth 64
  else if off == 0x18 then BitVec.ofNat 64 ((kget s.dev.life s.dev.lifeIdx.toNat).getD 0)
  else if off == 0x20 then s.time.domain
  else if off == 0x28 then BitVec.ofNat 64 s.time.gt
  else if off == 0x30 then (if s.time.domain.getLsbD 16 then 0 else wordOf s.time.offset)
  else if off == 0x38 then s.time.logsync.setWidth 64
  else if 0x10000 ≤ off && off < 0x20000 then
    BitVec.ofNat 64 ((s.queue ((off - 0x10000) / 64)).image >>> (8 * ((off - 0x10000) % 64)))
  else if off == 0xA0000 then s.firn.base
  else if off == 0xA0008 then s.firn.size
  else if off == 0xA0010 then s.firn.opsz
  else if off == 0xA0018 then BitVec.ofNat 64 s.firn.wp
  else if off == 0xA0020 then BitVec.ofNat 64 s.firn.drop
  else if off == 0xA0028 then (if s.firn.enabled then 1 else 0)
  else if 0x20000 ≤ off && off < 0xA0000 then
    BitVec.ofNat 64 (contextImage ((kget s.tables.contexts ((off - 0x20000) / 128)).getD Context.zero).entry >>> (8 * ((off - 0x20000) % 128)))
  else if 0xA1000 ≤ off && off < 0xA1050 then
    BitVec.ofNat 64 (s.fenceWord ((off - 0xA1000) / 4) + (s.fenceWord ((off - 0xA1000) / 4 + 1) <<< 32))
  else 0

end Sys2Proof.Machine
end

