-- ==== Sys2Proof/Machine/Queue.lean ====
section
/-! DEFINITION. Launch queues: the tail, the packets and their acceptance (R57 to R63). -/
namespace Sys2Proof.Machine

/-! ## TAIL_WRITE (R58, R59) -/

/-- TAIL_WRITE: a write of the tail line, by the host with a value or by another agent whose store has reached it; the launcher reads the
line again. -/
def execTailWrite (q : Nat) (v : Option Word) (s : State) : Host.Outcome State Fault Refusal :=
  let x := s.queue q
  let s := match v with
    | none => s
    | some t => match s.writeRange (s.whoOf x.ctx.toNat) x.tailaddr (leBytes 8 t.toNat) with
      | .ok s => s
      | .error _ => s
  .next (s.readTail q)

/-! ## Packets (R61) -/

/-- A field of a packet: n bytes at an offset. -/
def pkField (p off n : Nat) : Nat := (p >>> (8 * off)) % 2 ^ (8 * n)
def pkType (p : Nat) : Nat := pkField p 0 1
def pkOrder (p : Nat) : Bool := p.testBit 8
def pkParent (p : Nat) : Word32 := BitVec.ofNat 32 (pkField p 4 4)

/-- The head packet of a queue: as the launcher has read it, else as it reads it now; none when the read faults. A packet that it does
not accept at once is kept as read (R58). -/
def State.headPacket (s : State) (x : Queue) : Option Nat := x.packet.getD (s.readPacket x)

/-- A packet's reserved fields are zero and its type is known. -/
def packetForm (p : Nat) : Bool :=
  bitsOf p 31 9 == 0 &&
    match pkType p with
    | 0 => true
    | 1 => pkField p 0x14 4 == 0 && pkField p 0x30 16 == 0
    | 2 => pkField p 0x10 48 == 0
    | 3 => pkField p 0x0A 6 == 0 && pkField p 0x18 40 == 0
    | 4 => pkField p 0x10 48 == 0
    | _ => false

/-- Its counters lie in the quota and a graph's fields in their ranges (R38, R61, R63). A GBASE that is not 64-byte aligned or not in global
space is accepted, and nodes are read there (DESIGN CHOICE, log 67). -/
def packetOk (e : ContextEntry) (p : Nat) : Bool :=
  packetForm p &&
    match pkType p with
    | 1 => signalWordOk e (BitVec.ofNat 64 (pkField p 0x20 8)) && pkField p 0x12 2 != 0 &&
        decide (pkField p 0x10 2 < pkField p 0x12 2) && pkField p 0x18 8 % 64 == 0
    | 2 => signalWordOk e (BitVec.ofNat 64 (pkField p 8 8))
    | 3 => decide (pkField p 8 2 < e.ccount.toNat)
    | _ => true

/-- Instances in flight of a queue, and of a context. -/
def State.queueInFlight (s : State) (q : Nat) : Nat := (s.work.runs.filter (fun (_, g) => g.queue == q)).length
def State.ctxInFlight (s : State) (ctx : Nat) : Nat := (s.work.runs.filter (fun (_, g) => g.ctx == ctx)).length

/-- Whether a queue's head can be taken now: a packet waits, its context is enabled and not killed (R401), ORDER and INSTQ allow it, and
a held WAIT has its value. -/
def State.headReady (s : State) (q : Nat) (x : Queue) : Bool :=
  let ctx := x.ctx.toNat
  let e := s.ctxEntry ctx
  s.dev.ready && x.state == 1 && decide (x.head.toNat < x.tail.toNat) && e.ptroot != 0 && !s.ctxKilled ctx &&
    (match x.waiting with
     | some (i, v) => decide (v.toNat ≤ (s.counter i).value.toNat)
     | none => match s.headPacket x with
       | none => true
       | some p => !packetOk e p ||
          ((!pkOrder p || s.queueInFlight q == 0) && (pkType p != 1 || decide (s.ctxInFlight ctx < e.instq.toNat))))

/-- The queue the launcher takes next (R62): the highest QCLASS, round-robin by number within it. -/
def State.nextQueue (s : State) : Option Nat :=
  let cands := s.tables.queues.filter (fun (q, x) => s.headReady q x)
  let pick (c : Nat) : Option Nat :=
    let l := (cands.filter (fun (_, x) => x.qclass.toNat == c)).map (·.1)
    let last := s.work.lastQueue[c]?.getD 0
    match l.find? (fun q => last ≤ q) with
    | some q => some q
    | none => l.head?
  [3, 2, 1, 0].findSome? pick

/-- HEAD advances past a packet, is written to HEADADDR, and the launcher's turn moves on (R57, R62). -/
def State.passHead (s : State) (q : Nat) (x : Queue) : State :=
  let s := s.setQueue q { x with head := x.head + 1, packet := none, waiting := none }
  let s := { s with work := { s.work with lastQueue := s.work.lastQueue.setIfInBounds x.qclass.toNat (q + 1) } }
  match s.writeRange (s.whoOf x.ctx.toNat) x.headaddr (leBytes 8 (x.head.toNat + 1)) with
  | .ok s => s
  | .error _ => s

/-- PACKET_BAD: no effect, HEAD advances, and the error queue hears of it. -/
def State.packetBad (s : State) (q : Nat) (x : Queue) : State :=
  (s.passHead q x).emitErr x.ctx.toNat
    { source := src 0 0, type := 0x2A, err := true, ctx := x.ctx.toNat, payload := q % 2 ^ 16 + x.head.toNat * 2 ^ 16 }

/-- The launcher accepts one packet per 64 gt (R62). -/
def acceptGap : Nat := 64

/-- Whether 64 gt have passed since the last accepted packet. -/
def State.launcherFree (s : State) : Bool := decide (s.work.takeAt ≤ s.time.gt)

/-- PACKET_ACCEPTED. -/
def State.packetTaken (s : State) (q : Nat) (x : Queue) : State :=
  let s := s.passHead q x
  let s := { s with work := { s.work with takeAt := s.time.gt + acceptGap } }
  s.emit
    { source := src 0 0, type := 0x20, ctx := x.ctx.toNat, payload := q % 2 ^ 16 + x.head.toNat * 2 ^ 16 }

/-- Take the head packet of the queue whose turn it is, when it is of a type: accepted with its effect, or rejected. A packet that cannot be
read or has a reserved type is rejected under type 0. -/
def State.takePacket (s : State) (q type : Nat) (eff : Queue → Nat → State → State) : State :=
  if s.nextQueue != some q || !s.launcherFree then s else
  let x := s.queue q
  if x.waiting.isSome then s else
  match s.headPacket x with
  | none => if type == 0 then s.packetBad q x else s
  | some p =>
    if (if pkType p ≤ 4 then pkType p else 0) != type then s
    else if packetOk (s.ctxEntry x.ctx.toNat) p then eff x p s
    else s.packetBad q x

/-- PACKET_NOP. -/
def execPacketNop (q : Nat) (s : State) : Host.Outcome State Fault Refusal :=
  .next (s.takePacket q 0 (fun x _ s => s.packetTaken q x))

/-- PACKET_SIGNAL: the counter, with release; its record names the packet's PARENT (R369). -/
def execPacketSignal (q : Nat) (s : State) : Host.Outcome State Fault Refusal :=
  .next (s.takePacket q 2 (fun x p s =>
    let s := s.packetTaken q x
    s.signalWord x.ctx.toNat (s.ctxEntry x.ctx.toNat) (BitVec.ofNat 64 (pkField p 8 8)) s.devNo 0 (pkParent p) 0))

/-- PACKET_WAIT: accepted when the counter has the value; else it holds the head. -/
def execPacketWait (q : Nat) (s : State) : Host.Outcome State Fault Refusal :=
  .next (s.takePacket q 3 (fun x p s =>
    match counterOf (s.ctxEntry x.ctx.toNat) (pkField p 8 2) with
    | none => s.packetBad q x
    | some i =>
      let v : Word := BitVec.ofNat 64 (pkField p 0x10 8)
      if v.toNat ≤ (s.counter i).value.toNat then s.packetTaken q x else s.setQueue q { x with packet := some (some p), waiting := some (i, v) }))

/-- WAIT_PACKET_RELEASE: the awaited counter has reached VALUE; the packet is the one the launcher has read. -/
def execWaitPacketRelease (q : Nat) (s : State) : Host.Outcome State Fault Refusal :=
  if s.nextQueue != some q || !s.launcherFree then .next s else
  let x := s.queue q
  .next (if x.waiting.isSome then s.packetTaken q x else s)

/-- PACKET_MARKER. -/
def execPacketMarker (q : Nat) (s : State) : Host.Outcome State Fault Refusal :=
  .next (s.takePacket q 4 (fun x p s =>
    (s.packetTaken q x).emit { source := src 0 0, type := 0x2B, priv := true, ctx := x.ctx.toNat,
                               payload := pkField p 8 8 + q % 2 ^ 16 * 2 ^ 64 }))

/-! ## PACKET_GRAPH (R63, R64) -/

/-- The bytes of an instance's area. -/
def areaBytes (nnodes : Nat) : Nat := ceilDiv (nnodes * 4) 64 * 64

/-- A new instance: its cause, its record, and node FIRST ready with one ordinary arrival. -/
def State.startInstance (s : State) (q : Nat) (x : Queue) (p : Nat) (areaAt : List (Loc × Nat)) : State :=
  let ctx := x.ctx.toNat
  let (cause, s) := s.newCause launcherTaker
  let (id, s) := s.newId
  let first := pkField p 0x10 2
  let g : GraphRun :=
    { queue := q, ctx, entry := s.ctxEntry ctx, gbase := BitVec.ofNat 64 (pkField p 8 8), first, nnodes := pkField p 0x12 2,
      area := BitVec.ofNat 64 (pkField p 0x18 8), areaAt, donesig := BitVec.ofNat 64 (pkField p 0x20 8),
      doneaddr := BitVec.ofNat 64 (pkField p 0x28 8), cause, parent := pkParent p, counts := [], ordinary := [first],
      ready := [first], running := [], loops := [], backs := [], early := [], ended := false, failed := false }
  let s := { s with work := { s.work with runs := kset s.work.runs id g } }
  s.emit { source := src 0 0, type := 0x21, cause, parent := g.parent, ctx, payload := g.gbase.toNat % 2 ^ 56 + first * 2 ^ 56 }

/-- PACKET_GRAPH: INSTAREA is zeroed whole, or the packet is rejected. -/
def execPacketGraph (q : Nat) (s : State) : Host.Outcome State Fault Refusal :=
  .next (s.takePacket q 1 (fun x p s =>
    let w := s.whoOf x.ctx.toNat
    let area : Word := BitVec.ofNat 64 (pkField p 0x18 8)
    let n := areaBytes (pkField p 0x12 2)
    match s.writeRange w area (List.replicate n 0), s.homes w .store area (n / 128 + 2) n with
    | .ok s, .ok homes => (s.packetTaken q x).startInstance q x p homes
    | _, _ => s.packetBad q x))

end Sys2Proof.Machine
end

