-- ==== Sys2Proof/Machine/Graph.lean ====
section
/-! DEFINITION. The graph walker: nodes, arrivals, loops, launch headers (R33 to R45, R63 to R65, R446). -/
namespace Sys2Proof.Machine

/-! ## Nodes (R33, R34, R37, R39) -/

/-- A field of a node: n bytes at an offset. -/
def ndField (b : BitVec 512) (off n : Nat) : Nat := (b.toNat >>> (8 * off)) % 2 ^ (8 * n)
def ndWord (b : BitVec 512) (off : Nat) : Word := BitVec.ofNat 64 (ndField b off 8)
def ndType (b : BitVec 512) : Nat := ndField b 0 1
def ndSoft (b : BitVec 512) : Bool := b.getLsbD 8
def ndTrace (b : BitVec 512) : Bool := b.getLsbD 9
def ndIncount (b : BitVec 512) : Nat := ndField b 2 2
/-- LOOP: BODYFIRST, BODYLAST, BACKCOUNT, MAXTRIPS. -/
def ndBodyFirst (b : BitVec 512) : Nat := ndField b 0x30 2
def ndBodyLast (b : BitVec 512) : Nat := ndField b 0x32 2
def ndBackcount (b : BitVec 512) : Nat := ndField b 0x34 2
def ndMaxtrips (b : BitVec 512) : Nat := ndField b 0x2C 4

/-- S0 to S3; S4 to S27 of a JOIN; S4 to S7 of a CONDITIONAL. -/
def ndSuccessors (b : BitVec 512) : List Nat :=
  let half (off k : Nat) : Nat := ndField b (off + 2 * k) 2
  (List.range 4).map (half 8) ++
    (match ndType b with
     | 4 => (List.range 24).map (half 0x10)
     | 5 => (List.range 4).map (half 0x30)
     | _ => [])

/-- Whose accesses the walker makes for an instance: the entry it began with (R54). -/
def graphWho (g : GraphRun) : Who :=
  { ctx := g.ctx, root := g.entry.ptroot.toNat, skein := none, core := 0, launch := none, strand := none }

/-- Read a node whole, none when the read faults. -/
def State.readNode (s : State) (g : GraphRun) (i : Nat) : Option (BitVec 512) :=
  match s.readRange (graphWho g) (g.gbase + BitVec.ofNat 64 (64 * i)) 64 with
  | .ok b => some (BitVec.ofNat 512 (leNat b))
  | .error _ => none

/-- Every named successor lies below NNODES (R63). -/
def succOk (g : GraphRun) (b : BitVec 512) : Bool := (ndSuccessors b).all (fun k => k == 0xFFFF || k < g.nnodes)

/-- The checks of R33 to R41 and R63 on a node when it is read. -/
def State.nodeOk (s : State) (g : GraphRun) (b : BitVec 512) : Bool :=
  bitsOf b.toNat 15 10 == 0 && ndField b 4 4 == 0 && succOk g b &&
    match ndType b with
    | 1 => ndField b 0x10 8 % 128 == 0
    | 4 => true
    | 2 =>
      let a := ndField b 0x10 8
      let d := ndField b 0x18 8
      let n := ndField b 0x20 8
      a % 32 == 0 && d % 32 == 0 && n != 0 && n % 32 == 0 && !overlap a n d n && signalWordOk g.entry (ndWord b 0x30) &&
        ndField b 0x38 8 == 0
    | 3 => ndField b 0x20 32 == 0
    | 5 => ndField b 0x28 4 ≤ 5 && ndMaxtrips b == 0 && ndField b 0x38 8 == 0
    | 6 =>
      ndField b 0x28 4 ≤ 5 && ndMaxtrips b != 0 && ndField b 0x36 2 == 0 && ndField b 0x38 8 == 0 && ndBackcount b != 0 &&
        decide (ndBodyFirst b ≤ ndBodyLast b) && decide (ndBodyLast b < g.nnodes) &&
        (s.readNode g (ndBodyFirst b)).elim false (fun x => ndIncount x == 1)
    | 7 => signalWordOk g.entry (ndWord b 0x20) && ndField b 0x30 16 == 0
    | 8 => ndField b 0x10 48 == 0
    | _ => false

/-- The row that takes a node: its type's, or JOIN's for a node without one. -/
def nodeRow (b : Option (BitVec 512)) : Nat :=
  match b with
  | some b => if 1 ≤ ndType b && ndType b ≤ 8 then ndType b else 4
  | none => 4

/-! ## Records of the walker (R70) -/

def nodePayload (g : GraphRun) (i type status : Nat) : Nat :=
  g.gbase.toNat % 2 ^ 56 + i * 2 ^ 56 + type * 2 ^ 72 + status * 2 ^ 80

def nodeEv (g : GraphRun) (i : Nat) (b : BitVec 512) (cause : Word32) (type status : Nat) : Ev :=
  { source := src 0 0, type, cause, parent := g.cause, ctx := g.ctx, payload := nodePayload g i (ndType b) status }

/-! ## Running nodes and their ends -/

def State.run? (s : State) (gi : Nat) : Option GraphRun := kget s.work.runs gi
def State.setRun (s : State) (gi : Nat) (g : GraphRun) : State := { s with work := { s.work with runs := kset s.work.runs gi g } }
def State.modRunning (s : State) (gi : Nat) (f : GraphRun → GraphRun) : State :=
  { s with work := { s.work with runs := kmod s.work.runs gi f } }

/-- A node takes a status; NODE_DONE follows. -/
def State.nodeFinished (s : State) (gi : Nat) (n : NodeRun) (status : Byte) : State :=
  (s.modRunning gi (fun g => { g with running := g.running ++ [{ n with status := some status }] })).later (.nodeDone gi n.node)

/-- A loop leaves with a status. -/
def State.loopEnds (s : State) (gi i : Nat) (x : LoopRun) (status : Byte) : State :=
  let s := s.modRunning gi (fun g => { g with loops := kdel g.loops i, ready := g.ready.filter (· != i) })
  s.nodeFinished gi { node := i, cause := x.cause, bits := x.bits, held := false, status := none, op := none } status

/-- Write a node's arrival count, in the walker and at INSTAREA (R63). -/
def State.putCount (s : State) (gi i n : Nat) : State :=
  match s.run? gi with
  | none => s
  | some g =>
    let s := s.setRun gi { g with counts := if n == 0 then kdel g.counts i else kset g.counts i n }
    match s.writeRange (graphWho g) (g.area + BitVec.ofNat 64 (4 * i)) (leBytes 4 n) with
    | .ok s => s
    | .error _ => s

/-- An active loop whose body holds a node. -/
def inBody (x : LoopRun) (i : Nat) : Bool := ndBodyFirst x.bits ≤ i && i ≤ ndBodyLast x.bits

/-- Node t is a loop whose body holds node `from_`: its BACKCOUNT (R41). -/
def State.backOf (s : State) (g : GraphRun) (from_ t : Nat) : Option Nat :=
  match kget g.loops t with
  | some x => if inBody x from_ then some (ndBackcount x.bits) else none
  | none => (s.readNode g t).bind (fun b =>
      if ndType b == 6 && ndBodyFirst b ≤ from_ && from_ ≤ ndBodyLast b then some (ndBackcount b) else none)

/-- One arrival at node t from node `from_` (R35, R41, R63): answers the nodes it makes ready. `loops` are the loops that were active when
`from_` completed: one whose body holds `from_` and not t fails, and t gets no arrival. An arrival at a loop from its body counts
toward BACKCOUNT and never toward INCOUNT; a loop that has not started, or has ended, has nothing to evaluate again. A node that cannot be
read has no INCOUNT: its first arrival makes it ready (DESIGN CHOICE, log 67). -/
def State.arrival (s : State) (gi : Nat) (loops : KMap LoopRun) (from_ t : Nat) (ordinary : Bool) : State × List Nat :=
  match s.run? gi with
  | none => (s, [])
  | some g =>
    if g.nnodes ≤ t then (s, []) else
    let broken := loops.filter (fun (j, x) => inBody x from_ && j != t && !inBody x t)
    if !broken.isEmpty then
      (broken.foldl (fun s (j, x) => if (kget g.loops j).isSome then s.loopEnds gi j x 0x10 else s) s, []) else
    match s.backOf g from_ t with
    | some back =>
      let n := (kget g.backs t).getD 0 + 1
      let full := n == back
      (s.setRun gi { g with backs := kset g.backs t (if full then 0 else n) }, if full && (kget g.loops t).isSome then [t] else [])
    | none => count s g
where
  count (s : State) (g : GraphRun) : State × List Nat :=
    let n := (kget g.counts t).getD 0 + 1
    let s := s.putCount gi t n
    let s := if ordinary then s.modRunning gi (fun g => { g with ordinary := if g.ordinary.contains t then g.ordinary else t :: g.ordinary })
      else s
    (s, match s.readNode g t with
      | none => [t]
      | some b => if ndIncount b == n then [t] else [])

/-- Arrivals in order; the nodes made ready at this moment queue in ascending index order (R64). A loop that one of them has made fail does
not evaluate again. -/
def State.arrivals (s : State) (gi from_ : Nat) (l : List (Nat × Bool)) : State :=
  let loops := (s.run? gi).elim [] (·.loops)
  let (s, ready) := l.foldl (fun (acc : State × List Nat) (t, o) =>
    let (s, r) := acc.1.arrival gi loops from_ t o
    (s, acc.2 ++ r)) (s, [])
  s.modRunning gi (fun g =>
    let goes (i : Nat) : Bool := (kget loops i).isNone || (kget g.loops i).isSome
    { g with ready := g.ready ++ sortBy (fun a b => decide (a ≤ b)) (ready.filter goes) })

/-- The successors a finished node releases, each with an ordinary or a skip arrival (R35, R36, R40). A CONDITIONAL that has failed with
SOFTFAIL set has no outcome: both its sets get ordinary arrivals (DESIGN CHOICE, log 67). -/
def released (n : NodeRun) (status : Byte) : List (Nat × Bool) :=
  if status == 3 || (0x10 ≤ status.toNat && !ndSoft n.bits) then [] else
  let l := ndSuccessors n.bits
  if status == 1 then l.map (fun t => (t, false))
  else if ndType n.bits == 5 && status == 0 then l.zipIdx.map (fun (t, k) => (t, decide (k < 4) == n.held))
  else l.map (fun t => (t, true))

/-- NODE_DONE of a node that did not start because END had fired (R42). -/
def State.abandon (s : State) (g : GraphRun) (i : Nat) : State :=
  let (cause, s) := s.newCause launcherTaker
  s.emit (nodeEv g i ((s.readNode g i).getD 0) cause 0x23 3)

/-- Ready nodes that the walker still takes: after END those that were ready before it fired, and loops that evaluate again (R42). -/
def GraphRun.takes (g : GraphRun) (i : Nat) : Bool := !g.ended || g.early.contains i || (kget g.loops i).isSome

/-- The instance completes (R42, R65): nodes that have become ready after END are abandoned. A loop that has started runs on as long as a
node can still bring it an arrival (DESIGN CHOICE, log 67). -/
def State.endCheck (s : State) (gi : Nat) : State :=
  match s.run? gi with
  | none => s
  | some g =>
    if !g.running.isEmpty || g.ready.any g.takes then s else
    (g.ready.foldl (fun s i => s.abandon g i) s).checkInstance gi

/-- NODE_DONE (R64 step 4): the record, the arrivals, and the end of the instance. -/
def execNodeDone (gi node : Nat) (s : State) : Host.Outcome State Fault Refusal :=
  match s.run? gi with
  | none => .next s
  | some g => match g.running.find? (fun n => n.node == node && n.status.isSome) with
    | none => .next s
    | some n =>
      let st := n.status.getD 0
      let g1 := { g with running := g.running.erase n, failed := g.failed || 0x10 ≤ st.toNat }
      let s := (s.setRun gi g1).emit (nodeEv g node n.bits n.cause 0x23 st.toNat)
      .next ((s.arrivals gi node (released n st)).endCheck gi)

/-! ## Taking a node (R64 steps 1 to 3) -/

/-- The walker takes the oldest ready node when the row is its own: a loop that is between evaluations goes on; a node that has become ready
after END is abandoned; without an ordinary arrival it is skipped; else it starts, and `act` follows its checks. TRACE is of use to a KERNEL
only, since no other node has a launch that names a trace buffer; a node with nothing but skip arrivals is skipped though it is malformed,
unless it names a successor that is not below NNODES, and one that cannot be read ends SKIPPED with no field set (DESIGN CHOICE, log 67). -/
def State.takeNode (s : State) (gi row : Nat) (again : GraphRun → Nat → LoopRun → State → State)
    (act : GraphRun → NodeRun → State → State) : State :=
  match s.run? gi with
  | none => s
  | some g => match g.ready with
    | [] => s
    | i :: rest =>
      let b := s.readNode g i
      let loop := kget g.loops i
      if (if loop.isSome then 6 else nodeRow b) != row then s else
      let s := s.setRun gi { g with ready := rest, early := g.early.erase i }
      match loop, g.ended && !g.early.contains i with
      | some x, _ => again g i x s
      | none, true => (s.abandon g i).endCheck gi
      | none, false =>
        let (cause, s) := s.newCause launcherTaker
        let bits := b.getD 0
        let n : NodeRun := { node := i, cause, bits, held := false, status := none, op := none }
        if !g.ordinary.contains i then s.nodeFinished gi n (if succOk g bits then 1 else 0x10)
        else
          let s := s.emit (nodeEv g i bits cause 0x22 0)
          if b.isNone || !s.nodeOk g bits then s.nodeFinished gi n 0x10 else act g n s

/-- For the rows that have no loop. -/
def noLoop : GraphRun → Nat → LoopRun → State → State := fun _ _ _ s => s

/-- A node keeps running. -/
def State.nodeRuns (s : State) (gi : Nat) (n : NodeRun) : State := s.modRunning gi (fun g => { g with running := g.running ++ [n] })

/-! ## JOIN, END, EVENT (R37, R42) -/

/-- NODE_JOIN; a node without a type is BADNODE here. -/
def execNodeJoin (gi : Nat) (s : State) : Host.Outcome State Fault Refusal :=
  .next (s.takeNode gi 4 noLoop (fun _ n s => s.nodeFinished gi n 0))

/-- NODE_END. -/
def execNodeEnd (gi : Nat) (s : State) : Host.Outcome State Fault Refusal :=
  .next (s.takeNode gi 8 noLoop (fun _ n s => (s.modRunning gi (fun g => { g with ended := true, early := g.early ++ g.ready })).nodeFinished gi n 0))

/-- A condition word's address is aligned, in global space (R39). -/
def condAddrOk (a : Word) : Bool := a.toNat % 8 == 0 && spaceOf a == 0

/-- NODE_EVENT: the word, the counter, the record; a word that cannot be written fails the node before any effect. -/
def execNodeEvent (gi : Nat) (s : State) : Host.Outcome State Fault Refusal :=
  .next (s.takeNode gi 7 noLoop (fun g n s =>
    let a := ndWord n.bits 0x10
    let wrote : Option State :=
      if a == 0 then some s
      else if !condAddrOk a then none
      else match s.writeRange (graphWho g) a (leBytes 8 (ndField n.bits 0x18 8)) with
        | .ok s => some s
        | .error _ => none
    match wrote with
    | none => s.nodeFinished gi n 0x10
    | some s =>
      let s := s.signalWord g.ctx g.entry (ndWord n.bits 0x20) s.devNo 0 n.cause g.cause
      let s := s.emit { source := src 0 0, type := 0x29, priv := true, cause := n.cause, parent := g.cause, ctx := g.ctx,
                        payload := ndField n.bits 0x28 8 + n.node * 2 ^ 64 }
      s.nodeFinished gi n 0))

/-! ## CONDITIONAL and LOOP (R39 to R41) -/

/-- The test of a condition word, none when the word cannot be read. -/
def State.condTest (s : State) (g : GraphRun) (b : BitVec 512) : Option Bool :=
  let a := ndWord b 0x10
  if !condAddrOk a then none else
  match s.readRange (graphWho g) a 8 with
  | .error _ => none
  | .ok l =>
    let x : Word := BitVec.ofNat 64 (leNat l) &&& ndWord b 0x18
    let v := ndWord b 0x20
    some (match ndField b 0x28 4 with
      | 0 => x == v
      | 1 => x != v
      | 2 => decide (x.toNat < v.toNat)
      | 3 => decide (v.toNat ≤ x.toNat)
      | 4 => decide (x.toInt < v.toInt)
      | _ => decide (v.toInt ≤ x.toInt))

/-- NODE_EVAL. -/
def State.evalRecord (s : State) (g : GraphRun) (i : Nat) (b : BitVec 512) (cause : Word32) (held : Bool) (trips : Nat) : State :=
  let ev := nodeEv g i b cause 0x24 (if held then 1 else 0)
  s.emit { ev with payload := ev.payload + trips % 256 * 2 ^ 88 }

/-- NODE_CONDITIONAL. -/
def execNodeConditional (gi : Nat) (s : State) : Host.Outcome State Fault Refusal :=
  .next (s.takeNode gi 5 noLoop (fun g n s =>
    match s.condTest g n.bits with
    | none => s.nodeFinished gi n 0x10
    | some r => (s.evalRecord g n.node n.bits n.cause r 0).nodeFinished gi { n with held := r } 0))

/-- One evaluation of a loop (R41 step 3): another trip, or its end. -/
def State.loopEval (s : State) (gi : Nat) (g : GraphRun) (i : Nat) (x : LoopRun) : State :=
  match s.condTest g x.bits with
  | none => s.loopEnds gi i x 0x10
  | some r =>
    let go := r && decide (x.trips < ndMaxtrips x.bits)
    let x := if go then { x with trips := x.trips + 1 } else x
    let s := s.evalRecord g i x.bits x.cause r x.trips
    if !go then s.loopEnds gi i x (if r then 2 else 0)
    else
      let first := ndBodyFirst x.bits
      let body := (List.range (ndBodyLast x.bits + 1 - first)).map (first + ·)
      let s := s.modRunning gi (fun g => { g with
        loops := kset (g.loops.filter (fun (j, _) => !body.contains j)) i x
        backs := g.backs.filter (fun (j, _) => !body.contains j)
        ordinary := g.ordinary.filter (fun j => !body.contains j) })
      let s := body.foldl (fun s j => s.putCount gi j 0) s
      s.arrivals gi i [(first, true)]

/-- NODE_LOOP: its first evaluation, and every later one. -/
def execNodeLoop (gi : Nat) (s : State) : Host.Outcome State Fault Refusal :=
  .next ((s.takeNode gi 6 (fun g i x s => s.loopEval gi g i x) (fun g n s =>
    s.loopEval gi g n.node { trips := 0, cause := n.cause, bits := n.bits })).endCheck gi)

/-! ## COPY and COLLECTIVE (R37, R386, R446) -/

/-- NODE_COPY: a copy with the node's cause; the scratchpad lines of its destination are incoming (R270). -/
def execNodeCopy (gi : Nat) (s : State) : Host.Outcome State Fault Refusal :=
  .next (s.takeNode gi 2 noLoop (fun g n s =>
    let w := ndWord n.bits 0x30
    let cnum := bitsOf w.toNat 15 0
    let signal : Option (Nat × Nat × Word) :=
      if w.getLsbD 16 then (counterOf g.entry cnum).map (fun i => (i, cnum, BitVec.ofNat 64 (bitsOf w.toNat 63 32))) else none
    let (id, s) := s.newId
    let o : Op :=
      { kind := .copy (ndWord n.bits 0x10) (ndWord n.bits 0x18) (ndField n.bits 0x20 8) (ndWord n.bits 0x28), ctx := g.ctx,
        launch := none, skein := none, issuer := .node gi n.node, core := 0, cause := n.cause, parent := g.cause, signal, cursor := 0,
        started := s.time.gt, moved := 0, doneAt := 0, waiting := false, fault := none }
    ((s.setOp id o).markIncoming id (s.destLines (s.opWho o) (ndWord n.bits 0x18) (ndField n.bits 0x20 8))).nodeRuns gi { n with op := some id }))

/-- NODE_COLLECTIVE: a descriptor that COLL would refuse fails the node; the node's DEADLINE, when nonzero, replaces the descriptor's. -/
def execNodeCollective (gi : Nat) (s : State) : Host.Outcome State Fault Refusal :=
  .next (s.takeNode gi 3 noLoop (fun g n s =>
    let a := ndWord n.bits 0x10
    let read : Option (BitVec 1024) :=
      if a.toNat % 64 != 0 || spaceOf a != 0 then none
      else match s.readRange (graphWho g) a 128 with
        | .ok b => some (BitVec.ofNat 1024 (leNat b))
        | .error _ => none
    match read with
    | none => s.nodeFinished gi n 0x10
    | some d =>
      if !s.descOk d || s.joinTaken none d then s.nodeFinished gi n 0x10 else
      let (id, s) := s.newId
      let o : Op :=
        { kind := .coll n.cause, ctx := g.ctx, launch := none, skein := none, issuer := .node gi n.node, core := 0, cause := n.cause,
          parent := g.cause, signal := none, cursor := 0, started := s.time.gt, moved := 0, doneAt := 0, waiting := false, fault := none }
      let deadline := if ndWord n.bits 0x18 == 0 then BitVec.ofNat 64 (cdField d 0x30 8) else ndWord n.bits 0x18
      (s.nodeRuns gi { n with op := some id }).collStart id o d deadline o.issuer n.cause g.cause))

/-! ## Launch headers (R43 to R45) -/

/-- A field of a header: n bytes at an offset. -/
def hdField (b : List Byte) (off n : Nat) : Nat := leNat ((b.drop off).take n)

def headerOf (b : List Byte) : Header :=
  { entryPc := BitVec.ofNat 64 (hdField b 0 8), stream := BitVec.ofNat 64 (hdField b 8 8), shape := BitVec.ofNat 64 (hdField b 0x10 8),
    e3 := hdField b 0x18 4, e4 := hdField b 0x1C 4, e5 := hdField b 0x20 4, ttcount := hdField b 0x24 2, ntens := hdField b 0x26 2,
    affinity := BitVec.ofNat 64 (hdField b 0x28 8), deadline := BitVec.ofNat 64 (hdField b 0x30 8),
    ttbase := BitVec.ofNat 64 (hdField b 0x38 8), statbuf := BitVec.ofNat 64 (hdField b 0x40 8),
    trbase := BitVec.ofNat 64 (hdField b 0x48 8), trsize := hdField b 0x50 4, trctl := BitVec.ofNat 32 (hdField b 0x54 4),
    localbase := BitVec.ofNat 64 (hdField b 0x58 8), localsize := hdField b 0x60 4, entryprio := BitVec.ofNat 16 (hdField b 0x64 2) }

/-- PC bits [5:3] zero and a slot of 4 or less. -/
def pcForm (pc : Word) : Bool := (pc.toNat / 8) % 8 == 0 && pc.toNat % 8 ≤ 4

/-- The checks of R45. -/
def Header.ok (h : Header) (b : List Byte) : Bool :=
  let extent (e w : Nat) : Bool := 1 ≤ e && e ≤ 2 ^ w
  bitsOf h.shape.toNat 63 60 == 0 && bitsOf h.trctl.toNat 31 18 == 0 && hdField b 0x66 26 == 0 && h.place ≤ 1 &&
    h.sgran ≤ 16 && h.ugran ≤ 16 && 24 ≤ h.depth && h.depth ≤ 64 && h.f2w ≤ 5 && 1 ≤ h.strands && h.strands ≤ 16 &&
    1 ≤ h.srows && h.srows ≤ 2 && 1 ≤ h.scols && h.scols ≤ 4 && 1 ≤ h.panels && h.panels ≤ 24 && 1 ≤ h.courses && h.courses ≤ 8 &&
    extent h.e3 h.f3w && extent h.e4 h.f4w && extent h.e5 h.f5w && h.ttcount ≤ 1024 && h.ntens ≤ 4096 && h.ttbase.toNat % 64 == 0 &&
    h.localsize % 64 == 0 && 1024 ≤ h.localsize && h.panels ≤ 4 * h.members && h.e3 * h.e4 * h.e5 ≤ 2 ^ 31 &&
    h.statbuf.toNat % 64 == 0 && h.trbase.toNat % 4096 == 0 && h.trsize % 4096 == 0 && (h.trbase == 0 || h.trsize != 0) &&
    h.courses ≤ 2 ^ h.f1w && h.panels ≤ 2 ^ h.f2w && 4 + h.f1w + h.f2w + h.f3w + h.f4w + h.f5w ≤ 64 && h.ugran + h.sgran ≤ 16 &&
    (h.place == 1 || h.members == 1) && pcForm h.entryPc && (h.stream == 0 || pcForm h.stream)

/-- The header of a kernel node, read once; none when the read faults or a check fails. -/
def State.readHeader (s : State) (g : GraphRun) (a : Word) : Option Header :=
  match s.readRange (graphWho g) a 128 with
  | .error _ => none
  | .ok b => if (headerOf b).ok b then some (headerOf b) else none

/-! ## Handing a launch to placement (R45, R81) -/

/-- A queued skein. -/
def Skein.queued (launch index : Nat) (h : Header) (cause parent : Word32) (stamp : Nat) : Skein :=
  { launch, index, cause, parent, stamp, phase := .queued, cores := [], granules := [],
    barriers := Vector.replicate 8 (Barrier.start h.panels false), attempts := 0, denials := 0, nextTry := nextCycle stamp, blocked := false,
    quota := none, placedAt := 0, claims := [], attached := false, stopped := false, saveSlot := 0, saveBase := 0, stashP := [],
    stashC := [], asked := 0, inImage := [], homes := 0 }

/-- One skein enters the queue: SKEIN_QUEUED. -/
def State.queueSkein (s : State) (l : Nat) (v : Launch) (stamp index : Nat) : State :=
  let (cause, s) := s.newCause launcherTaker
  let (id, s) := s.newId
  let s := s.setSkein id (Skein.queued l index v.hdr cause v.cause stamp)
  s.emit { source := src 1 0, type := 0x40, cause, parent := v.cause, ctx := v.ctx,
           payload := index + v.hdr.pclass * 2 ^ 32 + (if v.hdr.place == 0 then 0 else 2 ^ 34) }

/-- NODE_KERNEL. -/
def execNodeKernel (gi : Nat) (s : State) : Host.Outcome State Fault Refusal :=
  .next (s.takeNode gi 1 noLoop (fun g n s =>
    match s.readHeader g (ndWord n.bits 0x10) with
    | none => s.nodeFinished gi n 0x11
    | some h =>
      if h.place == 1 && g.entry.gang.toNat < h.members then s.nodeFinished gi n 0x13 else
      let total := h.e3 * h.e4 * h.e5
      let (id, s) := s.newId
      let v : Launch :=
        { run := gi, node := n.node, ctx := g.ctx, entry := g.entry, hdr := h,
          args := #v[ndWord n.bits 0x18, ndWord n.bits 0x20, ndWord n.bits 0x28, ndWord n.bits 0x30, ndWord n.bits 0x38],
          cause := n.cause, parent := g.cause, traced := ndTrace n.bits, stats := [], sampled := [],
          barriers := Vector.replicate 4 (Barrier.start total false), joins := [], bound := 0, applied := 0, suspended := none,
          dropped := 0, late := false, killed := false,
          attached := s.dbg.attachNodes.contains (g.ctx, g.gbase, n.node) }
      let s := (s.setLaunch id v).nodeRuns gi n
      let s := if v.traced then s.traceEv id (nodeEv g n.node n.bits n.cause 0x22 0) else s
      let s := if h.deadline == 0 then s else s.laterAt h.deadline.toNat (.deadline id)
      let stamp := if s.time.gt / 10 ≤ s.work.handed / 10 then nextCycle s.work.handed else s.time.gt
      let s := { s with work := { s.work with handed := stamp } }
      ((List.range total).foldl (fun s i => s.queueSkein id v stamp i) s).newHead))

/-- DEADLINE (R43): once, when the launch has not retired by it. -/
def execDeadline (launch : Nat) (s : State) : Host.Outcome State Fault Refusal :=
  match s.launch? launch with
  | none => .next s
  | some v =>
    if v.late || v.hdr.deadline == 0 || s.time.gt < v.hdr.deadline.toNat then .next s else
    match s.run? v.run with
    | none => .next s
    | some g =>
      let s := s.setLaunch launch { v with late := true }
      .next (s.emit { source := src 0 0, type := 0x28, cause := v.cause, parent := v.parent, ctx := v.ctx,
                      payload := nodePayload g v.node 1 0 })

end Sys2Proof.Machine
end

