-- ==== Sys2Proof/Machine/Image.lean ====
section
/-! DEFINITION. The records of a save area, as bytes and back, and SKEIN_SAVED (R402 to R410). The debug channel reads and writes the
same records of a live skein (R413). -/
namespace Sys2Proof.Machine

/-! ## Records as bytes (R407 to R410) -/

/-- Pad to n bytes with zeros. -/
def padTo (n : Nat) (b : List Byte) : List Byte := b ++ List.replicate (n - b.length) 0

def handleWord (h : Handle) : Nat :=
  h.tile.toNat + h.tag.toNat * 2 ^ 10 + (if h.bound then 2 ^ 15 else 0) + (if h.pending then 2 ^ 16 else 0)
def gateWord (g : Gate) : Nat := 1 + (if g.sbw then 2 else 0) + g.barrier % 16 * 4 + g.tile % 65536 * 65536

/-- Barrier images of a unit. -/
def State.barBytes (s : State) (u : BarUnit) : List Byte :=
  (s.bars u).zipIdx.flatMap (fun (b, n) => leBytes 32 (s.barRecord u n b))

/-- A panel record (R408). -/
def State.panelBytes (s : State) (core pslot : Nat) (p : Panel) : List Byte :=
  p.handles.toList.flatMap (fun h => leBytes 8 (handleWord h)) ++ leBytes 8 p.spc.toNat ++
    leBytes 8 (p.run.toNat + (if p.own || p.held.isSome then 4 else 0) + pslot * 8) ++ leBytes 8 p.efAddr.toNat ++
    leBytes 8 p.efCause.toNat ++ p.m.toList.flatMap (fun w => leBytes 8 w.toNat) ++
    padTo 64 ((p.gates.take 8).flatMap (fun g => leBytes 8 (gateWord g))) ++
    p.watches.toList.flatMap (fun w => leBytes 8 w.base.toNat ++ leBytes 8 w.ctl.toNat) ++ leBytes 96 0 ++
    s.barBytes (.panel core pslot)

/-- A frontier entry (R409). -/
def entryBytes (e : Entry) : List Byte :=
  let (wait, level, number, phase) : Nat × Nat × Nat × Nat := match e.wait with
    | .none => (0, 0, 0, 0)
    | .barrier l n p => (1, l, n, p.toNat)
    | .rtt => (2, 0, 0, 0)
    | .remote => (3, 0, 0, 0)
    | .again _ | .retry | .recheck _ => (4, 0, 0, 0)
  leBytes 8 e.pc.toNat ++ leBytes 2 e.prio.toNat ++ leBytes 2 e.mask.toNat ++
    leBytes 4 (1 + (if e.demoted then 2 else 0) + (if e.spinA then 4 else 0) + wait * 8 + level * 128 + number * 512) ++
    leBytes 8 phase ++ leBytes 8 e.spinPc.toNat ++ leBytes 8 e.spinF.toNat ++ leBytes 24 0

def bankBytes (b : TrapBank) : List Byte := [b.tcause, b.tpc, b.tval, b.tmask, b.tprio].flatMap (fun w => leBytes 8 w.toNat)

/-- The control word. -/
def Course.control (c : Course) : Nat :=
  c.level.val + (if c.sstep then 4 else 0) + (if c.stopped then 8 else 0) + c.entropy.toNat * 16 + c.fmode.toNat * 4096 +
    c.asyncOut % 65536 * 65536

/-- A course record (R409). -/
def State.courseBytes (s : State) (core slot : Nat) (c : Course) : List Byte :=
  let fr (l : Nat) : List Byte := padTo 1024 ((c.fr l).flatMap entryBytes)
  padTo 4096 (padTo 0xD00 (fr 0 ++ fr 1 ++ fr 2 ++ ([1, 3, 4, 5, 6, 7].flatMap (fun i => leBytes 8 (c.kreg[i]?.getD 0).toNat)) ++
    bankBytes c.tl1 ++ bankBytes c.tl2 ++ leBytes 8 c.control ++ c.bps.toList.flatMap (fun w => leBytes 8 w.toNat) ++
    leBytes 8 c.stopRec.toNat ++ leBytes 4 (s.causeOf c).toNat) ++ s.barBytes (.course core slot))

/-- The pending bits of a strand. -/
def Strand.pendBits (x : Strand) : Nat :=
  x.pending.foldl (fun m p => m ||| 2 ^ (match p with
    | .pos n => n - x.low
    | .v i => 64 + i
    | .p i => 72 + i
    | .k i => 80 + i)) 0

/-- A strand record (R410). -/
def strandBytes (x : Strand) : List Byte :=
  padTo 1536 (
    (List.range 64).flatMap (fun j => leBytes 8 (x.posGet (x.low + j)).toNat) ++ x.v.toList.flatMap (fun r => leBytes 64 r.bits.toNat) ++
      x.v.toList.flatMap (fun r => leBytes 8 r.exps.toNat) ++ x.v.toList.flatMap (fun r => leBytes 1 r.tag.toNat) ++
      leBytes 8 (x.p ||| 1).toNat ++ leBytes 8 x.k2.toNat ++ leBytes 8 x.fpstat.toNat ++
      [x.wb, x.low, x.depth, x.rstack.length].flatMap (fun n => leBytes 4 n) ++ leBytes 8 x.tscr1.toNat ++ leBytes 8 x.tscr2.toNat ++
      padTo 256 (x.rstack.flatMap (fun r => leBytes 8 r.pc.toNat ++ leBytes 8 (r.prio.toNat + r.n * 65536))) ++
      leBytes 16 x.pendBits)

def Engine.image (e : Engine) : List Byte := (List.range imageLines).flatMap e.imageLine

/-! ## Records from bytes, over what they do not hold -/

def handleOf (v : Nat) : Handle :=
  { tile := BitVec.ofNat 10 v, tag := BitVec.ofNat 5 (v / 2 ^ 10), bound := v.testBit 15, pending := v.testBit 16 }
def gateOf (v : Nat) : Option Gate :=
  if v.testBit 0 then some { sbw := v.testBit 1, barrier := bitsOf v 5 2, tile := bitsOf v 31 16 } else none

/-- An awaited-party record over a barrier (R346): of its parties, those that AWAITED does not name have arrived. -/
def Barrier.load (b : Barrier) (parties : List Nat) (v : Nat) : Barrier :=
  let here (i : Nat) : Bool := parties.contains i && !b.departed.contains i && !v.testBit i
  { b with arrived := b.arrived.filter here ++ parties.filter (fun i => here i && !b.arrived.contains i)
           expect := bitsOf v 95 64, phase := BitVec.ofNat 32 (bitsOf v 159 128), fcause := BitVec.ofNat 32 (bitsOf v 191 160),
           fstamp := BitVec.ofNat 48 (bitsOf v 255 208) }

/-- A field of n bytes as a word. -/
def wordAt (b : List Byte) (off : Nat) : Word := BitVec.ofNat 64 (hdField b off 8)

/-- A watchpoint as written: its range is translated then (R417). -/
def State.watchOf (s : State) (w : Who) (old : Watch) (base ctl : Word) : Watch :=
  if old.base == base && old.ctl == ctl then old else
  let ctl := ctl &&& 0x7EFFFFFFFF
  let n := bitsOf ctl.toNat 31 0
  { base, ctl, home := if ctl.getLsbD 38 then match s.homes w .load base (n / 128 + 2) n with | .ok l => l | .error _ => [] else [] }

/-- A panel record over a panel. OWN of a panel that waits to own its engine again is whether it does. -/
def State.panelLoad (s : State) (core i : Nat) (p : Panel) (b : List Byte) : Panel :=
  let w := s.skeinWho p.skein core none
  let parties := (s.panelCourses core i).map (fun (_, _, c) => c.f1) ++ [8]
  { p with
    held := if p.own then p.held else if (hdField b 0x88 1).testBit 2 then some (p.held.getD Engine.zero) else none
    handles := Vector.ofFn (fun i : Fin 16 => handleOf (hdField b (8 * i.val) 8))
    spc := wordAt b 0x80
    run := BitVec.ofNat 2 (hdField b 0x88 1)
    efAddr := wordAt b 0x90
    efCause := BitVec.ofNat 8 (hdField b 0x98 1)
    m := Vector.ofFn (fun i : Fin 16 => wordAt b (0xA0 + 8 * i.val))
    gates := (List.range 8).filterMap (fun i => gateOf (hdField b (0x120 + 8 * i) 8))
    watches := Vector.ofFn (fun i : Fin 4 =>
      s.watchOf w p.watches[i] (wordAt b (0x160 + 16 * i.val)) (wordAt b (0x168 + 16 * i.val)))
    barriers := Vector.ofFn (fun i : Fin 16 => p.barriers[i].load parties (hdField b (0x200 + 32 * i.val) 32)) }

/-- A frontier entry; one that reads as an entry that is already there is that entry. -/
def entryOf (old : List Entry) (b : List Byte) : Option Entry :=
  let v := hdField b 0xC 2
  if !v.testBit 0 then none else
  match old.find? (fun e => entryBytes e == b) with
  | some e => some e
  | none => some
      { pc := wordAt b 0, prio := BitVec.ofNat 16 (hdField b 8 2), mask := BitVec.ofNat 16 (hdField b 0xA 2), demoted := v.testBit 1,
        wait := match bitsOf v 6 3 with
          | 1 => .barrier (bitsOf v 8 7) (bitsOf v 12 9) (BitVec.ofNat 32 (hdField b 0x10 4))
          | 2 => .rtt
          | 3 => .remote
          | 4 => .retry
          | _ => .none
        spinPc := wordAt b 0x18, spinF := wordAt b 0x20, spinAcc := 0, spinA := v.testBit 2 }

/-- A trap bank; the reserved bits of TCAUSE, TMASK and TPRIO stay zero (R10, R396). -/
def bankOf (b : List Byte) (off : Nat) : TrapBank :=
  { tcause := wordAt b off &&& 0x1FFFFF, tpc := wordAt b (off + 8), tval := wordAt b (off + 16), tmask := wordAt b (off + 24) &&& 0xFFFF,
    tprio := wordAt b (off + 32) &&& 0xFFFF }

/-- A course record over a course; `now` is the course's current cause and `own` its skein's. -/
def Course.load (c : Course) (now own : Word32) (b : List Byte) : Course :=
  let fr (l : Nat) : List Entry := sortEntries ((List.range 16).filterMap (fun i =>
    entryOf (c.fr l) ((b.drop (1024 * l + 64 * i)).take 64)))
  let ctl := hdField b 0xC80 4
  let cause : Word32 := BitVec.ofNat 32 (hdField b 0xCB0 4)
  let k (i : Nat) : Word := wordAt b (0xC00 + 8 * i)
  { c with
    fr0 := fr 0, fr1 := fr 1, fr2 := fr 2
    kreg := #v[c.kreg[0], k 0, c.kreg[2], k 1, k 2, k 3, k 4, k 5]
    tl1 := bankOf b 0xC30
    tl2 := bankOf b 0xC58
    level := if h : ctl % 4 < 3 then ⟨ctl % 4, h⟩ else c.level
    sstep := ctl.testBit 2
    stopped := ctl.testBit 3
    entropy := BitVec.ofNat 8 (ctl / 16)
    fmode := BitVec.ofNat 2 (ctl / 4096)
    asyncOut := ctl / 65536
    bps := Vector.ofFn (fun i : Fin 4 => wordAt b (0xC88 + 8 * i.val) &&& 0x00FFFFFFFFFFFFCF)
    stopRec := wordAt b 0xCA8
    ccause := if cause == now then c.ccause else if cause == own then 0 else cause
    barriers := Vector.ofFn (fun i : Fin 4 => c.barriers[i].load (lanesOf c.present) (hdField b (0xD00 + 32 * i.val) 32)) }

/-- A strand record over a strand. -/
def Strand.load (x : Strand) (b : List Byte) : Strand :=
  let low := hdField b 0x464 4
  let pend := hdField b 0x580 16
  { x with
    stack := (List.range 64).foldl (fun m j => let v := wordAt b (8 * j); if v = 0 then m else kset m (low + j) v) []
    v := Vector.ofFn (fun i : Fin 8 =>
      { bits := BitVec.ofNat 512 (hdField b (0x200 + 64 * i.val) 64), tag := BitVec.ofNat 5 (hdField b (0x440 + i.val) 1),
        exps := wordAt b (0x400 + 8 * i.val) })
    p := BitVec.ofNat 8 (hdField b 0x448 1) &&& 0xFE
    k2 := wordAt b 0x450
    fpstat := BitVec.ofNat 5 (hdField b 0x458 1)
    wb := hdField b 0x460 4
    low
    depth := hdField b 0x468 4
    tscr1 := wordAt b 0x470
    tscr2 := wordAt b 0x478
    rstack := (List.range (min (hdField b 0x46C 4) 16)).map (fun i =>
      { pc := wordAt b (0x480 + 16 * i), prio := BitVec.ofNat 16 (hdField b (0x488 + 16 * i) 2), n := bitsOf (hdField b (0x488 + 16 * i) 4) 20 16 })
    pending := ((List.range 64).filter (fun i => pend.testBit i)).map (fun i => .pos (low + i)) ++
      ((List.range 8).filter (fun i => pend.testBit (64 + i))).map .v ++ ((List.range 8).filter (fun i => pend.testBit (72 + i))).map .p ++
      ((List.range 8).filter (fun i => pend.testBit (80 + i))).map .k }

/-- An engine image over an engine, as ACL loads it; none when its header fails (R334). -/
def Engine.ofImage (o : Engine) (b : List Byte) : Option Engine :=
  (Engine.ofHead (b.take 128)).map (fun e =>
    { e with
      digits := ((chunksOf 128 imageLines (b.drop 128)).zipIdx).foldl (fun m (l, i) =>
        (cellDigits e.g (i + 1) l).foldl (fun m (j, d) => kset m j d) m) []
      owner := o.owner, waiters := o.waiters, job := o.job, extract := o.extract })

/-! ## The parts of a save area, of a resident skein (R406) -/

/-- One part of a save area. -/
inductive ImgPart where
  | header | bars
  | panel (p : Nat)
  | course (p k : Nat)
  | strand (p k u : Nat)
  | engine (m : Nat)
  | granule (m j : Nat)
  deriving DecidableEq, Repr

def ImgPart.size : ImgPart → Nat
  | .header | .bars => 256
  | .panel _ => 1024
  | .course _ _ => 4096
  | .strand _ _ _ => 1536
  | .engine _ => 262272
  | .granule _ _ => 131072

def ImgPart.at_ (h : Header) : ImgPart → Nat
  | .header => 0
  | .bars => 256
  | .panel p => imgPanel p
  | .course p k => imgCourse h p k
  | .strand p k u => imgStrand h p k u
  | .engine m => imgEngine h m
  | .granule m j => imgGranule h m j

/-- Every part but the granules, in order. -/
def imgParts (h : Header) : List ImgPart :=
  let pk := (List.range h.panels).flatMap (fun p => (List.range h.courses).map (fun k => (p, k)))
  [.header, .bars] ++ (List.range h.panels).map .panel ++ pk.map (fun (p, k) => .course p k) ++
    pk.flatMap (fun (p, k) => (List.range 16).map (.strand p k)) ++ (List.range h.members).map .engine

/-- The part that holds an offset of the area. -/
def imgPartAt (h : Header) (off : Nat) : Option ImgPart :=
  let all := imgParts h ++ (List.range h.members).flatMap (fun m => (List.range (h.ugran + h.sgran)).map (.granule m))
  all.find? (fun x => x.at_ h ≤ off && off < x.at_ h + x.size)

/-- The engine of a member that a panel of the skein owns, or that it waits to own again. -/
def State.memberEngine (s : State) (sk core : Nat) : Option Engine :=
  (s.skeinPanels sk).findSome? (fun (c, _, p) =>
    if c != core then none else if p.held.isSome then p.held else if p.own then some (s.engine core) else none)

/-- The header (R407). -/
def State.headerBytes (s : State) (sk : Nat) (k : Skein) (v : Launch) : List Byte :=
  let granule (m j : Nat) (g : Nat) : Byte := BitVec.ofNat 8 (g % 16 + (if k.inImage.contains (m, j) then 16 else 0))
  leBytes 4 1 ++ leBytes 4 k.saveSlot ++ leBytes 4 k.cause.toNat ++ leBytes 4 v.cause.toNat ++ leBytes 8 v.hdr.shape.toNat ++
    leBytes 4 k.index ++ leBytes 4 0 ++ leBytes 8 k.stamp ++ leBytes 8 s.time.gt ++
    padTo 8 (k.cores.map (BitVec.ofNat 8)) ++ padTo 8 (k.cores.map (fun c => if (s.memberEngine sk c).isSome then 1 else 0)) ++
    padTo 128 ((k.granules.zipIdx).flatMap (fun (l, m) => padTo 16 ((l.zipIdx).map (fun (g, j) => granule m j g)))) ++ leBytes 64 0

/-- A part of a resident skein's state as its save area would hold it; a unit that has gone reads as zero. -/
def State.partBytes (s : State) (sk : Nat) (x : ImgPart) : List Byte :=
  match s.skein? sk, (s.skein? sk).bind (s.skeinLaunch) with
  | some k, some v => padTo x.size (match x with
      | .header => s.headerBytes sk k v
      | .bars => s.barBytes (.skein sk)
      | .panel p => (s.panelBy sk p).elim [] (fun (core, i, q) => s.panelBytes core i q)
      | .course p n => (s.courseBy sk p n).elim [] (fun (core, slot, c) => s.courseBytes core slot c)
      | .strand p n u => (s.courseBy sk p n).elim [] (fun (_, _, c) => strandBytes (c.st u))
      | .engine m => ((nth k.cores m).bind (s.memberEngine sk)).elim [] Engine.image
      | .granule m j => match nth k.cores m, (nth k.granules m).bind (nth · j) with
        | some core, some g => s.peekList (unitLoc core g 0) 131072
        | _, _ => [])
  | _, _ => List.replicate x.size 0

/-- The header over a resident skein (R407): its slot, causes, index and stamp; the rest of it describes the save. -/
def State.headerLoad (s : State) (sk : Nat) (b : List Byte) : State :=
  match s.skein? sk with
  | none => s
  | some k =>
    let s := s.modLaunch k.launch (fun v => { v with cause := BitVec.ofNat 32 (hdField b 0x0C 4) })
    s.setSkein sk { k with saveSlot := hdField b 0x04 4, cause := BitVec.ofNat 32 (hdField b 0x08 4), index := hdField b 0x18 4,
                           stamp := hdField b 0x20 8 }

/-- OWN of a resident panel: it takes its core's free engine, or leaves it. -/
def State.loadOwn (s : State) (core i : Nat) (own : Bool) : State :=
  match s.panel? core i with
  | none => s
  | some p =>
    if own && p.held.isSome && (s.engine core).owner.isNone then
      (s.setPanel core i { p with held := none }).acquireEngine core i
    else if !own && p.own then s.releaseEngine core
    else s

/-- Load a part over a resident skein's state. -/
def State.partLoad (s : State) (sk : Nat) (x : ImgPart) (b : List Byte) : State :=
  match x with
  | .header => s.headerLoad sk b
  | .bars =>
    let parties := (s.skeinPanels sk).map (fun (_, _, p) => p.f2)
    s.modSkein sk (fun k =>
      { k with barriers := Vector.ofFn (fun i : Fin 8 => k.barriers[i].load parties (hdField b (32 * i.val) 32)) })
  | .panel p => match s.panelBy sk p with
    | some (core, i, q) => s.setPanel core i (s.panelLoad core i q b)
    | none => s
  | .course p n => match s.courseBy sk p n with
    | some (core, slot, c) => s.setCourse core slot (c.load (s.causeOf c) (s.skeinCause sk) b)
    | none => s
  | .strand p n u => match s.courseBy sk p n with
    | some (core, slot, c) => s.setCourse core slot (c.modSt u (·.load b))
    | none => s
  | .engine m => match (s.skein? sk).bind (fun k => nth k.cores m) with
    | none => s
    | some core => match (s.skeinPanels sk).find? (fun (c, _, p) => c == core && (p.held.isSome || p.own)) with
      | none => s
      | some (_, i, p) => match p.held with
        | some e => s.setPanel core i { p with held := some ((e.ofImage b).getD e) }
        | none => s.modEngine core (fun e => (e.ofImage b).getD e)
  | .granule m j => match s.skein? sk with
    | none => s
    | some k => match nth k.cores m, (nth k.granules m).bind (nth · j) with
      | some core, some g => s.poke (unitLoc core g 0) b
      | _, _ => s

/-! ## SKEIN_SAVED (R403) -/

/-- An entry that had issued an instruction which is not complete issues it again (R403, R409). -/
def Entry.reissue (e : Entry) : Entry := match e.wait with
  | .again h => { e with wait := h.woken }
  | _ => e

/-- The save waits for the depth step or extraction that an engine of the skein has begun (R314), for every store and atomic of the skein
to be performed, remote ones too, and for the granules of its last restoration (R403, R405). -/
def State.savesLater (s : State) (sk : Nat) : Bool :=
  (s.skeinPanels sk).any (fun (core, i, _) => (s.engine core).owner == some i && s.engineBusy core) ||
    s.async.reqs.any (fun (_, r) => r.ended.isNone && (match r.kind with | .posted k _ _ => k == sk | _ => false)) ||
    s.async.ops.any (fun (_, o) => o.skein == some sk && (match o.kind with | .refill _ _ _ => true | _ => false))

/-- Everything that is on its way to the skein lands, what it parked on is forgotten, and each owned engine's state is set aside. -/
def State.settleSkein (s : State) (sk : Nat) : State :=
  let mine (core slot : Nat) : Bool := (s.course? core slot).elim false (fun c => c.skein == sk)
  let s := (s.async.data.filter (fun (_, d) => mine d.core d.slot)).foldl (fun s (i, d) => s.landDatum i d) s
  let stuck (core i : Nat) : Bool := s.async.faults.any (fun (_, q) => q.who == FaultWho.stream core i)
  let s := (s.skeinPanels sk).foldl (fun s (core, i, p) =>
    let owner := (s.engine core).owner == some i
    let e := s.engine core
    (p.image.elim s s.endOp).setPanel core i { p with
      image := none
      run := if stuck core i then 0 else p.run
      swait := match p.swait with | .barrier n ph => .barrier n ph | _ => .none
      held := if owner then some { e with owner := none, waiters := [] } else p.held }) s
  let s := { s with async := { s.async with faults := s.async.faults.filter (fun (_, q) => match q.who with
    | .course core slot _ => !mine core slot
    | .stream core i => (s.panel? core i).elim true (fun p => p.skein != sk)
    | _ => true) } }
  (s.skeinCourses sk).foldl (fun s (core, slot, c) => s.setCourse core slot
    { c with fr0 := c.fr0.map Entry.reissue, fr1 := c.fr1.map Entry.reissue, fr2 := c.fr2.map Entry.reissue, yielding := 0 }) s

/-- Write the parts of the save area, up to the first that faults. -/
def State.writeParts (s : State) (sk : Nat) (h : Header) : List ImgPart → Except XFail State
  | [] => .ok s
  | x :: t => match s.imgWrite sk (x.at_ h) (s.partBytes sk x) with
    | .error e => .error e
    | .ok s => State.writeParts s sk h t

/-- The skein's courses and panels leave their slots, its granules become saved in place, and its engines go to other panels. -/
def State.leaveCores (s : State) (sk : Nat) (k : Skein) : State :=
  let panels := s.skeinPanels sk
  let courses := s.skeinCourses sk
  let s := panels.foldl (fun s (core, i, _) => s.modEngine core (fun e => { e with waiters := e.waiters.erase i })) s
  let s := panels.foldl (fun s (core, i, _) => if (s.engine core).owner == some i then s.releaseEngine core else s) s
  let place (core m : Nat) (c : Core) : Core := match nth k.cores m, nth k.granules m with
    | some x, some l => if x == core then
        { c with granules := (l.zipIdx).foldl (fun gs (g, j) => kset gs g (.saved sk m j)) c.granules } else c
    | _, _ => c
  { s with
    cores := kmapVals s.cores (fun core c => (List.range k.cores.length).foldl (fun c m => place core m c) c)
    panels := s.panels.filter (fun (_, p) => p.skein != sk)
    courses := s.courses.filter (fun (_, c) => c.skein != sk)
    work := { s.work with skeins := kmod s.work.skeins sk (fun k =>
      { k with phase := .saved, inImage := [], stashP := panels.map (fun (_, _, p) => { p with own := false }),
               stashC := courses.map (fun (_, _, c) => c) }) } }

/-- SKEIN_SAVED (R403): once its engines have stopped, the skein's state is written to its slot and its cores are free. -/
def execSkeinSaved (skein : Nat) (s : State) : Host.Outcome State Fault Refusal :=
  match s.skein? skein, (s.skein? skein).bind (s.skeinLaunch) with
  | some k, some v =>
    if k.phase != .saving || s.savesLater skein then .next s else
    let s := s.settleSkein skein
    match s.writeParts skein v.hdr (imgParts v.hdr) with
    | .error _ => .next (s.kill v.ctx 6 { source := src 1 0, cause := k.cause, parent := k.parent })
    | .ok s =>
      let s := (s.leaveCores skein k).emit
        { source := src 1 0, type := 0xC5, cause := k.cause, parent := k.parent, ctx := v.ctx,
          payload := k.saveSlot % 2 ^ 32 + (s.time.gt - k.asked) % 2 ^ 48 * 2 ^ 48 }
      .next (s.wakeCastOn k.cores).newHead
  | _, _ => .next s

end Sys2Proof.Machine
end

