-- ==== Sys2Proof/Machine/Restore.lean ====
section
/-! DEFINITION. Granules at a commit: allocation, claims of saved granules, and the restoration of a saved skein (R85, R403, R405,
R411). A saved skein's bytes that have left their granule and are not yet in its image stand at a place of their own, above every granule. -/
namespace Sys2Proof.Machine

/-! ## Moving the bytes of granules -/

/-- A place for granule j of member m of a skein, outside every core. -/
def aside (sk m j : Nat) : Nat := 2560 * (1 + (sk * 8 + m) * 16 + j)

def inRange (base n a : Nat) : Bool := base ≤ a && a < base + n

/-- The unit address of the first byte of a granule. -/
def granuleBase (core g : Nat) : Nat := (unitLoc core g 0).addr

/-- A granule reads as zero, with every line present (R252). -/
def State.clearGranule (s : State) (base : Nat) : State :=
  let out (l : Loc) : Bool := !(l.store == .unit && inRange base 131072 l.addr)
  { s with mem := { s.mem with
      unit := s.mem.unit.filter (fun (a, _) => !inRange base 131072 a)
      absent := s.mem.absent.filter (fun (l, _) => out l)
      bad := s.mem.bad.filter out } }

/-- The bytes of a granule, with their conditions, move to another place. -/
def State.moveGranule (s : State) (src dst : Nat) : State :=
  let inSrc (l : Loc) : Bool := l.store == .unit && inRange src 131072 l.addr
  let to_ (l : Loc) : Loc := ⟨.unit, l.addr - src + dst⟩
  let bytes := s.mem.unit.filter (fun (a, _) => inRange src 131072 a)
  let marks := (s.mem.absent.filter (fun (l, _) => inSrc l)).map (fun (l, a) => (to_ l, a))
  let bads := (s.mem.bad.filter inSrc).map to_
  let s := (s.clearGranule src).clearGranule dst
  { s with mem := { s.mem with
      unit := bytes.foldl (fun m (a, b) => Memory.write m (a - src + dst) b) s.mem.unit
      absent := marks ++ s.mem.absent
      bad := bads ++ s.mem.bad } }

/-! ## Allocation (R85) -/

/-- Change where granule j of member m of a skein lies. -/
def State.setGranule (s : State) (sk m j g : Nat) : State :=
  s.modSkein sk (fun k => { k with granules := k.granules.set m (((nth k.granules m).getD []).set j g) })

/-- Saved granules of a core in the order in which they are claimed: the skein pre-empted longest ago first, then the highest number. -/
def State.claimable (s : State) (core : Nat) : List (Nat × Nat × Nat × Nat) :=
  let l := (s.core core).granules.filterMap (fun (g, x) => match x with | .saved v m j => some (g, v, m, j) | .held _ => none)
  let when_ (v : Nat) : Nat := (s.skein? v).elim 0 (·.asked)
  sortBy (fun (g, v, _, _) (g', v', _, _) =>
    if when_ v != when_ v' then when_ v < when_ v' else if v != v' then v < v' else g' ≤ g) l

/-- Take n granules of a core for a skein: the free ones in ascending number, then claims. A claimed granule's bytes are set aside until
they are copied to its victim's image. -/
def State.takeGranules (s : State) (sk core n : Nat) : State × List Nat :=
  let free := ((List.range 16).filter (fun g => (kget (s.core core).granules g).isNone)).take n
  let claims := (s.claimable core).take (n - free.length)
  let ctx := s.skeinCtx sk
  let cause := s.skeinCause sk
  let hold (s : State) (g : Nat) : State :=
    (s.modCore core (fun c => { c with granules := kset c.granules g (.held sk) })).clearGranule (granuleBase core g)
  let s := free.foldl hold s
  let s := claims.foldl (fun s (g, v, m, j) =>
    let s := s.moveGranule (granuleBase core g) (granuleBase core (aside v m j))
    let s := hold (s.setGranule v m j (aside v m j)) g
    s.modSkein v (fun k => { k with claims := k.claims ++ [{ claimant := sk, core, number := g, member := m, index := j, cause, ctx }] })) s
  (s, free ++ claims.map (·.1))

/-! ## Claims (R85, R403) -/

/-- A byte range of the skein's own spaces meets granule j of member m: unit-private on the member's core, or shared. -/
def rangeInGranule (h : Header) (own : Bool) (m j : Nat) (a : Word) (n : Nat) : Bool :=
  let o := offsetOf a
  if n == 0 then false
  else if spaceOf a == 0xE then own && j < h.ugran && overlap o n (j * 131072) 131072
  else if spaceOf a == 0xD then
    h.ugran ≤ j && overlap o n ((j - h.ugran) * 131072 * h.members) (131072 * h.members) &&
      ((List.range (min (n / 128 + 2) h.members)).any (fun i => (o / 128 + i) % h.members == m && o / 128 + i ≤ (o + n - 1) / 128))
  else false

/-- An accepted operation still writes into a granule of a saved skein: its destination ranges stand in a range-lock table. -/
def State.opsWrite (s : State) (sk m j : Nat) : Bool :=
  match s.skein? sk, s.skeinHdr sk with
  | some k, some h =>
    let all := s.cores.flatMap (fun (_, c) => kvals c.locks)
    all.any (fun x => x.dst && match s.op? x.op with
      | none => false
      | some o =>
        let mc : Bool := match o.kind with | .fetch _ _ _ _ _ _ _ mc => mc | _ => false
        o.skein == some sk && rangeInGranule h (mc || nth k.cores m == some o.core) m j x.base x.len)
  | _, _ => false

/-- Copy a claimed granule to its victim's image, where it stands from now on: GRANULE_CLAIM, or the victim's kill (R401). -/
def State.doClaim (s : State) (victim : Nat) (c : Claim) : State :=
  let s := s.modSkein victim (fun k => { k with claims := k.claims.filter (· != c) })
  match s.skein? victim, s.skeinHdr victim with
  | some v, some h =>
    let base := granuleBase c.core (aside victim c.member c.index)
    let at_ := 0x40 + 16 * c.member + c.index
    let wrote : Except XFail State := match s.imgWrite victim (imgGranule h c.member c.index) (s.peekList ⟨.unit, base⟩ 131072) with
      | .error e => .error e
      | .ok s => s.imgWrite victim at_ [BitVec.ofNat 8 (c.number % 16 + 16)]
    match wrote with
    | .error _ => s.kill (s.skeinCtx victim) 6 { source := src 1 0, cause := v.cause, parent := v.parent }
    | .ok s =>
      let marks := (List.range 1024).map (fun i => (⟨.unit, base + 128 * i⟩ : Loc))
      let poisoned := s.mem.absent.filter (fun (l, a) => l.store == .unit && inRange base 131072 l.addr && a == .poisoned)
      let s := s.clearGranule base
      let s := { s with mem := { s.mem with absent := poisoned ++
          (marks.filter (fun l => !poisoned.any (fun (p, _) => p == l))).map (fun l => (l, Absent.restore victim)) ++ s.mem.absent } }
      let s := s.modSkein victim (fun v => { v with inImage := v.inImage ++ [(c.member, c.index)] })
      s.emit { source := src 1 0, type := 0x46, cause := c.cause, parent := s.skeinParent c.claimant, ctx := c.ctx,
               payload := c.core + c.number % 16 * 2 ^ 8 + v.cause.toNat * 2 ^ 16 }
  | _, _ => s

/-- The claims that no operation holds up, with their victims. -/
def State.openClaims (s : State) : List (Nat × Claim) :=
  (s.work.skeins.flatMap (fun (i, k) => k.claims.map (fun c => (i, c)))).filter (fun (v, c) => !s.opsWrite v c.member c.index)

def State.doClaims (s : State) : State := s.openClaims.foldl (fun s (i, c) => s.doClaim i c) s

/-- Every claim on a skein that resumes is made now: its image is about to be read. -/
def State.settleClaims (s : State) (victim : Nat) : State :=
  ((s.skein? victim).elim [] (·.claims)).foldl (fun s c => s.doClaim victim c) s

/-! ## Panels and courses take their slots (R84, R317) -/

/-- The lowest free panel slot of a core. -/
def State.freePanelSlot (s : State) (core : Nat) : Nat :=
  ((List.range 4).find? (fun i => (s.panel? core i).isNone)).getD 0

/-- The lowest free course slot of the partition that holds the fewest courses. -/
def State.freeCourseSlot (s : State) (core : Nat) : Nat :=
  let free (i : Nat) : Bool := (s.course? core i).isNone
  let load (q : Nat) : Nat := ((List.range 4).filter (fun i => !free (4 * q + i))).length
  let q := (List.range 8).foldl (fun best q => if load q < load best then q else best) 0
  ((List.range 4).map (4 * q + ·)).find? free |>.getD 0

/-- Put a panel and its courses, given without slots, on a core. -/
def State.putPanel (s : State) (core : Nat) (p : Panel) (courses : List Course) : State :=
  let i := s.freePanelSlot core
  let p := { p with held := p.held.map (fun e => { e with job := e.job.map (fun j => { j with pslot := i }) }) }
  let s := s.setPanel core i p
  courses.foldl (fun s c =>
    let slot := s.freeCourseSlot core
    s.setCourse core slot { c with pslot := i }) s

/-! ## Restoration (R405, R411) -/

/-- The granules of a saved skein, by member and index, with their place. -/
def Skein.places (k : Skein) : List (Nat × Nat × Nat) := (k.granules.zipIdx).flatMap (fun (l, m) => (l.zipIdx).map (fun (g, j) => (m, j, g)))

/-- Granules still in place on the same core are taken back, in number. -/
def State.takeBack (s : State) (sk : Nat) (k : Skein) (cores : List Nat) : State × Nat :=
  let back := k.places.filter (fun (m, _, g) => g < 16 && nth k.cores m == nth cores m)
  (back.foldl (fun s (m, _, g) => match nth k.cores m with
    | some core => s.modCore core (fun c => { c with granules := kset c.granules g (.held sk) })
    | none => s) s, back.length)

/-- The granules that a resumed skein did not take back in place, with the granule each goes to. New ones are taken member by member. -/
def State.takeAnew (s : State) (sk : Nat) (k : Skein) (cores : List Nat) : State × List (Nat × Nat × Nat × Nat) :=
  (cores.zipIdx).foldl (fun (acc : State × List (Nat × Nat × Nat × Nat)) (x : Nat × Nat) =>
    let (core, m) := x
    let out := k.places.filter (fun (i, _, g) => i == m && !(g < 16 && nth k.cores m == some core))
    let (s, got) := acc.1.takeGranules sk core out.length
    (s, acc.2 ++ (out.zip got).map (fun ((_, j, _), g) => (m, j, core, g)))) (s, [])

/-- A granule of a resumed skein moves to its new place: every line of it awaits its restoration, which an operation of its own makes
(R405). Until it is done the old granule is still the skein's. -/
def State.beginRefill (s : State) (sk : Nat) (h : Header) (m j core g : Nat) : State :=
  match s.skein? sk with
  | none => s
  | some k =>
    let old := (nth k.cores m).getD 0
    let place := (nth ((nth k.granules m).getD []) j).getD 0
    let src := granuleBase old place
    let dst := granuleBase core g
    let s := if place < 16 then s.modCore old (fun c => { c with granules := kset c.granules place (.held sk) }) else s
    let mine (l : Loc) : Bool := l.store == .unit && inRange src 131072 l.addr
    let lines := (List.range 1024).map (fun i => ((⟨.unit, dst + 128 * i⟩ : Loc), Absent.restore sk))
    let s := { s with mem := { s.mem with absent := lines ++ s.mem.absent.filter (fun (l, a) => !(mine l && a == Absent.restore sk)) } }
    let (id, s) := s.newId
    let o : Op :=
      { kind := .refill src dst (if k.inImage.contains (m, j) then some (imgGranule h m j) else none), ctx := s.skeinCtx sk,
        launch := some k.launch, skein := some sk, issuer := .device, core, cause := k.cause, parent := k.parent, signal := none, cursor := 0,
        started := s.time.gt, moved := 0, doneAt := 0, waiting := false, fault := none }
    (s.setGranule sk m j g).setOp id o

/-- The granules of a resumed skein on its new cores (R405); answers how many were taken in place and how many are restored. A granule that
the skein claims from itself is in its image at once. -/
def State.restoreGranules (s : State) (sk : Nat) (h : Header) (k : Skein) (cores : List Nat) : State × Nat × Nat :=
  let (s, kept) := s.takeBack sk k cores
  let (s, new) := s.takeAnew sk k cores
  let s := s.settleClaims sk
  (new.foldl (fun s (m, j, core, g) => s.beginRefill sk h m j core g) s, kept, new.length)

/-- Where a core of a skein that is saved is now. -/
def newCore (old new : List Nat) (c : Nat) : Nat := ((old.idxOf? c).bind (nth new)).getD c

/-- A RES word whose RUNIT is a core, after the core has changed (R265). -/
def followRes (to_ : Nat → Nat) (r : Word) : Word :=
  let n := r.toNat
  if bitsOf n 1 0 == 1 || bitsOf n 1 0 == 2 then BitVec.ofNat 64 (replaceBytes n 2 1 (to_ (bitsOf n 23 16))) else r

/-- The skein's operations and armed entries follow their core to its new place. -/
def State.followCores (s : State) (sk : Nat) (old new : List Nat) : State :=
  let to_ := newCore old new
  let kind (k : OpKind) : OpKind := match k with
    | .fetch p h t res base size n mc => .fetch p h t (followRes to_ res) base size n mc
    | .evict t res size drop => .evict t (followRes to_ res) size drop
    | k => k
  let arm (a : Armed) : Armed := if a.skein == some sk then { a with core := to_ a.core } else a
  let op (o : Op) : Op := if o.skein == some sk then { o with core := to_ o.core, kind := kind o.kind } else o
  { s with async := { s.async with
      ops := kmapVals s.async.ops (fun _ o => op o)
      counters := kmapVals s.async.counters (fun _ c => { c with armed := c.armed.map arm }) } }

/-- Load every part of a save area but its header and granules. -/
def State.readParts (s : State) (sk : Nat) (h : Header) : List ImgPart → Except XFail State
  | [] => .ok s
  | x :: t => match s.imgRead sk (x.at_ h) x.size with
    | .error e => .error e
    | .ok b => State.readParts (s.partLoad sk x b) sk h t

/-- A panel that owned its core's engine owns the new one, or waits for it. -/
def State.regainEngines (s : State) (sk : Nat) : State :=
  (s.skeinPanels sk).foldl (fun s (core, i, p) =>
    if p.held.isNone then s
    else if (s.engine core).owner.isNone then (s.modEngine core Engine.cleared).acquireEngine core i
    else s.queueEngine core i) s

/-- What the skein missed while it was saved: remote replies and phases of launch barriers (R404). -/
def State.catchUp (s : State) (sk : Nat) : State :=
  let l := (s.skeinCourses sk).map (fun (_, _, c) => (c.f2, c.f1))
  let s := l.foldl (fun s (p, n) => s.fldFinish sk p n) s
  match (s.skein? sk).map (·.launch) with
  | none => s
  | some id => (List.range 4).foldl (fun s n => match s.bar? (.launch id) n with
    | some b => s.releaseBar (.launch id) n b.phase
    | none => s) s

/-- The PREEMPT trap of each resumed course at level 0 (R411). -/
def State.notifyResumed (s : State) (sk origin : Nat) : State :=
  match (s.trapTable (s.skeinWho sk 0 none)).map (·.rnotify) with
  | some true => (s.skeinCourses sk).foldl (fun s (core, slot, c) =>
      if c.level.val == 0 && c.present != 0 then
        s.takeTrap core slot none
          { t := { cause := Cause.preempt, detail := 0, tval := BitVec.ofNat 64 origin }, mask := c.present, pc := c.headPc,
            prio := (c.front.head?).elim 0 (·.prio), async := true }
      else s) s
  | _ => s

/-- A tile of a resumed skein that is resident in its granules names their new core (R265). -/
def State.followTile (s : State) (launch tile : Nat) (to_ : Nat → Nat) : State :=
  match s.readTile launch tile with
  | .error _ => s
  | .ok t =>
    if t.where_ == 1 || t.where_ == 2 then s.setTile t 0x22 1 (to_ t.runit) else s

def State.followTiles (s : State) (sk : Nat) (old new : List Nat) : State :=
  let to_ := newCore old new
  (s.async.dir.filter (fun d => d.skein == some sk)).foldl (fun s d => s.followTile d.launch d.tile to_) s

/-- A resumed skein takes its cores (R405). A fault in its save area kills the context as a fault writing one does (R401). -/
def State.restoreSkein (s : State) (sk : Nat) (h : Header) (cores : List Nat) : State :=
  let s := s.settleClaims sk
  match s.skein? sk with
  | none => s
  | some k =>
    let dead (s : State) : State := s.kill (s.skeinCtx sk) 6 { source := src 1 0, cause := k.cause, parent := k.parent }
    let (s, kept, filled) := s.restoreGranules sk h k cores
    match s.skein? sk with
    | none => s
    | some _ =>
    let s := s.modSkein sk (fun k => { k with phase := .placed, cores, inImage := [], stashP := [], stashC := [] })
    let s := (s.followCores sk k.cores cores).followTiles sk k.cores cores
    let s := k.stashP.foldl (fun s p => s.putPanel ((nth cores (p.f2 % max h.members 1)).getD 0) p
      (k.stashC.filter (fun c => c.f2 == p.f2))) s
    match s.readParts sk h ((imgParts h).drop 1) with
    | .error _ => dead s
    | .ok s =>
      let s := s.regainEngines sk
      let s := s.emit { source := src 1 0, type := 0xC6, cause := k.cause, parent := k.parent, ctx := s.skeinCtx sk,
                        payload := k.saveSlot % 2 ^ 32 + kept % 2 ^ 8 * 2 ^ 32 + filled % 2 ^ 8 * 2 ^ 40 }
      (s.catchUp sk).notifyResumed sk ((k.cores.head?).getD 0)

end Sys2Proof.Machine
end

