-- ==== Sys2Proof/Machine/System.lean ====
section
/-! DEFINITION. The system and debug instructions of class 0xC (R400, R414, R415, R422 to R430). -/
namespace Sys2Proof.Machine

/-- Whether a skein is attached (R413). -/
def State.attachedTo (s : State) (sk : Nat) : Bool := (s.skein? sk).elim false (·.attached)

/-! ## TRAP, BKPT and HALT (R415, R423) -/

/-- TRAP: BREAK for every executing strand; no debugger intercepts it. -/
def execTrap (f : Gen) (s : State) : Host.Outcome State Fault Refusal :=
  runCourse s (.trap f) false [] (fun I s =>
    (s, .error (Trp.stop Cause.brk 0x02 (BitVec.ofNat 64 (bitsOf f.imm.toNat 15 0)), maskOf I.lanes)))

/-- The course of an attached skein that BKPT or HALT stops now: its head entry executes it and the one-time pass does not let it
through: that pass is a resumption's, not an RTT's. -/
def State.breaksAt (s : State) (i : Instr) : Option (Nat × Nat × Course × Word) :=
  match s.focus with
  | .course core slot =>
    match s.course? core slot, i.form false with
    | some c, some f => match headEntry c.front with
      | some E =>
        if s.attachedTo c.skein && !(guardLanes c E f.c.guard).isEmpty && !(c.resumed && c.passAt == some E.pc) then some (core, slot, c, E.pc)
        else none
      | none => none
    | _, _ => none
  | _ => none

/-- BKPT and HALT: a stop of an attached skein before the instruction; else BREAK; the one-time pass completes it with no effect. -/
def runBreak (s : State) (i : Instr) (reason : Byte) (tval : State → Word × State) (detail : Byte) : Host.Outcome State Fault Refusal :=
  match s.breaksAt i with
  | some (core, slot, c, pc) =>
    .next (s.debugStop c.skein { reason, core := BitVec.ofNat 8 core, slot := BitVec.ofNat 5 slot, pc } (some (core, slot)))
  | none => runCourse s i false [] (fun I s =>
    if s.attachedTo I.c.skein then (s, .ok { s })
    else
      let (v, s) := tval s
      (s, .error (Trp.stop Cause.brk detail v, maskOf I.lanes)))

/-- BKPT. -/
def execBkpt (f : Gen) (s : State) : Host.Outcome State Fault Refusal :=
  runBreak s (.bkpt f) 0x01 (fun s => (BitVec.ofNat 64 (bitsOf f.imm.toNat 15 0), s)) 0x01

/-- HALT; the spec gives its BREAK no TVAL, so that is a free value. -/
def execHalt (f : Gen) (s : State) : Host.Outcome State Fault Refusal := runBreak s (.halt f) 0x04 State.freshWord 0x04

/-- PRIV with detail 0x05; the spec gives it no TVAL, so that is a free value. -/
def State.trapLevelStop (s : State) (m : BitVec 16) : Ran :=
  let (v, s) := s.freshWord
  (s, .error (Trp.stop Cause.priv 0x05 v, m))

/-! ## RTT (R400, R424, R456) -/

/-- RTT: the level pops when the entry holds every strand of the level; an entry that holds fewer waits, once every strand in it
executes the RTT. -/
def execRtt (f : Gen) (s : State) : Host.Outcome State Fault Refusal :=
  runCourse s (.rtt f) false [] (fun I s =>
    if I.c.level.val == 0 then s.trapLevelStop (maskOf I.lanes)
    else if maskOf I.lanes != I.E.mask then (s, .ok { s, jumps := I.lanes.map (fun i => (i, I.E.pc, I.E.prio)) })
    else if I.E.mask != I.c.levelMask then (s, .ok { s, wait := some .rtt })
    else
      let b := I.c.bank
      let ret (s : State) : Ran := (s, .ok { s := s.popLevel I.core I.slot I.E.mask, popped := true })
      match s.checkTarget I.core I.w false b.tpc with
        | (s, some e) => (s, .error (e, maskOf I.lanes))
        | (s, none) => ret s)

/-! ## SRD and SWR (R425) -/

/-- The system registers of R425. -/
inductive SysReg where
  | fpstat | tlevel | ccause | cflag
  | bank (level : Nat) (i : Fin 6)
  | bp (i : Fin 4)
  deriving DecidableEq, Repr

/-- The register a SEL names, none when it is reserved. -/
def sysReg (sel : Nat) : Option SysReg :=
  if sel == 0 then some .fpstat else if sel == 1 then some .tlevel else if sel == 2 then some .ccause
  else if sel == 3 then some .cflag
  else if h : 0x10 ≤ sel ∧ sel < 0x16 then some (.bank 1 ⟨sel - 0x10, by omega⟩)
  else if h : 0x20 ≤ sel ∧ sel < 0x26 then some (.bank 2 ⟨sel - 0x20, by omega⟩)
  else if h : 0x30 ≤ sel ∧ sel < 0x34 then some (.bp ⟨sel - 0x30, by omega⟩)
  else none

/-- TLEVEL, CCAUSE, TVAL and TMASK are read only. -/
def SysReg.readOnly : SysReg → Bool
  | .tlevel | .ccause => true
  | .bank _ i => i.val == 2 || i.val == 3
  | _ => false

/-- A bank register above the current level is refused. -/
def SysReg.above (r : SysReg) (level : Nat) : Bool :=
  match r with
  | .bank l _ => decide (level < l)
  | _ => false

/-- Held per strand: FPSTAT and TSCR. -/
def SysReg.perStrand : SysReg → Bool
  | .fpstat => true
  | .bank _ i => i.val == 5
  | _ => false

def TrapBank.reg (b : TrapBank) : Nat → Word
  | 0 => b.tcause
  | 1 => b.tpc
  | 2 => b.tval
  | 3 => b.tmask
  | _ => b.tprio

/-- Software writes SEXIT, TPC and TPRIO only (R396). -/
def TrapBank.setReg (b : TrapBank) (i : Nat) (v : Word) : TrapBank :=
  match i with
  | 0 => { b with tcause := b.tcause &&& ~~~0x100000 ||| v &&& 0x100000 }
  | 1 => { b with tpc := v }
  | 4 => { b with tprio := v &&& 0xFFFF }
  | _ => b

/-- BP0 to BP3 without their reserved bits (R10, R414). -/
def bpValue (v : Word) : Word := v &&& 0x00FFFFFFFFFFFFCF

/-- A system register as one strand reads it. -/
def Course.sysGet (c : Course) (cause : Word32) (lane : Nat) : SysReg → Word
  | .fpstat => (c.st lane).fpstat.setWidth 64
  | .tlevel => BitVec.ofNat 64 c.level.val
  | .ccause => cause.setWidth 64
  | .cflag => if c.sstep then 1 else 0
  | .bank l i =>
    if i.val == 5 then (if l == 1 then (c.st lane).tscr1 else (c.st lane).tscr2)
    else (if l == 1 then c.tl1 else c.tl2).reg i.val
  | .bp i => c.bps[i]

/-- A system register written for one strand. -/
def Course.sysSet (c : Course) (lane : Nat) (v : Word) : SysReg → Course
  | .fpstat => c.modSt lane (fun x => { x with fpstat := v.setWidth 5 })
  | .cflag => { c with sstep := v.getLsbD 0 }
  | .bank l i =>
    if i.val == 5 then c.modSt lane (fun x => if l == 1 then { x with tscr1 := v } else { x with tscr2 := v })
    else if l == 1 then { c with tl1 := c.tl1.setReg i.val v } else { c with tl2 := c.tl2.setReg i.val v }
  | .bp i => { c with bps := c.bps.set i (bpValue v) }
  | _ => c

/-- SRD: issued once, each executing strand receiving its own copy. -/
def execSrd (f : Gen) (s : State) : Host.Outcome State Fault Refusal :=
  runCourse s (.srd f) false [] (fun I s =>
    match sysReg (bitsOf f.imm.toNat 7 0) with
    | none => (s, .error (illegalStop (encode (.srd f)) 0x03 0, I.E.mask))
    | some r =>
      if r.above I.c.level.val then s.trapLevelStop (maskOf I.lanes) else
      let rs := I.lanes.map (fun i => (i, Res.word f.dst (I.c.sysGet (s.causeOf I.c) i r)))
      (s, match ({ I with uni := false }).store s rs with
        | .error e => .error e
        | .ok s => .ok { s }))

/-- SWR: a register held per course takes one value (R141). -/
def execSwr (f : Gen) (s : State) : Host.Outcome State Fault Refusal :=
  runCourse s (.swr f) false [] (fun I s =>
    match sysReg (bitsOf f.imm.toNat 7 0) with
    | none => (s, .error (illegalStop (encode (.swr f)) 0x03 0, I.E.mask))
    | some r =>
      if r.readOnly then (s, .error (illegalStop (encode (.swr f)) 0x03 0, I.E.mask))
      else if r.above I.c.level.val then s.trapLevelStop (maskOf I.lanes)
      else match if r.perStrand then none else I.differs [f.sa] with
        | some e => (s, .error e)
        | none =>
          let val (i : Nat) : Word := I.c.read (if I.uni then I.leader else i) f.sa
          (s, .ok { s := s.modCourse I.core I.slot (fun c => I.lanes.foldl (fun c i => c.sysSet i (val i) r) c) }))

/-! ## ICINV (R426) -/

/-- The cores of a scope: the core, the skein's members, every core holding a skein of the launch, every core. -/
def State.icScope (s : State) (I : Iss) : Nat → List Nat
  | 0 => [I.core]
  | 1 => (s.skein? I.c.skein).elim [] (·.cores)
  | 2 => (s.work.skeins.filter (fun (_, k) => some k.launch == s.launchId I.c && (k.phase == .placed || k.phase == .saving))).flatMap (fun (_, k) => k.cores)
  | _ => kkeys s.cores

/-- ICINV; the invalidation has completed throughout its scope when the instruction completes (R128). -/
def execIcinv (f : Gen) (s : State) : Host.Outcome State Fault Refusal :=
  runCourse s (.icinv f) false [f.sa, f.sb] (fun I s =>
    let a := I.c.read I.leader f.sa
    let n := (I.c.read I.leader f.sb).toNat
    (s, if a.toNat % 64 != 0 then .error (Trp.stop Cause.align 0 a, maskOf I.lanes)
      else if n == 0 || n % 64 != 0 || 2 ^ 32 ≤ n then .error (illegalStop (encode (.icinv f)) 0x03 58, I.E.mask)
      else .ok { s := (s.icScope I (bitsOf f.mod.toNat 1 0)).foldl (fun s k => s.icDrop k I.w.ctx a n) s }))

/-! ## EVT, CAUS, GLCH and KILL (R427 to R429) -/

/-- EVT: one user event per executing strand, or one when uniform. -/
def execEvt (f : Gen) (s : State) : Host.Outcome State Fault Refusal :=
  runCourse s (.evt f) false [] (fun I s =>
    (s, .ok { s := I.runs.foldl (fun s i =>
      let e := { s.courseEv I.core I.slot I.c (0xE0 + bitsOf f.imm.toNat 3 0)
          ((I.c.read i f.sa).toNat + (I.c.read i f.sb).toNat % 2 ^ 32 * 2 ^ 64) with priv := true }
      let s := match s.launchId I.c, (s.launchOf I.c).elim false (·.hdr.trctl.getLsbD 17) with
        | some l, true => s.traceEv l e
        | _, _ => s
      if f.mod.getLsbD 0 then s.emit e else s) s }))

/-- CAUS: the current cause; 0 restores the skein's. Its parent is the skein (R67). -/
def execCaus (f : Gen) (s : State) : Host.Outcome State Fault Refusal :=
  runCourse s (.caus f) false [f.sa] (fun I s =>
    let v : Word32 := (I.c.read I.leader f.sa).setWidth 32
    let p : Word32 := if v == 0 then 0 else s.skeinCause I.c.skein
    (s, .ok { s := s.modCourse I.core I.slot (fun c => { c with ccause := v, cparent := p }) }))

/-- CAUS.new: a new cause, whose parent is the current one. -/
def execCausNew (f : Gen) (s : State) : Host.Outcome State Fault Refusal :=
  runCourse s (.causNew f) false [] (fun I s =>
    let parent := s.causeOf I.c
    let (cause, s) := s.newCause (coreTaker I.core)
    let s := (I.give s f.dst (cause.setWidth 64)).modCourse I.core I.slot (fun c => { c with ccause := cause, cparent := parent })
    let ev := s.courseEv I.core I.slot I.c 0xCB 0
    (s, .ok { s := s.emit { ev with priv := true, cause, parent } }))

/-- GLCH: one pull of the snapshot trigger. -/
def execGlch (f : Gen) (s : State) : Host.Outcome State Fault Refusal :=
  runCourse s (.glch f) false [] (fun I s =>
    (s, .ok { s := s.pullTrigger (BitVec.ofNat 16 (bitsOf f.imm.toNat 15 0)) 1 }))

/-- KILL: the issuing context, at any level. -/
def execKill (f : Gen) (s : State) : Host.Outcome State Fault Refusal :=
  runCourse s (.kill f) false [] (fun I s =>
    let k : KillInfo :=
      { source := partSrc I.core I.slot, cause := s.causeOf I.c, parent := s.parentOf I.c, level := I.c.level.val, core := I.core,
        slot := I.slot, tpc := I.E.pc, tmask := maskOf I.lanes, code := BitVec.ofNat 16 (bitsOf f.imm.toNat 15 0) }
    (s, .ok { s := s.kill I.w.ctx 2 k }))

end Sys2Proof.Machine
end

