-- ==== Sys2Proof/Machine/Debug.lean ====
section
/-! DEFINITION. The debug channel: attachment, stops, steps, reads and writes of the save records, and the trigger (R413 to R420,
R452 to R454). -/
namespace Sys2Proof.Machine

/-- The status of a command, with the bytes it answers (R413). -/
def State.reply (s : State) (ok : Bool) (b : List Byte) : State :=
  { s with dbg := { s.dbg with replies := s.dbg.replies ++ [(ok, b)] } }

/-! ## ATTACH and DETACH -/

/-- ATTACH: a skein, or a kernel node that has not started (R452). -/
def execAttach (target : AttachTarget) (s : State) : Host.Outcome State Fault Refusal :=
  match target with
  | .skein id => match s.skein? id with
    | some k => .next ((s.setSkein id { k with attached := true }).reply true [])
    | none => .next (s.reply false [])
  | .node ctx gbase index =>
    .next ({ s with dbg := { s.dbg with attachNodes := s.dbg.attachNodes ++ [(ctx, gbase, index)] } }.reply true [])

/-- DETACH. -/
def execDetach (skein : Nat) (s : State) : Host.Outcome State Fault Refusal :=
  match s.skein? skein with
  | some k => .next ((s.setSkein skein { k with attached := false }).reply k.attached [])
  | none => .next (s.reply false [])

/-! ## STOP, RESUME and steps -/

/-- STOP: an attached resident skein, reason 0x05. -/
def execStop (skein : Nat) (s : State) : Host.Outcome State Fault Refusal :=
  match s.skein? skein with
  | some k =>
    if !k.attached || k.phase != .placed || k.stopped then .next (s.reply false [])
    else .next ((s.debugStop skein { reason := 5, core := 0, slot := 0, pc := 0 } none).reply true [])
  | none => .next (s.reply false [])

/-- A course goes on, with the one-time pass at its head entry's PC (R414, R415); one whose state a debugger has changed leaves its parks
(R399). -/
def Course.goOn (c : Course) : Course :=
  let c := if c.touched then c.rouse (fun h => h == .parked) else c
  { c with stopped := false, passAt := some c.headPc, resumed := true, touched := false }

/-- RESUME: every course and sequencer of a stopped skein. -/
def execResume (skein : Nat) (s : State) : Host.Outcome State Fault Refusal :=
  match s.skein? skein with
  | some k =>
    if !k.stopped then .next (s.reply false []) else
    let s := if s.stepsSkein skein then { s with dbg := { s.dbg with stepping := none } } else s
    let s := (s.skeinCourses skein).foldl (fun s (core, slot, c) => s.setCourse core slot c.goOn) s
    let s := (s.skeinPanels skein).foldl (fun s (core, i, p) => s.setPanel core i { p with stopped := false }) s
    let s := s.modSkein skein (fun k =>
      { k with stopped := false, stashP := k.stashP.map (fun p => { p with stopped := false }), stashC := k.stashC.map Course.goOn })
    .next (s.reply true [])
  | none => .next (s.reply false [])

/-- A panel or course of a stopped resident skein may be stepped. -/
def State.mayStep (s : State) (sk : Nat) : Bool :=
  (s.skein? sk).elim false (fun k => k.stopped && k.phase == .placed) && s.dbg.stepping.isNone

/-- STEP.COURSE (R418): the course issues its next instruction, while everything else stays frozen. -/
def execStepCourse (core slot : Nat) (s : State) : Host.Outcome State Fault Refusal :=
  match s.course? core slot with
  | some c =>
    if !s.mayStep c.skein || c.orphan.isSome then .next (s.reply false []) else
    let s := s.setCourse core slot c.goOn
    .next ({ s with dbg := { s.dbg with stepping := some (core, c.pslot, some slot) } }.reply true [])
  | none => .next (s.reply false [])

/-- STEP.PHASE (R418): the courses and the sequencer of one panel run. -/
def execStepPhase (core pslot : Nat) (s : State) : Host.Outcome State Fault Refusal :=
  match s.panel? core pslot with
  | some p =>
    if !s.mayStep p.skein then .next (s.reply false []) else
    let s := (s.panelCourses core pslot).foldl (fun s (_, slot, c) => s.setCourse core slot c.goOn) s
    let s := s.modPanel core pslot (fun p => { p with stopped := false })
    .next ({ s with dbg := { s.dbg with stepping := some (core, pslot, none) } }.reply true [])
  | none => .next (s.reply false [])

/-- Every entry of a course waits at a barrier or for the others to return, or none is left. -/
def Course.atBarrier (c : Course) : Bool :=
  c.front.all (fun e => match e.wait with | .barrier _ _ _ | .rtt => true | _ => false)

/-- A sequencer that runs no further: it has none, has ended or trapped, or waits at a barrier. -/
def Panel.atBarrier (p : Panel) : Bool := !p.hasStream || p.run != 0 || (match p.swait with | .barrier _ _ => true | _ => false)

/-- The step in progress has come to its end: the course has issued (and is stopped again) or cannot, or the panel waits as a whole. -/
def State.stepOver (s : State) : Bool :=
  match s.dbg.stepping with
  | none => false
  | some (core, _, some slot) => (s.course? core slot).elim true (fun c => c.stopped || c.atBarrier)
  | some (core, i, none) => (s.panel? core i).elim true Panel.atBarrier && (s.panelCourses core i).all (fun (_, _, c) => c.atBarrier)

/-- DEBUG_STOP (R416): a hit in an attached skein, or the end of a step with reason 0x06. -/
def execDebugStop (skein : Nat) (hit : StopHit) (s : State) : Host.Outcome State Fault Refusal :=
  match s.skein? skein with
  | none => .next s
  | some k =>
    if k.phase != .placed then .next s
    else if hit.reason == 6 then .next (if s.stepsSkein skein && s.stepOver then s.debugStop skein hit none else s)
    else if !k.attached then .next s
    else .next (s.debugStop skein hit (if hit.pc == 0 then none else some (hit.core.toNat, hit.slot.toNat)))

/-! ## READ and WRITE (R413) -/

/-- A part of a stopped skein's save records: of the skein where it runs, or in its save area. -/
def State.partNow (s : State) (sk : Nat) (h : Header) (x : ImgPart) : List Byte :=
  if s.isSaved sk then match s.imgRead sk (x.at_ h) x.size with
    | .ok b => b
    | .error _ => List.replicate x.size 0
  else s.partBytes sk x

/-- Bytes of the records from an offset, part by part. -/
def State.recordRead (s : State) (sk : Nat) (h : Header) : Nat → Nat → Nat → Option (List Byte)
  | 0, _, _ => none
  | f + 1, off, len =>
    if len == 0 then some [] else
    match imgPartAt h off with
    | none => none
    | some x =>
      let o := off - x.at_ h
      let n := min len (x.size - o)
      (State.recordRead s sk h f (off + n) (len - n)).map (fun t => ((s.partNow sk h x).drop o).take n ++ t)

/-- A debugger has changed a part of a resident skein: the course it belongs to, or every course for a part that several share. -/
def State.touch (s : State) (sk : Nat) (x : ImgPart) : State :=
  let mine (c : Course) : Bool := match x with
    | .course p k => c.f2 == p && c.f1 == k
    | .strand p k _ => c.f2 == p && c.f1 == k
    | .panel p => c.f2 == p
    | _ => true
  (s.skeinCourses sk).foldl (fun s (core, slot, c) => if mine c then s.modCourse core slot (fun c => { c with touched := true }) else s) s

/-- A part of a resident skein's state is written (R413). -/
def State.partWrite (s : State) (sk : Nat) (x : ImgPart) (b : List Byte) : State :=
  let s := (s.partLoad sk x b).touch sk x
  match x with
  | .panel p => match s.panelBy sk p with
    | some (core, i, _) => s.loadOwn core i ((hdField b 0x88 1).testBit 2)
    | none => s
  | _ => s

/-- Bytes over the records from an offset. -/
def State.recordWrite (s : State) (sk : Nat) (h : Header) : Nat → Nat → List Byte → Option State
  | 0, _, _ => none
  | f + 1, off, b =>
    if b.isEmpty then some s else
    match imgPartAt h off with
    | none => none
    | some x =>
      let o := off - x.at_ h
      let n := min b.length (x.size - o)
      let old := s.partNow sk h x
      let new := old.take o ++ b.take n ++ old.drop (o + n)
      let s1 : Option State := if s.isSaved sk then match s.imgWrite sk (x.at_ h) new with
          | .ok s => some s
          | .error _ => none
        else some (s.partWrite sk x new)
      s1.bind (fun s => State.recordWrite s sk h f (off + n) (b.drop n))

/-- READ. -/
def execDebugRead (skein off len : Nat) (s : State) : Host.Outcome State Fault Refusal :=
  match s.skein? skein, s.skeinHdr skein with
  | some k, some h =>
    if !k.attached || !k.stopped || s.stepsSkein skein then .next (s.reply false []) else
    match s.recordRead skein h (len + 1) off len with
    | some b => .next (s.reply true b)
    | none => .next (s.reply false [])
  | _, _ => .next (s.reply false [])

/-- WRITE; refused while the skein runs. -/
def execDebugWrite (skein off : Nat) (bytes : List Byte) (s : State) : Host.Outcome State Fault Refusal :=
  match s.skein? skein, s.skeinHdr skein with
  | some k, some h =>
    if !k.attached || !k.stopped || s.stepsSkein skein then .next (s.reply false []) else
    match s.recordWrite skein h (bytes.length + 1) off bytes with
    | some s => .next (s.reply true [])
    | none => .next (s.reply false [])
  | _, _ => .next (s.reply false [])

/-! ## The records of barriers and counters (R346, R353, R358) -/

/-- A barrier's record whole, as the debug interface and, for a device that follows an edge of a wait-for graph, the management interface
and the fabric read it: one untorn snapshot. -/
def State.barrierRecord (s : State) (u : BarUnit) (n : Nat) : Option (BitVec 256) :=
  (s.bar? u n).map (fun b => BitVec.ofNat 256 (s.barRecord u n b))

/-- A device counter's record, word by word, read in the same ways. -/
def State.counterRecord (s : State) (i : Nat) : List Word := (List.range 18).map (s.counterWord i)

/-! ## ICINV and TRIGGER -/

/-- ICINV at skein scope. -/
def execDebugIcinv (skein : Nat) (base : Word) (len : Nat) (s : State) : Host.Outcome State Fault Refusal :=
  match s.skein? skein with
  | some k =>
    if base.toNat % 64 != 0 || len == 0 || len % 64 != 0 || 2 ^ 32 ≤ len then .next (s.reply false []) else
    .next ((k.cores.foldl (fun s c => s.icDrop c (s.skeinCtx skein) base len) s).reply true [])
  | none => .next (s.reply false [])

/-- TRIGGER (R420). -/
def execTrigger (s : State) : Host.Outcome State Fault Refusal := .next ((s.pullTrigger 0 2).reply true [])

end Sys2Proof.Machine
end

