-- ==== Sys2Proof/Machine/Issue.lean ====
section
/-! DEFINITION. What happens around issue: cache fills and soft errors, breakpoints and single steps, data that arrive, retries of
parked work, PC samples, uncorrectable errors, host writes and kills (R124, R125, R142, R155, R248, R250, R252, R401, R412 to R419). -/
namespace Sys2Proof.Machine

/-! ## The instruction cache (R124, R125) -/

/-- ICACHE_FILL: one sector of a line is read at its home: the first is kept while the fill goes on, so that a store may come before the
second (R129), and with the second the line is kept with its marks. A translation fault or an uncorrectable error keeps nothing: it affects a program only
when a strand issues from the line; `ue` is an error that the read meets. -/
def execIcacheFill (core ctx : Nat) (sector : Word) (ue : Bool) (s : State) : Host.Outcome State Fault Refusal :=
  let w := { s.whoOf ctx with core }
  let line := sector / 64 * 64
  match s.home w .exec line with
  | .error _ => .next s
  | .ok l =>
    if ue then .next { s with mem := { s.mem with bad := l :: s.mem.bad.filter (· != l) } } else
    if !sector.getLsbD 5 then .next (if (s.icFind core ctx line).isSome then s else s.modCore core (fun k =>
      { k with filling := (ctx, line, BitVec.ofNat 256 (s.peekNat l 32)) :: k.otherFills ctx line })) else
    match s.fillRead w line with
    | .error _ => .next s
    | .ok bits => .next (s.icPut core (icMark ctx line bits))

/-- A slot's parity fails when it is read: the line is invalidated and filled again, one corrected error. -/
def State.icSoft (s : State) (core ctx : Nat) (line : Word) : State :=
  match s.icFind core ctx line with
  | none => s
  | some _ =>
    let s := ((s.icDrop core ctx line 64)).life 1
    match s.fillRead { s.whoOf ctx with core } line with
    | .error _ => s
    | .ok bits => s.icPut core (icMark ctx line bits)

/-- ICACHE_SOFT_ERROR (R125). -/
def execIcacheSoftError (core ctx : Nat) (line : Word) (slot : Nat) (s : State) : Host.Outcome State Fault Refusal :=
  .next (if slot ≤ 4 then s.icSoft core ctx (line / 64 * 64) else s)

/-! ## Before an issue (R414, R415, R419) -/

/-- A head entry that is about to issue for the first time. -/
def Course.aboutTo (c : Course) : Option Entry := (headEntry c.front).filter (fun e => e.wait == .none)

/-- The lowest enabled hardware breakpoint at a PC. -/
def Course.breakpoint (c : Course) (pc : Word) : Option Nat :=
  if c.passAt == some pc then none else
  (List.range 4).find? (fun i => let b := c.bps[i]?.getD 0
    b.getLsbD 3 && bitsOf b.toNat 55 6 == bitsOf pc.toNat 55 6 && bitsOf b.toNat 2 0 == bitsOf pc.toNat 2 0)

/-- BREAKPOINT_HIT: a stop of an attached skein, or BREAK with detail 0x03. -/
def execBreakpointHit (core slot : Nat) (s : State) : Host.Outcome State Fault Refusal :=
  match s.course? core slot with
  | none => .next s
  | some c => match c.aboutTo with
    | none => .next s
    | some E => match c.breakpoint E.pc with
      | none => .next s
      | some i =>
        if s.attachedTo c.skein then
          .next (s.debugStop c.skein { reason := 2, core := BitVec.ofNat 8 core, slot := BitVec.ofNat 5 slot, pc := E.pc } (some (core, slot)))
        else .next (s.takeTrap core slot (some E)
          { t := { cause := Cause.brk, detail := 0x03, tval := BitVec.ofNat 64 i }, mask := E.mask, pc := E.pc, prio := E.prio })

/-- STEP is raised before this issue. -/
def Course.stepsNow (c : Course) : Bool := c.sstep && c.level.val == 0 && !c.stepFree

/-- SINGLE_STEP_TRAP (R419); the spec gives STEP no TVAL, so that is a free value. -/
def execSingleStepTrap (core slot : Nat) (s : State) : Host.Outcome State Fault Refusal :=
  match s.course? core slot with
  | none => .next s
  | some c => match c.aboutTo with
    | none => .next s
    | some E =>
      if !c.stepsNow then .next s else
      let (v, s) := s.freshWord
      .next (s.takeTrap core slot (some E)
        { t := { cause := Cause.sstep, detail := 0, tval := v }, mask := E.mask, pc := E.pc, prio := E.prio })

/-! ## Data and parked work -/

/-- DATUM_ARRIVAL (R258). -/
def execDatumArrival (id : Nat) (s : State) : Host.Outcome State Fault Refusal :=
  match kget s.async.data id with
  | some d => .next (s.landDatum id d)
  | none => .next s

/-- PARKED_ACCESS_RESUME (R252): the access is made again; it parks again while its line is still absent. -/
def execParkedAccessResume (core slot : Nat) (s : State) : Host.Outcome State Fault Refusal :=
  .next (s.modCourse core slot (·.rouse (fun h => h == .absentLine || h == .tileLog)))

/-- How long a fault waits between retries (R250). -/
def retryWait : Nat := 16000000

/-- FAULT_RETRY (R250): the instruction or operation is tried again; when it succeeds, its record FAULT_RETRY is emitted then. -/
def execFaultRetry (id : Nat) (s : State) : Host.Outcome State Fault Refusal :=
  match kget s.async.faults id with
  | none => .next s
  | some p =>
    if p.again || !(p.due || p.tried + retryWait ≤ s.time.gt) then .next s else
    let s := { s with async := { s.async with faults := kset s.async.faults id { p with again := true, due := false, tried := s.time.gt } } }
    match p.who with
    | .course core slot pc => .next (s.modCourse core slot (fun c =>
        let f (e : Entry) : Entry := if e.wait == .again .fault && e.pc == pc then { e with wait := .retry } else e
        { c with fr0 := c.fr0.map f, fr1 := c.fr1.map f, fr2 := c.fr2.map f }))
    | .stream core pslot => .next (s.modPanel core pslot (fun q => { q with run := if q.run == 2 then 0 else q.run, swait := .none }))
    | .op i => match s.op? i with
      | some o => .next (s.setOp i { o with fault := none })
      | none => .next s
    | .engine _ => .next s

/-! ## PC samples (R155) -/

/-- The sample period of a launch in gt, none when it is not sampled. -/
def State.samplePeriod (s : State) (v : Launch) : Option Nat :=
  let n := bitsOf v.hdr.trctl.toNat 15 0
  if n == 0 then none else some (n * 64 * s.clockGt)

/-- The courses of a launch in a partition, in slot order. -/
def State.partCourses (s : State) (l core part : Nat) : List (Nat × Course) :=
  (s.coursesWhere (fun k c => k == core && c.orphan.isNone && (s.skein? c.skein).elim false (fun x => x.launch == l))).filterMap
    (fun (_, slot, c) => if slot / 4 == part then some (slot, c) else none)

/-- How many samples of a launch are past, and whether a partition has not yet made the latest. -/
def State.sampleDue (s : State) (v : Launch) (core part : Nat) : Option Nat :=
  (s.samplePeriod v).bind (fun p =>
    let now := s.time.gt / p
    if (kget v.sampled (core * 8 + part)).getD 0 < now then some now else none)

/-- PC_SAMPLE: one course of each sampled launch in the partition, taken in rotation. -/
def execPcSample (core partition : Nat) (s : State) : Host.Outcome State Fault Refusal :=
  .next (s.work.launches.foldl (fun s (l, v) =>
    let cs := s.partCourses l core partition
    match s.sampleDue v core partition, cs[((s.sampleDue v core partition).getD 0) % max cs.length 1]? with
    | some now, some (slot, c) =>
      let s := s.modLaunch l (fun v => { v with sampled := kset v.sampled (core * 8 + partition) now })
      let e := c.front.head?
      let ev := s.partEv core slot c 0x54
        (c.headPc.toNat + (e.elim 0 (·.mask.toNat)) * 2 ^ 64 + s.stall core slot c * 2 ^ 80 + slot * 2 ^ 88)
      s.traceEv l { ev with priv := true }
    | _, _ => s) s)

/-! ## SRAM_UE (R412) -/

/-- Count an uncorrectable error and emit SRAM_UE for a row of R412. -/
def State.sramUe (s : State) (row core : Nat) (ctx : Nat) (cause parent : Word32) : State :=
  let unit := if core < 160 then src 2 (core * 16) else src 1 0
  (s.life 4).emit { source := unit, type := 0xCA, err := true, cause, parent, ctx, payload := row + (if core < 160 then core else 0xFF) * 2 ^ 8 }

/-- SRAM_UE. An error in a scratchpad or a memory lies there until it is read (R249, R280, R314); one that is corrected is counted only
(R27, R249). A record lost in the trace staging counts while the store is enabled (R71, R73). -/
def execSramUe (place : UeWhere) (s : State) : Host.Outcome State Fault Refusal :=
  match place with
  | .registers core slot lane field => match s.course? core slot with
    | none => .next s
    | some c => match headEntry c.front with
      | none => .next s
      | some E =>
        let s := s.sramUe 1 core (s.skeinCtx c.skein) (s.causeOf c) (s.parentOf c)
        .next (s.takeTrap core slot (some E)
          { t := { cause := Cause.ecc, detail := 0x02, tval := field.setWidth 64 }, mask := 1 <<< lane, pc := E.pc, prio := E.prio })
  | .scratchpad die addr =>
    let l : Loc := ⟨if die then .die else .unit, addr⟩
    .next { s with mem := { s.mem with bad := l :: s.mem.bad.filter (· != l) } }
  | .memory lpddr addr =>
    let l : Loc := ⟨if lpddr then .lpddr else .hbm, addr⟩
    .next { s with mem := { s.mem with bad := l :: s.mem.bad.filter (· != l) } }
  | .corrected k => .next (s.life (1 + k.val))
  | .accumulator core cell =>
    let e := s.engine core
    let owner := e.owner.bind (s.panel? core)
    let s := s.sramUe 4 core (owner.elim 0xFFFF (fun p => s.skeinCtx p.skein)) (owner.elim 0 (fun p => s.skeinCause p.skein))
      (owner.elim 0 (fun p => s.skeinParent p.skein))
    .next (s.modEngine core (fun e => { e with emaskr := e.emaskr ||| (1 <<< (cell / 256 % 256)), emaskc := e.emaskc ||| (1 <<< (cell % 256)) }))
  | .counter n =>
    let owner := s.tables.contexts.find? (fun (_, c) => c.entry.cbase.toNat ≤ n && n < c.entry.cbase.toNat + c.entry.ccount.toNat)
    let s := s.sramUe 5 0xFF (owner.elim 0xFFFF (·.1)) 0 0
    .next (match owner with
      | some (ctx, c) => s.poison ctx n (n - c.entry.cbase.toNat) 0 0
      | none => s.poison 0xFFFF n n 0 0)
  | .killClass ctx core =>
    let s := s.sramUe 6 core ctx 0 0
    .next (if s.ctxKilled ctx then s else s.kill ctx 5 { source := src 1 0, cause := 0, parent := 0, core })
  | .queueTable q => if 1024 ≤ q then .next s else .next ((s.sramUe 7 0xFF 0xFFFF 0 0).queueLost q)
  | .complexMemory =>
    .next ((s.sramUe 8 0xFF 0xFFFF 0 0).failOver true)
  | .traceStaging source =>
    let s := s.sramUe 9 0xFF 0xFFFF 0 0
    .next (if !s.firn.enabled then s else
      { s with firn := { s.firn with drop := s.firn.drop + 1,
                                         dropping := if s.firn.dropping.contains source then s.firn.dropping else source :: s.firn.dropping } })
  | .icache core ctx line slot =>
    if 4 < slot then .next s else .next ((s.sramUe 10 core ctx 0 0).icSoft core ctx (line / 64 * 64))

/-! ## The host (R248, R401) -/

/-- CXL_MEM_WRITE: bytes reach HBM4E; every later walk reads them (R248). A device in recovery mode is reached over the management interface
only (R17). -/
def execCxlMemWrite (addr : Nat) (bytes : List Byte) (s : State) : Host.Outcome State Fault Refusal :=
  .next (if addr + bytes.length ≤ Config.hbmBytes && !s.dev.recovery then s.poke ⟨.hbm, addr⟩ bytes else s)

/-- CONTEXT_KILL: the host driver's, or one that another reason of R401 has asked for; a context that is killed already stays so. -/
def execContextKill (ctx : Nat) (reason : BitVec 4) (s : State) : Host.Outcome State Fault Refusal :=
  .next (if reason == 0 || 7 < reason.toNat || s.ctxKilled ctx then s
    else s.kill ctx reason { source := src 1 0, cause := 0, parent := 0 })

end Sys2Proof.Machine
end

