-- ==== Sys2Proof/Machine/Placement.lean ====
section
/-! DEFINITION. The placement unit: the affine dispatcher, the cast-on agents, reservations, the gang quota, drains, pre-emption and
the start of a skein (R30 to R32, R79 to R98, R342, R448, R452). -/
namespace Sys2Proof.Machine

/-! ## Distance (R79, R80, R86) -/

/-- Where a channel attaches: die, row and column. -/
def channelAt (ch : Nat) : Nat × Nat × Nat := (ch / 64, ch % 32 * 10 / 32, if ch / 32 % 2 == 0 then 0 else 3)

/-- The distance from a core to a channel. -/
def distance (core ch : Nat) : Nat :=
  let (die, row, col) := channelAt ch
  let r := core % 40 / 4
  let c := core % 4
  (max r row - min r row) + (max c col - min c col) + (if core / 40 == die then 0 else 16)

/-- The channel of a launch's AFFINITY; none with 0x01 for a translation fault and 0x02 for a page outside HBM4E. -/
def State.affinity (s : State) (l : Nat) (v : Launch) : Option Nat × Nat :=
  if v.hdr.affinity == 0 then (none, 0) else
  match s.place (launchWho l v) .load v.hdr.affinity with
  | .ok (.home ⟨.hbm, off⟩) => (some (bitsOf off 23 16), 0)
  | .ok _ => (none, 2)
  | .error _ => (none, 1)

/-! ## What a core can accept (R83) -/

/-- Panels that member k takes. -/
def Header.panelsOn (h : Header) (k : Nat) : Nat := ceilDiv (h.panels - k) (max h.members 1)

/-- The rectangle of a launch's skeins from an origin core, in member order (R30). -/
def Header.rect (h : Header) (origin : Nat) : List Nat :=
  (List.range h.srows).flatMap (fun r => (List.range h.scols).map (fun c => origin + 4 * r + c))

/-- Free panel slots, course slots and granules of a core with some skeins left out. -/
def State.room (s : State) (core : Nat) (without : List Nat) : Nat × Nat × Nat :=
  let panels := (s.panels.filter (fun (k, p) => k / 4 == core && !without.contains p.skein)).length
  let courses := (s.courses.filter (fun (k, c) => k / 32 == core && !(without.contains c.skein && c.orphan.isNone))).length
  let held := ((s.core core).granules.filter (fun (_, g) => match g with | .held j => !without.contains j | .saved _ _ _ => false)).length
  (4 - panels, 32 - courses, 16 - held)

/-- A core has the room for its share of a skein and its fence admits the context, with some skeins left out. -/
def State.hasRoom (s : State) (v : Launch) (core k : Nat) (without : List Nat) : Bool :=
  let (p, c, g) := s.room core without
  let n := v.hdr.panelsOn k
  n ≤ p && n * v.hdr.courses ≤ c && v.hdr.ugran + v.hdr.sgran ≤ g && s.fenceAdmits v (regionOf core)

/-- Cores of an attempt. -/
def State.attemptCores (s : State) (a : Agent) (origin : Nat) : List Nat :=
  match (s.skein? a.skein).bind s.skeinLaunch with
  | some v => v.hdr.rect origin
  | none => []

/-- A granted reservation holds a core. -/
def State.reserved (s : State) (core : Nat) : Bool :=
  s.work.agents.any (fun a => match a.state with
    | .granted o _ | .committing o _ | .releasing o _ => (s.attemptCores a o).contains core
    | _ => false)

/-- A core is drained or set aside for another skein. -/
def State.keptFrom (s : State) (sk core : Nat) : Bool := s.work.drains.any (fun d => d.skein != sk && d.cores.contains core)

/-- A core can accept its share of a skein. -/
def State.accepts (s : State) (sk : Nat) (v : Launch) (core k : Nat) (without : List Nat) : Bool :=
  s.hasRoom v core k without && !s.reserved core && !s.keptFrom sk core

/-- A core that holds no panel. -/
def State.idleCore (s : State) (core : Nat) : Bool := !s.panels.any (fun (k, _) => k / 4 == core)
def State.coursesOn (s : State) (core : Nat) : Nat := (s.courses.filter (fun (k, _) => k / 32 == core)).length

/-! ## Choices (R86, R89, R95, R96) -/

/-- The first of least key. -/
def leastBy {α : Type} (key : α → Nat) : List α → Option α
  | [] => none
  | x :: t => match leastBy key t with
    | some y => if key x ≤ key y then some x else some y
    | none => some x

/-- The candidate rectangles in admitting regions, by region, origin row and origin column: their origins (R89). -/
def State.candidates (s : State) (v : Launch) : List Nat :=
  ((List.range 20).filter (s.fenceAdmits v)).flatMap (fun r => (List.range (3 - v.hdr.srows)).flatMap (fun row =>
    (List.range (5 - v.hdr.scols)).map (fun col => r * 8 + row * 4 + col)))

/-- A cast-on agent's rectangle: fewest idle members, then the region with the fewest idle cores. -/
def State.castonChoice (s : State) (sk : Nat) (v : Launch) : Option Nat :=
  let fits (o : Nat) : Bool := ((v.hdr.rect o).zipIdx).all (fun (c, k) => s.accepts sk v c k [])
  let idle (o : Nat) : Nat := ((v.hdr.rect o).filter s.idleCore).length
  let region (o : Nat) : Nat := ((List.range 8).filter (fun i => s.idleCore (regionOf o * 8 + i))).length
  leastBy (fun o => idle o * 16 + region o) ((s.candidates v).filter fits)

/-- The near set's choice among some cores: fewest courses, least distance, lowest number. -/
def State.nearest (s : State) (ch : Option Nat) (cores : List Nat) : Option Nat :=
  let d (c : Nat) : Nat := ch.elim 0 (distance c)
  let dmin := (cores.map d).min?.getD 0
  leastBy (fun c => s.coursesOn c * 64 + d c) (cores.filter (fun c => d c ≤ dmin + 2))

def State.affineChoice (s : State) (sk : Nat) (v : Launch) (ch : Option Nat) : Option Nat :=
  s.nearest ch ((List.range 160).filter (fun c => s.accepts sk v c 0 []))

/-- The drain rectangle of a head, occupancy ignored (R95). -/
def State.drainChoice (s : State) (l : Nat) (v : Launch) : Option Nat :=
  if v.hdr.place == 1 then leastBy (fun o => ((v.hdr.rect o).map s.coursesOn).sum) (s.candidates v)
  else s.nearest (s.affinity l v).1 ((List.range 160).filter (fun c => s.fenceAdmits v (regionOf c)))

/-- Skeins on some cores. -/
def State.skeinsOn (s : State) (cores : List Nat) : List (Nat × Skein) :=
  s.work.skeins.filter (fun (_, k) => (k.phase == .placed || k.phase == .saving) && k.cores.any cores.contains)

/-- The lowest-numbered free slot of a victim's save pool that its image fits in, and the slot's address; `taken` are slots already promised
to other victims of the context (R402). -/
def State.saveSlot? (s : State) (k : Skein) (taken : List (Nat × Nat)) : Option (Nat × Word) :=
  match s.skeinLaunch k with
  | none => none
  | some v => match s.trapTable { launchWho k.launch v with root := v.entry.ptroot.toNat } with
    | none => none
    | some T =>
      if T.slotLen == 0 || T.slotLen % 4096 != 0 || T.base.toNat % 4096 != 0 || spaceOf T.base != 0 || T.slotLen < imgSize v.hdr then none else
      let used (n : Nat) : Bool := taken.contains (v.ctx, n) ||
        s.work.skeins.any (fun (_, x) => (x.phase == .saving || x.phase == .saved) && x.saveSlot == n && (s.skeinLaunch x).elim false (fun y => y.ctx == v.ctx))
      ((List.range (min T.count (s.work.skeins.length + taken.length + 1))).find? (fun n => !used n)).map
        (fun n => (n, T.base + BitVec.ofNat 64 (n * T.slotLen)))

/-- The save slots of some victims, none when one is not pre-emptible (R82, R402). -/
def State.victimSlots (s : State) (cls : Nat) : List (Nat × Skein) → List (Nat × Nat) → Option (List (Nat × Nat × Word))
  | [], _ => some []
  | (i, k) :: t, taken =>
    if k.phase == .saving then State.victimSlots s cls t taken else
    match s.skeinLaunch k, s.saveSlot? k taken with
    | some v, some (n, a) =>
      if v.hdr.pclass + 1 < cls then (State.victimSlots s cls t ((v.ctx, n) :: taken)).map ((i, n, a) :: ·) else none
    | _, _ => none

/-- The pre-emption rectangle of a head and its victims' slots: fewest victim skeins, then fewest victim courses (R96). -/
def State.preemptChoice (s : State) (sk : Nat) (v : Launch) : Option (Nat × List (Nat × Nat × Word)) :=
  let option (o : Nat) : Option (Nat × List (Nat × Nat × Word) × Nat) :=
    let cores := v.hdr.rect o
    let on := s.skeinsOn cores
    match s.victimSlots v.hdr.pclass on [] with
    | none => none
    | some l =>
      if !on.isEmpty && (cores.zipIdx).all (fun (c, k) => s.accepts sk v c k (on.map (·.1))) then
        some (o, l, on.length * 2048 + (on.map (fun (i, _) => (s.skeinCourses i).length)).sum)
      else none
  (leastBy (fun (_, _, n) => n) ((s.candidates v).filterMap option)).map (fun (o, l, _) => (o, l))

/-! ## Events (R98) -/

def State.placeEv (s : State) (k : Skein) (type payload : Nat) : State :=
  s.emit { source := src 1 0, type, cause := k.cause, parent := k.parent, ctx := (s.skeinLaunch k).elim 0xFFFF (·.ctx), payload }

/-- The back-off of the n-th denial, in placement cycles (R92). -/
def backOff (n : Nat) : Nat := 64 * 2 ^ (min n 5 - 1)

/-- RESERVE_DENIED; the affine dispatcher has no back-off (R87). -/
def State.deniedEv (s : State) (a : Agent) (k : Skein) (origin reason : Nat) : State :=
  s.placeEv k 0x42 (origin + a.agent * 2 ^ 13 + reason * 2 ^ 16 + (if a.agent == 4 then 0 else backOff (k.denials + 1)) * 2 ^ 32)

/-! ## Agents (R87, R88, R90 to R93, R448) -/

def State.setAgents (s : State) (l : List Agent) : State := { s with work := { s.work with agents := l } }
/-- Replace an entry of the agents' list by another or by none. -/
def State.putAgent (s : State) (a : Agent) (b : Option Agent) : State :=
  s.setAgents (s.work.agents.flatMap (fun x => if x == a then b.toList else [x]))
/-- An agent may take a skein again in the next cycle. -/
def State.freeAgent (s : State) (a : Nat) : State :=
  { s with work := { s.work with agentFree := s.work.agentFree.setIfInBounds a (nextCycle s.time.gt) } }

/-- The earliest entry of an agent in some state. -/
def State.agentIn (s : State) (agent : Nat) (p : Attempt → Bool) : Option Agent :=
  s.work.agents.find? (fun a => a.agent == agent && p a.state)

/-- Skeins in queue order that an agent may take: of its kind, held by no agent, not waiting for quota or occupancy. -/
def State.takeable (s : State) (caston : Bool) : List (Nat × Skein) :=
  s.placementQueue.filter (fun (i, k) => s.castsOn k == caston && !s.work.agents.any (fun a => a.skein == i &&
    (match a.state with | .releasing _ _ => false | _ => true)) && k.quota.isNone && !k.blocked)

/-- An attempt: the reservation is on its way, or the skein is blocked until occupancy changes. -/
def State.attempt (s : State) (a : Agent) (choice : Option Nat) : State :=
  let s := s.modSkein a.skein (fun k => { k with attempts := k.attempts + 1 })
  match choice with
  | some o => (s.setAgents (s.work.agents ++ [{ a with state := .sent o }])).laterAt (s.time.gt + 40) (.reserve a.agent)
  | none =>
    let s := s.modSkein a.skein (fun k => { k with blocked := true })
    if a.agent == 4 then s else s.setAgents (s.work.agents ++ [{ a with state := .holding }])

/-- CASTON_ATTEMPT (R88, R89): the agent's skein, or the first that it may take, from a snapshot. -/
def execCastonAttempt (agent : Nat) (s : State) : Host.Outcome State Fault Refusal :=
  if 4 ≤ agent then .next s else
  let go (s : State) (sk : Nat) (k : Skein) : State := match s.skeinLaunch k with
    | some v => s.attempt { agent, skein := sk, state := .holding } (s.castonChoice sk v)
    | none => s
  match s.agentIn agent (fun x => match x with | .releasing _ _ => false | _ => true) with
  | some a => match s.skein? a.skein with
    | some k =>
      if a.state == .holding && !k.blocked && k.nextTry ≤ s.time.gt then .next (go (s.putAgent a none) a.skein k) else .next s
    | none => .next s
  | none =>
    if s.time.gt < s.work.agentFree[agent]?.getD 0 then .next s else
    match (s.takeable true).find? (fun (_, k) => k.nextTry ≤ s.time.gt) with
    | some (i, k) => .next (go s i k)
    | none => .next s

/-- AFFINE_ATTEMPT (R86, R87): the first affine skein that waits for nothing, at most one in a cycle. -/
def execAffineAttempt (s : State) : Host.Outcome State Fault Refusal :=
  if s.time.gt < s.work.agentFree[4] then .next s else
  match (s.takeable false).find? (fun (_, k) => k.nextTry ≤ s.time.gt) with
  | none => .next s
  | some (i, k) => match s.skeinLaunch k with
    | none => .next s
    | some v =>
      let (ch, why) := s.affinity k.launch v
      let s := if why == 0 then s else s.placeEv k 0x47 (v.hdr.affinity.toNat % 2 ^ 56 + why * 2 ^ 56)
      .next ((s.attempt { agent := 4, skein := i, state := .holding } (s.affineChoice i v ch)).freeAgent 4)

/-- RESERVE (R90): the region arbiter grants the whole rectangle, or denies it. -/
def execReserve (agent : Nat) (s : State) : Host.Outcome State Fault Refusal :=
  match s.agentIn agent (fun x => match x with | .sent _ => true | _ => false) with
  | none => .next s
  | some a => match a.state, s.skein? a.skein, (s.skein? a.skein).bind s.skeinLaunch with
    | .sent o, some k, some v =>
      let cores := v.hdr.rect o
      let s1 := s.laterAt (s.time.gt + 40) (.reserveReply agent)
      if cores.any s.reserved then .next ((s1.putAgent a (some { a with state := .denied o })).deniedEv a k o 1)
      else if (cores.zipIdx).all (fun (c, i) => s.accepts a.skein v c i []) then
        .next ((s1.putAgent a (some { a with state := .granted o s.time.gt })).laterAt (s.time.gt + 640) (.commitWindowLapse agent))
      else .next ((s1.putAgent a (some { a with state := .denied o })).deniedEv a k o 2)
    | _, _, _ => .next s

/-- A denial reaches the agent: the skein waits out its back-off, or an affine one four cycles (R87, R92). -/
def State.turnedDown (s : State) (a : Agent) : State :=
  match s.skein? a.skein with
  | none => s.putAgent a none
  | some k =>
    if a.agent == 4 then (s.putAgent a none).modSkein a.skein (fun k => { k with nextTry := s.time.gt + 40 })
    else (s.putAgent a (some { a with state := .holding })).modSkein a.skein (fun x =>
      { x with denials := k.denials + 1, nextTry := s.time.gt + 10 * backOff (k.denials + 1) })

/-- RESERVE_REPLY (R90, R93): a grant is charged and committed, or released with QUOTA_WAIT. -/
def execReserveReply (agent : Nat) (s : State) : Host.Outcome State Fault Refusal :=
  match s.agentIn agent (fun x => match x with | .granted _ _ | .denied _ => true | _ => false) with
  | none => .next s
  | some a => match a.state, s.skein? a.skein, (s.skein? a.skein).bind s.skeinLaunch with
    | .granted o t, some k, some v =>
      let used := s.gangUsage v.ctx
      if v.hdr.place == 1 && v.entry.gang.toNat < used + v.hdr.members then
        let s := (s.putAgent a (some { a with state := .releasing o t })).modSkein a.skein (fun k =>
          { k with quota := some (used - v.hdr.members) })
        let s := (s.freeAgent agent).placeEv k 0x43 (used % 2 ^ 16 + v.hdr.members * 2 ^ 16)
        .next (s.laterAt (s.time.gt + 40) (.release agent))
      else .next ((s.putAgent a (some { a with state := .committing o t })).laterAt (s.time.gt + 40) (.commit agent))
    | .denied _, _, _ => .next (s.turnedDown a)
    | _, _, _ => .next s

/-- RELEASE (R90): the reservation ends. -/
def execRelease (agent : Nat) (s : State) : Host.Outcome State Fault Refusal :=
  match s.agentIn agent (fun x => match x with | .releasing _ _ => true | _ => false) with
  | some a => .next (s.putAgent a none)
  | none => .next s

/-- COMMIT_WINDOW_LAPSE (R91): neither COMMIT nor RELEASE has come within 640 gt of a grant. -/
def execCommitWindowLapse (agent : Nat) (s : State) : Host.Outcome State Fault Refusal :=
  let late (t : Nat) : Bool := t + 640 ≤ s.time.gt
  match s.agentIn agent (fun x => match x with | .granted _ t | .committing _ t | .releasing _ t => late t | _ => false) with
  | none => .next s
  | some a => match a.state, s.skein? a.skein with
    | .granted o _, some k | .committing o _, some k =>
      .next ((s.putAgent a (some { a with state := .lapsed o })).deniedEv a k o 3)
    | .releasing o _, some k => .next ((s.putAgent a none).deniedEv a k o 3)
    | _, _ => .next s

/-! ## The start of a skein (R31, R32, R84, R85, R342) -/

/-- The work identifier (R31). -/
def workId (h : Header) (index panel course lane : Nat) : Word :=
  BitVec.ofNat 64 (lane + course * 2 ^ 4 + panel * 2 ^ (4 + h.f1w) + index % h.e3 * 2 ^ (4 + h.f1w + h.f2w) +
    index / h.e3 % h.e4 * 2 ^ (4 + h.f1w + h.f2w + h.f3w) + index / (h.e3 * h.e4) * 2 ^ (4 + h.f1w + h.f2w + h.f3w + h.f4w))

/-- A course at its start. -/
def Course.start (v : Launch) (sk index panel course : Nat) : Course :=
  let h := v.hdr
  let mask : BitVec 16 := BitVec.ofNat 16 (2 ^ h.strands - 1)
  { skein := sk, pslot := 0, f2 := panel, f1 := course,
    kreg := #v[0, v.args[0], 0, v.entry.cflags, v.args[1], v.args[2], v.args[3], v.args[4]],
    strands := Vector.ofFn (fun i : Fin 16 =>
      Strand.start (workId h index panel course i.val) (0xA000000000000000 + BitVec.ofNat 64 h.localsize)),
    present := mask, fr0 := [Entry.fresh h.entryPc h.entryprio mask false], fr1 := [], fr2 := [], level := 0,
    tl1 := TrapBank.zero, tl2 := TrapBank.zero, sstep := false, bps := Vector.replicate 4 0, stopRec := 0, ccause := 0, cparent := 0,
    entropy := 0, fmode := 0, asyncOut := 0, barriers := Vector.replicate 4 (Barrier.start h.strands false), started := false,
    stopped := false, passAt := none, resumed := false, touched := false, stepFree := false, notify := none, yielding := 0, staged := 0, abandoned := 0, exitAt := 0,
    orphan := none }

/-- A panel at its start; the sequencer is a party of panel barriers 0 to 7 when there is a stream. -/
def Panel.start (h : Header) (sk panel : Nat) : Panel :=
  let has := h.stream != 0
  { skein := sk, f2 := panel, handles := Vector.replicate 16 Handle.unbound,
    barriers := Vector.ofFn (fun i : Fin 16 =>
      if has && i.val < 8 then Barrier.start (h.courses + 1) true else Barrier.start h.courses false),
    watches := Vector.replicate 4 Watch.off, hasStream := has, spc := h.stream, m := Vector.replicate 16 0, gates := [], own := false,
    efAddr := 0, efCause := 0, efDetail := 0, run := 0, swait := .none, sarrs := [], sstarted := false, stopped := false, ending := false,
    held := none, image := none }

/-- A skein that has not run takes its cores. -/
def State.startSkein (s : State) (sk : Nat) (v : Launch) (k : Skein) (cores : List Nat) : State :=
  let h := v.hdr
  let (s, gr) := cores.foldl (fun (acc : State × List (List Nat)) core =>
    let (s, l) := acc.1.takeGranules sk core (h.ugran + h.sgran)
    (s, acc.2 ++ [l])) (s, [])
  let s := s.modSkein sk (fun k => { k with phase := .placed, cores, granules := gr })
  (List.range h.panels).foldl (fun s p => s.putPanel ((nth cores (p % max h.members 1)).getD 0) (Panel.start h sk p)
    ((List.range h.courses).map (Course.start v sk k.index p))) s

/-- A skein is placed (R90): its drain ends, SKEIN_PLACED, its granules and slots; an attached launch's skein stops before its first
issue (R452). -/
def State.placeSkein (s : State) (a : Agent) (k : Skein) (v : Launch) (origin : Nat) : State :=
  let sk := a.skein
  let cores := v.hdr.rect origin
  let resumed := k.phase == .saved
  let waited := if s.work.head == some sk then s.time.gt - s.work.headAt else 0
  let s := (s.putAgent a none).freeAgent (if a.agent == 4 then 5 else a.agent)
  let s := { s with work := { s.work with drains := s.work.drains.filter (fun d => d.skein != sk) } }
  let s := s.modSkein sk (fun k => { k with denials := 0, blocked := false, quota := none, attempts := 0,
                                            placedAt := if resumed then k.placedAt else s.time.gt })
  let s := s.placeEv k 0x41 (origin + v.hdr.scols * 2 ^ 8 + v.hdr.srows * 2 ^ 11 + a.agent * 2 ^ 13 + (if resumed then 2 ^ 16 else 0) +
    k.attempts % 2 ^ 16 * 2 ^ 32 + waited % 2 ^ 48 * 2 ^ 48)
  let s := if resumed then s.restoreSkein sk v.hdr cores else s.startSkein sk v k cores
  let s := s.doClaims
  let s := if !resumed && v.attached then
      (s.modSkein sk (fun k => { k with attached := true })).debugStop sk { reason := 5, core := 0, slot := 0, pc := 0 } none
    else s
  s.wakeAffine.newHead

/-- COMMIT (R90, R91): it places the skein; after the reservation has lapsed it is refused, which is a denial. Claims that an operation held
up are made first (R403). -/
def execCommit (agent : Nat) (s : State) : Host.Outcome State Fault Refusal :=
  let s := s.doClaims
  match s.agentIn agent (fun x => match x with | .committing _ t => t + 80 ≤ s.time.gt | .lapsed _ => true | _ => false) with
  | none => .next s
  | some a => match a.state, s.skein? a.skein, (s.skein? a.skein).bind s.skeinLaunch with
    | .committing o _, some k, some v => .next (s.placeSkein a k v o)
    | .lapsed _, _, _ => .next (s.turnedDown a)
    | _, _, _ => .next s

/-! ## Drains and pre-emption (R94 to R96) -/

def drainWait : Nat := 1600000
def highWait : Nat := 160000

/-- The head with its launch. -/
def State.headSkein (s : State) : Option (Nat × Skein × Launch) :=
  s.work.head.bind (fun sk => (s.skein? sk).bind (fun k => (s.skeinLaunch k).map (fun v => (sk, k, v))))

def State.setAside (s : State) (sk : Nat) (k : Skein) (v : Launch) (origin : Nat) (preempt : Bool) : State :=
  let d : Drain := { skein := sk, cores := v.hdr.rect origin, preempt }
  ({ s with work := { s.work with drains := s.work.drains ++ [d] } } : State).placeEv k 0x44
    (origin + v.hdr.scols * 2 ^ 8 + v.hdr.srows * 2 ^ 11 + (if preempt then 2 ^ 13 else 0))

/-- Whether a head may choose a drain rectangle now: it has waited long enough, no drain is active, and nothing is set aside for it. -/
def State.drainDue (s : State) : Option (Nat × Skein × Launch × Nat) :=
  match s.headSkein with
  | some (sk, k, v) =>
    if s.time.gt < s.work.headAt + drainWait || s.work.drains.any (fun d => !d.preempt || d.skein == sk) then none
    else (s.drainChoice k.launch v).map (fun o => (sk, k, v, o))
  | none => none

/-- DRAIN_START (R95). -/
def execDrainStart (s : State) : Host.Outcome State Fault Refusal :=
  match s.drainDue with
  | some (sk, k, v, o) => .next (s.setAside sk k v o false)
  | none => .next s

/-- Whether the head pre-empts now: it is blocked, its class allows it, and some rectangle meets the conditions (R82, R96). -/
def State.preemptDue (s : State) : Option (Nat × Skein × Launch × Nat × List (Nat × Nat × Word)) :=
  match s.headSkein with
  | some (sk, k, v) =>
    let cls := v.hdr.pclass
    if !k.blocked || cls < 2 || (cls == 2 && s.time.gt < s.work.headAt + highWait) || s.work.drains.any (fun d => d.skein == sk && d.preempt)
    then none
    else (s.preemptChoice sk v).map (fun (o, l) => (sk, k, v, o, l))
  | none => none

/-- PREEMPT_REQUEST (R96): the record for each victim, which begins to be saved, and the rectangle is set aside. -/
def execPreemptRequest (s : State) : Host.Outcome State Fault Refusal :=
  match s.preemptDue with
  | none => .next s
  | some (sk, k, v, o, l) =>
    let s := l.foldl (fun s (i, n, a) => match s.skein? i with
      | none => s
      | some x =>
        let s := s.setSkein i { x with phase := .saving, asked := s.time.gt, saveSlot := n, saveBase := a }
        s.placeEv k 0x45 x.cause.toNat) s
    .next (s.setAside sk k v o true)

/-! ## When the placement unit acts next (R448) -/

/-- The placement unit's own next steps and their times: pre-emption, a drain, an agent's attempt, an affine attempt, claims that nothing
holds up any more. Attempts start at placement cycles; in one cycle the agents come in ascending number and the affine dispatcher last
(R88, R90). -/
def State.placementDue (s : State) : List (Nat × Instr) :=
  let up (t : Nat) : Nat := ceilDiv t 10 * 10
  let now := s.time.gt
  let head := s.headSkein
  let preempt : List (Nat × Instr) := match head with
    | some (_, k, v) =>
      let t := if v.hdr.pclass == 3 then 0 else up (s.work.headAt + highWait)
      if k.blocked && 2 ≤ v.hdr.pclass && (now < t || s.preemptDue.isSome) then [(t, .preemptRequest)] else []
    | none => []
  let drain : List (Nat × Instr) := match head with
    | some _ =>
      let t := up (s.work.headAt + drainWait)
      if now < t || s.drainDue.isSome then [(t, .drainStart)] else []
    | none => []
  let least (l : List (Nat × Skein)) : Option Nat := (l.map (fun (_, k) => k.nextTry)).min?
  let free := least (s.takeable true)
  let casts := (List.range 4).filterMap (fun a =>
    match s.agentIn a (fun x => match x with | .releasing _ _ => false | _ => true) with
    | some e => match e.state, s.skein? e.skein with
      | .holding, some k => if k.blocked then none else some (k.nextTry, Instr.castonAttempt a)
      | _, _ => none
    | none => free.map (fun t => (max t (s.work.agentFree[a]?.getD 0), Instr.castonAttempt a)))
  let aff := (least (s.takeable false)).map (fun t => (max t s.work.agentFree[4], Instr.affineAttempt))
  let claims : List (Nat × Instr) := if s.openClaims.isEmpty then [] else [(now, .commit 4)]
  preempt ++ drain ++ ((casts ++ aff.toList).map (fun (t, i) => (up (max t now), i))) ++ claims

end Sys2Proof.Machine
end

