-- ==== Sys2Proof/Machine/Time.lean ====
section
/-! DEFINITION. The discipline of global time (R77, R78). -/
namespace Sys2Proof.Machine

/-- The band of R78, in gt. -/
def timeBand : Nat := 160
/-- A lag beyond which time steps forward, in gt. -/
def stepLag : Nat := 16000000
/-- Sync intervals that lock or unlock. -/
def lockCount : Nat := 16

/-- This device is the domain's time master (R52). -/
def State.isMaster (s : State) : Bool := s.time.domain.getLsbD 16

/-- The lowest-numbered other master heard, on a master: it stays unlocked (R52). -/
def State.outranked (s : State) : Bool :=
  s.isMaster && (match s.time.master with | some d => decide (d < s.devNo) | none => false)

/-- What is left of an estimate after it has been acted on: a large lag is stepped away, the rest slewed (R78). -/
def State.correct (s : State) (e : Int) : State :=
  if e < -(stepLag : Int) then
    let d := e.natAbs
    let s := { s with time := { s.time with gt := (s.time.gt + d) % 2 ^ 64, slew := 0, slewAcc := 0 } }
    s.emit { source := s.complexSrc, type := 0x08, payload := d % 2 ^ 64 }
  else { s with time := { s.time with slew := e } }

/-- An offset estimate e = local time − reference time (R78): the first one loads the reference's time; each later one is counted toward
the lock and corrected. -/
def State.discipline (s : State) (e : Int) : State :=
  let shown := if s.isMaster then 0 else e
  if !s.time.loaded then
    { s with time := { s.time with gt := wrapInt ((s.time.gt : Int) - e) 64, loaded := true, offset := shown, inBand := 0, outBand := 0 } }
  else
    let inside := decide (e.natAbs ≤ timeBand)
    let nIn := if inside then s.time.inBand + 1 else 0
    let nOut := if inside then 0 else s.time.outBand + 1
    let s := { s with time := { s.time with offset := shown, inBand := nIn, outBand := nOut, unsync := !inside && !s.isMaster } }
    let s := if !s.time.locked && lockCount ≤ nIn && !s.outranked then
        let s := { s with time := { s.time with locked := true } }
        s.emit { source := s.complexSrc, type := 0x07, payload := wrapInt e 64 }
      else if s.time.locked && lockCount ≤ nOut then
        let s := { s with time := { s.time with locked := false } }
        s.emit { source := s.complexSrc, type := 0x09, payload := wrapInt e 64 }
      else s
    s.correct e

/-- The number of this device's PTP domain (R52). -/
def State.ptpDomain (s : State) : Byte := BitVec.ofNat 8 (bitsOf s.time.domain.toNat 31 24)

/-- Send a PTP message of this device's domain in a control flit (R77). -/
def State.sendPtp (s : State) (dst : Nat) (m : PtpMsg) : State := s.sendControl dst 0xFFFF (.pair 0) (.ptp s.ptpDomain m)

/-- Ask a device for the delay of the link to it: the peer delay mechanism (R77). -/
def State.askDelay (s : State) (dst : Nat) : State :=
  let seq := s.time.ptpSeq
  ({ s with time := { s.time with ptpSeq := seq + 1, asking := kset s.time.asking dst (seq, s.time.gt, none) } }).sendPtp dst (.pdelayReq seq)

/-- Stamps of this device's own clock mean nothing after the clock has been set: they are let go. -/
def State.dropStamps (s : State) : State := { s with time := { s.time with syncIn := none, asking := [] } }

/-- The master's time at `stamp`, heard at `heard` of the own clock, is an estimate of the offset once the delay of the link is known; each
sync is followed by a new measure of that delay (log 69). -/
def State.estimate (s : State) (from_ stamp heard : Nat) : State :=
  (match kget s.time.delays from_ with
   | none => s
   | some d =>
     let t := s.discipline ((heard : Int) - ((stamp : Int) + d))
     if t.time.gt == s.time.gt then t else t.dropStamps).askDelay from_

/-- A master's sync message reaches this device (R77): a master that hears a lower-numbered one is unlocked and stays so (R52). -/
def State.masterHeard (s : State) (from_ : Nat) : State :=
  if s.isMaster then
    if from_ < s.devNo then
      let m := match s.time.master with | some d => min d from_ | none => from_
      { s with time := { s.time with master := some m, locked := false } }
    else s
  else { s with time := { s.time with master := some from_ } }

/-- A follower takes the time of the lowest-numbered master that it has heard (R52). -/
def State.follows (s : State) (from_ : Nat) : Bool :=
  !s.isMaster && (match s.time.master with | some d => decide (from_ ≤ d) | none => true)

/-- The delay of a link (R77): half of what the request and the response took, without the peer's time between them. -/
def linkDelay (t1 t2 t3 t4 : Nat) : Int := (((t4 : Int) - t1) - ((t3 : Int) - t2)) / 2

/-- A PTP message over a link (R77): one-step and two-step syncs are taken, two-step ones sent; a request for the delay is answered in two
steps. -/
def State.ptpArrives (s : State) (from_ : Nat) (m : PtpMsg) : State :=
  match m with
  | .sync seq stamp =>
    if s.isMaster then s.masterHeard from_
    else if !s.follows from_ then s
    else match stamp with
      | some t => (s.masterHeard from_).estimate from_ t s.time.gt
      | none => let s := s.masterHeard from_
                { s with time := { s.time with syncIn := some (from_, seq, s.time.gt) } }
  | .followUp seq t =>
    match s.time.syncIn with
    | some (d, q, heard) =>
      if d == from_ && q == seq && s.follows from_ then
        ({ s with time := { s.time with syncIn := none } }).estimate from_ t heard
      else s
    | none => s
  | .pdelayReq seq => (s.sendPtp from_ (.pdelayResp seq s.time.gt)).sendPtp from_ (.pdelayFollowUp seq s.time.gt)
  | .pdelayResp seq t2 =>
    match kget s.time.asking from_ with
    | some (q, t1, none) =>
      if q == seq then { s with time := { s.time with asking := kset s.time.asking from_ (q, t1, some (t2, s.time.gt)) } } else s
    | _ => s
  | .pdelayFollowUp seq t3 =>
    match kget s.time.asking from_ with
    | some (q, t1, some (t2, t4)) =>
      if q == seq then
        { s with time := { s.time with asking := kdel s.time.asking from_, delays := kset s.time.delays from_ (linkDelay t1 t2 t3 t4) } }
      else s
    | _ => s

/-- FABRIC_CONTROL (R77, R371, R373, R389): a control flit's PTP message of this device's PTP domain, link message, or collective-late
entry. -/
def execFabricControl (p : Packet) (s : State) : Host.Outcome State Fault Refusal :=
  match p.body with
  | .ptp dom m => .next (if dom == s.ptpDomain then s.ptpArrives p.src.toNat m else s)
  | .link peer up => .next (s.linkHeard p.src.toNat peer up)
  | .late r => .next (s.lateArrives p r)
  | _ => .next s

/-- GRANDMASTER_MESSAGE (R77): the master's estimate of its offset from the grandmaster. -/
def execGrandmasterMessage (offset : Int) (s : State) : Host.Outcome State Fault Refusal :=
  .next (if s.isMaster then s.discipline offset else s)

/-- 2^LOGSYNC seconds for a LOGSYNC of −7 to −1, in gt (R52, R77). -/
def State.syncGt (s : State) : Nat := 16000000000 / 2 ^ (256 - s.time.logsync.toNat)

/-- The interval in gt; LOGSYNC 0 is one second. -/
def State.syncInterval (s : State) : Nat := if s.time.logsync == 0 then 16000000000 else s.syncGt

/-- SYNC_INTERVAL (R77): the master's two-step messages to every follower whose link is up. -/
def execSyncInterval (s : State) : Host.Outcome State Fault Refusal :=
  if !s.isMaster then .next s else
  let seq := s.time.ptpSeq
  let s := { s with time := { s.time with lastSync := s.time.gt, ptpSeq := seq + 1 } }
  .next (((List.range s.domainSize).filter s.linkUp).foldl (fun s d =>
    (s.sendPtp d (.sync seq none)).sendPtp d (.followUp seq s.time.gt)) s)

end Sys2Proof.Machine
end

