-- ==== Sys2Proof/Machine/Dispatch.lean ====
section
/-! DEFINITION. One arm per constructor of `Instr`: each a direct call of its meaning, or rejected by name. -/
namespace Sys2Proof.Machine

def exec (i : Instr) (s : State) : Host.Outcome State Fault Refusal :=
  match i with
  | .nop f => Sys2Proof.Machine.execNop f s
  | .bra f => Sys2Proof.Machine.execBra f s
  | .brp f => Sys2Proof.Machine.execBrp f s
  | .jtb f => Sys2Proof.Machine.execJtb f s
  | .lpad f => Sys2Proof.Machine.execLpad f s
  | .call f => Sys2Proof.Machine.execCall f s
  | .ret f => Sys2Proof.Machine.execRet f s
  | .exit f => Sys2Proof.Machine.execExit f s
  | .streamExit f => Sys2Proof.Machine.execStreamExit f s
  | .yield f => Sys2Proof.Machine.execYield f s
  | .rgn f => Sys2Proof.Machine.execRgn f s
  | .add f => Sys2Proof.Machine.execAdd f s
  | .addi f => Sys2Proof.Machine.execAddi f s
  | .sub f => Sys2Proof.Machine.execSub f s
  | .mul f => Sys2Proof.Machine.execMul f s
  | .mulh f => Sys2Proof.Machine.execMulh f s
  | .mulhu f => Sys2Proof.Machine.execMulhu f s
  | .div f => Sys2Proof.Machine.execDiv f s
  | .divu f => Sys2Proof.Machine.execDivu f s
  | .rem f => Sys2Proof.Machine.execRem f s
  | .remu f => Sys2Proof.Machine.execRemu f s
  | .and f => Sys2Proof.Machine.execAnd f s
  | .or f => Sys2Proof.Machine.execOr f s
  | .xor f => Sys2Proof.Machine.execXor f s
  | .andn f => Sys2Proof.Machine.execAndn f s
  | .shl f => Sys2Proof.Machine.execShl f s
  | .shr f => Sys2Proof.Machine.execShr f s
  | .sar f => Sys2Proof.Machine.execSar f s
  | .rol f => Sys2Proof.Machine.execRol f s
  | .clz f => Sys2Proof.Machine.execClz f s
  | .ctz f => Sys2Proof.Machine.execCtz f s
  | .popc f => Sys2Proof.Machine.execPopc f s
  | .brev f => Sys2Proof.Machine.execBrev f s
  | .abs f => Sys2Proof.Machine.execAbs f s
  | .bfx f => Sys2Proof.Machine.execBfx f s
  | .bfi f => Sys2Proof.Machine.execBfi f s
  | .min f => Sys2Proof.Machine.execMin f s
  | .max f => Sys2Proof.Machine.execMax f s
  | .minu f => Sys2Proof.Machine.execMinu f s
  | .maxu f => Sys2Proof.Machine.execMaxu f s
  | .sel f => Sys2Proof.Machine.execSel f s
  | .mov f => Sys2Proof.Machine.execMov f s
  | .movi f => Sys2Proof.Machine.execMovi f s
  | .movh f => Sys2Proof.Machine.execMovh f s
  | .lea f => Sys2Proof.Machine.execLea f s
  | .cmp f => Sys2Proof.Machine.execCmp f s
  | .plop f => Sys2Proof.Machine.execPlop f s
  | .rdid f => Sys2Proof.Machine.execRdid f s
  | .fadd f => Sys2Proof.Machine.execFadd f s
  | .fsub f => Sys2Proof.Machine.execFsub f s
  | .fmul f => Sys2Proof.Machine.execFmul f s
  | .fma f => Sys2Proof.Machine.execFma f s
  | .fdiv f => Sys2Proof.Machine.execFdiv f s
  | .fsqrt f => Sys2Proof.Machine.execFsqrt f s
  | .frcp f => Sys2Proof.Machine.execFrcp f s
  | .frsq f => Sys2Proof.Machine.execFrsq f s
  | .fex2 f => Sys2Proof.Machine.execFex2 f s
  | .flg2 f => Sys2Proof.Machine.execFlg2 f s
  | .fmin f => Sys2Proof.Machine.execFmin f s
  | .fmax f => Sys2Proof.Machine.execFmax f s
  | .fcmp f => Sys2Proof.Machine.execFcmp f s
  | .fcvt f => Sys2Proof.Machine.execFcvt f s
  | .fcls f => Sys2Proof.Machine.execFcls f s
  | .frnd f => Sys2Proof.Machine.execFrnd f s
  | .vspl f => Sys2Proof.Machine.execVspl f s
  | .vprm f => Sys2Proof.Machine.execVprm f s
  | .vext f => Sys2Proof.Machine.execVext f s
  | .vins f => Sys2Proof.Machine.execVins f s
  | .vred f => Sys2Proof.Machine.execVred f s
  | .vscn f => Sys2Proof.Machine.execVscn f s
  | .vsel f => Sys2Proof.Machine.execVsel f s
  | .vmsk f => Sys2Proof.Machine.execVmsk f s
  | .vqnt f => Sys2Proof.Machine.execVqnt f s
  | .vdqn f => Sys2Proof.Machine.execVdqn f s
  | .vtag f => Sys2Proof.Machine.execVtag f s
  | .vpack f => Sys2Proof.Machine.execVpack f s
  | .vunpk f => Sys2Proof.Machine.execVunpk f s
  | .vpmul f => Sys2Proof.Machine.execVpmul f s
  | .vrand f => Sys2Proof.Machine.execVrand f s
  | .xshf f => Sys2Proof.Machine.execXshf f s
  | .xbrd f => Sys2Proof.Machine.execXbrd f s
  | .xred f => Sys2Proof.Machine.execXred f s
  | .xscn f => Sys2Proof.Machine.execXscn f s
  | .xvot f => Sys2Proof.Machine.execXvot f s
  | .xuni f => Sys2Proof.Machine.execXuni f s
  | .ld f => Sys2Proof.Machine.execLd f s
  | .st f => Sys2Proof.Machine.execSt f s
  | .ldv f => Sys2Proof.Machine.execLdv f s
  | .stv f => Sys2Proof.Machine.execStv f s
  | .gath f => Sys2Proof.Machine.execGath f s
  | .scat f => Sys2Proof.Machine.execScat f s
  | .aadd f => Sys2Proof.Machine.execAadd f s
  | .amin f => Sys2Proof.Machine.execAmin f s
  | .amax f => Sys2Proof.Machine.execAmax f s
  | .aand f => Sys2Proof.Machine.execAand f s
  | .aor f => Sys2Proof.Machine.execAor f s
  | .axor f => Sys2Proof.Machine.execAxor f s
  | .axch f => Sys2Proof.Machine.execAxch f s
  | .acas f => Sys2Proof.Machine.execAcas f s
  | .afad f => Sys2Proof.Machine.execAfad f s
  | .tdsc f => Sys2Proof.Machine.execTdsc f s
  | .tfch f => Sys2Proof.Machine.execTfch f s
  | .tevc f => Sys2Proof.Machine.execTevc f s
  | .tmov f => Sys2Proof.Machine.execTmov f s
  | .tacc f => Sys2Proof.Machine.execTacc f s
  | .tset f => Sys2Proof.Machine.execTset f s
  | .tget f => Sys2Proof.Machine.execTget f s
  | .tcmp f => Sys2Proof.Machine.execTcmp f s
  | .tlogCompact f => Sys2Proof.Machine.execTlogCompact f s
  | .tlogApply f => Sys2Proof.Machine.execTlogApply f s
  | .tlogDiscard f => Sys2Proof.Machine.execTlogDiscard f s
  | .tlogQuery f => Sys2Proof.Machine.execTlogQuery f s
  | .cpy f => Sys2Proof.Machine.execCpy f s
  | .cpySnap f => Sys2Proof.Machine.execCpySnap f s
  | .cwt f => Sys2Proof.Machine.execCwt f s
  | .rlq f => Sys2Proof.Machine.execRlq f s
  | .grd f => Sys2Proof.Machine.execGrd f s
  | .job f => Sys2Proof.Machine.execJob f s
  | .jwt f => Sys2Proof.Machine.execJwt f s
  | .jrs f => Sys2Proof.Machine.execJrs f s
  | .acz f => Sys2Proof.Machine.execAcz f s
  | .acs f => Sys2Proof.Machine.execAcs f s
  | .acl f => Sys2Proof.Machine.execAcl f s
  | .ext f => Sys2Proof.Machine.execExt f s
  | .sba f => Sys2Proof.Machine.execSba f s
  | .sbw f => Sys2Proof.Machine.execSbw f s
  | .bara f => Sys2Proof.Machine.execBara f s
  | .barw f => Sys2Proof.Machine.execBarw f s
  | .bar f => Sys2Proof.Machine.execBar f s
  | .barq f => Sys2Proof.Machine.execBarq f s
  | .cinc f => Sys2Proof.Machine.execCinc f s
  | .cwait f => Sys2Proof.Machine.execCwait f s
  | .cset f => Sys2Proof.Machine.execCset f s
  | .cdcl f => Sys2Proof.Machine.execCdcl f s
  | .fence f => Sys2Proof.Machine.execFence f s
  | .fld f => Sys2Proof.Machine.execFld f s
  | .fst f => Sys2Proof.Machine.execFst f s
  | .fatm f => Sys2Proof.Machine.execFatm f s
  | .qpst f => Sys2Proof.Machine.execQpst f s
  | .qarm f => Sys2Proof.Machine.execQarm f s
  | .coll f => Sys2Proof.Machine.execColl f s
  | .cwdQuery f => Sys2Proof.Machine.execCwdQuery f s
  | .cwdExtend f => Sys2Proof.Machine.execCwdExtend f s
  | .pent f => Sys2Proof.Machine.execPent f s
  | .trap f => Sys2Proof.Machine.execTrap f s
  | .rtt f => Sys2Proof.Machine.execRtt f s
  | .srd f => Sys2Proof.Machine.execSrd f s
  | .swr f => Sys2Proof.Machine.execSwr f s
  | .icinv f => Sys2Proof.Machine.execIcinv f s
  | .bkpt f => Sys2Proof.Machine.execBkpt f s
  | .evt f => Sys2Proof.Machine.execEvt f s
  | .caus f => Sys2Proof.Machine.execCaus f s
  | .causNew f => Sys2Proof.Machine.execCausNew f s
  | .halt f => Sys2Proof.Machine.execHalt f s
  | .glch f => Sys2Proof.Machine.execGlch f s
  | .kill f => Sys2Proof.Machine.execKill f s
  | .tailWrite q v => Sys2Proof.Machine.execTailWrite q v s
  | .packetNop q => Sys2Proof.Machine.execPacketNop q s
  | .packetGraph q => Sys2Proof.Machine.execPacketGraph q s
  | .packetSignal q => Sys2Proof.Machine.execPacketSignal q s
  | .packetWait q => Sys2Proof.Machine.execPacketWait q s
  | .waitPacketRelease q => Sys2Proof.Machine.execWaitPacketRelease q s
  | .packetMarker q => Sys2Proof.Machine.execPacketMarker q s
  | .nodeKernel gi => Sys2Proof.Machine.execNodeKernel gi s
  | .nodeCopy gi => Sys2Proof.Machine.execNodeCopy gi s
  | .nodeCollective gi => Sys2Proof.Machine.execNodeCollective gi s
  | .nodeJoin gi => Sys2Proof.Machine.execNodeJoin gi s
  | .nodeConditional gi => Sys2Proof.Machine.execNodeConditional gi s
  | .nodeLoop gi => Sys2Proof.Machine.execNodeLoop gi s
  | .nodeEvent gi => Sys2Proof.Machine.execNodeEvent gi s
  | .nodeEnd gi => Sys2Proof.Machine.execNodeEnd gi s
  | .nodeDone gi node => Sys2Proof.Machine.execNodeDone gi node s
  | .deadline launch => Sys2Proof.Machine.execDeadline launch s
  | .castonAttempt agent => Sys2Proof.Machine.execCastonAttempt agent s
  | .reserve agent => Sys2Proof.Machine.execReserve agent s
  | .reserveReply agent => Sys2Proof.Machine.execReserveReply agent s
  | .commit agent => Sys2Proof.Machine.execCommit agent s
  | .release agent => Sys2Proof.Machine.execRelease agent s
  | .commitWindowLapse agent => Sys2Proof.Machine.execCommitWindowLapse agent s
  | .skeinSaved skein => Sys2Proof.Machine.execSkeinSaved skein s
  | .icacheFill core ctx sector ue => Sys2Proof.Machine.execIcacheFill core ctx sector ue s
  | .yieldExpiry core slot => Sys2Proof.Machine.execYieldExpiry core slot s
  | .breakpointHit core slot => Sys2Proof.Machine.execBreakpointHit core slot s
  | .singleStepTrap core slot => Sys2Proof.Machine.execSingleStepTrap core slot s
  | .parkedAccessResume core slot => Sys2Proof.Machine.execParkedAccessResume core slot s
  | .faultRetry id => Sys2Proof.Machine.execFaultRetry id s
  | .sectorComplete op => Sys2Proof.Machine.execSectorComplete op s
  | .tileFetch op => Sys2Proof.Machine.execTileFetch op s
  | .tileEvict op => Sys2Proof.Machine.execTileEvict op s
  | .tmovComplete op => Sys2Proof.Machine.execTmovComplete op s
  | .tlogComplete op => Sys2Proof.Machine.execTlogComplete op s
  | .snapshotCopyStart op => Sys2Proof.Machine.execSnapshotCopyStart op s
  | .copyDone op => Sys2Proof.Machine.execCopyDone op s
  | .depthStep core => Sys2Proof.Machine.execDepthStep core s
  | .sbwGateOpen core => Sys2Proof.Machine.execSbwGateOpen core s
  | .tileExtract core => Sys2Proof.Machine.execTileExtract core s
  | .engineStop core code => Sys2Proof.Machine.execEngineStop core code s
  | .fabricRead p => Sys2Proof.Machine.execFabricRead p s
  | .fabricReadResponse p => Sys2Proof.Machine.execFabricReadResponse p s
  | .fabricWrite p => Sys2Proof.Machine.execFabricWrite p s
  | .fabricAtomic p => Sys2Proof.Machine.execFabricAtomic p s
  | .fabricWriteReduce p => Sys2Proof.Machine.execFabricWriteReduce p s
  | .fabricSignal p => Sys2Proof.Machine.execFabricSignal p s
  | .fabricAck p => Sys2Proof.Machine.execFabricAck p s
  | .fabricNack p => Sys2Proof.Machine.execFabricNack p s
  | .fabricChunk p => Sys2Proof.Machine.execFabricChunk p s
  | .fabricReady p => Sys2Proof.Machine.execFabricReady p s
  | .fabricBarrierArrival p => Sys2Proof.Machine.execFabricBarrierArrival p s
  | .fabricControl p => Sys2Proof.Machine.execFabricControl p s
  | .fldReplyTimeout req => Sys2Proof.Machine.execFldReplyTimeout req s
  | .fabricTimeout req => Sys2Proof.Machine.execFabricTimeout req s
  | .replyAbandon req => Sys2Proof.Machine.execReplyAbandon req s
  | .readyResend coll => Sys2Proof.Machine.execReadyResend coll s
  | .reducePanel coll => Sys2Proof.Machine.execReducePanel coll s
  | .collLate coll => Sys2Proof.Machine.execCollLate coll s
  | .debugStop skein hit => Sys2Proof.Machine.execDebugStop skein hit s
  | .courseRetired core slot => Sys2Proof.Machine.execCourseRetired core slot s
  | .skeinBoundOff skein => Sys2Proof.Machine.execSkeinBoundOff skein s
  | .datumArrival id => Sys2Proof.Machine.execDatumArrival id s
  | .departureReport p => Sys2Proof.Machine.execDepartureReport p s
  | .pcSample core partition => Sys2Proof.Machine.execPcSample core partition s
  | .seal ctx addr => Sys2Proof.Machine.execSeal ctx addr s
  | .queueLost q => Sys2Proof.Machine.execQueueLost q s
  | .packetRelay p => Sys2Proof.Machine.execPacketRelay p s
  | .contextKill ctx reason => Sys2Proof.Machine.execContextKill ctx reason s
  | .attach target => Sys2Proof.Machine.execAttach target s
  | .detach skein => Sys2Proof.Machine.execDetach skein s
  | .stop skein => Sys2Proof.Machine.execStop skein s
  | .resume skein => Sys2Proof.Machine.execResume skein s
  | .stepCourse core slot => Sys2Proof.Machine.execStepCourse core slot s
  | .stepPhase core pslot => Sys2Proof.Machine.execStepPhase core pslot s
  | .debugRead skein off len => Sys2Proof.Machine.execDebugRead skein off len s
  | .debugWrite skein off bytes => Sys2Proof.Machine.execDebugWrite skein off bytes s
  | .debugIcinv skein base len => Sys2Proof.Machine.execDebugIcinv skein base len s
  | .cxlMemWrite addr bytes => Sys2Proof.Machine.execCxlMemWrite addr bytes s
  | .verify ctx shards job result => Sys2Proof.Machine.execVerify ctx shards job result s
  | .powerOn b => Sys2Proof.Machine.execPowerOn b s
  | .deviceReset b => Sys2Proof.Machine.execDeviceReset b s
  | .managementRegisterWrite r off size v => Sys2Proof.Machine.execManagementRegisterWrite r off size v s
  | .domainWrite r v => Sys2Proof.Machine.execDomainWrite r v s
  | .contextEntryWrite r id e => Sys2Proof.Machine.execContextEntryWrite r id e s
  | .queueStateOff r q => Sys2Proof.Machine.execQueueStateOff r q s
  | .queueStateRun r q => Sys2Proof.Machine.execQueueStateRun r q s
  | .regionFenceWrite r region v => Sys2Proof.Machine.execRegionFenceWrite r region v s
  | .firnGeometryWrite r reg v => Sys2Proof.Machine.execFirnGeometryWrite r reg v s
  | .firnEnable r => Sys2Proof.Machine.execFirnEnable r s
  | .firnDisable r => Sys2Proof.Machine.execFirnDisable r s
  | .fabricAccessTableWrite idx e => Sys2Proof.Machine.execFabricAccessTableWrite idx e s
  | .linkDown peer => Sys2Proof.Machine.execLinkDown peer s
  | .linkUp peer => Sys2Proof.Machine.execLinkUp peer s
  | .sramUe place => Sys2Proof.Machine.execSramUe place s
  | .icacheSoftError core ctx line slot => Sys2Proof.Machine.execIcacheSoftError core ctx line slot s
  | .grandmasterMessage offset => Sys2Proof.Machine.execGrandmasterMessage offset s
  | .reservedKindPacket p => Sys2Proof.Machine.execReservedKindPacket p s
  | .powerLoss vaux => Sys2Proof.Machine.execPowerLoss vaux s
  | .thermalExcursionEnd t => Sys2Proof.Machine.execThermalExcursionEnd t s
  | .junctionBelow80c t b => Sys2Proof.Machine.execJunctionBelow80c t b s
  | .lifeidxClear r idx => Sys2Proof.Machine.execLifeidxClear r idx s
  | .lifeidxSelect r idx => Sys2Proof.Machine.execLifeidxSelect r idx s
  | .attestationReport nonce => Sys2Proof.Machine.execAttestationReport nonce s
  | .liveUpdate img => Sys2Proof.Machine.execLiveUpdate img s
  | .failover ecc => Sys2Proof.Machine.execFailover ecc s
  | .heartbeat arrives => Sys2Proof.Machine.execHeartbeat arrives s
  | .thermalTrip t => Sys2Proof.Machine.execThermalTrip t s
  | .thermalCeilingRise t => Sys2Proof.Machine.execThermalCeilingRise t s
  | .thermalCeilingFall t => Sys2Proof.Machine.execThermalCeilingFall t s
  | .droopExcursion rail gt => Sys2Proof.Machine.execDroopExcursion rail gt s
  | .vcoreCurrentSample amps => Sys2Proof.Machine.execVcoreCurrentSample amps s
  | .clockReduction => Sys2Proof.Machine.execClockReduction s
  | .clockRaise => Sys2Proof.Machine.execClockRaise s
  | .powerUpCommand b => Sys2Proof.Machine.execPowerUpCommand b s
  | .updateDone => Sys2Proof.Machine.execUpdateDone s
  | .updateAbandoned => Sys2Proof.Machine.execUpdateAbandoned s
  | .affineAttempt => Sys2Proof.Machine.execAffineAttempt s
  | .drainStart => Sys2Proof.Machine.execDrainStart s
  | .preemptRequest => Sys2Proof.Machine.execPreemptRequest s
  | .syncInterval => Sys2Proof.Machine.execSyncInterval s
  | .trigger => Sys2Proof.Machine.execTrigger s
  | .cxlLinkRetrain => Sys2Proof.Machine.execCxlLinkRetrain s

end Sys2Proof.Machine
end

