-- ==== Sys2Proof/Machine/Turns.lean ====
section
/-! DEFINITION. Issue from a course and from a sequencer, and what the machine does next: the work that waits for nothing outside the
device, its order and its times (logs 4 and 7). -/
namespace Sys2Proof.Machine

/-! ## Issue from a course (R116, R120, R142, R144, R414, R418, R419) -/

/-- A skein's courses and sequencers on a core may issue: it is placed, holds its engines again (R405), and waits for no granule that it
claimed there. -/
def State.skeinRuns (s : State) (sk core : Nat) : Bool :=
  match s.skein? sk with
  | none => false
  | some k => k.phase == .placed && !s.work.skeins.any (fun (_, x) => x.claims.any (fun c => c.claimant == sk && c.core == core)) && !(s.skeinPanels sk).any (fun (_, _, p) => p.held.isSome)

/-- Entries whose wait ends by itself issue again: they look again at what they wait for. An RTT goes on when its entry holds every strand
of the level (R400). -/
def Course.polled (c : Course) : Course :=
  let c := c.rouse (fun h => match h with | .counter _ | .cwt | .fence | .icinv | .lockFull => true | _ => false)
  let all := c.levelMask
  c.setFront (c.front.map (fun e => if e.wait == .rtt && e.mask == all then { e with wait := .retry } else e))

/-- The entry of a course that has taken no effect: it is held at its instruction. -/
def State.heldAt (s : State) (core slot : Nat) (E : Entry) : Bool :=
  match s.course? core slot with
  | none => false
  | some c => c.front.any (fun e => e.pc == E.pc && e.mask == E.mask && (match e.wait with | .again _ => true | _ => false))

/-- The issuer of a whole entry, for the traps that come before its instruction is known. -/
def State.wholeEntry (s : State) (core slot : Nat) (c : Course) (E : Entry) : Iss :=
  { core, slot, c, E, w := s.courseWho core c, lanes := lanesOf E.mask, uni := false, leader := (lanesOf E.mask).headD 0 }

/-- A course has begun to issue at level 0, unless its entry is held. -/
def State.begun (s : State) (core slot level : Nat) (E : Entry) : State :=
  if level != 0 || s.heldAt core slot E then s else s.modCourse core slot (fun c => { c with started := true })

/-- The instruction of an entry that is to issue: the check of ENTRY at the course's first issue (R120), which a handler that runs before it
is not; the line; the checks of the slot (R116). -/
def State.fetched (s : State) (core slot : Nat) (c : Course) (E : Entry) : State × Except Stop Instr :=
  let w := s.courseWho core c
  let (s, bad) := if c.started || c.level.val != 0 then (s, none) else s.checkTarget core w true E.pc
  match bad with
  | some e => (s, .error e)
  | none => match s.obtain core w (pcLine E.pc) with
    | (s, .error e) => (s, .error e)
    | (s, .ok x) => (s, slotCheck false x E.pc)

/-- One entry issues, or what comes before its issue happens: a breakpoint, a single step, a trap of the fetch. A pending register holds
it. The issuer that it leaves in `focus` says that an instruction issued. -/
def State.issueEntry (s : State) (core slot : Nat) (c : Course) (E : Entry) : Host.Outcome State Fault Refusal :=
  if E.wait == .none && c.stepsNow then exec (.singleStepTrap core slot) s
  else if E.wait == .none && (c.breakpoint E.pc).isSome then exec (.breakpointHit core slot) s
  else match s.fetched core slot c E with
    | (s, .error e) =>
      .next { ((s.failed (s.wholeEntry core slot c E) e E.mask).begun core slot c.level.val E) with focus := .course core slot }
    | (s, .ok i) =>
      let s := if c.level.val == 0 then s.modCourse core slot (fun c => { c with started := true }) else s
      if s.scoreboard core c E i then .next s else exec i { s with focus := .course core slot }

/-- An instruction of a course has issued: when it did (R155), and a course that is being stepped stops again (R418). -/
def State.stepped (s : State) (core slot : Nat) : State :=
  let s := { s with dbg := { s.dbg with issued := some (courseKey core slot, s.time.gt) } }
  match s.dbg.stepping with
  | some (k, _, some j) => if k == core && j == slot then s.modCourse core slot (fun c => { c with stopped := true }) else s
  | _ => s

/-- A course issues from the first entry, in order, whose instruction can take its effect now. -/
def issueCourse : Nat → Nat → Nat → State → Host.Outcome State Fault Refusal
  | 0, _, _, s => .next s
  | n + 1, core, slot, s =>
    match s.course? core slot with
    | none => .next s
    | some c => match headEntry c.front with
      | none => .next s
      | some E => match s.issueEntry core slot c E with
        | .next t =>
          let issued := t.focus == .course core slot
          let t := { t with focus := .none }
          if t.heldAt core slot E then issueCourse n core slot t else .next (if issued then t.stepped core slot else t)
        | o => o

/-- A course's turn. -/
def State.courseTurn (s : State) (core slot : Nat) : Host.Outcome State Fault Refusal :=
  match s.course? core slot with
  | none => .next s
  | some c => issueCourse 17 core slot (s.setCourse core slot c.polled)

/-- Whether a course takes turns. -/
def State.courseTurns (s : State) (core : Nat) (c : Course) : Bool :=
  c.orphan.isNone && !c.stopped && c.yielding == 0 && (headEntry c.polled.front).isSome && s.skeinRuns c.skein core

/-! ## Issue from a sequencer (R120, R139, R319, R400) -/

/-- The instruction at a sequencer's PC. -/
def State.seqFetched (s : State) (core : Nat) (p : Panel) : State × Except Stop Instr :=
  let w := s.skeinWho p.skein core none
  let (s, bad) := if p.sstarted then (s, none) else s.checkTarget core w true p.spc
  match bad with
  | some e => (s, .error e)
  | none => match s.obtain core w (pcLine p.spc) with
    | (s, .error e) => (s, .error e)
    | (s, .ok x) => (s, slotCheck true x p.spc)

/-- The fields of EXIT with guard ?p0 (R166, R319). -/
def exitWord : Gen := genOf (commonOf 0) 0

/-- A sequencer's turn: it issues, or ends as a trap return with SEXIT makes it. -/
def State.streamTurn (s : State) (core pslot : Nat) : Host.Outcome State Fault Refusal :=
  match s.panel? core pslot with
  | none => .next s
  | some p =>
    if p.ending then exec (.streamExit exitWord) { s with focus := .stream core pslot }
    else match s.seqFetched core p with
      | (s, .error (.hold _)) => .next s
      | (s, .error (.trap t)) =>
        let s := s.streamTrap core pslot t
        let parked := s.async.faults.any (fun (_, q) => q.who == FaultWho.stream core pslot)
        .next (if parked then s else s.modPanel core pslot (fun p => { p with sstarted := true }))
      | (s, .ok i) =>
        exec i { (s.modPanel core pslot (fun p => { p with sstarted := true })) with focus := .stream core pslot }

/-- Whether a sequencer takes turns. -/
def State.streamTurns (s : State) (core : Nat) (p : Panel) : Bool :=
  p.hasStream && p.run == 0 && !p.stopped && s.skeinRuns p.skein core &&
    (p.ending || (match p.swait with | .barrier _ _ => false | _ => true))

/-! ## What the units of the device do next -/

/-- Courses: retirement, issue, and parked accesses that look at their lines again (R252). -/
def State.courseWork (s : State) : List Turn :=
  s.courses.flatMap (fun (n, c) =>
    let core := n / 32
    let slot := n % 32
    if c.gone then [.event (.courseRetired core slot)] else
    (if s.courseTurns core c then [Turn.course core slot] else []) ++
      (if !c.stopped && c.front.any (fun e => e.wait == Wait.again .absentLine || e.wait == Wait.again .tileLog) then
        [Turn.event (.parkedAccessResume core slot)] else []))

def State.panelWork (s : State) : List Turn :=
  s.panels.filterMap (fun (n, p) => if s.streamTurns (n / 4) p then some (.stream (n / 4) (n % 4)) else none)

/-- Product engines (R307, R314, R336). -/
def State.engineWork (s : State) : List Turn :=
  s.cores.flatMap (fun (core, k) =>
    let e := k.engine
    let asked : Bool := match e.owner.bind (s.panel? core) with
      | some p => p.stopped || (s.skein? p.skein).elim false (fun x => x.phase == .saving)
      | none => false
    (if asked && e.running && (e.job.elim false (fun j => j.stopReq.isNone)) then [Turn.event (.engineStop core 4)] else []) ++
      (match e.extract with
       | some x => if x.finished then [Turn.event (.tileExtract core)] else []
       | none => match e.job with
         | none => []
         | some j =>
           let gs := s.tileGates core e j
           if e.tileFirst j.card && !gs.isEmpty && gs.all (·.2) then [Turn.event (.sbwGateOpen core)]
           else [Turn.event (.depthStep core)]))

/-- A transfer, collective, entry or extraction that can go on by a sector or packet. -/
def State.opMoves (s : State) (id : Nat) (o : Op) : Bool :=
  o.fault.isNone && match o.kind with
    | .job core => (match (s.engine core).extract with | some x => x.op == id && !x.finished && !s.engineParked core | none => false)
    | .entry b sent => !sent && (decide (o.cursor < entSectors b) || s.entryReady id o b)
    | .coll cause => (s.coll? cause.toNat).isNone || (s.collNext id o cause).async != s.async
    | .log _ _ => false
    | .refill _ _ _ => true
    | .snap _ _ _ false => false
    | _ => decide (o.cursor < s.opSectors o) && (match s.nextSector id o with | .error .wait => false | _ => true)

/-- The order of R388: the earliest deadline, work without one last, ties in order of issue. -/
def earlier (a b : Nat × Nat) : Bool :=
  if a.2 == b.2 then decide (a.1 ≤ b.1) else if a.2 == 0 then false else b.2 == 0 || decide (a.2 < b.2)

/-- The chunk of a copy, a work entry or a collective that is picked next (R388); the product engines' extractions take turns of their
own. -/
def State.chunkPick (s : State) : List Turn :=
  let l := s.async.ops.filter (fun (id, o) => s.opMoves id o)
  let own := l.filter (fun (_, o) => match o.kind with | .job _ => true | _ => false)
  let shared := l.filter (fun (_, o) => match o.kind with | .job _ => false | _ => true)
  let pick := match shared.map (fun (id, o) => (id, s.opDeadline o)) with
    | [] => []
    | x :: t => [(t.foldl (fun m y => if earlier m y then m else y) x).1]
  (own.map (·.1) ++ pick).map (fun id => .event (.sectorComplete id))

/-- Operations that have moved everything report it; snapshots start and logs take their turn. -/
def State.opWork (s : State) : List Turn :=
  s.async.ops.filterMap (fun (id, o) =>
    if o.fault.isSome then none else
    match o.kind with
    | .snap _ _ _ false => some (.event (.snapshotCopyStart id))
    | .log _ _ => some (.event (.tlogComplete id))
    | .job _ => none
    | .entry _ _ => none
    | .coll _ => none
    | .refill _ _ _ => none
    | k => if !s.opMoved o then none else match k with
      | .fetch _ _ _ _ _ _ _ _ => some (.event (.tileFetch id))
      | .evict _ _ _ _ => some (.event (.tileEvict id))
      | .move _ _ _ _ _ => some (.event (.tmovComplete id))
      | _ => some (.event (.copyDone id)))

/-- The row of a request that was held until its turn (R371, R376). -/
def packetRow (p : Packet) : Option Instr :=
  match p.kind with
  | 0x01 => some (.fabricRead p)
  | 0x03 => some (.fabricWrite p)
  | 0x04 => some (.fabricAtomic p)
  | 0x05 => some (.fabricWriteReduce p)
  | 0x06 => some (.fabricSignal p)
  | 0x09 => some (.fabricChunk p)
  | 0x0A => some (.fabricReady p)
  | 0x0B => some (match p.body with | .departure _ => .departureReport p | _ => .fabricBarrierArrival p)
  | _ => none

def State.fabricWork (s : State) : List Turn :=
  (s.async.early.filter s.inTurn).filterMap (fun p => (packetRow p).map Turn.event) ++
    s.async.colls.filterMap (fun (i, c) =>
      if cdReduces c.desc && !c.reduced && c.counter == 0 then some (.event (.reducePanel i)) else none)

/-- Data of loads that arrive, skeins that are saved, bound off or have ended a step. -/
def State.skeinWork (s : State) : List Turn :=
  s.async.data.map (fun (i, _) => Turn.event (.datumArrival i)) ++
    s.work.skeins.filterMap (fun (i, k) =>
      if s.stepsSkein i && s.stepOver then some (.event (.debugStop i { reason := 6, core := 0, slot := 0, pc := 0 }))
      else if k.phase == .saving then (if s.savesLater i then none else some (.event (.skeinSaved i)))
      else if k.phase == .placed && (s.skeinPanels i).isEmpty && !(s.async.ops.any (fun (_, o) => o.holdsSkein i)) then
        some (.event (.skeinBoundOff i))
      else none)

/-- The walker takes the oldest ready node of an instance (R64). -/
def State.walkerWork (s : State) : List Turn :=
  s.work.runs.filterMap (fun (gi, g) => match g.ready with
    | [] => none
    | i :: _ =>
      let row := if (kget g.loops i).isSome then 6 else nodeRow (s.readNode g i)
      some (.event (match row with
        | 1 => .nodeKernel gi
        | 2 => .nodeCopy gi
        | 3 => .nodeCollective gi
        | 4 => .nodeJoin gi
        | 5 => .nodeConditional gi
        | 6 => .nodeLoop gi
        | 7 => .nodeEvent gi
        | _ => .nodeEnd gi)))

/-- The row of the packet the launcher takes next (R62). -/
def State.nextPacket (s : State) : Option Instr :=
  s.nextQueue.map (fun q =>
    let x := s.queue q
    if x.waiting.isSome then .waitPacketRelease q else match s.headPacket x with
      | none => .packetNop q
      | some p => match pkType p with
        | 1 => .packetGraph q
        | 2 => .packetSignal q
        | 3 => .packetWait q
        | 4 => .packetMarker q
        | _ => .packetNop q)

/-- The launcher reads tails that have changed (R58) and takes the next packet (R62). -/
def State.launcherWork (s : State) : List Turn :=
  s.tables.queues.filterMap (fun (q, x) =>
    if x.state != 1 then none else
    match s.readRange (s.whoOf x.ctx.toNat) x.tailaddr 8 with
    | .ok b => if leNat b == x.tail.toNat && !s.packetUnread x then none else some (.event (.tailWrite q none))
    | .error _ => none) ++
  (if s.launcherFree then s.nextPacket.toList.map .event else [])

/-- Everything that can take a turn now. -/
def State.turns (s : State) : List Turn :=
  s.courseWork ++ s.panelWork ++ s.engineWork ++ s.chunkPick ++ s.opWork ++ s.fabricWork ++ s.skeinWork ++ s.walkerWork ++ s.launcherWork

/-! ## What is due at a time -/

/-- Outstanding requests: the timeout of R379 or R380, or the abandonment of R433. -/
def State.reqTimers (s : State) : List (Nat × Instr) :=
  s.async.reqs.filterMap (fun (i, r) =>
    if r.ended.isSome then none else
    let t := r.sent + replyLimit
    match r.kind with
    | .fld sk p k _ _ _ _ =>
      let left : Bool := match s.courseBy sk p k with
        | some (_, _, c) => c.fr0.isEmpty && c.fr1.isEmpty && c.fr2.isEmpty
        | none => false
      some (t, if left then .replyAbandon i else .fldReplyTimeout i)
    | _ => some (t, .fabricTimeout i))

/-- Collectives: the watchdog and what goes out again (R387, R389). -/
def State.collTimers (s : State) : List (Nat × Instr) :=
  s.async.colls.flatMap (fun (i, c) =>
    (if c.fired || c.done then [] else [(c.watchAt, Instr.collLate i)]) ++
      (match (c.resend.map (·.1)).min? with | some t => [(t, Instr.readyResend i)] | none => []))

/-- Parked faults (R250). -/
def State.faultTimers (s : State) : List (Nat × Instr) :=
  s.async.faults.filterMap (fun (i, p) =>
    if p.again then none else some (if p.due then s.time.gt else p.tried + retryWait, .faultRetry i))

/-- PC samples of the partitions that hold courses of a sampled launch (R155). -/
def State.sampleTimers (s : State) : List (Nat × Instr) :=
  s.work.launches.flatMap (fun (l, v) => match s.samplePeriod v with
    | none => []
    | some p =>
      let parts := ((s.courses.filter (fun (_, c) => c.orphan.isNone && (s.skein? c.skein).elim false (fun k => k.launch == l))).map
        (fun (n, _) => n / 4)).eraseDups
      parts.map (fun n =>
        let now := s.time.gt / p
        (if (kget v.sampled n).getD 0 < now then s.time.gt else (now + 1) * p, Instr.pcSample (n / 8) (n % 8))))

/-- The master's sync messages (R77). -/
def State.syncTimer (s : State) : List (Nat × Instr) :=
  if s.isMaster && s.dev.ready then [(s.time.lastSync + s.syncInterval, .syncInterval)] else []

/-- The launcher's next packet, 64 gt after the last it accepted (R62). -/
def State.launcherTimer (s : State) : List (Nat × Instr) :=
  if s.launcherFree then [] else s.nextPacket.toList.map (fun i => (s.work.takeAt, i))

/-- The earliest of some timed events; the first of the list among equals. -/
def earliest : List (Nat × Instr) → Option (Nat × Instr)
  | [] => none
  | x :: t => match earliest t with
    | some y => if y.1 < x.1 then some y else some x
    | none => some x

/-- A turn's place in the order in which the units take turns: courses by core and slot, sequencers, then what the other units do, kind by
kind and in each kind by number (log 4). -/
def Turn.key : Turn → Nat × Nat
  | .course core slot => (0, courseKey core slot)
  | .stream core pslot => (1, panelKey core pslot)
  | .event i => match i with
    | .courseRetired core slot => (2, courseKey core slot)
    | .parkedAccessResume core slot => (3, courseKey core slot)
    | .engineStop core _ => (4, core)
    | .tileExtract core => (5, core)
    | .sbwGateOpen core => (6, core)
    | .depthStep core => (7, core)
    | .sectorComplete id => (8, id)
    | .snapshotCopyStart id => (9, id)
    | .tlogComplete id => (10, id)
    | .tileFetch id => (11, id)
    | .tileEvict id => (12, id)
    | .tmovComplete id => (13, id)
    | .copyDone id => (14, id)
    | .reducePanel id => (16, id)
    | .datumArrival id => (17, id)
    | .debugStop sk _ => (18, sk)
    | .skeinSaved sk => (19, sk)
    | .skeinBoundOff sk => (20, sk)
    | .nodeKernel g | .nodeCopy g | .nodeCollective g | .nodeJoin g | .nodeConditional g | .nodeLoop g | .nodeEvent g | .nodeEnd g => (21, g)
    | .tailWrite q _ => (22, q)
    | .packetNop q | .packetGraph q | .packetSignal q | .packetWait q | .packetMarker q | .waitPacketRelease q => (23, q)
    | _ => (15, 0)

/-- The order of keys. -/
def keyBefore (a b : Nat × Nat) : Bool := decide (a.1 < b.1) || (a.1 == b.1 && decide (a.2 < b.2))

/-- The first of some turns in the order of keys. -/
def firstTurn : List Turn → Option Turn
  | [] => none
  | t :: l => match firstTurn l with
    | some u => if keyBefore u.key t.key then some u else some t
    | none => some t

/-- The turn that comes after the one that was taken last, going round: no unit is locked out, and in each partition the courses follow one
another (R137). -/
def State.nextTurn (s : State) (l : List Turn) : Option Turn :=
  match firstTurn (l.filter (fun t => keyBefore s.rotor t.key)) with
  | some t => some t
  | none => firstTurn l

/-- How long a turn takes: one clock, and two where every partition issues on one clock in two, at the floor of the clock (R14). -/
def State.turnGt (s : State) (t : Turn) : Nat :=
  let issues := match t with | .course _ _ | .stream _ _ => true | .event _ => false
  if issues && s.dev.clock ≤ 400 && s.dev.meanAbove 75000 then 2 * s.clockGt else s.clockGt

/-- What happens next at a time of its own: the placement unit's steps come before other events of the same time, the agenda's before the
timers (log 4). -/
def State.due (s : State) : Option (Nat × Turn × State) :=
  let place := earliest s.placementDue
  let timer := earliest (s.reqTimers ++ s.collTimers ++ s.faultTimers ++ s.sampleTimers ++ s.syncTimer ++ s.launcherTimer ++ s.partTimers)
  let item : Option (Nat × Turn × State) := match s.agenda with
    | [] => none
    | it :: rest => some (it.at_, it.turn, { s with agenda := rest })
  let best : Option (Nat × Turn × State) := match item, timer with
    | some (t, x, s1), some (u, i) => if u < t then some (u, .event i, s) else some (t, x, s1)
    | some y, none => some y
    | none, some (u, i) => some (u, .event i, s)
    | none, none => none
  match place, best with
  | some (t, i), some (u, x, s1) => if u < t then some (u, x, s1) else some (t, .event i, s)
  | some (t, i), none => some (t, .event i, s)
  | none, b => b

/-- Some gt of the device's own oscillator pass, and the clock then reads t. What is to be slewed away of an offset goes by at most 1 gt in
10,000 (R78). -/
def State.slewFor (s : State) (d t : Nat) : State :=
  let n := s.time.slewAcc + d
  let k : Nat := min (n / 10000) s.time.slew.natAbs
  { s with time := { s.time with gt := t, slewAcc := n % 10000,
                                 slew := if 0 < s.time.slew then s.time.slew - k else s.time.slew + k } }

/-- The clock comes to read t. -/
def State.passTo (s : State) (t : Nat) : State := if t ≤ s.time.gt then s else s.slewFor (t - s.time.gt) t

/-- Some gt pass: a clock that is ahead gains less, one that lags more, and it never runs backward (R78). -/
def State.passFor (s : State) (d : Nat) : State :=
  let k : Nat := min ((s.time.slewAcc + d) / 10000) s.time.slew.natAbs
  s.slewFor d (if 0 < s.time.slew then s.time.gt + d - k else s.time.gt + d + k)

/-- One turn. -/
def State.perform (s : State) (t : Turn) : Host.Outcome State Fault Refusal :=
  match t with
  | .event i => exec i { s with focus := .none }
  | .course core slot => s.courseTurn core slot
  | .stream core pslot => s.streamTurn core pslot

/-- What comes next and when: something due before the turn that is next has passed, else that turn of a unit, each unit in rotation; else
whatever is due next; else one clock passes. -/
def State.advance (s : State) : Option Turn × State :=
  let take (u : Turn) : Option Turn × State := (some u, { s.passFor (s.turnGt u) with rotor := u.key })
  match s.due, s.nextTurn s.turns with
  | some (t, x, s1), some u => if t < s.time.gt + s.turnGt u then (some x, s1.passTo t) else take u
  | some (t, x, s1), none => (some x, s1.passTo t)
  | none, some u => take u
  | none, none => (none, s.passFor s.clockGt)

/-- What the always-on domain and the management interface act on while the device is unpowered (R16, R18, R27). -/
def actsUnpowered : Instr → Bool
  | .powerOn _ | .powerUpCommand _ | .junctionBelow80c _ _ | .powerLoss _ | .thermalExcursionEnd _ => true
  | _ => false

/-- An unpowered device: the first item of the agenda comes when its time does, and acts if the always-on domain takes it. -/
def State.restOnce (s : State) : Host.Outcome State Fault Refusal :=
  match s.agenda with
  | [] => .next s
  | it :: rest =>
    let s := { s with agenda := rest, focus := .none }.passTo it.at_
    match it.turn with
    | .event i => if actsUnpowered i then exec i s else .next s
    | _ => .next s

/-- One step. Between turns nobody issues. -/
def State.stepOnce (s : State) : Host.Outcome State Fault Refusal :=
  if !s.dev.powered then s.restOnce else
  match s.advance with
  | (none, s) => .next s
  | (some t, s) => match s.perform t with
    | .next s => .next { s with focus := .none }
    | o => o

end Sys2Proof.Machine
end

