-- ==== Sys2Proof/Machine/Load.lean ====
section
/-! DEFINITION. A machine whose next step issues one given slot: what the launch of a kernel of one course leaves behind, with that slot's
line in the instruction cache (log 15). -/
namespace Sys2Proof.Machine

/-- A line of five slots whose parities hold, every slot a legal target (R99 to R101). -/
def lineOf (slots : List Slot) : LineBits :=
  let x := slots.zipIdx.foldl (fun n (w, i) => n + w.toNat <<< (96 * i)) 0
  let spar := slots.zipIdx.foldl (fun n (w, i) => if xorBits w then n + 2 ^ (9 + i) else n) 0
  let word := 0x1F + spar
  let word := if popCount (BitVec.ofNat 32 word) % 2 == 1 then word + 2 ^ 14 else word
  BitVec.ofNat 512 (x + word <<< 480)

/-- Where the slot stands. -/
def loadPc : Word := 0x1000

/-- The header of a launch of one skein, one panel, one course and one strand; its window has 48 positions. -/
def loadHeader (stream : Bool) : Header :=
  { entryPc := loadPc, stream := if stream then loadPc else 0,
    shape := BitVec.ofNat 64 (1 + 1 * 2 ^ 4 + 1 * 2 ^ 9 + 1 * 2 ^ 12 + 1 * 2 ^ 14 + 6 * 2 ^ 42 + 1 * 2 ^ 46 + 1 * 2 ^ 51),
    e3 := 1, e4 := 1, e5 := 1, ttcount := 0, ntens := 0, affinity := 0, deadline := 0, ttbase := 0, statbuf := 0, trbase := 0,
    trsize := 0, trctl := 0, localbase := 0, localsize := 0, entryprio := 0 }

def loadLaunch (stream : Bool) : Launch :=
  { run := 0, node := 0, ctx := 1, entry := ContextEntry.zero, hdr := loadHeader stream, args := Vector.replicate 5 0, cause := 1,
    parent := 0, traced := false, stats := [], sampled := [], barriers := Vector.replicate 4 (Barrier.start 1 false), joins := [],
    bound := 0, applied := 0, suspended := none, dropped := 0, late := false, killed := false, attached := false }

def loadSkein : Skein :=
  { launch := 0, index := 0, cause := 1, parent := 0, stamp := 0, phase := .placed, cores := [0], granules := [[0, 1]],
    barriers := Vector.replicate 8 (Barrier.start 1 false), attempts := 0, denials := 0, nextTry := 0, blocked := false, quota := none,
    placedAt := 0, claims := [], attached := false, stopped := false, saveSlot := 0, saveBase := 0, stashP := [], stashC := [],
    asked := 0, inImage := [], homes := 0 }

/-- The slot stands at slot 0 of the line at `loadPc`, in the cache of core 0, and course 0 of panel 0 there, or that panel's sequencer
when only the matrix stream has the instruction, is about to issue it. -/
def State.loadSlot (s : State) (w : Slot) : State :=
  let stream : Bool := match decodeSlot false w with | .ok _ => false | .error _ => (match decodeSlot true w with | .ok _ => true | .error _ => false)
  let v := loadLaunch stream
  { s with
    work := { s.work with launches := [(0, v)], skeins := [(0, loadSkein)] }
    panels := [(0, { Panel.start v.hdr 0 0 with sstarted := true })]
    courses := [(0, { Course.start v 0 0 0 0 with started := true })]
    cores := [(0, { Core.zero with icache := [icMark 1 loadPc (lineOf [w])], granules := [(0, .held 0), (1, .held 0)] })]
    agenda := [⟨s.time.gt, if stream then .stream 0 0 else .course 0 0⟩] }

end Sys2Proof.Machine
end

