-- ==== Sys2Proof/Machine/Step.lean ====
section
/-! DEFINITION. One step of the machine, and the state whose next step runs a given instruction. -/
namespace Sys2Proof.Machine

/-- One step: what comes next in time takes place (log 4). -/
def step (s : State) : Host.Outcome State Fault Refusal := s.stepOnce

/-- The state whose next step issues the slot w (log 15). -/
def State.withFetchWord (s : State) (_nbits w : Nat) : State := s.loadSlot (BitVec.ofNat 96 w)

end Sys2Proof.Machine
end

