-- ==== Sys2Proof/Safety.lean ====
section
/-! DEFINITION. What claims are stated in: a well-kept state, a course or sequencer that issues, an instruction that completes, and the
registers it wrote. -/
namespace Sys2Proof.Safety
open Sys2Proof.Machine

/-! ## Well-kept states -/

/-- Every memory keeps its canonical form. -/
def memoryKept (s : State) : Prop :=
  Memory.wf s.mem.hbm = true ∧ Memory.wf s.mem.lpddr = true ∧ Memory.wf s.mem.host = true ∧ Memory.wf s.mem.die = true ∧
    Memory.wf s.mem.unit = true

/-! ## A course issues -/

/-- A course issues an instruction (R105, R140, R141, R143): `I` names the course, its head entry, the executing strands, of which there
is one, and whether it issues uniformly; the registers that are compared across strands agree, and no fault of this instruction is parked
(R250). `rmw` says that the instruction reads its destination, `req` lists further registers it compares. -/
structure Issues (s : State) (i : Instr) (rmw : Bool) (req : List Reg) (I : Iss) : Prop where
  focus  : s.focus = .course I.core I.slot
  course : s.course? I.core I.slot = some I.c
  live   : I.c.orphan = none
  head   : headEntry I.c.front = some I.E
  who    : I.w = s.courseWho I.core I.c
  form   : ∃ f, i.form false = some f ∧ I.lanes = guardLanes I.c I.E f.c.guard ∧ I.uni = formUniform f rmw ∧
    I.differs ((if f.c.u then formSources f rmw else []) ++ req) = none
  some   : I.lanes ≠ []
  leader : I.leader = I.lanes.headD 0
  faults : ∀ p ∈ s.async.faults, p.2.who ≠ .course I.core I.slot I.E.pc

/-- The state an issuing instruction acts on: the course's one-time passes are used up (R414, R419). -/
def passed (s : State) (I : Iss) : State :=
  if I.c.passAt.isSome || I.c.stepFree || I.c.resumed then s.setCourse I.core I.slot { I.c with passAt := none, stepFree := false, resumed := false } else s

/-- The strand whose registers a result is computed from: the leader's when the instruction issues uniformly (R140). -/
def sourceOf (I : Iss) (lane : Nat) : Nat := if I.uni then I.leader else lane

/-- The instruction completes (R144, R147): the strands of its entry go on at `to`, those of the other entries stay where they are, other
levels and other courses do not change, and of the course itself only its registers and its frontier do. The one-time passes of R414 and
R419 are used up. -/
structure Moves (s t : State) (I : Iss) (c : Course) (to_ : Nat → Word) : Prop where
  course : t.course? I.core I.slot = some c
  others : ∀ k, k ≠ courseKey I.core I.slot → kget t.courses k = kget s.courses k
  next   : ∀ i, I.E.mask.getLsbD i = true → ∃ e ∈ c.front, e.mask.getLsbD i = true ∧ e.pc = to_ i
  stay   : ∀ e ∈ I.c.front.erase I.E, ∃ e' ∈ c.front, e.mask &&& e'.mask = e.mask ∧ e'.pc = e.pc
  levels : ∀ l, l < 3 → l ≠ I.c.level.val → c.fr l = I.c.fr l
  passes : c.passAt = none ∧ c.stepFree = false ∧ c.resumed = false
  rest   : { c with kreg := I.c.kreg, strands := I.c.strands, fr0 := I.c.fr0, fr1 := I.c.fr1, fr2 := I.c.fr2, passAt := I.c.passAt,
                    stepFree := I.c.stepFree, resumed := I.c.resumed } = I.c

/-- Nothing outside the courses changes: no memory, no other unit, no event. -/
def Quiet (s t : State) : Prop := { t with courses := s.courses } = s

/-- What a register holds after v is written to it (R106): k0, p0 and a tile handle take nothing, a predicate takes bit 0. -/
def taken (r : Reg) (v old : VReg) : VReg :=
  match r with
  | .v _ => v
  | .w _ => VReg.ofWord (v.bits.setWidth 64)
  | .k i => if i = 0 then old else VReg.ofWord (v.bits.setWidth 64)
  | .p i => if i = 0 then old else VReg.ofWord (if v.bits.getLsbD 0 then 1 else 0)
  | .t _ => old

/-- The executing strands' destination takes their values (a register that strands share takes the one value), and every other register
of every strand keeps its own; so does what a strand holds beside registers, but for the sticky flags, which take `flags`. -/
structure Wrote (I : Iss) (c : Course) (dst : Reg) (v : Nat → VReg) (flags : Nat → Flags := fun _ => 0) : Prop where
  regs  : ∀ lane, lane < 16 → ∀ r, c.whole lane r =
    if r = dst ∧ (lane ∈ I.lanes ∨ Reg.shared dst = true) then taken dst (v (if lane ∈ I.lanes then sourceOf I lane else I.leader)) (I.c.whole lane r)
    else I.c.whole lane r
  stack : ∀ lane, lane < 16 → ∀ n, (∀ j : Fin 24, n ≠ (I.c.st lane).wb + j.val) → (c.st lane).posGet n = (I.c.st lane).posGet n
  flags : ∀ lane, lane < 16 → (c.st lane).fpstat = if lane ∈ I.lanes then (I.c.st lane).fpstat ||| flags (sourceOf I lane) else (I.c.st lane).fpstat
  rest  : ∀ lane, lane < 16 → { c.st lane with k2 := (I.c.st lane).k2, stack := (I.c.st lane).stack, v := (I.c.st lane).v,
                                               p := (I.c.st lane).p, fpstat := (I.c.st lane).fpstat } = I.c.st lane

/-- No register of any strand changes. -/
def NoRegister (I : Iss) (c : Course) : Prop := c.kreg = I.c.kreg ∧ c.strands = I.c.strands

/-- A destination that strands share gets one value (R141). -/
def OneValue (I : Iss) (dst : Reg) (v : Nat → VReg) : Prop :=
  Reg.shared dst = true → ∀ i ∈ I.lanes, v (sourceOf I i) = v I.leader

/-- Whenever a course issues `i` under `pre`, the instruction completes: the executing strands' `dst` takes the values `v`, computed from
the registers before it, their sticky flags gain `g`, and nothing else of the machine changes. -/
def Yields (i : Instr) (rmw : Bool) (req : List Reg) (pre : State → Iss → Prop) (dst : Reg) (v : State → Iss → Nat → VReg)
    (g : State → Iss → Nat → Flags := fun _ _ _ => 0) : Prop :=
  ∀ s I, Issues s i rmw req I → pre s I → OneValue I dst (v s I) →
    ∃ t c, exec i s = .next t ∧ Moves s t I c (fun _ => pcNext I.E.pc) ∧ Wrote I c dst (v s I) (g s I) ∧ Quiet s t

/-! ## A sequencer issues -/

/-- A panel's sequencer issues (R139, R184), and no fault of its own is parked. -/
structure Streams (s : State) (core pslot : Nat) (p : Panel) : Prop where
  focus  : s.focus = .stream core pslot
  panel  : s.panel? core pslot = some p
  ready  : p.swait = .none ∨ p.swait = .again
  faults : ∀ q ∈ s.async.faults, q.2.who ≠ .stream core pslot

/-- The sequencer's instruction completes: it goes on at `pc` with m registers `m`, and nothing else changes. -/
structure Sequenced (s t : State) (core pslot : Nat) (p : Panel) (m : Vector Word 16) (pc : Word) : Prop where
  panel  : t.panel? core pslot = some { p with m, spc := pc, swait := .none }
  others : ∀ k, k ≠ panelKey core pslot → kget t.panels k = kget s.panels k
  rest   : { t with panels := s.panels } = s

/-- The instruction traps in the strands of a mask and has no other effect (R157). -/
def Traps (s : State) (i : Instr) (I : Iss) (t : Trp) (m : BitVec 16) : Prop := exec i s = .next ((passed s I).failed I (.trap t) m)

/-! ## The integer table (R170 to R176), over the W-bit values of the operands -/

/-- The immediate as W bits (R170). -/
def immBits (f : Gen) (W : Nat) : BitVec W := (f.imm.signExtend 64).setWidth W

/-- A field of L ones at P (R176). -/
def fieldMask (W P L : Nat) : BitVec W := BitVec.ofNat W (2 ^ L - 1) <<< P

/-- R172 and R176: the result of a two-source form, its fields, and the tag its vector form leaves. -/
def twoSource : Instr → Option (Gen × TagRule × ((W : Nat) → BitVec W → BitVec W → BitVec W))
  | .add f => some (f, .a, fun _ x y => x + y)
  | .sub f => some (f, .a, fun _ x y => x - y)
  | .mul f => some (f, .a, fun _ x y => x * y)
  | .mulh f => some (f, .s, fun W x y => ((x.signExtend (2 * W) * y.signExtend (2 * W)) >>> W).setWidth W)
  | .mulhu f => some (f, .u, fun W x y => ((x.setWidth (2 * W) * y.setWidth (2 * W)) >>> W).setWidth W)
  | .and f => some (f, .a, fun _ x y => x &&& y)
  | .or f => some (f, .a, fun _ x y => x ||| y)
  | .xor f => some (f, .a, fun _ x y => x ^^^ y)
  | .andn f => some (f, .a, fun _ x y => x &&& ~~~y)
  | .shl f => some (f, .a, fun W x y => x <<< (y.toNat % W))
  | .shr f => some (f, .a, fun W x y => x >>> (y.toNat % W))
  | .sar f => some (f, .a, fun W x y => x.sshiftRight (y.toNat % W))
  | .rol f => some (f, .a, fun W x y => x.rotateLeft (y.toNat % W))
  | .min f => some (f, .s, fun _ x y => if x.slt y then x else y)
  | .max f => some (f, .s, fun _ x y => if y.slt x then x else y)
  | .minu f => some (f, .u, fun _ x y => if x.ult y then x else y)
  | .maxu f => some (f, .u, fun _ x y => if y.ult x then x else y)
  | .bfi f => some (f, .a, fun W x y =>
      let m := fieldMask W (bfPos f) (bfLen f)
      (x &&& ~~~m) ||| ((y <<< bfPos f) &&& m))
  | _ => none

/-- R173, R175 and R176: the result of a form with source A alone. -/
def oneSource : Instr → Option (Gen × TagRule × ((W : Nat) → BitVec W → BitVec W))
  | .addi f => some (f, .a, fun W x => x + immBits f W)
  | .clz f => some (f, .u, fun W x => BitVec.ofNat W (((List.range W).find? (fun i => x.getLsbD (W - 1 - i))).getD W))
  | .ctz f => some (f, .u, fun W x => BitVec.ofNat W (((List.range W).find? (fun i => x.getLsbD i)).getD W))
  | .popc f => some (f, .u, fun W x => BitVec.ofNat W ((List.range W).countP (fun i => x.getLsbD i)))
  | .brev f => some (f, .a, fun _ x => x.reverse)
  | .abs f => some (f, .a, fun _ x => if x.msb then -x else x)
  | .bfx f => some (f, .a, fun W x =>
      let r := x.extractLsb' (bfPos f) (bfLen f)
      if f.mod.getLsbD 4 then r.signExtend W else r.setWidth W)
  | _ => none

/-- R174, for a divisor that is not zero: quotient and remainder truncate toward zero. -/
def division : Instr → Option (Gen × TagRule × ((W : Nat) → BitVec W → BitVec W → BitVec W))
  | .div f => some (f, .s, fun _ x y => x.sdiv y)
  | .divu f => some (f, .u, fun _ x y => x / y)
  | .rem f => some (f, .s, fun _ x y => x.srem y)
  | .remu f => some (f, .u, fun _ x y => x % y)
  | _ => none

/-- A W-bit result extended to 64 bits (R170). -/
def widen (f : Gen) {W : Nat} (r : BitVec W) : Word := if modSx f.mod then r.signExtend 64 else r.setWidth 64

/-- The low W bits of a scalar source. -/
def lowBits (I : Iss) (lane : Nat) (r : Reg) (W : Nat) : BitVec W := (I.c.read lane r).setWidth W

/-- Element i of W bits of a v source (R171). -/
def element (I : Iss) (lane : Nat) (r : Reg) (W i : Nat) : BitVec W := ((I.c.rd lane).vec r).bits.extractLsb' (W * i) W

/-- The vector of 512 ÷ W elements. -/
def vector (W : Nat) (e : Nat → BitVec W) : Vec := BitVec.ofNat 512 ((List.range (512 / W)).map (fun i => (e i).toNat * 2 ^ (W * i))).sum

/-- A v source carries an integer tag of width W (R171). -/
def intSource (I : Iss) (r : Reg) (W : Nat) : Prop :=
  ∀ lane ∈ I.runs, intTag ((I.c.rd lane).vec r).tag = true ∧ tagWidth ((I.c.rd lane).vec r).tag = W

/-- A strand's divisor is zero, or an element of it in a vector form (R174). -/
def zeroDivisor (I : Iss) (lane : Nat) (f : Gen) : Prop :=
  if modV f.mod then ∃ j < 512 / intWidth f.mod, element I lane f.sb (intWidth f.mod) j = 0
  else lowBits I lane f.sb (intWidth f.mod) = 0

/-! ## The moves (R177 to R182) -/

/-- The issuer whose strands each use their own values, also under U (R183, R230). -/
def own (I : Iss) : Iss := { I with uni := false }

/-- As `Yields`, for a form in which every executing strand gets a value of its own. -/
def YieldsEach (i : Instr) (req : List Reg) (pre : State → Iss → Prop) (dst : Reg) (v : State → Iss → Nat → VReg) : Prop :=
  ∀ s I, Issues s i false req I → pre s I → OneValue (own I) dst (v s I) →
    ∃ t c, exec i s = .next t ∧ Moves s t I c (fun _ => pcNext I.E.pc) ∧ Wrote (own I) c dst (v s I) ∧ Quiet s t

/-- A predicate result. -/
def truth (b : Bool) : VReg := VReg.ofWord (if b then 1 else 0)

/-- R180. -/
def condition (n W : Nat) (x y : BitVec W) : Bool :=
  if n = 0 then x == y else if n = 1 then x != y else if n = 2 then x.slt y else if n = 3 then y.sle x else if n = 4 then x.ult y else y.ule x

/-! ## Floating point (R186 to R192, R207 to R214) -/

/-- A finite value at a scale: the integer n with value n × 2^k, for k not above its exponent. -/
def scaled (k : Int) : FpNum → Int
  | .fin neg mag e => (if neg then -1 else 1) * (mag : Int) * 2 ^ (e - k).toNat
  | _ => 0

/-- The finite encodings of a format. -/
def finite (T : Tag) (b : Nat) : Prop := b < 2 ^ tagWidth T ∧ (numOf T b).isFin = true

/-- The lowest exponent of a format: that of its subnormals (R188). -/
def lowExp (T : Tag) : Int := 1 - (fpBias T : Int) - fracBits T

/-- R209, R210, R213 and R214: a form's fields, its number of sources, the tag of its vector results, and its result on the encodings of
its operands. -/
def fpRule : Instr → Option (Gen × Nat × Tag × (Nat → Nat → Nat → Rnd))
  | .fadd f => let T := fpT f.mod; some (f, 2, T, fun a b _ => addRnd T (fpRm f.mod) (numOf T a) (numOf T b))
  | .fsub f => let T := fpT f.mod; some (f, 2, T, fun a b _ => addRnd T (fpRm f.mod) (numOf T a) (numOf T b).neg)
  | .fmul f => let T := fpT f.mod; some (f, 2, T, fun a b _ => mulRnd T (fpRm f.mod) (numOf T a) (numOf T b))
  | .fma f => let T := fpT f.mod; some (f, 3, T, fun a b c => fmaRnd T (fpRm f.mod) (numOf T a) (numOf T b) (numOf T c))
  | .fdiv f => let T := fpT f.mod; some (f, 2, T, fun a b _ => divRnd T (fpRm f.mod) (numOf T a) (numOf T b))
  | .fsqrt f => let T := fpT f.mod; some (f, 1, T, fun a _ _ => sqrtRnd T (fpRm f.mod) (numOf T a))
  | .frcp f => let T := fpT f.mod; some (f, 1, T, fun a _ _ => divRnd T (fpRm f.mod) (.fin false 1 0) (numOf T a))
  | .frsq f => let T := fpT f.mod; some (f, 1, T, fun a _ _ => rsqrtRnd T (fpRm f.mod) (numOf T a))
  | .fex2 f => let T := fpT f.mod; some (f, 1, T, fun a _ _ => exp2Rnd T (fpRm f.mod) (numOf T a))
  | .flg2 f => let T := fpT f.mod; some (f, 1, T, fun a _ _ => log2Rnd T (fpRm f.mod) (numOf T a))
  | .fmin f => let T := fpT f.mod; some (f, 2, T, fun a b _ => Rnd.exact (fpMinMax T false a b))
  | .fmax f => let T := fpT f.mod; some (f, 2, T, fun a b _ => Rnd.exact (fpMinMax T true a b))
  | .fcls f => let T := fpT f.mod; some (f, 1, intTagOf false (tagWidth T), fun a _ _ => Rnd.exact (fpClass T a))
  | .frnd f => let T := fpT f.mod; some (f, 1, T, fun a _ _ => rndIntegral T (fpRm f.mod) (numOf T a))
  | _ => none

/-- The low n bits of a scalar source as a number, and element i of a v source; 0 for a source the form does not have. -/
def fpScalar (f : Gen) (n : Nat) (I : Iss) (lane k : Nat) : Nat :=
  match ([f.sa, f.sb, f.sc].take n)[k]? with | some r => (lowBits I lane r (tagWidth (fpT f.mod))).toNat | none => 0
def fpElement (f : Gen) (n : Nat) (I : Iss) (lane k i : Nat) : Nat :=
  match ([f.sa, f.sb, f.sc].take n)[k]? with | some r => (element I lane r (tagWidth (fpT f.mod)) i).toNat | none => 0

/-- A v source of every running strand carries a tag. -/
def tagged (I : Iss) (r : Reg) (T : Tag) : Prop := ∀ lane ∈ I.runs, ((I.c.rd lane).vec r).tag = T

/-- The flags of all elements together (R208). -/
def allFlags (n : Nat) (r : Nat → Rnd) : Flags := (List.range n).foldl (fun m i => m ||| (r i).flags) 0

/-- As `Yields`, for a form that counts statistics of its launch (R205): the counters that the running strands name. -/
def Counting (i : Instr) (rmw : Bool) (pre : State → Iss → Prop) (dst : Reg) (v : State → Iss → Nat → VReg) (g : State → Iss → Nat → Flags)
    (keys : State → Iss → Nat → List Nat) : Prop :=
  ∀ s I, Issues s i rmw [] I → pre s I → OneValue I dst (v s I) →
    ∃ t c, exec i s = .next t ∧ Moves s t I c (fun _ => pcNext I.E.pc) ∧ Wrote I c dst (v s I) (g s I) ∧
      ({ t with courses := s.courses } : State) = s.countStats (s.launchId I.c) (I.runs.flatMap (keys s I))

/-- As `Yields`, for a form that may leave a block format's exponent pairs open: the values are `v` but for the pairs of the format's blocks,
and the pairs beyond them are zero (R196). -/
def YieldsOpen (i : Instr) (pre : State → Iss → Prop) (dst : Reg) (T : Tag) (bits : State → Iss → Nat → Vec) : Prop :=
  ∀ s I, Issues s i false [] I → pre s I →
    ∃ t c, ∃ e : Nat → Word, (∀ lane, wbTag T = true → (e lane).toNat < 2 ^ (16 * wbBlocks T)) ∧ exec i s = .next t ∧ Moves s t I c (fun _ => pcNext I.E.pc) ∧
      Wrote I c dst (fun lane => { bits := bits s I lane, tag := T, exps := if wbTag T then e lane else 0 }) ∧
      ({ t with courses := s.courses, freeCount := s.freeCount } : State) = s

/-- The vector register of one type whose element j is `e j`. -/
def typed (T : Tag) (e : Nat → BitVec (tagWidth T)) : VReg := { bits := vector (tagWidth T) e, tag := T, exps := 0 }

/-- One bit for each of n elements. -/
def bitSet (n : Nat) (b : Nat → Bool) : VReg := VReg.ofWord (BitVec.ofNat 64 ((List.range n).map (fun j => if b j then 2 ^ j else 0)).sum)

/-- The signed or unsigned value of an element (R186). -/
def elementInt (T : Tag) {W : Nat} (x : BitVec W) : Int := if signedTag T then x.toInt else x.toNat

/-- What a strand holds of a cross-strand operand: element j of a v register, or the low bits of a w register (R233). -/
def crossElement (f : Gen) (I : Iss) (lane j : Nat) : Nat :=
  match f.sa with
  | .v _ => (element I lane f.sa (tagWidth (fpT f.mod)) j).toNat
  | r => (lowBits I lane r (tagWidth (fpT f.mod))).toNat

/-- The value a cross-strand reduction writes from its elements. -/
def crossValue (f : Gen) (e : Nat → Nat) : VReg :=
  match f.sa with
  | .v _ => typed (fpT f.mod) (fun j => BitVec.ofNat _ (e j))
  | _ => VReg.ofWord (BitVec.ofNat 64 (e 0))

/-! ## Control -/

/-- The instruction completes and only the control part of its course changes: `base` is the course it leaves but for the frontier. -/
def Passes (s : State) (i : Instr) (I : Iss) (base : Course) (to_ : Nat → Word) (rest : State) : Prop :=
  ∃ t c, exec i s = .next t ∧ Moves s t { I with c := base } c to_ ∧ NoRegister I c ∧
    ({ t with courses := s.courses } : State) = { rest with courses := s.courses }

/-- What a transfer of the issuing course to a target finds (R119), and what it leaves of the instruction cache. -/
def target (s : State) (I : Iss) (pc : Word) : State × Option Stop := (passed s I).checkTarget I.core I.w true pc

/-- The tests of R161. -/
def signTest (n : Nat) (x : Word) : Prop :=
  if n = 0 then x = 0 else if n = 1 then x ≠ 0 else if n = 2 then x.toInt < 0 else if n = 3 then 0 ≤ x.toInt else if n = 4 then x.toInt ≤ 0
  else 0 < x.toInt

/-- No watchpoint is enabled (R417). -/
def Unwatched (s : State) : Prop := ∀ x ∈ s.panels, ∀ i : Fin 4, x.2.watches[i].ctl.getLsbD 38 = false

/-- The registers of a course: everything its strands hold but the marks of pending loads and arrivals. -/
def registers (c : Course) : List Word × List Strand :=
  (c.kreg.toList, c.strands.toList.map (fun x => { x with pending := [], arrs := [] }))

/-- The registers of every course stay. -/
def RegistersKept (s t : State) : Prop := ∀ k, (kget t.courses k).map registers = (kget s.courses k).map registers

/-- The general register i of the current window (R149). -/
def window (c : Course) (lane : Nat) (i : Nat) : Word := (c.st lane).posGet ((c.st lane).wb + i)

/-- A home that no event record is written to (R72): outside the firn store's rings and views. -/
def outsideRings (s : State) (l : Loc) : Prop :=
  l.store ≠ .lpddr ∨ (32 ≤ s.firn.opsz.toNat ∧
    (l.addr < s.firn.base.toNat ∨ s.firn.base.toNat + max s.firn.size.toNat (4096 + s.firn.opsz.toNat) ≤ l.addr))

/-- Every byte of memory stays, but for the records of events. -/
def MemoryKept (s t : State) : Prop := ∀ l, outsideRings s l → t.peek l = s.peek l

/-- What CALL makes of a strand whose window and return stack stay on chip (R150, R151, R164). -/
def called (n : Nat) (pc : Word) (prio : Half) (x : Strand) : Strand :=
  { x with stack := x.stack.filter (fun p => !(decide (x.wb + 24 ≤ p.1) && decide (p.1 < x.wb + n + 24))), wb := x.wb + n, depth := x.depth + 1,
           rstack := x.rstack ++ [{ pc, prio, n }] }

/-- What RET makes of one whose caller's window and return entry are on chip (R150, R165). -/
def returned (r : RetEntry) (x : Strand) : Strand :=
  { x with stack := x.stack.filter (fun p => !(decide (x.wb - r.n + 24 ≤ p.1) && decide (p.1 < x.wb + 24))), wb := x.wb - r.n,
           low := min x.low (x.wb - r.n), depth := x.depth - 1, rstack := x.rstack.dropLast }

/-- The return entry on chip that a strand's RET takes, which R150 accepts and whose fills are on chip too. -/
def onChip (x : Strand) (r : RetEntry) : Prop :=
  x.depth ≠ 0 ∧ x.rstack.getLast? = some r ∧ 0 < r.n ∧ r.n ≤ 23 ∧ r.n ≤ x.wb ∧ x.low ≤ x.wb - r.n

/-- Some strands have left a course for good (R144, R166): they are not present and stand in no frontier, while no register of a strand
and no byte of memory has changed. -/
def Left (s t : State) (I : Iss) (gone : List Nat) : Prop :=
  RegistersKept s t ∧ MemoryKept s t ∧ ∃ c, t.course? I.core I.slot = some c ∧ c.present = I.c.present &&& ~~~(maskOf gone) ∧
    ∀ l < 3, ∀ e ∈ c.fr l, e.mask &&& maskOf gone = 0

/-! ## Memory -/

/-- The executing strands whose register a load's datum is on its way to: once for a register that strands share (R140, R141). -/
def receivers (I : Iss) (dst : Reg) : List Nat := if Reg.shared dst then I.lanes.take 1 else I.lanes

/-- A datum that has left for one strand's register (R142, R258). -/
def datumFor (I : Iss) (dst : Reg) (v : Nat → VReg) (s : State) (lane : Nat) : State :=
  match pendOf (I.c.st lane) dst with
  | none => s
  | some p => { s with
      work := { s.work with nextId := s.work.nextId + 1 }
      async := { s.async with data := kset s.async.data s.work.nextId { core := I.core, slot := I.slot, lane, reg := p, value := v lane } } }

/-- A strand whose register is marked pending. -/
def marked (x : Strand) (dst : Reg) : Strand := match pendOf x dst with | some p => x.setPend p | none => x

/-- The instruction completes as a load from the state `s1`: the executing strands' destination is pending and its datum, `v`, is on its
way; no register has changed. -/
def Loads (s s1 : State) (i : Instr) (I : Iss) (dst : Reg) (v : Nat → VReg) : Prop :=
  ∃ t c, exec i s = .next t ∧ Moves s t I c (fun _ => pcNext I.E.pc) ∧ c.kreg = I.c.kreg ∧
    (∀ lane < 16, c.st lane = if lane ∈ receivers I dst then marked (I.c.st lane) dst else I.c.st lane) ∧
    ({ t with courses := s.courses } : State) =
      (receivers I dst).foldl (datumFor I dst (fun lane => v (sourceOf I lane))) { s1 with courses := s.courses }

/-- The homes that an access is made at, and whether no write log takes part (R276). -/
def cells : Route → List Loc
  | .plain l n => (List.range n).map l.plus
  | .split ds => ds.filterMap (fun d => match d with | .mem l => some l | .log _ _ _ => none)
def logless (r : Route) : Prop := ∀ ds, r = .split ds → ∀ d ∈ ds, ∃ l, d = .mem l

/-- Bytes are stored in order: each pair gives the homes of one store and the byte it leaves at each, from the byte before it. Every other
byte of memory stays, and so does the rest of the machine; latent errors end where bytes are stored, and faults may be due for a retry. -/
structure StoredBytes (s t : State) (l : List (List Loc × (Nat → Byte → Byte))) : Prop where
  bytes  : ∀ x, t.peek x = l.foldl (fun b w => w.1.zipIdx.foldl (fun b (y, j) => if y = x then w.2 j b else b) b) (s.peek x)
  absent : t.mem.absent = s.mem.absent
  rest   : { t with mem := s.mem, async := { t.async with faults := s.async.faults } } = s

/-- Byte j of a value, whatever the byte was before. -/
def byteOf (v j : Nat) (_ : Byte) : Byte := BitVec.ofNat 8 (v / 256 ^ j)

/-- A nibble merged into a byte (R255). -/
def withNibble (hi : Bool) (v : Nat) (b : Byte) : Byte :=
  if hi then (b &&& 0x0F) ||| (BitVec.ofNat 8 (v % 16) <<< 4) else (b &&& 0xF0) ||| BitVec.ofNat 8 (v % 16)

/-- R262: the new value of an atomic, none where it writes nothing, from the old one, SC and DST; and whether DST is a source. -/
def atomic : Instr → Option (Mem × Bool × ((W : Nat) → (old op dst : BitVec W) → Option (BitVec W)))
  | .aadd f => some (f, false, fun _ old op _ => some (old + op))
  | .amin f => some (f, false, fun _ old op _ => some (if (if f.mod.getLsbD 3 then old.ult op else old.slt op) then old else op))
  | .amax f => some (f, false, fun _ old op _ => some (if (if f.mod.getLsbD 3 then op.ult old else op.slt old) then old else op))
  | .aand f => some (f, false, fun _ old op _ => some (old &&& op))
  | .aor f => some (f, false, fun _ old op _ => some (old ||| op))
  | .axor f => some (f, false, fun _ old op _ => some (old ^^^ op))
  | .axch f => some (f, false, fun _ _ op _ => some op)
  | .acas f => some (f, true, fun _ old op dst => if old = op then some dst else none)
  | .afad f => some (f, false, fun W old op _ =>
      let T : Tag := if W = 32 then 0x15 else 0x16
      some (BitVec.ofNat W (addRnd T 0 (numOf T old.toNat) (numOf T op.toNat)).bits))
  | _ => none

/-! ## Tiles and copies -/

/-- An operation of the issuing course is accepted (R285): it has the next identifier, it counts as outstanding of its course, its ranges
are locked on the course's core (R283, R284), and no other operation and no register changes. -/
def Begins (s : State) (i : Instr) (I : Iss) (kind : OpKind) (signal : Option (Nat × Nat × Word)) (locks : List (Word × Nat × Bool))
    (more : State → Prop) : Prop :=
  ∃ t c o, exec i s = .next t ∧ Moves s t { I with c := { I.c with asyncOut := I.c.asyncOut + 1 } } c (fun _ => pcNext I.E.pc) ∧ NoRegister I c ∧
    t.op? s.work.nextId = some o ∧ o.kind = kind ∧ o.signal = signal ∧ o.issuer = .course I.c.skein I.c.f2 I.c.f1 ∧ o.launch = s.launchId I.c ∧
    o.cursor = 0 ∧ o.fault = none ∧ (∀ id, id ≠ s.work.nextId → t.op? id = s.op? id) ∧
    t.work = { s.work with nextId := s.work.nextId + 1 } ∧
    (∀ x ∈ locks, ∃ n < 32, kget (s.core I.core).locks n = none ∧
      kget (t.core I.core).locks n = some { base := x.1, len := x.2.1, dst := x.2.2, issuer := 0, op := s.work.nextId }) ∧
    (∀ n y, kget (s.core I.core).locks n = some y → kget (t.core I.core).locks n = some y) ∧ more t

/-- Every byte of memory stays. -/
def BytesKept (s t : State) : Prop := ∀ l, t.peek l = s.peek l

/-- The handle of the issuing panel that a tile register names. -/
def handleOf (s : State) (I : Iss) (r : Reg) : Option Handle :=
  match r with
  | .t i => (s.panel? I.core I.c.pslot).bind (fun p => p.handles[i.val]?)
  | _ => none

/-- Nothing stands in the way of a fetch of a tile: no eviction, no snapshot copy and no log operation that runs or waits. -/
def tileFree (s : State) (l idx : Nat) : Prop :=
  (s.dirOf l idx).elim false (·.evicting) = false ∧ s.logBusy l idx = false ∧ s.logWaits l idx = false ∧
    s.async.ops.any (fun x => x.2.launch == some l && (match x.2.kind with | .snap i _ _ _ => i == idx | _ => false)) = false

/-! ## The engine -/

/-- The sequencer's instruction completes with the effect `s'`, and its panel is then `p'` with the next PC. -/
def Sequences (s : State) (i : Instr) (core pslot : Nat) (pc : Word) (s' : State) (p' : Panel) : Prop :=
  ∃ t, exec i s = .next t ∧ Sequenced s' t core pslot p' p'.m (pcNext pc)

/-- The sequencer waits at the instruction and issues it again (R139). -/
def SeqWaits (s : State) (i : Instr) (core pslot : Nat) (p : Panel) (s' : State) : Prop :=
  ∃ t, exec i s = .next t ∧ t.panel? core pslot = some { p with swait := .again } ∧
    (∀ k, k ≠ panelKey core pslot → kget t.panels k = kget s'.panels k) ∧ ({ t with panels := s'.panels } : State) = s'

/-- The m registers with one written. -/
def withM (p : Panel) (r : Reg) (v : Word) : Panel := { p with m := match r with | .w j => p.m.setIfInBounds j.val v | _ => p.m }

/-! ## Synchronisation -/

/-- The strands of the issuing entry are where `at_` says, in the frontier of their course. -/
def Stand (t : State) (I : Iss) (c : Course) (at_ : Entry → Prop) : Prop :=
  t.course? I.core I.slot = some c ∧ ∀ j, I.E.mask.getLsbD j = true → ∃ e ∈ c.front, e.mask.getLsbD j = true ∧ at_ e

/-- They have gone on to the next instruction. -/
def goneOn (I : Iss) (e : Entry) : Prop := e.pc = pcNext I.E.pc

/-- The device counter of a number in the issuing context's quota (R54, R368). -/
def quotaOf (s : State) (I : Iss) (cnum : Nat) : Option Nat := (s.launchOf I.c).bind (fun l => counterOf l.entry cnum)

/-- A form of a course that acts on a counter completes: no other counter changes, no memory but the records of events, and of the
registers only the destination, which takes the old values under OLD. -/
def CounterActs (s : State) (i : Instr) (I : Iss) (n : Nat) (old : Bool) (dst : Reg) (v : Nat → Word) (now : Counter → Prop) : Prop :=
  ∃ t c, exec i s = .next t ∧ Stand t I c (goneOn I) ∧ MemoryKept s t ∧ now (t.counter n) ∧ (∀ m, m ≠ n → t.counter m = s.counter m) ∧
    (old = false → RegistersKept s t) ∧ (old = true → Wrote I c dst (fun lane => VReg.ofWord (v lane)) ∧
      ∀ k, k ≠ courseKey I.core I.slot → (kget t.courses k).map registers = (kget s.courses k).map registers)

/-- The sum of a function of the strands that act before a strand. -/
def before (I : Iss) (f : Nat → Word) (lane : Nat) : Word := (((I.runs.takeWhile (· != lane)).map f).foldl (· + ·) 0)

/-! ## The launcher and the walker -/

/-- The head packet of a queue may be taken (R62): the queue's turn has come, and the packet is of a type and passes its checks. -/
def headIs (s : State) (q type p : Nat) : Prop :=
  s.nextQueue = some q ∧ s.work.takeAt ≤ s.time.gt ∧ (s.queue q).waiting = none ∧ s.headPacket (s.queue q) = some p ∧ pkType p = type ∧
    packetOk (s.ctxEntry (s.queue q).ctx.toNat) p = true

/-- A node that has started: its cause, and the state after its record (R64 steps 1 and 2). -/
def started (s : State) (gi : Nat) (g : GraphRun) (i : Nat) (rest : List Nat) (b : BitVec 512) : NodeRun × State :=
  let x := (s.setRun gi { g with ready := rest, early := g.early.erase i }).newCause launcherTaker
  ({ node := i, cause := x.1, bits := b, held := false, status := none, op := none }, x.2.emit (nodeEv g i b x.1 0x22 0))

/-- The oldest ready node of an instance may start: it is of a type, has an ordinary arrival and passes its checks. -/
def nodeIs (s : State) (gi type : Nat) (g : GraphRun) (i : Nat) (rest : List Nat) (b : BitVec 512) : Prop :=
  s.run? gi = some g ∧ g.ready = i :: rest ∧ kget g.loops i = none ∧ s.readNode g i = some b ∧ ndType b = type ∧ g.ended = false ∧
    i ∈ g.ordinary ∧ (started s gi g i rest b).2.nodeOk g b = true

/-! ## Fabric -/

/-- A request is the next of its flow at the device it is for (R376). -/
def nextOfFlow (s : State) (p : Packet) : Prop := p.dst.toNat = s.devNo ∧ p.seq = (s.seqAt p.src.toNat p.flow).2

/-- A request has been performed and answered, which leaves `s1`: its flow expects the next number, unless a later request has been
performed ahead of its turn. -/
def Performed (t : State) (p : Packet) (s1 : State) : Prop :=
  ({ t with async := { t.async with expected := s1.async.expected, early := s1.async.early } } : State) = s1 ∧
    ((∀ q ∈ s1.async.early, q.kind ≠ 0) → t.seqAt p.src.toNat p.flow = (p.ent, p.seq + 1))

/-- A request refused with a reason and no effect (R374). -/
def Refused (s : State) (p : Packet) (i : Instr) (reason detail : Byte) : Prop :=
  ∃ t, exec i s = .next t ∧ Performed t p (s.answer p 8 (nackInfo reason detail) .none)

/-- A request performed at its home with an ack. -/
def Acked (s : State) (p : Packet) (i : Instr) (s1 : State) : Prop := ∃ t, exec i s = .next t ∧ Performed t p (s1.answer p 7 0 .none)

end Sys2Proof.Safety
end

