-- ==== Sys2Proof/Certificates/Slice0/Obligations.lean ====
section
/-! DEFINITION. The statements for the provers. -/
open Sys2Proof Sys2Proof.Machine Sys2Proof.Safety

/-! ## Integer instructions -/

/-- R170 to R173, R175 and R176: the integer forms of two sources and of one, scalar and vector. Every executing strand's destination takes the table's result over W-bit
operands, extended to 64 bits, or element by element of sources whose tag has width W; no other register, no flag and no byte of memory changes. -/
def Obligations.Integers : Prop :=
  (∀ i f rule op, twoSource i = some (f, rule, op) → modV f.mod = false →
     Yields i false [] (fun _ _ => True) f.dst (fun _ I lane =>
       let W := intWidth f.mod
       VReg.ofWord (widen f (op W (lowBits I lane f.sa W) (if modImm f.mod then immBits f W else lowBits I lane f.sb W))))) ∧
  (∀ i f rule op, twoSource i = some (f, rule, op) → modV f.mod = true →
     Yields i false [] (fun _ I => intSource I f.sa (intWidth f.mod) ∧ (modImm f.mod = true ∨ intSource I f.sb (intWidth f.mod)))
       f.dst (fun _ I lane =>
         let W := intWidth f.mod
         { bits := vector W (fun j => op W (element I lane f.sa W j) (if modImm f.mod then immBits f W else element I lane f.sb W j))
           tag := rule.tag W ((I.c.rd lane).vec f.sa).tag, exps := 0 })) ∧
  (∀ i f rule op, oneSource i = some (f, rule, op) →
     (modV f.mod = false → Yields i false [] (fun _ _ => True) f.dst (fun _ I lane =>
       let W := intWidth f.mod
       VReg.ofWord (widen f (op W (lowBits I lane f.sa W))))) ∧
     (modV f.mod = true → Yields i false [] (fun _ I => intSource I f.sa (intWidth f.mod)) f.dst (fun _ I lane =>
       let W := intWidth f.mod
       { bits := vector W (fun j => op W (element I lane f.sa W j)), tag := rule.tag W ((I.c.rd lane).vec f.sa).tag, exps := 0 })))

/-- R174 and R157: division completes where no executing strand's divisor is zero, in any lane; elsewhere the instruction raises DIV0 in exactly
the strands with a zero divisor, with the lowest one's dividend, or the mask of its zero lanes, as TVAL, and no strand writes its destination. -/
def Obligations.Division : Prop :=
  (∀ i f rule op, division i = some (f, rule, op) → modImm f.mod = false →
     (modV f.mod = false → Yields i false []
       (fun _ I => ∀ lane ∈ I.runs, lowBits I lane f.sb (intWidth f.mod) ≠ 0) f.dst (fun _ I lane =>
         let W := intWidth f.mod
         VReg.ofWord (widen f (op W (lowBits I lane f.sa W) (lowBits I lane f.sb W))))) ∧
     (modV f.mod = true → Yields i false []
       (fun _ I => intSource I f.sa (intWidth f.mod) ∧ intSource I f.sb (intWidth f.mod) ∧
         ∀ lane ∈ I.runs, ∀ j < 512 / intWidth f.mod, element I lane f.sb (intWidth f.mod) j ≠ 0) f.dst (fun _ I lane =>
         let W := intWidth f.mod
         { bits := vector W (fun j => op W (element I lane f.sa W j) (element I lane f.sb W j))
           tag := rule.tag W ((I.c.rd lane).vec f.sa).tag, exps := 0 }))) ∧
  (∀ i f rule op, division i = some (f, rule, op) → modImm f.mod = false →
     ∀ s I, Issues s i false [] I →
       (modV f.mod = true → intSource I f.sa (intWidth f.mod) ∧ intSource I f.sb (intWidth f.mod)) →
       (∃ lane ∈ I.runs, zeroDivisor I lane f) →
       ∃ t m, Traps s i I t m ∧ t.cause = Cause.div0 ∧ t.detail = 0 ∧
         (∀ lane < 16, m.getLsbD lane = true ↔ lane ∈ I.lanes ∧ zeroDivisor I (sourceOf I lane) f) ∧
         ∀ k < 16, m.getLsbD k = true → (∀ j < k, m.getLsbD j = false) → let W := intWidth f.mod
           t.tval = if modV f.mod = true
             then BitVec.ofNat 64 (((List.range (512 / W)).filter (fun j => element I (sourceOf I k) f.sb W j == 0)).map (fun j => 2 ^ j)).sum
             else (lowBits I (sourceOf I k) f.sa W).setWidth 64)

/-! ## Moves, comparisons and addresses -/

/-- R177 to R182: SEL, MOV, MOVI, MOVH, CMP, PLOP and LEA write the value of their rule in every executing strand. -/
def Obligations.ScalarMoves : Prop :=
  (∀ f, Yields (.sel f) false [] (fun _ _ => True) f.dst (fun _ I lane =>
    VReg.ofWord (widen f (if I.c.read lane f.sc = 1 then lowBits I lane f.sa (intWidth f.mod) else lowBits I lane f.sb (intWidth f.mod))))) ∧
  (∀ f, Yields (.mov f) false [] (fun _ _ => True) f.dst (fun _ I lane =>
    match f.dst, f.sa with
    | .v _, a => (I.c.rd lane).vec a
    | .p _, .p j => VReg.ofWord (I.c.read lane (.p j))
    | .p _, a => truth (lowBits I lane a (intWidth f.mod) != 0)
    | _, .p j => VReg.ofWord (I.c.read lane (.p j))
    | _, a => VReg.ofWord (widen f (lowBits I lane a (intWidth f.mod))))) ∧
  (∀ f, Yields (.movi f) false [] (fun _ _ => True) f.dst (fun _ _ _ => VReg.ofWord (widen f (immBits f (intWidth f.mod))))) ∧
  (∀ f, Yields (.movh f) true [] (fun _ _ => True) f.dst (fun _ I lane =>
    VReg.ofWord ((f.imm.extractLsb' 0 16 ++ (I.c.read lane f.dst).extractLsb' 0 48 : BitVec 64)))) ∧
  (∀ f, Yields (.cmp f) false [] (fun _ _ => True) f.dst (fun _ I lane =>
    truth (condition (bitsOf f.mod.toNat 6 4) (intWidth f.mod) (lowBits I lane f.sa _)
      (if modImm f.mod then immBits f _ else lowBits I lane f.sb _)))) ∧
  (∀ f, Yields (.plop f) false [] (fun _ _ => True) f.dst (fun _ I lane =>
    truth (f.imm.getLsbD ((I.c.read lane f.sa).toNat * 4 + (I.c.read lane f.sb).toNat * 2 + (I.c.read lane f.sc).toNat)))) ∧
  (∀ f, Yields (.lea f) false [] (fun _ _ => True) f.dst (fun _ I lane =>
    VReg.ofWord (I.c.read lane f.sa + (if f.x then I.c.read lane f.sb <<< f.scale.toNat else 0) + f.disp.signExtend 64)))

/-- R183: RDID issues once, and each executing strand receives the value its selector names, its own for the lane, the strand index, the
call depth and the window base. -/
def Obligations.Identification : Prop :=
  ∀ f, YieldsEach (.rdid f) [] (fun _ _ => True) f.dst (fun s I lane =>
    let k := s.skein? I.c.skein
    VReg.ofWord (BitVec.ofNat 64 (match bitsOf f.imm.toNat 7 0 with
      | 0x00 => I.core
      | 0x01 => I.slot / 4
      | 0x02 => I.slot
      | 0x03 => lane
      | 0x04 => I.core / 40
      | 0x05 => I.core / 40 * 5 + I.core % 40 / 8
      | 0x06 => s.devNo
      | 0x07 => s.skeinCtx I.c.skein
      | 0x08 => s.time.gt
      | 0x09 => (k.bind (fun k => k.cores.idxOf? I.core)).getD 0
      | 0x0A => (s.skeinCause I.c.skein).toNat
      | 0x0B => ((s.strandWho I.core I.c.pslot I.c lane).strand).getD 0
      | 0x0C => (I.c.st lane).depth
      | _ => (I.c.st lane).wb)))

/-! ## Floating point -/

/-- R208 to R211, R213 and R214: every executing strand's destination takes the form's result on its operands, its FPSTAT gains the flags of that
result (of all elements for a vector form, whose sources carry T), and nothing else changes; FCMP answers its condition as a predicate, or a bit
for each element, and an ordered condition on a NaN sets NV. -/
def Obligations.FloatForms : Prop :=
  (∀ i f n dt r, fpRule i = some (f, n, dt, r) →
     (modV f.mod = false → Yields i false [] (fun _ _ => True) f.dst
       (fun _ I lane => VReg.ofWord (BitVec.ofNat 64 (r (fpScalar f n I lane 0) (fpScalar f n I lane 1) (fpScalar f n I lane 2)).bits))
       (fun _ I lane => (r (fpScalar f n I lane 0) (fpScalar f n I lane 1) (fpScalar f n I lane 2)).flags)) ∧
     (modV f.mod = true → Yields i false [] (fun _ I => ∀ x ∈ [f.sa, f.sb, f.sc].take n, tagged I x (fpT f.mod)) f.dst
       (fun _ I lane =>
         { bits := vector (tagWidth (fpT f.mod)) (fun j => BitVec.ofNat _
             (r (fpElement f n I lane 0 j) (fpElement f n I lane 1 j) (fpElement f n I lane 2 j)).bits), tag := dt, exps := 0 })
       (fun _ I lane => allFlags (512 / tagWidth (fpT f.mod)) (fun j =>
         r (fpElement f n I lane 0 j) (fpElement f n I lane 1 j) (fpElement f n I lane 2 j))))) ∧
  (∀ f, let T := fpT f.mod
     let cond := bitsOf f.imm.toNat 3 0
     (modV f.mod = false → Yields (.fcmp f) false [] (fun _ _ => True) f.dst
       (fun _ I lane => truth (fpCond cond (numOf T (I.c.read lane f.sa).toNat) (numOf T (I.c.read lane f.sb).toNat)).1)
       (fun _ I lane => (fpCond cond (numOf T (I.c.read lane f.sa).toNat) (numOf T (I.c.read lane f.sb).toNat)).2)) ∧
     (modV f.mod = true → Yields (.fcmp f) false [] (fun _ I => tagged I f.sa T ∧ tagged I f.sb T) f.dst
       (fun _ I lane =>
         let c (j : Nat) := fpCond cond (numOf T (element I lane f.sa (tagWidth T) j).toNat) (numOf T (element I lane f.sb (tagWidth T) j).toNat)
         VReg.ofWord (BitVec.ofNat 64 ((List.range (512 / tagWidth T)).map (fun j => if (c j).1 then 2 ^ j else 0)).sum))
       (fun _ I lane =>
         let c (j : Nat) := fpCond cond (numOf T (element I lane f.sa (tagWidth T) j).toNat) (numOf T (element I lane f.sb (tagWidth T) j).toNat)
         (List.range (512 / tagWidth T)).foldl (fun m j => m ||| (c j).2) 0)))

/-- R191 and R209: a nonzero value rounded once into a floating-point format, where it does not overflow, is the neighbour its mode names among
the format's finite values: nearest with ties to the even encoding, or nearest toward zero, up or down; NX says that it differs from the value.
The sum and the product that FADD, FSUB, FMUL and FMA round are exact. -/
def Obligations.RoundedOnce : Prop :=
  (∀ (T : Tag) (rm : Nat) (neg : Bool) (mag : Nat) (e k : Int), fpTag T = true → rm < 4 → mag ≠ 0 → k ≤ e → k ≤ lowExp T →
     let x := scaled k (.fin neg mag e)
     let r := roundTo T rm (.fin neg mag e)
     let y := scaled k (numOf T r.bits)
     r.flags &&& flagOF = 0 →
       finite T r.bits ∧ (r.flags.getLsbD 4 = true ↔ y ≠ x) ∧
       ∀ b, finite T b → let z := scaled k (numOf T b)
         (rm = 0 → (y - x).natAbs ≤ (z - x).natAbs ∧ ((y - x).natAbs = (z - x).natAbs → z ≠ y → r.bits % 2 = 0)) ∧
         (rm = 1 → y.natAbs ≤ x.natAbs ∧ (z.natAbs ≤ x.natAbs → z.natAbs ≤ y.natAbs)) ∧
         (rm = 2 → x ≤ y ∧ (x ≤ z → y ≤ z)) ∧
         (rm = 3 → y ≤ x ∧ (z ≤ x → z ≤ y))) ∧
  (∀ (rm : Nat) (n1 n2 : Bool) (m1 m2 : Nat) (e1 e2 k : Int),
     (k ≤ e1 → k ≤ e2 → ∃ n m e, (FpNum.fin n1 m1 e1).add rm (.fin n2 m2 e2) = (.fin n m e, 0) ∧
       (m ≠ 0 → k ≤ e ∧ scaled k (.fin n m e) = scaled k (.fin n1 m1 e1) + scaled k (.fin n2 m2 e2)) ∧
       (m = 0 → scaled k (.fin n1 m1 e1) + scaled k (.fin n2 m2 e2) = 0 ∧ n = if n1 = n2 then n1 else decide (rm = 3))) ∧
     (∃ n m, (FpNum.fin n1 m1 e1).mul (.fin n2 m2 e2) = (.fin n m (e1 + e2), 0) ∧
       scaled (e1 + e2) (.fin n m (e1 + e2)) = scaled e1 (.fin n1 m1 e1) * scaled e2 (.fin n2 m2 e2) ∧ n = (n1 != n2)))

/-- R212: FCVT converts a scalar, or the elements of one part of a register: part P of the wider register, of L lanes. Each lane is one
conversion of R191 and R192; its flags gather in FPSTAT, and its statistics count for the tensor TENS (R205). -/
def Obligations.Conversion : Prop :=
  ∀ f, let T := fpT f.mod
    let S : Tag := BitVec.ofNat 5 (bitsOf f.imm.toNat 4 0)
    let rm := fpRm f.mod
    let tens := bitsOf f.imm.toNat 27 16
    let P := bitsOf f.imm.toNat 10 8
    let L := 512 / max (tagWidth S) (tagWidth T)
    (modV f.mod = false → Counting (.fcvt f) false (fun s _ => tens < s.ntens) f.dst
      (fun _ I lane => VReg.ofWord (extendTo (signedTag T) (tagWidth T) (cvtLane S T rm (I.c.read lane f.sa).toNat).bits))
      (fun _ I lane => (cvtLane S T rm (I.c.read lane f.sa).toNat).flags)
      (fun _ I lane => cntKeys tens (cvtLane S T rm (I.c.read lane f.sa).toNat).cnt)) ∧
    (modV f.mod = true → tagWidth S < tagWidth T →
      let r (I : Iss) (lane j : Nat) := cvtLane S T rm (element I lane f.sa (tagWidth S) (P * L + j)).toNat
      Counting (.fcvt f) false (fun s I => tagged I f.sa S ∧ tens < s.ntens) f.dst
        (fun _ I lane => typed T (fun j => BitVec.ofNat _ (r I lane j).bits)) (fun _ I lane => allFlags L (r I lane))
        (fun _ I lane => (List.range L).flatMap (fun j => cntKeys tens (r I lane j).cnt))) ∧
    (modV f.mod = true → tagWidth T ≤ tagWidth S →
      let r (I : Iss) (lane j : Nat) := cvtLane S T rm (element I lane f.sa (tagWidth S) j).toNat
      Counting (.fcvt f) (decide (tagWidth T < tagWidth S)) (fun s I => tagged I f.sa S ∧ tens < s.ntens) f.dst
        (fun _ I lane => typed T (fun j => if P * L ≤ j ∧ j < P * L + L then BitVec.ofNat _ (r I lane (j - P * L)).bits
          else element I lane f.dst (tagWidth T) j))
        (fun _ I lane => allFlags L (r I lane)) (fun _ I lane => (List.range L).flatMap (fun j => cntKeys tens (r I lane j).cnt)))

/-! ## Vectors -/

/-- R216 to R220, R224 and R225: VSPL, VEXT, VINS, VMSK, VTAG, VRAND, VPRM and VSEL. VRAND reads every strand's own k0, so that it issues
uniformly under .u only (R140). What exponent pairs VPRM and VSEL leave for a block format's blocks is open (log 42). -/
def Obligations.VectorElements : Prop :=
  ((∀ f, Yields (.vspl f) false [] (fun _ _ => True) f.dst (fun _ I lane =>
     typed (fpT f.mod) (fun _ => (if modI5 f.mod then f.imm.setWidth 64 else I.c.read lane f.sa).setWidth _))) ∧
   (∀ f, Yields (.vext f) false [] (fun _ I => tagged I f.sa (fpT f.mod)) f.dst (fun _ I lane =>
     VReg.ofWord ((element I lane f.sa (tagWidth (fpT f.mod)) ((if modI5 f.mod then bitsOf f.imm.toNat 8 0 else (I.c.read lane f.sb).toNat) %
       (512 / tagWidth (fpT f.mod)))).setWidth 64))) ∧
   (∀ f, Yields (.vins f) true [] (fun _ I => tagged I f.dst (fpT f.mod)) f.dst (fun _ I lane =>
     typed (fpT f.mod) (fun j =>
       if j = (if modI5 f.mod then bitsOf f.imm.toNat 8 0 else (I.c.read lane f.sb).toNat) % (512 / tagWidth (fpT f.mod))
       then lowBits I lane f.sa _ else element I lane f.dst _ j))) ∧
   (∀ f, Yields (.vmsk f) false [] (fun _ I => bitsOf f.mod.toNat 6 5 = 2 ∨ tagged I f.sa (fpT f.mod)) f.dst (fun _ I lane =>
     let n := tagWidth (fpT f.mod)
     if bitsOf f.mod.toNat 6 5 = 2 then typed (fpT f.mod) (fun j => if (I.c.read lane f.sa).getLsbD j then BitVec.allOnes _ else 0)
     else bitSet (512 / n) (fun j =>
       if bitsOf f.mod.toNat 6 5 = 0 then element I lane f.sa n j != 0 else (element I lane f.sa n j).getLsbD (n - 1)))) ∧
   (∀ f, Yields (.vtag f) false [] (fun _ _ => True) f.dst (fun _ I lane =>
     let a := (I.c.rd lane).vec f.sa
     { bits := a.bits, tag := fpT f.mod
       exps := if wbTag a.tag && wbTag (fpT f.mod) then (a.exps.setWidth (16 * wbBlocks (fpT f.mod))).setWidth 64 else 0 })) ∧
   (∀ f, YieldsEach (.vrand f) [] (fun _ _ => True) f.dst (fun s I lane =>
     let k := if f.u then I.leader else lane
     { bits := vector 64 (fun j => randMix (randMix (s.seedOf ^^^ I.c.read k (.k 0)) ^^^ (I.c.read k f.sa * 8 + BitVec.ofNat 64 j)))
       tag := fpT f.mod, exps := 0 }))) ∧
  ((∀ f, YieldsOpen (.vprm f) (fun _ I => tagged I f.sa (fpT f.mod) ∧ tagged I f.sb (intTagOf false (tagWidth (fpT f.mod)))) f.dst (fpT f.mod)
     (fun _ I lane => vector (tagWidth (fpT f.mod)) (fun j =>
       element I lane f.sa _ ((element I lane f.sb (tagWidth (fpT f.mod)) j).toNat % (512 / tagWidth (fpT f.mod)))))) ∧
   (∀ f, YieldsOpen (.vsel f) (fun _ I => tagged I f.sa (fpT f.mod) ∧ tagged I f.sb (fpT f.mod)) f.dst (fpT f.mod)
     (fun _ I lane => vector (tagWidth (fpT f.mod)) (fun j =>
       element I lane (if (I.c.read lane f.sc).getLsbD j then f.sa else f.sb) _ j))))

/-- R202 and R221: VRED combines the enabled elements in the tree's order, VSCN replaces each by the combination up to it; in an integer type the
tree's sum is the sum of the elements present, modulo 2^W, whatever their number and order. -/
def Obligations.VectorReductions : Prop :=
  (let on (f : Gen) (I : Iss) (lane j : Nat) : Bool := !f.imm.getLsbD 0 || (I.c.read lane f.sb).getLsbD j
   (∀ f, let n := tagWidth (fpT f.mod)
     let r (I : Iss) (lane : Nat) := redTree (fpT f.mod) (vecOp f.mod) ((List.range (512 / n)).map (fun j =>
       if on f I lane j then some (element I lane f.sa n j).toNat else none))
     Yields (.vred f) false [] (fun _ I => tagged I f.sa (fpT f.mod)) f.dst
       (fun _ I lane => VReg.ofWord (BitVec.ofNat 64 (r I lane).1)) (fun _ I lane => (r I lane).2)) ∧
   (∀ f, let n := tagWidth (fpT f.mod)
     let r (I : Iss) (lane : Nat) := redScan (fpT f.mod) (vecOp f.mod) none ((List.range (512 / n)).map (fun j =>
       (on f I lane j, (element I lane f.sa n j).toNat)))
     Yields (.vscn f) false [] (fun _ I => tagged I f.sa (fpT f.mod)) f.dst
       (fun _ I lane => typed (fpT f.mod) (fun j => BitVec.ofNat _ (((r I lane).1[j]?).getD 0))) (fun _ I lane => (r I lane).2))) ∧
  (∀ (T : Tag) (l : List (Option Nat)), fpTag T = false → l.length ≤ 1024 → (∀ x ∈ l, ∀ v, x = some v → v < 2 ^ tagWidth T) →
     redTree T 0 l = ((l.filterMap id).sum % 2 ^ tagWidth T, 0))

/-- R193, R197, R222 and R223: VQNT converts 32 values into block K, counting what saturates, flushes or is not finite, with NX where an
element differs from its value and OF where one is clamped; VDQN converts block K back, counting a block of NaNs once. -/
def Obligations.BlockFormats : Prop :=
  (∀ f, let T := fpT f.mod
    let K := bitsOf f.imm.toNat 9 8
    let tens := bitsOf f.imm.toNat 27 16
    let two := f.sb != .w 0
    let b (I : Iss) (lane : Nat) := wbConvert T (if two
      then (List.range 32).map (fun j => numOf 0x15 (element I lane (if j < 16 then f.sa else f.sb) 32 (j % 16)).toNat)
      else (List.range 32).map (fun j => numOf ((I.c.rd lane).vec f.sa).tag (element I lane f.sa 16 j).toNat))
    wbTag T = true →
    Counting (.vqnt f) (K != 0)
      (fun s I => (if two then tagged I f.sa 0x15 ∧ tagged I f.sb 0x15
          else ∀ lane ∈ I.runs, ((I.c.rd lane).vec f.sa).tag = 0x13 ∨ ((I.c.rd lane).vec f.sa).tag = 0x14) ∧
        (K ≠ 0 → tagged I f.dst T) ∧ K < wbBlocks T ∧ tens < s.ntens) f.dst
      (fun _ I lane =>
        let old := (I.c.rd lane).vec f.dst
        { bits := vector (tagWidth T) (fun j => if 32 * K ≤ j ∧ j < 32 * K + 32 then BitVec.ofNat _ (((b I lane).elems[j - 32 * K]?).getD 0)
            else if K = 0 then 0 else element I lane f.dst _ j)
          tag := T
          exps := BitVec.ofNat 64 ((List.range 8).map (fun j => (if j = 2 * K then (b I lane).e0 else if j = 2 * K + 1 then (b I lane).e1
            else if K = 0 then 0 else (old.exps.extractLsb' (8 * j) 8).toNat) * 2 ^ (8 * j))).sum })
      (fun _ I lane => (if (b I lane).inexact then flagNX else 0) ||| (if (b I lane).sat = 0 then 0 else flagOF))
      (fun _ I lane => List.replicate (b I lane).sat (3 * tens) ++ List.replicate (b I lane).flush (3 * tens + 1) ++
        List.replicate (b I lane).nonfin (3 * tens + 2))) ∧
  (∀ f, let T := fpT f.mod
    let K := bitsOf f.imm.toNat 9 8
    let tens := bitsOf f.imm.toNat 27 16
    let e (I : Iss) (lane j : Nat) : Nat := (((I.c.rd lane).vec f.sa).exps.extractLsb' (16 * K + 8 * j) 8).toNat
    let n := if T = 0x15 then 16 else 32
    let r (I : Iss) (lane j : Nat) :=
      let A := ((I.c.rd lane).vec f.sa).tag
      roundTo T (fpRm f.mod) (wbElem A (e I lane 0) (e I lane 1)
        (element I lane f.sa (tagWidth A) (32 * K + (if T = 0x15 ∧ f.imm.getLsbD 10 then 16 else 0) + j)).toNat)
    stdFpTag T = true → T ≠ 0x16 →
    Counting (.vdqn f) false
      (fun s I => (∀ lane ∈ I.runs, let A := ((I.c.rd lane).vec f.sa).tag; wbTag A = true ∧ K < wbBlocks A) ∧ tens < s.ntens) f.dst
      (fun _ I lane => typed T (fun j => BitVec.ofNat _ (r I lane j).bits)) (fun _ I lane => allFlags n (r I lane))
      (fun _ I lane => if e I lane 0 = 255 ∨ e I lane 1 = 255 then [3 * tens + 2]
        else (List.range n).flatMap (fun j => cntKeys tens (r I lane j).cnt)))

/-- R226 to R229: VPACK adds N elements, each at its own multiple of g bits; VPMUL writes the product of two such vectors to a pair of
registers; VUNPK takes the balanced digits back, each held to g − h bits: one that does not fit is clamped, or traps with GUARD. -/
def Obligations.PackedPolynomials : Prop :=
  (∀ f, let T := fpT f.mod
    let N := bitsOf f.imm.toNat 7 0
    let S := bitsOf f.imm.toNat 15 8
    Yields (.vpack f) false [] (fun _ I => tagged I f.sa T) f.dst (fun _ I lane =>
      { bits := BitVec.ofInt 512 ((List.range N).map (fun i =>
          elementInt T (element I lane f.sa (tagWidth T) (if modI5 f.mod then S + N - 1 - i else S + i)) * 2 ^ (packG f * i))).sum
        tag := packedTag, exps := 0 })) ∧
  (∀ f s I, let p (lane : Nat) : BitVec 1024 :=
      ((I.c.rd lane).vec f.sa).bits.signExtend 1024 * ((I.c.rd lane).vec f.sb).bits.signExtend 1024
    Issues s (.vpmul f) false [] I → tagged I f.sa packedTag → tagged I f.sb packedTag → evenV f.dst = true →
    ∃ t c1 c, exec (.vpmul f) s = .next t ∧ Moves s t I c (fun _ => pcNext I.E.pc) ∧
      Wrote I c1 f.dst (fun lane => { bits := (p lane).setWidth 512, tag := packedTag, exps := 0 }) ∧
      Wrote { I with c := c1 } c (nextV f.dst) (fun lane => { bits := (p lane >>> 512).setWidth 512, tag := packedTag, exps := 0 }) ∧
      Quiet s t) ∧
  (∀ f, let T := fpT f.mod
    let pair := f.mod.getLsbD 6
    let reach : Int := 2 ^ (packG f - bitsOf f.imm.toNat 23 20 - 1)
    let X (I : Iss) (lane : Nat) : Int := if pair
      then (((I.c.rd lane).vec (nextV f.sa)).bits ++ ((I.c.rd lane).vec f.sa).bits : BitVec 1024).toInt else ((I.c.rd lane).vec f.sa).bits.toInt
    let d (I : Iss) (lane : Nat) := digitsFrom (packG f) (bitsOf f.imm.toNat 15 8) (bitsOf f.imm.toNat 7 0) (X I lane)
    let req := if f.u && pair then [nextV f.sa] else []
    let tags (I : Iss) := tagged I f.sa packedTag ∧ (pair = true → tagged I (nextV f.sa) packedTag)
    Yields (.vunpk f) false req
      (fun _ I => tags I ∧ (modI5 f.mod = true ∨ ∀ lane ∈ I.runs, ∀ x ∈ d I lane, -reach ≤ x ∧ x < reach)) f.dst
      (fun _ I lane => typed T (fun j => BitVec.ofInt _ (max (-reach) (min (reach - 1) (((d I lane)[j]?).getD 0))))) ∧
    (∀ s I, Issues s (.vunpk f) false req I → tags I → modI5 f.mod = false → (∃ lane ∈ I.runs, ∃ x ∈ d I lane, x < -reach ∨ reach ≤ x) →
      ∃ t m, Traps s (.vunpk f) I t m ∧ t.cause = Cause.guard ∧ t.detail = 0 ∧
        ∀ lane < 16, m.getLsbD lane = true ↔ lane ∈ I.lanes ∧ ∃ x ∈ d I (sourceOf I lane), x < -reach ∨ reach ≤ x)) ∧
  (∀ (g n : Nat) (X : Int), 0 < g → (digitsFrom g 0 n X).length = n ∧ (∀ d ∈ digitsFrom g 0 n X, -(2 ^ (g - 1)) ≤ d ∧ d < 2 ^ (g - 1)) ∧
    (2 ^ (g * n) : Int) ∣ X - ((digitsFrom g 0 n X).zipIdx.map (fun (d, j) => d * 2 ^ (g * j))).sum)

/-! ## Across strands -/

/-- R141, R157 and R231 to R235: what each executing strand receives of the executing strands' own registers, all read before any is written; a
strand that does not execute takes no part. XRED combines elements in the tree of R202 over 16 lanes, XSCN gives the combination of those up to
each strand, or below it. Where the values for a destination that strands share differ, UNIFORM is raised in those whose value is not the leader's. -/
def Obligations.CrossStrand : Prop :=
  (let typedV (I : Iss) (r : Reg) : Prop := ∀ lane ∈ I.lanes, (∃ i, r = .v i) → ((I.c.rd lane).vec r).tag ≠ 0
   (∀ f, YieldsEach (.xshf f) [] (fun _ I => typedV I f.sa) f.dst (fun _ I lane =>
     let d := bitsOf f.imm.toNat 3 0
     let u : Int := match bitsOf f.mod.toNat 6 5 with
       | 0 => ((I.c.read lane f.sb).toNat % 16 : Nat)
       | 1 => (lane : Int) - d
       | 2 => (lane : Int) + d
       | _ => (lane ^^^ d : Nat)
     I.c.whole (if u.toNat ∈ I.lanes ∧ 0 ≤ u ∧ u < 16 then u.toNat else lane) f.sa)) ∧
   (∀ f, YieldsEach (.xbrd f) (if modI5 f.mod then [] else [f.sb]) (fun _ I => typedV I f.sa) f.dst (fun _ I _ =>
     let u := if modI5 f.mod then bitsOf f.imm.toNat 3 0 else (I.c.read I.leader f.sb).toNat
     I.c.whole (if u ∈ I.lanes then u else I.leader) f.sa)) ∧
   (∀ f, YieldsEach (.xvot f) [] (fun _ _ => True) f.dst (fun _ I _ =>
     match bitsOf f.mod.toNat 6 5 with
     | 0 => VReg.ofWord (if ∀ u ∈ I.lanes, I.c.read u f.sa = 1 then 1 else 0)
     | 1 => VReg.ofWord (if ∃ u ∈ I.lanes, I.c.read u f.sa = 1 then 1 else 0)
     | 2 => bitSet 16 (fun u => decide (u ∈ I.lanes) && I.c.read u f.sa == 1)
     | _ => VReg.ofWord (if ∀ u ∈ I.lanes, lowBits I u f.sa (tagWidth (fpT f.mod)) = lowBits I I.leader f.sa _ then 1 else 0))) ∧
   (∀ f, YieldsEach (.xuni f) [] (fun _ _ => True) f.dst (fun _ I lane =>
     bitSet 16 (fun u => decide (u ∈ I.lanes) && lowBits I u f.sa (tagWidth (fpT f.mod)) == lowBits I lane f.sa _)))) ∧
  (let pre (f : Gen) (I : Iss) : Prop := (∃ i, f.sa = .v i) → ∀ lane ∈ I.lanes, ((I.c.rd lane).vec f.sa).tag = fpT f.mod
   (∀ f, YieldsEach (.xred f) [] (fun _ I => pre f I) f.dst (fun _ I _ => crossValue f (fun j =>
     (redTree (fpT f.mod) (vecOp f.mod) ((List.range 16).map (fun u => if u ∈ I.lanes then some (crossElement f I u j) else none))).1))) ∧
   (∀ f, YieldsEach (.xscn f) [] (fun _ I => pre f I) f.dst (fun _ I lane => crossValue f (fun j =>
     ((redScan (fpT f.mod) (vecOp f.mod) none ((I.lanes.filter (fun u => if f.imm.getLsbD 0 then u < lane else u ≤ lane)).map
       (fun u => (true, crossElement f I u j)))).1.getLast?).getD 0)))) ∧
  (∀ i f rule op, twoSource i = some (f, rule, op) → modV f.mod = false → ∀ s I, Issues s i false [] I → Reg.shared f.dst = true →
     let W := intWidth f.mod
     let v (lane : Nat) := widen f (op W (lowBits I lane f.sa W) (if modImm f.mod then immBits f W else lowBits I lane f.sb W))
     (∃ lane ∈ I.lanes, v (sourceOf I lane) ≠ v I.leader) →
     ∃ t m, Traps s i I t m ∧ t.cause = Cause.uniform ∧ t.detail = 0 ∧ t.tval = v I.leader ∧
       ∀ lane < 16, m.getLsbD lane = true ↔ lane ∈ I.lanes ∧ v lane ≠ v I.leader)

/-- R139, R170 and R184: in the matrix stream the two-source forms read and write m registers, and the sequencer goes on. -/
def Obligations.StreamScalars : Prop :=
  ∀ s core pslot p, Streams s core pslot p →
    let m (r : Reg) (v : Word) := match r with | .w j => p.m.setIfInBounds j.val v | _ => p.m
    (∀ i f rule op, twoSource i = some (f, rule, op) → i.wellFormed true = true →
      let W := intWidth f.mod
      let v := widen f (op W ((p.rd.get f.sa).setWidth W) (if modImm f.mod then immBits f W else (p.rd.get f.sb).setWidth W))
      ∃ t, exec i s = .next t ∧ Sequenced s t core pslot p (m f.dst v) (pcNext p.spc)) ∧
    (∀ f : Mem, Instr.wellFormed true (.lea f) = true →
      ∃ t, exec (.lea f) s = .next t ∧ Sequenced s t core pslot p
        (m f.dst (p.rd.get f.sa + (if f.x then p.rd.get f.sb <<< f.scale.toNat else 0) + f.disp.signExtend 64)) (pcNext p.spc)) ∧
    (∀ f : Gen, Instr.wellFormed true (.movi f) = true →
      ∃ t, exec (.movi f) s = .next t ∧ Sequenced s t core pslot p (m f.dst (widen f (immBits f (intWidth f.mod)))) (pcNext p.spc))

/-! ## Control -/

/-- R144, R159, R163 and R165 to R168: NOP and LPAD have no effect, in either stream; YIELD withdraws its course for N clocks; RGN replaces the
mask of staged registers; EXIT, and RET at call depth zero, end the executing strands for good. -/
def Obligations.PlainControl : Prop :=
  ((∀ f s I, Issues s (.nop f) false [] I → Passes s (.nop f) I I.c (fun _ => pcNext I.E.pc) s) ∧
   (∀ f s core pslot p, Streams s core pslot p → ∃ t, exec (.nop f) s = .next t ∧ Sequenced s t core pslot p p.m (pcNext p.spc)) ∧
   (∀ f s I, Issues s (.lpad f) false [] I → Passes s (.lpad f) I I.c (fun _ => pcNext I.E.pc) s) ∧
   (∀ f s I, Issues s (.yield f) false [] I → let n := bitsOf f.imm.toNat 7 0
     if n = 0 then Passes s (.yield f) I I.c (fun _ => pcNext I.E.pc) s
     else Passes s (.yield f) I { I.c with yielding := n } (fun _ => pcNext I.E.pc)
       (s.laterAt (s.time.gt + n * s.clockGt) (.yieldExpiry I.core I.slot))) ∧
   (∀ f s I, Issues s (.rgn f) false [] I →
     Passes s (.rgn f) I { I.c with staged := f.imm.setWidth 24 } (fun _ => pcNext I.E.pc) s)) ∧
  ((∀ f s I, Issues s (.exit f) false [] I → ∃ t, exec (.exit f) s = .next t ∧ Left s t I I.lanes) ∧
   (∀ f s I, Issues s (.ret f) false [] I → (∀ i ∈ I.lanes, (I.c.st i).depth = 0) →
     ∃ t, exec (.ret f) s = .next t ∧ Left s t I I.lanes))

/-- R119, R160, R161 and R184: the strands that BRA or BRP takes go to its target, the others on; the target is fetched and checked when a
strand goes there, and a target that fails raises its exception in those strands. -/
def Obligations.Branches : Prop :=
  (∀ f s I, Issues s (.bra f) false [] I → let pc := brnTarget I.E.pc f
    ((target s I pc).2 = none →
      Passes s (.bra f) I I.c (fun i => if i ∈ I.lanes then pc else pcNext I.E.pc) (target s I pc).1) ∧
    (∀ e, (target s I pc).2 = some e → exec (.bra f) s = .next ((target s I pc).1.failed I e (maskOf I.lanes)))) ∧
  (∀ f s I, Issues s (.brp f) false [] I → f.mod.toNat ≤ 5 → let pc := brnTarget I.E.pc f
    let goes (i : Nat) : Prop := i ∈ I.lanes ∧ signTest f.mod.toNat (I.c.read (sourceOf I i) f.sa)
    ((∀ i, ¬ goes i) → Passes s (.brp f) I I.c (fun _ => pcNext I.E.pc) s) ∧
    ((∃ i, goes i) → (target s I pc).2 = none →
      ∃ to_ : Nat → Word, (∀ k, (goes k → to_ k = pc) ∧ (¬ goes k → to_ k = pcNext I.E.pc)) ∧
        Passes s (.brp f) I I.c to_ (target s I pc).1) ∧
    ((∃ i, goes i) → ∀ e, (target s I pc).2 = some e → ∃ m : BitVec 16, exec (.brp f) s = .next ((target s I pc).1.failed I e m) ∧
      ∀ lane < 16, m.getLsbD lane = true ↔ goes lane)) ∧
  (∀ f s core pslot p, Streams s core pslot p →
    let x := s.checkTarget core (s.skeinWho p.skein core none) true (brnTarget p.spc f)
    (x.2 = none → ∃ t, exec (.bra f) s = .next t ∧ Sequenced x.1 t core pslot p p.m (brnTarget p.spc f)) ∧
    (f.mod.toNat ≤ 5 → ¬ signTest f.mod.toNat (p.rd.get f.sa) →
      ∃ t, exec (.brp f) s = .next t ∧ Sequenced s t core pslot p p.m (pcNext p.spc)) ∧
    (f.mod.toNat ≤ 5 → signTest f.mod.toNat (p.rd.get f.sa) → x.2 = none →
      ∃ t, exec (.brp f) s = .next t ∧ Sequenced x.1 t core pslot p p.m (brnTarget p.spc f)) ∧
    (∀ tr, x.2 = some (.trap tr) → exec (.bra f) s = .next (x.1.streamTrap core pslot tr)))

/-- R102, R119, R123 and R124: a transfer's target must be a valid PC (TARGET 0x02), on a line that is cached or is read from memory and
kept, whose parity (PARITY, with TVAL bit 3 set) and reserved bits (ILLEGAL 0x06) are right, and whose TGTMASK marks the slot (TARGET 0x01).
Checking one changes nothing but that core's instruction cache, and ends the fill of that line. -/
def Obligations.TransferTargets : Prop :=
  ∀ (s : State) core w pc, let r := s.checkTarget core w true pc
    ({ r.1 with cores := s.cores } = s ∧ ∀ n, ({ r.1.core n with icache := (s.core n).icache, filling := (s.core n).filling } : Core) = s.core n ∧
      (n ≠ core → r.1.core n = s.core n)) ∧
    (pcValid pc = false → r = (s, some (Trp.stop Cause.target 0x02 pc))) ∧
    (pcValid pc = true → ∀ x, s.icFind core w.ctx (pcLine pc) = some x ∨
        (s.icFind core w.ctx (pcLine pc) = none ∧ ∃ bits, s.fillRead w (pcLine pc) = .ok bits ∧ x = icMark w.ctx (pcLine pc) bits) →
      r.1.icFind core w.ctx (pcLine pc) = some x ∧
      r.2 = if x.lbad then some (Trp.stop Cause.parity 0 (pc ||| 8))
        else if lineReservedOk x.bits = false then some (Trp.stop Cause.illegal 0x06 pc)
        else if lineTarget x.bits (pcSlot pc) = false then some (Trp.stop Cause.target 0x01 pc) else none) ∧
    (pcValid pc = true → s.icFind core w.ctx (pcLine pc) = none → ∀ e, s.fillRead w (pcLine pc) = .error e →
      r = (s, some (e.at_ pc)))

/-- R121, R150 to R153, R162, R164 and R165: a jump-table transfer, a call and a return are checked strand by strand in ascending order; when
none fails, every executing strand goes where its own check led. For one strand: the checks of a jump table and its entry; the window and the
return stack that a call and a return move, where both stay on chip. -/
def Obligations.Calls : Prop :=
  ((∀ f s I s1 rs, Issues s (.jtb f) false [] I → Unwatched s → Iss.eachState I.runs (passed s I) (fun s i => s.jumpTable I f i) = (s1, .ok rs) →
     ∃ to_ : Nat → Word, Passes s (.jtb f) I I.c to_ s1 ∧ (∀ i, i ∉ I.lanes → to_ i = pcNext I.E.pc) ∧
       ∀ i ∈ I.lanes, ∃ x ∈ rs, x.1 = sourceOf I i ∧ x.2.2.1 = to_ i) ∧
   (∀ f s I s1 rs, Issues s (.call f) false [] I → Unwatched s → (target s I (brnTarget I.E.pc f)).2 = none →
     Iss.eachState I.lanes (target s I (brnTarget I.E.pc f)).1
       (fun s i => s.callStrand I f ((s.launchOf I.c).elim 64 (·.hdr.depth)) i) = (s1, .ok rs) →
     ∃ t c, exec (.call f) s = .next t ∧ c.kreg = I.c.kreg ∧
       Moves s t { I with c := { I.c with staged := 0 } } c (fun i => if i ∈ I.lanes then brnTarget I.E.pc f else pcNext I.E.pc) ∧
       (∀ i < 16, (i ∉ I.lanes → c.st i = I.c.st i) ∧ (i ∈ I.lanes → ∃ x ∈ rs, x.1 = i ∧ c.st i = x.2.1)) ∧
       ({ t with courses := s.courses } : State) = { s1 with courses := s.courses }) ∧
   (∀ f s I s1 rs, Issues s (.ret f) false [] I → Unwatched s → Iss.eachState I.lanes (passed s I) (fun s i => s.retStrand I i) = (s1, .ok rs) →
     (∀ x ∈ rs, ∃ y pc prio, x.2 = .go y pc prio) →
     ∃ t c, ∃ to_ : Nat → Word, exec (.ret f) s = .next t ∧ c.kreg = I.c.kreg ∧ Moves s t { I with c := { I.c with staged := 0 } } c to_ ∧
       (∀ i, (i ∉ I.lanes → to_ i = pcNext I.E.pc ∧ (i < 16 → c.st i = I.c.st i)) ∧
         (i ∈ I.lanes → ∃ prio, (i, RetEff.go (c.st i) (to_ i) prio) ∈ rs)) ∧
       ({ t with courses := s.courses } : State) = { s1 with courses := s.courses })) ∧
  ((∀ (s : State) I (f : Jmp) lane, let base := I.c.read lane f.sa
     let ix := I.c.read lane f.sb
     (f.bound.toNat ≤ ix.toNat → s.jumpTable I f lane = (s, .error (Trp.stop Cause.landing 0x01 ix))) ∧
     (ix.toNat < f.bound.toNat → base.toNat % 8 ≠ 0 → s.jumpTable I f lane = (s, .error (Trp.stop Cause.align 0 base))) ∧
     (ix.toNat < f.bound.toNat → base.toNat % 8 = 0 → ∀ o,
       s.reach (s.strandWho I.core I.c.pslot I.c lane) I.core false true (base + ix * 8) 8 = .ok o →
       let pc : Word := BitVec.ofNat 64 (leNat (s.routeRead o.route))
       (pcValid pc = false → s.jumpTable I f lane = (s, .error (Trp.stop Cause.landing 0x02 pc))) ∧
       (pcValid pc = true → (s.checkTarget I.core I.w true pc).2 = none →
         ∀ x, (s.checkTarget I.core I.w true pc).1.icFind I.core I.w.ctx (pcLine pc) = some x →
         (s.jumpTable I f lane).2 = match landingPad x pc with
           | none => .error (Trp.stop Cause.landing 0x03 pc)
           | some (label, prio) => if label = f.label then .ok (o, pc, prio) else .error (Trp.stop Cause.landing 0x04 pc)))) ∧
   (∀ (s : State) I (f : Brn) depthMax lane, let x := I.c.st lane
     x.rstack.length < 16 → x.wb + f.mod.toNat + 24 ≤ x.low + depthMax →
     s.callStrand I f depthMax lane = (s, .ok (called f.mod.toNat (pcNext I.E.pc) I.E.prio x, false)) ∧
     ∀ j, j + f.mod.toNat < 24 → (called f.mod.toNat (pcNext I.E.pc) I.E.prio x).w j = x.w (j + f.mod.toNat)) ∧
   (∀ (s : State) I lane r, let x := I.c.st lane
     onChip x r → (s.checkTarget I.core I.w true r.pc).2 = none →
     s.retStrand I lane = ((s.checkTarget I.core I.w true r.pc).1, .ok (.go (returned r x) r.pc r.prio)) ∧
     ∀ j, j + r.n < 24 → (returned r x).w (j + r.n) = x.w j) ∧
   (∀ (s : State) I lane, (I.c.st lane).depth = 0 → s.retStrand I lane = (s, .ok .leave)))

/-! ## Memory -/

/-- R8, R244 to R249, R252, R253 and R284: an access of n bytes that meets no tile is refused, in this order, for alignment, for translation, for an
absent line, for a range lock and, where it reads, for an uncorrectable error; otherwise it is made at its home. A walk that succeeds for a store
or for execution succeeds for a load at the same home, and within a page of 64 KiB homes follow addresses. Bytes stored at a home are read back,
every other byte stays, and a number is stored with its lowest byte first. -/
def Obligations.Accesses : Prop :=
  (∀ (s : State) w core store reads a n,
     (2 ≤ n → a.toNat % n ≠ 0 → s.reach w core store reads a n = .error (Trp.stop Cause.align 0 a)) ∧
     ((n < 2 ∨ a.toNat % n = 0) →
       (∀ e, s.home w (if store then .store else .load) a = .error e →
         s.reach w core store reads a n = .error (.trap { cause := Cause.xlate, detail := e.detail, tval := a, lines := e.lines })) ∧
       (∀ l, s.home w (if store then .store else .load) a = .ok l → s.async.dir = [] ∨ s.dirMeets l n = false →
         s.reach w core store reads a n =
           match s.absentAt l with
           | some .poisoned => .error (Trp.stop Cause.xlate Xlate.poison a)
           | some (.restore _) => .error (.hold .absentLine)
           | some (.incoming _) => .error (if store then Trp.stop Cause.rangelock 0 a else .hold .absentLine)
           | none =>
             if s.lockHit w core store a n then .error (Trp.stop Cause.rangelock 0 a)
             else if reads && s.badIn l n then .error (.trap { cause := Cause.ecc, detail := 0x01, tval := a, ue := some l })
             else .ok { a, route := .plain l n, home := [(l, n)], bit := 0 }))) ∧
  (∀ (s : State) root va die l,
     (walk s root va .store die = .ok (.home l) → walk s root va .load die = .ok (.home l)) ∧
     (walk s root va .exec die = .ok (.home l) → walk s root va .load die = .ok (.home l)) ∧
     (∀ acc va' l', va / 2 ^ 16 = va' / 2 ^ 16 → walk s root va acc die = .ok (.home l) → walk s root va' acc die = .ok (.home l') →
       l.store = l'.store ∧ l.addr + va' = l'.addr + va) ∧
     (root = 0 → ∀ acc, walk s root va acc die = .error ⟨Xlate.notValid, []⟩)) ∧
  (∀ (s : State) (l : Loc) (bs : List Byte),
     (∀ x, (s.poke l bs).peek x = if x.store = l.store ∧ l.addr ≤ x.addr ∧ x.addr < l.addr + bs.length
       then (bs[x.addr - l.addr]?).getD 0 else s.peek x) ∧
     (memoryKept s → memoryKept (s.poke l bs)) ∧
     ∀ n v, (s.pokeNat l n v).peekNat l n = v % 256 ^ n ∧ ∀ j < n, (s.pokeNat l n v).peek (l.plus j) = BitVec.ofNat 8 (v / 256 ^ j))

/-- R110, R142, R253 to R258, R260 and R261: LD, LDV and GATH read each executing strand's operand and put its value on the way to the
destination, which is pending until DATUM_ARRIVAL writes it. -/
def Obligations.LoadsArrive : Prop :=
  (∀ f s I (o : Nat → Opnd), Issues s (.ld f) false [] I → Unwatched s → let W := sizeBits f.mod
    (∀ lane ∈ I.runs, (passed s I).scalarOpnd I f lane W false true = .ok (o lane)) →
    let v (lane : Nat) := let x := BitVec.ofNat W (leNat ((passed s I).routeRead (o lane).route) / 2 ^ (if W = 4 then (o lane).bit else 0))
      VReg.ofWord (if f.mod.getLsbD 4 then x.signExtend 64 else x.setWidth 64)
    OneValue I f.dst v → Loads s s (.ld f) I f.dst v) ∧
  (∀ f s I (o : Nat → VOpnd), Issues s (.ldv f) false [] I → Unwatched s →
    (∀ lane ∈ I.runs, (passed s I).vecOpnd I f lane false = .ok (o lane)) →
    Loads s s (.ldv f) I f.dst (fun lane =>
      { bits := BitVec.ofNat 512 (leNat ((passed s I).routeRead (o lane).o.route)), tag := vecTag f.mod
        exps := (o lane).pairs.elim 0 (fun p => BitVec.ofNat 64 (leNat ((passed s I).routeRead p.route))) })) ∧
  (∀ f s I (o : Nat → List (Nat × Opnd)), Issues s (.gath f) false [] I → Unwatched s → let W := sizeBits f.mod
    (∀ lane ∈ I.runs, (passed s I).gathOpnds I f lane false = .ok (o lane)) →
    Loads s s (.gath f) I f.dst (fun lane =>
      { bits := BitVec.ofNat 512 ((o lane).map (fun x => leNat ((passed s I).routeRead x.2.route) * 2 ^ (W * x.1))).sum
        tag := gathTag f.mod, exps := 0 })) ∧
  (∀ id (d : Datum) (s : State) c, kget s.async.data id = some d → s.course? d.core d.slot = some c → d.lane < 16 →
    ∃ t c', exec (.datumArrival id) s = .next t ∧ t.course? d.core d.slot = some c' ∧ kget t.async.data id = none ∧
      d.reg ∉ (c'.st d.lane).pending ∧
      (match d.reg with
        | .pos n => (c'.st d.lane).posGet n = d.value.bits.setWidth 64
        | .v n => n < 8 → (c'.st d.lane).vreg n = d.value
        | .k n => n ≠ 0 → n < 8 → ∀ h : n < 8, c'.read d.lane (.k ⟨n, h⟩) = d.value.bits.setWidth 64
        | .p n => n ≠ 0 → n < 8 → (c'.st d.lane).pred n = d.value.bits.getLsbD 0) ∧
      (∀ j < 16, j ≠ d.lane → c'.st j = c.st j) ∧ (∀ r, pendOf (c.st d.lane) r ≠ some d.reg → c'.whole d.lane r = c.whole d.lane r) ∧
      (∀ k, k ≠ courseKey d.core d.slot → kget t.courses k = kget s.courses k) ∧
      ({ t with courses := s.courses, async := { t.async with data := s.async.data } } : State) = s)

/-- R111, R244, R255, R256, R259 to R261: ST, STV and SCAT store each executing strand's value at the homes of its operand, strands in
ascending order (a nibble is merged into its byte, and a block tile's exponent pairs follow), or append it to the logs of tiles that are
not resident; every other byte of memory keeps its value. -/
def Obligations.StoresLand : Prop :=
  (∀ f s I (o : Nat → Opnd), Issues s (.st f) false [] I → Unwatched s → let W := sizeBits f.mod
    (∀ lane ∈ I.runs, (passed s I).scalarOpnd I f lane W true false = .ok (o lane)) →
    (∀ s2, I.performs (passed s I) (fun s1 i (o : Opnd) =>
        if W == 4 then s1.routeNibble ((passed s I).workEv I.c 0) (o.bit == 4) (I.c.read i f.dst).toNat o.route
        else s1.routeWrite ((passed s I).workEv I.c 0) (leBytes (W / 8) (I.c.read i f.dst).toNat) o.route)
        (I.runs.map (fun lane => (lane, o lane))) = .ok s2 → Passes s (.st f) I I.c (fun _ => pcNext I.E.pc) s2) ∧
    ((∀ lane ∈ I.runs, logless (o lane).route) → ∃ s2, Passes s (.st f) I I.c (fun _ => pcNext I.E.pc) s2 ∧
      StoredBytes s s2 (I.runs.map (fun lane => (cells (o lane).route, fun j b =>
        if W = 4 then withNibble ((o lane).bit == 4) (I.c.read lane f.dst).toNat b else byteOf (I.c.read lane f.dst).toNat j b))))) ∧
  (∀ f s I (o : Nat → VOpnd), Issues s (.stv f) false [] I → Unwatched s → (vecTag f.mod = 0 ∨ tagged I f.dst (vecTag f.mod)) →
    (∀ lane ∈ I.runs, (passed s I).vecOpnd I f lane true = .ok (o lane)) →
    (∀ s2, I.performs (passed s I) (fun s1 i (x : VOpnd) =>
        match s1.routeWrite ((passed s I).workEv I.c 0) (leBytes 64 ((I.c.rd i).vec f.dst).bits.toNat) x.o.route with
        | .error e => .error e
        | .ok s1 => x.pairs.elim (.ok s1) (fun p => s1.routeWrite ((passed s I).workEv I.c 0)
            (leBytes (wbBlocks (vecTag f.mod) * 2) ((I.c.rd i).vec f.dst).exps.toNat) p.route))
        (I.runs.map (fun lane => (lane, o lane))) = .ok s2 → Passes s (.stv f) I I.c (fun _ => pcNext I.E.pc) s2) ∧
    ((∀ lane ∈ I.runs, logless (o lane).o.route ∧ ∀ p ∈ (o lane).pairs, logless p.route) → ∃ s2, Passes s (.stv f) I I.c (fun _ => pcNext I.E.pc) s2 ∧
      StoredBytes s s2 (I.runs.flatMap (fun lane => let r := (I.c.rd lane).vec f.dst
        (cells (o lane).o.route, byteOf r.bits.toNat) ::
          (o lane).pairs.elim [] (fun p => [(cells p.route, byteOf r.exps.toNat)]))))) ∧
  (∀ f s I (o : Nat → List (Nat × Opnd)), Issues s (.scat f) false [] I → Unwatched s → let W := sizeBits f.mod
    (if gathTag f.mod = 0 then ∀ lane ∈ I.runs, ((I.c.rd lane).vec f.dst).tag ≠ 0 else tagged I f.dst (gathTag f.mod)) →
    (∀ lane ∈ I.runs, (passed s I).gathOpnds I f lane true = .ok (o lane)) →
    (∀ s2, I.performs (passed s I) (fun s1 i (x : Nat × Opnd) => s1.routeWrite ((passed s I).workEv I.c 0)
        (leBytes (W / 8) (element I i f.dst W x.1).toNat) x.2.route)
        (I.runs.flatMap (fun lane => (o lane).map (fun x => (lane, x)))) = .ok s2 →
      Passes s (.scat f) I I.c (fun _ => pcNext I.E.pc) s2) ∧
    ((∀ lane ∈ I.runs, ∀ x ∈ o lane, logless x.2.route) → ∃ s2, Passes s (.scat f) I I.c (fun _ => pcNext I.E.pc) s2 ∧
      StoredBytes s s2 (I.runs.flatMap (fun lane => (o lane).map (fun x =>
        (cells x.2.route, byteOf (element I lane f.dst W x.1).toNat))))))

/-- R262 and R263: an atomic's strands act in ascending order, each reading the value its predecessors left, storing the result of its rule
and receiving the old value; where no log takes part, the store changes the operand's bytes alone. -/
def Obligations.Atomics : Prop :=
  ∀ i f rmw op, atomic i = some (f, rmw, op) → (sizeBits f.mod = 32 ∨ sizeBits f.mod = 64) →
    ∀ s I (o : Nat → Opnd), Issues s i rmw [] I → Unwatched s → let W := sizeBits f.mod
    (∀ lane ∈ I.runs, (passed s I).reach ((passed s I).strandWho I.core I.c.pslot I.c lane) I.core true true
      (I.c.read lane f.sa + (if f.x then I.c.read lane f.sb <<< f.scale.toNat else 0) + f.disp.signExtend 64) (W / 8) = .ok (o lane)) →
    let old (st : Nat → State) (lane : Nat) : Nat := leNat ((st (I.runs.idxOf lane)).routeRead (o lane).route)
    let acts (st : Nat → State) (store : Nat → BitVec W → Prop) : Prop := st 0 = passed s I ∧ ∀ lane ∈ I.runs,
      match op W (BitVec.ofNat W (old st lane)) (lowBits I lane f.sc W) (lowBits I lane f.dst W) with
      | none => st (I.runs.idxOf lane + 1) = st (I.runs.idxOf lane)
      | some v => store lane v
    let answers (st : Nat → State) : Prop := let v (lane : Nat) := VReg.ofWord (BitVec.ofNat 64 (old st lane))
      OneValue I f.dst v → Loads s (st I.runs.length) i I f.dst v
    (∀ st, acts st (fun lane v => (st (I.runs.idxOf lane)).routeWrite ((passed s I).workEv I.c 0) (leBytes (W / 8) v.toNat) (o lane).route =
        .ok (st (I.runs.idxOf lane + 1))) → answers st) ∧
    ((∀ lane ∈ I.runs, logless (o lane).route) → ∃ st, acts st (fun lane v =>
        StoredBytes (st (I.runs.idxOf lane)) (st (I.runs.idxOf lane + 1)) [(cells (o lane).route, byteOf v.toNat)]) ∧ answers st)

/-! ## Tiles and copies -/

/-- R46, R285 and R286: TDSC replaces one field of a descriptor when the descriptor it makes is valid; an index or a value out of range, or a
descriptor that would not be valid, raises FORMAT 0x01, and a tile of the directory takes only its TENSOR and its policy. -/
def Obligations.TileDescriptors : Prop :=
  ∀ f s I l L, Issues s (.tdsc f) false [f.sa, f.sb] I → s.launchId I.c = some l → s.launch? l = some L →
    let idx := (I.c.read I.leader f.sa).toNat
    let v := (I.c.read I.leader f.sb).toNat
    let field := bitsOf f.imm.toNat 3 0
    let off := (tdscField field).1
    let n := (tdscField field).2
    let a := L.hdr.ttbase + BitVec.ofNat 64 (64 * idx)
    (L.hdr.ttcount ≤ idx ∨ 256 ^ n ≤ v → ∃ x, Traps s (.tdsc f) I x (maskOf I.lanes) ∧ x.cause = Cause.format ∧ x.detail = 0x01 ∧
      x.tval = BitVec.ofNat 64 idx) ∧
    (idx < L.hdr.ttcount → v < 256 ^ n → ∀ b, (passed s I).readRange (launchWho l L) a 64 = .ok b →
      let t := tileFields l idx a L.hdr.ntens (b.take off ++ leBytes n v ++ b.drop (off + n))
      (t = none → ∃ x, Traps s (.tdsc f) I x (maskOf I.lanes) ∧ x.cause = Cause.format ∧ x.detail = 0x01) ∧
      (t ≠ none → s.dirOf l idx ≠ none → field ≠ 5 → field ≠ 9 →
        ∃ x, Traps s (.tdsc f) I x (maskOf I.lanes) ∧ x.cause = Cause.format ∧ x.detail = 0x02) ∧
      (∀ y, t = some y → s.dirOf l idx = none ∨ field = 5 ∨ field = 9 →
        Passes s (.tdsc f) I I.c (fun _ => pcNext I.E.pc) ((passed s I).setTile y off n v)))

/-- R272, R285 and R287: TFCH binds its handle; a tile that is to stay at home, or is resident with the right it asks for, at once, with its
counter; else it takes up a fetch of the tile's image to the residence its operands name, marks the tile resident there and its handle
pending. TEVC of a resident tile takes up its eviction; of another, it is done. -/
def Obligations.TileResidence : Prop :=
  (∀ f s I l (t : Tile) sig i, Issues s (.tfch f) false [f.sa, f.sb] I → f.dst = .t i → s.launchId I.c = some l →
    let idx := (I.c.read I.leader f.sa).toNat
    let off := (I.c.read I.leader f.sb).toNat
    let where_ := bitsOf f.mod.toNat 1 0
    let wr := f.mod.getLsbD 2
    (passed s I).readTile l idx = .ok t → (passed s I).cnumOf I f.imm = .ok sig →
    (where_ = 0 ∨ (tileFree (passed s I) l idx ∧ t.resident = true ∧ (wr = false ∨ t.writable = true)) →
      Passes s (.tfch f) I I.c (fun _ => pcNext I.E.pc) (((passed s I).acceptDone I sig).modPanel I.core I.c.pslot (fun p =>
        { p with handles := p.handles.setIfInBounds i.val { tile := BitVec.ofNat 10 idx, tag := t.tag, bound := true, pending := false } }))) ∧
    (where_ ≠ 0 → tileFree (passed s I) l idx → t.resident = false → ∀ die, (passed s I).checkRange I where_ off t.imageSize = .ok die →
      off % 128 = 0 → ((s.dirOf l idx).isSome ∨ s.async.dir.length < dirLimit) → 2 ≤ (s.freeLockNums I.core).length →
      let base : Word := BitVec.ofNat 64 (whereSpace where_ * 2 ^ 60 + off)
      ∃ res : Word, bitsOf res.toNat 1 0 = where_ ∧ res.getLsbD 2 = wr ∧
        Begins s (.tfch f) I (.fetch I.c.f2 i.val idx res base t.imageSize
            ((((passed s I).logEntries t).filter (fun y => !t.malformed y.2)).length) (f.mod.getLsbD 3)) sig
          [(t.home, t.homeSize, false), (base, t.imageSize, true)] (fun t' =>
            (∀ p, s.panel? I.core I.c.pslot = some p → handleOf t' I f.dst =
              some { tile := BitVec.ofNat 10 idx, tag := t.tag, bound := true, pending := true }) ∧
            BytesKept ((passed s I).setTile t 0x20 8 res.toNat) t'))) ∧
  (∀ f s I t sig, Issues s (.tevc f) false [] I → (passed s I).boundTile I f.sa = .ok t → (passed s I).cnumOf I f.imm = .ok sig →
    ((passed s I).dirOf t.launch t.idx).elim false (·.evicting) = false →
    (t.resident = false → Passes s (.tevc f) I I.c (fun _ => pcNext I.E.pc) ((passed s I).acceptDone I sig)) ∧
    (t.resident = true → 2 ≤ (s.freeLockNums I.core).length →
      Begins s (.tevc f) I (.evict t.idx t.res t.imageSize (f.mod.getLsbD 0)) sig [(t.byteAddr 0, t.imageSize, false), (t.home, t.homeSize, true)]
        (fun t' => BytesKept s t' ∧ ∀ d ∈ t'.async.dir, d.launch = t.launch → d.tile = t.idx → d.evicting = true)))

/-- R281, R284, R285, R288 and R290 to R293: TMOV, the log operations, CPY and its snapshot form take up their work when their checks pass: no byte
moves yet, and the ranges they will use are locked. CWT waits for at most N operations outstanding and goes on; TLOG's query answers the length of
a tile's log, and RLQ the lock-table entries that hold an address, or one entry's base or attributes. -/
def Obligations.Copies : Prop :=
  ((∀ f s I (d a : Tile) sig any, Issues s (.tmov f) false [] I → (passed s I).boundTile I f.dst = .ok d → (passed s I).boundTile I f.sa = .ok a →
     (passed s I).cnumOf I f.imm = .ok sig → (if f.mod.getLsbD 0 then d.rows = a.cols ∧ d.cols = a.rows else d.rows = a.rows ∧ d.cols = a.cols) →
     (f.mod.getLsbD 1 = true ↔ d.layout = 2) → movPairing a.tag d.tag = some any → (any = true ∨ bitsOf f.mod.toNat 3 2 = 0) →
     d.resident = true → d.writable = true → ((passed s I).dirOf d.launch d.idx).elim false (·.evicting) = false → a.tag ≠ 0 →
     (passed s I).imagesMeet d a = false →
     ((passed s I).dirOf a.launch a.idx).elim false (·.evicting) = false → (passed s I).logBusy a.launch a.idx = false →
     2 ≤ (s.freeLockNums I.core).length →
     Begins s (.tmov f) I (.move d.idx a.idx (f.mod.getLsbD 0) (f.mod.getLsbD 1) (BitVec.ofNat 2 (bitsOf f.mod.toNat 3 2))) sig
       [(a.range.1, a.range.2, false), (d.range.1, d.range.2, true)] (BytesKept s)) ∧
   (∀ f s I t sig,
     let go (i : Instr) (act : BitVec 2) (locks : List (Word × Nat × Bool)) : Prop :=
       Issues s i false [] I → (passed s I).boundTile I f.sa = .ok t → (passed s I).cnumOf I f.imm = .ok sig →
       ((passed s I).dirOf t.launch t.idx).elim false (·.evicting) = false → locks.length ≤ (s.freeLockNums I.core).length →
       Begins s i I (.log t.idx act) sig locks (BytesKept s)
     go (.tlogCompact f) 0 [] ∧ go (.tlogApply f) 1 [(t.home, t.homeSize, true)] ∧ go (.tlogDiscard f) 2 []) ∧
   (∀ f s I sig, Issues s (.cpy f) false [f.sa, f.sb, f.sc] I → let dst := I.c.read I.leader f.sa
     let src := I.c.read I.leader f.sb
     let len := (I.c.read I.leader f.sc).toNat
     len ≠ 0 → len % 32 = 0 → dst.toNat % 32 = 0 → src.toNat % 32 = 0 → (passed s I).cnumOf I f.imm = .ok sig →
     (spaceOf dst ≠ spaceOf src ∨ overlap (offsetOf dst) len (offsetOf src) len = false) → (passed s I).rangeMeets I.w dst len = false →
     2 ≤ (s.freeLockNums I.core).length →
     Begins s (.cpy f) I (.copy src dst len 0) sig [(src, len, false), (dst, len, true)] (BytesKept s)) ∧
   (∀ f s I t sig, Issues s (.cpySnap f) false [f.sa] I → let dst := I.c.read I.leader f.sa
     (passed s I).boundTile I f.sb = .ok t → (passed s I).cnumOf I f.imm = .ok sig → t.resident = false → t.logcap ≠ 0 → dst.toNat % 32 = 0 →
     2 ≤ (s.freeLockNums I.core).length →
     Begins s (.cpySnap f) I (.snap t.idx dst t.homeSize false) sig [(t.home, t.homeSize, false), (dst, t.homeSize, true)] (BytesKept s))) ∧
  ((∀ f s I, Issues s (.cwt f) false [] I →
     (I.c.asyncOut ≤ bitsOf f.imm.toNat 7 0 → Passes s (.cwt f) I I.c (fun _ => pcNext I.E.pc) s) ∧
     (bitsOf f.imm.toNat 7 0 < I.c.asyncOut → exec (.cwt f) s = .next ((passed s I).failed I (.hold .cwt) (maskOf I.lanes)))) ∧
   (∀ f t, Instr.wellFormed false (.tlogQuery f) = true → YieldsEach (.tlogQuery f) []
     (fun s I => (passed s I).boundTile I f.sa = .ok t) f.dst (fun _ _ _ => VReg.ofWord (BitVec.ofNat 64 t.logcnt))) ∧
   (∀ f, Instr.wellFormed false (.rlq f) = true → YieldsEach (.rlq f) [f.sa] (fun _ _ => True) f.dst (fun s I _ =>
     let a := I.c.read I.leader f.sa
     let e := kget (s.core I.core).locks (a.toNat % 32)
     VReg.ofWord (BitVec.ofNat 64 (match bitsOf f.mod.toNat 1 0 with
       | 0 => ((s.core I.core).locks.map (fun x =>
           if spaceOf a == spaceOf x.2.base && overlap (offsetOf a) 1 (offsetOf x.2.base) x.2.len then 2 ^ x.1 else 0)).sum
       | 1 => e.elim 0 (·.base.toNat)
       | _ => e.elim 0 (fun x => x.len % 2 ^ 32 + 2 ^ 32 + (if x.dst then 2 ^ 33 else 0) + spaceOf x.base * 2 ^ 34 + x.issuer.toNat * 2 ^ 38))))))

/-- R255, R256, R262, R276, R279 and R289: TGET and TCMP read each executing strand's element; TSET and TACC act on it strand by strand in
ascending order, at its place, where every other bit keeps its value, or by an entry in its tile's log. -/
def Obligations.TileElements : Prop :=
  (∀ f s I (x : Nat → (Tile × Nat × Opnd) × Nat × FpNum), Issues s (.tget f) false [] I → Unwatched s →
    (∀ lane ∈ I.runs, (passed s I).elemRead I f.sa (tileIndex f (I.c.rd lane)) = .ok (x lane)) →
    let v (lane : Nat) := let t := (x lane).1.1
      VReg.ofWord (if fpTag t.tag || wbTag t.tag then BitVec.ofNat 64 (roundTo (wideTag t.tag) 0 (x lane).2.2).bits
        else extendTo (signedTag t.tag) t.ew (x lane).2.1)
    OneValue I f.dst v → Loads s s (.tget f) I f.dst v) ∧
  (∀ f s I (x : Nat → (Tile × Nat × Opnd) × Nat × FpNum), Issues s (.tcmp f) false [] I → Unwatched s →
    (∀ lane ∈ I.runs, (passed s I).elemRead I f.sa (I.c.read lane f.sb).toNat = .ok (x lane)) →
    let v (lane : Nat) := let n := (x lane).2.2
      let y := valueNum (x lane).1.1.tag (I.c.read lane f.sc)
      let k := bitsOf f.mod.toNat 1 0
      truth (if k = 0 then n.eq y else if k = 1 then !n.eq y else if k = 2 then n.lt y else y.lt n || n.eq y)
    OneValue I f.dst v → ∃ t c, exec (.tcmp f) s = .next t ∧ Moves s t I c (fun _ => pcNext I.E.pc) ∧ Wrote I c f.dst v ∧ Quiet s t) ∧
  (∀ f s I (x : Nat → Tile × Nat × Opnd) s2, Issues s (.tset f) false [] I → Unwatched s →
    (∀ lane ∈ I.runs, (passed s I).elemOpnd I f.sa false true false (tileIndex f (I.c.rd lane)) = .ok (x lane)) →
    I.performs (passed s I) (fun s1 i (x : Tile × Nat × Opnd) =>
        let n := valueNum x.1.tag (I.c.read i f.dst)
        let r := roundTo x.1.tag (bitsOf f.mod.toNat 1 0) n
        (s1.countStats (some x.1.launch) (cntKeys x.1.tensor (if n.isFin then r.cnt else .nonfin))).storeElem ((passed s I).workEv I.c 0)
          x.1 x.2.1 x.2.2 r.bits) (I.runs.map (fun lane => (lane, x lane))) = .ok s2 →
    Passes s (.tset f) I I.c (fun _ => pcNext I.E.pc) s2) ∧
  (∀ f s I (x : Nat → Tile × Nat × Opnd) s2, Issues s (.tacc f) false [] I → Unwatched s →
    (∀ lane ∈ I.runs, (passed s I).elemOpnd I f.sa false true true (I.c.read lane f.sb).toNat = .ok (x lane) ∧
      ((x lane).2.2.logged = false ∨ (x lane).1.tag ≠ 0x16)) →
    I.performs (passed s I) (fun s1 i x => s1.accElem ((passed s I).workEv I.c 0) (2 + bitsOf f.mod.toNat 1 0) (I.c.read i f.sc) x)
      (I.runs.map (fun lane => (lane, x lane))) = .ok s2 →
    Passes s (.tacc f) I I.c (fun _ => pcNext I.E.pc) s2) ∧
  (∀ (s : State) (b : Ev) (t : Tile) i (o : Opnd) v op, logless o.route → (cells o.route).length = t.eb → o.bit + t.ew ≤ 8 * t.eb →
    let old := leNat (s.routeRead o.route)
    let e := old / 2 ^ o.bit % 2 ^ t.ew
    let into (e' : Nat) := [(cells o.route, byteOf (old - e * 2 ^ o.bit + e' % 2 ^ t.ew * 2 ^ o.bit))]
    (∃ s', s.storeElem b t i o v = .ok s' ∧ StoredBytes s s' (into v)) ∧
    (v < 2 ^ 64 → let a := elemOp t.tag op e (v % 2 ^ if fpTag t.tag then tagWidth (wideTag t.tag) else t.ew)
      ∃ s', s.accElem b op (BitVec.ofNat 64 v) (t, i, o) = .ok s' ∧
        StoredBytes (s.countStats (some t.launch) (match a.2 with | .sat => [3 * t.tensor] | .nonfin => [3 * t.tensor + 2] | _ => [])) s' (into a.1))) ∧
  (∀ (s : State) (b : Ev) (t t' : Tile) i (o : Opnd) v, o.logged = true → s.readTile t.launch t.idx = .ok t' →
    (s.dirOf t'.launch t'.idx).isSome → s.logBusy t'.launch t'.idx = false → t'.logcnt < t'.logcap → t'.logcnt + 1 < t'.threshold →
    s.storeElem b t i o v = .ok ((s.pokeNat (t'.logLoc t'.logcnt) 16
      ({ index := i, op := 1, type := t'.tag.toNat, mask := t'.fullMask, value := v, rsv := 0 } : LogEntry).bits).setTile t' 0x34 2 (t'.logcnt + 1)))

/-- R277 to R279: compacting a log of an integer tile changes the value of no element. -/
def Obligations.CompactionKeepsValues : Prop :=
  ∀ (t : Tile) (log : List LogEntry) i e, intTag t.tag = true → (∀ y ∈ log, t.malformed y = false) → e < 2 ^ t.ew →
    (t.applyAll (log.foldl t.compactOne []) i e).1 = (t.applyAll log i e).1

/-! ## The matrix engine -/

/-- R306, R317 to R319, R328, R329, R331, R333, R336 and R345: GRD sets the engine's radix, headroom and accumulator policy, ACZ clears the engine
and takes it when it is free, JWT answers STOP or raises what stopped the job, SBA and SBW add a gate; the engine's owner alone may use GRD. EXIT of a
sequencer whose panel runs no job takes away its gates, gives the engine up, leaves the panel barriers and ends the sequencer (RUN 1); it waits while
a job runs or has still to resume by itself (STOP 4). -/
def Obligations.EngineForms : Prop :=
  (∀ s core pslot p, Streams s core pslot p → let e := s.engine core
     (∀ f, let g := bitsOf f.imm.toNat 1 0
       let h := bitsOf f.imm.toNat 12 8
       let pol := f.mod.getLsbD 0
       let x := signExt (bitsOf f.imm.toNat 42 32) 11
       (e.owner ≠ some pslot → ∃ tr, tr.cause = Cause.format ∧ tr.detail = 0x02 ∧
         exec (.grd f) s = .next (({ s with freeCount := s.freeCount + 1 } : State).streamTrap core pslot tr)) ∧
       (e.owner = some pslot → s.jobWaits core = false → e.eaccV = false ∨ (g = e.g ∧ pol = e.derived ∧ x = e.eaccExp) →
         ∃ e', Sequences s (.grd f) core pslot p.spc (s.modEngine core (fun _ => e')) p ∧
           e'.g = g ∧ e'.h = h ∧ e'.derived = pol ∧ e'.eaccExp = x ∧ e'.eaccV = e.eaccV ∧ e'.mode = e.mode ∧ e'.sat = e.sat ∧ e'.live = e.live ∧
           e'.stop = e.stop ∧ { e' with estat := e.estat, eacc := e.eacc } = e)) ∧
     (∀ f, e.owner = some pslot → s.jobWaits core = false →
       Sequences s (.acz f) core pslot p.spc (s.modEngine core Engine.cleared) p) ∧
     (∀ f, e.owner = none → (s.acquireEngine core pslot).jobWaits core = false →
       Sequences s (.acz f) core pslot p.spc ((s.acquireEngine core pslot).modEngine core Engine.cleared) { p with own := true, held := none }) ∧
     (∀ f q, e.owner = some q → q ≠ pslot → SeqWaits s (.acz f) core pslot p (s.queueEngine core pslot)) ∧
     (∀ f, let stop := if e.owner = some pslot then e.stop else 0
       (e.owner = some pslot → s.jobWaits core = true → SeqWaits s (.jwt f) core pslot p s) ∧
       (e.owner ≠ some pslot ∨ s.jobWaits core = false →
         (f.mod.getLsbD 0 = true ∨ (stop ≠ 2 ∧ stop ≠ 3) → Sequences s (.jwt f) core pslot p.spc s (withM p f.dst (BitVec.ofNat 64 stop))) ∧
         (f.mod.getLsbD 0 = false → stop = 2 → exec (.jwt f) s =
           .next (s.streamTrap core pslot { cause := Cause.guard, detail := 0, tval := e.edep.setWidth 64 })) ∧
         (f.mod.getLsbD 0 = false → stop = 3 → exec (.jwt f) s =
           .next (s.streamTrap core pslot { cause := p.efCause, detail := p.efDetail, tval := p.efAddr })))) ∧
     (∀ f, let b := bitsOf f.imm.toNat 3 0
       let tile := bitsOf f.imm.toNat 31 16
       ((p.gates.filter (fun x => !x.sbw)).length < 4 →
         Sequences s (.sba f) core pslot p.spc s { p with gates := p.gates ++ [{ sbw := false, barrier := b, tile }] }) ∧
       ((p.gates.filter (fun x => x.sbw)).length < 4 →
         Sequences s (.sbw f) core pslot p.spc s { p with gates := p.gates ++ [{ sbw := true, barrier := b, tile }] }))) ∧
  (∀ s core pslot p f, Streams s core pslot p → let mine := (s.engine core).owner = some pslot
     (mine → s.jobWaits core = true → SeqWaits s (.streamExit f) core pslot p s) ∧
     ((¬ mine ∨ s.jobWaits core = false) → pslot ∉ (s.engine core).waiters → ∃ t, exec (.streamExit f) s = .next t ∧ RegistersKept s t ∧ MemoryKept s t ∧
       (t.engine core).owner ≠ some pslot ∧
       ∀ q, t.panel? core pslot = some q → q.run = 1 ∧ q.gates = [] ∧ q.m = p.m ∧ q.spc = p.spc ∧ q.swait = .none))

/-- R306, R326, R327, R330, R332, R335 and R338: JOB, JRS and EXT read and check the card at their address, lock its ranges, and leave the
engine running its job, resuming it where it stopped, or extracting; JOB's destination takes the cause. No register of a strand changes, and
no byte of memory but the record's. -/
def Obligations.JobsBegin : Prop :=
  ∀ s core pslot p (c : Card), Streams s core pslot p → let e := s.engine core
    let kept (t : State) : Prop := t.courses = s.courses ∧ MemoryKept s t
    e.owner = some pslot →
    (∀ f, s.jobWaits core = false → s.readCard core pslot (p.rd.get f.sa) true = .ok c →
      (s.startJob core pslot p (p.rd.get f.sa) c none false).isSome →
      ∃ t j, exec (.job f) s = .next t ∧ (t.engine core).job = some j ∧ j.card = c ∧ j.addr = p.rd.get f.sa ∧ j.pslot = pslot ∧
        (t.engine core).live = true ∧ (t.engine core).stop = 0 ∧ (t.engine core).eloop = Vector.replicate 5 0 ∧ (t.engine core).digits = e.digits ∧
        t.panel? core pslot = some { withM p f.dst (j.cause.setWidth 64) with gates := [], spc := pcNext p.spc, swait := .none } ∧ kept t) ∧
    (∀ f j0, e.job = some j0 → e.live = true → e.stop = 2 ∨ e.stop = 3 ∨ e.stop = 5 → e.extract = none →
      s.readCard core pslot (p.rd.get f.sa) true = .ok c → c.mode = e.mode → c.ginh = true ∨ c.g = e.g →
      (s.startJob core pslot p (p.rd.get f.sa) c e.job true).isSome →
      ∃ t j, exec (.jrs f) s = .next t ∧ (t.engine core).job = some j ∧ j.card = c ∧ j.cause = j0.cause ∧ (t.engine core).live = true ∧
        (t.engine core).stop = 0 ∧ (t.engine core).digits = e.digits ∧
        t.panel? core pslot = some { p with gates := [], spc := pcNext p.spc, swait := .none } ∧ kept t) ∧
    (∀ f, s.jobWaits core = false → s.readCard core pslot (p.rd.get f.sa) false = .ok c →
      ((s.newCause (coreTaker core)).2.engineLocks core pslot (s.newCause (coreTaker core)).1 (c.dstRange false)).isSome →
      ∃ t x, exec (.ext f) s = .next t ∧ (t.engine core).extract = some x ∧ { t.engine core with extract := none } = { e with extract := none } ∧
        t.panel? core pslot = some { p with spc := pcNext p.spc, swait := .none } ∧ kept t)

/-- R313, R314, R327 and R334: ACS holds the image's range, writes the engine's image, a header and 2048 lines of cells, and gives range and engine
up; ACL reads one so and takes the engine; and an image says what the engine held: its header gives back every register, and its cells every digit. -/
def Obligations.EngineImages : Prop :=
  (∀ s core pslot p f s0 s1, Streams s core pslot p → let e := s.engine core
    let a := p.rd.get f.sa
    e.owner = some pslot → pslot ∉ e.waiters → e.extract = none → e.running = true ∨ s.jobWaits core = false → imageAddr a = .ok () →
    s.holdImage core pslot p a true = some s0 →
    s0.writeImage (s0.engineWho core pslot) core (s0.panelEv core pslot (State.copySrc 0) 0 0) (if e.running then e.setStop 5 else e) a 0 imageLines
      = (s1, none) →
    let s2 := (s1.stopEngine core 5).dropImage core pslot
    ∃ t q, exec (.acs f) s = .next t ∧ t.panel? core pslot = some q ∧ q.spc = pcNext p.spc ∧ q.own = false ∧ q.image = none ∧
      { t with panels := s.panels } = { (s2.emit (s2.panelEv core pslot (engineSrc core) 0x84 (a.toNat % 2 ^ 56))).releaseEngine core with panels := s.panels }) ∧
  (∀ s core pslot p f s0 b p' e' m, Streams s core pslot p → let e := s.engine core
    let a := p.rd.get f.sa
    let w := s.engineWho core pslot
    e.owner = none ∨ (e.owner = some pslot ∧ s.jobWaits core = false) → imageAddr a = .ok () → s.holdImage core pslot p a false = some s0 →
    s0.engRead w core a 3 128 = .ok (b, p') → Engine.ofHead b = some e' → s0.readCells w core e'.g a 1 (imageLines - 1) = .ok m →
    ∃ t q, exec (.acl f) s = .next t ∧ t.panel? core pslot = some q ∧ q.spc = pcNext p.spc ∧ q.m = p.m ∧ q.image = none ∧ t.courses = s.courses ∧ MemoryKept s t ∧
      (t.engine core).owner = some pslot ∧ (t.engine core).digits = m ∧
      { t.engine core with digits := e'.digits, owner := e'.owner, waiters := e'.waiters } = e') ∧
  (∀ e : Engine, bitsOf e.eacc.toNat 30 17 = 0 → -1024 ≤ e.eaccExp → e.eaccExp ≤ 1023 → bitsOf e.estat.toNat 31 24 = 0 → e.g ≠ 3 → e.mode ≠ 3 →
    bitsOf e.estat.toNat 9 8 = 0 → e.stop ≤ 5 → e.running = false →
    Engine.ofHead e.imageHead = some { e with digits := [], owner := none, waiters := [], job := none, extract := none }) ∧
  (∀ (e : Engine) k i, 0 < k → k < imageLines → i < 32 →
    let j := 32 * (k - 1) + i
    let digit (m : KMap Int) (n : Nat) : Int := (kget m n).getD 0
    (e.g = 0 → ∀ n, n = j ∨ n = 65536 + j → -(2 ^ 15) ≤ digit e.digits n → digit e.digits n < 2 ^ 15 →
      digit (cellDigits e.g k (e.imageLine k)) n = digit e.digits n) ∧
    (e.g ≠ 0 → -(2 ^ 31) ≤ digit e.digits j → digit e.digits j < 2 ^ 31 → digit (cellDigits e.g k (e.imageLine k)) j = digit e.digits j))

/-! ## Synchronisation -/

/-- R344 to R346, R353, R361 and R362: BARA records the arrival of every executing strand, BARW waits for the phase of the latest one, BAR does both;
a strand that need not wait goes on, another stays at the instruction with the phase it waits for. A sequencer does so at a panel barrier (R318). The
phase completes when as many parties have arrived as the barrier expects. BARQ answers a word of a barrier's record or of a counter's. -/
def Obligations.Barriers : Prop :=
  ((∀ f s I b i arrives waits, (i = .bara f ∧ arrives = true ∧ waits = false) ∨ (i = .barw f ∧ arrives = false ∧ waits = true) ∨
       (i = .bar f ∧ arrives = true ∧ waits = true) → Issues s i false (barReq f) I →
     let level := barLevel f
     let n := barNumber f (I.c.read I.leader)
     s.bar? (s.unitOf I.core I.slot I.c level) n = some b →
     ∃ t c, exec i s = .next t ∧ RegistersKept s t ∧ MemoryKept s t ∧
       Stand t I c (fun e => goneOn I e ∨ (e.pc = I.E.pc ∧ ∃ p, e.wait = .barrier level n p)) ∧
       (arrives = true → ∀ lane ∈ I.lanes,
         findArr (c.st lane).arrs level n = 
           some ⟨level, n, (nextArrival (I.c.st lane).arrs level n b.phase).1, s.causeOf I.c, s.parentOf I.c, s.time.gt⟩) ∧
       (waits = false → (∀ lane ∈ I.lanes, (nextArrival (I.c.st lane).arrs level n b.phase).2 = false) → Stand t I c (goneOn I)) ∧
       (arrives = false → (∀ lane ∈ I.lanes, ∀ a, findArr (I.c.st lane).arrs level n = some a → 2 ^ 31 ≤ (a.phase - b.phase).toNat) →
         Stand t I c (goneOn I))) ∧
   (∀ f s core pslot p i arrives, (i = .bara f ∧ arrives = true) ∨ (i = .barw f ∧ arrives = false) ∨ (i = .bar f ∧ arrives = true) →
     Streams s core pslot p → let n := barNumber f p.rd.get
     n < (if arrives then 8 else 16) → (s.bar? (.panel core pslot) n).isSome →
     ∃ t q, exec i s = .next t ∧ RegistersKept s t ∧ MemoryKept s t ∧ t.panel? core pslot = some q ∧ q.m = p.m ∧
       ((q.spc = pcNext p.spc ∧ q.swait = .none) ∨ (q.spc = p.spc ∧ ∃ ph, q.swait = .barrier n ph)) ∧
       (arrives = true → (findArr q.sarrs 1 n).isSome))) ∧
  (∀ (s : State) core slot (c : Course) n (b : Barrier) cause parent, s.course? core slot = some c → s.bar? (.course core slot) n = some b →
     b.joined = false → b.arrived = [] → b.departed = [] → b.expect ≠ 0 →
     let came := (lanesOf c.present).filter (fun l => arrCovers (c.st l).arrs 0 n b.phase)
     let t := s.evalBar (.course core slot) n cause parent 1
     RegistersKept s t ∧ MemoryKept s t ∧
     (came.length = b.expect → ∃ b', t.bar? (.course core slot) n = some b' ∧ b'.phase = b.phase + 1 ∧ b'.arrived = []) ∧
     (came.length ≠ b.expect → ∃ b', t.bar? (.course core slot) n = some b' ∧ b'.phase = b.phase ∧ b'.arrived = came)) ∧
  (∀ f, let word := bitsOf f.imm.toNat 20 16
     (f.mod.getLsbD 3 = false → ∀ b, Yields (.barq f) false (barReq f)
       (fun s I => s.bar? (s.unitOf I.core I.slot I.c (barLevel f)) (barNumber f (I.c.read I.leader)) = some b) f.dst
       (fun s I _ => VReg.ofWord (BitVec.ofNat 64
         ((passed s I).barRecord (s.unitOf I.core I.slot I.c (barLevel f)) (barNumber f (I.c.read I.leader)) b >>> (64 * word))))) ∧
     (f.mod.getLsbD 3 = true → ∀ n, Yields (.barq f) false (barReq f)
       (fun s I => quotaOf s I (ctrNumber f (f.mod.getLsbD 2) (I.c.read I.leader)) = some n) f.dst
       (fun s I _ => VReg.ofWord ((passed s I).counterWord n word))))

/-- R349 to R352, R363 to R365 and R368: a signal adds to VALUE, counts one generation, counts toward the declared entry it matches and fires, in
order, the armed entries whose threshold VALUE has reached; a poisoned counter drops it. CINC signals a counter of the context's quota once for each
executing strand in ascending order, CSET sets it so, CWAIT goes on when VALUE has reached its limit and waits otherwise; under OLD the destination
takes the value before. A counter outside the quota, or poisoned, raises PRIV. -/
def Obligations.Counters : Prop :=
  (∀ (s : State) ctx i cnum incr dev key cause parent, let c := s.counter i
     let t := s.signal ctx i cnum incr dev key cause parent
     (c.poison = true → t = s) ∧
     (c.poison = false → let due (a : Armed) : Bool := decide (a.threshold.toNat ≤ (c.value + incr).toNat)
       t.counter i = { c with value := c.value + incr, gen := c.gen + 1, decl := countDecl dev key c.decl, armed := c.armed.filter (fun a => !due a) } ∧
       (∀ m, m ≠ i → t.counter m = s.counter m) ∧ RegistersKept s t ∧ MemoryKept s t ∧
       t.work.nextId = s.work.nextId + (c.armed.filter due).length ∧
       ∀ j (a : Armed), (c.armed.filter due)[j]? = some a → ∃ o, t.op? (s.work.nextId + j) = some o ∧ o.kind = .entry a.bits false ∧ o.ctx = a.ctx)) ∧
  ((∀ f s I n, let req := if f.mod.getLsbD 0 then [f.sa] else []
     let cnum := ctrNumber f (f.mod.getLsbD 0) (I.c.read I.leader)
     let arg (lane : Nat) : Word := if f.mod.getLsbD 1 then BitVec.ofNat 64 (bitsOf f.imm.toNat 47 32) else I.c.read lane f.sb
     let v := (s.counter n).value
     quotaOf s I cnum = some n → (s.counter n).poison = false →
     (Issues s (.cinc f) false req I → (f.mod.getLsbD 3 = true → OneValue I f.dst (fun lane => VReg.ofWord (v + before I arg lane))) →
       CounterActs s (.cinc f) I n (f.mod.getLsbD 3) f.dst (fun lane => v + before I arg lane) (fun c =>
         c.value = v + (I.runs.map arg).foldl (· + ·) 0 ∧ c.gen = (s.counter n).gen + BitVec.ofNat 32 I.runs.length ∧ c.poison = false)) ∧
     (Issues s (.cset f) false req I → (f.mod.getLsbD 3 = true → OneValue I f.dst (fun lane =>
         VReg.ofWord (((I.runs.takeWhile (· != lane)).map arg).getLastD v))) →
       CounterActs s (.cset f) I n (f.mod.getLsbD 3) f.dst (fun lane => ((I.runs.takeWhile (· != lane)).map arg).getLastD v) (fun c =>
         c.value = (I.runs.map arg).getLastD v ∧ c.gen = (s.counter n).gen + BitVec.ofNat 32 I.runs.length ∧ c.poison = false ∧
         c.decl = (s.counter n).decl)) ∧
     (Issues s (.cwait f) false (req ++ if f.mod.getLsbD 1 then [] else [f.sb]) I →
       ((arg I.leader).toNat ≤ v.toNat → CounterActs s (.cwait f) I n (f.mod.getLsbD 3) f.dst (fun _ => v) (fun c => c = s.counter n)) ∧
       (v.toNat < (arg I.leader).toNat → exec (.cwait f) s = .next ((passed s I).failed I (.hold (.counter n)) (maskOf I.lanes))))) ∧
   (∀ f s I i req, (i = .cinc f ∨ i = .cset f) ∧ req = (if f.mod.getLsbD 0 then [f.sa] else []) → Issues s i false req I →
     let cnum := ctrNumber f (f.mod.getLsbD 0) (I.c.read I.leader)
     (quotaOf s I cnum = none → ∃ x, Traps s i I x (maskOf I.lanes) ∧ x.cause = Cause.priv ∧ x.detail = 0x01 ∧ x.tval = BitVec.ofNat 64 cnum) ∧
     (∀ n, quotaOf s I cnum = some n → (s.counter n).poison = true →
       ∃ x, Traps s i I x (maskOf I.lanes) ∧ x.cause = Cause.priv ∧ x.detail = 0x02 ∧ x.tval = BitVec.ofNat 64 cnum)))

/-- R353, R356, R366 and R367: CDCL replaces a counter's declared entries by the table its leader reads; FENCE goes on when the asynchronous
operations and the posted requests that its kind names are complete, and waits otherwise. -/
def Obligations.DeclareAndFence : Prop :=
  (∀ f s I n (o : Nat → Opnd) (d : Nat → Decl), Issues s (.cdcl f) false ((if f.mod.getLsbD 0 then [f.sa] else []) ++ [f.sb]) I → Unwatched s →
    quotaOf s I (ctrNumber f (f.mod.getLsbD 0) (I.c.read I.leader)) = some n → (s.counter n).poison = false →
    let a := I.c.read I.leader f.sb
    let count := bitsOf f.imm.toNat 20 16
    a.toNat % 8 = 0 →
    (∀ k < count, (passed s I).reach ((passed s I).strandWho I.core I.c.pslot I.c I.leader) I.core false true (a + BitVec.ofNat 64 (8 * k)) 8 = .ok (o k) ∧
      declOf (leNat ((passed s I).routeRead (o k).route)) = some (d k)) →
    CounterActs s (.cdcl f) I n false f.dst (fun _ => 0) (fun c =>
      c = { s.counter n with decl := (List.range count).map d, gen := (s.counter n).gen + 1 })) ∧
  (∀ f s I, Issues s (.fence f) false [] I → let kind := bitsOf f.mod.toNat 1 0
    let waits := (kind ≠ 0 ∧ I.c.asyncOut ≠ 0) ∨ (kind = 2 ∧ s.postedOut I.c = true)
    (¬ waits → Passes s (.fence f) I I.c (fun _ => pcNext I.E.pc) s) ∧
    (waits → exec (.fence f) s = .next ((passed s I).failed I (.hold .fence) (maskOf I.lanes)))) ∧
  (∀ f s core pslot p, Streams s core pslot p →
    ((s.engine core).owner ≠ some pslot ∨ s.jobWaits core = false → Sequences s (.fence f) core pslot p.spc s p) ∧
    ((s.engine core).owner = some pslot → s.jobWaits core = true → SeqWaits s (.fence f) core pslot p s))

/-! ## Fabric -/

/-- R253, R372, R374 and R378 to R380: FLD sends a read for each executing strand, its destination pending and its entry parked until the
replies; FST and FATM send a posted request for each and go on. A request takes its flow's next SEQ and leaves on its route; one with no
route is nacked and takes none (log 41). -/
def Obligations.RemoteAccesses : Prop :=
  (∀ f s I (o : Nat → Word × Nat × Nat), Issues s (.fld f) false [] I →
    (∀ lane ∈ I.runs, (passed s I).peerOpnd I f lane (fabBytes f.mod) .peerLoad = .ok (o lane)) →
    ∃ t c, exec (.fld f) s = .next t ∧ Stand t I c (fun e => e.pc = I.E.pc ∧ e.wait = .remote) ∧
      (∀ lane ∈ I.lanes, ∀ p, pendOf (I.c.st lane) f.dst = some p → p ∈ (c.st lane).pending) ∧ RegistersKept s t ∧ BytesKept s t ∧
      ∀ j lane, I.runs[j]? = some lane → ∃ r, kget t.async.reqs (s.work.nextId + j) = some r ∧
        r.kind = .fld I.c.skein I.c.f2 I.c.f1 (if I.uni then maskOf I.lanes else maskOf [lane]) f.dst (fabBytes f.mod) (f.mod.getLsbD 3) ∧
        r.dev = (o lane).2.1 ∧ r.laddr = (o lane).1 ∧ r.sent = s.time.gt ∧ r.ended = none ∧
        r.packet.body = .read (BitVec.ofNat 64 (o lane).2.2) (fabBytes f.mod)) ∧
  (∀ i f kind body, (i = .fst f ∧ kind = 3 ∧ body = fun (o : Word) n (v : Word) => Body.write o (leBytes n v.toNat)) ∨
      (i = .fatm f ∧ kind = 4 ∧ body = fun o n v =>
        Body.atomic o (BitVec.ofNat 4 (bitsOf f.mod.toNat 6 3)) n (BitVec.ofNat 64 (v.toNat % 2 ^ (8 * n)))) →
    ∀ s I (o : Nat → Word × Nat × Nat), Issues s i false [] I →
    (∀ lane ∈ I.runs, (passed s I).peerOpnd I f lane (fabBytes f.mod) .peerStore = .ok (o lane)) →
    Passes s i I I.c (fun _ => pcNext I.E.pc) (I.runs.foldl (fun t lane =>
      t.sendReq (.posted I.c.skein I.c.f2 I.c.f1) I.flow (o lane).2.1 kind (t.skeinCtx I.c.skein) I.c.entropy.toNat I.c.fmode
        (t.causeOf I.c) (t.parentOf I.c) (o lane).1 (body (BitVec.ofNat 64 (o lane).2.2) (fabBytes f.mod) (I.c.read lane f.sb))) (passed s I))) ∧
  (∀ (s : State) kind flow dst pk ctx ent mode cause parent a body,
    let t := s.sendReq kind flow dst pk ctx ent mode cause parent a body
    let x := s.settleFlow (s.flowFor flow dst ent mode)
    ∃ r, kget t.async.reqs s.work.nextId = some r ∧ r.kind = kind ∧ r.flow = flow ∧ r.dev = dst ∧ r.laddr = a ∧ r.ended = none ∧
      r.packet.body = body ∧ r.packet.seq = x.seq ∧ (∀ id, id ≠ s.work.nextId → kget t.async.reqs id = kget s.async.reqs id) ∧
      ((s.route dst x.ent).isSome → t.flowFor flow dst ent mode = { x with seq := x.seq + 1 } ∧ t.agenda = s.agenda ∧
        ∃ p, t.async.outbox = s.async.outbox ++ [p] ∧ ({ p with rly := false, relay := 0, mark := false } : Packet) = r.packet) ∧
      (s.route dst x.ent = none → t.async.outbox = s.async.outbox ∧ t.async.flows = s.async.flows ∧
        ∃ p, ⟨s.time.gt, .event (.fabricNack p)⟩ ∈ t.agenda ∧ p.info = 1 ∧ p.req = s.work.nextId))

/-- R375, R381, R382 and R384: PENT sets the entropy and the mode of its course's requests; QPST copies the entry at its address and starts
it; QARM arms it on a counter, where every entry whose threshold VALUE has reached starts; a full counter raises PRIV 0x04. -/
def Obligations.FlowsAndEntries : Prop :=
  (∀ f s I, Issues s (.pent f) false [] I →
    let e := bitsOf f.imm.toNat 7 0
    let mode : BitVec 2 := BitVec.ofNat 2 (bitsOf f.mod.toNat 1 0)
    (e < s.domainSize - 1 → Passes s (.pent f) I { I.c with entropy := BitVec.ofNat 8 e, fmode := mode } (fun _ => pcNext I.E.pc)
      ((passed s I).setEntropy (fun x => x.flow == I.flow) e mode)) ∧
    (s.domainSize - 1 ≤ e → ∃ x, Traps s (.pent f) I x I.E.mask ∧ x.cause = Cause.illegal ∧ x.detail = 0x03)) ∧
  (∀ f s I b o, Issues s (.qpst f) false [f.sa] I → Unwatched s → (passed s I).readEntry I (I.c.read I.leader f.sa) = .ok (b, o) →
    Passes s (.qpst f) I I.c (fun _ => pcNext I.E.pc) ((passed s I).startEntry ((passed s I).entryOf I 0 b)) ∧
    ∃ x, ((passed s I).startEntry ((passed s I).entryOf I 0 b)).op? s.work.nextId = some x ∧ x.kind = .entry b false ∧ x.cursor = 0) ∧
  (∀ f s I b o n, Issues s (.qarm f) false [f.sa, f.sb] I → Unwatched s → let cnum := bitsOf f.imm.toNat 15 0
    quotaOf s I cnum = some n → (s.counter n).poison = false → (passed s I).readEntry I (I.c.read I.leader f.sa) = .ok (b, o) →
    let c := s.counter n
    let all := c.armed ++ [(passed s I).entryOf I (I.c.read I.leader f.sb) b]
    let due (a : Armed) : Bool := decide (a.threshold.toNat ≤ c.value.toNat)
    (c.armed.length < 8 → s.armedTotal < 16384 → ∃ t d, exec (.qarm f) s = .next t ∧ Stand t I d (goneOn I) ∧ RegistersKept s t ∧ MemoryKept s t ∧
      t.counter n = { c with armed := all.filter (fun a => !due a) } ∧ (∀ m, m ≠ n → t.counter m = s.counter m) ∧
      ∀ j (a : Armed), (all.filter due)[j]? = some a → ∃ x, t.op? (s.work.nextId + j) = some x ∧ x.kind = .entry a.bits false ∧ x.ctx = a.ctx) ∧
    (8 ≤ c.armed.length ∨ 16384 ≤ s.armedTotal → ∃ x, Traps s (.qarm f) I x (maskOf I.lanes) ∧ x.cause = Cause.priv ∧ x.detail = 0x04 ∧
      x.tval = BitVec.ofNat 64 cnum))

/-- R386, R387, R390 and R391: COLL reads its descriptor, gives its destination a new cause, locks the collective's ranges and starts it; CWD
answers a word of a collective of its context, or puts its deadline off. -/
def Obligations.Collectives : Prop :=
  (∀ f s I o1 o2 s3, Instr.wellFormed false (.coll f) = true → Issues s (.coll f) false [f.sa] I → Unwatched s →
    let p := passed s I
    let a := I.c.read I.leader f.sa
    let w := p.strandWho I.core I.c.pslot I.c I.leader
    p.reach w I.core false true a 64 = .ok o1 → p.reach w I.core false true (a + 64) 64 = .ok o2 →
    let d : BitVec 1024 := BitVec.ofNat 1024 (leNat (p.routeRead o1.route ++ p.routeRead o2.route))
    p.descOk d = true → p.joinTaken (s.launchId I.c) d = false →
    let x := p.newCause (coreTaker I.core)
    let y := x.2.newOp I (.coll x.1) none
    y.2.2.takeLocks I.core y.1 2 (cdLocks d) = some s3 →
    let s4 := s3.collStart y.1 { y.2.1 with cause := x.1, parent := s.causeOf I.c } d (BitVec.ofNat 64 (cdField d 0x30 8)) y.2.1.issuer x.1
      (s.causeOf I.c)
    ∃ t c, exec (.coll f) s = .next t ∧ Stand t I c (goneOn I) ∧
      (∀ lane < 16, ∀ r, c.whole lane r = if r = f.dst ∧ (lane ∈ I.lanes ∨ Reg.shared f.dst = true)
        then taken f.dst (VReg.ofWord (x.1.setWidth 64)) (I.c.whole lane r) else I.c.whole lane r) ∧
      (∀ k, k ≠ courseKey I.core I.slot → (kget t.courses k).map registers = (kget s.courses k).map registers) ∧
      ({ t with courses := s.courses } : State) = { s4 with courses := s.courses } ∧
      (∃ z, t.coll? x.1.toNat = some z ∧ z.desc = d ∧ z.issued = s.time.gt) ∧
      (cdOp d ≠ 2 → cdOp d ≠ 5 → cdOp d ≠ 4 ∨ cdSelf d ≠ 0 → MemoryKept s t)) ∧
  (∀ f c, Instr.wellFormed false (.cwdQuery f) = true → bitsOf f.imm.toNat 4 0 < 4 → YieldsEach (.cwdQuery f) [f.sa]
    (fun s I => s.collOf I (I.c.read I.leader f.sa) = some c) f.dst (fun _ _ _ => VReg.ofWord (BitVec.ofNat 64 (c.word (bitsOf f.imm.toNat 4 0))))) ∧
  (∀ f s I c, Issues s (.cwdExtend f) false [f.sa, f.sb] I → s.collOf I (I.c.read I.leader f.sa) = some c →
    let v := I.c.read I.leader f.sb
    (c.fired = false → c.deadline.toNat ≤ v.toNat →
      Passes s (.cwdExtend f) I I.c (fun _ => pcNext I.E.pc) ((passed s I).setColl { c with deadline := v })) ∧
    (c.fired = true ∨ v.toNat < c.deadline.toNat →
      ∃ x, Traps s (.cwdExtend f) I x I.E.mask ∧ x.cause = Cause.illegal ∧ x.detail = 0x03))

/-! ## System instructions and traps -/

/-- R401, R414, R415, R422, R423 and R426 to R429: TRAP raises BREAK; BKPT and HALT stop the skein of an attached debugger, do nothing on the
one-time pass of a resumption, and else raise BREAK; ICINV drops the lines of its range, and their fills, on the cores of its scope; EVT emits user events, CAUS and CAUS.new
set the course's cause, GLCH pulls the snapshot trigger; KILL kills the issuing context: its skein and the issuing course's strands are gone, and no
register of a course of another context changes. -/
def Obligations.SystemForms : Prop :=
  ((∀ f s I, Issues s (.trap f) false [] I → ∃ x, Traps s (.trap f) I x (maskOf I.lanes) ∧ x.cause = Cause.brk ∧ x.detail = 0x02 ∧
     x.tval = BitVec.ofNat 64 (bitsOf f.imm.toNat 15 0)) ∧
   (∀ i f (n : Byte), (i = .bkpt f ∧ n = 1) ∨ (i = .halt f ∧ n = 4) → ∀ s I, Issues s i false [] I →
     (s.attachedTo I.c.skein = false → ∃ x, x.cause = Cause.brk ∧ x.detail = n ∧ (n = 1 → x.tval = BitVec.ofNat 64 (bitsOf f.imm.toNat 15 0)) ∧
       exec i s = .next (({ passed s I with freeCount := if n = 1 then s.freeCount else s.freeCount + 1 } : State).failed I (.trap x) (maskOf I.lanes))) ∧
     (s.attachedTo I.c.skein = true → I.c.resumed = true → I.c.passAt = some I.E.pc → Passes s i I I.c (fun _ => pcNext I.E.pc) s) ∧
     (∀ k, s.skein? I.c.skein = some k → k.attached = true → k.stopped = false → (I.c.resumed = false ∨ I.c.passAt ≠ some I.E.pc) →
       (kkeys s.courses).Nodup → ∃ t, exec i s = .next t ∧ RegistersKept s t ∧ MemoryKept s t ∧ (t.skein? I.c.skein).elim false (·.stopped) = true ∧
         ∀ key c, kget t.courses key = some c → c.skein = I.c.skein → c.stopped = true)) ∧
   (∀ f s I, Issues s (.icinv f) false [f.sa, f.sb] I →
     let a := I.c.read I.leader f.sa
     let n := (I.c.read I.leader f.sb).toNat
     (a.toNat % 64 = 0 → n ≠ 0 → n % 64 = 0 → n < 2 ^ 32 → ∃ s1, Passes s (.icinv f) I I.c (fun _ => pcNext I.E.pc) s1 ∧
       ({ s1 with cores := s.cores, courses := s.courses } : State) = s ∧
       ∀ k, s1.core k = if k ∈ s.icScope I (bitsOf f.mod.toNat 1 0) then { s.core k with
         icache := (s.core k).icache.filter (fun y => !(y.ctx == I.w.ctx && decide (a.toNat ≤ y.line.toNat) && decide (y.line.toNat < a.toNat + n)))
         filling := (s.core k).filling.filter (fun y => !(y.1 == I.w.ctx && decide (a.toNat ≤ y.2.1.toNat) && decide (y.2.1.toNat < a.toNat + n))) }
         else s.core k) ∧
     (a.toNat % 64 ≠ 0 → ∃ x, Traps s (.icinv f) I x (maskOf I.lanes) ∧ x.cause = Cause.align ∧ x.detail = 0 ∧ x.tval = a) ∧
     (a.toNat % 64 = 0 → n = 0 ∨ n % 64 ≠ 0 ∨ 2 ^ 32 ≤ n → ∃ x, Traps s (.icinv f) I x I.E.mask ∧ x.cause = Cause.illegal ∧ x.detail = 0x03)) ∧
   (∀ f s I, Issues s (.evt f) false [] I →
     let e (s : State) (lane : Nat) : Ev := { s.courseEv I.core I.slot I.c (0xE0 + bitsOf f.imm.toNat 3 0)
       ((I.c.read lane f.sa).toNat + (I.c.read lane f.sb).toNat % 2 ^ 32 * 2 ^ 64) with priv := true }
     let traced := (s.launchOf I.c).elim false (·.hdr.trctl.getLsbD 17)
     ∀ l, s.launchId I.c = some l → Passes s (.evt f) I I.c (fun _ => pcNext I.E.pc) (I.runs.foldl (fun t lane =>
       let t := if traced then t.traceEv l (e t lane) else t
       if f.mod.getLsbD 0 then t.emit (e t lane) else t) (passed s I))) ∧
   (∀ f s I, Issues s (.caus f) false [f.sa] I → let v : Word32 := (I.c.read I.leader f.sa).setWidth 32
     Passes s (.caus f) I { I.c with ccause := v, cparent := if v = 0 then 0 else s.skeinCause I.c.skein } (fun _ => pcNext I.E.pc) s) ∧
   (∀ f s I, Instr.wellFormed false (.causNew f) = true → Issues s (.causNew f) false [] I →
     let x := (passed s I).newCause (coreTaker I.core)
     ∃ t c, exec (.causNew f) s = .next t ∧
       Moves s t { I with c := { I.c with ccause := x.1, cparent := s.causeOf I.c } } c (fun _ => pcNext I.E.pc) ∧
       Wrote I c f.dst (fun _ => VReg.ofWord (x.1.setWidth 64)) ∧
       let e : Ev := { source := partSrc I.core I.slot, type := 0xCB, priv := true, cause := x.1, parent := s.causeOf I.c,
                       ctx := s.skeinCtx I.c.skein, payload := 0 }
       ({ t with courses := s.courses } : State) = { (x.2.emit e) with courses := s.courses }) ∧
   (∀ f s I, Issues s (.glch f) false [] I →
     ((∀ t0, s.dbg.pulled = some t0 → t0 + 16000 ≤ s.time.gt) → ∃ s1, Passes s (.glch f) I I.c (fun _ => pcNext I.E.pc) s1 ∧
       s1.dbg.pulled = some s.time.gt ∧ 1298 ≤ s1.dbg.snapshots.length ∧
       ({ s1 with dbg := { s1.dbg with pulled := s.dbg.pulled, snapshots := s.dbg.snapshots }, freeCount := s.freeCount, courses := s.courses } : State) = s) ∧
     (∀ t0, s.dbg.pulled = some t0 → s.time.gt < t0 + 16000 → Passes s (.glch f) I I.c (fun _ => pcNext I.E.pc) s))) ∧
  (∀ f s I k l, Issues s (.kill f) false [] I → s.skein? I.c.skein = some k → s.launch? k.launch = some l → (kkeys s.courses).Nodup →
     ∃ t, exec (.kill f) s = .next t ∧ t.ctxKilled l.ctx = true ∧ t.skein? I.c.skein = none ∧
       (∀ c, t.course? I.core I.slot = some c → c.present = 0 ∧ c.fr0 = [] ∧ c.fr1 = [] ∧ c.fr2 = []) ∧
       ∀ key c, kget s.courses key = some c → s.skeinCtx c.skein ≠ l.ctx → (kget t.courses key).map registers = some (registers c))

/-- R425: SRD gives every executing strand its copy of a system register, SWR writes one; a register of a level above the current one raises
PRIV 0x05, a reserved one, or a write of a read-only one, ILLEGAL 0x03. -/
def Obligations.SystemRegisters : Prop :=
  let level (sel : Nat) : Nat := if 0x20 ≤ sel ∧ sel < 0x26 then 2 else if 0x10 ≤ sel ∧ sel < 0x16 then 1 else 0
  let exists_ (sel : Nat) : Prop := sel < 4 ∨ (0x10 ≤ sel ∧ sel < 0x16) ∨ (0x20 ≤ sel ∧ sel < 0x26) ∨ (0x30 ≤ sel ∧ sel < 0x34)
  let fixed (sel : Nat) : Prop := sel ∈ [0x01, 0x02, 0x12, 0x13, 0x22, 0x23]
  (∀ f : Gen, let sel := bitsOf f.imm.toNat 7 0
    exists_ sel → YieldsEach (.srd f) [] (fun _ I => level sel ≤ I.c.level.val) f.dst (fun s I lane => VReg.ofWord (
      match sel with
      | 0x00 => (I.c.st lane).fpstat.setWidth 64
      | 0x01 => BitVec.ofNat 64 I.c.level.val
      | 0x02 => (s.causeOf I.c).setWidth 64
      | 0x03 => if I.c.sstep then 1 else 0
      | 0x10 => I.c.tl1.tcause
      | 0x11 => I.c.tl1.tpc
      | 0x12 => I.c.tl1.tval
      | 0x13 => I.c.tl1.tmask
      | 0x14 => I.c.tl1.tprio
      | 0x15 => (I.c.st lane).tscr1
      | 0x20 => I.c.tl2.tcause
      | 0x21 => I.c.tl2.tpc
      | 0x22 => I.c.tl2.tval
      | 0x23 => I.c.tl2.tmask
      | 0x24 => I.c.tl2.tprio
      | 0x25 => (I.c.st lane).tscr2
      | 0x30 => I.c.bps[0]
      | 0x31 => I.c.bps[1]
      | 0x32 => I.c.bps[2]
      | _ => I.c.bps[3]))) ∧
  (∀ f s I, let sel := bitsOf f.imm.toNat 7 0
    let v (lane : Nat) : Word := I.c.read (sourceOf I lane) f.sa
    let x : Word := v I.leader
    let sexit (old : Word) : Word := old &&& ~~~0x100000 ||| x &&& 0x100000
    let own := sel ∈ [0x00, 0x15, 0x25]
    let base : Course := match sel with
      | 0x03 => { I.c with sstep := x.getLsbD 0 }
      | 0x10 => { I.c with tl1 := { I.c.tl1 with tcause := sexit I.c.tl1.tcause } }
      | 0x11 => { I.c with tl1 := { I.c.tl1 with tpc := x } }
      | 0x14 => { I.c with tl1 := { I.c.tl1 with tprio := x &&& 0xFFFF } }
      | 0x20 => { I.c with tl2 := { I.c.tl2 with tcause := sexit I.c.tl2.tcause } }
      | 0x21 => { I.c with tl2 := { I.c.tl2 with tpc := x } }
      | 0x24 => { I.c with tl2 := { I.c.tl2 with tprio := x &&& 0xFFFF } }
      | 0x30 => { I.c with bps := I.c.bps.set 0 (x &&& 0x00FFFFFFFFFFFFCF) }
      | 0x31 => { I.c with bps := I.c.bps.set 1 (x &&& 0x00FFFFFFFFFFFFCF) }
      | 0x32 => { I.c with bps := I.c.bps.set 2 (x &&& 0x00FFFFFFFFFFFFCF) }
      | 0x33 => { I.c with bps := I.c.bps.set 3 (x &&& 0x00FFFFFFFFFFFFCF) }
      | _ => I.c
    let mine (lane : Nat) (y : Strand) : Strand := match sel with
      | 0x00 => { y with fpstat := (v lane).setWidth 5 }
      | 0x15 => { y with tscr1 := v lane }
      | 0x25 => { y with tscr2 := v lane }
      | _ => y
    Issues s (.swr f) false [] I →
    (exists_ sel → ¬ fixed sel → level sel ≤ I.c.level.val → own ∨ I.differs [f.sa] = none →
      ∃ t c, exec (.swr f) s = .next t ∧ Moves s t { I with c := base } c (fun _ => pcNext I.E.pc) ∧ c.kreg = I.c.kreg ∧
        (∀ lane < 16, c.st lane = if lane ∈ I.lanes then mine lane (I.c.st lane) else I.c.st lane) ∧ Quiet s t) ∧
    (exists_ sel → ¬ fixed sel → level sel ≤ I.c.level.val → ¬ own → ∀ e, I.differs [f.sa] = some e →
      exec (.swr f) s = .next ((passed s I).failed I e.1 e.2)) ∧
    (¬ exists_ sel ∨ fixed sel → ∃ y, Traps s (.swr f) I y I.E.mask ∧ y.cause = Cause.illegal ∧ y.detail = 0x03)) ∧
  (∀ i f s I, i = .srd f ∨ i = .swr f → Issues s i false [] I → let sel := bitsOf f.imm.toNat 7 0
    (¬ exists_ sel → ∃ y, Traps s i I y I.E.mask ∧ y.cause = Cause.illegal ∧ y.detail = 0x03) ∧
    (exists_ sel → I.c.level.val < level sel → i = .srd f ∨ ¬ fixed sel → ∃ y, y.cause = Cause.priv ∧ y.detail = 0x05 ∧
      exec i s = .next (({ passed s I with freeCount := s.freeCount + 1 } : State).failed I (.trap y) (maskOf I.lanes))))

/-- R395 to R400, R424 and R455 to R457: a trap that the table takes saves its cause, PC, value, strands and priority in the bank of the next level
and enters the handler there with the trapping strands; one it does not take parks the entry; at the last level, without a second handler or
with one that cannot be entered the context is killed. RTT returns from a level when every strand of it executes it and TPC passes its check: the level falls, the returning
strands go on at TPC with TPRIO, a stream trap lets its sequencer go on at TPC or ends it; at level 0 it raises PRIV 0x05. -/
def Obligations.Traps : Prop :=
  (∀ (s : State) core slot (c : Course) E r, s.course? core slot = some c → c.front.contains E = true → r.t.ue = none →
     let w := s.courseWho core c
     let tab := s.trapTable w
     let h : Word := tab.elim 0 (fun T => if c.level = 0 then (if T.take.getLsbD r.t.cause.toNat then T.h1 else 0) else T.h2)
     let x := s.checkTarget core w true h
     let t := s.takeTrap core slot (some E) r
     let killed (reason : BitVec 4) : Prop := t = s.trapKill core slot c r reason ∧ t.ctxKilled (s.skeinCtx c.skein) = true
     (c.level = 2 → killed 1) ∧
     (c.level = 1 → h = 0 → killed 1) ∧
     (c.level ≠ 2 → h ≠ 0 → x.2.isSome → t = x.1.trapKill core slot c r 4 ∧ t.ctxKilled (s.skeinCtx c.skein) = true) ∧
     (c.level = 0 → h = 0 → (r.t.cause = Cause.preempt → c.front.head? = some E) → ∃ d, t.course? core slot = some d ∧ d.level = 0 ∧ RegistersKept s t ∧
       (∃ e ∈ d.front, e.mask = E.mask ∧ e.pc = E.pc ∧ e.wait = .again (if r.t.cause = Cause.xlate then .fault else .parked)) ∧
       (r.t.cause = Cause.xlate → r.strm = false → ∃ id p, kget t.async.faults id = some p ∧ p.who = .course core slot r.pc)) ∧
     (c.level ≠ 2 → h ≠ 0 → x.2 = none → ∃ d, t.course? core slot = some d ∧ RegistersKept s t ∧ MemoryKept s t ∧
       d.level.val = c.level.val + 1 ∧ d.staged = 0 ∧ d.present = c.present ∧
       (∃ e' ∈ d.fr c.level.val, e'.mask = E.mask ∧ e'.pc = E.pc ∧ e'.wait = .none) ∧
       ∃ T, tab = some T ∧
         (d.front = [Entry.fresh h (if c.level = 0 then T.hprio1 else T.hprio2) r.mask false]) ∧
         let b := d.bank
         b.tcause = BitVec.ofNat 64 (r.t.cause.toNat + r.t.detail.toNat * 2 ^ 8 + c.level.val * 2 ^ 16 + (if r.strm then 2 ^ 18 else 0) +
           (if r.async then 2 ^ 19 else 0)) ∧
         b.tpc = r.pc ∧ b.tval = r.t.tval ∧ b.tmask = r.mask.setWidth 64 ∧ b.tprio = r.prio.setWidth 64 ∧
         (c.level = 1 → d.tl1 = c.tl1) ∧ (c.level = 0 → d.tl2 = c.tl2))) ∧
  ((∀ f s I, Issues s (.rtt f) false [] I → let b := I.c.bank
     (I.c.level = 0 → ∃ x, x.cause = Cause.priv ∧ x.detail = 0x05 ∧
       exec (.rtt f) s = .next (({ passed s I with freeCount := s.freeCount + 1 } : State).failed I (.trap x) (maskOf I.lanes))) ∧
     (I.c.level ≠ 0 → maskOf I.lanes = I.E.mask → I.E.mask ≠ I.c.levelMask → ∃ t c, exec (.rtt f) s = .next t ∧
       Stand t I c (fun e => e.pc = I.E.pc ∧ e.wait = .rtt) ∧ NoRegister I c ∧ ({ t with courses := s.courses } : State) = s) ∧
     (I.c.level ≠ 0 → maskOf I.lanes = I.E.mask → I.E.mask = I.c.levelMask →
       let x := (passed s I).checkTarget I.core I.w false b.tpc
       (x.2 = none → exec (.rtt f) s = .next (x.1.popLevel I.core I.slot I.E.mask)) ∧
       (∀ e, x.2 = some e → exec (.rtt f) s = .next (x.1.failed I e (maskOf I.lanes))))) ∧
   (∀ (s : State) core slot (c : Course) ret, s.course? core slot = some c → c.level ≠ 0 → let b := c.bank
     let t := s.popLevel core slot ret
     ∃ d, t.course? core slot = some d ∧ RegistersKept s t ∧ MemoryKept s t ∧ d.level.val + 1 = c.level.val ∧ d.present = c.present ∧
       d.staged = 0 ∧ d.stepFree = true ∧ d.fr c.level.val = [] ∧
       (b.async = true → d.front = c.fr d.level.val) ∧
       (b.async = false → ∀ e ∈ c.fr d.level.val, ∀ i < 16, e.mask.getLsbD i = true → ∃ e' ∈ d.front, e'.mask.getLsbD i = true ∧
         (if ret.getLsbD i then e'.pc = b.tpc ∧ e'.prio = b.tprio.setWidth 16 else e'.pc = e.pc ∧ e'.prio = e.prio)) ∧
       (b.strm = false → t.panels = s.panels) ∧
       (b.strm = true → ∀ p, s.panel? core c.pslot = some p → ∃ q, t.panel? core c.pslot = some q ∧ q.run = 0 ∧ q.swait = .none ∧ q.m = p.m ∧
         (b.sexit = true → q.ending = true ∧ q.spc = p.spc) ∧ (b.sexit = false → q.spc = b.tpc))))

/-! ## Events of the part: the management block -/

/-- R28, R51, R52, R54, R56 to R60, R71, R352, R377 and R401: what an operator's write to the management block does while the part is
powered and out of recovery mode (R17); another requester's changes nothing. -/
def Obligations.ManagementBlock : Prop :=
  (∀ s : State, s.dev.powered = true → s.dev.recovery = false →
    (∀ v, let ok := 8 ≤ bitsOf v.toNat 12 8 ∧ bitsOf v.toNat 12 8 ≤ 16 ∧ bitsOf v.toNat 3 0 < bitsOf v.toNat 12 8
      (ok → s.anyPortUp = false → exec (.domainWrite .operator v) s =
        .next { s with time := { s.time with domain := v &&& 0xFF011F0F, nextDomain := none } }) ∧
      (ok → s.anyPortUp = true → exec (.domainWrite .operator v) s = .next { s with time := { s.time with nextDomain := some (v &&& 0xFF011F0F) } }) ∧
      (¬ ok → exec (.domainWrite .operator v) s = .next s)) ∧
    (∀ v : Word, let l : BitVec 8 := v.setWidth 8
      exec (.managementRegisterWrite .operator 0x38 8 v) s =
        .next (if -7 ≤ l.toInt ∧ l.toInt ≤ 0 then { s with time := { s.time with logsync := l } } else s)) ∧
    (∀ q o n v, q < 1024 → o < 64 → o + n ≤ 64 → (s.queue q).qclass.toNat < 4 → ∃ t, exec (.managementRegisterWrite .operator (0x10000 + 64 * q + o) n v) s = .next t ∧
      ({ t with tables := { t.tables with queues := s.tables.queues } } : State) = s ∧ (∀ r, r ≠ q → t.queue r = s.queue r) ∧
      ((s.queue q).state ≠ 0 → t = s) ∧
      ((s.queue q).state = 0 →
        (o = 0 ∧ n = 8 → t.queue q = { s.queue q with qbase := v }) ∧ (o = 8 ∧ n = 8 → t.queue q = { s.queue q with tailaddr := v }) ∧
        (o = 16 ∧ n = 8 → t.queue q = { s.queue q with headaddr := v }) ∧ (o = 24 ∧ n = 2 → t.queue q = { s.queue q with ctx := v.setWidth 16 }) ∧
        (o = 26 ∧ n = 1 → t.queue q = { s.queue q with log2size := v.setWidth 8 }) ∧
        (o = 27 ∧ n = 1 → t.queue q = { s.queue q with qclass := v.setWidth 8 &&& 3 }))) ∧
    (∀ q, q < 1024 → exec (.queueStateOff .operator q) s = .next (s.setQueue q { s.queue q with state := 0, packet := none, waiting := none })) ∧
    (∀ q hb tb, let x := s.queue q
      let who := s.whoOf x.ctx.toNat
      q < 1024 → x.state ≠ 3 → x.startable = true → s.readRange who x.headaddr 8 = .ok hb → s.readRange who x.tailaddr 8 = .ok tb →
      leNat hb ≤ leNat tb → leNat tb ≤ leNat hb + 2 ^ x.log2size.toNat → leNat tb < 2 ^ 64 →
      ∃ t, exec (.queueStateRun .operator q) s = .next t ∧ ({ t with tables := { t.tables with queues := s.tables.queues } } : State) = s ∧
        (let y : Queue := { x with state := 1, head := BitVec.ofNat 64 (leNat hb), tail := BitVec.ofNat 64 (leNat tb), packet := none, waiting := none }
         t.queue q = if leNat hb < leNat tb then { y with packet := some (s.readPacket y) } else y) ∧
        ∀ r, r ≠ q → t.queue r = s.queue r) ∧
    (∀ q, q < 1024 → ∃ t, exec (.queueLost q) s = .next t ∧ RegistersKept s t ∧ t.queue q = { s.queue q with state := 3, packet := none, waiting := none } ∧
      ∀ r, r ≠ q → t.queue r = s.queue r) ∧
    (∀ id e, id < 4096 → (kkeys s.async.counters).Nodup → ∃ t, exec (.contextEntryWrite .operator id e) s = .next t ∧ RegistersKept s t ∧ (s.firn.enabled = false → BytesKept s t) ∧
      (∀ j, j ≠ id → t.ctxEntry j = s.ctxEntry j ∧ t.ctxKilled j = s.ctxKilled j) ∧
      (s.quotaClash id e = true → t.ctxEntry id = { s.ctxEntry id with ptroot := 0 } ∧ t.async.counters = s.async.counters ∧ t.cores = s.cores) ∧
      (s.quotaClash id e = false → t.ctxEntry id = { e with fgroup := e.fgroup &&& 0xFFF } ∧ t.ctxKilled id = false ∧
        (∀ core, ∀ x ∈ (t.core core).icache, x.ctx ≠ id) ∧
        ∀ n, t.counter n = if e.cbase.toNat ≤ n ∧ n < e.cbase.toNat + e.ccount.toNat then { s.counter n with poison := false } else s.counter n)) ∧
    (∀ region v, region < 20 → ∃ t, exec (.regionFenceWrite .operator region v) s = .next t ∧
      ({ t with tables := { t.tables with fences := s.tables.fences } } : State) = s ∧ t.fenceWord region = v.toNat % 4096 ∧
      ∀ r, r ≠ region → t.fenceWord r = s.fenceWord r) ∧
    (∀ idx e, idx < 256 → exec (.fabricAccessTableWrite idx e) s =
      .next { s with tables := { s.tables with access := kset s.tables.access idx e } }) ∧
    (∀ v, s.firn.enabled = false →
      exec (.firnGeometryWrite .operator .base v) s = .next { s with firn := { s.firn with base := v, wp := 0 } } ∧
      exec (.firnGeometryWrite .operator .size v) s = .next { s with firn := { s.firn with size := v, wp := 0 } } ∧
      exec (.firnGeometryWrite .operator .opsz v) s = .next { s with firn := { s.firn with opsz := v, wp := 0 } }) ∧
    (∀ reg v, s.firn.enabled = true → exec (.firnGeometryWrite .operator reg v) s = .next s) ∧
    (let f := s.firn
      let ok := f.base.toNat % 4096 = 0 ∧ 65536 ≤ f.size.toNat ∧ f.size.toNat ≤ 2 ^ 34 ∧ f.size.toNat % 65536 = 0 ∧ 4096 ≤ f.opsz.toNat ∧
        f.opsz.toNat % 4096 = 0 ∧ 4096 + f.opsz.toNat ≤ f.size.toNat ∧ f.base.toNat + f.size.toNat ≤ Config.lpddrBytes
      (ok → ∃ t, exec (.firnEnable .operator) s = .next t ∧ t.firn = { f with enabled := true } ∧ RegistersKept s t ∧
        t.peekNat ⟨.lpddr, f.base.toNat⟩ 8 = f.size.toNat ∧ t.peekNat ⟨.lpddr, f.base.toNat + 8⟩ 8 = f.opsz.toNat ∧
        ∀ l, l.store ≠ .lpddr ∨ l.addr < f.base.toNat ∨ f.base.toNat + 24 ≤ l.addr → t.peek l = s.peek l) ∧
      (¬ ok → exec (.firnEnable .operator) s = .next s)) ∧
    exec (.firnDisable .operator) s = .next { s with firn := { s.firn with enabled := false } } ∧
    (∀ id e q region reg v, ∀ i ∈ [Instr.domainWrite .other v, .contextEntryWrite .other id e, .queueStateOff .other q, .queueStateRun .other q,
      .firnGeometryWrite .other reg v, .firnEnable .other, .firnDisable .other, .regionFenceWrite .other region (v.setWidth 32),
      .managementRegisterWrite .other q region v], exec i s = .next s)) ∧
  (∀ (s : State) i, exec (.lifeidxSelect .operator i) s = .next { s with dev := { s.dev with lifeIdx := i } } ∧
    exec (.lifeidxClear .operator i) s = .next { s with dev := { s.dev with lifeIdx := i, life := kdel s.dev.life i.toNat } } ∧
    exec (.lifeidxSelect .other i) s = .next s ∧ exec (.lifeidxClear .other i) s = .next s) ∧
  (∀ (s : State) addr bytes, s.dev.recovery = false → addr + bytes.length ≤ Config.hbmBytes → exec (.cxlMemWrite addr bytes) s = .next (s.poke ⟨.hbm, addr⟩ bytes)) ∧
  (∀ (s : State) ctx (reason : BitVec 4), 1 ≤ reason.toNat → reason.toNat ≤ 7 → s.ctxKilled ctx = false → (kkeys s.courses).Nodup →
    ∃ t, exec (.contextKill ctx reason) s = .next t ∧ t.ctxKilled ctx = true ∧ (∀ j, j ≠ ctx → t.ctxKilled j = s.ctxKilled j) ∧
      ∀ key c, kget s.courses key = some c → s.skeinCtx c.skein ≠ ctx → (kget t.courses key).map registers = some (registers c))

/-! ## Events of the part: power, boot and heat -/

/-- R14 to R19, R21 to R27 and R74: clocks, heat, loss of power and starts; heartbeats and failover of the control complexes, live update, and the
attestation report. -/
def Obligations.PowerAndHeat : Prop :=
  ((∀ (s : State) b, (s.dev.tripped = false ∨ s.dev.junction < 80 → exec (.powerOn b) s = .next ((s.life 0).start b)) ∧
     (s.dev.tripped = true → 80 ≤ s.dev.junction →
       exec (.powerOn b) s = .next { s with dev := { s.dev with powerUpSeen := true } } ∧
       exec (.powerUpCommand b) s = .next { s with dev := { s.dev with powerUpSeen := true } }) ∧
     (s.dev.tripped = true → s.dev.junction < 80 → exec (.powerUpCommand b) s = .next ((s.life 0).start b)) ∧
     (s.dev.powered = true → exec (.deviceReset b) s = .next (({ s with dev := { s.dev with selfRefresh := true } } : State).start b)) ∧
     (∀ t, t < 80 → s.dev.tripped = true → s.dev.powerUpSeen = true → exec (.junctionBelow80c t b) s = .next (((s.senseJunction t).life 0).start b))) ∧
   (∀ (s : State) b, let t := s.start b
     t.dev.powered = true ∧ t.dev.bootNo = s.dev.bootNo + 1 ∧ t.dev.prevRecords = s.dev.curRecords ∧ t.dev.life = s.dev.life ∧ t.courses = [] ∧
       t.panels = [] ∧ t.cores = [] ∧ t.work.launches = [] ∧ t.work.causeSeq = s.work.causeSeq ∧ t.mem.hbm = [] ∧ t.mem.die = [] ∧ t.mem.unit = [] ∧
       t.mem.host = s.mem.host ∧ t.firn.base = s.firn.base ∧ t.firn.size = s.firn.size ∧ t.firn.opsz = s.firn.opsz ∧ t.firn.enabled = s.firn.enabled ∧
       t.time.domain = s.time.nextDomain.getD s.time.domain ∧ (∀ l, outsideRings s l → l.store = .lpddr → t.peek l = s.peek l) ∧
       ((∀ r ∈ s.dev.curRecords, recFailed r = false) → b.results.length = 10 → (∀ r ∈ b.results, r.ok = true) → imageOk b.slotA = true →
         imageOk b.microcode = true → t.dev.ready = true ∧ t.dev.bootDone = 0x0A ∧ t.dev.recovery = false ∧ t.dev.bootFailed = 0)) ∧
   (∀ (s : State) vaux, ∃ t, exec (.powerLoss vaux) s = .next t ∧ t.dev.powered = false ∧ t.courses = [] ∧ t.panels = [] ∧ t.mem.hbm = [] ∧
     t.mem.host = s.mem.host ∧ t.time.gt = s.time.gt ∧
     (vaux = false → t.mem.lpddr = s.mem.lpddr ∧ t.dev.life = s.dev.life ∧ t.work.causeSeq = s.work.causeSeq ∧ t.firn.base = s.firn.base ∧
       t.time.domain = s.time.domain) ∧
     (vaux = true → t.mem.lpddr = [] ∧ t.dev.life = [] ∧ t.work.causeSeq = 0 ∧ t.time.domain = 0x0800)) ∧
   (∀ (s : State) t, s.dev.powered = true → let d := s.senseJunction t
     (95 < t → (∀ g, s.dev.hotGt = some g → g + 16000000 ≤ s.time.gt) → ∃ u, exec (.thermalCeilingFall t) s = .next u ∧
       u.dev.ceiling = max 400 (s.dev.ceiling - 100) ∧ u.dev.clock = min s.dev.clock (max 400 (s.dev.ceiling - 100)) ∧ u.dev.hotGt = some s.time.gt ∧
       ({ u with dev := { d.dev with ceiling := u.dev.ceiling, clock := u.dev.clock, hotGt := u.dev.hotGt, life := u.dev.life } } : State) = u ∧
       ({ u with dev := s.dev } : State) = s) ∧
     (t < 90 → ∀ g, s.dev.coolGt = some g → g + 16000000 ≤ s.time.gt → exec (.thermalCeilingRise t) s =
       .next { d with dev := { d.dev with ceiling := min 1600 (s.dev.ceiling + 100), coolGt := some s.time.gt } }) ∧
     (110 < t → ∃ u, exec (.thermalTrip t) s = .next u ∧ u.dev.powered = false ∧ u.dev.tripped = true ∧ u.dev.powerUpSeen = false ∧ u.courses = [] ∧
       u.dev.life = (s.life 8).dev.life ∧ u.mem.lpddr = s.mem.lpddr) ∧
     (t ≤ 95 → ∀ g, s.dev.hotFirst = some g → exec (.thermalExcursionEnd t) s =
       .next (({ d with dev := { d.dev with hotFirst := none } } : State).life (0x10 + durationBin ((s.time.gt : Int) - g).toNat)))) ∧
   (∀ (s : State) amps, let k := (s.time.gt - s.dev.sampleGt) / 64
     (k = 0 → s.dev.samples ≠ [] → exec (.vcoreCurrentSample amps) s = .next s) ∧
     (0 < k → ∃ t, exec (.vcoreCurrentSample amps) s = .next t ∧ t.dev.sampleGt = s.dev.sampleGt + 64 * k ∧
       (k = 1 → t.dev.samples = (amps :: s.dev.samples).take 250) ∧
       (∀ x l, s.dev.samples = x :: l → t.dev.samples = (amps :: (List.replicate (min (k - 1) 250) x ++ s.dev.samples)).take 250) ∧
       ({ t with dev := { t.dev with
         samples := s.dev.samples, sampleGt := s.dev.sampleGt, overGt := s.dev.overGt, underGt := s.dev.underGt } } : State) = s)) ∧
   (∀ s : State, let n := s.dev.samples.length
     let sum := s.dev.samples.foldl (· + ·) 0
     s.dev.powered = true →
     (7500 * n < sum → s.dev.overGt ≤ s.time.gt → 400 < s.dev.clock → exec .clockReduction s =
       .next (({ s with dev := { s.dev with clock := max 400 (s.dev.clock - 100), overGt := s.time.gt + 16000 } } : State).life 7)) ∧
     (sum ≤ 7125 * n → s.dev.underGt + 160000 ≤ s.time.gt → s.dev.clock < s.dev.ceiling → exec .clockRaise s =
       .next { s with dev := { s.dev with clock := min s.dev.ceiling (s.dev.clock + 100), underGt := s.time.gt } })) ∧
   (∀ (s : State) rail gt, (32 < gt → exec (.droopExcursion rail gt) s = .next (s.life (0x18 + durationBin gt))) ∧
     (gt ≤ 32 → exec (.droopExcursion rail gt) s = .next s) ∧ exec .cxlLinkRetrain s = .next (s.life 6)) ∧
   (∀ (s : State) n, (kget (s.life n).dev.life n).getD 0 = min ((kget s.dev.life n).getD 0 + 1) (2 ^ 32 - 1) ∧
     (∀ m, m ≠ n → kget (s.life n).dev.life m = kget s.dev.life m) ∧ { (s.life n) with dev := { (s.life n).dev with life := s.dev.life } } = s)) ∧
  ((∀ (s : State) a, (s.dev.ready = true → s.dev.heartAt ≤ s.time.gt → exec (.heartbeat a) s =
       .next { s with dev := { s.dev with missed := if a then 0 else s.dev.missed + 1, heartAt := s.dev.heartAt + 16000000 } }) ∧
     (s.dev.ready = false ∨ s.time.gt < s.dev.heartAt → exec (.heartbeat a) s = .next s)) ∧
   (∀ (s : State) ecc, s.dev.ready = true → s.dev.updating = none → ecc = true ∨ s.dev.cxError = true ∨ 3 ≤ s.dev.missed → ∃ t, exec (.failover ecc) s = .next t ∧
     t.dev.activeCx = !s.dev.activeCx ∧ t.dev.missed = 0 ∧ t.dev.cxError = false ∧ t.dev.life = (s.life 9).dev.life ∧ RegistersKept s t ∧
     MemoryKept s t ∧ t.work = s.work ∧ t.tables = s.tables) ∧
   (∀ (s : State) img, s.dev.ready = true → s.dev.updating = none → let m := sha384Bits (digestBytes (s.dev.measure[3]) ++ digestBytes (sha384Bits img.bytes))
     ∃ t, exec (.liveUpdate img) s = .next t ∧ t.dev.measure = s.dev.measure.set 3 m ∧ RegistersKept s t ∧ MemoryKept s t ∧
       (imageOk img = true → img.major = s.dev.major → s.dev.minor.toNat ≤ img.minor.toNat → t.dev.updating = some img) ∧
       (imageOk img = false ∨ img.major ≠ s.dev.major ∨ img.minor.toNat < s.dev.minor.toNat → t.dev.updating = s.dev.updating)) ∧
   (∀ (s : State) img, s.dev.updating = some img →
     (s.quiescent = true → s.failReason false = none → ∃ t, exec .updateDone s = .next t ∧ t.dev.activeCx = !s.dev.activeCx ∧ t.dev.updating = none ∧ t.dev.major = img.major ∧
       t.dev.minor = img.minor ∧ RegistersKept s t ∧ MemoryKept s t) ∧
     (s.quiescent = false → exec .updateDone s = .next s) ∧
     ((s.failReason false).isSome → ∃ t, exec .updateAbandoned s = .next t ∧ t.dev.activeCx = !s.dev.activeCx ∧ t.dev.updating = none ∧ t.dev.major = s.dev.major ∧
       t.dev.minor = s.dev.minor ∧ t.dev.life = (s.life 9).dev.life ∧ RegistersKept s t ∧ MemoryKept s t)) ∧
   (∀ (s : State) nonce, exec (.attestationReport nonce) s = .next { s with dbg := { s.dbg with reports := s.dbg.reports ++ [s.report nonce] } } ∧
     (s.report nonce).length = 384 ∧ ((s.report nonce).drop 16).take 48 = digestBytes nonce ∧
     ((s.report nonce).drop 64).take 192 = s.dev.measure.toList.flatMap digestBytes))

/-! ## Events of the part: queues and graphs -/

/-- R57 to R63: a tail is read again, and the head packet is taken with its effect, held, or rejected with none. -/
def Obligations.LaunchQueues : Prop :=
  (∀ (s : State) q, exec (.tailWrite q none) s = .next (s.readTail q) ∧
    (∀ v s1, s.writeRange (s.whoOf (s.queue q).ctx.toNat) (s.queue q).tailaddr (leBytes 8 v.toNat) = .ok s1 →
      exec (.tailWrite q (some v)) s = .next (s1.readTail q)) ∧
    (∀ b, let x := s.queue q
      x.state = 1 → s.readRange (s.whoOf x.ctx.toNat) x.tailaddr 8 = .ok b →
      (x.head.toNat ≤ leNat b → leNat b ≤ x.head.toNat + 2 ^ x.log2size.toNat → s.readTail q = (s.setQueue q { x with tail := BitVec.ofNat 64 (leNat b) }).loadPacket q) ∧
      (leNat b < x.head.toNat ∨ x.head.toNat + 2 ^ x.log2size.toNat < leNat b →
        (s.readTail q).queue q = { x with state := 2, packet := none, waiting := none } ∧ RegistersKept s (s.readTail q))) ∧
    ((s.queue q).packet.isSome → s.loadPacket q = s)) ∧
  (∀ (s : State) q p, let x := s.queue q
    let e := s.ctxEntry x.ctx.toNat
    (headIs s q 0 p → exec (.packetNop q) s = .next (s.packetTaken q x)) ∧
    (headIs s q 2 p → exec (.packetSignal q) s = .next ((s.packetTaken q x).signalWord x.ctx.toNat ((s.packetTaken q x).ctxEntry x.ctx.toNat)
      (BitVec.ofNat 64 (pkField p 8 8)) (s.packetTaken q x).devNo 0 (pkParent p) 0)) ∧
    (headIs s q 3 p → ∀ i, counterOf e (pkField p 8 2) = some i →
      (pkField p 0x10 8 ≤ (s.counter i).value.toNat → exec (.packetWait q) s = .next (s.packetTaken q x)) ∧
      ((s.counter i).value.toNat < pkField p 0x10 8 →
        exec (.packetWait q) s = .next (s.setQueue q { x with packet := some (some p), waiting := some (i, BitVec.ofNat 64 (pkField p 0x10 8)) }))) ∧
    (headIs s q 4 p → exec (.packetMarker q) s = .next ((s.packetTaken q x).emit
      { source := src 0 0, type := 0x2B, priv := true, ctx := x.ctx.toNat, payload := pkField p 8 8 + q % 2 ^ 16 * 2 ^ 64 })) ∧
    (headIs s q 1 p → ∀ s1 homes, s.writeRange (s.whoOf x.ctx.toNat) (BitVec.ofNat 64 (pkField p 0x18 8)) (List.replicate (areaBytes (pkField p 0x12 2)) 0) = .ok s1 →
      s.homes (s.whoOf x.ctx.toNat) .store (BitVec.ofNat 64 (pkField p 0x18 8)) (areaBytes (pkField p 0x12 2) / 128 + 2) (areaBytes (pkField p 0x12 2)) =
        .ok homes → exec (.packetGraph q) s = .next ((s1.packetTaken q x).startInstance q x p homes)) ∧
    (s.nextQueue = some q → s.work.takeAt ≤ s.time.gt → x.waiting.isSome →
      exec (.waitPacketRelease q) s = .next (s.packetTaken q x)) ∧
    (s.nextQueue = some q → s.work.takeAt ≤ s.time.gt → x.waiting = none → s.headPacket x = some p → packetOk e p = false →
      ∀ i ∈ [(0, Instr.packetNop q), (1, .packetGraph q), (2, .packetSignal q), (3, .packetWait q), (4, .packetMarker q)],
        i.1 = (if pkType p ≤ 4 then pkType p else 0) → exec i.2 s = .next (s.packetBad q x))) ∧
  (∀ (s : State) q x, s.queue q = x → let t := s.packetTaken q x
    t.queue q = { x with head := x.head + 1, packet := none, waiting := none } ∧ (∀ r, r ≠ q → t.queue r = s.queue r) ∧ t.work.takeAt = s.time.gt + 64 ∧
      RegistersKept s t ∧ t.work.runs = s.work.runs ∧
      (s.packetBad q x).queue q = { x with head := x.head + 1, packet := none, waiting := none } ∧ (s.packetBad q x).work.takeAt = s.work.takeAt) ∧
  (∀ (s : State) q x p homes, let t := s.startInstance q x p homes
    ∃ g, kget t.work.runs s.work.nextId = some g ∧ g.cause = (s.newCause launcherTaker).1 ∧ g.parent = pkParent p ∧ g.entry = s.ctxEntry x.ctx.toNat ∧
      g.gbase = BitVec.ofNat 64 (pkField p 8 8) ∧ g.areaAt = homes ∧ g.ready = [pkField p 0x10 2] ∧ g.ordinary = [pkField p 0x10 2] ∧ g.running = [] ∧
      g.ended = false ∧ MemoryKept s t ∧ RegistersKept s t)

/-- R33 to R45, R63 to R65 and R446: the walker starts the oldest ready node of an instance under a new cause and reports its end; a node
that has ended releases its successors. -/
def Obligations.GraphNodes : Prop :=
  (∀ (s : State) gi g i rest b, let n := (started s gi g i rest b).1
    let u := (started s gi g i rest b).2
    (nodeIs s gi 4 g i rest b → exec (.nodeJoin gi) s = .next (u.nodeFinished gi n 0)) ∧
    (nodeIs s gi 8 g i rest b → exec (.nodeEnd gi) s = .next ((u.modRunning gi (fun g => { g with ended := true, early := g.early ++ g.ready })).nodeFinished gi n 0)) ∧
    (nodeIs s gi 7 g i rest b → ∀ u1, (ndWord b 0x10 = 0 ∧ u1 = u) ∨ (ndWord b 0x10 ≠ 0 ∧ (ndWord b 0x10).toNat % 8 = 0 ∧
        spaceOf (ndWord b 0x10) = 0 ∧ u.writeRange (graphWho g) (ndWord b 0x10) (leBytes 8 (ndField b 0x18 8)) = .ok u1) →
      exec (.nodeEvent gi) s = .next (((u1.signalWord g.ctx g.entry (ndWord b 0x20) u1.devNo 0 n.cause g.cause).emit
        { source := src 0 0, type := 0x29, priv := true, cause := n.cause, parent := g.cause, ctx := g.ctx,
          payload := ndField b 0x28 8 + i * 2 ^ 64 }).nodeFinished gi n 0)) ∧
    (nodeIs s gi 5 g i rest b → ∀ r, u.condTest g b = some r →
      exec (.nodeConditional gi) s = .next ((u.evalRecord g i b n.cause r 0).nodeFinished gi { n with held := r } 0)) ∧
    (nodeIs s gi 6 g i rest b → exec (.nodeLoop gi) s =
      .next ((u.loopEval gi g i { trips := 0, cause := n.cause, bits := b }).endCheck gi)) ∧
    (∀ x, s.run? gi = some g → g.ready = i :: rest → kget g.loops i = some x → exec (.nodeLoop gi) s =
      .next (((s.setRun gi { g with ready := rest, early := g.early.erase i }).loopEval gi g i x).endCheck gi)) ∧
    (nodeIs s gi 2 g i rest b → ∃ t o, exec (.nodeCopy gi) s = .next t ∧ t.op? u.work.nextId = some o ∧
      o.kind = .copy (ndWord b 0x10) (ndWord b 0x18) (ndField b 0x20 8) (ndWord b 0x28) ∧ o.issuer = .node gi i ∧ o.cause = n.cause ∧
      o.parent = g.cause ∧ o.cursor = 0 ∧ RegistersKept s t ∧ MemoryKept s t) ∧
    (nodeIs s gi 3 g i rest b → ∀ l, (ndWord b 0x10).toNat % 64 = 0 → spaceOf (ndWord b 0x10) = 0 → u.readRange (graphWho g) (ndWord b 0x10) 128 = .ok l →
      let d : BitVec 1024 := BitVec.ofNat 1024 (leNat l)
      u.descOk d = true → u.joinTaken none d = false → ∃ t c, exec (.nodeCollective gi) s = .next t ∧ RegistersKept s t ∧
        t.coll? n.cause.toNat = some c ∧ c.desc = d ∧ c.parent = g.cause ∧ c.issuer = .node gi i ∧
        c.deadline = (if ndWord b 0x18 = 0 then BitVec.ofNat 64 (cdField d 0x30 8) else ndWord b 0x18)) ∧
    (nodeIs s gi 1 g i rest b → ∀ h, u.readHeader g (ndWord b 0x10) = some h → h.place ≠ 1 ∨ h.members ≤ g.entry.gang.toNat →
      ∃ t v, exec (.nodeKernel gi) s = .next t ∧ kget t.work.launches u.work.nextId = some v ∧ v.hdr = h ∧ v.ctx = g.ctx ∧ v.cause = n.cause ∧
        v.args = #v[ndWord b 0x18, ndWord b 0x20, ndWord b 0x28, ndWord b 0x30, ndWord b 0x38] ∧ RegistersKept s t ∧
        ∀ j < h.e3 * h.e4 * h.e5, ∃ k, t.skein? (u.work.nextId + 1 + j) = some k ∧ k.launch = u.work.nextId ∧ k.index = j ∧ k.phase = .queued ∧
          k.stamp = t.work.handed)) ∧
  (∀ (s : State) gi g (n : NodeRun) st, s.run? gi = some g → g.running.find? (fun x => x.node == n.node && x.status.isSome) = some n → n.status = some st →
    exec (.nodeDone gi n.node) s = .next (((((s.setRun gi { g with running := g.running.erase n, failed := g.failed || 0x10 ≤ st.toNat }).emit
      (nodeEv g n.node n.bits n.cause 0x23 st.toNat)).arrivals gi n.node (released n st))).endCheck gi)) ∧
  (∀ (n : NodeRun) (st : Byte), (st = 3 → released n st = []) ∧ (0x10 ≤ st.toNat → ndSoft n.bits = false → released n st = []) ∧
    (st = 1 → released n st = (ndSuccessors n.bits).map (fun t => (t, false))) ∧
    (st = 0 → ndType n.bits ≠ 5 → released n st = (ndSuccessors n.bits).map (fun t => (t, true))) ∧
    (st = 0 → ndType n.bits = 5 → released n st = (ndSuccessors n.bits).zipIdx.map (fun (t, k) => (t, decide (k < 4) == n.held)))) ∧
  (∀ (s : State) gi g loops from_ t ordinary b, s.run? gi = some g → t < g.nnodes →
    loops.all (fun (j, x) => !inBody x from_ || j == t || inBody x t) → s.backOf g from_ t = none → let k := (kget g.counts t).getD 0 + 1
    (s.putCount gi t k).readNode g t = some b →
    (s.arrival gi loops from_ t ordinary).2 = (if ndIncount b = k then [t] else []) ∧
      ∃ g', (s.arrival gi loops from_ t ordinary).1.run? gi = some g' ∧ (kget g'.counts t).getD 0 = k ∧ (ordinary = true → t ∈ g'.ordinary)) ∧
  (∀ (s : State) l v g, s.launch? l = some v → v.late = false → v.hdr.deadline ≠ 0 → v.hdr.deadline.toNat ≤ s.time.gt → s.run? v.run = some g →
    let e : Ev := { source := src 0 0, type := 0x28, cause := v.cause, parent := v.parent, ctx := v.ctx,
                    payload := g.gbase.toNat % 2 ^ 56 + v.node * 2 ^ 56 + 1 * 2 ^ 72 + 0 * 2 ^ 80 }
    exec (.deadline l) s = .next ((s.setLaunch l { v with late := true }).emit e))

/-! ## Events of the part: placement -/

/-- R86 to R93 and R448: a cast-on agent or the affine dispatcher takes the first skein it may and asks for the rectangle or core that R89
or R86 chooses; the arbiter grants it whole or denies it; the reply commits, waits for quota or backs off; a window of 640 gt lapses. -/
def Obligations.Reservations : Prop :=
  let quiet (s t : State) : Prop := RegistersKept s t ∧ MemoryKept s t
  let due (t : State) (at_ : Nat) (i : Instr) : Prop := ⟨at_, .event i⟩ ∈ t.agenda
  let launched (s : State) (sk : Nat) (k : Skein) (v : Launch) : Prop := s.skein? sk = some k ∧ s.skeinLaunch k = some v
  (∀ (s : State) agent i k v, agent < 4 → s.agentIn agent (fun x => match x with | .releasing _ _ => false | _ => true) = none →
    s.work.agentFree[agent]?.getD 0 ≤ s.time.gt → (s.takeable true).find? (fun x => decide (x.2.nextTry ≤ s.time.gt)) = some (i, k) →
    launched s i k v → ∃ t k', exec (.castonAttempt agent) s = .next t ∧ quiet s t ∧ t.skein? i = some k' ∧ k'.attempts = k.attempts + 1 ∧
      (∀ o, s.castonChoice i v = some o → due t (s.time.gt + 40) (.reserve agent) ∧
        t.work.agents = s.work.agents ++ [{ agent, skein := i, state := .sent o }]) ∧
      (s.castonChoice i v = none → k'.blocked = true ∧ t.work.agents = s.work.agents ++ [{ agent, skein := i, state := .holding }])) ∧
  (∀ (s : State) sk v o, s.castonChoice sk v = some o →
    let fits (o : Nat) : Prop := ∀ x ∈ (v.hdr.rect o).zipIdx, s.accepts sk v x.1 x.2 [] = true
    let key (o : Nat) : Nat := ((v.hdr.rect o).filter s.idleCore).length * 16 + ((List.range 8).filter (fun i => s.idleCore (regionOf o * 8 + i))).length
    o ∈ s.candidates v ∧ fits o ∧ ∀ o' ∈ s.candidates v, fits o' → key o ≤ key o') ∧
  (∀ (s : State) i k v, s.work.agentFree[4] ≤ s.time.gt → (s.takeable false).find? (fun x => decide (x.2.nextTry ≤ s.time.gt)) = some (i, k) →
    launched s i k v → ∃ t k', exec .affineAttempt s = .next t ∧ quiet s t ∧ t.skein? i = some k' ∧ k'.attempts = k.attempts + 1 ∧
      t.work.agentFree[4] = nextCycle s.time.gt ∧
      (∀ o, s.affineChoice i v (s.affinity k.launch v).1 = some o → due t (s.time.gt + 40) (.reserve 4) ∧
        t.work.agents = s.work.agents ++ [{ agent := 4, skein := i, state := .sent o }]) ∧
      (s.affineChoice i v (s.affinity k.launch v).1 = none → k'.blocked = true ∧ t.work.agents = s.work.agents)) ∧
  (∀ (s : State) agent a o k v, s.agentIn agent (fun x => match x with | .sent _ => true | _ => false) = some a → a.state = .sent o →
    launched s a.skein k v → let cores := v.hdr.rect o
    ∃ t, exec (.reserve agent) s = .next t ∧ quiet s t ∧ due t (s.time.gt + 40) (.reserveReply agent) ∧
      ((∃ c ∈ cores, s.reserved c = true) → { a with state := .denied o } ∈ t.work.agents) ∧
      ((∀ c ∈ cores, s.reserved c = false) → (∀ x ∈ cores.zipIdx, s.accepts a.skein v x.1 x.2 [] = true) →
        { a with state := .granted o s.time.gt } ∈ t.work.agents ∧ due t (s.time.gt + 640) (.commitWindowLapse agent)) ∧
      ((∃ x ∈ cores.zipIdx, s.accepts a.skein v x.1 x.2 [] = false) → { a with state := .denied o } ∈ t.work.agents)) ∧
  (∀ (s : State) agent a k v, s.agentIn agent (fun x => match x with | .granted _ _ | .denied _ => true | _ => false) = some a →
    launched s a.skein k v → ∃ t k', exec (.reserveReply agent) s = .next t ∧ quiet s t ∧ t.skein? a.skein = some k' ∧
      (∀ o since, a.state = .granted o since → v.hdr.place ≠ 1 ∨ s.gangUsage v.ctx + v.hdr.members ≤ v.entry.gang.toNat →
        { a with state := .committing o since } ∈ t.work.agents ∧ due t (s.time.gt + 40) (.commit agent)) ∧
      (∀ o since, a.state = .granted o since → v.hdr.place = 1 → v.entry.gang.toNat < s.gangUsage v.ctx + v.hdr.members →
        { a with state := .releasing o since } ∈ t.work.agents ∧ due t (s.time.gt + 40) (.release agent) ∧
        k'.quota = some (s.gangUsage v.ctx - v.hdr.members)) ∧
      (∀ o, a.state = .denied o → a.agent ≠ 4 → { a with state := .holding } ∈ t.work.agents ∧ k'.denials = k.denials + 1 ∧
        k'.nextTry = s.time.gt + 10 * (64 * 2 ^ (min (k.denials + 1) 5 - 1))) ∧
      (∀ o, a.state = .denied o → a.agent = 4 → a ∉ t.work.agents ∧ k'.nextTry = s.time.gt + 40)) ∧
  (∀ (s : State) agent a, s.agentIn agent (fun x => match x with | .releasing _ _ => true | _ => false) = some a →
    exec (.release agent) s = .next (s.setAgents (s.work.agents.filter (fun x => x != a)))) ∧
  (∀ (s : State) agent a k, s.agentIn agent (fun x => match x with
      | .granted _ t | .committing _ t | .releasing _ t => decide (t + 640 ≤ s.time.gt) | _ => false) = some a → s.skein? a.skein = some k →
    ∃ t, exec (.commitWindowLapse agent) s = .next t ∧ quiet s t ∧ a ∉ t.work.agents ∧
      (∀ o since, a.state = .granted o since ∨ a.state = .committing o since → { a with state := .lapsed o } ∈ t.work.agents))

/-- R30 to R32, R84, R90, R94 to R96, R342, R403 and R432 to R435: COMMIT starts a skein's courses on its cores; drains and pre-emption set
a rectangle aside; a saved skein, a retired course and a skein that has bound off leave their places. -/
def Obligations.SkeinLives : Prop :=
  (∀ (s : State) agent a o since k v, s.doClaims.agentIn agent (fun x => match x with
      | .committing _ t => decide (t + 80 ≤ s.doClaims.time.gt) | .lapsed _ => true | _ => false) = some a → a.state = .committing o since →
    s.doClaims.skein? a.skein = some k → s.doClaims.skeinLaunch k = some v → exec (.commit agent) s = .next (s.doClaims.placeSkein a k v o)) ∧
  (∀ (s : State) a k v o, s.skein? a.skein = some k → k.phase = .queued → v.attached = false → v.hdr.scols ≤ 4 →
    (∀ x ∈ (v.hdr.rect o).zipIdx, s.hasRoom v x.1 x.2 [] = true) → (∀ x ∈ s.work.skeins, x.2.claims = []) →
    (∀ c, ∀ x ∈ (s.core c).granules, match x.2 with | .held _ => True | .saved _ _ _ => False) →
    let t := s.placeSkein a k v o
    (∃ k', t.skein? a.skein = some k' ∧ k'.phase = .placed ∧ k'.cores = v.hdr.rect o ∧ k'.placedAt = s.time.gt) ∧ MemoryKept s t ∧
      (∀ key c, kget s.courses key = some c → (kget t.courses key).map registers = some (registers c)) ∧
      ∀ p < v.hdr.panels, ∀ j < v.hdr.courses, ∃ core slot i, core ∈ v.hdr.rect o ∧ slot < 32 ∧ s.course? core slot = none ∧
        t.course? core slot = some { Course.start v a.skein k.index p j with pslot := i }) ∧
  (∀ v sk index panel course lane, lane < 16 → let c := Course.start v sk index panel course
    (c.st lane).k2 = 0xA000000000000000 + BitVec.ofNat 64 v.hdr.localsize ∧ (c.st lane).k0 = workId v.hdr index panel course lane ∧
      c.kreg = (#v[0, v.args[0], 0, v.entry.cflags, v.args[1], v.args[2], v.args[3], v.args[4]] : Vector Word 8) ∧ c.level = 0 ∧
      c.fr0 = [Entry.fresh v.hdr.entryPc v.hdr.entryprio (BitVec.ofNat 16 (2 ^ v.hdr.strands - 1)) false] ∧
      c.present = BitVec.ofNat 16 (2 ^ v.hdr.strands - 1)) ∧
  (∀ (s : State) sk k v o, s.headSkein = some (sk, k, v) → s.work.headAt + 1600000 ≤ s.time.gt →
    (∀ d ∈ s.work.drains, d.preempt = true ∧ d.skein ≠ sk) → s.drainChoice k.launch v = some o →
    ∃ t, exec .drainStart s = .next t ∧ RegistersKept s t ∧ MemoryKept s t ∧
      t.work = { s.work with drains := s.work.drains ++ [{ skein := sk, cores := v.hdr.rect o, preempt := false }] }) ∧
  (∀ (s : State) sk k v o l, s.headSkein = some (sk, k, v) → k.blocked = true →
    3 ≤ v.hdr.pclass ∨ (v.hdr.pclass = 2 ∧ s.work.headAt + 160000 ≤ s.time.gt) → (∀ d ∈ s.work.drains, d.skein ≠ sk ∨ d.preempt = false) →
    s.preemptChoice sk v = some (o, l) → (l.map (·.1)).Nodup → ∃ t, exec .preemptRequest s = .next t ∧ RegistersKept s t ∧ MemoryKept s t ∧
      { skein := sk, cores := v.hdr.rect o, preempt := true } ∈ t.work.drains ∧
      ∀ x ∈ l, ∀ y, s.skein? x.1 = some y →
        t.skein? x.1 = some { y with phase := .saving, asked := s.time.gt, saveSlot := x.2.1, saveBase := x.2.2 }) ∧
  (∀ (s : State) sk k v s1, s.skein? sk = some k → s.skeinLaunch k = some v → k.phase = .saving → s.savesLater sk = false →
    (kkeys s.courses).Nodup → (s.settleSkein sk).writeParts sk v.hdr (imgParts v.hdr) = .ok s1 →
    ∃ t k', exec (.skeinSaved sk) s = .next t ∧ t.skein? sk = some k' ∧ k'.phase = .saved ∧ (∀ x ∈ t.courses, x.2.skein ≠ sk) ∧
      (∀ x ∈ t.panels, x.2.skein ≠ sk) ∧
      ∀ key c, kget s.courses key = some c → c.skein ≠ sk → (kget t.courses key).map registers = some (registers c)) ∧
  (∀ (s : State) core slot c, s.course? core slot = some c → c.fr0 = [] → c.fr1 = [] → c.fr2 = [] → (∀ x ∈ c.strands.toList, x.pending = []) →
    ∃ t, exec (.courseRetired core slot) s = .next t ∧ t.course? core slot = none ∧ MemoryKept s t ∧
      ∀ key, key ≠ courseKey core slot → (kget t.courses key).map registers = (kget s.courses key).map registers) ∧
  (∀ (s : State) sk k, s.skein? sk = some k → k.phase = .placed → s.skeinPanels sk = [] → s.skeinCourses sk = [] →
    (∀ x ∈ s.async.ops, x.2.holdsSkein sk = false) →
    (s.skeinTiles sk = [] → ∃ t, exec (.skeinBoundOff sk) s = .next t ∧ t.skein? sk = none ∧ RegistersKept s t ∧
      ∀ core, ∀ x ∈ (t.core core).granules, x.2 ≠ .held sk) ∧
    (s.skeinTiles sk ≠ [] → ∃ t, exec (.skeinBoundOff sk) s = .next t ∧ RegistersKept s t ∧ BytesKept s t ∧
      (∀ x ∈ s.skeinTiles sk, ∀ d ∈ t.async.dir, d.launch = x.launch → d.tile = x.idx → d.evicting = true) ∧
      ∀ j (x : Tile), (s.skeinTiles sk)[j]? = some x → ∃ op, t.op? (s.work.nextId + j) = some op ∧ op.kind = .evict x.idx x.res x.imageSize false ∧
        op.issuer = .device ∧ op.skein = some sk))

/-! ## Events of the part: around issue, and errors -/

/-- R102, R124, R125, R129, R155, R167, R250, R252, R414, R415 and R419: a line is filled by sectors and, on a soft error, filled again; a hardware breakpoint
and a single step take effect before an issue; a yield ends; parked accesses and faults are tried again; PC samples go to trace buffers. -/
def Obligations.AroundIssue : Prop :=
  (∀ (s : State) core ctx line l bits, let w : Who := { (s.whoOf ctx) with core }
    let x := line / 64 * 64
    s.home w .exec x = .ok l →
    (line.getLsbD 5 = false → s.icFind core ctx x = none → ∃ t, exec (.icacheFill core ctx line false) s = .next t ∧
      ({ t with cores := s.cores } : State) = s ∧
      (t.core core).filling.find? (fun y => y.1 == ctx && y.2.1 == x) = some (ctx, x, BitVec.ofNat 256 (s.peekNat l 32)) ∧
      { t.core core with filling := (s.core core).filling } = s.core core ∧ ∀ n, n ≠ core → t.core n = s.core n) ∧
    (line.getLsbD 5 = true → s.fillRead w x = .ok bits → ∃ t, exec (.icacheFill core ctx line false) s = .next t ∧
      ({ t with cores := s.cores } : State) = s ∧ t.icFind core ctx x = some (icMark ctx x bits) ∧
      ((t.core core).icache.filter (fun y => icSet y.line == icSet x)).length ≤ 8 ∧ (∀ y ∈ (t.core core).filling, y.1 ≠ ctx ∨ y.2.1 ≠ x) ∧
      { t.core core with icache := (s.core core).icache, filling := (s.core core).filling } = s.core core ∧ ∀ n, n ≠ core → t.core n = s.core n) ∧
    (∃ t, exec (.icacheFill core ctx line true) s = .next t ∧ l ∈ t.mem.bad ∧ t.cores = s.cores ∧ BytesKept s t)) ∧
  (∀ (s : State) core ctx line slot y bits, let x := line / 64 * 64
    slot ≤ 4 → s.icFind core ctx x = some y → s.lineRead { (s.whoOf ctx) with core } x = .ok bits →
    ∃ t, exec (.icacheSoftError core ctx line slot) s = .next t ∧ t.icFind core ctx x = some (icMark ctx x bits) ∧
      t.dev.life = (s.life 1).dev.life ∧ ({ t with cores := s.cores, dev := s.dev } : State) = s) ∧
  (∀ (s : State) core slot c E i, s.course? core slot = some c → headEntry c.front = some E → E.wait = .none → c.passAt ≠ some E.pc →
    let hits (i : Fin 4) : Prop := c.bps[i].getLsbD 3 = true ∧ bitsOf c.bps[i].toNat 55 6 = bitsOf E.pc.toNat 55 6 ∧
      bitsOf c.bps[i].toNat 2 0 = bitsOf E.pc.toNat 2 0
    (hits i ∧ ∀ j < i, ¬ hits j) →
      (s.attachedTo c.skein = false → exec (.breakpointHit core slot) s = .next (s.takeTrap core slot (some E)
        { t := { cause := Cause.brk, detail := 0x03, tval := BitVec.ofNat 64 i.val }, mask := E.mask, pc := E.pc, prio := E.prio })) ∧
      (s.attachedTo c.skein = true → exec (.breakpointHit core slot) s = .next (s.debugStop c.skein
        { reason := 2, core := BitVec.ofNat 8 core, slot := BitVec.ofNat 5 slot, pc := E.pc } (some (core, slot))))) ∧
  (∀ (s : State) core slot c E, s.course? core slot = some c → headEntry c.front = some E → E.wait = .none → c.sstep = true → c.level = 0 →
    c.stepFree = false → ∃ x : TrapReq, x.t.cause = Cause.sstep ∧ x.mask = E.mask ∧ x.pc = E.pc ∧ x.prio = E.prio ∧ x.strm = false ∧ x.async = false ∧
      exec (.singleStepTrap core slot) s = .next (({ s with freeCount := s.freeCount + 1 } : State).takeTrap core slot (some E) x)) ∧
  (∀ (s : State) core slot, exec (.yieldExpiry core slot) s = .next (s.modCourse core slot (fun c => { c with yielding := 0 }))) ∧
  (∀ (s : State) core slot c, s.course? core slot = some c → ∃ t d, exec (.parkedAccessResume core slot) s = .next t ∧
    t.course? core slot = some d ∧ ({ t with courses := s.courses } : State) = s ∧ { d with fr0 := c.fr0, fr1 := c.fr1, fr2 := c.fr2 } = c ∧
    ∀ l < 3, d.fr l = (c.fr l).map (fun e =>
      if e.wait = .again .absentLine ∨ e.wait = .again .tileLog then { e with wait := .retry } else e)) ∧
  (∀ (s : State) id p, kget s.async.faults id = some p → p.again = false → p.due = true ∨ p.tried + 16000000 ≤ s.time.gt →
    ∃ t, exec (.faultRetry id) s = .next t ∧ kget t.async.faults id = some { p with again := true, due := false, tried := s.time.gt } ∧
      t.mem = s.mem ∧ RegistersKept s t ∧
      (∀ core slot pc c, p.who = .course core slot pc → s.course? core slot = some c → ∃ d, t.course? core slot = some d ∧ ∀ l < 3, d.fr l =
        (c.fr l).map (fun e => if e.wait = .again .fault ∧ e.pc = pc then { e with wait := .retry } else e)) ∧
      (∀ core k q, p.who = .stream core k → s.panel? core k = some q →
        t.panel? core k = some { q with run := if q.run = 2 then 0 else q.run, swait := .none }) ∧
      (∀ i o, p.who = .op i → s.op? i = some o → t.op? i = some { o with fault := none })) ∧
  (∀ (s : State) core part, ∃ t, exec (.pcSample core part) s = .next t ∧ RegistersKept s t ∧ t.panels = s.panels ∧ t.firn = s.firn ∧
    ∀ l v, s.work.launches = [(l, v)] → let n := bitsOf v.hdr.trctl.toNat 15 0
      (n = 0 → t = s) ∧
      (n ≠ 0 → let now := s.time.gt / (n * 64 * s.clockGt)
        let cs := s.partCourses l core part
        (kget v.sampled (core * 8 + part)).getD 0 < now → ∀ slot c, cs[now % cs.length]? = some (slot, c) →
          let u := s.modLaunch l (fun v => { v with sampled := kset v.sampled (core * 8 + part) now })
          t = u.traceEv l { u.partEv core slot c 0x54 (c.headPc.toNat + (c.front.head?.elim 0 (·.mask.toNat)) * 2 ^ 64 +
                u.stall core slot c * 2 ^ 80 + slot * 2 ^ 88) with priv := true }))

/-- R27, R73, R249, R280, R314, R352, R353, R401 and R412: an uncorrectable SRAM error: in a register file it raises ECC in its strand, in a
scratchpad or a memory it lies there until it is read, in the accumulator it marks its row and column, in a counter it poisons it, in a kill table it kills the
context, in the queue table it loses the queue, in trace staging it drops a record of the enabled store, in an instruction cache the line is filled again. A corrected error is counted. -/
def Obligations.SramErrors : Prop :=
  ∀ s : State,
    let counted (t : State) : Prop := t.dev.life = (s.life 4).dev.life
    (∀ core slot c E lane field, s.course? core slot = some c → headEntry c.front = some E → lane < 16 →
      exec (.sramUe (.registers core slot lane field)) s = .next ((s.sramUe 1 core (s.skeinCtx c.skein) (s.causeOf c) (s.parentOf c)).takeTrap core slot
        (some E) { t := { cause := Cause.ecc, detail := 0x02, tval := field.setWidth 64 }, mask := 1 <<< lane, pc := E.pc, prio := E.prio })) ∧
    (∀ die addr, let l : Loc := ⟨if die then .die else .unit, addr⟩
      ∃ t, exec (.sramUe (.scratchpad die addr)) s = .next t ∧ t.badIn l 1 = true ∧ BytesKept s t ∧
        ({ t with mem := { t.mem with bad := s.mem.bad } } : State) = s) ∧
    (∀ lpddr addr, let l : Loc := ⟨if lpddr then .lpddr else .hbm, addr⟩
      ∃ t, exec (.sramUe (.memory lpddr addr)) s = .next t ∧ t.badIn l 1 = true ∧ BytesKept s t ∧
        ({ t with mem := { t.mem with bad := s.mem.bad } } : State) = s) ∧
    (∀ k, exec (.sramUe (.corrected k)) s = .next (s.life (1 + k.val))) ∧
    (∀ core cell, ∃ t, exec (.sramUe (.accumulator core cell)) s = .next t ∧ counted t ∧ RegistersKept s t ∧ MemoryKept s t ∧
      t.engine core = { s.engine core with emaskr := (s.engine core).emaskr ||| (1 <<< (cell / 256 % 256)),
                                           emaskc := (s.engine core).emaskc ||| (1 <<< (cell % 256)) }) ∧
    (∀ n, ∃ t, exec (.sramUe (.counter n)) s = .next t ∧ counted t ∧ (t.counter n).poison = true ∧ (t.counter n).gen = (s.counter n).gen + 1 ∧
      (∀ m, m ≠ n → t.counter m = s.counter m) ∧ RegistersKept s t) ∧
    (∀ ctx core, ∃ t, exec (.sramUe (.killClass ctx core)) s = .next t ∧ t.ctxKilled ctx = true ∧
      ∀ j, j ≠ ctx → t.ctxKilled j = s.ctxKilled j) ∧
    (∀ q, q < 1024 → ∃ t, exec (.sramUe (.queueTable q)) s = .next t ∧ counted t ∧ (t.queue q).state = 3 ∧ (∀ r, r ≠ q → t.queue r = s.queue r) ∧
      RegistersKept s t) ∧
    (∃ t, exec (.sramUe .complexMemory) s = .next t ∧ RegistersKept s t ∧ MemoryKept s t ∧
      t.dev.activeCx = (if s.dev.ready = true ∧ s.dev.updating = none then !s.dev.activeCx else s.dev.activeCx)) ∧
    (∀ source, let u := s.sramUe 9 0xFF 0xFFFF 0 0
      ∃ t, exec (.sramUe (.traceStaging source)) s = .next t ∧ counted t ∧ RegistersKept s t ∧ MemoryKept s t ∧
        (s.firn.enabled = true → t.firn.drop = u.firn.drop + 1 ∧ source ∈ t.firn.dropping) ∧ (s.firn.enabled = false → t.firn = u.firn)) ∧
    (∀ core ctx line slot, slot ≤ 4 → exec (.sramUe (.icache core ctx line slot)) s =
      .next ((s.sramUe 10 core ctx 0 0).icSoft core ctx (line / 64 * 64)))

/-! ## Events of the part: transfers and the engine -/

/-- R270, R280 to R283, R285, R287, R288, R290 and R291: a transfer goes on by one sector, whose bytes land at its destination, or is parked
where it meets a fault; it ends when every sector has moved: its ranges are free, its handle and counter are told, its course counts one
operation less. -/
def Obligations.TransferSteps : Prop :=
  let free (t : State) (id : Nat) : Prop := ∀ core, ∀ y ∈ (t.core core).locks, y.2.op ≠ id
  (∀ (s : State) id o src_ dst len d b l z, s.op? id = some o → o.kind = .copy src_ dst len d → o.fault = none → 32 * o.cursor + 32 ≤ len →
    Unwatched s → let a := src_ + BitVec.ofNat 64 (32 * o.cursor)
    s.engineRead (some id) (s.opWho o) o.core a 32 = .ok (b, l) → s.home (s.opWho o) .store (dst + BitVec.ofNat 64 (32 * o.cursor)) = .ok z →
    s.routeAt o.core true (dst + BitVec.ofNat 64 (32 * o.cursor)) z 32 = .ok (.plain z 32) → s.lineTo id z = .ok () →
    ∃ t, exec (.sectorComplete id) s = .next t ∧ RegistersKept s t ∧ t.op? id = some { o with cursor := o.cursor + 1, moved := o.moved + 32 } ∧
      (∀ x, outsideRings s x → t.peek x = if x.store = z.store ∧ z.addr ≤ x.addr ∧ x.addr < z.addr + b.length
        then (b[x.addr - z.addr]?).getD 0 else s.peek x) ∧ (len < 32 * o.cursor + 64 → free t id)) ∧
  (∀ (s : State) id o s1, s.op? id = some o → (∃ tile res size drop, o.kind = .evict tile res size drop) ∨
      (∃ p h tile res base size n mc, o.kind = .fetch p h tile res base size n mc) ∨ (∃ x y tr pln rm, o.kind = .move x y tr pln rm) ∨
      (∃ tile dst size, o.kind = .snap tile dst size true) → o.fault = none → o.cursor < s.opSectors o → s.nextSector id o = .ok s1 →
    s1.op? id = some o → ∃ t, exec (.sectorComplete id) s = .next t ∧ RegistersKept s1 t ∧ MemoryKept s1 t ∧
      t.op? id = some { o with cursor := o.cursor + 1, moved := o.moved + 32 }) ∧
  (∀ (s : State) id o src_ dst len d e a, s.op? id = some o → o.kind = .copy src_ dst len d → o.fault = none → 32 * o.cursor + 32 ≤ len →
    s.nextSector id o = .error (.fault e a) → (∀ p ∈ s.async.faults, p.2.who ≠ .op id) →
    ∃ t i p, exec (.sectorComplete id) s = .next t ∧ t.op? id = some { o with fault := some 0 } ∧ kget t.async.faults i = some p ∧
      p.who = .op id ∧ p.addr = a ∧ p.detail = e.detail ∧ p.issuer = 1 ∧ p.tried = s.time.gt ∧ p.again = false) ∧
  (∀ (s : State) id o, s.op? id = some o → s.opMoved o = true → id < s.work.nextId →
    (∀ a b tr pln rm, o.kind = .move a b tr pln rm → exec (.tmovComplete id) s = .next (s.opDone id o)) ∧
    (∀ src_ dst len d, o.kind = .copy src_ dst len d → (∀ g n, o.issuer ≠ .node g n) →
      exec (.copyDone id) s = .next ((s.emit { (s.opEv id o) with type := 0x6E, payload := len }).opDone id o)) ∧
    (∀ p h tile res base size n mc l sk, o.kind = .fetch p h tile res base size n mc → o.launch = some l → o.skein = some sk →
      s.isSaved sk = false → (∀ a b c, o.issuer = .course a b c → s.isSaved a = false) → ∃ t, exec (.tileFetch id) s = .next t ∧ t.op? id = none ∧ RegistersKept s t ∧
        (∀ core i q, s.panelBy sk p = some (core, i, q) → s.panel? core i = some q → ∃ q', t.panel? core i = some q' ∧
          ∀ x, q'.handles[h]? = some x → x.pending = false) ∧
        ∀ t0, s.readTile l tile = .ok t0 → t0.logcnt = 0 → MemoryKept s t) ∧
    (∀ tile res size drop l v, o.kind = .evict tile res size drop → o.launch = some l → s.fetchRuns l tile = false → s.launch? l = some v → v.hdr.trctl.getLsbD 16 = false →
      v.bound < v.hdr.e3 * v.hdr.e4 * v.hdr.e5 → (∀ a b c, o.issuer = .course a b c → s.isSaved a = false) →
      ∃ t, exec (.tileEvict id) s = .next t ∧ t.op? id = none ∧ RegistersKept s t ∧
        ∀ t0, s.readTile l tile = .ok t0 → MemoryKept (s.setTile t0 0x20 8 0) t)) ∧
  (∀ (s : State) id o, id < s.work.nextId → (∀ a b c, o.issuer = .course a b c → s.isSaved a = false) → let t := s.opDone id o
    t.op? id = none ∧ free t id ∧ RegistersKept s t ∧ MemoryKept s t ∧
      (∀ i cnum incr, o.signal = some (i, cnum, incr) → (s.counter i).poison = false →
        (t.counter i).value = (s.counter i).value + incr ∧ (t.counter i).gen = (s.counter i).gen + 1) ∧
      (o.signal = none → ∀ i, t.counter i = s.counter i) ∧
      (∀ a b c core slot d, o.issuer = .course a b c → o.signal = none → s.courseBy a b c = some (core, slot, d) → s.course? core slot = some d →
        ∃ d', t.course? core slot = some d' ∧ d'.asyncOut = d.asyncOut - 1)) ∧
  (∀ (s : State) id o tile dst size l t0 s1, s.op? id = some o → o.kind = .snap tile dst size false → o.launch = some l → o.fault = none →
    s.logBusy l tile = false → s.snapBefore l tile id = false → s.opTile o tile = .ok t0 → s.admitTile t0 none = some s1 → t0.logcnt = 0 →
    exec (.snapshotCopyStart id) s = .next ((s1.setOp id { o with kind := .snap tile dst size true, fault := none }).opGoesOn id)) ∧
  (∀ (s : State) id o tile l t0, s.op? id = some o → o.kind = .log tile 2 → o.launch = some l → o.fault = none → s.logBefore l tile id = false →
    s.opTile o tile = .ok t0 → let ev := s.opEv id o
    exec (.tlogComplete id) s = .next ((((((s.setTile t0 0x34 2 0).emit { ev with type := 0x6A, payload := tile + t0.logcnt * 2 ^ 16 }).opDone
      id o).drainAppends l tile ev).tidyDir l tile).retireCheck l))

/-- R296, R300 to R302, R307, R308 and R310: a depth step adds to every digit, exactly, the contributions of the block pairs that reach its
place; without saturation it succeeds only when every digit that is not poisoned stays in the guard range, and saturation clamps it there. -/
def Obligations.DepthStepsAreExact : Prop :=
  (∀ (e : Engine) (c : Card) (x : StepIn) e1 cnts, e.step c x = some (e1, cnts) → (∀ a ∈ x.a, a.1 < 8 ∧ ∀ y, a.2.2 = some y → y.v.length = 32) →
    (∀ b ∈ x.b, b.1 < 8 ∧ ∀ y, b.2 = some y → y.v.length = 32) → e.mode ≤ 2 → (e.mode = 2 → ∀ a ∈ x.a, a.2.1 < 2) →
    ∀ r col, r < 256 → col < 256 → let k := digitKey (if e.g = 0 then c.half else 0) r col
    let add := (x.pairs.map (fun (sr, h, sc, a, b) => if sr = r / 32 ∧ sc = col / 32 then
      (((pairSums e.mode h a.v b.v).filter (fun p => p.1 == r % 32 && p.2.1 == col % 32)).map (fun p =>
        (contribution p.2.2 (a.scale + b.scale) e1.eaccExp).1)).sum else 0)).sum
    let sum := (kget e.digits k).getD 0 + add
    let lim : Int := 2 ^ (e.gbits - 1)
    (e1.poisoned k = true → (kget e1.digits k).getD 0 = sum) ∧
    (e1.poisoned k = false → (kget e1.digits k).getD 0 = max (-lim) (min (lim - 1) sum) ∧ (e.sat = false → -lim ≤ sum ∧ sum < lim))) ∧
  (∀ (S e E : Int), let q := (contribution S e E).1
    (E ≤ e → q = S * 2 ^ (e - E).toNat) ∧
    (e < E → 2 * (q * 2 ^ (E - e).toNat - S).natAbs ≤ 2 ^ (E - e).toNat ∧
      ((contribution S e E).2.1 = true ↔ q = 0 ∧ S ≠ 0) ∧ ((contribution S e E).2.2 = true ↔ q ≠ 0 ∧ q * 2 ^ (E - e).toNat ≠ S))) ∧
  (∀ (h : Nat) (a b : List Int) i j, a.length = 32 → b.length = 32 → i < 32 → j < 32 →
    let at_ (l : List Int) (i : Nat) : Int := (l[i]?).getD 0
    let got (mode : Nat) := ((pairSums mode h a b).filter (fun p => p.1 == i && p.2.1 == j)).map (·.2.2)
    (got 0).sum = at_ a i * at_ b j ∧
    (i * 32 + j < 63 → got 1 = [((List.range 32).map (fun u => if u ≤ 32 * i + j ∧ 32 * i + j - u < 32 then at_ a u * at_ b (32 * i + j - u) else 0)).sum]) ∧
    (i / 16 = h → h < 2 → let q := i % 16
      let n := j / 2
      got 2 = [if j % 2 = 0 then at_ a (2 * q) * at_ b (2 * n) - at_ a (2 * q + 1) * at_ b (2 * n + 1)
        else at_ a (2 * q) * at_ b (2 * n + 1) + at_ a (2 * q + 1) * at_ b (2 * n)]))

/-- R307, R308, R311, R314, R324, R325, R335 and R336: the engine's events: a depth step of a running job whose operands can be read, the
opening of a gate, the end of an extraction, and a stop. -/
def Obligations.EngineEvents : Prop :=
  (∀ (s : State) core j x e1 cnts, let e := s.engine core
    e.job = some j → e.live = true → e.stop = 0 → e.extract = none → j.walked = false → s.engineParked core = false → Unwatched s →
    s.async.faults = [] → (e.tileFirst j.card = false ∨ s.tileGates core e j = []) → s.stepIn core j e = .ok x →
    (e.step j.card x.1 = none → exec (.depthStep core) s =
      (let j1 := j.goesOn s.time.gt
       let j2 := if e.tileFirst j.card then { j1 with tileStart := s.time.gt } else j1
       .next ((s.modEngine core (fun e => { e with job := some j2 })).stopEngine core 2))) ∧
    (e.step j.card x.1 = some (e1, cnts) → ∃ t, exec (.depthStep core) s = .next t ∧ RegistersKept s t ∧ MemoryKept s t ∧
      (e.tileLast j.card = false → (t.engine core).digits = e1.digits ∧ (t.engine core).extract = none) ∧
      (e.tileLast j.card = true → ∃ y, (t.engine core).extract = some y ∧ y.digits = e1.halfDigits j.card ∧ y.exp = e1.eaccExp ∧ y.cursor = 0 ∧
        y.tile = e.tileNo j.card ∧ y.card = j.card ∧ (t.engine core).halfDigits j.card = []) ∧
      (e.walkLast j.card = false → (t.engine core).loops = nextLoops j.card e.loops ∧ (t.engine core).running = true) ∧
      (e.walkLast j.card = true → e.tileLast j.card = false → (t.engine core).job = none ∧ (t.engine core).stop = 1 ∧ (t.engine core).live = false))) ∧
  (∀ (s : State) core j, let e := s.engine core
    let tile := e.tileNo j.card
    e.job = some j → e.live = true → e.stop = 0 → e.extract = none → e.tileFirst j.card = true → s.tileGates core e j ≠ [] →
    (∀ x ∈ s.tileGates core e j, x.2 = true) → exec (.sbwGateOpen core) s = .next (s.modEngine core (fun e =>
      { e with job := some (({ j with sbw := j.sbw.filter (fun (g, _) => g.tile != tile) } : Job).goesOn s.time.gt) }))) ∧
  (∀ (s : State) core x, (s.engine core).extract = some x → x.finished = true →
    (x.byExt = true → ∃ t, exec (.tileExtract core) s = .next t ∧ (t.engine core).extract = none ∧ t.op? x.op = none ∧ RegistersKept s t ∧
      ((t.engine core).live = false ∨ (t.engine core).stop ∉ [2, 3, 4, 5] → (t.engine core).stop = 1) ∧
      (x.clr = false → (t.engine core).digits = (s.engine core).digits)) ∧
    (x.byExt = false → ∀ j, (s.engine core).job = some j → (s.engine core).live = true → (s.engine core).stop = 0 → j.stopReq = none →
      ∃ t, exec (.tileExtract core) s = .next t ∧ (t.engine core).extract = none ∧ RegistersKept s t ∧
        (t.engine core).digits = (s.engine core).digits ∧
        (j.walked = false → ∃ j', (t.engine core).job = some j' ∧ j'.tiles = j.tiles + 1 ∧ j'.card = j.card ∧ (t.engine core).running = true) ∧
        (j.walked = true → (t.engine core).job = none ∧ (t.engine core).stop = 1))) ∧
  (∀ (s : State) core i p, (s.engine core).owner = some i → s.panel? core i = some p → p.stopped = true →
    exec (.engineStop core 4) s = .next (s.stopEngine core 4)) ∧
  (∀ (s : State) core j code, (s.engine core).job = some j → (s.engine core).running = true → j.walked = false → (s.engine core).extract = none → code < 256 →
    let t := s.stopEngine core code
    (t.engine core).stop = code ∧ (t.engine core).job = some j ∧ (t.engine core).digits = (s.engine core).digits ∧
      (t.engine core).eloop = (s.engine core).eloop ∧ t.op? j.op = none ∧ RegistersKept s t ∧ MemoryKept s t)

/-! ## Events of the part: fabric -/

/-- R266, R371, R374, R376, R377, R379, R380 and R383: what a device does with a request that is the next of its flow: it is admitted by the
fabric access table or nacked, performed at its home, and answered; one whose predecessors are missing is held, and a copy is dropped. -/
def Obligations.FabricRequests : Prop :=
  (∀ (s : State) p e o n bs l, nextOfFlow s p → p.body = .read o n → s.admitted p 1 (some (o.toNat, n)) = .ok e → Unwatched s →
    s.agtLoad (s.packetAgt p e) (fatAddr e o) n = .ok (bs, l) →
    ∃ t, exec (.fabricRead p) s = .next t ∧ Performed t p (s.answer p 2 0 (.value (BitVec.ofNat 64 (leNat bs))))) ∧
  (∀ (s : State) p e o bs s1, nextOfFlow s p → p.body = .write o bs → s.admitted p 2 (some (o.toNat, bs.length)) = .ok e →
    s.agtStore (s.packetAgt p e) (fatAddr e o) bs = .ok s1 → Acked s p (.fabricWrite p) s1) ∧
  (∀ (s : State) p e o (op : BitVec 4) n v s1, nextOfFlow s p → p.body = .atomic o op n v → op.toNat ≤ 9 → n = 4 ∨ n = 8 →
    s.admitted p 3 (some (o.toNat, n)) = .ok e →
    let W := 8 * n
    let f (old : Nat) : BitVec W :=
      let x : BitVec W := BitVec.ofNat W old
      let y : BitVec W := v.setWidth W
      match op.toNat with
      | 0 => x + y
      | 1 => if x.slt y then x else y
      | 2 => if y.slt x then x else y
      | 3 => if x.ult y then x else y
      | 4 => if y.ult x then x else y
      | 5 => x &&& y
      | 6 => x ||| y
      | 7 => x ^^^ y
      | 8 => y
      | _ => let T : Tag := if W = 32 then 0x15 else 0x16
        BitVec.ofNat W (addRnd T 0 (numOf T x.toNat) (numOf T y.toNat)).bits
    s.agtAtomic (s.packetAgt p e) (fatAddr e o) n (op == 9) (fun old => (f old).toNat) = .ok s1 → Acked s p (.fabricAtomic p) s1) ∧
  (∀ (s : State) p e o red T bs s1, nextOfFlow s p → p.body = .reduce o red T bs → s.admitted p 2 (some (o.toNat, bs.length)) = .ok e →
    s.agtReduceAll (s.packetAgt p e) T red.toNat (fatAddr e o) bs = .ok s1 → Acked s p (.fabricWriteReduce p) s1) ∧
  (∀ (s : State) p e w key, nextOfFlow s p → p.body = .signal w key → s.admitted p 4 none = .ok e →
    let ctx := e.tctx.toNat
    let entry := s.ctxEntry ctx
    (w.getLsbD 16 = false → Acked s p (.fabricSignal p) s) ∧
    (w.getLsbD 16 = true → ∀ i, counterOf entry (bitsOf w.toNat 15 0) = some i → (s.counter i).poison = false →
      Acked s p (.fabricSignal p) (s.signalWord ctx entry w p.src.toNat key.toNat p.cause 0)) ∧
    (w.getLsbD 16 = true → (counterOf entry (bitsOf w.toNat 15 0) = none ∨ ∃ i, counterOf entry (bitsOf w.toNat 15 0) = some i ∧
      (s.counter i).poison = true) → Refused s p (.fabricSignal p) 4 0)) ∧
  (∀ (s : State) p i right range, (∃ o n, p.body = .read o n ∧ i = .fabricRead p ∧ right = 1 ∧ range = some (o.toNat, n)) ∨
      (∃ o bs, p.body = .write o bs ∧ i = .fabricWrite p ∧ right = 2 ∧ range = some (o.toNat, bs.length)) ∨
      (∃ o op n v, p.body = .atomic o op n v ∧ i = .fabricAtomic p ∧ right = 3 ∧ range = some (o.toNat, n)) ∨
      (∃ o red T bs, p.body = .reduce o red T bs ∧ i = .fabricWriteReduce p ∧ right = 2 ∧ range = some (o.toNat, bs.length)) ∨
      (∃ w key, p.body = .signal w key ∧ i = .fabricSignal p ∧ right = 4 ∧ range = none) →
    (nextOfFlow s p → (s.admits p right range = none → Refused s p i 2 0) ∧
      ∀ e, s.admits p right range = some e → s.ctxKilled e.tctx.toNat = true ∨ (s.ctxEntry e.tctx.toNat).ptroot = 0 → Refused s p i 6 0) ∧
    (let ahead := (p.seq - (s.seqAt p.src.toNat p.flow).2).toNat
     p.dst.toNat = s.devNo → (2 ^ 15 ≤ ahead → exec i s = .next s) ∧
      (0 < ahead → ahead < 2 ^ 15 → p.mode ≠ 2 → p ∉ s.async.early → exec i s =
        .next { s with async := { s.async with early := s.async.early ++ [p] } }))) ∧
  (∀ (s : State) (p : Packet) right range e, s.admits p right range = some e → e ∈ kvals s.tables.access ∧ e.flags.getLsbD 0 = true ∧
    e.flags.getLsbD right = true ∧ e.sdev = p.src ∧ e.sctx = p.ctx ∧
    ∀ o n, range = some (o, n) → e.aoff.toNat ≤ o ∧ o + n ≤ e.aoff.toNat + e.alen.toNat) ∧
  (∀ (s : State) (g : Agt) a bs l, bs ≠ [] → a.toNat % 128 + bs.length ≤ 128 → s.async.dir = [] → Unwatched s → s.absentAt l = none →
    (s.home g.w .store a = .ok l → ∃ s1, s.agtStore g a bs = .ok s1 ∧ StoredBytes s s1 [((List.range bs.length).map l.plus,
      fun j _ => (bs[j]?).getD 0)]) ∧
    (s.home g.w .load a = .ok l → s.badIn l bs.length = false → ∃ y, s.agtLoad g a bs.length = .ok ((List.range bs.length).map (fun j => s.peek (l.plus j)), y)))

/-- R157, R250, R258, R370 to R375 (log 69 for the form of link messages), R379, R380, R383, R387 and R433: what the answers to a device's own requests do, what happens when none
comes, and what links and relays do. -/
def Obligations.FabricAnswers : Prop :=
  (∀ (s : State) p r v sk n k m i size sx core slot (c : Course) E, krising s.async.reqs = true → s.answered p = some r → p.body = .value v →
    r.kind = .fld sk n k m (.w i) size sx → s.fldReqs sk n k = [(p.req, r)] → s.isSaved sk = false → s.courseBy sk n k = some (core, slot, c) →
    s.course? core slot = some c → c.orphan = none → (c.fr0 ++ c.fr1 ++ c.fr2).find? (fun e => e.wait == .remote) = some E → E ∈ c.front →
    ∃ t d, exec (.fabricReadResponse p) s = .next t ∧ t.course? core slot = some d ∧ kget t.async.reqs p.req = none ∧ MemoryKept s t ∧
      (∀ lane < 16, ∀ x, d.whole lane x = if m.getLsbD lane = true ∧ x = .w i
        then VReg.ofWord (if sx = true ∧ size < 8 then (v.setWidth (8 * size)).signExtend 64 else (v.setWidth (8 * size)).setWidth 64)
        else c.whole lane x) ∧
      (∀ lane < 16, m.getLsbD lane = true → ∀ p', pendOf (d.st lane) (.w i) = some p' → p' ∉ (d.st lane).pending) ∧
      ∀ lane < 16, E.mask.getLsbD lane = true → ∃ e ∈ d.front, e.mask.getLsbD lane = true ∧ e.pc = pcNext E.pc) ∧
  (∀ (r d : Byte) (a : Word),
    (r = 2 ∨ r = 4 → ReqEnd.trap a (.nack r d) = some { cause := Cause.priv, detail := 0x03, tval := a }) ∧
    (r = 3 → ReqEnd.trap a (.nack r d) = some { cause := Cause.xlate, detail := d, tval := a }) ∧
    (r ∉ [2, 3, 4] → ReqEnd.trap a (.nack r d) = some { cause := Cause.ecc, detail := 0x03, tval := a }) ∧
    ReqEnd.trap a .timeout = some { cause := Cause.ecc, detail := 0x03, tval := a }) ∧
  (∀ (s : State) p r, s.answered p = some r → let reason : Byte := p.info.setWidth 8
    (∀ a b c, r.kind = .posted a b c → exec (.fabricAck p) s = .next (s.dropReq p.req r p.mark) ∧
      ∃ t, exec (.fabricNack p) s = .next t ∧ RegistersKept s t ∧ kget t.async.reqs p.req = none ∧ t.work = s.work) ∧
    (∀ op o b x, r.kind = .entry op true → s.op? op = some o → o.kind = .entry b x →
      exec (.fabricAck p) s = .next ((s.dropReq p.req r p.mark).entryEnd op o b true) ∧
      exec (.fabricNack p) s = .next (((s.dropReq p.req r p.mark).fabricFault r 0xA2 reason.toNat).entryEnd op o b false)) ∧
    (∀ c z, (r.kind = .chunk c ∨ ∃ q, r.kind = .ready c q) → reason = 6 → s.coll? c.toNat = some z → ∃ t, exec (.fabricNack p) s = .next t ∧
      kget t.async.reqs p.req = none ∧ t.coll? c.toNat = some { z with resend := z.resend ++ [(r.sent + 16000, r.dev, r.packet.body)] } ∧
      t.courses = s.courses ∧ t.mem = s.mem) ∧
    (∀ sk n k m x size sx, r.kind = .fld sk n k m x size sx →
      exec (.fabricNack p) s = .next (s.fldEnded p.req r (.nack reason (p.info.extractLsb' 8 8)) p.mark))) ∧
  (∀ (s : State) id r mark, let t := s.dropReq id r mark
    kget t.async.reqs id = none ∧ (∀ j, j ≠ id → kget t.async.reqs j = kget s.async.reqs j) ∧ t.courses = s.courses ∧ t.mem = s.mem) ∧
  (∀ (s : State) req r, kget s.async.reqs req = some r → r.ended = none → r.sent + 160000000 ≤ s.time.gt →
    (∀ sk n k m x size sx core slot c, r.kind = .fld sk n k m x size sx → s.courseBy sk n k = some (core, slot, c) → s.course? core slot = some c →
      (c.orphan = none → exec (.fldReplyTimeout req) s = .next ((s.emit
        { source := s.portSrc r.dev, type := 0xA3, err := true, cause := r.cause, parent := r.parent, ctx := r.ctx,
          payload := r.dev % 16 + r.laddr.toNat * 2 ^ 16 }).fldEnded req r .timeout false)) ∧
      (c.fr0 = [] → c.fr1 = [] → c.fr2 = [] → ∃ t d, exec (.replyAbandon req) s = .next t ∧ t.course? core slot = some d ∧ d.abandoned = c.abandoned + 1 ∧
        kget t.async.reqs req = none ∧ RegistersKept s t ∧ t.mem = s.mem ∧
        ∀ lane < 16, m.getLsbD lane = true → ∀ p, pendOf (d.st lane) x = some p → p ∉ (d.st lane).pending)) ∧
    (∀ a b c, r.kind = .posted a b c → ∃ t, exec (.fabricTimeout req) s = .next t ∧ RegistersKept s t ∧ kget t.async.reqs req = none ∧
      t.work = s.work)) ∧
  (∀ (s : State) p, p.rly = true → p.relay.toNat = s.devNo → p.dst.toNat ≠ s.devNo → p.src.toNat ≠ s.devNo → s.devNo < s.domainSize →
    let others := (List.range s.domainSize).filter (fun d => d != p.src.toNat && d != p.dst.toNat)
    let up (r : Nat) : Prop := s.linkUp r = true ∧ s.farDown r p.dst.toNat = false
    let sent (q : Packet) : Prop := exec (.packetRelay p) s = .next { s with async := { s.async with
      outbox := s.async.outbox ++ [{ q with mark := q.mark || Config.portFull s.async.outbox.length }] } }
    (s.linkUp p.dst.toNat = true → sent p) ∧
    (s.linkUp p.dst.toNat = false → (∃ r ∈ others, up r) → ∃ r ∈ others, up r ∧ r ≠ s.devNo ∧ sent { p with relay := BitVec.ofNat 4 r }) ∧
    (s.linkUp p.dst.toNat = false → (∀ r ∈ others, ¬ up r) → exec (.packetRelay p) s = .next (s.answer p 8 (nackInfo 1 0) .none))) ∧
  (∀ (s : State) p, ∃ port t, exec (.reservedKindPacket p) s = .next t ∧
    ({ t with async := { t.async with linkErrors := s.async.linkErrors } } : State) = s ∧
    (kget t.async.linkErrors port).getD 0 = (kget s.async.linkErrors port).getD 0 + 1 ∧
    (∀ q, q ≠ port → kget t.async.linkErrors q = kget s.async.linkErrors q) ∧ (p.rly = false → port = s.portOf p.src.toNat)) ∧
  (∀ (s : State) p peer up, p.body = .link peer up → p.src.toNat ≠ s.devNo → ∃ t, exec (.fabricControl p) s = .next t ∧
    ({ t with async := { t.async with down := s.async.down } } : State) = s ∧ ((p.src.toNat, peer) ∈ t.async.down ↔ up = false) ∧
    ∀ x, x ≠ (p.src.toNat, peer) → (x ∈ t.async.down ↔ x ∈ s.async.down)) ∧
  (∀ (s : State) peer,
    (s.linkUp peer = true → ∃ t, exec (.linkDown peer) s = .next t ∧ t.linkUp peer = false ∧ (∀ q, q ≠ peer → t.linkUp q = s.linkUp q) ∧
      t.dev.life = (s.life 5).dev.life ∧ RegistersKept s t ∧ MemoryKept s t) ∧
    ((s.devNo, peer) ∈ s.async.down → 8 ≤ s.dev.bootDone.toNat → peer ≠ s.devNo → peer < s.domainSize → ∃ t, exec (.linkUp peer) s = .next t ∧
      t.linkUp peer = true ∧ (∀ q, q ≠ peer → t.linkUp q = s.linkUp q) ∧ RegistersKept s t ∧ MemoryKept s t))

/-! ## Events of the part: collectives -/

/-- R202, R250, R343, R387, R389, R390, R447 and R449: the packets of a collective at a participant, its reduction, what it sends again, and its
watchdog. -/
def Obligations.CollectiveEvents : Prop :=
  (∀ (s : State) p tag stage dst c j, nextOfFlow s p → p.body = .ready tag stage dst → s.collPacket p tag false = .ok (c, j) →
    Acked s p (.fabricReady p) ((s.setColl (c.modPos j (fun x => { x with ready := true, stage, dst, last := s.stamp }))).collCheck c.cause.toNat)) ∧
  (∀ (s : State) p tag result o bs c j s1, nextOfFlow s p → p.body = .chunk tag result o bs → s.collPacket p tag false = .ok (c, j) →
    (∀ x, s.op? c.op = some x → x.fault = none) → s.agtStore (s.collAgt c) o bs = .ok s1 →
    let d := c.desc
    let rel := (o - cdInto d j (cdSelf d) result (cdStage d) (cdDst d)).toNat
    let y := (c.modPos j (fun x => { x with last := s1.stamp })).piece j result rel bs.length (cdBytes d j (cdSelf d) result)
    let s2 := s1.opGoesOn c.op
    (y.1 = true → Acked s p (.fabricChunk p) ((s2.countChunk y.2 j result p.src.toNat).collCheck c.cause.toNat)) ∧
    (y.1 = false → Acked s p (.fabricChunk p) ((s2.setColl y.2).collCheck c.cause.toNat))) ∧
  (∀ (c : Coll) j result rel n bytes, 0 < cdChunk c.desc → j < c.pos.length → let i := rel / cdChunk c.desc
    let key := 2 * i + (if result then 1 else 0)
    let size := min (cdChunk c.desc) (bytes - i * cdChunk c.desc)
    let y := c.piece j result rel n bytes
    (y.1 = true ↔ size ≤ (kget (c.at j).parts key).getD 0 + n) ∧ (y.1 = true → kget (y.2.at j).parts key = none) ∧
      (y.1 = false → kget (y.2.at j).parts key = some ((kget (c.at j).parts key).getD 0 + n)) ∧ y.2.counter = c.counter) ∧
  (∀ (s : State) c j result dev x, c.pos[j]? = some x → cdAcsig c.desc < 2 ^ 16 → let t := s.countChunk c j result dev
    ∃ z, t.coll? c.cause.toNat = some z ∧ z.counter = (if result then c.counter else c.counter - 1) ∧
      z.pos[j]? = some (if result then { x with result := x.result + 1 } else { x with chunks := x.chunks + 1 }) ∧
      (∀ k, k ≠ j → z.pos[k]? = c.pos[k]?) ∧ t.courses = s.courses ∧ t.mem = s.mem) ∧
  (∀ (s : State) p tag c j, nextOfFlow s p → s.collPacket p tag true = .ok (c, j) →
    (p.body = .barrier tag → Acked s p (.fabricBarrierArrival p) (s.peerArrives p c false)) ∧
    (p.body = .departure tag → Acked s p (.departureReport p) (s.peerArrives p c true) ∧
      Acked s p (.fabricBarrierArrival p) (s.peerArrives p c true))) ∧
  (∀ (s : State) p r, p.body = .late r → (∀ e, s.admits p 5 none = some e → exec (.fabricControl p) s = .next (s.errEntry e.tctx.toNat r)) ∧
    (s.admits p 5 none = none → exec (.fabricControl p) s = .next s)) ∧
  (∀ (s : State) i c t dev tag, s.coll? i = some c → t ≤ s.time.gt →
    (∀ a b, c.resend = [(t, dev, .ready tag a b)] → exec (.readyResend i) s = .next ((s.setColl { c with resend := [] }).sendReq
      (.ready c.cause ((cdPosOf c.desc dev).getD 0)) (.coll c.cause) dev 0x0A c.ctx 0 (cdMode c.desc) c.cause c.parent 0 (.ready tag a b))) ∧
    (∀ result o bs, c.resend = [(t, dev, .chunk tag result o bs)] → exec (.readyResend i) s = .next ((s.setColl { c with resend := [] }).sendReq
      (.chunk c.cause) (.coll c.cause) dev 9 c.ctx 0 (cdMode c.desc) c.cause c.parent 0 (.chunk tag result o bs)))) ∧
  (∀ (s : State) i c o core ins s1, s.coll? i = some c → s.op? c.op = some o → o.fault = none → cdOp c.desc = 1 ∨ cdOp c.desc = 3 →
    c.reduced = false → c.counter = 0 → s.reduceCore c.ctx = some core → s.reduceInputs c = .ok ins → let d := c.desc
    s.agtStore (s.collAgt c) (cdDst d + BitVec.ofNat 64 (if cdOp d = 1 then cdSelf d * cdSegment d else 0))
      (reduceBytes (cdTag d) (cdRed d) ins (cdSegment d)) = .ok s1 →
    exec (.reducePanel i) s = .next ((((s1.opGoesOn c.op).emit (c.ev 0xA6 (core + cdName d * 2 ^ 8))).setColl { c with reduced := true }).collCheck i)) ∧
  (∀ (T : Tag) xs, fpTag T = false → T ≠ 0 → xs ≠ [] → xs.length ≤ 16 → (∀ x ∈ xs, x < 2 ^ tagWidth T) → reduceElem T 0 xs = xs.sum % 2 ^ tagWidth T) ∧
  (∀ (s : State) i c, s.coll? i = some c → c.cause.toNat = i → c.fired = false → c.done = false → c.watchAt ≤ s.time.gt → ∃ t z, exec (.collLate i) s = .next t ∧
    t.coll? i = some z ∧ z.fired = true ∧ z.late = (c.firstLate s.devNo).2.2 ∧ RegistersKept s t ∧
    t.async.outbox.length = s.async.outbox.length + (cdPeers c.desc).length) ∧
  (∀ (c : Coll) self, let late := (cdPeers c.desc).filter c.awaits
    (late = [] → (c.firstLate self).2.2 = self) ∧
    (late ≠ [] → ∃ j ∈ late, (c.firstLate self).2.2 = cdPart c.desc j ∧ ∀ k ∈ late, (c.at j).steps ≤ (c.at k).steps))

/-! ## Events of the part: debug, time and checkpoints -/

/-- R128, R413, R414, R416, R418, R420 and R452: the commands of the debug channel, and the stop that ends a step. -/
def Obligations.DebugChannel : Prop :=
  (∀ (s : State) sk k, s.skein? sk = some k →
    exec (.attach (.skein sk)) s = .next ((s.setSkein sk { k with attached := true }).reply true []) ∧
    exec (.detach sk) s = .next ((s.setSkein sk { k with attached := false }).reply k.attached []) ∧
    (k.attached = true → k.phase = .placed → k.stopped = false → (kkeys s.courses).Nodup → ∃ t, exec (.stop sk) s = .next t ∧ RegistersKept s t ∧
      MemoryKept s t ∧ (t.skein? sk).elim false (·.stopped) = true ∧ (∀ key c, kget t.courses key = some c → c.skein = sk → c.stopped = true) ∧
      t.dbg.replies = s.dbg.replies ++ [(true, [])]) ∧
    (k.stopped = true → (kkeys s.courses).Nodup → (kkeys s.panels).Nodup → ∃ t, exec (.resume sk) s = .next t ∧ RegistersKept s t ∧ t.mem = s.mem ∧
      (t.skein? sk).elim true (·.stopped) = false ∧ (∀ key c, kget s.courses key = some c → c.skein = sk → kget t.courses key = some c.goOn) ∧
      (∀ key p, kget s.panels key = some p → p.skein = sk → kget t.panels key = some { p with stopped := false }) ∧
      ∀ key c, kget s.courses key = some c → c.skein ≠ sk → kget t.courses key = some c) ∧
    (k.attached = false ∨ k.stopped = false → ∀ off n b, exec (.debugRead sk off n) s = .next (s.reply false []) ∧
      exec (.debugWrite sk off b) s = .next (s.reply false [])) ∧
    (k.attached = true → k.stopped = true → k.phase = .placed → s.stepsSkein sk = false → ∀ h x off n, s.skeinHdr sk = some h → imgPartAt h off = some x →
      let o := off - x.at_ h
      (n ≠ 0 → o + n ≤ x.size → exec (.debugRead sk off n) s = .next (s.reply true (((s.partBytes sk x).drop o).take n))) ∧
      ∀ b, b ≠ [] → o + b.length ≤ x.size → exec (.debugWrite sk off b) s =
        .next ((s.partWrite sk x ((s.partBytes sk x).take o ++ b ++ (s.partBytes sk x).drop (o + b.length))).reply true [])) ∧
    (∀ (base : Word) len, let ok := base.toNat % 64 = 0 ∧ len ≠ 0 ∧ len % 64 = 0 ∧ len < 2 ^ 32
      (ok → ∃ t, exec (.debugIcinv sk base len) s = .next t ∧ t.courses = s.courses ∧ t.mem = s.mem ∧
        ∀ core, (t.core core).icache = if core ∈ k.cores then (s.core core).icache.filter (fun y =>
          !(y.ctx == s.skeinCtx sk && decide (base.toNat ≤ y.line.toNat) && decide (y.line.toNat < base.toNat + len))) else (s.core core).icache) ∧
      (¬ ok → exec (.debugIcinv sk base len) s = .next (s.reply false []))) ∧
    (k.phase = .placed → s.stepsSkein sk = true → s.stepOver = true → ∀ core slot pc,
      exec (.debugStop sk { reason := 6, core, slot, pc }) s = .next (s.debugStop sk { reason := 6, core, slot, pc } none))) ∧
  (∀ (s : State) sk, s.skein? sk = none → ∀ i ∈ [Instr.attach (.skein sk), .detach sk, .stop sk, .resume sk, .debugIcinv sk 0 64],
    exec i s = .next (s.reply false [])) ∧
  (∀ (s : State) ctx gbase index, exec (.attach (.node ctx gbase index)) s =
    .next (({ s with dbg := { s.dbg with attachNodes := s.dbg.attachNodes ++ [(ctx, gbase, index)] } } : State).reply true [])) ∧
  (∀ (s : State) core slot c k, s.course? core slot = some c → c.orphan = none → s.skein? c.skein = some k → k.stopped = true → k.phase = .placed →
    s.dbg.stepping = none → exec (.stepCourse core slot) s =
      .next (({ (s.setCourse core slot c.goOn) with dbg := { s.dbg with stepping := some (core, c.pslot, some slot) } } : State).reply true [])) ∧
  (∀ (s : State) core i p k, s.panel? core i = some p → s.skein? p.skein = some k → k.stopped = true → k.phase = .placed →
    s.dbg.stepping = none → (kkeys s.courses).Nodup → ∃ t, exec (.stepPhase core i) s = .next t ∧ RegistersKept s t ∧ t.mem = s.mem ∧
      t.panel? core i = some { p with stopped := false } ∧ t.dbg.stepping = some (core, i, none) ∧
      ∀ slot c, slot < 32 → s.course? core slot = some c → t.course? core slot =
        some (if c.pslot = i ∧ c.orphan = none then c.goOn else c)) ∧
  (∀ s : State, ∃ t, exec .trigger s = .next t ∧ t.courses = s.courses ∧ t.mem = s.mem ∧ t.dbg.replies = s.dbg.replies ++ [(true, [])] ∧
    ((∀ t0, s.dbg.pulled = some t0 → t0 + 16000 ≤ s.time.gt) → t.dbg.pulled = some s.time.gt) ∧
    (∀ t0, s.dbg.pulled = some t0 → s.time.gt < t0 + 16000 → t.dbg.pulled = s.dbg.pulled ∧ t.dbg.snapshots = s.dbg.snapshots))

/-- R52, R77, R78 and R443 to R445: the master's two-step sync messages, the delay of a link and the discipline of a device's time; sealing a shard, and that VERIFY
answers 0x00 only for a list in which every shard passes every check. -/
def Obligations.TimeAndCheckpoints : Prop :=
  (∀ s : State, (s.isMaster = true → ∃ t, exec .syncInterval s = .next t ∧ t.time.lastSync = s.time.gt ∧ t.courses = s.courses ∧ t.mem = s.mem ∧
      t.time.ptpSeq = s.time.ptpSeq + 1 ∧
      ∃ l, t.async.outbox = s.async.outbox ++ l ∧ l.length = 2 * ((List.range s.domainSize).filter s.linkUp).length ∧
        ∀ p ∈ l, p.kind = 0x0C ∧ (p.body = .ptp s.ptpDomain (.sync s.time.ptpSeq none) ∨ p.body = .ptp s.ptpDomain (.followUp s.time.ptpSeq s.time.gt))) ∧
    (s.isMaster = false → exec .syncInterval s = .next s)) ∧
  (∀ (s : State) e, (s.isMaster = true → exec (.grandmasterMessage e) s = .next (s.discipline e)) ∧
    (s.isMaster = false → exec (.grandmasterMessage e) s = .next s)) ∧
  (∀ (s : State) p dom m, p.body = .ptp dom m → let src := p.src.toNat
    let got := exec (.fabricControl p) s
    let heard : TimeState := { s.time with master := some src }
    (dom ≠ s.ptpDomain → got = .next s) ∧
    (dom = s.ptpDomain → (∀ seq stamp, m = .sync seq stamp → s.isMaster = false →
        ((s.time.master = none ∨ ∃ d, s.time.master = some d ∧ src ≤ d) →
          (stamp = none → got = .next { s with time := { heard with syncIn := some (src, seq, s.time.gt) } }) ∧
          (∀ t, stamp = some t → got = .next (({ s with time := heard } : State).estimate src t s.time.gt))) ∧
        (∀ d, s.time.master = some d → d < src → got = .next s)) ∧
      (∀ seq t h, m = .followUp seq t → s.isMaster = false → s.time.syncIn = some (src, seq, h) → s.time.master = some src →
        got = .next (({ s with time := { s.time with syncIn := none } } : State).estimate src t h)) ∧
      (∀ seq, m = .pdelayReq seq → ∃ t a b, got = .next t ∧ t.async.outbox = s.async.outbox ++ [a, b] ∧ t.time = s.time ∧
        a.body = .ptp dom (.pdelayResp seq s.time.gt) ∧ b.body = .ptp dom (.pdelayFollowUp seq s.time.gt)) ∧
      (∀ seq t1 t2, m = .pdelayResp seq t2 → kget s.time.asking src = some (seq, t1, none) →
        got = .next { s with time := { s.time with asking := kset s.time.asking src (seq, t1, some (t2, s.time.gt)) } }) ∧
      (∀ seq (t1 t2 t3 t4 : Nat), m = .pdelayFollowUp seq t3 → kget s.time.asking src = some (seq, t1, some (t2, t4)) →
        got = .next { s with time := { s.time with
          asking := kdel s.time.asking src, delays := kset s.time.delays src ((((t4 : Int) - t1) - ((t3 : Int) - t2)) / 2) } }))) ∧
  (∀ (s : State) (from_ stamp heard : Nat) d, kget s.time.delays from_ = some d → let u := s.discipline ((heard : Int) - ((stamp : Int) + d))
    s.estimate from_ stamp heard = (if u.time.gt = s.time.gt then u else u.dropStamps).askDelay from_) ∧
  (∀ (s : State) e, let t := s.discipline e
    RegistersKept s t ∧ MemoryKept s t ∧
    (s.time.loaded = false → (t.time.gt : Int) = ((s.time.gt : Int) - e) % 2 ^ 64 ∧ t.time.loaded = true) ∧
    (s.time.loaded = true →
      (-16000000 ≤ e → t.time.gt = s.time.gt ∧ t.time.slew = e) ∧
      (e < -16000000 → (t.time.gt : Int) = ((s.time.gt : Int) - e) % 2 ^ 64 ∧ t.time.slew = 0) ∧
      (s.time.locked = false → e.natAbs ≤ 160 → 15 ≤ s.time.inBand → s.outranked = false → t.time.locked = true) ∧
      (s.time.locked = true → 160 < e.natAbs → 15 ≤ s.time.outBand → t.time.locked = false))) ∧
  (∀ (s : State) ctx a,
    (s.shardHeader ctx a = none → exec (.seal ctx a) s = .next (s.ckptReply 0x08)) ∧
    (∀ h, s.shardHeader ctx a = some h →
      ((∃ x ∈ s.async.ops, s.copyMeets ctx a (256 + shardPlen h) x.2 = true) →
        exec (.seal ctx a) s = .next (s.laterAt (s.time.gt + s.clockGt) (.seal ctx a))) ∧
      ((∀ x ∈ s.async.ops, s.copyMeets ctx a (256 + shardPlen h) x.2 = false) → ∀ pay s1, s.shardPayload ctx a h = some pay →
        s.writeRange (s.whoOf ctx) (a + 0x40) (sha384 pay ++ sha384 (h.take 0x40 ++ sha384 pay)) = .ok s1 →
        ∃ t, exec (.seal ctx a) s = .next t ∧ MemoryKept s1 t ∧ t.courses = s.courses ∧ t.dbg.ckptReplies = s.dbg.ckptReplies ++ [0]))) ∧
  (∀ (s : State) ctx (l : List Word) job result, ∃ t r, exec (.verify ctx l job result) s = .next t ∧ RegistersKept s t ∧
    t.dbg.ckptReplies = s.dbg.ckptReplies ++ [r] ∧ r ∈ [0x00, 0x01, 0x08] ∧
    (r = 0 → ((l.filterMap (s.shardHeader ctx)).map shardNo).Nodup ∧ ∃ step, ∀ a ∈ l, ∃ h pay, s.shardHeader ctx a = some h ∧
      s.shardPayload ctx a h = some pay ∧ hdrField h 0 4 = 0x00579C4B ∧ hdrField h 4 2 = 1 ∧ shardStep h = step ∧ shardCount h = l.length ∧
      hdrField h 8 16 = job.toNat ∧ (h.drop 0x40).take 48 = sha384 pay ∧ (h.drop 0x70).take 48 = sha384 (h.take 0x70)))

/-! ## Reset, steps and encodings -/

/-- R5, R52, R78 and R353: right after reset global time is 0, DOMAIN and TCTL hold their first values, time is not locked, every counter is
0, and no course, panel or skein is there. The values of log 1 (memory, engines, tables) are the model's choice. -/
def Obligations.ResetValues : Prop :=
  let s := State.reset
  s.time.gt = 0 ∧ s.time.domain = 0x0800 ∧ s.time.logsync.toInt = -3 ∧ s.time.locked = false ∧ s.dev.lifeIdx = 0 ∧ s.dev.powered = true ∧
    (∀ n, s.counter n = Counter.zero) ∧ (∀ c, s.engine c = Engine.zero) ∧ (∀ l, s.peek l = 0) ∧ memoryKept s ∧ (∀ c k, s.course? c k = none) ∧
    (∀ c k, s.panel? c k = none) ∧ (∀ i, s.skein? i = none) ∧ (∀ c, s.ctxEntry c = ContextEntry.zero ∧ s.ctxKilled c = false) ∧
    (∀ q, s.queue q = Queue.zero) ∧ (∀ n, kget s.dev.life n = none) ∧ s.focus = .none ∧ s.agenda = []

/-- R102, R116, R120, R123, R124, R137, R142, R414, R418 and R419, in the order of log 4: one step is one turn, and the turns go round. A course's turn runs, by exec, the
instruction that the slot at its head entry's PC decodes to, a sequencer's turn the one at its PC, an event's turn the event. -/
def Obligations.StepRuns : Prop :=
  (∀ s : State, s.dev.powered = false → (s.agenda = [] → step s = .next s) ∧
    ∀ it rest, s.agenda = it :: rest → let u := ({ s with agenda := rest, focus := .none } : State).passTo it.at_
      (∀ i, it.turn = .event i → actsUnpowered i = true → step s = exec i u) ∧
      ((∀ i, it.turn = .event i → actsUnpowered i = false) → step s = .next u)) ∧
  (∀ s s1 : State, s.dev.powered = true →
    (s.advance = (none, s1) → step s = .next s1) ∧
    (∀ i t, s.advance = (some (.event i), s1) → exec i { s1 with focus := .none } = .next t → step s = .next { t with focus := .none }) ∧
    (∀ core slot c0 E s2 i t, s.advance = (some (.course core slot), s1) → s1.course? core slot = some c0 → let c := c0.polled
      headEntry c.front = some E → (E.wait = .none → c.stepsNow = false ∧ c.breakpoint E.pc = none) →
      (s1.setCourse core slot c).fetched core slot c E = (s2, .ok i) →
      let s3 := if c.level = 0 then s2.modCourse core slot (fun c => { c with started := true }) else s2
      s3.scoreboard core c E i = false → exec i { s3 with focus := .course core slot } = .next t → let t1 : State := { t with focus := .none }
      t1.heldAt core slot E = false → step s = .next (if t.focus = .course core slot then { (t1.stepped core slot) with focus := .none } else t1)) ∧
    (∀ core k p s2 i t, s.advance = (some (.stream core k), s1) → s1.panel? core k = some p → p.ending = false → s1.seqFetched core p = (s2, .ok i) →
      exec i { (s2.modPanel core k (fun p => { p with sstarted := true })) with focus := .stream core k } = .next t →
      step s = .next { t with focus := .none })) ∧
  (∀ (s : State) core slot (c : Course) E x i, let w := s.courseWho core c
    c.started = true ∨ c.level ≠ 0 → (s.icFind core w.ctx (pcLine E.pc) = some x ∨ (s.icFind core w.ctx (pcLine E.pc) = none ∧
      ∃ bits, s.fillRead w (pcLine E.pc) = .ok bits ∧ x = icMark w.ctx (pcLine E.pc) bits)) →
    x.lbad = false → lineReservedOk x.bits = true → x.sbad.getLsbD (pcSlot E.pc) = false → decodeSlot false (lineSlot x.bits (pcSlot E.pc)) = .ok i →
    s.fetched core slot c E = (s.icPut core x, .ok i)) ∧
  (∀ (s : State) core (p : Panel) x i, let w := s.skeinWho p.skein core none
    p.sstarted = true → s.icFind core w.ctx (pcLine p.spc) = some x → x.lbad = false → lineReservedOk x.bits = true →
    x.sbad.getLsbD (pcSlot p.spc) = false → decodeSlot true (lineSlot x.bits (pcSlot p.spc)) = .ok i →
    s.seqFetched core p = (s.icPut core x, .ok i)) ∧
  (∀ (s : State) l t, s.nextTurn l = some t → t ∈ l ∧ ∀ u ∈ l, keyBefore s.rotor u.key = true →
    keyBefore s.rotor t.key = true ∧ keyBefore u.key t.key = false) ∧
  (∀ (s : State) it rest, s.placementDue = [] →
    s.reqTimers ++ s.collTimers ++ s.faultTimers ++ s.sampleTimers ++ s.syncTimer ++ s.launcherTimer ++ s.partTimers = [] →
    s.agenda = it :: rest → (∀ u, s.nextTurn s.turns = some u → it.at_ < s.time.gt + s.turnGt u) → s.advance = (some it.turn, ({ s with agenda := rest } : State).passTo it.at_))

/-- R104 to R111, R114 and R116: some words, each written out from the layout of a slot, and what they decode to; and words refused. -/
def Obligations.DecodeWords : Prop :=
  decodeSlot false 0x2D2B0A83000000000000000A = .ok (.cmp ⟨⟨⟨false, 0⟩, 0x2B, .p 2, .w 3, .w 0, .w 0, false⟩, 0, 0xA⟩) ∧
  decodeSlot false 0x0201B0050000FFFFFFF30010 = .ok (.brp ⟨⟨⟨true, 3⟩, 0x01, .w 0, .w 5, .w 0, .w 0, false⟩, 0, 0x1FFFFFFE, 3, 0x10⟩) ∧
  decodeSlot false 0x601301C26407FFFFFFFFFFF0 = .ok (.ld ⟨⟨⟨false, 0⟩, 0x13, .w 7, .w 2, .k 1, .w 0, false⟩, 3, true, 0xFFFFFFFFFFF0⟩) ∧
  decodeSlot false 0x108208628C00000000000000 = .ok (.add ⟨⟨⟨false, 0⟩, 0x82, .v 1, .v 2, .v 3, .w 0, false⟩, 0, 0x0⟩) ∧
  decodeSlot false 0x220322480009000000000000 = .ok (.ctz ⟨⟨⟨false, 2⟩, 0x03, .w 9, .w 8, .w 0, .w 0, true⟩, 1, 0x0⟩) ∧
  decodeSlot false 0x030000041400000C0000BEEF = .ok (.jtb ⟨⟨⟨false, 0⟩, 0x00, .w 0, .w 4, .w 5, .w 0, false⟩, 0, 0xC, 0x0, 0xBEEF⟩) ∧
  decodeSlot false 0x335500420C40000000000000 = .ok (.fma ⟨⟨⟨false, 0⟩, 0x55, .w 1, .w 2, .w 3, .w 4, false⟩, 0, 0x0⟩) ∧
  decodeSlot false 0x81090CC10800000000010021 = .ok (.tfch ⟨⟨⟨false, 0⟩, 0x09, .t 3, .w 1, .w 2, .w 0, false⟩, 0, 0x10021⟩) ∧
  decodeSlot false 0xC300001E0000000000000015 = .ok (.swr ⟨⟨⟨false, 0⟩, 0x00, .w 0, .k 6, .w 0, .w 0, false⟩, 0, 0x15⟩) ∧
  decodeSlot true 0x980000000000000001230005 = .ok (.sba ⟨⟨⟨false, 0⟩, 0x00, .w 0, .w 0, .w 0, .w 0, false⟩, 0, 0x1230005⟩) ∧
  decodeSlot false 0x0A0000000000000000000000 = .error ⟨0x01, 0x7F⟩ ∧
  decodeSlot false 0x940000000000000000000000 = .error ⟨0x05, 0x7F⟩ ∧
  decodeSlot false 0x220302480005000000000000 = .error ⟨0x02, 0x7F⟩ ∧
  decodeSlot false 0x000000000000000000000010 = .error ⟨0x03, 4⟩ ∧
  decodeSlot false 0x2D030AA11000000000000000 = .error ⟨0x04, 64⟩ ∧
  decodeSlot false 0x100306010800000000000000 = .error ⟨0x07, 70⟩

/-- R104 to R116: encoding a well-formed instruction and decoding the slot gives the instruction back, whatever its operands. -/
def Obligations.EncodingRoundTrip : Prop :=
  ∀ stream i, Instr.wellFormed stream i = true → decodeSlot stream (encode i) = .ok i

/-- R8 and R244: every step keeps the canonical form of every memory: its addresses rise, and no listed byte is the one that an unlisted
address reads as. -/
def Obligations.MemoryInvariant : Prop := ∀ s t : State, memoryKept s → step s = .next t → memoryKept t
end

