-- ==== Sys2Proof/Laws/Maps.lean ====
section
/-! SUPPORT. Laws of the sparse tables and of a memory: what a read gives after a write, and that the canonical form is kept. -/
set_option Elab.async false
namespace Sys2Proof.Laws
open Sys2Proof.Machine

/-! ## Tables -/

variable {α : Type}

theorem kget_kset_self (m : KMap α) (k : Nat) (a : α) : kget (kset m k a) k = some a := by
  induction m with
  | nil => simp [kset, kget]
  | cons x t ih =>
    obtain ⟨j, b⟩ := x
    simp only [kset]
    split
    · simp [kget]
    · split
      · simp [kget]
      · next h1 h2 => simp [kget, Ne.symm h2, ih]

theorem kget_kset_ne {m : KMap α} {k j : Nat} (h : j ≠ k) (a : α) : kget (kset m k a) j = kget m j := by
  induction m with
  | nil => simp [kset, kget, Ne.symm h]
  | cons x t ih =>
    obtain ⟨i, b⟩ := x
    simp only [kset]
    split
    · simp [kget, Ne.symm h]
    · split
      · next h1 h2 => subst h2; simp [kget, Ne.symm h]
      · simp only [kget, ih]

theorem kget_kset (m : KMap α) (k j : Nat) (a : α) : kget (kset m k a) j = if j = k then some a else kget m j := by
  split
  · next h => subst h; exact kget_kset_self m j a
  · next h => exact kget_kset_ne h a

theorem kget_kmod_ne {m : KMap α} {k j : Nat} (h : j ≠ k) (f : α → α) : kget (kmod m k f) j = kget m j := by
  unfold kmod
  split
  · exact kget_kset_ne h _
  · rfl

theorem kget_kmod_self {m : KMap α} {k : Nat} {a : α} (h : kget m k = some a) (f : α → α) :
    kget (kmod m k f) k = some (f a) := by
  simp [kmod, h, kget_kset_self]

/-- A key that stands before a rising table is not in it. -/
theorem kget_none_of_lt {m : KMap α} {k j : Nat} {a : α} (h : krising ((j, a) :: m) = true) (hk : k ≤ j) : kget m k = none := by
  induction m generalizing j a with
  | nil => rfl
  | cons x t ih =>
    obtain ⟨i, b⟩ := x
    simp only [krising, Bool.and_eq_true, decide_eq_true_eq] at h
    simp only [kget]
    rw [if_neg (by omega)]
    exact ih h.2 (by omega)

theorem krising_tail {m : KMap α} {x : Nat × α} (h : krising (x :: m) = true) : krising m = true := by
  cases m with
  | nil => rfl
  | cons y t => simp only [krising, Bool.and_eq_true] at h; exact h.2

/-- A rising table may get a new first entry below its first. -/
theorem krising_cons {m : KMap α} {k : Nat} {a : α} (h : krising m = true) (hk : ∀ j b t, m = (j, b) :: t → k < j) :
    krising ((k, a) :: m) = true := by
  cases m with
  | nil => rfl
  | cons y t =>
    obtain ⟨j, b⟩ := y
    simp only [krising, Bool.and_eq_true, decide_eq_true_eq]
    exact ⟨hk j b t rfl, h⟩

theorem kset_head (m : KMap α) (k : Nat) (a : α) :
    ∀ j b t, kset m k a = (j, b) :: t → j = k ∨ ∃ b' t', m = (j, b') :: t' := by
  intro j b t h
  cases m with
  | nil => simp [kset] at h; exact .inl h.1.1.symm
  | cons x u =>
    obtain ⟨i, c⟩ := x
    simp only [kset] at h
    split at h
    · simp only [List.cons.injEq, Prod.mk.injEq] at h; exact .inl h.1.1.symm
    · split at h
      · simp only [List.cons.injEq, Prod.mk.injEq] at h; exact .inl h.1.1.symm
      · simp only [List.cons.injEq, Prod.mk.injEq] at h; exact .inr ⟨c, u, by simp [h.1.1]⟩

theorem krising_kset {m : KMap α} (h : krising m = true) (k : Nat) (a : α) : krising (kset m k a) = true := by
  induction m with
  | nil => rfl
  | cons x t ih =>
    obtain ⟨i, b⟩ := x
    simp only [kset]
    split
    · next hlt => exact krising_cons h (fun j c u e => by simp only [List.cons.injEq, Prod.mk.injEq] at e; omega)
    · split
      · next _ he => subst he; exact krising_cons (krising_tail h) (fun j c u e => by subst e; simp only [krising, Bool.and_eq_true, decide_eq_true_eq] at h; exact h.1)
      · next hlt hne =>
        refine krising_cons (ih (krising_tail h)) (fun j c u e => ?_)
        rcases kset_head t k a j c u e with rfl | ⟨b', t', rfl⟩
        · omega
        · simp only [krising, Bool.and_eq_true, decide_eq_true_eq] at h; exact h.1

theorem kdel_head {m : KMap α} {k : Nat} (h : krising m = true) :
    ∀ j b t, kdel m k = (j, b) :: t → ∀ i c u, m = (i, c) :: u → i ≤ j := by
  induction m with
  | nil => intro j b t e; simp [kdel] at e
  | cons x v ih =>
    intro j b t e i c u hm
    obtain ⟨i', c'⟩ := x
    simp only [List.cons.injEq, Prod.mk.injEq] at hm
    simp only [kdel] at e
    split at e
    · cases v with
      | nil => simp [kdel] at e
      | cons y v =>
        obtain ⟨l, d⟩ := y
        have := ih (krising_tail h) j b t e l d v rfl
        simp only [krising, Bool.and_eq_true, decide_eq_true_eq] at h
        omega
    · simp only [List.cons.injEq, Prod.mk.injEq] at e; omega

theorem krising_kdel {m : KMap α} (h : krising m = true) (k : Nat) : krising (kdel m k) = true := by
  induction m with
  | nil => rfl
  | cons x t ih =>
    obtain ⟨i, b⟩ := x
    simp only [kdel]
    split
    · exact ih (krising_tail h)
    · refine krising_cons (ih (krising_tail h)) (fun j c u e => ?_)
      cases t with
      | nil => simp [kdel] at e
      | cons y v =>
        obtain ⟨l, d⟩ := y
        have := kdel_head (krising_tail h) j c u e l d v rfl
        simp only [krising, Bool.and_eq_true, decide_eq_true_eq] at h
        omega

theorem kget_kdel_ne {m : KMap α} {k j : Nat} (h : j ≠ k) : kget (kdel m k) j = kget m j := by
  induction m with
  | nil => rfl
  | cons x t ih =>
    obtain ⟨i, b⟩ := x
    simp only [kdel]
    split
    · next he => subst he; rw [ih]; simp [kget, Ne.symm h]
    · simp only [kget, ih]

theorem kget_kdel_self (m : KMap α) (k : Nat) : kget (kdel m k) k = none := by
  induction m with
  | nil => rfl
  | cons x t ih =>
    obtain ⟨i, b⟩ := x
    simp only [kdel]
    split
    · exact ih
    · next he => simp only [kget]; rw [if_neg he]; exact ih

theorem mem_kset {m : KMap α} {k : Nat} {a : α} {x : Nat × α} (h : x ∈ kset m k a) : x = (k, a) ∨ x ∈ m := by
  induction m with
  | nil => simp only [kset, List.mem_cons, List.not_mem_nil, or_false] at h; exact .inl h
  | cons y t ih =>
    obtain ⟨i, b⟩ := y
    simp only [kset] at h
    split at h
    · rcases List.mem_cons.1 h with h | h
      · exact .inl h
      · exact .inr h
    · split at h
      · rcases List.mem_cons.1 h with h | h
        · exact .inl h
        · exact .inr (List.mem_cons_of_mem _ h)
      · rcases List.mem_cons.1 h with h | h
        · exact .inr (h ▸ List.mem_cons_self)
        · exact (ih h).imp id (List.mem_cons_of_mem _)

theorem mem_kdel {m : KMap α} {k : Nat} {x : Nat × α} (h : x ∈ kdel m k) : x ∈ m := by
  induction m with
  | nil => exact h
  | cons y t ih =>
    obtain ⟨i, b⟩ := y
    simp only [kdel] at h
    split at h
    · exact List.mem_cons_of_mem _ (ih h)
    · rcases List.mem_cons.1 h with h | h
      · exact h ▸ List.mem_cons_self
      · exact List.mem_cons_of_mem _ (ih h)

/-! ## A memory -/

theorem wf_iff (m : Memory) : Memory.wf m = true ↔ krising m = true ∧ ∀ x ∈ m, x.2 ≠ 0 := by
  simp [Memory.wf]

theorem wf_write {m : Memory} (h : Memory.wf m = true) (a : Nat) (b : Byte) : Memory.wf (Memory.write m a b) = true := by
  rw [wf_iff] at h ⊢
  unfold Memory.write
  split
  · exact ⟨krising_kdel h.1 a, fun x hx => h.2 x (mem_kdel hx)⟩
  · next hb =>
    refine ⟨krising_kset h.1 a b, fun x hx => ?_⟩
    rcases mem_kset hx with rfl | hx
    · exact hb
    · exact h.2 x hx

theorem wf_writeList {m : Memory} (h : Memory.wf m = true) (a : Nat) (l : List Byte) :
    Memory.wf (Memory.writeList m a l) = true := by
  induction l generalizing m a with
  | nil => exact h
  | cons b t ih => exact ih (wf_write h a b) (a + 1)

theorem read_write_ne {m : Memory} {a b : Nat} (h : b ≠ a) (v : Byte) : Memory.read (Memory.write m a v) b = Memory.read m b := by
  unfold Memory.read Memory.write
  split
  · rw [kget_kdel_ne h]
  · rw [kget_kset_ne h]

theorem read_write_self (m : Memory) (a : Nat) (v : Byte) : Memory.read (Memory.write m a v) a = v := by
  unfold Memory.read Memory.write
  split
  · next hv => rw [kget_kdel_self]; simp [hv]
  · rw [kget_kset_self]; rfl

/-- Outside the written bytes nothing changes. -/
theorem read_writeList_out {m : Memory} (a : Nat) (l : List Byte) {b : Nat} (h : b < a ∨ a + l.length ≤ b) :
    Memory.read (Memory.writeList m a l) b = Memory.read m b := by
  induction l generalizing m a with
  | nil => rfl
  | cons v t ih =>
    simp only [List.length_cons] at h
    simp only [Memory.writeList]
    rw [ih (a + 1) (by omega), read_write_ne (by omega)]

/-- Within them each byte reads as written. -/
theorem read_writeList_in (m : Memory) (a : Nat) (l : List Byte) {i : Nat} (hi : i < l.length) :
    Memory.read (Memory.writeList m a l) (a + i) = l[i] := by
  induction l generalizing m a i with
  | nil => simp at hi
  | cons v t ih =>
    simp only [Memory.writeList]
    cases i with
    | zero => rw [read_writeList_out _ _ (by omega), Nat.add_zero, read_write_self]; rfl
    | succ i =>
      have := ih (Memory.write m a v) (a + 1) (i := i) (by simpa using hi)
      rw [show a + (i + 1) = a + 1 + i by omega, this]; rfl

theorem readList_writeList (m : Memory) (a : Nat) (l : List Byte) :
    Memory.readList (Memory.writeList m a l) a l.length = l := by
  induction l generalizing m a with
  | nil => rfl
  | cons v t ih =>
    simp only [List.length_cons, Memory.readList, Memory.writeList]
    rw [ih (Memory.write m a v) (a + 1), read_writeList_out _ _ (by omega), read_write_self]

/-- Two memories in canonical form that read alike are equal data. -/
theorem eq_of_read {m n : Memory} (hm : Memory.wf m = true) (hn : Memory.wf n = true)
    (h : ∀ a, Memory.read m a = Memory.read n a) : m = n := by
  have key : ∀ (m : Memory) (a : Nat) (b : Byte), Memory.wf ((a, b) :: m) = true → Memory.read ((a, b) :: m) a = b ∧ b ≠ 0 := by
    intro m a b hw
    exact ⟨by simp [Memory.read, kget], ((wf_iff _).1 hw).2 (a, b) List.mem_cons_self⟩
  have low : ∀ (m : Memory) (a : Nat) (b : Byte) (j : Nat), Memory.wf ((a, b) :: m) = true → j < a → Memory.read ((a, b) :: m) j = 0 := by
    intro m a b j hw hj
    simp only [Memory.read, kget]
    rw [if_neg (by omega), kget_none_of_lt ((wf_iff _).1 hw).1 (by omega)]; rfl
  induction m generalizing n with
  | nil =>
    cases n with
    | nil => rfl
    | cons x t => obtain ⟨a, b⟩ := x; have := key t a b hn; have e := h a; rw [this.1] at e; exact absurd e.symm this.2
  | cons x t ih =>
    obtain ⟨a, b⟩ := x
    have ka := key t a b hm
    cases n with
    | nil => have e := h a; rw [ka.1] at e; exact absurd e ka.2
    | cons y u =>
      obtain ⟨c, d⟩ := y
      have kc := key u c d hn
      have hac : a = c := by
        rcases Nat.lt_trichotomy a c with hlt | he | hgt
        · have e := h a; rw [ka.1, low u c d a hn hlt] at e; exact absurd e ka.2
        · exact he
        · have e := h c; rw [kc.1, low t a b c hm hgt] at e; exact absurd e.symm kc.2
      subst hac
      have hbd : b = d := by have e := h a; rw [ka.1, kc.1] at e; exact e
      subst hbd
      have wt : Memory.wf t = true := (wf_iff _).2 ⟨krising_tail ((wf_iff _).1 hm).1, fun x hx => ((wf_iff _).1 hm).2 x (List.mem_cons_of_mem _ hx)⟩
      have wu : Memory.wf u = true := (wf_iff _).2 ⟨krising_tail ((wf_iff _).1 hn).1, fun x hx => ((wf_iff _).1 hn).2 x (List.mem_cons_of_mem _ hx)⟩
      rw [ih wt wu (fun j => ?_)]
      by_cases hj : j = a
      · subst hj
        simp only [Memory.read]
        rw [kget_none_of_lt ((wf_iff _).1 hm).1 (Nat.le_refl _), kget_none_of_lt ((wf_iff _).1 hn).1 (Nat.le_refl _)]
      · have e := h j
        simp only [Memory.read, kget] at e ⊢
        rwa [if_neg (Ne.symm hj), if_neg (Ne.symm hj)] at e

end Sys2Proof.Laws
end

