-- ==== Sys2Proof/Laws/State.lean ====
section
/-! SUPPORT. What each update of the state leaves as it was, field by field, and what it makes of the table it changes. -/
set_option Elab.async false
namespace Sys2Proof.Laws
open Sys2Proof.Machine

variable (s : State)

/-! ### State.setCourse -/

@[simp] theorem setCourse_dev (core slot : Nat) (c : Course) : (s.setCourse core slot c).dev = s.dev := rfl
@[simp] theorem setCourse_time (core slot : Nat) (c : Course) : (s.setCourse core slot c).time = s.time := rfl
@[simp] theorem setCourse_firn (core slot : Nat) (c : Course) : (s.setCourse core slot c).firn = s.firn := rfl
@[simp] theorem setCourse_tables (core slot : Nat) (c : Course) : (s.setCourse core slot c).tables = s.tables := rfl
@[simp] theorem setCourse_mem (core slot : Nat) (c : Course) : (s.setCourse core slot c).mem = s.mem := rfl
@[simp] theorem setCourse_work (core slot : Nat) (c : Course) : (s.setCourse core slot c).work = s.work := rfl
@[simp] theorem setCourse_cores (core slot : Nat) (c : Course) : (s.setCourse core slot c).cores = s.cores := rfl
@[simp] theorem setCourse_panels (core slot : Nat) (c : Course) : (s.setCourse core slot c).panels = s.panels := rfl
@[simp] theorem setCourse_async (core slot : Nat) (c : Course) : (s.setCourse core slot c).async = s.async := rfl
@[simp] theorem setCourse_dbg (core slot : Nat) (c : Course) : (s.setCourse core slot c).dbg = s.dbg := rfl
@[simp] theorem setCourse_agenda (core slot : Nat) (c : Course) : (s.setCourse core slot c).agenda = s.agenda := rfl
@[simp] theorem setCourse_focus (core slot : Nat) (c : Course) : (s.setCourse core slot c).focus = s.focus := rfl
@[simp] theorem setCourse_rotor (core slot : Nat) (c : Course) : (s.setCourse core slot c).rotor = s.rotor := rfl
@[simp] theorem setCourse_freeCount (core slot : Nat) (c : Course) : (s.setCourse core slot c).freeCount = s.freeCount := rfl

/-! ### State.modCourse -/

@[simp] theorem modCourse_dev (core slot : Nat) (f : Course → Course) : (s.modCourse core slot f).dev = s.dev := rfl
@[simp] theorem modCourse_time (core slot : Nat) (f : Course → Course) : (s.modCourse core slot f).time = s.time := rfl
@[simp] theorem modCourse_firn (core slot : Nat) (f : Course → Course) : (s.modCourse core slot f).firn = s.firn := rfl
@[simp] theorem modCourse_tables (core slot : Nat) (f : Course → Course) : (s.modCourse core slot f).tables = s.tables := rfl
@[simp] theorem modCourse_mem (core slot : Nat) (f : Course → Course) : (s.modCourse core slot f).mem = s.mem := rfl
@[simp] theorem modCourse_work (core slot : Nat) (f : Course → Course) : (s.modCourse core slot f).work = s.work := rfl
@[simp] theorem modCourse_cores (core slot : Nat) (f : Course → Course) : (s.modCourse core slot f).cores = s.cores := rfl
@[simp] theorem modCourse_panels (core slot : Nat) (f : Course → Course) : (s.modCourse core slot f).panels = s.panels := rfl
@[simp] theorem modCourse_async (core slot : Nat) (f : Course → Course) : (s.modCourse core slot f).async = s.async := rfl
@[simp] theorem modCourse_dbg (core slot : Nat) (f : Course → Course) : (s.modCourse core slot f).dbg = s.dbg := rfl
@[simp] theorem modCourse_agenda (core slot : Nat) (f : Course → Course) : (s.modCourse core slot f).agenda = s.agenda := rfl
@[simp] theorem modCourse_focus (core slot : Nat) (f : Course → Course) : (s.modCourse core slot f).focus = s.focus := rfl
@[simp] theorem modCourse_rotor (core slot : Nat) (f : Course → Course) : (s.modCourse core slot f).rotor = s.rotor := rfl
@[simp] theorem modCourse_freeCount (core slot : Nat) (f : Course → Course) : (s.modCourse core slot f).freeCount = s.freeCount := rfl

/-! ### State.dropCourse -/

@[simp] theorem dropCourse_dev (core slot : Nat) : (s.dropCourse core slot).dev = s.dev := rfl
@[simp] theorem dropCourse_time (core slot : Nat) : (s.dropCourse core slot).time = s.time := rfl
@[simp] theorem dropCourse_firn (core slot : Nat) : (s.dropCourse core slot).firn = s.firn := rfl
@[simp] theorem dropCourse_tables (core slot : Nat) : (s.dropCourse core slot).tables = s.tables := rfl
@[simp] theorem dropCourse_mem (core slot : Nat) : (s.dropCourse core slot).mem = s.mem := rfl
@[simp] theorem dropCourse_work (core slot : Nat) : (s.dropCourse core slot).work = s.work := rfl
@[simp] theorem dropCourse_cores (core slot : Nat) : (s.dropCourse core slot).cores = s.cores := rfl
@[simp] theorem dropCourse_panels (core slot : Nat) : (s.dropCourse core slot).panels = s.panels := rfl
@[simp] theorem dropCourse_async (core slot : Nat) : (s.dropCourse core slot).async = s.async := rfl
@[simp] theorem dropCourse_dbg (core slot : Nat) : (s.dropCourse core slot).dbg = s.dbg := rfl
@[simp] theorem dropCourse_agenda (core slot : Nat) : (s.dropCourse core slot).agenda = s.agenda := rfl
@[simp] theorem dropCourse_focus (core slot : Nat) : (s.dropCourse core slot).focus = s.focus := rfl
@[simp] theorem dropCourse_rotor (core slot : Nat) : (s.dropCourse core slot).rotor = s.rotor := rfl
@[simp] theorem dropCourse_freeCount (core slot : Nat) : (s.dropCourse core slot).freeCount = s.freeCount := rfl

/-! ### State.setPanel -/

@[simp] theorem setPanel_dev (core k : Nat) (p : Panel) : (s.setPanel core k p).dev = s.dev := rfl
@[simp] theorem setPanel_time (core k : Nat) (p : Panel) : (s.setPanel core k p).time = s.time := rfl
@[simp] theorem setPanel_firn (core k : Nat) (p : Panel) : (s.setPanel core k p).firn = s.firn := rfl
@[simp] theorem setPanel_tables (core k : Nat) (p : Panel) : (s.setPanel core k p).tables = s.tables := rfl
@[simp] theorem setPanel_mem (core k : Nat) (p : Panel) : (s.setPanel core k p).mem = s.mem := rfl
@[simp] theorem setPanel_work (core k : Nat) (p : Panel) : (s.setPanel core k p).work = s.work := rfl
@[simp] theorem setPanel_cores (core k : Nat) (p : Panel) : (s.setPanel core k p).cores = s.cores := rfl
@[simp] theorem setPanel_courses (core k : Nat) (p : Panel) : (s.setPanel core k p).courses = s.courses := rfl
@[simp] theorem setPanel_async (core k : Nat) (p : Panel) : (s.setPanel core k p).async = s.async := rfl
@[simp] theorem setPanel_dbg (core k : Nat) (p : Panel) : (s.setPanel core k p).dbg = s.dbg := rfl
@[simp] theorem setPanel_agenda (core k : Nat) (p : Panel) : (s.setPanel core k p).agenda = s.agenda := rfl
@[simp] theorem setPanel_focus (core k : Nat) (p : Panel) : (s.setPanel core k p).focus = s.focus := rfl
@[simp] theorem setPanel_rotor (core k : Nat) (p : Panel) : (s.setPanel core k p).rotor = s.rotor := rfl
@[simp] theorem setPanel_freeCount (core k : Nat) (p : Panel) : (s.setPanel core k p).freeCount = s.freeCount := rfl

/-! ### State.modPanel -/

@[simp] theorem modPanel_dev (core k : Nat) (f : Panel → Panel) : (s.modPanel core k f).dev = s.dev := rfl
@[simp] theorem modPanel_time (core k : Nat) (f : Panel → Panel) : (s.modPanel core k f).time = s.time := rfl
@[simp] theorem modPanel_firn (core k : Nat) (f : Panel → Panel) : (s.modPanel core k f).firn = s.firn := rfl
@[simp] theorem modPanel_tables (core k : Nat) (f : Panel → Panel) : (s.modPanel core k f).tables = s.tables := rfl
@[simp] theorem modPanel_mem (core k : Nat) (f : Panel → Panel) : (s.modPanel core k f).mem = s.mem := rfl
@[simp] theorem modPanel_work (core k : Nat) (f : Panel → Panel) : (s.modPanel core k f).work = s.work := rfl
@[simp] theorem modPanel_cores (core k : Nat) (f : Panel → Panel) : (s.modPanel core k f).cores = s.cores := rfl
@[simp] theorem modPanel_courses (core k : Nat) (f : Panel → Panel) : (s.modPanel core k f).courses = s.courses := rfl
@[simp] theorem modPanel_async (core k : Nat) (f : Panel → Panel) : (s.modPanel core k f).async = s.async := rfl
@[simp] theorem modPanel_dbg (core k : Nat) (f : Panel → Panel) : (s.modPanel core k f).dbg = s.dbg := rfl
@[simp] theorem modPanel_agenda (core k : Nat) (f : Panel → Panel) : (s.modPanel core k f).agenda = s.agenda := rfl
@[simp] theorem modPanel_focus (core k : Nat) (f : Panel → Panel) : (s.modPanel core k f).focus = s.focus := rfl
@[simp] theorem modPanel_rotor (core k : Nat) (f : Panel → Panel) : (s.modPanel core k f).rotor = s.rotor := rfl
@[simp] theorem modPanel_freeCount (core k : Nat) (f : Panel → Panel) : (s.modPanel core k f).freeCount = s.freeCount := rfl

/-! ### State.setCore -/

@[simp] theorem setCore_dev (c : Nat) (v : Core) : (s.setCore c v).dev = s.dev := rfl
@[simp] theorem setCore_time (c : Nat) (v : Core) : (s.setCore c v).time = s.time := rfl
@[simp] theorem setCore_firn (c : Nat) (v : Core) : (s.setCore c v).firn = s.firn := rfl
@[simp] theorem setCore_tables (c : Nat) (v : Core) : (s.setCore c v).tables = s.tables := rfl
@[simp] theorem setCore_mem (c : Nat) (v : Core) : (s.setCore c v).mem = s.mem := rfl
@[simp] theorem setCore_work (c : Nat) (v : Core) : (s.setCore c v).work = s.work := rfl
@[simp] theorem setCore_panels (c : Nat) (v : Core) : (s.setCore c v).panels = s.panels := rfl
@[simp] theorem setCore_courses (c : Nat) (v : Core) : (s.setCore c v).courses = s.courses := rfl
@[simp] theorem setCore_async (c : Nat) (v : Core) : (s.setCore c v).async = s.async := rfl
@[simp] theorem setCore_dbg (c : Nat) (v : Core) : (s.setCore c v).dbg = s.dbg := rfl
@[simp] theorem setCore_agenda (c : Nat) (v : Core) : (s.setCore c v).agenda = s.agenda := rfl
@[simp] theorem setCore_focus (c : Nat) (v : Core) : (s.setCore c v).focus = s.focus := rfl
@[simp] theorem setCore_rotor (c : Nat) (v : Core) : (s.setCore c v).rotor = s.rotor := rfl
@[simp] theorem setCore_freeCount (c : Nat) (v : Core) : (s.setCore c v).freeCount = s.freeCount := rfl

/-! ### State.modCore -/

@[simp] theorem modCore_dev (c : Nat) (f : Core → Core) : (s.modCore c f).dev = s.dev := rfl
@[simp] theorem modCore_time (c : Nat) (f : Core → Core) : (s.modCore c f).time = s.time := rfl
@[simp] theorem modCore_firn (c : Nat) (f : Core → Core) : (s.modCore c f).firn = s.firn := rfl
@[simp] theorem modCore_tables (c : Nat) (f : Core → Core) : (s.modCore c f).tables = s.tables := rfl
@[simp] theorem modCore_mem (c : Nat) (f : Core → Core) : (s.modCore c f).mem = s.mem := rfl
@[simp] theorem modCore_work (c : Nat) (f : Core → Core) : (s.modCore c f).work = s.work := rfl
@[simp] theorem modCore_panels (c : Nat) (f : Core → Core) : (s.modCore c f).panels = s.panels := rfl
@[simp] theorem modCore_courses (c : Nat) (f : Core → Core) : (s.modCore c f).courses = s.courses := rfl
@[simp] theorem modCore_async (c : Nat) (f : Core → Core) : (s.modCore c f).async = s.async := rfl
@[simp] theorem modCore_dbg (c : Nat) (f : Core → Core) : (s.modCore c f).dbg = s.dbg := rfl
@[simp] theorem modCore_agenda (c : Nat) (f : Core → Core) : (s.modCore c f).agenda = s.agenda := rfl
@[simp] theorem modCore_focus (c : Nat) (f : Core → Core) : (s.modCore c f).focus = s.focus := rfl
@[simp] theorem modCore_rotor (c : Nat) (f : Core → Core) : (s.modCore c f).rotor = s.rotor := rfl
@[simp] theorem modCore_freeCount (c : Nat) (f : Core → Core) : (s.modCore c f).freeCount = s.freeCount := rfl

/-! ### State.modEngine -/

@[simp] theorem modEngine_dev (c : Nat) (f : Engine → Engine) : (s.modEngine c f).dev = s.dev := rfl
@[simp] theorem modEngine_time (c : Nat) (f : Engine → Engine) : (s.modEngine c f).time = s.time := rfl
@[simp] theorem modEngine_firn (c : Nat) (f : Engine → Engine) : (s.modEngine c f).firn = s.firn := rfl
@[simp] theorem modEngine_tables (c : Nat) (f : Engine → Engine) : (s.modEngine c f).tables = s.tables := rfl
@[simp] theorem modEngine_mem (c : Nat) (f : Engine → Engine) : (s.modEngine c f).mem = s.mem := rfl
@[simp] theorem modEngine_work (c : Nat) (f : Engine → Engine) : (s.modEngine c f).work = s.work := rfl
@[simp] theorem modEngine_panels (c : Nat) (f : Engine → Engine) : (s.modEngine c f).panels = s.panels := rfl
@[simp] theorem modEngine_courses (c : Nat) (f : Engine → Engine) : (s.modEngine c f).courses = s.courses := rfl
@[simp] theorem modEngine_async (c : Nat) (f : Engine → Engine) : (s.modEngine c f).async = s.async := rfl
@[simp] theorem modEngine_dbg (c : Nat) (f : Engine → Engine) : (s.modEngine c f).dbg = s.dbg := rfl
@[simp] theorem modEngine_agenda (c : Nat) (f : Engine → Engine) : (s.modEngine c f).agenda = s.agenda := rfl
@[simp] theorem modEngine_focus (c : Nat) (f : Engine → Engine) : (s.modEngine c f).focus = s.focus := rfl
@[simp] theorem modEngine_rotor (c : Nat) (f : Engine → Engine) : (s.modEngine c f).rotor = s.rotor := rfl
@[simp] theorem modEngine_freeCount (c : Nat) (f : Engine → Engine) : (s.modEngine c f).freeCount = s.freeCount := rfl

/-! ### State.setSkein -/

@[simp] theorem setSkein_dev (i : Nat) (v : Skein) : (s.setSkein i v).dev = s.dev := rfl
@[simp] theorem setSkein_time (i : Nat) (v : Skein) : (s.setSkein i v).time = s.time := rfl
@[simp] theorem setSkein_firn (i : Nat) (v : Skein) : (s.setSkein i v).firn = s.firn := rfl
@[simp] theorem setSkein_tables (i : Nat) (v : Skein) : (s.setSkein i v).tables = s.tables := rfl
@[simp] theorem setSkein_mem (i : Nat) (v : Skein) : (s.setSkein i v).mem = s.mem := rfl
@[simp] theorem setSkein_cores (i : Nat) (v : Skein) : (s.setSkein i v).cores = s.cores := rfl
@[simp] theorem setSkein_panels (i : Nat) (v : Skein) : (s.setSkein i v).panels = s.panels := rfl
@[simp] theorem setSkein_courses (i : Nat) (v : Skein) : (s.setSkein i v).courses = s.courses := rfl
@[simp] theorem setSkein_async (i : Nat) (v : Skein) : (s.setSkein i v).async = s.async := rfl
@[simp] theorem setSkein_dbg (i : Nat) (v : Skein) : (s.setSkein i v).dbg = s.dbg := rfl
@[simp] theorem setSkein_agenda (i : Nat) (v : Skein) : (s.setSkein i v).agenda = s.agenda := rfl
@[simp] theorem setSkein_focus (i : Nat) (v : Skein) : (s.setSkein i v).focus = s.focus := rfl
@[simp] theorem setSkein_rotor (i : Nat) (v : Skein) : (s.setSkein i v).rotor = s.rotor := rfl
@[simp] theorem setSkein_freeCount (i : Nat) (v : Skein) : (s.setSkein i v).freeCount = s.freeCount := rfl

/-! ### State.modSkein -/

@[simp] theorem modSkein_dev (i : Nat) (f : Skein → Skein) : (s.modSkein i f).dev = s.dev := rfl
@[simp] theorem modSkein_time (i : Nat) (f : Skein → Skein) : (s.modSkein i f).time = s.time := rfl
@[simp] theorem modSkein_firn (i : Nat) (f : Skein → Skein) : (s.modSkein i f).firn = s.firn := rfl
@[simp] theorem modSkein_tables (i : Nat) (f : Skein → Skein) : (s.modSkein i f).tables = s.tables := rfl
@[simp] theorem modSkein_mem (i : Nat) (f : Skein → Skein) : (s.modSkein i f).mem = s.mem := rfl
@[simp] theorem modSkein_cores (i : Nat) (f : Skein → Skein) : (s.modSkein i f).cores = s.cores := rfl
@[simp] theorem modSkein_panels (i : Nat) (f : Skein → Skein) : (s.modSkein i f).panels = s.panels := rfl
@[simp] theorem modSkein_courses (i : Nat) (f : Skein → Skein) : (s.modSkein i f).courses = s.courses := rfl
@[simp] theorem modSkein_async (i : Nat) (f : Skein → Skein) : (s.modSkein i f).async = s.async := rfl
@[simp] theorem modSkein_dbg (i : Nat) (f : Skein → Skein) : (s.modSkein i f).dbg = s.dbg := rfl
@[simp] theorem modSkein_agenda (i : Nat) (f : Skein → Skein) : (s.modSkein i f).agenda = s.agenda := rfl
@[simp] theorem modSkein_focus (i : Nat) (f : Skein → Skein) : (s.modSkein i f).focus = s.focus := rfl
@[simp] theorem modSkein_rotor (i : Nat) (f : Skein → Skein) : (s.modSkein i f).rotor = s.rotor := rfl
@[simp] theorem modSkein_freeCount (i : Nat) (f : Skein → Skein) : (s.modSkein i f).freeCount = s.freeCount := rfl

/-! ### State.setLaunch -/

@[simp] theorem setLaunch_dev (i : Nat) (v : Launch) : (s.setLaunch i v).dev = s.dev := rfl
@[simp] theorem setLaunch_time (i : Nat) (v : Launch) : (s.setLaunch i v).time = s.time := rfl
@[simp] theorem setLaunch_firn (i : Nat) (v : Launch) : (s.setLaunch i v).firn = s.firn := rfl
@[simp] theorem setLaunch_tables (i : Nat) (v : Launch) : (s.setLaunch i v).tables = s.tables := rfl
@[simp] theorem setLaunch_mem (i : Nat) (v : Launch) : (s.setLaunch i v).mem = s.mem := rfl
@[simp] theorem setLaunch_cores (i : Nat) (v : Launch) : (s.setLaunch i v).cores = s.cores := rfl
@[simp] theorem setLaunch_panels (i : Nat) (v : Launch) : (s.setLaunch i v).panels = s.panels := rfl
@[simp] theorem setLaunch_courses (i : Nat) (v : Launch) : (s.setLaunch i v).courses = s.courses := rfl
@[simp] theorem setLaunch_async (i : Nat) (v : Launch) : (s.setLaunch i v).async = s.async := rfl
@[simp] theorem setLaunch_dbg (i : Nat) (v : Launch) : (s.setLaunch i v).dbg = s.dbg := rfl
@[simp] theorem setLaunch_agenda (i : Nat) (v : Launch) : (s.setLaunch i v).agenda = s.agenda := rfl
@[simp] theorem setLaunch_focus (i : Nat) (v : Launch) : (s.setLaunch i v).focus = s.focus := rfl
@[simp] theorem setLaunch_rotor (i : Nat) (v : Launch) : (s.setLaunch i v).rotor = s.rotor := rfl
@[simp] theorem setLaunch_freeCount (i : Nat) (v : Launch) : (s.setLaunch i v).freeCount = s.freeCount := rfl

/-! ### State.modLaunch -/

@[simp] theorem modLaunch_dev (i : Nat) (f : Launch → Launch) : (s.modLaunch i f).dev = s.dev := rfl
@[simp] theorem modLaunch_time (i : Nat) (f : Launch → Launch) : (s.modLaunch i f).time = s.time := rfl
@[simp] theorem modLaunch_firn (i : Nat) (f : Launch → Launch) : (s.modLaunch i f).firn = s.firn := rfl
@[simp] theorem modLaunch_tables (i : Nat) (f : Launch → Launch) : (s.modLaunch i f).tables = s.tables := rfl
@[simp] theorem modLaunch_mem (i : Nat) (f : Launch → Launch) : (s.modLaunch i f).mem = s.mem := rfl
@[simp] theorem modLaunch_cores (i : Nat) (f : Launch → Launch) : (s.modLaunch i f).cores = s.cores := rfl
@[simp] theorem modLaunch_panels (i : Nat) (f : Launch → Launch) : (s.modLaunch i f).panels = s.panels := rfl
@[simp] theorem modLaunch_courses (i : Nat) (f : Launch → Launch) : (s.modLaunch i f).courses = s.courses := rfl
@[simp] theorem modLaunch_async (i : Nat) (f : Launch → Launch) : (s.modLaunch i f).async = s.async := rfl
@[simp] theorem modLaunch_dbg (i : Nat) (f : Launch → Launch) : (s.modLaunch i f).dbg = s.dbg := rfl
@[simp] theorem modLaunch_agenda (i : Nat) (f : Launch → Launch) : (s.modLaunch i f).agenda = s.agenda := rfl
@[simp] theorem modLaunch_focus (i : Nat) (f : Launch → Launch) : (s.modLaunch i f).focus = s.focus := rfl
@[simp] theorem modLaunch_rotor (i : Nat) (f : Launch → Launch) : (s.modLaunch i f).rotor = s.rotor := rfl
@[simp] theorem modLaunch_freeCount (i : Nat) (f : Launch → Launch) : (s.modLaunch i f).freeCount = s.freeCount := rfl

/-! ### State.setRun -/

@[simp] theorem setRun_dev (i : Nat) (v : GraphRun) : (s.setRun i v).dev = s.dev := rfl
@[simp] theorem setRun_time (i : Nat) (v : GraphRun) : (s.setRun i v).time = s.time := rfl
@[simp] theorem setRun_firn (i : Nat) (v : GraphRun) : (s.setRun i v).firn = s.firn := rfl
@[simp] theorem setRun_tables (i : Nat) (v : GraphRun) : (s.setRun i v).tables = s.tables := rfl
@[simp] theorem setRun_mem (i : Nat) (v : GraphRun) : (s.setRun i v).mem = s.mem := rfl
@[simp] theorem setRun_cores (i : Nat) (v : GraphRun) : (s.setRun i v).cores = s.cores := rfl
@[simp] theorem setRun_panels (i : Nat) (v : GraphRun) : (s.setRun i v).panels = s.panels := rfl
@[simp] theorem setRun_courses (i : Nat) (v : GraphRun) : (s.setRun i v).courses = s.courses := rfl
@[simp] theorem setRun_async (i : Nat) (v : GraphRun) : (s.setRun i v).async = s.async := rfl
@[simp] theorem setRun_dbg (i : Nat) (v : GraphRun) : (s.setRun i v).dbg = s.dbg := rfl
@[simp] theorem setRun_agenda (i : Nat) (v : GraphRun) : (s.setRun i v).agenda = s.agenda := rfl
@[simp] theorem setRun_focus (i : Nat) (v : GraphRun) : (s.setRun i v).focus = s.focus := rfl
@[simp] theorem setRun_rotor (i : Nat) (v : GraphRun) : (s.setRun i v).rotor = s.rotor := rfl
@[simp] theorem setRun_freeCount (i : Nat) (v : GraphRun) : (s.setRun i v).freeCount = s.freeCount := rfl

/-! ### State.setAgents -/

@[simp] theorem setAgents_dev (l : List Agent) : (s.setAgents l).dev = s.dev := rfl
@[simp] theorem setAgents_time (l : List Agent) : (s.setAgents l).time = s.time := rfl
@[simp] theorem setAgents_firn (l : List Agent) : (s.setAgents l).firn = s.firn := rfl
@[simp] theorem setAgents_tables (l : List Agent) : (s.setAgents l).tables = s.tables := rfl
@[simp] theorem setAgents_mem (l : List Agent) : (s.setAgents l).mem = s.mem := rfl
@[simp] theorem setAgents_cores (l : List Agent) : (s.setAgents l).cores = s.cores := rfl
@[simp] theorem setAgents_panels (l : List Agent) : (s.setAgents l).panels = s.panels := rfl
@[simp] theorem setAgents_courses (l : List Agent) : (s.setAgents l).courses = s.courses := rfl
@[simp] theorem setAgents_async (l : List Agent) : (s.setAgents l).async = s.async := rfl
@[simp] theorem setAgents_dbg (l : List Agent) : (s.setAgents l).dbg = s.dbg := rfl
@[simp] theorem setAgents_agenda (l : List Agent) : (s.setAgents l).agenda = s.agenda := rfl
@[simp] theorem setAgents_focus (l : List Agent) : (s.setAgents l).focus = s.focus := rfl
@[simp] theorem setAgents_rotor (l : List Agent) : (s.setAgents l).rotor = s.rotor := rfl
@[simp] theorem setAgents_freeCount (l : List Agent) : (s.setAgents l).freeCount = s.freeCount := rfl

/-! ### State.setOp -/

@[simp] theorem setOp_dev (i : Nat) (v : Op) : (s.setOp i v).dev = s.dev := rfl
@[simp] theorem setOp_time (i : Nat) (v : Op) : (s.setOp i v).time = s.time := rfl
@[simp] theorem setOp_firn (i : Nat) (v : Op) : (s.setOp i v).firn = s.firn := rfl
@[simp] theorem setOp_tables (i : Nat) (v : Op) : (s.setOp i v).tables = s.tables := rfl
@[simp] theorem setOp_mem (i : Nat) (v : Op) : (s.setOp i v).mem = s.mem := rfl
@[simp] theorem setOp_work (i : Nat) (v : Op) : (s.setOp i v).work = s.work := rfl
@[simp] theorem setOp_cores (i : Nat) (v : Op) : (s.setOp i v).cores = s.cores := rfl
@[simp] theorem setOp_panels (i : Nat) (v : Op) : (s.setOp i v).panels = s.panels := rfl
@[simp] theorem setOp_courses (i : Nat) (v : Op) : (s.setOp i v).courses = s.courses := rfl
@[simp] theorem setOp_dbg (i : Nat) (v : Op) : (s.setOp i v).dbg = s.dbg := rfl
@[simp] theorem setOp_agenda (i : Nat) (v : Op) : (s.setOp i v).agenda = s.agenda := rfl
@[simp] theorem setOp_focus (i : Nat) (v : Op) : (s.setOp i v).focus = s.focus := rfl
@[simp] theorem setOp_rotor (i : Nat) (v : Op) : (s.setOp i v).rotor = s.rotor := rfl
@[simp] theorem setOp_freeCount (i : Nat) (v : Op) : (s.setOp i v).freeCount = s.freeCount := rfl

/-! ### State.dropOp -/

@[simp] theorem dropOp_dev (i : Nat) : (s.dropOp i).dev = s.dev := rfl
@[simp] theorem dropOp_time (i : Nat) : (s.dropOp i).time = s.time := rfl
@[simp] theorem dropOp_firn (i : Nat) : (s.dropOp i).firn = s.firn := rfl
@[simp] theorem dropOp_tables (i : Nat) : (s.dropOp i).tables = s.tables := rfl
@[simp] theorem dropOp_mem (i : Nat) : (s.dropOp i).mem = s.mem := rfl
@[simp] theorem dropOp_work (i : Nat) : (s.dropOp i).work = s.work := rfl
@[simp] theorem dropOp_cores (i : Nat) : (s.dropOp i).cores = s.cores := rfl
@[simp] theorem dropOp_panels (i : Nat) : (s.dropOp i).panels = s.panels := rfl
@[simp] theorem dropOp_courses (i : Nat) : (s.dropOp i).courses = s.courses := rfl
@[simp] theorem dropOp_dbg (i : Nat) : (s.dropOp i).dbg = s.dbg := rfl
@[simp] theorem dropOp_agenda (i : Nat) : (s.dropOp i).agenda = s.agenda := rfl
@[simp] theorem dropOp_focus (i : Nat) : (s.dropOp i).focus = s.focus := rfl
@[simp] theorem dropOp_rotor (i : Nat) : (s.dropOp i).rotor = s.rotor := rfl
@[simp] theorem dropOp_freeCount (i : Nat) : (s.dropOp i).freeCount = s.freeCount := rfl

/-! ### State.setCounter -/

@[simp] theorem setCounter_dev (i : Nat) (c : Counter) : (s.setCounter i c).dev = s.dev := rfl
@[simp] theorem setCounter_time (i : Nat) (c : Counter) : (s.setCounter i c).time = s.time := rfl
@[simp] theorem setCounter_firn (i : Nat) (c : Counter) : (s.setCounter i c).firn = s.firn := rfl
@[simp] theorem setCounter_tables (i : Nat) (c : Counter) : (s.setCounter i c).tables = s.tables := rfl
@[simp] theorem setCounter_mem (i : Nat) (c : Counter) : (s.setCounter i c).mem = s.mem := rfl
@[simp] theorem setCounter_work (i : Nat) (c : Counter) : (s.setCounter i c).work = s.work := rfl
@[simp] theorem setCounter_cores (i : Nat) (c : Counter) : (s.setCounter i c).cores = s.cores := rfl
@[simp] theorem setCounter_panels (i : Nat) (c : Counter) : (s.setCounter i c).panels = s.panels := rfl
@[simp] theorem setCounter_courses (i : Nat) (c : Counter) : (s.setCounter i c).courses = s.courses := rfl
@[simp] theorem setCounter_dbg (i : Nat) (c : Counter) : (s.setCounter i c).dbg = s.dbg := rfl
@[simp] theorem setCounter_agenda (i : Nat) (c : Counter) : (s.setCounter i c).agenda = s.agenda := rfl
@[simp] theorem setCounter_focus (i : Nat) (c : Counter) : (s.setCounter i c).focus = s.focus := rfl
@[simp] theorem setCounter_rotor (i : Nat) (c : Counter) : (s.setCounter i c).rotor = s.rotor := rfl
@[simp] theorem setCounter_freeCount (i : Nat) (c : Counter) : (s.setCounter i c).freeCount = s.freeCount := rfl

/-! ### State.setColl -/

@[simp] theorem setColl_dev (c : Coll) : (s.setColl c).dev = s.dev := rfl
@[simp] theorem setColl_time (c : Coll) : (s.setColl c).time = s.time := rfl
@[simp] theorem setColl_firn (c : Coll) : (s.setColl c).firn = s.firn := rfl
@[simp] theorem setColl_tables (c : Coll) : (s.setColl c).tables = s.tables := rfl
@[simp] theorem setColl_mem (c : Coll) : (s.setColl c).mem = s.mem := rfl
@[simp] theorem setColl_work (c : Coll) : (s.setColl c).work = s.work := rfl
@[simp] theorem setColl_cores (c : Coll) : (s.setColl c).cores = s.cores := rfl
@[simp] theorem setColl_panels (c : Coll) : (s.setColl c).panels = s.panels := rfl
@[simp] theorem setColl_courses (c : Coll) : (s.setColl c).courses = s.courses := rfl
@[simp] theorem setColl_dbg (c : Coll) : (s.setColl c).dbg = s.dbg := rfl
@[simp] theorem setColl_agenda (c : Coll) : (s.setColl c).agenda = s.agenda := rfl
@[simp] theorem setColl_focus (c : Coll) : (s.setColl c).focus = s.focus := rfl
@[simp] theorem setColl_rotor (c : Coll) : (s.setColl c).rotor = s.rotor := rfl
@[simp] theorem setColl_freeCount (c : Coll) : (s.setColl c).freeCount = s.freeCount := rfl

/-! ### State.setDir -/

@[simp] theorem setDir_dev (l : List DirEntry) : (s.setDir l).dev = s.dev := rfl
@[simp] theorem setDir_time (l : List DirEntry) : (s.setDir l).time = s.time := rfl
@[simp] theorem setDir_firn (l : List DirEntry) : (s.setDir l).firn = s.firn := rfl
@[simp] theorem setDir_tables (l : List DirEntry) : (s.setDir l).tables = s.tables := rfl
@[simp] theorem setDir_mem (l : List DirEntry) : (s.setDir l).mem = s.mem := rfl
@[simp] theorem setDir_work (l : List DirEntry) : (s.setDir l).work = s.work := rfl
@[simp] theorem setDir_cores (l : List DirEntry) : (s.setDir l).cores = s.cores := rfl
@[simp] theorem setDir_panels (l : List DirEntry) : (s.setDir l).panels = s.panels := rfl
@[simp] theorem setDir_courses (l : List DirEntry) : (s.setDir l).courses = s.courses := rfl
@[simp] theorem setDir_dbg (l : List DirEntry) : (s.setDir l).dbg = s.dbg := rfl
@[simp] theorem setDir_agenda (l : List DirEntry) : (s.setDir l).agenda = s.agenda := rfl
@[simp] theorem setDir_focus (l : List DirEntry) : (s.setDir l).focus = s.focus := rfl
@[simp] theorem setDir_rotor (l : List DirEntry) : (s.setDir l).rotor = s.rotor := rfl
@[simp] theorem setDir_freeCount (l : List DirEntry) : (s.setDir l).freeCount = s.freeCount := rfl

/-! ### State.setQueue -/

@[simp] theorem setQueue_dev (q : Nat) (v : Queue) : (s.setQueue q v).dev = s.dev := rfl
@[simp] theorem setQueue_time (q : Nat) (v : Queue) : (s.setQueue q v).time = s.time := rfl
@[simp] theorem setQueue_firn (q : Nat) (v : Queue) : (s.setQueue q v).firn = s.firn := rfl
@[simp] theorem setQueue_mem (q : Nat) (v : Queue) : (s.setQueue q v).mem = s.mem := rfl
@[simp] theorem setQueue_work (q : Nat) (v : Queue) : (s.setQueue q v).work = s.work := rfl
@[simp] theorem setQueue_cores (q : Nat) (v : Queue) : (s.setQueue q v).cores = s.cores := rfl
@[simp] theorem setQueue_panels (q : Nat) (v : Queue) : (s.setQueue q v).panels = s.panels := rfl
@[simp] theorem setQueue_courses (q : Nat) (v : Queue) : (s.setQueue q v).courses = s.courses := rfl
@[simp] theorem setQueue_async (q : Nat) (v : Queue) : (s.setQueue q v).async = s.async := rfl
@[simp] theorem setQueue_dbg (q : Nat) (v : Queue) : (s.setQueue q v).dbg = s.dbg := rfl
@[simp] theorem setQueue_agenda (q : Nat) (v : Queue) : (s.setQueue q v).agenda = s.agenda := rfl
@[simp] theorem setQueue_focus (q : Nat) (v : Queue) : (s.setQueue q v).focus = s.focus := rfl
@[simp] theorem setQueue_rotor (q : Nat) (v : Queue) : (s.setQueue q v).rotor = s.rotor := rfl
@[simp] theorem setQueue_freeCount (q : Nat) (v : Queue) : (s.setQueue q v).freeCount = s.freeCount := rfl

/-! ### State.laterAt -/

@[simp] theorem laterAt_dev (t : Nat) (i : Instr) : (s.laterAt t i).dev = s.dev := rfl
@[simp] theorem laterAt_time (t : Nat) (i : Instr) : (s.laterAt t i).time = s.time := rfl
@[simp] theorem laterAt_firn (t : Nat) (i : Instr) : (s.laterAt t i).firn = s.firn := rfl
@[simp] theorem laterAt_tables (t : Nat) (i : Instr) : (s.laterAt t i).tables = s.tables := rfl
@[simp] theorem laterAt_mem (t : Nat) (i : Instr) : (s.laterAt t i).mem = s.mem := rfl
@[simp] theorem laterAt_work (t : Nat) (i : Instr) : (s.laterAt t i).work = s.work := rfl
@[simp] theorem laterAt_cores (t : Nat) (i : Instr) : (s.laterAt t i).cores = s.cores := rfl
@[simp] theorem laterAt_panels (t : Nat) (i : Instr) : (s.laterAt t i).panels = s.panels := rfl
@[simp] theorem laterAt_courses (t : Nat) (i : Instr) : (s.laterAt t i).courses = s.courses := rfl
@[simp] theorem laterAt_async (t : Nat) (i : Instr) : (s.laterAt t i).async = s.async := rfl
@[simp] theorem laterAt_dbg (t : Nat) (i : Instr) : (s.laterAt t i).dbg = s.dbg := rfl
@[simp] theorem laterAt_focus (t : Nat) (i : Instr) : (s.laterAt t i).focus = s.focus := rfl
@[simp] theorem laterAt_rotor (t : Nat) (i : Instr) : (s.laterAt t i).rotor = s.rotor := rfl
@[simp] theorem laterAt_freeCount (t : Nat) (i : Instr) : (s.laterAt t i).freeCount = s.freeCount := rfl

/-! ### State.reply -/

@[simp] theorem reply_dev (ok : Bool) (b : List Byte) : (s.reply ok b).dev = s.dev := rfl
@[simp] theorem reply_time (ok : Bool) (b : List Byte) : (s.reply ok b).time = s.time := rfl
@[simp] theorem reply_firn (ok : Bool) (b : List Byte) : (s.reply ok b).firn = s.firn := rfl
@[simp] theorem reply_tables (ok : Bool) (b : List Byte) : (s.reply ok b).tables = s.tables := rfl
@[simp] theorem reply_mem (ok : Bool) (b : List Byte) : (s.reply ok b).mem = s.mem := rfl
@[simp] theorem reply_work (ok : Bool) (b : List Byte) : (s.reply ok b).work = s.work := rfl
@[simp] theorem reply_cores (ok : Bool) (b : List Byte) : (s.reply ok b).cores = s.cores := rfl
@[simp] theorem reply_panels (ok : Bool) (b : List Byte) : (s.reply ok b).panels = s.panels := rfl
@[simp] theorem reply_courses (ok : Bool) (b : List Byte) : (s.reply ok b).courses = s.courses := rfl
@[simp] theorem reply_async (ok : Bool) (b : List Byte) : (s.reply ok b).async = s.async := rfl
@[simp] theorem reply_agenda (ok : Bool) (b : List Byte) : (s.reply ok b).agenda = s.agenda := rfl
@[simp] theorem reply_focus (ok : Bool) (b : List Byte) : (s.reply ok b).focus = s.focus := rfl
@[simp] theorem reply_rotor (ok : Bool) (b : List Byte) : (s.reply ok b).rotor = s.rotor := rfl
@[simp] theorem reply_freeCount (ok : Bool) (b : List Byte) : (s.reply ok b).freeCount = s.freeCount := rfl

/-! ### State.life -/

@[simp] theorem life_time (i : Nat) : (s.life i).time = s.time := rfl
@[simp] theorem life_firn (i : Nat) : (s.life i).firn = s.firn := rfl
@[simp] theorem life_tables (i : Nat) : (s.life i).tables = s.tables := rfl
@[simp] theorem life_mem (i : Nat) : (s.life i).mem = s.mem := rfl
@[simp] theorem life_work (i : Nat) : (s.life i).work = s.work := rfl
@[simp] theorem life_cores (i : Nat) : (s.life i).cores = s.cores := rfl
@[simp] theorem life_panels (i : Nat) : (s.life i).panels = s.panels := rfl
@[simp] theorem life_courses (i : Nat) : (s.life i).courses = s.courses := rfl
@[simp] theorem life_async (i : Nat) : (s.life i).async = s.async := rfl
@[simp] theorem life_dbg (i : Nat) : (s.life i).dbg = s.dbg := rfl
@[simp] theorem life_agenda (i : Nat) : (s.life i).agenda = s.agenda := rfl
@[simp] theorem life_focus (i : Nat) : (s.life i).focus = s.focus := rfl
@[simp] theorem life_rotor (i : Nat) : (s.life i).rotor = s.rotor := rfl
@[simp] theorem life_freeCount (i : Nat) : (s.life i).freeCount = s.freeCount := rfl

/-! ### State.setAbsent -/

@[simp] theorem setAbsent_dev (l : Loc) (a : Absent) : (s.setAbsent l a).dev = s.dev := rfl
@[simp] theorem setAbsent_time (l : Loc) (a : Absent) : (s.setAbsent l a).time = s.time := rfl
@[simp] theorem setAbsent_firn (l : Loc) (a : Absent) : (s.setAbsent l a).firn = s.firn := rfl
@[simp] theorem setAbsent_tables (l : Loc) (a : Absent) : (s.setAbsent l a).tables = s.tables := rfl
@[simp] theorem setAbsent_work (l : Loc) (a : Absent) : (s.setAbsent l a).work = s.work := rfl
@[simp] theorem setAbsent_cores (l : Loc) (a : Absent) : (s.setAbsent l a).cores = s.cores := rfl
@[simp] theorem setAbsent_panels (l : Loc) (a : Absent) : (s.setAbsent l a).panels = s.panels := rfl
@[simp] theorem setAbsent_courses (l : Loc) (a : Absent) : (s.setAbsent l a).courses = s.courses := rfl
@[simp] theorem setAbsent_async (l : Loc) (a : Absent) : (s.setAbsent l a).async = s.async := rfl
@[simp] theorem setAbsent_dbg (l : Loc) (a : Absent) : (s.setAbsent l a).dbg = s.dbg := rfl
@[simp] theorem setAbsent_agenda (l : Loc) (a : Absent) : (s.setAbsent l a).agenda = s.agenda := rfl
@[simp] theorem setAbsent_focus (l : Loc) (a : Absent) : (s.setAbsent l a).focus = s.focus := rfl
@[simp] theorem setAbsent_rotor (l : Loc) (a : Absent) : (s.setAbsent l a).rotor = s.rotor := rfl
@[simp] theorem setAbsent_freeCount (l : Loc) (a : Absent) : (s.setAbsent l a).freeCount = s.freeCount := rfl

/-! ### State.setPresent -/

@[simp] theorem setPresent_dev (l : Loc) : (s.setPresent l).dev = s.dev := rfl
@[simp] theorem setPresent_time (l : Loc) : (s.setPresent l).time = s.time := rfl
@[simp] theorem setPresent_firn (l : Loc) : (s.setPresent l).firn = s.firn := rfl
@[simp] theorem setPresent_tables (l : Loc) : (s.setPresent l).tables = s.tables := rfl
@[simp] theorem setPresent_work (l : Loc) : (s.setPresent l).work = s.work := rfl
@[simp] theorem setPresent_cores (l : Loc) : (s.setPresent l).cores = s.cores := rfl
@[simp] theorem setPresent_panels (l : Loc) : (s.setPresent l).panels = s.panels := rfl
@[simp] theorem setPresent_courses (l : Loc) : (s.setPresent l).courses = s.courses := rfl
@[simp] theorem setPresent_async (l : Loc) : (s.setPresent l).async = s.async := rfl
@[simp] theorem setPresent_dbg (l : Loc) : (s.setPresent l).dbg = s.dbg := rfl
@[simp] theorem setPresent_agenda (l : Loc) : (s.setPresent l).agenda = s.agenda := rfl
@[simp] theorem setPresent_focus (l : Loc) : (s.setPresent l).focus = s.focus := rfl
@[simp] theorem setPresent_rotor (l : Loc) : (s.setPresent l).rotor = s.rotor := rfl
@[simp] theorem setPresent_freeCount (l : Loc) : (s.setPresent l).freeCount = s.freeCount := rfl

/-! ### State.poke -/

@[simp] theorem poke_dev (l : Loc) (bs : List Byte) : (s.poke l bs).dev = s.dev := rfl
@[simp] theorem poke_time (l : Loc) (bs : List Byte) : (s.poke l bs).time = s.time := rfl
@[simp] theorem poke_firn (l : Loc) (bs : List Byte) : (s.poke l bs).firn = s.firn := rfl
@[simp] theorem poke_tables (l : Loc) (bs : List Byte) : (s.poke l bs).tables = s.tables := rfl
@[simp] theorem poke_work (l : Loc) (bs : List Byte) : (s.poke l bs).work = s.work := rfl
@[simp] theorem poke_cores (l : Loc) (bs : List Byte) : (s.poke l bs).cores = s.cores := rfl
@[simp] theorem poke_panels (l : Loc) (bs : List Byte) : (s.poke l bs).panels = s.panels := rfl
@[simp] theorem poke_courses (l : Loc) (bs : List Byte) : (s.poke l bs).courses = s.courses := rfl
@[simp] theorem poke_dbg (l : Loc) (bs : List Byte) : (s.poke l bs).dbg = s.dbg := rfl
@[simp] theorem poke_agenda (l : Loc) (bs : List Byte) : (s.poke l bs).agenda = s.agenda := rfl
@[simp] theorem poke_focus (l : Loc) (bs : List Byte) : (s.poke l bs).focus = s.focus := rfl
@[simp] theorem poke_rotor (l : Loc) (bs : List Byte) : (s.poke l bs).rotor = s.rotor := rfl
@[simp] theorem poke_freeCount (l : Loc) (bs : List Byte) : (s.poke l bs).freeCount = s.freeCount := rfl

@[simp] theorem newId_snd : s.newId.2 = { s with work := { s.work with nextId := s.work.nextId + 1 } } := rfl
@[simp] theorem newId_fst : s.newId.1 = s.work.nextId := rfl
@[simp] theorem freshWord_snd : s.freshWord.2 = { s with freeCount := s.freeCount + 1 } := rfl

/-! ### What an update puts where it writes, and that it writes nowhere else -/

theorem course_setCourse_self (core slot : Nat) (v : Course) : (s.setCourse core slot v).course? core slot = some v := by
  simp [State.course?, State.setCourse, kget_kset_self]
theorem course_setCourse_ne (core slot core' slot' : Nat) (v : Course) (h : courseKey core' slot' ≠ courseKey core slot) : (s.setCourse core slot v).course? core' slot' = s.course? core' slot' := by
  simp [State.course?, State.setCourse, kget_kset_ne h]
theorem panel_setPanel_self (core k : Nat) (v : Panel) : (s.setPanel core k v).panel? core k = some v := by
  simp [State.panel?, State.setPanel, kget_kset_self]
theorem panel_setPanel_ne (core k core' k' : Nat) (v : Panel) (h : panelKey core' k' ≠ panelKey core k) : (s.setPanel core k v).panel? core' k' = s.panel? core' k' := by
  simp [State.panel?, State.setPanel, kget_kset_ne h]
theorem core_setCore_self (c : Nat) (v : Core) : (s.setCore c v).core c = id v := by
  simp [State.core, State.setCore, kget_kset_self]
theorem core_setCore_ne (c c' : Nat) (v : Core) (h : c' ≠ c) : (s.setCore c v).core c' = s.core c' := by
  simp [State.core, State.setCore, kget_kset_ne h]
theorem skein_setSkein_self (i : Nat) (v : Skein) : (s.setSkein i v).skein? i = some v := by
  simp [State.skein?, State.setSkein, kget_kset_self]
theorem skein_setSkein_ne (i i' : Nat) (v : Skein) (h : i' ≠ i) : (s.setSkein i v).skein? i' = s.skein? i' := by
  simp [State.skein?, State.setSkein, kget_kset_ne h]
theorem launch_setLaunch_self (i : Nat) (v : Launch) : (s.setLaunch i v).launch? i = some v := by
  simp [State.launch?, State.setLaunch, kget_kset_self]
theorem launch_setLaunch_ne (i i' : Nat) (v : Launch) (h : i' ≠ i) : (s.setLaunch i v).launch? i' = s.launch? i' := by
  simp [State.launch?, State.setLaunch, kget_kset_ne h]
theorem run_setRun_self (i : Nat) (v : GraphRun) : (s.setRun i v).run? i = some v := by
  simp [State.run?, State.setRun, kget_kset_self]
theorem run_setRun_ne (i i' : Nat) (v : GraphRun) (h : i' ≠ i) : (s.setRun i v).run? i' = s.run? i' := by
  simp [State.run?, State.setRun, kget_kset_ne h]
theorem op_setOp_self (i : Nat) (v : Op) : (s.setOp i v).op? i = some v := by
  simp [State.op?, State.setOp, kget_kset_self]
theorem op_setOp_ne (i i' : Nat) (v : Op) (h : i' ≠ i) : (s.setOp i v).op? i' = s.op? i' := by
  simp [State.op?, State.setOp, kget_kset_ne h]
theorem counter_setCounter_self (i : Nat) (v : Counter) : (s.setCounter i v).counter i = v := by
  unfold State.setCounter State.counter
  split <;> simp_all [kget_kset_self, kget_kdel_self]
theorem counter_setCounter_ne (i i' : Nat) (v : Counter) (h : i' ≠ i) : (s.setCounter i v).counter i' = s.counter i' := by
  unfold State.setCounter State.counter
  split <;> simp [kget_kset_ne h, kget_kdel_ne h]
theorem queue_setQueue_self (q : Nat) (v : Queue) : (s.setQueue q v).queue q = id v := by
  simp [State.queue, State.setQueue, kget_kset_self]
theorem queue_setQueue_ne (q q' : Nat) (v : Queue) (h : q' ≠ q) : (s.setQueue q v).queue q' = s.queue q' := by
  simp [State.queue, State.setQueue, kget_kset_ne h]

end Sys2Proof.Laws
end

