-- ==== Sys2Proof/Laws/Memory.lean ====
section
/-! SUPPORT. What storing bytes and emitting an event do to the memories, and what they leave alone. -/
set_option Elab.async false
namespace Sys2Proof.Laws
open Sys2Proof.Machine Sys2Proof.Safety

/-! ## Bytes stored at a home -/

theorem of_put (m : Memories) (st st' : Store) (v : Memory) : (m.put st v).of st' = if st' = st then v else m.of st' := by
  cases st <;> cases st' <;> rfl

theorem poke_of (s : State) (l : Loc) (bs : List Byte) (st : Store) :
    (s.poke l bs).mem.of st = if st = l.store then (s.mem.of st).writeList l.addr bs else s.mem.of st := by
  have h : (s.poke l bs).mem.of st = (s.mem.put l.store ((s.mem.of l.store).writeList l.addr bs)).of st := by
    cases st <;> rfl
  rw [h, of_put]
  split
  · next e => rw [e]
  · rfl

/-- A stored byte reads back, and every other byte of every memory keeps its value. -/
theorem peek_poke (s : State) (l x : Loc) (bs : List Byte) :
    (s.poke l bs).peek x = if x.store = l.store ∧ l.addr ≤ x.addr ∧ x.addr < l.addr + bs.length
      then (bs[x.addr - l.addr]?).getD 0 else s.peek x := by
  unfold State.peek
  rw [poke_of]
  by_cases hs : x.store = l.store
  · by_cases h : l.addr ≤ x.addr ∧ x.addr < l.addr + bs.length
    · obtain ⟨i, hi⟩ := Nat.exists_eq_add_of_le h.1
      have hl : i < bs.length := by omega
      rw [if_pos hs, if_pos ⟨hs, h⟩, hi, read_writeList_in _ _ _ hl, show l.addr + i - l.addr = i by omega,
        List.getElem?_eq_getElem hl]
      rfl
    · rw [if_pos hs, if_neg (fun k => h k.2), read_writeList_out _ _ (by omega)]
  · rw [if_neg hs, if_neg (fun k => hs k.1)]

theorem poke_kept {s : State} (h : memoryKept s) (l : Loc) (bs : List Byte) : memoryKept (s.poke l bs) := by
  have k : ∀ st, Memory.wf (s.mem.of st) = true := by
    intro st; obtain ⟨h1, h2, h3, h4, h5⟩ := h; cases st <;> assumption
  have q : ∀ st, Memory.wf ((s.poke l bs).mem.of st) = true := by
    intro st; rw [poke_of]; split
    · exact wf_writeList (k st) _ _
    · exact k st
  exact ⟨q .hbm, q .lpddr, q .host, q .die, q .unit⟩

@[simp] theorem poke_absent (s : State) (l : Loc) (bs : List Byte) : (s.poke l bs).mem.absent = s.mem.absent := by
  unfold State.poke; cases l.store <;> rfl

theorem poke_async {s : State} {l : Loc} (h : l.store ≠ .hbm) (bs : List Byte) : (s.poke l bs).async = s.async := by
  simp [State.poke, h]

/-- Storing bytes changes the memories and, of what is asynchronous, only which faults are due to be tried again. -/
theorem poke_rest (s : State) (l : Loc) (bs : List Byte) :
    ({ s.poke l bs with mem := s.mem, async := { (s.poke l bs).async with faults := s.async.faults } } : State) = s := by
  unfold State.poke; split <;> rfl

theorem leBytes_length (n v : Nat) : (leBytes n v).length = n := by
  induction n generalizing v with
  | zero => rfl
  | succ n ih => simp [leBytes, ih]

/-! ## A range of addresses -/

/-- A range that is written, wholly or not at all, keeps the canonical form. -/
theorem writeRange_kept {s s1 : State} (h : memoryKept s) {w : Who} {a : Word} {bs : List Byte} (hw : s.writeRange w a bs = .ok s1) :
    memoryKept s1 := by
  unfold State.writeRange at hw
  split at hw
  · cases hw
  · next l _ =>
    cases hw
    clear * - h
    induction l generalizing s bs with
    | nil => exact h
    | cons p t ih => exact ih (poke_kept h _ _)

theorem writeRange_courses {s s1 : State} {w : Who} {a : Word} {bs : List Byte} (hw : s.writeRange w a bs = .ok s1) :
    s1.courses = s.courses := by
  have go : ∀ (l : List (Loc × Nat)) (x : State × List Byte),
      (l.foldl (fun (acc : State × List Byte) (p : Loc × Nat) => (acc.1.poke p.1 (acc.2.take p.2), acc.2.drop p.2)) x).1.courses = x.1.courses := by
    intro l
    induction l with
    | nil => exact fun _ => rfl
    | cons p t ih => exact fun x => ih _
  unfold State.writeRange at hw
  split at hw
  · cases hw
  · cases hw; exact go _ _

/-! ## Events (R67 to R74) -/

/-- What a record's way to the rings changes: the firn registers but not where the store lies, and LPDDR6 inside the rings. -/
structure Carried (s t : State) : Prop where
  rest  : ({ t with firn := s.firn, mem := s.mem } : State) = s
  place : t.firn.base = s.firn.base ∧ t.firn.size = s.firn.size ∧ t.firn.opsz = s.firn.opsz ∧ t.firn.enabled = s.firn.enabled
  bytes : MemoryKept s t
  form  : memoryKept s → memoryKept t

theorem Carried.refl (s : State) : Carried s s := ⟨rfl, ⟨rfl, rfl, rfl, rfl⟩, fun _ _ => rfl, id⟩

theorem Carried.trans {a b c : State} (h : Carried a b) (k : Carried b c) : Carried a c := by
  refine ⟨?_, ?_, fun l hl => ?_, fun x => k.form (h.form x)⟩
  · rw [← k.rest] at h; exact h.rest
  · obtain ⟨a1, a2, a3, a4⟩ := h.place; obtain ⟨b1, b2, b3, b4⟩ := k.place
    exact ⟨b1.trans a1, b2.trans a2, b3.trans a3, b4.trans a4⟩
  · rw [← h.bytes l hl]
    apply k.bytes
    obtain ⟨h1, h2, h3, _⟩ := h.place
    unfold outsideRings; rw [h1, h2, h3]; exact hl

theorem Carried.firn (s : State) (f : FirnState)
    (h : f.base = s.firn.base ∧ f.size = s.firn.size ∧ f.opsz = s.firn.opsz ∧ f.enabled = s.firn.enabled) : Carried s { s with firn := f } :=
  ⟨rfl, h, fun _ _ => rfl, id⟩

/-- Bytes stored inside the store's rings and views. -/
theorem Carried.poke (s : State) (a : Nat) (bs : List Byte)
    (h : 32 ≤ s.firn.opsz.toNat → s.firn.base.toNat ≤ a ∧ a + bs.length ≤ s.firn.base.toNat + max s.firn.size.toNat (4096 + s.firn.opsz.toNat)) :
    Carried s (s.poke ⟨.lpddr, a⟩ bs) := by
  refine ⟨?_, ⟨rfl, rfl, rfl, rfl⟩, fun l hl => ?_, fun k => poke_kept k _ _⟩
  · have := poke_async (s := s) (l := ⟨.lpddr, a⟩) (by simp) bs
    simp only [State.poke] at this ⊢; simp
  · rw [peek_poke, if_neg]
    rintro ⟨h1, h2, h3⟩
    rcases hl with hl | ⟨h4, hl⟩
    · exact hl h1
    · have := h h4; simp only at h2 h3; omega

theorem recordBytes_length (r : Record) : (recordBytes r).length = 32 := leBytes_length _ _

/-- A slot of the ring takes 32 bytes inside the store. -/
theorem ringSlot_carried (s : State) {b : List Byte} (hb : b.length = 32) : Carried s (s.ringSlot b) := by
  unfold State.ringSlot
  split
  · exact Carried.refl s
  · refine Carried.trans (Carried.poke s _ _ (fun h => ?_)) (Carried.firn _ _ ⟨rfl, rfl, rfl, rfl⟩)
    rw [hb]
    have h1 : s.firn.wp % (s.firn.opsz.toNat / 32) < s.firn.opsz.toNat / 32 := Nat.mod_lt _ (by omega)
    omega

theorem ringWrite_carried (s : State) (r : Record) : Carried s (s.ringWrite r) := ringSlot_carried s (recordBytes_length _)

theorem viewWrite_carried (s : State) (r : Record) : Carried s (s.viewWrite r) := by
  unfold State.viewWrite
  simp only []
  split
  · exact Carried.refl s
  · next h0 =>
    split
    · exact Carried.firn _ _ ⟨rfl, rfl, rfl, rfl⟩
    · next h1 =>
      have hv : 0 < (s.viewEntry r).viewlen.toNat := by
        simp only [Bool.or_eq_true, not_or, beq_iff_eq] at h0
        have := h0.2
        refine Nat.pos_of_ne_zero (fun h => this ?_)
        exact BitVec.eq_of_toNat_eq (by simpa using h)
      simp only [Bool.or_eq_true, not_or, decide_eq_true_eq, Nat.not_lt] at h1
      refine Carried.trans (Carried.poke s _ _ (fun _ => ?_)) (Carried.poke _ _ _ (fun _ => ?_))
      · rw [List.length_append, leBytes_length, List.length_replicate]; omega
      · rw [recordBytes_length]
        simp only [poke_firn]
        have h2 : (s.peekNat ⟨.lpddr, s.firn.base.toNat + (s.viewEntry r).viewoff.toNat⟩ 8) %
            ((s.viewEntry r).viewlen.toNat * 128 - 1) < (s.viewEntry r).viewlen.toNat * 128 - 1 := Nat.mod_lt _ (by omega)
        omega

theorem carry_carried (s : State) (r : Record) : Carried s (s.carry r) :=
  ((Carried.firn s { s.firn with records := s.firn.records ++ [r], port := s.firn.port.take s.time.gt r } ⟨rfl, rfl, rfl, rfl⟩).trans (ringWrite_carried _ r)).trans
    (viewWrite_carried _ r)

theorem resetMark_carried (s : State) : Carried s s.resetMark := by
  unfold State.resetMark
  split
  · exact Carried.refl s
  · exact (Carried.firn s { s.firn with mark := false } ⟨rfl, rfl, rfl, rfl⟩).trans (carry_carried _ _)

/-- Emitting an event changes the firn registers and the bytes of the rings and views, and nothing else of the machine. -/
theorem emit_carried (s : State) (e : Ev) : Carried s (s.emit e) := by
  unfold State.emit
  exact ((resetMark_carried s).trans (carry_carried _ (s.resetMark.recordFor e))).trans
    (Carried.firn _ { (s.resetMark.carry (s.resetMark.recordFor e)).firn with
      dropping := s.resetMark.firn.dropping.filter (· != BitVec.ofNat 16 e.source) } ⟨rfl, rfl, rfl, rfl⟩)

theorem emit_kept {s : State} (h : memoryKept s) (e : Ev) : memoryKept (s.emit e) := (emit_carried s e).form h

@[simp] theorem emit_dev (s : State) (e : Ev) : (s.emit e).dev = s.dev :=
  (congrArg State.dev (emit_carried s e).rest :)
@[simp] theorem emit_time (s : State) (e : Ev) : (s.emit e).time = s.time :=
  (congrArg State.time (emit_carried s e).rest :)
@[simp] theorem emit_tables (s : State) (e : Ev) : (s.emit e).tables = s.tables :=
  (congrArg State.tables (emit_carried s e).rest :)
@[simp] theorem emit_work (s : State) (e : Ev) : (s.emit e).work = s.work :=
  (congrArg State.work (emit_carried s e).rest :)
@[simp] theorem emit_cores (s : State) (e : Ev) : (s.emit e).cores = s.cores :=
  (congrArg State.cores (emit_carried s e).rest :)
@[simp] theorem emit_panels (s : State) (e : Ev) : (s.emit e).panels = s.panels :=
  (congrArg State.panels (emit_carried s e).rest :)
@[simp] theorem emit_courses (s : State) (e : Ev) : (s.emit e).courses = s.courses :=
  (congrArg State.courses (emit_carried s e).rest :)
@[simp] theorem emit_async (s : State) (e : Ev) : (s.emit e).async = s.async :=
  (congrArg State.async (emit_carried s e).rest :)
@[simp] theorem emit_dbg (s : State) (e : Ev) : (s.emit e).dbg = s.dbg :=
  (congrArg State.dbg (emit_carried s e).rest :)
@[simp] theorem emit_agenda (s : State) (e : Ev) : (s.emit e).agenda = s.agenda :=
  (congrArg State.agenda (emit_carried s e).rest :)
@[simp] theorem emit_focus (s : State) (e : Ev) : (s.emit e).focus = s.focus :=
  (congrArg State.focus (emit_carried s e).rest :)
@[simp] theorem emit_rotor (s : State) (e : Ev) : (s.emit e).rotor = s.rotor :=
  (congrArg State.rotor (emit_carried s e).rest :)
@[simp] theorem emit_freeCount (s : State) (e : Ev) : (s.emit e).freeCount = s.freeCount :=
  (congrArg State.freeCount (emit_carried s e).rest :)

end Sys2Proof.Laws
end

