-- ==== Sys2Proof/Laws/Fetch.lean ====
section
/-! SUPPORT. What obtaining a line and checking a transfer's target do: they may put one line in the core's instruction cache. -/
set_option Elab.async false
namespace Sys2Proof.Laws
open Sys2Proof.Machine

/-- A line put in a core's cache changes that cache alone, and ends the fill of that line. -/
theorem icPut_core (s : State) (core n : Nat) (x : IcLine) :
    (s.icPut core x).core n = if n = core then { s.core core with
      icache := icInsert x (s.core core).icache
      filling := (s.core core).otherFills x.ctx x.line } else s.core n := by
  unfold State.icPut State.modCore
  split
  · next h => rw [h, core_setCore_self]; rfl
  · next h => rw [core_setCore_ne _ _ _ _ h]

theorem icPut_rest (s : State) (core : Nat) (x : IcLine) : ({ s.icPut core x with cores := s.cores } : State) = s := rfl

/-- Obtaining a line puts the line it answers in the cache, or leaves everything as it was. -/
theorem obtain_spec (s : State) (core : Nat) (w : Who) (line : Word) :
    (∃ x, s.obtain core w line = (s.icPut core x, .ok x)) ∨ ∃ e, s.obtain core w line = (s, .error e) := by
  unfold State.obtain
  split
  · next x _ => exact .inl ⟨x, rfl⟩
  · split
    · next e _ => exact .inr ⟨e, rfl⟩
    · next bits _ => exact .inl ⟨icMark w.ctx line bits, rfl⟩

/-- Checking a target leaves everything as it was, or puts one line in the core's cache. -/
theorem checkTarget_spec (s : State) (core : Nat) (w : Who) (tgt : Bool) (pc : Word) :
    (s.checkTarget core w tgt pc).1 = s ∨ ∃ x, (s.checkTarget core w tgt pc).1 = s.icPut core x := by
  unfold State.checkTarget
  split
  · exact .inl rfl
  · rcases obtain_spec s core w (pcLine pc) with ⟨x, h⟩ | ⟨e, h⟩
    · rw [h]
      refine .inr ⟨x, ?_⟩
      simp only []
      split <;> rfl
    · rw [h]; exact .inl rfl

theorem checkTarget_courses (s : State) (core : Nat) (w : Who) (tgt : Bool) (pc : Word) :
    (s.checkTarget core w tgt pc).1.courses = s.courses := by
  rcases checkTarget_spec s core w tgt pc with h | ⟨x, h⟩ <;> rw [h]
  rfl

theorem checkTarget_mem (s : State) (core : Nat) (w : Who) (tgt : Bool) (pc : Word) :
    (s.checkTarget core w tgt pc).1.mem = s.mem := by
  rcases checkTarget_spec s core w tgt pc with h | ⟨x, h⟩ <;> rw [h]
  rfl

end Sys2Proof.Laws
end

