-- ==== Sys2Proof/Laws/Issue.lean ====
section
/-! SUPPORT. What the shared run of an instruction of a course does: the frontier, the registers, the completion. -/
set_option Elab.async false
namespace Sys2Proof.Laws
open Sys2Proof.Machine Sys2Proof.Safety

/-! ## The frontier (R143, R144) -/

theorem mem_insertEntry {e x : Entry} {l : List Entry} : x ∈ insertEntry e l ↔ x = e ∨ x ∈ l := by
  induction l with
  | nil => simp [insertEntry]
  | cons f t ih =>
    simp only [insertEntry]
    split
    · simp
    · simp only [List.mem_cons, ih]; constructor <;> (intro h; rcases h with h | h | h <;> simp [h])

@[simp] theorem mem_sortEntries {x : Entry} {l : List Entry} : x ∈ sortEntries l ↔ x ∈ l := by
  induction l with
  | nil => simp [sortEntries]
  | cons e t ih => simp [sortEntries, mem_insertEntry, ih]

/-- Every entry of the first list stands in the second, at its place, with all its strands. -/
def Covers (l l' : List Entry) : Prop := ∀ e ∈ l, ∃ e' ∈ l', e.mask &&& e'.mask = e.mask ∧ e'.pc = e.pc

theorem Covers.refl (l : List Entry) : Covers l l := fun e h => ⟨e, h, by simp, rfl⟩

theorem and_absorb {a b c : BitVec 16} (h : a &&& b = a) (k : b &&& c = b) : a &&& c = a := by
  rw [← h, BitVec.and_assoc, k]

theorem Covers.trans {a b c : List Entry} (h : Covers a b) (k : Covers b c) : Covers a c := by
  intro e he
  obtain ⟨e1, h1, m1, p1⟩ := h e he
  obtain ⟨e2, h2, m2, p2⟩ := k e1 h1
  exact ⟨e2, h2, and_absorb m1 m2, p2.trans p1⟩

theorem and_or_self16 (m n : BitVec 16) : m &&& (m ||| n) = m := by
  apply BitVec.eq_of_getLsbD_eq; intro i _; simp; cases m.getLsbD i <;> simp
theorem and_or_self16' (m n : BitVec 16) : m &&& (n ||| m) = m := by
  rw [BitVec.or_comm]; exact and_or_self16 m n

/-- A group that goes into the frontier stands in it, and what was there stays. -/
theorem placeGroup_covers (E : Entry) (k : Option Nat) (l : List Entry) (g : Word × Half × BitVec 16) :
    Covers l (placeGroup E k l g) ∧ ∃ e ∈ placeGroup E k l g, g.2.2 &&& e.mask = g.2.2 ∧ e.pc = g.1 := by
  obtain ⟨pc, prio, m⟩ := g
  unfold placeGroup
  simp only
  split
  · next f hf =>
    have hm := List.mem_of_find?_eq_some hf
    have hp := List.find?_some hf
    simp only [Bool.and_eq_true, beq_iff_eq] at hp
    refine ⟨fun e he => ?_, ⟨_, List.mem_cons_self, ?_, hp.1⟩⟩
    · by_cases h : e = f
      · exact ⟨_, List.mem_cons_self, by rw [h]; exact and_or_self16 _ _, by rw [h]⟩
      · exact ⟨e, List.mem_cons_of_mem _ ((List.mem_erase_of_ne h).2 he), by simp, rfl⟩
    · exact and_or_self16' _ _
  · refine ⟨fun e he => ⟨e, List.mem_cons_of_mem _ he, by simp, rfl⟩, ⟨_, List.mem_cons_self, ?_, ?_⟩⟩
    all_goals (split <;> split <;> simp [Entry.fresh])

theorem foldGroups_covers (E : Entry) (k : Option Nat) (gs : List (Word × Half × BitVec 16)) (l : List Entry) :
    Covers l (gs.foldl (placeGroup E k) l) ∧
      ∀ g ∈ gs, ∃ e ∈ gs.foldl (placeGroup E k) l, g.2.2 &&& e.mask = g.2.2 ∧ e.pc = g.1 := by
  induction gs generalizing l with
  | nil => exact ⟨Covers.refl l, by simp⟩
  | cons g t ih =>
    obtain ⟨h1, e, he, hm, hp⟩ := placeGroup_covers E k l g
    obtain ⟨h2, h3⟩ := ih (placeGroup E k l g)
    refine ⟨h1.trans h2, fun g' hg' => ?_⟩
    rcases List.mem_cons.1 hg' with rfl | hg'
    · obtain ⟨e', he', hm', hp'⟩ := h2 e he
      exact ⟨e', he', and_absorb hm hm', hp'.trans hp⟩
    · exact h3 g' hg'

/-- No two groups have one PC. -/
theorem groupByPc_distinct (t : List (Nat × Word × Half)) : (groupByPc t).Pairwise (fun a b => a.1 ≠ b.1) := by
  induction t with
  | nil => simp [groupByPc]
  | cons z u ihu =>
    obtain ⟨zl, zp, zr⟩ := z
    simp only [groupByPc]
    split
    · refine List.pairwise_cons.2 ⟨fun a ha => ?_, ihu.filter _⟩
      have := (List.mem_filter.1 ha).2
      simp only [bne_iff_ne, ne_eq] at this
      exact fun e => this e.symm
    · next hnone =>
      refine List.pairwise_cons.2 ⟨fun a ha => ?_, ihu⟩
      have := List.find?_eq_none.1 hnone a ha
      simp only [beq_iff_eq] at this
      exact fun e => this e.symm

theorem eq_of_pairwise_ne {l : List (Word × Half × BitVec 16)} (h : l.Pairwise (fun a b => a.1 ≠ b.1)) {a b : Word × Half × BitVec 16}
    (ha : a ∈ l) (hb : b ∈ l) (he : a.1 = b.1) : a = b := by
  induction l with
  | nil => exact absurd ha List.not_mem_nil
  | cons x t ih =>
    obtain ⟨h1, h2⟩ := List.pairwise_cons.1 h
    rcases List.mem_cons.1 ha with ea | ha
    · rcases List.mem_cons.1 hb with eb | hb
      · rw [ea, eb]
      · exact absurd (ea ▸ he) (h1 b hb)
    · rcases List.mem_cons.1 hb with eb | hb
      · exact absurd (eb ▸ he.symm) (h1 a ha)
      · exact ih h2 ha hb

theorem bit_self {n : Nat} (h : n < 16) : (((1 <<< n : Nat) : BitVec 16)).getLsbD n = true := by
  have : ∀ n : Fin 16, (((1 <<< n.val : Nat) : BitVec 16)).getLsbD n.val = true := by decide
  exact this ⟨n, h⟩

/-- Each strand is in the group of its PC. -/
theorem groupByPc_has (l : List (Nat × Word × Half)) :
    ∀ x ∈ l, x.1 < 16 → ∃ g ∈ groupByPc l, g.1 = x.2.1 ∧ g.2.2.getLsbD x.1 = true := by
  induction l with
  | nil => simp
  | cons y t ih =>
    obtain ⟨lane, pc, prio⟩ := y
    intro x hx hlt
    simp only [groupByPc]
    split
    · next q pr m hf =>
      have hm := List.mem_of_find?_eq_some hf
      have hp := List.find?_some hf
      simp only [beq_iff_eq] at hp
      subst hp
      rcases List.mem_cons.1 hx with rfl | hx
      · exact ⟨_, List.mem_cons_self, rfl, by rw [BitVec.getLsbD_or, bit_self hlt, Bool.or_true]⟩
      · obtain ⟨g, hg, h1, h2⟩ := ih x hx hlt
        by_cases hq : g.1 = q
        · have he := eq_of_pairwise_ne (groupByPc_distinct t) hg hm hq
          subst he
          exact ⟨_, List.mem_cons_self, h1, by rw [BitVec.getLsbD_or, h2, Bool.true_or]⟩
        · exact ⟨g, List.mem_cons_of_mem _ (List.mem_filter.2 ⟨hg, by simp [hq]⟩), h1, h2⟩
    · rcases List.mem_cons.1 hx with rfl | hx
      · exact ⟨_, List.mem_cons_self, rfl, bit_self hlt⟩
      · obtain ⟨g, hg, h1, h2⟩ := ih x hx hlt
        exact ⟨g, List.mem_cons_of_mem _ hg, h1, h2⟩

theorem bit_of_and {m n : BitVec 16} {i : Nat} (h : m &&& n = m) (hm : m.getLsbD i = true) : n.getLsbD i = true := by
  rw [← h, BitVec.getLsbD_and] at hm; simp_all

/-- After the update of R144 every strand stands where `nexts` says, and the other entries stay. -/
theorem updateFrontier_spec (l : List Entry) (E : Entry) (nexts : List (Nat × Word × Half)) (jumped : List Nat) :
    Covers (l.erase E) (updateFrontier l E nexts jumped) ∧
      ∀ x ∈ nexts, x.1 < 16 → ∃ e ∈ updateFrontier l E nexts jumped, e.mask.getLsbD x.1 = true ∧ e.pc = x.2.1 := by
  have key : ∀ keeper, Covers (l.erase E) (sortEntries ((groupByPc nexts).foldl (placeGroup E keeper) (l.erase E))) ∧
      ∀ x ∈ nexts, x.1 < 16 → ∃ e ∈ sortEntries ((groupByPc nexts).foldl (placeGroup E keeper) (l.erase E)),
        e.mask.getLsbD x.1 = true ∧ e.pc = x.2.1 := by
    intro keeper
    obtain ⟨h1, h2⟩ := foldGroups_covers E keeper (groupByPc nexts) (l.erase E)
    constructor
    · intro e he
      obtain ⟨e', he', h⟩ := h1 e he
      exact ⟨e', mem_sortEntries.2 he', h⟩
    · intro x hx hlt
      obtain ⟨g, hg, hpc, hb⟩ := groupByPc_has nexts x hx hlt
      obtain ⟨e, he, hm, hp⟩ := h2 g hg
      exact ⟨e, mem_sortEntries.2 he, bit_of_and hm hb, hp.trans hpc⟩
  exact key _

theorem mem_lanesOf {m : BitVec 16} {i : Nat} : i ∈ lanesOf m ↔ m.getLsbD i = true := by
  simp only [lanesOf, List.mem_filter, List.mem_range, and_iff_right_iff_imp]
  intro h
  by_contra hn
  rw [BitVec.getLsbD_of_ge _ _ (by omega)] at h
  cases h

/-! ## Setting a frontier -/

@[simp] theorem setFr_kreg (c : Course) (l : Nat) (x : List Entry) : (c.setFr l x).kreg = c.kreg := by
  unfold Course.setFr; split <;> rfl
@[simp] theorem setFr_strands (c : Course) (l : Nat) (x : List Entry) : (c.setFr l x).strands = c.strands := by
  unfold Course.setFr; split <;> rfl
@[simp] theorem setFr_level (c : Course) (l : Nat) (x : List Entry) : (c.setFr l x).level = c.level := by
  unfold Course.setFr; split <;> rfl
@[simp] theorem setFr_orphan (c : Course) (l : Nat) (x : List Entry) : (c.setFr l x).orphan = c.orphan := by
  unfold Course.setFr; split <;> rfl
@[simp] theorem setFr_passAt (c : Course) (l : Nat) (x : List Entry) : (c.setFr l x).passAt = c.passAt := by
  unfold Course.setFr; split <;> rfl
@[simp] theorem setFr_stepFree (c : Course) (l : Nat) (x : List Entry) : (c.setFr l x).stepFree = c.stepFree := by
  unfold Course.setFr; split <;> rfl
@[simp] theorem setFr_resumed (c : Course) (l : Nat) (x : List Entry) : (c.setFr l x).resumed = c.resumed := by
  unfold Course.setFr; split <;> rfl
theorem fr_setFr (c : Course) (l : Nat) (x : List Entry) (k : Nat) (hl : l < 3) (hk : k < 3) :
    (c.setFr l x).fr k = if k = l then x else c.fr k := by
  match l, k with
  | 0, 0 | 1, 1 | 2, 2 => rfl
  | 0, 1 | 0, 2 | 1, 0 | 1, 2 | 2, 0 | 2, 1 => rfl
  | n + 3, _ => omega
  | _, n + 3 => omega
@[simp] theorem front_setFront (c : Course) (x : List Entry) : (c.setFront x).front = x := by
  unfold Course.front Course.setFront
  rw [setFr_level, fr_setFr _ _ _ _ c.level.isLt c.level.isLt, if_pos rfl]
theorem setFr_rest (c : Course) (l : Nat) (x : List Entry) :
    { c.setFr l x with fr0 := c.fr0, fr1 := c.fr1, fr2 := c.fr2 } = c := by
  unfold Course.setFr; split <;> rfl

/-- Where a strand goes: as its transfer says, else to the next slot. -/
def goesTo (E : Entry) (jumps : List (Nat × Word × Half)) (i : Nat) : Word :=
  match jumps.find? (fun x => x.1 == i) with
  | some x => x.2.1
  | none => pcNext E.pc

/-- The frontier after an instruction that does not wait (R144). -/
theorem advance_spec (c : Course) (E : Entry) (e : Eff) (hw : e.wait = none) :
    (∀ i, E.mask.getLsbD i = true → ∃ x ∈ (c.advance E e).front, x.mask.getLsbD i = true ∧ x.pc = goesTo E e.jumps i) ∧
      Covers (c.front.erase E) (c.advance E e).front := by
  unfold Course.advance
  simp only [hw, front_setFront]
  set rest := (if e.visible then (c.front.erase E).map (fun x => { x with demoted := false }) else c.front.erase E) with hrest
  set E0 : Entry := { E with spinAcc := e.folds.foldl foldSpin E.spinAcc, spinA := E.spinA || e.visible,
                             demoted := E.demoted && !e.visible, wait := .none }
  set E1 := (if e.back then spinStep E0 else E0) with hE1
  set nexts := (lanesOf E.mask).map (fun i => match e.jumps.find? (fun (j, _, _) => j == i) with
      | some x => x
      | none => (i, pcNext E.pc, E.prio)) with hn
  obtain ⟨h1, h2⟩ := updateFrontier_spec (E1 :: rest) E1 nexts (e.jumps.map (·.1))
  rw [List.erase_cons_head] at h1
  constructor
  · intro i hi
    have hlt : i < 16 := by
      by_contra hge
      rw [BitVec.getLsbD_of_ge _ _ (by omega)] at hi; cases hi
    have hmem : (match e.jumps.find? (fun (j, _, _) => j == i) with
      | some x => x
      | none => (i, pcNext E.pc, E.prio)) ∈ nexts := List.mem_map.2 ⟨i, mem_lanesOf.2 hi, rfl⟩
    unfold goesTo
    cases hf : e.jumps.find? (fun x => x.1 == i) with
    | none =>
      have hf' : e.jumps.find? (fun (j, _, _) => j == i) = none := hf
      rw [hf'] at hmem
      exact h2 _ hmem hlt
    | some x =>
      have hx := List.find?_some hf
      simp only [beq_iff_eq] at hx
      have hf' : e.jumps.find? (fun (j, _, _) => j == i) = some x := hf
      rw [hf'] at hmem
      subst hx
      exact h2 _ hmem hlt
  · refine Covers.trans (fun x hx => ?_) h1
    by_cases hv : e.visible = true
    · rw [hrest, if_pos hv]
      exact ⟨_, List.mem_map.2 ⟨x, hx, rfl⟩, by simp, rfl⟩
    · rw [hrest, if_neg hv]
      exact ⟨x, hx, by simp, rfl⟩

theorem advance_eq (c : Course) (E : Entry) (e : Eff) : ∃ l, c.advance E e = c.setFront l := by
  unfold Course.advance
  simp only
  split <;> exact ⟨_, rfl⟩

/-! ## Completion -/

theorem kfind_none {α : Type} {m : KMap α} {p : Nat → α → Bool} (h : ∀ x ∈ m, p x.1 x.2 = false) : kfind m p = none := by
  unfold kfind
  rw [List.find?_eq_none]
  intro x hx
  have := h x hx
  simpa using this

/-- No parked fault of this instruction ends. -/
theorem faultOver_none {s : State} {who : FaultWho} (h : ∀ p ∈ s.async.faults, p.2.who ≠ who) : s.faultOver who = s := by
  unfold State.faultOver
  rw [kfind_none]
  intro x hx
  simpa using h x hx

theorem course?_setCourse (s : State) (core slot : Nat) (c : Course) : (s.setCourse core slot c).course? core slot = some c :=
  kget_kset_self _ _ _

theorem setCourse_rest (s : State) (core slot : Nat) (c : Course) :
    { s.setCourse core slot c with courses := s.courses } = s := rfl

/-- The course then. -/
def passedCourse (c : Course) : Course := { c with passAt := none, stepFree := false, resumed := false }

theorem passed_course {s : State} {I : Iss} (h : s.course? I.core I.slot = some I.c) :
    (passed s I).course? I.core I.slot = some (passedCourse I.c) := by
  unfold passed
  split
  · exact course?_setCourse _ _ _ _
  · next hn =>
    have : passedCourse I.c = I.c := by
      unfold passedCourse
      simp only [Bool.or_eq_true, not_or, Bool.not_eq_true, Option.isSome_eq_false_iff, Option.isNone_iff_eq_none] at hn
      obtain ⟨⟨h1, h2⟩, h3⟩ := hn
      cases hc : I.c
      simp_all
    rw [this]; exact h

theorem passed_quiet (s : State) (I : Iss) : Quiet s (passed s I) := by
  unfold passed Quiet; split <;> rfl

theorem passed_who (s : State) (I : Iss) (core : Nat) (c : Course) : (passed s I).courseWho core c = s.courseWho core c := by
  unfold passed; split <;> rfl

theorem passed_async (s : State) (I : Iss) : (passed s I).async = s.async := by
  unfold passed; split <;> rfl

theorem passed_others (s : State) (I : Iss) {k : Nat} (h : k ≠ courseKey I.core I.slot) :
    kget (passed s I).courses k = kget s.courses k := by
  unfold passed; split
  · exact kget_kset_ne h _
  · rfl

/-- An issuing instruction whose body answers an effect completes with it. -/
theorem runCourse_ok {s s2 : State} {i : Instr} {rmw : Bool} {req : List Reg} {I : Iss} {body : Iss → State → Ran} {e : Eff}
    (h : Issues s i rmw req I) (hb : body I (passed s I) = (s2, .ok e)) :
    runCourse s i rmw req body = .next (State.complete I e) := by
  obtain ⟨f, hf, hl, hu, hd⟩ := h.form
  have hI : I = { core := I.core, slot := I.slot, c := I.c, E := I.E, w := (passed s I).courseWho I.core I.c,
                  lanes := guardLanes I.c I.E f.c.guard, uni := formUniform f rmw, leader := (guardLanes I.c I.E f.c.guard).headD 0 } := by
    have h1 := h.who
    have h2 := h.leader
    rw [passed_who]
    cases I; simp_all
  have hne : (guardLanes I.c I.E f.c.guard).isEmpty = false := by
    have := h.some
    rw [hl] at this
    cases hg : guardLanes I.c I.E f.c.guard with
    | nil => exact absurd hg this
    | cons _ _ => rfl
  unfold runCourse
  simp only [h.focus, h.course, hf, h.head, hne, Bool.false_eq_true, if_false]
  have hp : (if I.c.passAt.isSome || I.c.stepFree || I.c.resumed then s.setCourse I.core I.slot { I.c with passAt := none, stepFree := false, resumed := false } else s) = passed s I := rfl
  rw [hp, ← hI]
  simp only [hd, hb]

/-- An issuing instruction whose body fails traps or is held. -/
theorem runCourse_error {s s2 : State} {i : Instr} {rmw : Bool} {req : List Reg} {I : Iss} {body : Iss → State → Ran} {e : Stop}
    {m : BitVec 16} (h : Issues s i rmw req I) (hb : body I (passed s I) = (s2, .error (e, m))) :
    runCourse s i rmw req body = .next (s2.failed I e m) := by
  obtain ⟨f, hf, hl, hu, hd⟩ := h.form
  have hI : I = { core := I.core, slot := I.slot, c := I.c, E := I.E, w := (passed s I).courseWho I.core I.c,
                  lanes := guardLanes I.c I.E f.c.guard, uni := formUniform f rmw, leader := (guardLanes I.c I.E f.c.guard).headD 0 } := by
    have h1 := h.who
    have h2 := h.leader
    rw [passed_who]
    cases I; simp_all
  have hne : (guardLanes I.c I.E f.c.guard).isEmpty = false := by
    have := h.some
    rw [hl] at this
    cases hg : guardLanes I.c I.E f.c.guard with
    | nil => exact absurd hg this
    | cons _ _ => rfl
  unfold runCourse
  simp only [h.focus, h.course, hf, h.head, hne, Bool.false_eq_true, if_false]
  have hp : (if I.c.passAt.isSome || I.c.stepFree || I.c.resumed then s.setCourse I.core I.slot { I.c with passAt := none, stepFree := false, resumed := false } else s) = passed s I := rfl
  rw [hp, ← hI]
  simp only [hd, hb]

/-- What a plain effect completes with: the course with its new frontier. -/
theorem complete_plain {I : Iss} {e : Eff} {c : Course} (hc : e.s.course? I.core I.slot = some c) (ho : c.orphan = none)
    (hf : ∀ p ∈ e.s.async.faults, p.2.who ≠ .course I.core I.slot I.E.pc) (hp : e.popped = false) (hl : e.leave = [])
    (ha : e.arrive = none) (hh : e.hits = []) : State.complete I e = e.s.setCourse I.core I.slot (c.advance I.E e) := by
  have hfo : (if e.s.async.faults.isEmpty then e.s else e.s.faultOver (.course I.core I.slot I.E.pc)) = e.s := by
    split
    · rfl
    · exact faultOver_none hf
  unfold State.complete
  simp only [hfo, hc, ho, Option.isSome_none, hp, hl, ha, hh, List.isEmpty_nil, Bool.false_eq_true, if_false, if_true]

/-- A plain effect moves its strands on and leaves the rest as the body left it. -/
theorem complete_moves {s : State} {I : Iss} {e : Eff} {c : Course} (hs : ∀ k, k ≠ courseKey I.core I.slot → kget e.s.courses k = kget s.courses k)
    (hc : e.s.course? I.core I.slot = some c) (hI : s.course? I.core I.slot = some I.c) (ho : I.c.orphan = none)
    (hr : { c with kreg := I.c.kreg, strands := I.c.strands } = passedCourse I.c)
    (hf : ∀ p ∈ e.s.async.faults, p.2.who ≠ .course I.core I.slot I.E.pc) (hp : e.popped = false) (hl : e.leave = [])
    (ha : e.arrive = none) (hh : e.hits = []) (hw : e.wait = none) :
    ∃ c', Moves s (State.complete I e) I c' (goesTo I.E e.jumps) ∧ c'.kreg = c.kreg ∧ c'.strands = c.strands ∧
      State.complete I e = e.s.setCourse I.core I.slot c' := by
  have hoc : c.orphan = none := by
    have := congrArg Course.orphan hr
    exact Eq.trans this ho
  have hlev : c.level = I.c.level := by
    have := congrArg Course.level hr
    exact this
  have hfr : ∀ l, l < 3 → c.fr l = I.c.fr l := by
    intro l hl
    match l, hl with
    | 0, _ => have := congrArg Course.fr0 hr; exact this
    | 1, _ => have := congrArg Course.fr1 hr; exact this
    | 2, _ => have := congrArg Course.fr2 hr; exact this
  have hfront : c.front = I.c.front := by
    unfold Course.front; rw [hlev]; exact hfr _ I.c.level.isLt
  have hpa : c.passAt = none := by
    have := congrArg Course.passAt hr
    exact this
  have hsf : c.stepFree = false := by
    have := congrArg Course.stepFree hr
    exact this
  have hrs : c.resumed = false := by
    have := congrArg Course.resumed hr
    exact this
  rw [complete_plain hc hoc hf hp hl ha hh]
  obtain ⟨h1, h2⟩ := advance_spec c I.E e hw
  obtain ⟨l, hadv⟩ := advance_eq c I.E e
  refine ⟨c.advance I.E e, ⟨course?_setCourse _ _ _ _, fun k hk => ?_, h1, ?_, ?_, ?_, ?_⟩, ?_, ?_, rfl⟩
  · exact (kget_kset_ne hk _).trans (hs k hk)
  · rw [← hfront]; exact h2
  · intro k hk hne
    rw [hadv]
    unfold Course.setFront
    rw [fr_setFr _ _ _ _ c.level.isLt hk, if_neg (by rw [hlev]; exact hne)]
    exact hfr k hk
  · rw [hadv]; unfold Course.setFront; simp [hpa, hsf, hrs]
  · rw [hadv]
    have e1 := setFr_rest c c.level.val l
    unfold Course.setFront
    generalize hgen : c.setFr c.level.val l = d at *
    unfold passedCourse at hr
    have hd : { d with fr0 := c.fr0, fr1 := c.fr1, fr2 := c.fr2 } = c := e1
    clear hgen e1 h1 h2 hadv
    cases d; cases c; cases hIc : I.c
    simp_all
  · rw [hadv]; unfold Course.setFront; simp
  · rw [hadv]; unfold Course.setFront; simp

end Sys2Proof.Laws
end

