-- ==== Sys2Proof/Laws/Registers.lean ====
section
/-! SUPPORT. What a register reads after a write, for one strand and for the strands of an instruction, and what an instruction that
reads and writes registers does as a whole. -/
set_option Elab.async false
namespace Sys2Proof.Laws
open Sys2Proof.Machine Sys2Proof.Safety

/-! ## One strand -/

theorem posGet_posSet (x : Strand) (n m : Nat) (v : Word) : (x.posSet n v).posGet m = if m = n then v else x.posGet m := by
  unfold Strand.posGet Strand.posSet
  by_cases hv : v = 0
  · simp only [hv, if_true]
    by_cases h : m = n
    · subst h; simp [kget_kdel_self]
    · simp [h, kget_kdel_ne h]
  · simp only [hv, if_false, kget_kset]
    by_cases h : m = n <;> simp [h]

theorem st_setSt (c : Course) (i j : Nat) (x : Strand) (h : i < 16) :
    (c.setSt i x).st j = if j = i then x else c.st j := by
  unfold Course.st Course.setSt
  by_cases e : j = i
  · subst e; simp [h]
  · simp [e, Vector.getElem?_setIfInBounds_ne (Ne.symm e)]

theorem st_modSt (c : Course) (i j : Nat) (f : Strand → Strand) (h : i < 16) :
    (c.modSt i f).st j = if j = i then f (c.st i) else c.st j := st_setSt c i j _ h

/-- What a strand's own registers read, by name. -/
def readOwn (x : Strand) (kreg : Vector Word 8) (r : Reg) : VReg :=
  match r with
  | .w i => VReg.ofWord (x.w i.val)
  | .k i => VReg.ofWord (if i.val == 0 then x.k0 else if i.val == 2 then x.k2 else kreg[i.val])
  | .p i => VReg.ofWord (if x.pred i.val then 1 else 0)
  | .v i => x.vreg i.val
  | .t i => VReg.ofWord (BitVec.ofNat 64 i.val)

theorem whole_eq (c : Course) (lane : Nat) (r : Reg) : c.whole lane r = readOwn (c.st lane) c.kreg r := by
  cases r <;> rfl

/-- What one strand becomes when a register is written, and what the shared registers become. -/
def writeOwn (x : Strand) (r : Reg) (v : VReg) : Strand :=
  match r with
  | .w i => x.setW i.val (v.bits.setWidth 64)
  | .k i => if i.val = 2 then { x with k2 := v.bits.setWidth 64 } else x
  | .p i => x.setPred i.val ((v.bits.setWidth 64).getLsbD 0)
  | .v i => x.setV i.val v
  | .t _ => x

def writeShared (k : Vector Word 8) (r : Reg) (v : VReg) : Vector Word 8 :=
  match r with
  | .k i => if i.val = 0 ∨ i.val = 2 then k else k.set i.val (v.bits.setWidth 64)
  | _ => k

theorem setSt_self (c : Course) (i : Nat) (_h : i < 16) : c.setSt i (c.st i) = c := by
  unfold Course.setSt Course.st
  have : c.strands.setIfInBounds i (c.strands[i]?.getD (Strand.start 0 0)) = c.strands := by
    ext j hj
    simp only [Vector.getElem_setIfInBounds]
    split
    · next e => subst e; simp [hj]
    · rfl
  rw [this]

theorem writeAny_eq (c : Course) (lane : Nat) (h : lane < 16) (r : Reg) (v : VReg) :
    c.writeAny lane r v = { c.setSt lane (writeOwn (c.st lane) r v) with kreg := writeShared c.kreg r v } := by
  cases r with
  | w i => rfl
  | v i => rfl
  | p i => rfl
  | t i =>
    simp only [Course.writeAny, Course.write, writeOwn, writeShared, setSt_self c lane h]
  | k i =>
    simp only [Course.writeAny, Course.write, writeOwn, writeShared, beq_iff_eq]
    by_cases h0 : i.val = 0
    · simp [h0, setSt_self c lane h]
    · by_cases h2 : i.val = 2
      · simp [h2, Course.modSt]; rfl
      · simp [h0, h2, setSt_self c lane h]

theorem pred_setPred (x : Strand) (i j : Nat) (b : Bool) (hi : i < 8) (hj : j < 8) :
    (x.setPred i b).pred j = if j = i ∧ i ≠ 0 then b else x.pred j := by
  have key : ∀ (p : BitVec 8) (b : Bool) (i j : Fin 8),
      (((if b then p ||| ((1 <<< i.val : Nat) : BitVec 8) else p &&& ~~~((1 : BitVec 8) <<< i.val)) : BitVec 8)).getLsbD j.val =
        if j = i then b else p.getLsbD j.val := by
    intro p b i j
    cases b <;> fin_cases i <;> fin_cases j <;> simp
  unfold Strand.setPred Strand.pred
  by_cases h0 : i = 0
  · subst h0; simp
  · have hb0 : (i == 0) = false := by simpa using h0
    simp only [hb0, Bool.false_eq_true, if_false]
    by_cases hj0 : j = 0
    · subst hj0; simp [Ne.symm h0]
    · have hb : (j == 0) = false := by simpa using hj0
      simp only [hb, Bool.false_or]
      have := key x.p b ⟨i, hi⟩ ⟨j, hj⟩
      by_cases hji : j = i
      · subst hji; simpa [h0] using this
      · simpa [hji] using this

theorem readOwn_writeOwn (x : Strand) (k : Vector Word 8) (r q : Reg) (v : VReg) :
    readOwn (writeOwn x r v) (writeShared k r v) q = if q = r then taken r v (readOwn x k q) else readOwn x k q := by
  cases r with
  | w i =>
    cases q with
    | w j =>
      simp only [readOwn, writeOwn, Strand.w, Strand.setW, posGet_posSet, Reg.w.injEq, taken]
      have : (Strand.posSet x (x.wb + ↑i) (BitVec.setWidth 64 v.bits)).wb = x.wb := rfl
      rw [this]
      by_cases h : j = i
      · simp [h]
      · have hv : j.val ≠ i.val := fun e => h (Fin.ext e)
        simp [h, hv]
    | k j => rfl
    | p j => rfl
    | v j => rfl
    | t j => rfl
  | k i =>
    cases q with
    | k j =>
      simp only [readOwn, writeOwn, writeShared, Reg.k.injEq, taken, beq_iff_eq]
      by_cases h : j = i
      · subst h
        by_cases h0 : j.val = 0
        · have : j = 0 := Fin.ext h0
          subst this; simp
        · have hne : j ≠ 0 := fun e => h0 (by rw [e]; rfl)
          by_cases h2 : j.val = 2 <;> simp [h0, h2, hne]
      · have hv : j.val ≠ i.val := fun e => h (Fin.ext e)
        by_cases h2 : i.val = 2
        · simp only [h, h2, if_true, if_false, or_true]
          by_cases j0 : j.val = 0
          · simp [j0]
          · have : j.val ≠ 2 := by omega
            simp [j0, this]
        · by_cases h0 : i.val = 0
          · simp [h, h0]
          · simp only [h, h0, h2, if_false, or_self]
            rw [Vector.getElem_set_ne _ _ (Ne.symm hv)]
    | w j => simp only [readOwn, writeOwn]; split <;> simp [Strand.w, Strand.posGet]
    | p j => simp only [readOwn, writeOwn]; split <;> simp [Strand.pred]
    | v j => simp only [readOwn, writeOwn]; split <;> simp [Strand.vreg]
    | t j => simp [readOwn]
  | p i =>
    cases q with
    | p j =>
      simp only [readOwn, writeOwn, Reg.p.injEq, taken, pred_setPred _ _ _ _ i.isLt j.isLt]
      by_cases h : j = i
      · subst h
        by_cases h0 : j = 0
        · subst h0; simp
        · have : j.val ≠ 0 := fun e => h0 (Fin.ext e)
          simp [h0, this]
      · have : j.val ≠ i.val := fun e => h (Fin.ext e)
        simp [h, this]
    | w j => simp only [readOwn, writeOwn, Strand.setPred]; split <;> simp [Strand.w, Strand.posGet]
    | k j =>
      have h0 : (x.setPred i.val ((v.bits.setWidth 64).getLsbD 0)).k0 = x.k0 := by unfold Strand.setPred; split <;> rfl
      have h2 : (x.setPred i.val ((v.bits.setWidth 64).getLsbD 0)).k2 = x.k2 := by unfold Strand.setPred; split <;> rfl
      simp only [readOwn, writeOwn, writeShared, h0, h2, reduceCtorEq, if_false]
    | v j => simp only [readOwn, writeOwn, Strand.setPred]; split <;> simp [Strand.vreg]
    | t j => simp [readOwn]
  | v i =>
    cases q with
    | v j =>
      simp only [readOwn, writeOwn, Reg.v.injEq, taken, Strand.vreg, Strand.setV]
      by_cases h : j = i
      · subst h; simp
      · have : i.val ≠ j.val := fun e => h (Fin.ext e.symm)
        rw [Vector.getElem?_setIfInBounds_ne this]; simp [h]
    | w j => rfl
    | k j => rfl
    | p j => rfl
    | t j => rfl
  | t i =>
    simp only [writeOwn, writeShared, taken]; split <;> rfl

/-- A register that a strand does not share reads the same whatever is written to another strand. -/
theorem readOwn_shared (x : Strand) (k : Vector Word 8) (r q : Reg) (v : VReg) :
    readOwn x (writeShared k r v) q = if q = r ∧ Reg.shared r = true then taken r v (readOwn x k q) else readOwn x k q := by
  cases r with
  | k i =>
    cases q with
    | k j =>
      simp only [readOwn, writeShared, Reg.k.injEq, taken, beq_iff_eq, Reg.shared, Bool.and_eq_true, bne_iff_ne, ne_eq]
      by_cases h : j = i
      · subst h
        by_cases h0 : j.val = 0
        · simp [h0]
        · have hne : j ≠ 0 := fun e => h0 (by rw [e]; rfl)
          by_cases h2 : j.val = 2 <;> simp [h0, h2, hne]
      · have hv : j.val ≠ i.val := fun e => h (Fin.ext e)
        have hk : (if i.val = 0 ∨ i.val = 2 then k else k.set i.val (v.bits.setWidth 64))[j.val] = k[j.val] := by
          split
          · rfl
          · rw [Vector.getElem_set_ne _ _ (Ne.symm hv)]
        simp only [h, false_and, if_false, hk]
    | w j => simp [readOwn]
    | p j => simp [readOwn]
    | v j => simp [readOwn]
    | t j => simp [readOwn]
  | w i => cases q <;> simp [readOwn, writeShared, Reg.shared]
  | v i => cases q <;> simp [readOwn, writeShared, Reg.shared]
  | t i => cases q <;> simp [readOwn, writeShared, Reg.shared, taken]
  | p i =>
    cases q with
    | p j =>
      simp only [readOwn, Reg.shared, Reg.p.injEq, taken, beq_iff_eq]
      by_cases h : j = i
      · subst h
        by_cases h0 : j = 0
        · subst h0; simp
        · have : j.val ≠ 0 := fun e => h0 (Fin.ext e)
          simp [this]
      · simp [h]
    | w j => simp [readOwn]
    | k j => rfl
    | v j => simp [readOwn]
    | t j => simp [readOwn]

/-! ## The strands of an instruction -/

/-- A course after the strands of a list have stored their values and flags. -/
structure Stored (c c' : Course) (l : List Nat) (dst : Reg) (v : Nat → VReg) (u : VReg) (g : Nat → Flags) : Prop where
  regs  : ∀ lane, lane < 16 → ∀ r, c'.whole lane r =
    if r = dst ∧ (lane ∈ l ∨ (Reg.shared dst = true ∧ l ≠ [])) then taken dst (if lane ∈ l then v lane else u) (c.whole lane r)
    else c.whole lane r
  wb    : ∀ lane, lane < 16 → (c'.st lane).wb = (c.st lane).wb
  stack : ∀ lane, lane < 16 → ∀ n, (∀ j : Fin 24, n ≠ (c.st lane).wb + j.val) → (c'.st lane).posGet n = (c.st lane).posGet n
  flags : ∀ lane, lane < 16 → (c'.st lane).fpstat = if lane ∈ l then (c.st lane).fpstat ||| g lane else (c.st lane).fpstat
  rest  : ∀ lane, lane < 16 → { c'.st lane with k2 := (c.st lane).k2, stack := (c.st lane).stack, v := (c.st lane).v,
                                                p := (c.st lane).p, fpstat := (c.st lane).fpstat } = c.st lane
  course : { c' with kreg := c.kreg, strands := c.strands } = c

theorem writeOwn_rest (x : Strand) (r : Reg) (v : VReg) :
    { writeOwn x r v with k2 := x.k2, stack := x.stack, v := x.v, p := x.p } = x := by
  cases r with
  | w i => rfl
  | k i => unfold writeOwn; simp only; split <;> rfl
  | p i => unfold writeOwn Strand.setPred; simp only; split <;> rfl
  | v i => rfl
  | t i => rfl

theorem writeOwn_stack (x : Strand) (r : Reg) (v : VReg) (n : Nat) (h : ∀ j : Fin 24, n ≠ x.wb + j.val) :
    (writeOwn x r v).posGet n = x.posGet n := by
  cases r with
  | w i => simp [writeOwn, Strand.setW, posGet_posSet, h i]
  | k i => unfold writeOwn; simp only; split <;> rfl
  | p i => unfold writeOwn Strand.setPred; simp only; split <;> rfl
  | v i => rfl
  | t i => rfl

/-- The result of one strand. -/
def res1 (dst : Reg) (v : VReg) (g : Flags) : Res := { writes := [(dst, v)], flags := g }

theorem apply_eq (c : Course) (lane : Nat) (h : lane < 16) (dst : Reg) (v : VReg) (g : Flags) (x : Res)
    (hw : x.writes = [(dst, v)]) (hg : x.flags = g) :
    c.apply lane x = { c.setSt lane { writeOwn (c.st lane) dst v with fpstat := (c.st lane).fpstat ||| g } with
      kreg := writeShared c.kreg dst v } := by
  have hfp : (writeOwn (c.st lane) dst v).fpstat = (c.st lane).fpstat := by
    have := congrArg Strand.fpstat (writeOwn_rest (c.st lane) dst v)
    exact this
  unfold Course.apply
  simp only [hw, hg, List.foldl_cons, List.foldl_nil]
  rw [writeAny_eq c lane h]
  split
  · next h0 =>
    simp only [beq_iff_eq] at h0
    subst h0
    have : ({ writeOwn (c.st lane) dst v with fpstat := (c.st lane).fpstat ||| (0 : Flags) } : Strand) = writeOwn (c.st lane) dst v := by
      rw [show (c.st lane).fpstat ||| (0 : Flags) = (writeOwn (c.st lane) dst v).fpstat by rw [hfp]; exact BitVec.or_zero]
    rw [this]
  · have h1 : (({ c.setSt lane (writeOwn (c.st lane) dst v) with kreg := writeShared c.kreg dst v } : Course).st lane) =
        writeOwn (c.st lane) dst v := by
      show (c.setSt lane (writeOwn (c.st lane) dst v)).st lane = _
      rw [st_setSt _ _ _ _ h, if_pos rfl]
    have h2 : ∀ z : Strand, ({ c.setSt lane (writeOwn (c.st lane) dst v) with kreg := writeShared c.kreg dst v } : Course).setSt lane z =
        { c.setSt lane z with kreg := writeShared c.kreg dst v } := by
      intro z
      unfold Course.setSt
      have : (c.strands.setIfInBounds lane (writeOwn (c.st lane) dst v)).setIfInBounds lane z = c.strands.setIfInBounds lane z := by
        ext j hj
        simp only [Vector.getElem_setIfInBounds]
        split <;> rfl
      simp only [this]
    unfold Course.modSt
    rw [h1, h2]
    simp only [hfp]

theorem apply_stored (c : Course) (lane : Nat) (h : lane < 16) (dst : Reg) (v : Nat → VReg) (g : Nat → Flags) (x : Res)
    (hw : x.writes = [(dst, v lane)]) (hg : x.flags = g lane) : Stored c (c.apply lane x) [lane] dst v (v lane) g := by
  rw [apply_eq c lane h dst (v lane) (g lane) x hw hg]
  set y : Strand := { writeOwn (c.st lane) dst (v lane) with fpstat := (c.st lane).fpstat ||| g lane } with hy
  have hst : ∀ j, (({ c.setSt lane y with kreg := writeShared c.kreg dst (v lane) } : Course).st j) = if j = lane then y else c.st j :=
    fun j => st_setSt c lane j y h
  have hro : ∀ q k, readOwn y k q = readOwn (writeOwn (c.st lane) dst (v lane)) k q := by intro q k; cases q <;> rfl
  constructor
  · intro j hj r
    rw [whole_eq, whole_eq, hst]
    by_cases e : j = lane
    · subst e
      simp only [if_true, hro, readOwn_writeOwn, List.mem_singleton, true_or, and_true]
    · simp only [e, if_false, readOwn_shared, List.mem_singleton, false_or, ne_eq, List.cons_ne_self, not_false_eq_true, and_true]
  · intro j hj
    rw [hst]; split
    · next e =>
      subst e
      have := congrArg Strand.wb (writeOwn_rest (c.st j) dst (v j))
      exact this
    · rfl
  · intro j hj n hn
    rw [hst]; split
    · next e => subst e; exact writeOwn_stack _ _ _ _ hn
    · rfl
  · intro j hj
    rw [hst]
    by_cases e : j = lane
    · subst e; simp [hy]
    · simp [e]
  · intro j hj
    rw [hst]; split
    · next e =>
      subst e
      have := congrArg (fun z : Strand => { z with fpstat := (c.st j).fpstat }) (writeOwn_rest (c.st j) dst (v j))
      exact this
    · rfl
  · rfl

theorem stored_cons {c c1 c' : Course} {i : Nat} {l : List Nat} {dst : Reg} {v : Nat → VReg} {u : VReg} {g : Nat → Flags}
    (h1 : Stored c c1 [i] dst v (v i) g) (h2 : Stored c1 c' l dst v u g) (hd : i ∉ l) (hu : Reg.shared dst = true → v i = u ∧ ∀ j ∈ l, v j = u) :
    Stored c c' (i :: l) dst v u g := by
  have htt : ∀ a b o, taken dst a (taken dst b o) = taken dst a o := by
    intro a b o; cases dst <;> simp only [taken] <;> split <;> rfl
  constructor
  · intro lane hl r
    rw [h2.regs lane hl, h1.regs lane hl]
    by_cases hr : r = dst
    · subst hr
      by_cases hs : Reg.shared r = true
      · obtain ⟨hv, hall⟩ := hu hs
        simp only [hs, true_and, List.mem_cons, List.not_mem_nil, or_false, ne_eq, not_false_eq_true, or_true, if_true, reduceCtorEq]
        have e1 : (if lane = i then v lane else v i) = u := by split <;> simp_all
        have e2 : (if lane ∈ l then v lane else u) = u := by split <;> simp_all
        have e3 : (if lane = i ∨ lane ∈ l then v lane else u) = u := by
          split
          · next h => rcases h with h | h
                      · rw [h]; exact hv
                      · exact hall lane h
          · rfl
        rw [e1, e2, e3]
        split
        · exact htt _ _ _
        · rfl
      · simp only [hs, Bool.false_eq_true, false_and, or_false, List.not_mem_nil, List.mem_cons, true_and]
        by_cases hm : lane ∈ l
        · have : lane ≠ i := fun e => hd (e ▸ hm)
          simp [hm, this]
        · by_cases hi : lane = i
          · subst hi; simp [hm]
          · simp [hm, hi]
    · simp [hr]
  · intro lane hl; rw [h2.wb lane hl, h1.wb lane hl]
  · intro lane hl n hn
    rw [h2.stack lane hl n (by rw [h1.wb lane hl]; exact hn), h1.stack lane hl n hn]
  · intro lane hl
    rw [h2.flags lane hl, h1.flags lane hl]
    by_cases hm : lane ∈ l
    · have : lane ≠ i := fun e => hd (e ▸ hm)
      simp [hm, this]
    · by_cases hi : lane = i
      · subst hi; simp [hm]
      · simp [hm, hi]
  · intro lane hl
    have a := h1.rest lane hl
    have b := h2.rest lane hl
    generalize c'.st lane = x2 at *
    generalize c1.st lane = x1 at *
    generalize c.st lane = x0 at *
    cases x0; cases x1; cases x2; simp_all
  · have a := h1.course
    have b := h2.course
    cases c; cases c1; cases c'; simp_all

theorem stored_nil (c : Course) (dst : Reg) (v : Nat → VReg) (u : VReg) (g : Nat → Flags) : Stored c c [] dst v u g := by
  constructor <;> simp

theorem foldl_stored (l : List Nat) (c : Course) (dst : Reg) (v : Nat → VReg) (u : VReg) (g : Nat → Flags) (x : Nat → Res)
    (hl : ∀ i ∈ l, i < 16) (hn : l.Nodup) (hx : ∀ i ∈ l, (x i).writes = [(dst, v i)] ∧ (x i).flags = g i)
    (hu : Reg.shared dst = true → ∀ i ∈ l, v i = u) :
    Stored c (l.foldl (fun c i => c.apply i (x i)) c) l dst v u g := by
  induction l generalizing c with
  | nil => exact stored_nil c dst v u g
  | cons i t ih =>
    have hi := List.mem_cons_self (a := i) (l := t)
    refine stored_cons (apply_stored c i (hl i hi) dst v g (x i) (hx i hi).1 (hx i hi).2)
      (ih (c.apply i (x i)) (fun j hj => hl j (List.mem_cons_of_mem _ hj)) (List.nodup_cons.1 hn).2
        (fun j hj => hx j (List.mem_cons_of_mem _ hj)) (fun hs j hj => hu hs j (List.mem_cons_of_mem _ hj)))
      (List.nodup_cons.1 hn).1 (fun hs => ⟨hu hs i hi, fun j hj => hu hs j (List.mem_cons_of_mem _ hj)⟩)

/-! ## A register instruction as a whole (R140, R141, R144, R205) -/

theorem each_ok {α : Type} {I : Iss} {f : Nat → Except Stop α} {x : Nat → α} (h : ∀ i ∈ I.runs, f i = .ok (x i)) :
    I.each f = .ok (I.runs.map (fun i => (i, x i))) := by
  unfold Iss.each
  have h1 : (I.runs.map (fun i => (i, f i))) = I.runs.map (fun i => (i, .ok (x i))) :=
    List.map_congr_left (fun i hi => by rw [h i hi])
  simp only
  rw [h1]
  simp [combineStops]

theorem combineStops_traps (a : Nat) (r : List Nat) (t : Nat → Trp) (cause detail : Byte)
    (h : ∀ i ∈ a :: r, (t i).cause = cause ∧ (t i).detail = detail) :
    combineStops ((a :: r).map (fun i => (i, Stop.trap (t i)))) = some (.trap (t a), maskOf (a :: r)) := by
  have ha := h a List.mem_cons_self
  have hf : r.filter ((fun x : Nat × Trp => x.2.cause == cause && x.2.detail == detail) ∘ fun i => (i, t i)) = r := by
    rw [List.filter_eq_self]
    intro i hi
    have := h i (List.mem_cons_of_mem _ hi)
    simp [this.1, this.2]
  have hm : r.map ((fun x : Nat × Trp => x.1) ∘ fun x => (x, t x)) = r := by
    rw [show ((fun x : Nat × Trp => x.1) ∘ fun x => (x, t x)) = id from rfl, List.map_id]
  simp [combineStops, ha.1, ha.2, hf, hm, List.filter_map]

/-- When some strands trap, all in one way, the lowest of them decides and exactly those trap (R458). -/
theorem each_traps {α : Type} {I : Iss} {f : Nat → Except Stop α} (bad : Nat → Bool) (t : Nat → Trp) (cause detail : Byte)
    (hb : ∀ i ∈ I.runs, bad i = true → f i = .error (.trap (t i)) ∧ (t i).cause = cause ∧ (t i).detail = detail)
    (hg : ∀ i ∈ I.runs, bad i = false → ∃ a, f i = .ok a) (he : ∃ i ∈ I.runs, bad i = true) :
    ∃ i ∈ I.runs, bad i = true ∧ I.each f = .error (.trap (t i), if I.uni then maskOf I.lanes else maskOf (I.runs.filter bad)) := by
  have key : ∀ l : List Nat, (∀ i ∈ l, i ∈ I.runs) →
      (l.map (fun i => (i, f i))).filterMap (fun (i, r) => match r with | .error e => some (i, e) | .ok _ => none) =
        (l.filter bad).map (fun i => (i, Stop.trap (t i))) := by
    intro l
    induction l with
    | nil => intro _; rfl
    | cons a r ih =>
      intro h
      have ha := h a List.mem_cons_self
      have ih := ih (fun i hi => h i (List.mem_cons_of_mem _ hi))
      cases hba : bad a with
      | true => simp only [List.map_cons, (hb a ha hba).1, List.filterMap_cons, ih, List.filter_cons, hba, if_true]
      | false =>
        obtain ⟨x, hx⟩ := hg a ha hba
        simp only [List.map_cons, hx, List.filterMap_cons, ih, List.filter_cons, hba, Bool.false_eq_true, if_false]
  have hk := key I.runs (fun _ h => h)
  obtain ⟨i0, hi0, hbad0⟩ := he
  cases hl : I.runs.filter bad with
  | nil =>
    have := List.mem_filter.2 ⟨hi0, hbad0⟩
    rw [hl] at this; exact absurd this List.not_mem_nil
  | cons a r =>
    have ha : a ∈ I.runs ∧ bad a = true := List.mem_filter.1 (hl ▸ List.mem_cons_self)
    refine ⟨a, ha.1, ha.2, ?_⟩
    show (match combineStops ((I.runs.map (fun i => (i, f i))).filterMap
        (fun (i, r) => match r with | .error e => some (i, e) | .ok _ => none)) with
      | some (e, m) => Except.error (e, if I.uni then maskOf I.lanes else m)
      | none => _) = _
    rw [hk, hl]
    have hcd : ∀ i ∈ a :: r, (t i).cause = cause ∧ (t i).detail = detail := by
      intro i hi
      have hi' : i ∈ I.runs ∧ bad i = true := List.mem_filter.1 (hl ▸ hi)
      exact (hb i hi'.1 hi'.2).2
    rw [combineStops_traps a r t cause detail hcd]

theorem bit_other {n j : Nat} (h : n < 16) (hj : j < 16) : ((1 <<< n : Nat) : BitVec 16).getLsbD j = decide (j = n) := by
  have : ∀ n j : Fin 16, (((1 <<< n.val : Nat) : BitVec 16)).getLsbD j.val = decide (j.val = n.val) := by decide
  exact this ⟨n, h⟩ ⟨j, hj⟩

/-- The mask of a list of lanes. -/
theorem maskOf_bit (l : List Nat) (h : ∀ i ∈ l, i < 16) (j : Nat) (hj : j < 16) : (maskOf l).getLsbD j = decide (j ∈ l) := by
  unfold maskOf
  have key : ∀ (l : List Nat) (m : BitVec 16), (∀ i ∈ l, i < 16) →
      (l.foldl (fun m i => m ||| ((1 <<< i : Nat) : BitVec 16)) m).getLsbD j = (m.getLsbD j || decide (j ∈ l)) := by
    intro l
    induction l with
    | nil => intro m _; simp
    | cons a t ih =>
      intro m hm
      rw [List.foldl_cons, ih _ (fun i hi => hm i (List.mem_cons_of_mem _ hi)), BitVec.getLsbD_or,
        bit_other (hm a List.mem_cons_self) hj]
      simp [Bool.or_assoc]
  rw [key l 0 h]; simp

theorem lanes_lt {s : State} {i : Instr} {rmw : Bool} {req : List Reg} {I : Iss} (h : Issues s i rmw req I) :
    (∀ j ∈ I.lanes, j < 16) ∧ I.lanes.Nodup ∧ I.leader ∈ I.lanes := by
  obtain ⟨f, _, hl, _⟩ := h.form
  refine ⟨fun j hj => ?_, ?_, ?_⟩
  · rw [hl] at hj
    have := (List.mem_filter.1 hj).1
    have := (List.mem_filter.1 this).1
    simpa using this
  · rw [hl]; exact (List.nodup_range.filter _).filter _
  · rw [h.leader]
    cases hI : I.lanes with
    | nil => exact absurd hI h.some
    | cons a t => simp

theorem sharedDiffer_none {dst : Reg} {v : Nat → VReg} {l : List Nat} {x : Nat → Res}
    (hx : ∀ i ∈ l, (x i).writes = [(dst, v i)]) (hu : Reg.shared dst = true → ∀ i ∈ l, ∀ j ∈ l, v i = v j) :
    sharedDiffer (l.map (fun i => (i, x i))) = none := by
  cases l with
  | nil => rfl
  | cons a t =>
    have ha := List.mem_cons_self (a := a) (l := t)
    simp only [List.map_cons, sharedDiffer, hx a ha, List.findSome?_cons, List.findSome?_nil]
    by_cases hs : Reg.shared dst = true
    · have : ((a, x a) :: t.map (fun i => (i, x i))).filter (fun (_, y) => y.writes.any (fun (q, u) => q == dst && u != v a)) = [] := by
        rw [List.filter_eq_nil_iff, ← List.map_cons (f := fun i => (i, x i))]
        intro y hy
        obtain ⟨j, hj, rfl⟩ := List.mem_map.1 hy
        simp [hx j hj, hu hs j hj a ha]
      simp [hs, this]
    · simp [hs]

/-- What the strands of an instruction store: their values, and counts once. -/
theorem store_ok {s s0 : State} {i : Instr} {rmw : Bool} {req : List Reg} {I : Iss} {dst : Reg} {v : Nat → VReg} {g : Nat → Flags}
    {x : Nat → Res} {c : Course} (h : Issues s0 i rmw req I) (hc : s.course? I.core I.slot = some c)
    (hx : ∀ i ∈ I.runs, (x i).writes = [(dst, v i)] ∧ (x i).flags = g i) (hu : OneValue I dst v) :
    ∃ c', I.store s (I.runs.map (fun i => (i, x i))) =
        .ok ((s.modCourse I.core I.slot (fun _ => c')).countStats (s.launchId I.c) (I.runs.flatMap (fun i => (x i).counts))) ∧
      Stored c c' I.lanes dst (fun i => v (sourceOf I i)) (v I.leader) (fun i => g (sourceOf I i)) := by
  obtain ⟨hlt, hnd, hmem⟩ := lanes_lt h
  by_cases hU : I.uni = true
  · have hr : I.runs = [I.leader] := by simp [Iss.runs, hU]
    have hL : I.leader ∈ I.runs := by simp [hr]
    refine ⟨I.lanes.foldl (fun c i => c.apply i (x I.leader)) c, ?_, ?_⟩
    · unfold Iss.store
      simp only [hU, if_true, hr, List.map_cons, List.map_nil]
      congr 2
      · unfold State.modCourse kmod
        have hc' : kget s.courses (courseKey I.core I.slot) = some c := hc
        simp only [hc']
    · have := foldl_stored I.lanes c dst (fun i => v (sourceOf I i)) (v I.leader) (fun i => g (sourceOf I i)) (fun _ => x I.leader) hlt hnd
        (fun i _ => by simp [sourceOf, hU, hx I.leader hL]) (fun _ i _ => by simp [sourceOf, hU])
      exact this
  · have hF : I.uni = false := by simpa using hU
    have hr : I.runs = I.lanes := by simp [Iss.runs, hF]
    have hsrc : ∀ i, sourceOf I i = i := fun i => by simp [sourceOf, hF]
    refine ⟨I.lanes.foldl (fun c i => c.apply i (x i)) c, ?_, ?_⟩
    · unfold Iss.store
      simp only [hF, Bool.false_eq_true, if_false, hr]
      rw [sharedDiffer_none (dst := dst) (v := v) (fun i hi => (hx i (hr ▸ hi)).1)
        (fun hs i hi j hj => by have a := hu hs i hi; have b := hu hs j hj; rw [hsrc] at a b; rw [a, b])]
      simp only [List.flatMap_map]
      congr 2
      · unfold State.modCourse kmod
        have hc' : kget s.courses (courseKey I.core I.slot) = some c := hc
        simp only [hc', List.foldl_map]
    · have := foldl_stored I.lanes c dst (fun i => v (sourceOf I i)) (v I.leader) (fun i => g (sourceOf I i)) x hlt hnd
        (fun i hi => by simp only [hsrc]; exact hx i (hr ▸ hi)) (fun hs i hi => hu hs i hi)
      exact this

theorem countStats_courses (s : State) (l : Option Nat) (k : List Nat) : (s.countStats l k).courses = s.courses := by
  unfold State.countStats; split
  · rfl
  · split <;> rfl
theorem countStats_async (s : State) (l : Option Nat) (k : List Nat) : (s.countStats l k).async = s.async := by
  unfold State.countStats; split
  · rfl
  · split <;> rfl
theorem countStats_setCourses (s : State) (l : Option Nat) (k : List Nat) (m : KMap Course) :
    ({ s.countStats l k with courses := m } : State) = ({ s with courses := m } : State).countStats l k := by
  unfold State.countStats; split
  · rfl
  · split <;> rfl

theorem stored_wrote {I : Iss} {c0 c' c1 : Course} {dst : Reg} {v : Nat → VReg} {g : Nat → Flags} (hc : c0.kreg = I.c.kreg ∧ c0.strands = I.c.strands)
    (h1 : c1.kreg = c'.kreg ∧ c1.strands = c'.strands) (hne : I.lanes ≠ [])
    (h : Stored c0 c' I.lanes dst (fun i => v (sourceOf I i)) (v I.leader) (fun i => g (sourceOf I i))) : Wrote I c1 dst v g := by
  have est : ∀ j, c0.st j = I.c.st j := fun j => by unfold Course.st; rw [hc.2]
  have est1 : ∀ j, c1.st j = c'.st j := fun j => by unfold Course.st; rw [h1.2]
  have ew : ∀ j r, c0.whole j r = I.c.whole j r := fun j r => by rw [whole_eq, whole_eq, est, hc.1]
  have ew1 : ∀ j r, c1.whole j r = c'.whole j r := fun j r => by rw [whole_eq, whole_eq, est1, h1.1]
  constructor
  · intro lane hl r
    rw [ew1, h.regs lane hl, ew]
    simp only [hne, ne_eq, not_false_eq_true, and_true]
    split
    · split <;> rfl
    · rfl
  · intro lane hl n hn
    rw [est1, h.stack lane hl n (by rw [est]; exact hn), est]
  · intro lane hl; rw [est1, h.flags lane hl, est]
  · intro lane hl
    have := h.rest lane hl
    rw [est] at this
    rw [est1]; exact this

/-- An instruction that reads registers and writes one register: it completes, the executing strands' destination takes their values, and
nothing else of the machine changes but the counts of R205. -/
theorem runLanes_ok {s : State} {i : Instr} {rmw : Bool} {folds : List (Reg ⊕ Word)} {f : Nat → Rd → Except Stop Res} {extra : List Reg}
    {I : Iss} {dst : Reg} {v : Nat → VReg} {g : Nat → Flags} {x : Nat → Res} (h : Issues s i rmw extra I)
    (hf : ∀ i ∈ I.runs, f i (I.c.rd i) = .ok (x i)) (hx : ∀ i ∈ I.runs, (x i).writes = [(dst, v i)] ∧ (x i).flags = g i)
    (hu : OneValue I dst v) :
    ∃ t c', runLanes s i rmw folds f extra = .next t ∧ Moves s t I c' (fun _ => pcNext I.E.pc) ∧ Wrote I c' dst v g ∧
      ({ t with courses := s.courses } : State) = s.countStats (s.launchId I.c) (I.runs.flatMap (fun i => (x i).counts)) := by
  have hc := passed_course h.course
  obtain ⟨c1, hst, hS⟩ := store_ok h hc hx hu
  set s1 := ((passed s I).modCourse I.core I.slot (fun _ => c1)).countStats ((passed s I).launchId I.c) (I.runs.flatMap (fun i => (x i).counts)) with hs1
  set e : Eff := { s := s1, folds := I.foldVals folds } with he
  have hmod : (passed s I).modCourse I.core I.slot (fun _ => c1) = (passed s I).setCourse I.core I.slot c1 := by
    unfold State.modCourse State.setCourse kmod
    have hc' : kget (passed s I).courses (courseKey I.core I.slot) = some (passedCourse I.c) := hc
    simp only [hc']
  have hl : (passed s I).launchId I.c = s.launchId I.c := by unfold passed; split <;> rfl
  have hrun : runLanes s i rmw folds f extra = .next (State.complete I e) := by
    unfold runLanes
    refine runCourse_ok h (s2 := passed s I) ?_
    simp only [each_ok hf, hst]
    rfl
  have hcs : s1.courses = ((passed s I).setCourse I.core I.slot c1).courses := by rw [hs1, countStats_courses, hmod]
  have hcr : { c1 with kreg := I.c.kreg, strands := I.c.strands } = passedCourse I.c := by
    have := hS.course; exact this
  have hev : e.s = s1 := rfl
  obtain ⟨c2, hm, hk, hss, hcomp⟩ := complete_moves (s := s) (I := I) (e := e) (c := c1)
    (fun k hk => by rw [hev, hcs]; exact (kget_kset_ne hk _).trans (passed_others s I hk))
    (by rw [hev]; unfold State.course?; rw [hcs]; exact kget_kset_self _ _ _)
    h.course h.live hcr
    (fun p hp => by rw [hev, hs1, countStats_async] at hp; rw [hmod, setCourse_async, passed_async] at hp; exact h.faults p hp)
    rfl rfl rfl rfl rfl
  refine ⟨_, c2, hrun, hm, stored_wrote (c0 := passedCourse I.c) ⟨rfl, rfl⟩ ⟨hk, hss⟩ h.some hS, ?_⟩
  rw [hcomp, hev]
  have : ({ s1.setCourse I.core I.slot c2 with courses := s.courses } : State) = { s1 with courses := s.courses } := rfl
  rw [this, hs1, countStats_setCourses, hl, hmod]
  congr 1
  unfold passed; split <;> rfl

/-- The same where nothing is counted. -/
theorem runLanes_quiet {s : State} {i : Instr} {rmw : Bool} {folds : List (Reg ⊕ Word)} {f : Nat → Rd → Except Stop Res} {extra : List Reg}
    {I : Iss} {dst : Reg} {v : Nat → VReg} {g : Nat → Flags} {x : Nat → Res} (h : Issues s i rmw extra I)
    (hf : ∀ i ∈ I.runs, f i (I.c.rd i) = .ok (x i))
    (hx : ∀ i ∈ I.runs, (x i).writes = [(dst, v i)] ∧ (x i).flags = g i ∧ (x i).counts = [])
    (hu : OneValue I dst v) :
    ∃ t c', runLanes s i rmw folds f extra = .next t ∧ Moves s t I c' (fun _ => pcNext I.E.pc) ∧ Wrote I c' dst v g ∧ Quiet s t := by
  obtain ⟨t, c', h1, h2, h3, h4⟩ := runLanes_ok (folds := folds) h hf (fun i hi => ⟨(hx i hi).1, (hx i hi).2.1⟩) hu
  refine ⟨t, c', h1, h2, h3, ?_⟩
  unfold Quiet
  rw [h4]
  have : I.runs.flatMap (fun i => (x i).counts) = [] := by
    rw [List.flatMap_eq_nil_iff]; exact fun i hi => (hx i hi).2.2
  rw [this]
  unfold State.countStats; split <;> rfl

/-- A register instruction whose strands trap for another reason than ILLEGAL. -/
theorem runLanes_traps {s : State} {i : Instr} {rmw : Bool} {folds : List (Reg ⊕ Word)} {f : Nat → Rd → Except Stop Res} {extra : List Reg}
    {I : Iss} {t : Trp} {m : BitVec 16} (h : Issues s i rmw extra I)
    (he : I.each (fun lane => f lane (I.c.rd lane)) = .error (.trap t, m)) (hc : t.cause ≠ Cause.illegal) :
    runLanes s i rmw folds f extra = .next ((passed s I).failed I (.trap t) m) := by
  unfold runLanes
  refine runCourse_error h (s2 := passed s I) ?_
  have : (t.cause == Cause.illegal) = false := by simpa using hc
  simp only [he, this, Bool.false_eq_true, if_false]

end Sys2Proof.Laws
end

