-- ==== Sys2Proof/Laws/Integer.lean ====
section
/-! SUPPORT. The integer operations of the model and the same on bit vectors (R170 to R176). -/
set_option Elab.async false
namespace Sys2Proof.Laws
open Sys2Proof.Machine Sys2Proof.Safety

theorem signExt_toNat {W : Nat} (x : BitVec W) : signExt x.toNat W = x.toInt := by
  unfold signExt
  simp only [Nat.mod_eq_of_lt x.isLt]
  rw [BitVec.toInt_eq_toNat_cond]
  by_cases h : W = 0
  · subst h; simp [BitVec.of_length_zero]
  · have h2 : 2 * 2 ^ (W - 1) = 2 ^ W := by rw [← Nat.pow_succ']; congr 1; omega
    simp only [h, if_false]
    by_cases h3 : x.toNat < 2 ^ (W - 1)
    · simp only [h3, if_true]; rw [if_pos (by omega)]
    · simp only [h3, if_false]; rw [if_neg (by omega)]; push_cast; rfl

theorem sgn_toNat {W : Nat} (x : BitVec W) : sgn W x.toNat = x.toInt := signExt_toNat x

theorem ofNat_wrapInt (W : Nat) (v : Int) : BitVec.ofNat W (wrapInt v W) = BitVec.ofInt W v := by
  apply BitVec.eq_of_toNat_eq
  unfold wrapInt
  rw [BitVec.toNat_ofNat, BitVec.toNat_ofInt]
  have : (v % ((2 ^ W : Nat) : Int)).toNat < 2 ^ W := by
    have h := Int.emod_lt_of_pos v (b := ((2 ^ W : Nat) : Int)) (by positivity)
    have h0 := Int.emod_nonneg v (b := ((2 ^ W : Nat) : Int)) (by positivity)
    omega
  rw [Nat.mod_eq_of_lt this]

/-- The extension of a result is that of its W bits. -/
theorem extendTo_eq (sx : Bool) (W v : Nat) (hW : W ≤ 64) :
    extendTo sx W v = if sx then (BitVec.ofNat W v).signExtend 64 else (BitVec.ofNat W v).setWidth 64 := by
  unfold extendTo
  split
  · have : signExt v W = signExt (BitVec.ofNat W v).toNat W := by unfold signExt; simp
    rw [this, signExt_toNat]
    unfold wordOf
    rw [ofNat_wrapInt]
    rfl
  · apply BitVec.eq_of_toNat_eq
    have : v % 2 ^ W < 2 ^ 64 := lt_of_lt_of_le (Nat.mod_lt _ (by positivity)) (Nat.pow_le_pow_right (by decide) hW)
    simp only [BitVec.toNat_ofNat, BitVec.toNat_setWidth]

variable {W : Nat}

theorem opAdd_bv (x y : BitVec W) : BitVec.ofNat W (opAdd W x.toNat y.toNat) = x + y := by
  apply BitVec.eq_of_toNat_eq; simp [opAdd]
theorem opSub_bv (x y : BitVec W) : BitVec.ofNat W (opSub W x.toNat y.toNat) = x - y := by
  apply BitVec.eq_of_toNat_eq
  have := x.isLt; have := y.isLt
  simp only [opSub, BitVec.toNat_ofNat, BitVec.toNat_sub, Nat.mod_mod]
  congr 1; omega
theorem opMul_bv (x y : BitVec W) : BitVec.ofNat W (opMul W x.toNat y.toNat) = x * y := by
  apply BitVec.eq_of_toNat_eq; simp [opMul]
theorem opAnd_bv (x y : BitVec W) : BitVec.ofNat W (opAnd W x.toNat y.toNat) = x &&& y := by
  apply BitVec.eq_of_toNat_eq; simp [opAnd]
theorem opOr_bv (x y : BitVec W) : BitVec.ofNat W (opOr W x.toNat y.toNat) = x ||| y := by
  apply BitVec.eq_of_toNat_eq; simp [opOr]
theorem opXor_bv (x y : BitVec W) : BitVec.ofNat W (opXor W x.toNat y.toNat) = x ^^^ y := by
  apply BitVec.eq_of_toNat_eq; simp [opXor]
theorem opAndn_bv (x y : BitVec W) : BitVec.ofNat W (opAndn W x.toNat y.toNat) = x &&& ~~~y := by
  apply BitVec.eq_of_toNat_eq
  have h : 2 ^ W - 1 - y.toNat = (~~~y).toNat := by simp
  simp only [opAndn, h, BitVec.toNat_ofNat, BitVec.toNat_and, Nat.mod_eq_of_lt (Nat.and_lt_two_pow _ (~~~y).isLt)]
theorem opShl_bv (x y : BitVec W) : BitVec.ofNat W (opShl W x.toNat y.toNat) = x <<< (y.toNat % W) := by
  apply BitVec.eq_of_toNat_eq; simp [opShl, Nat.shiftLeft_eq]
theorem opShr_bv (x y : BitVec W) : BitVec.ofNat W (opShr W x.toNat y.toNat) = x >>> (y.toNat % W) := by
  apply BitVec.eq_of_toNat_eq
  have : x.toNat / 2 ^ (y.toNat % W) < 2 ^ W := lt_of_le_of_lt (Nat.div_le_self _ _) x.isLt
  simp [opShr, Nat.shiftRight_eq_div_pow, Nat.mod_eq_of_lt this]
theorem opSar_bv (x y : BitVec W) : BitVec.ofNat W (opSar W x.toNat y.toNat) = x.sshiftRight (y.toNat % W) := by
  unfold opSar
  rw [ofNat_wrapInt, sgn_toNat]
  unfold BitVec.sshiftRight
  rw [Int.shiftRight_eq_div_pow]
  push_cast; rfl
theorem opMin_bv (x y : BitVec W) : BitVec.ofNat W (opMin W x.toNat y.toNat) = if x.slt y then x else y := by
  simp only [opMin, sgn_toNat, BitVec.slt, decide_eq_true_eq]; split <;> simp
theorem opMax_bv (x y : BitVec W) : BitVec.ofNat W (opMax W x.toNat y.toNat) = if y.slt x then x else y := by
  simp only [opMax, sgn_toNat, BitVec.slt, decide_eq_true_eq]; split <;> simp
theorem opMinu_bv (x y : BitVec W) : BitVec.ofNat W (opMinu W x.toNat y.toNat) = if x.ult y then x else y := by
  simp only [opMinu, BitVec.ult, decide_eq_true_eq]; split <;> simp
theorem opMaxu_bv (x y : BitVec W) : BitVec.ofNat W (opMaxu W x.toNat y.toNat) = if y.ult x then x else y := by
  simp only [opMaxu, BitVec.ult, decide_eq_true_eq]; split <;> simp
theorem opMulhu_bv (x y : BitVec W) :
    BitVec.ofNat W (opMulhu W x.toNat y.toNat) = ((x.setWidth (2 * W) * y.setWidth (2 * W)) >>> W).setWidth W := by
  apply BitVec.eq_of_toNat_eq
  have hx := x.isLt; have hy := y.isLt
  have hle : 2 ^ W ≤ 2 ^ (2 * W) := Nat.pow_le_pow_right (by decide) (by omega)
  have hm : x.toNat * y.toNat < 2 ^ (2 * W) := by
    rw [two_mul, Nat.pow_add]; exact Nat.mul_lt_mul_of_lt_of_le hx hy.le (by positivity)
  simp only [opMulhu, BitVec.toNat_ofNat, BitVec.toNat_setWidth, BitVec.toNat_ushiftRight, BitVec.toNat_mul, Nat.shiftRight_eq_div_pow]
  rw [Nat.mod_eq_of_lt (a := x.toNat) (by omega), Nat.mod_eq_of_lt (a := y.toNat) (by omega), Nat.mod_eq_of_lt hm]
theorem opMulh_bv (x y : BitVec W) :
    BitVec.ofNat W (opMulh W x.toNat y.toNat) = ((x.signExtend (2 * W) * y.signExtend (2 * W)) >>> W).setWidth W := by
  unfold opMulh
  rw [ofNat_wrapInt, sgn_toNat, sgn_toNat]
  apply BitVec.eq_of_toNat_eq
  rw [BitVec.toNat_ofInt, BitVec.toNat_setWidth, BitVec.toNat_ushiftRight, Nat.shiftRight_eq_div_pow]
  have hp : (x.signExtend (2 * W) * y.signExtend (2 * W)) = BitVec.ofInt (2 * W) (x.toInt * y.toInt) := by
    rw [BitVec.ofInt_mul]; rfl
  rw [hp, BitVec.toNat_ofInt]
  set z := x.toInt * y.toInt
  have hW : ((2 ^ (2 * W) : Nat) : Int) = ((2 ^ W : Nat) : Int) * ((2 ^ W : Nat) : Int) := by rw [two_mul, Nat.pow_add]; push_cast; rfl
  have hpos : (0 : Int) < ((2 ^ W : Nat) : Int) := by positivity
  have hz0 := Int.emod_nonneg z (b := ((2 ^ (2 * W) : Nat) : Int)) (by positivity)
  have key : (((z % ((2 ^ (2 * W) : Nat) : Int)).toNat / 2 ^ W % 2 ^ W : Nat) : Int) = z / ((2 ^ W : Nat) : Int) % ((2 ^ W : Nat) : Int) := by
    push_cast
    rw [Int.toNat_of_nonneg (by exact_mod_cast hz0)]
    have hW' : (2 : Int) ^ (2 * W) = (2 : Int) ^ W * 2 ^ W := by rw [two_mul, pow_add]
    have hp2 : (0 : Int) < 2 ^ W := by positivity
    have e : z % (2 ^ W * 2 ^ W) = z + 2 ^ W * (2 ^ W * (-(z / (2 ^ W * 2 ^ W)))) := by rw [Int.emod_def]; ring
    rw [hW', e, Int.add_mul_ediv_left _ _ (ne_of_gt hp2), Int.add_mul_emod_self_left]
  have : (z / (2 ^ W : Int)) = z / ((2 ^ W : Nat) : Int) := by push_cast; rfl
  rw [this]
  omega

theorem opRol_bv (x y : BitVec W) : BitVec.ofNat W (opRol W x.toNat y.toNat) = x.rotateLeft (y.toNat % W) := by
  rcases Nat.eq_zero_or_pos W with h | h
  · subst h; exact BitVec.eq_of_getLsbD_eq (by simp)
  have hk : y.toNat % W < W := Nat.mod_lt _ h
  set k := y.toNat % W
  apply BitVec.eq_of_toNat_eq
  rw [BitVec.rotateLeft_def, Nat.mod_eq_of_lt hk]
  have hd : (x <<< k) &&& (x >>> (W - k)) = 0#W := by
    apply BitVec.eq_of_getLsbD_eq
    intro i hi
    simp only [BitVec.getLsbD_and, BitVec.getLsbD_shiftLeft, BitVec.getLsbD_ushiftRight, BitVec.getLsbD_zero]
    by_cases hik : i < k
    · simp [hik]
    · rw [BitVec.getLsbD_of_ge x (W - k + i) (by omega)]; simp
  rw [← BitVec.add_eq_or_of_and_eq_zero _ _ hd]
  simp only [opRol, BitVec.toNat_ofNat, BitVec.toNat_add, BitVec.toNat_shiftLeft, BitVec.toNat_ushiftRight, Nat.shiftLeft_eq,
    Nat.shiftRight_eq_div_pow]
  rfl

theorem fieldMask_bit (P L i : Nat) (hi : i < W) : (fieldMask W P L).getLsbD i = (decide (P ≤ i) && decide (i < P + L)) := by
  unfold fieldMask
  rw [BitVec.getLsbD_shiftLeft, BitVec.getLsbD_ofNat]
  by_cases h : i < P
  · simp [h, Nat.not_le.2 h]
  · have h1 : P ≤ i := by omega
    have h2 : i - P < W := by omega
    by_cases h3 : i < P + L
    · have : i - P < L := by omega
      simp [h, h1, h2, h3, hi, this, Nat.testBit_two_pow_sub_one]
    · have : ¬ i - P < L := by omega
      simp [h, h1, h3, hi, this, Nat.testBit_two_pow_sub_one]

theorem opBfi_bv (f : Gen) (x y : BitVec W) :
    BitVec.ofNat W (opBfi f W x.toNat y.toNat) =
      (x &&& ~~~fieldMask W (bfPos f) (bfLen f)) ||| ((y <<< bfPos f) &&& fieldMask W (bfPos f) (bfLen f)) := by
  unfold opBfi
  generalize bfPos f = P
  generalize bfLen f = L
  have hn : x.toNat - x.toNat / 2 ^ P % 2 ^ L * 2 ^ P + y.toNat % 2 ^ L * 2 ^ P =
      2 ^ P * (2 ^ L * (x.toNat / 2 ^ P / 2 ^ L) + y.toNat % 2 ^ L) + x.toNat % 2 ^ P := by
    have e1 := Nat.div_add_mod x.toNat (2 ^ P)
    have e2 := Nat.div_add_mod (x.toNat / 2 ^ P) (2 ^ L)
    generalize x.toNat / 2 ^ P / 2 ^ L = h at *
    generalize x.toNat / 2 ^ P % 2 ^ L = m at *
    generalize x.toNat % 2 ^ P = l at *
    generalize y.toNat % 2 ^ L = b at *
    rw [← e2] at e1
    have : x.toNat = 2 ^ P * (2 ^ L * h) + m * 2 ^ P + l := by rw [← e1]; ring
    rw [this]
    have : 2 ^ P * (2 ^ L * h) + m * 2 ^ P + l - m * 2 ^ P = 2 ^ P * (2 ^ L * h) + l := by omega
    rw [this]; ring
  rw [hn]
  apply BitVec.eq_of_getLsbD_eq
  intro i hi
  rw [BitVec.getLsbD_ofNat, Nat.testBit_two_pow_mul_add _ (Nat.mod_lt _ (by positivity)), BitVec.getLsbD_or, BitVec.getLsbD_and,
    BitVec.getLsbD_and, BitVec.getLsbD_not, fieldMask_bit P L i hi, BitVec.getLsbD_shiftLeft]
  by_cases h : i < P
  · simp [h, hi, Nat.not_le.2 h, Nat.testBit_mod_two_pow, BitVec.getLsbD]
  · have hP : P ≤ i := by omega
    rw [if_neg h, Nat.testBit_two_pow_mul_add _ (Nat.mod_lt _ (by positivity))]
    by_cases h2 : i < P + L
    · have : i - P < L := by omega
      simp [h, hi, hP, h2, this, Nat.testBit_mod_two_pow, BitVec.getLsbD]
    · have h3 : ¬ i - P < L := by omega
      have h4 : i - P - L + L + P = i := by omega
      simp [h, hi, h2, h3, Nat.testBit_div_two_pow, BitVec.getLsbD, h4]

/-! ## Division -/

theorem div_bv (x y : BitVec W) : BitVec.ofNat W (opDiv W x.toNat y.toNat) = x.sdiv y := by
  unfold opDiv
  rw [ofNat_wrapInt, sgn_toNat, sgn_toNat, ← BitVec.ofInt_toInt (x := x.sdiv y), BitVec.toInt_sdiv]
  apply BitVec.eq_of_toInt_eq
  simp
theorem rem_bv (x y : BitVec W) : BitVec.ofNat W (opRem W x.toNat y.toNat) = x.srem y := by
  unfold opRem
  rw [ofNat_wrapInt, sgn_toNat, sgn_toNat, ← BitVec.ofInt_toInt (x := x.srem y), BitVec.toInt_srem]
theorem divu_bv (x y : BitVec W) : BitVec.ofNat W (opDivu W x.toNat y.toNat) = x / y := by
  apply BitVec.eq_of_toNat_eq
  simp [opDivu, Nat.mod_eq_of_lt (lt_of_le_of_lt (Nat.div_le_self _ _) x.isLt)]
theorem remu_bv (x y : BitVec W) : BitVec.ofNat W (opRemu W x.toNat y.toNat) = x % y := by
  apply BitVec.eq_of_toNat_eq
  simp [opRemu, Nat.mod_eq_of_lt (lt_of_le_of_lt (Nat.mod_le _ _) x.isLt)]

/-! ## One source -/

theorem abs_bv (x : BitVec W) : BitVec.ofNat W (opAbs W x.toNat) = if x.msb then -x else x := by
  unfold opAbs
  rw [sgn_toNat]
  have : (x.toInt < 0) = (x.msb = true) := by rw [BitVec.msb_eq_toInt]; simp
  by_cases h : x.msb = true
  · rw [if_pos (this ▸ h), if_pos h, ofNat_wrapInt, ← BitVec.ofInt_toInt (x := x), ← BitVec.ofInt_neg]; simp
  · rw [if_neg (this ▸ h), if_neg h]; simp
theorem ctz_bv (x : BitVec W) :
    BitVec.ofNat W (opCtz W x.toNat) = BitVec.ofNat W (((List.range W).find? (fun i => x.getLsbD i)).getD W) := rfl
theorem popc_bv (x : BitVec W) : BitVec.ofNat W (opPopc W x.toNat) = BitVec.ofNat W ((List.range W).countP (fun i => x.getLsbD i)) := rfl

theorem bitLen_spec (n i : Nat) : n < 2 ^ i ↔ bitLen n ≤ i := by
  unfold bitLen
  split
  · next h => subst h; simp
  · next h => rw [← Nat.log2_lt h]; omega

theorem clz_bv (x : BitVec W) :
    BitVec.ofNat W (opClz W x.toNat) = BitVec.ofNat W (((List.range W).find? (fun i => x.getLsbD (W - 1 - i))).getD W) := by
  congr 1
  unfold opClz
  have hx : bitLen x.toNat ≤ W := (bitLen_spec _ _).1 x.isLt
  cases hf : (List.range W).find? (fun i => x.getLsbD (W - 1 - i)) with
  | none =>
    have h0 : x.toNat = 0 := by
      apply Nat.eq_of_testBit_eq
      intro i
      rw [Nat.zero_testBit]
      by_cases hi : i < W
      · have := List.find?_eq_none.1 hf (W - 1 - i) (List.mem_range.2 (by omega))
        have e : W - 1 - (W - 1 - i) = i := by omega
        rw [e] at this
        simpa [BitVec.getLsbD] using this
      · exact Nat.testBit_lt_two_pow (lt_of_lt_of_le x.isLt (Nat.pow_le_pow_right (by decide) (by omega)))
    simp [h0, bitLen]
  | some i =>
    obtain ⟨hp, as, bs, he, hn⟩ := List.find?_eq_some_iff_append.1 hf
    have hi : i < W := List.mem_range.1 (List.mem_of_find?_eq_some hf)
    simp only [Option.getD_some]
    have h1 : ¬ bitLen x.toNat ≤ W - 1 - i := by
      intro hle
      have := (bitLen_spec x.toNat (W - 1 - i)).2 hle
      have := Nat.testBit_lt_two_pow this
      simp [BitVec.getLsbD] at hp
      rw [this] at hp; cases hp
    have h2 : bitLen x.toNat ≤ W - i := by
      apply (bitLen_spec _ _).1
      apply Nat.lt_pow_two_of_testBit
      intro j hj
      by_cases hjW : j < W
      · have hmem : W - 1 - j ∈ as := by
          have hlen : as = List.range i := by
            have hl : as.length = i := by
              have h3 : (List.range W)[as.length]? = some i := by rw [he]; simp
              have hlt : as.length < W := by
                have := congrArg List.length he
                simp at this; omega
              rw [List.getElem?_range hlt] at h3
              simpa using h3
            have : as = (List.range W).take as.length := by rw [he]; simp
            rw [this, hl, List.take_range]; congr 1; omega
          rw [hlen]; exact List.mem_range.2 (by omega)
        have := hn _ hmem
        have e : W - 1 - (W - 1 - j) = j := by omega
        rw [e] at this
        simpa [BitVec.getLsbD] using this
      · exact Nat.testBit_lt_two_pow (lt_of_lt_of_le x.isLt (Nat.pow_le_pow_right (by decide) (by omega)))
    omega

theorem brev_bv (x : BitVec W) : BitVec.ofNat W (opBrev W x.toNat) = x.reverse := by
  have key : ∀ n, n ≤ W → ∀ j, ((List.range n).foldl (fun m i => if x.toNat.testBit i then m + 2 ^ (W - 1 - i) else m) 0).testBit j =
      (decide (W - n ≤ j) && decide (j < W) && x.toNat.testBit (W - 1 - j)) := by
    intro n
    induction n with
    | zero =>
      intro _ j
      have : ¬ (W ≤ j ∧ j < W) := by omega
      simp only [List.range_zero, List.foldl_nil, Nat.zero_testBit, Nat.sub_zero]
      by_cases h : j < W
      · simp [h, Nat.not_le.2 h]
      · simp [h]
    | succ n ih =>
      intro hn j
      rw [List.range_succ, List.foldl_append]
      simp only [List.foldl_cons, List.foldl_nil]
      set A := (List.range n).foldl (fun m i => if x.toNat.testBit i then m + 2 ^ (W - 1 - i) else m) 0 with hA
      have ihn := ih (by omega)
      by_cases hb : x.toNat.testBit n = true
      · rw [if_pos hb]
        have hdiv : A = 2 ^ (W - n) * (A / 2 ^ (W - n)) := by
          have h0 : A % 2 ^ (W - n) = 0 := by
            apply Nat.eq_of_testBit_eq
            intro k
            rw [Nat.testBit_mod_two_pow, ihn k, Nat.zero_testBit]
            by_cases hk : k < W - n
            · simp [hk, Nat.not_le.2 hk]
            · simp [hk]
          have := Nat.div_add_mod A (2 ^ (W - n))
          omega
        have hsum : (A + 2 ^ (W - 1 - n)).testBit j = (A.testBit j || decide (W - 1 - n = j)) := by
          have hlt : 2 ^ (W - 1 - n) < 2 ^ (W - n) := Nat.pow_lt_pow_right (by decide) (by omega)
          rw [hdiv, Nat.testBit_two_pow_mul_add _ hlt, ← hdiv, Nat.testBit_two_pow]
          by_cases hk : j < W - n
          · rw [if_pos hk, ihn j]; simp [Nat.not_le.2 hk]
          · have : ¬ W - 1 - n = j := by omega
            rw [if_neg hk, Nat.testBit_div_two_pow]
            have e : j - (W - n) + (W - n) = j := by omega
            rw [e]; simp [this]
        rw [hsum, ihn j]
        by_cases hk : W - 1 - n = j
        · subst hk
          have e : W - 1 - (W - 1 - n) = n := by omega
          rw [e, hb]
          have : W - 1 - n < W := by omega
          have : W - (n + 1) ≤ W - 1 - n := by omega
          simp [*]
        · have : (W - (n + 1) ≤ j) = (W - n ≤ j) := by apply propext; omega
          simp [hk, this]
      · rw [if_neg hb, ihn j]
        by_cases hk : W - 1 - n = j
        · subst hk
          have e : W - 1 - (W - 1 - n) = n := by omega
          rw [e]; simp at hb; simp [hb]
        · have : (W - (n + 1) ≤ j) = (W - n ≤ j) := by apply propext; omega
          simp [this]
  apply BitVec.eq_of_getLsbD_eq
  intro j hj
  rw [BitVec.getLsbD_ofNat, BitVec.getLsbD_reverse]
  unfold opBrev
  rw [key W le_rfl j, BitVec.getMsbD]
  simp [hj, BitVec.getLsbD]

theorem bfx_bv (f : Gen) (x : BitVec W) :
    BitVec.ofNat W (opBfx f W x.toNat) =
      (if f.mod.getLsbD 4 then (x.extractLsb' (bfPos f) (bfLen f)).signExtend W else (x.extractLsb' (bfPos f) (bfLen f)).setWidth W) := by
  unfold opBfx
  have e : x.toNat / 2 ^ bfPos f % 2 ^ bfLen f = (x.extractLsb' (bfPos f) (bfLen f)).toNat := by
    simp [Nat.shiftRight_eq_div_pow]
  simp only [e]
  split
  · rw [ofNat_wrapInt, signExt_toNat]; rfl
  · apply BitVec.eq_of_toNat_eq
    simp only [BitVec.toNat_ofNat, BitVec.toNat_setWidth]

theorem addi_bv (f : Gen) (x : BitVec W) (hW : W ≤ 64) : BitVec.ofNat W (opAdd W x.toNat (immNat f.imm W)) = x + immBits f W := by
  have : immNat f.imm W = (immBits f W).toNat := by
    unfold immNat immBits
    rw [signExt_toNat, BitVec.toNat_setWidth]
    have := ofNat_wrapInt W f.imm.toInt
    have h2 := congrArg BitVec.toNat this
    have hlt : wrapInt f.imm.toInt W < 2 ^ W := by
      unfold wrapInt
      have h := Int.emod_lt_of_pos f.imm.toInt (b := ((2 ^ W : Nat) : Int)) (by positivity)
      have h0 := Int.emod_nonneg f.imm.toInt (b := ((2 ^ W : Nat) : Int)) (by positivity)
      omega
    rw [BitVec.toNat_ofNat, Nat.mod_eq_of_lt hlt] at h2
    rw [h2]
    show _ = (BitVec.ofInt 64 f.imm.toInt).toNat % 2 ^ W
    rw [BitVec.toNat_ofInt, BitVec.toNat_ofInt]
    have hd : ((2 ^ W : Nat) : Int) ∣ ((2 ^ 64 : Nat) : Int) := by exact_mod_cast Nat.pow_dvd_pow 2 hW
    have h64 := Int.emod_nonneg f.imm.toInt (b := ((2 ^ 64 : Nat) : Int)) (by positivity)
    have key : (((f.imm.toInt % ((2 ^ 64 : Nat) : Int)).toNat % 2 ^ W : Nat) : Int) = f.imm.toInt % ((2 ^ W : Nat) : Int) := by
      push_cast
      rw [Int.toNat_of_nonneg (by exact_mod_cast h64)]
      exact_mod_cast Int.emod_emod_of_dvd f.imm.toInt hd
    omega
  rw [this]; exact opAdd_bv x _

/-! ## The forms as a whole -/

theorem inStream_false {s i rmw req I} (h : Issues s i rmw req I) : s.inStream = false := by
  unfold State.inStream; rw [h.focus]

theorem runBoth_yields {s : State} {i : Instr} {rmw : Bool} {folds : List (Reg ⊕ Word)} {f : Rd → Except Stop Res}
    {I : Iss} {dst : Reg} {v : Nat → VReg} (h : Issues s i rmw [] I)
    (hf : ∀ l ∈ I.runs, f (I.c.rd l) = .ok { writes := [(dst, v l)] }) (hu : OneValue I dst v) :
    (∃ t c', runBoth s i rmw folds f = .next t ∧ Moves s t I c' (fun _ => pcNext I.E.pc) ∧ Wrote I c' dst v (fun _ => 0) ∧ Quiet s t) ∧
    (∃ t c', runReg s i rmw folds f = .next t ∧ Moves s t I c' (fun _ => pcNext I.E.pc) ∧ Wrote I c' dst v (fun _ => 0) ∧ Quiet s t) := by
  have key := runLanes_quiet (folds := folds) (f := fun _ => f) (x := fun l => { writes := [(dst, v l)] }) (g := fun _ => 0) h hf
    (fun _ _ => ⟨rfl, rfl, rfl⟩) hu
  refine ⟨?_, key⟩
  unfold runBoth
  rw [inStream_false h]
  exact key

theorem intWidth_le (m : Byte) : intWidth m ≤ 64 ∧ 0 < intWidth m ∧ intWidth m ∣ 512 := by
  unfold intWidth
  have : (m &&& 3).toNat ≤ 3 := by rw [BitVec.toNat_and]; exact Nat.and_le_right
  generalize (m &&& 3).toNat = k at *
  interval_cases k <;> decide

theorem laneOf_eq (W : Nat) (x : Vec) (i : Nat) : laneOf W x i = (x.extractLsb' (W * i) W).toNat := by
  simp [laneOf]

theorem packLanes_sum (W n : Nat) (g : Nat → Nat) :
    packLanes W ((List.range n).map g) = ((List.range n).map (fun i => g i % 2 ^ W * 2 ^ (W * i))).sum := by
  have key : ∀ n k, packLanes W ((List.range' k n).map g) * 2 ^ (W * k) = ((List.range' k n).map (fun i => g i % 2 ^ W * 2 ^ (W * i))).sum := by
    intro n
    induction n with
    | zero => intro k; simp [packLanes]
    | succ n ih =>
      intro k
      rw [List.range'_succ]
      simp only [List.map_cons, packLanes, List.sum_cons]
      rw [← ih (k + 1)]
      have : 2 ^ (W * (k + 1)) = 2 ^ W * 2 ^ (W * k) := by rw [← Nat.pow_add]; congr 1; ring
      rw [this]; ring
  have := key n 0
  simpa [List.range_eq_range'] using this

theorem vecOfLanes_vector (W : Nat) (g : Nat → Nat) (e : Nat → BitVec W) (h : ∀ i < 512 / W, BitVec.ofNat W (g i) = e i) :
    vecOfLanes W ((List.range (512 / W)).map g) = vector W e := by
  unfold vecOfLanes vector
  rw [packLanes_sum]
  congr 2
  apply List.map_congr_left
  intro i hi
  rw [← h i (List.mem_range.1 hi)]
  simp

theorem needInt_ok {rd : Rd} {W : Nat} {r : Reg} (h : intTag (rd.vec r).tag = true ∧ tagWidth (rd.vec r).tag = W) :
    needInt rd W r = .ok () := by
  unfold needInt; simp [h.1, h.2]

theorem twoSource_exec {i f rule op} (h : twoSource i = some (f, rule, op)) :
    ∃ o : Nat → Nat → Nat → Nat, (∀ W (x y : BitVec W), BitVec.ofNat W (o W x.toNat y.toNat) = op W x y) ∧
      ∀ s, exec i s = runBoth s i false [] (intTwo f rule o) ∨ exec i s = runReg s i false [] (intTwo f rule o) := by
  cases i <;> simp only [twoSource, Option.some.injEq, Prod.mk.injEq, reduceCtorEq] at h
  all_goals obtain ⟨rfl, rfl, rfl⟩ := h
  · exact ⟨opAdd, fun W => opAdd_bv, fun s => .inl rfl⟩
  · exact ⟨opSub, fun W => opSub_bv, fun s => .inl rfl⟩
  · exact ⟨opMul, fun W => opMul_bv, fun s => .inl rfl⟩
  · exact ⟨opMulh, fun W => opMulh_bv, fun s => .inr rfl⟩
  · exact ⟨opMulhu, fun W => opMulhu_bv, fun s => .inr rfl⟩
  · exact ⟨opAnd, fun W => opAnd_bv, fun s => .inl rfl⟩
  · exact ⟨opOr, fun W => opOr_bv, fun s => .inl rfl⟩
  · exact ⟨opXor, fun W => opXor_bv, fun s => .inl rfl⟩
  · exact ⟨opAndn, fun W => opAndn_bv, fun s => .inl rfl⟩
  · exact ⟨opShl, fun W => opShl_bv, fun s => .inl rfl⟩
  · exact ⟨opShr, fun W => opShr_bv, fun s => .inl rfl⟩
  · exact ⟨opSar, fun W => opSar_bv, fun s => .inl rfl⟩
  · exact ⟨opRol, fun W => opRol_bv, fun s => .inr rfl⟩
  · exact ⟨opBfi _, fun W => opBfi_bv _, fun s => .inl rfl⟩
  · exact ⟨opMin, fun W => opMin_bv, fun s => .inl rfl⟩
  · exact ⟨opMax, fun W => opMax_bv, fun s => .inl rfl⟩
  · exact ⟨opMinu, fun W => opMinu_bv, fun s => .inl rfl⟩
  · exact ⟨opMaxu, fun W => opMaxu_bv, fun s => .inl rfl⟩

theorem immNat_eq (imm : BitVec 48) (f : Gen) (hf : f.imm = imm) (W : Nat) (hW : W ≤ 64) : immNat imm W = (immBits f W).toNat := by
  subst hf
  have := addi_bv f (0 : BitVec W) hW
  have h2 := congrArg BitVec.toNat this
  have hlt : immNat f.imm W < 2 ^ W := by
    unfold immNat wrapInt
    have h := Int.emod_lt_of_pos (signExt f.imm.toNat 48) (b := ((2 ^ W : Nat) : Int)) (by positivity)
    have h0 := Int.emod_nonneg (signExt f.imm.toNat 48) (b := ((2 ^ W : Nat) : Int)) (by positivity)
    omega
  simpa [opAdd, Nat.mod_eq_of_lt hlt] using h2

theorem read_mod (I : Iss) (lane : Nat) (r : Reg) (W : Nat) : ((I.c.rd lane).get r).toNat % 2 ^ W = (lowBits I lane r W).toNat := by
  unfold lowBits; simp [Course.rd]

theorem zipWith_range (n : Nat) (g h : Nat → Nat) (o : Nat → Nat → Nat) :
    ((List.range n).map g).zipWith o ((List.range n).map h) = (List.range n).map (fun i => o (g i) (h i)) := by
  rw [List.zipWith_map, List.zipWith_self]

end Sys2Proof.Laws
end

