-- ==== Sys2Proof/Tests/Base.lean ====
section
/-! SUPPORT. A small machine for tests and witnesses: one kernel of one course of two strands on core 0, with its own page tables, whose
first entry is about to issue; parts of it are replaced by what a test needs. -/
set_option Elab.async false
namespace Sys2Proof.Tests
open Sys2Proof.Machine Sys2Proof.Safety

/-- The identity over the first GiB of HBM4E: a root entry at 1 MiB and one leaf of a GiB, readable, writable and executable (R245, R246). -/
def tables : Memory := [(0x100000, 0x01), (0x100002, 0x20), (0x200000, 0x1B)]

def entry : ContextEntry := { ContextEntry.zero with ptroot := 0x100000, ccount := 16, gang := 8 }

/-- One panel of one course of two strands, DEPTH 48, two granules, 8 tiles, 4 tensors. -/
def header : Header :=
  { loadHeader false with
    shape := BitVec.ofNat 64 (1 + 1 * 2 ^ 4 + 1 * 2 ^ 9 + 1 * 2 ^ 12 + 2 * 2 ^ 14 + 6 * 2 ^ 42 + 1 * 2 ^ 46 + 1 * 2 ^ 51)
    ttcount := 8, ntens := 4, ttbase := 0x8000 }

def launch : Launch := { loadLaunch false with entry, hdr := header }

def strand (v : VReg) (w : KMap Word) : Strand := { Strand.start 0 0xA000000000000000 with v := Vector.replicate 8 v, stack := w, p := 0xFE }

/-- A course whose two strands hold one value in every vector register and listed values in the others. -/
def course (v : VReg) (w : KMap Word) : Course :=
  { Course.start launch 0 0 0 0 with strands := (Vector.replicate 16 (Strand.start 0 0)).set 0 (strand v w) |>.set 1 (strand v w), started := true }

def panel : Panel := Panel.start header 0 0

/-- The machine with one course, which issues. -/
def machine (c : Course) : State :=
  { State.reset with
    mem := { Memories.start with hbm := tables }
    tables := { State.reset.tables with contexts := [(1, { entry, killed := false })] }
    work := { WorkState.start with launches := [(0, launch)], skeins := [(0, loadSkein)], nextId := 10 }
    panels := [(0, panel)]
    courses := [(0, c)]
    cores := [(0, { Core.zero with granules := [(0, .held 0), (1, .held 0)] })]
    focus := .course 0 0 }

/-- The issuer of a form by course 0 of core 0. -/
def issuer (s : State) (c : Course) (f : Form) (rmw : Bool) : Iss :=
  let E := (headEntry c.front).getD (Entry.fresh 0 0 0 false)
  { core := 0, slot := 0, c, E, w := s.courseWho 0 c, lanes := guardLanes c E f.c.guard, uni := formUniform f rmw,
    leader := (guardLanes c E f.c.guard).headD 0 }

/-- The course issues the instruction. -/
def issues (s : State) (c : Course) (i : Instr) (rmw : Bool) (req : List Reg) : Bool :=
  match i.form false with
  | none => false
  | some f =>
    let I := issuer s c f rmw
    c.orphan.isNone && (headEntry c.front).isSome && !I.lanes.isEmpty && s.async.faults.isEmpty &&
      (I.differs ((if f.c.u then formSources f rmw else []) ++ req)).isNone

/-- The issuer of an instruction that has a form. -/
def who (s : State) (c : Course) (i : Instr) (rmw : Bool := false) : Iss :=
  match i.form false with
  | none => issuer s c (mk 0 .both ⟨⟨false, 0⟩, 0, .w 0, .w 0, .w 0, .w 0, false⟩ 0 true .no .no .no .no true 0 none none) rmw
  | some f => issuer s c f rmw

theorem issues_sound {s : State} {c : Course} {i : Instr} {rmw : Bool} {req : List Reg} (hf : s.focus = .course 0 0)
    (hc : s.course? 0 0 = some c) (h : issues s c i rmw req = true) : Issues s i rmw req (who s c i rmw) := by
  unfold issues at h
  unfold who
  split at h
  · cases h
  · next f e =>
    simp only [Bool.and_eq_true, Bool.not_eq_true'] at h
    obtain ⟨⟨⟨⟨ho, hh⟩, hl⟩, hq⟩, hd⟩ := h
    refine ⟨hf, hc, Option.isNone_iff_eq_none.1 ho, ?_, rfl, ⟨f, e, rfl, rfl, by simpa using hd⟩, ?_, rfl, ?_⟩
    · obtain ⟨E, hE⟩ := Option.isSome_iff_exists.1 hh
      simp [issuer, hE]
    · intro k; rw [show (issuer s c f rmw).lanes = [] from k] at hl; simp at hl
    · intro p hp; rw [List.isEmpty_iff.1 hq] at hp; cases hp

end Sys2Proof.Tests
end

