-- ==== Sys2Proof/Tests/Registers.lean ====
section
/-! SUPPORT. For each statement about register instructions, a machine and operands that meet its hypotheses. -/
set_option maxRecDepth 20000
set_option Elab.async false
namespace Sys2Proof.Tests
open Sys2Proof.Machine Sys2Proof.Safety

/-- General fields: every register of one class, guard ?p0. -/
def gen (m : Byte) (d a b : Reg) (imm : BitVec 48 := 0) (fn : BitVec 3 := 0) (c : Reg := .w 0) : Gen :=
  ⟨⟨⟨false, 0⟩, m, d, a, b, c, false⟩, fn, imm⟩

/-- A course whose vector registers hold one value under a tag, and w1 = 5, w2 = 7, w3 = 2. -/
def tagCourse (T : BitVec 5) (bits : Vec := 0x0302010003020100) (exps : Word := 0) : Course :=
  course { bits, tag := T, exps } [(1, 5), (2, 7), (3, 2)]

/-- A course with the integer tag of 32 bits. -/
def c32 : Course := tagCourse 0x09 (-1)

def abc (m : Byte) : Gen := gen m (.w 1) (.w 2) (.w 3)
def vabc (m : Byte) : Gen := gen m (.v 1) (.v 2) (.v 3)

theorem witness_Integers :
    (∃ s I, Issues s (.add (abc 0x03)) false [] I ∧ modV (0x03 : Byte) = false ∧ Reg.shared (abc 0x03).dst = false) ∧
    (∃ s I, Issues s (.and (gen 0x0F (.w 1) (.w 2) (.w 0) 0xFFFFFFFFFFFF)) false [] I ∧ modImm (0x0F : Byte) = true) ∧
    (∃ s I, Issues s (.mulh (vabc 0x82)) false [] I ∧ intSource I (.v 2) 32 ∧ intSource I (.v 3) 32) ∧
    (∃ s I, Issues s (.clz (gen 0x02 (.w 1) (.w 2) (.w 0))) false [] I ∧ modV (0x02 : Byte) = false) ∧
    (∃ s I, Issues s (.bfx (gen 0x92 (.v 1) (.v 2) (.w 0) 0x2000)) false [] I ∧ intSource I (.v 2) 32) :=
  ⟨⟨machine c32, who _ c32 _, issues_sound rfl rfl (by decide), rfl, rfl⟩, ⟨machine c32, who _ c32 _, issues_sound rfl rfl (by decide), rfl⟩,
   ⟨machine c32, who _ c32 _, issues_sound rfl rfl (by decide), by unfold intSource; decide, by unfold intSource; decide⟩,
   ⟨machine c32, who _ c32 _, issues_sound rfl rfl (by decide), rfl⟩,
   ⟨machine c32, who _ c32 _, issues_sound rfl rfl (by decide), by unfold intSource; decide⟩⟩

/-- w1 ÷ w3 has a divisor, w1 ÷ w4 has none; every element of v3 is −1, and one of v3 is 0 where only its low element is not. -/
theorem witness_Division :
    (∃ s I, Issues s (.div (abc 0x03)) false [] I ∧ ∀ lane ∈ I.runs, lowBits I lane (.w 3) (intWidth 0x03) ≠ 0) ∧
    (∃ s I, Issues s (.remu (vabc 0x82)) false [] I ∧ intSource I (.v 2) 32 ∧ intSource I (.v 3) 32 ∧
      ∀ lane ∈ I.runs, ∀ j < 512 / 32, element I lane (.v 3) 32 j ≠ 0) ∧
    (∃ s I, Issues s (.divu (gen 0x03 (.w 1) (.w 2) (.w 4))) false [] I ∧ ∃ lane ∈ I.runs, zeroDivisor I lane (gen 0x03 (.w 1) (.w 2) (.w 4))) ∧
    (∃ s I, Issues s (.rem (vabc 0x82)) false [] I ∧ intSource I (.v 2) 32 ∧ intSource I (.v 3) 32 ∧
      ∃ lane ∈ I.runs, zeroDivisor I lane (vabc 0x82)) :=
  ⟨⟨machine c32, who _ c32 _, issues_sound rfl rfl (by decide), by decide⟩,
   ⟨machine c32, who _ c32 _, issues_sound rfl rfl (by decide), by unfold intSource; decide, by unfold intSource; decide, by decide⟩,
   ⟨machine c32, who _ c32 _, issues_sound rfl rfl (by decide), by unfold zeroDivisor; decide⟩,
   ⟨machine (tagCourse 0x09 1), who _ (tagCourse 0x09 1) _, issues_sound rfl rfl (by decide), by unfold intSource; decide,
    by unfold intSource; decide, by unfold zeroDivisor; decide⟩⟩

/-- The moves and RDID need nothing but to issue. -/
theorem witness_ScalarMoves_Identification :
    ∀ x ∈ ([(.sel (gen 0x03 (.w 1) (.w 2) (.w 3) 0 0 (.p 1)), false), (.mov (gen 0x03 (.w 1) (.w 2) (.w 0)), false),
      (.mov (gen 0x83 (.v 1) (.v 2) (.w 0)), false), (.mov (gen 0x02 (.p 1) (.w 2) (.w 0)), false), (.mov (gen 0x03 (.w 1) (.p 2) (.w 0)), false),
      (.movi (gen 0x03 (.w 1) (.w 0) (.w 0) 5), false), (.movh (gen 0x03 (.w 1) (.w 0) (.w 0) 5 1), true), (.cmp (gen 0x2B (.p 2) (.w 3) (.w 0) 10), false),
      (.plop (gen 0 (.p 1) (.p 2) (.p 3) 0x96 0 (.p 7)), false), (.lea ⟨⟨⟨false, 0⟩, 3, .w 1, .w 2, .w 3, .w 0, false⟩, 2, true, 0xFFF⟩, false),
      (.rdid (gen 3 (.w 5) (.w 0) (.w 0) 0x00), false), (.rdid (gen 3 (.w 5) (.w 0) (.w 0) 0x0D), false)] : List (Instr × Bool)),
      Issues (machine c32) x.1 x.2 [] (who (machine c32) c32 x.1 x.2) :=
  fun x h => issues_sound rfl rfl (by revert x; decide)

/-- Scalars of FP32 for any values; a vector form's sources carry FP16. -/
def c16 : Course := tagCourse 0x13

theorem witness_FloatForms :
    (∀ x ∈ ([.fadd (abc 0x15), .fma (gen 0x16 (.w 1) (.w 2) (.w 3) 0 0 (.w 1)), .fcls (gen 0x13 (.w 1) (.w 2) (.w 0)),
        .fcmp (gen 0x15 (.p 1) (.w 2) (.w 3) 7)] : List Instr), Issues (machine c16) x false [] (who (machine c16) c16 x)) ∧
    (∃ s I, Issues s (.fmul (vabc 0xF3)) false [] I ∧ ∀ x ∈ [(.v 2 : Reg), .v 3], tagged I x (fpT 0xF3)) ∧
    (∃ s I, Issues s (.fcmp (gen 0x93 (.w 1) (.v 2) (.v 3) 2)) false [] I ∧ tagged I (.v 2) (fpT 0x93) ∧ tagged I (.v 3) (fpT 0x93)) :=
  ⟨fun x h => issues_sound rfl rfl (by revert x; decide),
   ⟨machine c16, who _ c16 _, issues_sound rfl rfl (by decide), by unfold tagged; decide⟩,
   ⟨machine c16, who _ c16 _, issues_sound rfl rfl (by decide), by unfold tagged; decide, by unfold tagged; decide⟩⟩

/-- A third, more than the greatest FP16 subnormal, rounds without overflow in every mode; 2^20 × 2^-20 in the exact forms. -/
theorem witness_RoundedOnce :
    (fpTag 0x13 = true ∧ (-24 : Int) ≤ lowExp 0x13 ∧ ∀ rm < 4, (roundTo 0x13 rm (.fin true 1365 (-12))).flags &&& flagOF = 0) ∧
    (∃ (k e1 e2 : Int), k ≤ e1 ∧ k ≤ e2) :=
  ⟨⟨by decide, by decide, by decide⟩, ⟨-20, 0, -20, by decide, by decide⟩⟩

theorem witness_Conversion :
    (∃ s I, Issues s (.fcvt (gen 0x15 (.w 1) (.w 2) (.w 0) 0x0030013)) false [] I ∧ 3 < s.ntens) ∧
    (∃ s I, Issues s (.fcvt (gen 0x95 (.v 1) (.v 2) (.w 0) 0x113)) false [] I ∧ tagged I (.v 2) 0x13 ∧ tagWidth 0x13 < tagWidth (fpT 0x95) ∧ 0 < s.ntens) ∧
    (∃ s I, Issues s (.fcvt (gen 0x93 (.v 1) (.v 2) (.w 0) 0x115)) true [] I ∧ tagged I (.v 2) 0x15 ∧ tagWidth (fpT 0x93) < tagWidth 0x15 ∧ 0 < s.ntens) :=
  ⟨⟨machine c16, who _ c16 _, issues_sound rfl rfl (by decide), by decide⟩,
   ⟨machine c16, who _ c16 _, issues_sound rfl rfl (by decide), by unfold tagged; decide, by decide, by decide⟩,
   ⟨machine (tagCourse 0x15), who _ (tagCourse 0x15) _ true, issues_sound rfl rfl (by decide), by unfold tagged; decide, by decide, by decide⟩⟩

theorem witness_VectorElements :
    (∀ x ∈ ([.vspl (gen 0x29 (.v 1) (.w 0) (.w 0) 7), .vtag (gen 0x15 (.v 1) (.v 2) (.w 0)), .vrand (gen 0x0C (.v 1) (.w 2) (.w 0)),
        .vmsk (gen 0x48 (.v 1) (.w 2) (.w 0))] : List Instr), Issues (machine c32) x false [] (who (machine c32) c32 x)) ∧
    (∃ s I, Issues s (.vext (gen 0x29 (.w 1) (.v 2) (.w 0) 15)) false [] I ∧ tagged I (.v 2) (fpT 0x29)) ∧
    (∃ s I, Issues s (.vins (gen 0x29 (.v 1) (.w 2) (.w 0) 15)) true [] I ∧ tagged I (.v 1) (fpT 0x29)) ∧
    (∃ s I, Issues s (.vmsk (gen 0x29 (.w 1) (.v 2) (.w 0))) false [] I ∧ tagged I (.v 2) (fpT 0x29)) ∧
    (∃ s I, Issues s (.vprm (vabc 0x0A)) false [] I ∧ tagged I (.v 2) (fpT 0x0A) ∧ tagged I (.v 3) (intTagOf false (tagWidth (fpT 0x0A)))) ∧
    (∃ s I, Issues s (.vsel (gen 0x09 (.v 1) (.v 2) (.v 3) 0 0 (.w 1))) false [] I ∧ tagged I (.v 2) (fpT 0x09) ∧ tagged I (.v 3) (fpT 0x09)) :=
  ⟨fun x h => issues_sound rfl rfl (by revert x; decide),
   ⟨machine c32, who _ c32 _, issues_sound rfl rfl (by decide), by unfold tagged; decide⟩,
   ⟨machine c32, who _ c32 _ true, issues_sound rfl rfl (by decide), by unfold tagged; decide⟩,
   ⟨machine c32, who _ c32 _, issues_sound rfl rfl (by decide), by unfold tagged; decide⟩,
   ⟨machine (tagCourse 0x0A), who _ (tagCourse 0x0A) _, issues_sound rfl rfl (by decide), by unfold tagged; decide, by unfold tagged; decide⟩,
   ⟨machine c32, who _ c32 _, issues_sound rfl rfl (by decide), by unfold tagged; decide, by unfold tagged; decide⟩⟩

theorem witness_VectorReductions :
    (∃ s I, Issues s (.vred (gen 0x09 (.w 1) (.v 2) (.w 3) 1)) false [] I ∧ tagged I (.v 2) (fpT 0x09)) ∧
    (∃ s I, Issues s (.vscn (gen 0x69 (.v 1) (.v 2) (.w 0))) false [] I ∧ tagged I (.v 2) (fpT 0x69)) ∧
    (∃ l : List (Option Nat), fpTag 0x05 = false ∧ l.length ≤ 1024 ∧ (∀ x ∈ l, ∀ v, x = some v → v < 2 ^ tagWidth 0x05) ∧ l ≠ []) :=
  ⟨⟨machine c32, who _ c32 _, issues_sound rfl rfl (by decide), by unfold tagged; decide⟩,
   ⟨machine c32, who _ c32 _, issues_sound rfl rfl (by decide), by unfold tagged; decide⟩,
   ⟨[some 255, none, some 1], by decide, by decide, by decide, by decide⟩⟩

/-- Another value in one vector register of both strands. -/
def withV (c : Course) (i : Nat) (v : VReg) : Course := (c.modSt 0 (·.setV i v)).modSt 1 (·.setV i v)

/-- FP32 everywhere but in v1, which holds two blocks of WB8. -/
def cBlock : Course := withV (tagCourse 0x15) 1 { bits := 1, tag := 0x19, exps := 0x7F7F7F7F }

theorem witness_BlockFormats :
    (∃ s I, Issues s (.vqnt (gen 0x19 (.v 1) (.v 2) (.v 3) 0x100)) true [] I ∧ tagged I (.v 2) 0x15 ∧ tagged I (.v 3) 0x15 ∧
      tagged I (.v 1) 0x19 ∧ wbTag 0x19 = true ∧ 1 < wbBlocks 0x19 ∧ 0 < s.ntens) ∧
    (∃ s I, Issues s (.vqnt (gen 0x18 (.v 1) (.v 2) (.w 0) 0)) false [] I ∧
      (∀ lane ∈ I.runs, ((I.c.rd lane).vec (.v 2)).tag = 0x13 ∨ ((I.c.rd lane).vec (.v 2)).tag = 0x14) ∧ 0 < wbBlocks 0x18 ∧ 0 < s.ntens) ∧
    (∃ s I, Issues s (.vdqn (gen 0x15 (.v 1) (.v 2) (.w 0) 0x400)) false [] I ∧
      (∀ lane ∈ I.runs, wbTag ((I.c.rd lane).vec (.v 2)).tag = true ∧ 0 < wbBlocks ((I.c.rd lane).vec (.v 2)).tag) ∧ 0 < s.ntens) :=
  ⟨⟨machine cBlock, who _ cBlock _ true, issues_sound rfl rfl (by decide), by unfold tagged; decide, by unfold tagged; decide,
      by unfold tagged; decide, by decide, by decide, by decide⟩,
   ⟨machine c16, who _ c16 _, issues_sound rfl rfl (by decide), by decide, by decide, by decide⟩,
   ⟨machine (tagCourse 0x18), who _ (tagCourse 0x18) _, issues_sound rfl rfl (by decide), by decide, by decide⟩⟩

/-- Packed operands hold 1 everywhere; VUNPK of 2^15 in a field of 16 bits less a headroom of 1 does not fit. -/
def cPack : Course := tagCourse 0x0B 1
def unpack (m : Byte) : Gen := gen m (.v 1) (.v 2) (.w 0) 0x110002

theorem witness_PackedPolynomials :
    (∃ s I, Issues s (.vpack (gen 0x25 (.v 1) (.v 2) (.w 0) 0x20408)) false [] I ∧ tagged I (.v 2) (fpT 0x25)) ∧
    (∃ s I, Issues s (.vpmul (gen 0x0B (.v 6) (.v 1) (.v 2))) false [] I ∧ tagged I (.v 1) packedTag ∧ tagged I (.v 2) packedTag ∧ evenV (.v 6) = true) ∧
    (∃ s I, Issues s (.vunpk (unpack 0x07)) false [] I ∧ tagged I (.v 2) packedTag ∧ ∀ lane ∈ I.runs,
      ∀ x ∈ digitsFrom (packG (unpack 0x07)) 0 2 ((I.c.rd lane).vec (.v 2)).bits.toInt, -(2 ^ 14 : Int) ≤ x ∧ x < 2 ^ 14) ∧
    (∃ s I, Issues s (.vunpk (unpack 0x07)) false [] I ∧ tagged I (.v 2) packedTag ∧ modI5 (0x07 : Byte) = false ∧ ∃ lane ∈ I.runs,
      ∃ x ∈ digitsFrom (packG (unpack 0x07)) 0 2 ((I.c.rd lane).vec (.v 2)).bits.toInt, x < -(2 ^ 14 : Int) ∨ 2 ^ 14 ≤ x) :=
  ⟨⟨machine (tagCourse 0x05), who _ (tagCourse 0x05) _, issues_sound rfl rfl (by decide), by unfold tagged; decide⟩,
   ⟨machine cPack, who _ cPack _, issues_sound rfl rfl (by decide), by unfold tagged; decide, by unfold tagged; decide, rfl⟩,
   ⟨machine cPack, who _ cPack _, issues_sound rfl rfl (by decide), by unfold tagged; decide, by decide +kernel⟩,
   ⟨machine (tagCourse 0x0B 0x7000), who _ (tagCourse 0x0B 0x7000) _, issues_sound rfl rfl (by decide), by unfold tagged; decide, rfl, by decide +kernel⟩⟩

/-- The strands of this course differ in w2: 7 and 8. -/
def cDiffer : Course := c32.modSt 1 (·.setW 2 8)

theorem witness_CrossStrand :
    (∀ x ∈ ([(.xshf (gen 0x40 (.w 1) (.w 2) (.w 0) 15), []), (.xshf (gen 0x00 (.w 1) (.w 2) (.w 3)), []), (.xbrd (gen 0x20 (.w 1) (.w 2) (.w 0) 1), []),
        (.xbrd (gen 0 (.w 1) (.w 2) (.w 3)), [.w 3]), (.xvot (gen 0x00 (.p 1) (.p 2) (.w 0)), []), (.xvot (gen 0x69 (.p 1) (.w 2) (.w 0)), []),
        (.xuni (gen 0x09 (.w 1) (.w 2) (.w 0)), []), (.xred (gen 0x09 (.w 1) (.w 2) (.w 0)), []), (.xscn (gen 0x09 (.w 1) (.w 2) (.w 0) 1), [])] :
          List (Instr × List Reg)), Issues (machine cDiffer) x.1 false x.2 (who (machine cDiffer) cDiffer x.1)) ∧
    (∃ s I, Issues s (.xshf (gen 0x20 (.v 1) (.v 2) (.w 0) 1)) false [] I ∧ ∀ lane ∈ I.lanes, ((I.c.rd lane).vec (.v 2)).tag ≠ 0) ∧
    (∃ s I, Issues s (.xred (gen 0x09 (.v 1) (.v 2) (.w 0))) false [] I ∧ ∀ lane ∈ I.lanes, ((I.c.rd lane).vec (.v 2)).tag = fpT 0x09) ∧
    (∃ s I, Issues s (.add (gen 0x03 (.k 3) (.w 2) (.w 3))) false [] I ∧ Reg.shared (.k 3) = true ∧
      ∃ lane ∈ I.lanes, lowBits I (sourceOf I lane) (.w 2) 64 + lowBits I (sourceOf I lane) (.w 3) 64 ≠ lowBits I I.leader (.w 2) 64 + lowBits I I.leader (.w 3) 64) :=
  ⟨fun x h => issues_sound rfl rfl (by revert x; decide),
   ⟨machine c32, who _ c32 _, issues_sound rfl rfl (by decide), by decide⟩,
   ⟨machine c32, who _ c32 _, issues_sound rfl rfl (by decide), by decide⟩,
   ⟨machine cDiffer, who _ cDiffer _, issues_sound rfl rfl (by decide), rfl, by decide⟩⟩

/-- A machine whose sequencer issues. -/
def streaming (p : Panel) : State := { machine c32 with panels := [(0, p)], focus := .stream 0 0 }
def seq : Panel := { Panel.start { header with stream := loadPc } 0 0 with m := Vector.replicate 16 4, sstarted := true }

theorem streams {p : Panel} (h : p.swait = .none) : Streams (streaming p) 0 0 p := ⟨rfl, rfl, .inl h, by intro q hq; cases hq⟩

theorem witness_StreamScalars :
    Streams (streaming seq) 0 0 seq ∧ Instr.wellFormed true (.add (gen 0x03 (.w 15) (.w 2) (.w 0))) = true ∧
      Instr.wellFormed true (.lea ⟨⟨⟨false, 0⟩, 3, .w 1, .w 2, .w 3, .w 0, false⟩, 3, true, 0x7FFFFFFFFFFF⟩) = true ∧
      Instr.wellFormed true (.movi (gen 0x03 (.w 1) (.w 0) (.w 0) 0xFFFFFFFFFFFF)) = true :=
  ⟨streams rfl, by decide, by decide, by decide⟩

end Sys2Proof.Tests
end

