-- ==== Sys2Proof/Tests/Control.lean ====
section
/-! SUPPORT. For each statement about control, system instructions and traps, a machine and operands that meet its hypotheses. -/
set_option maxRecDepth 20000
set_option Elab.async false
namespace Sys2Proof.Tests
open Sys2Proof.Machine Sys2Proof.Safety

/-- What a successful pair holds. -/
theorem pair_ok {σ ε α : Type} {x : σ × Except ε α} (p : α → Bool) (h : (match x.2 with | .ok r => p r | .error _ => false) = true) :
    ∃ s r, x = (s, .ok r) ∧ p r = true := by
  obtain ⟨s, e | r⟩ := x
  · cases h
  · exact ⟨s, r, rfl, h⟩

/-- A successful answer that meets a test. -/
def good {ε α : Type} (p : α → Bool) (x : Except ε α) : Bool := match x with | .ok r => p r | .error _ => false

/-- What a successful answer holds. -/
theorem is_ok {ε α : Type} {x : Except ε α} (p : α → Bool) (h : good p x = true) : ∃ r, x = .ok r ∧ p r = true := by
  cases x with
  | error e => cases h
  | ok r => exact ⟨r, rfl, h⟩

theorem is_error {ε α : Type} {x : Except ε α} (h : (match x with | .ok _ => false | .error _ => true) = true) : ∃ e, x = .error e := by
  cases x with
  | error e => exact ⟨e, rfl⟩
  | ok r => cases h

theorem is_some {α : Type} {x : Option α} (h : x.isSome = true) : ∃ a, x = some a := Option.isSome_iff_exists.1 h

/-! ## Branches, calls and returns -/

/-- The line of the issuing entry, an LPAD with LABEL 0xBEEF and PRIO 9 in slot 0, is cached. -/
def cachedCores : KMap Core :=
  [(0, { Core.zero with icache := [icMark 1 loadPc (lineOf [0x04000000000000000009BEEF])], granules := [(0, .held 0), (1, .held 0)] })]

/-- The machine with that line, and a jump table at 0x3000: an invalid PC, then the PC of the pad. -/
def jumping (c : Course) : State :=
  { machine c with cores := cachedCores, mem := { Memories.start with hbm := [(0x3000, 0x05), (0x3009, 0x10)] ++ tables } }

def brn (m : Byte) (a : Reg) (offset : BitVec 29) (slot : BitVec 3) : Brn := ⟨⟨⟨false, 0⟩, m, .w 0, a, .w 0, .w 0, false⟩, 0, offset, slot, 3⟩

theorem issues_jumping {c : Course} {i : Instr} {rmw : Bool} {req : List Reg} (h : issues (jumping c) c i rmw req = true) :
    Issues (jumping c) i rmw req (who (jumping c) c i rmw) := issues_sound rfl rfl h

theorem witness_PlainControl :
    (∀ x ∈ ([.nop (gen 0 (.w 0) (.w 0) (.w 0)), .lpad ⟨⟨⟨false, 0⟩, 0, .w 0, .w 0, .w 0, .w 0, false⟩, 0, 0, 1, 2⟩,
        .yield (gen 0 (.w 0) (.w 0) (.w 0) 0), .yield (gen 0 (.w 0) (.w 0) (.w 0) 255), .rgn (gen 0 (.w 0) (.w 0) (.w 0) 0x800001),
        .exit (gen 0 (.w 0) (.w 0) (.w 0))] : List Instr), Issues (machine c32) x false [] (who (machine c32) c32 x)) ∧
    (∃ s I, Issues s (.ret (gen 0 (.w 0) (.w 0) (.w 0))) false [] I ∧ ∀ i ∈ I.lanes, (I.c.st i).depth = 0) ∧ Streams (streaming seq) 0 0 seq :=
  ⟨fun x h => issues_sound rfl rfl (by revert x; decide), ⟨machine c32, who _ c32 _, issues_sound rfl rfl (by decide), by decide⟩, streams rfl⟩

/-- A transfer to slot 1 of the cached line succeeds, one to the next line fails; w1 = 5 is positive and not zero; m4 = 4. -/
theorem witness_Branches :
    (∃ s I, Issues s (.bra (brn 0 (.w 0) 0 1)) false [] I ∧ (target s I (brnTarget I.E.pc (brn 0 (.w 0) 0 1))).2 = none) ∧
    (∃ s I e, Issues s (.bra (brn 0 (.w 0) 1 0)) false [] I ∧ (target s I (brnTarget I.E.pc (brn 0 (.w 0) 1 0))).2 = some e) ∧
    (∃ s I, Issues s (.brp (brn 0 (.w 1) 0 1)) false [] I ∧
      ∀ i, ¬ (i ∈ I.lanes ∧ signTest (0 : Byte).toNat (I.c.read (sourceOf I i) (.w 1)))) ∧
    (∃ s I, Issues s (.brp (brn 5 (.w 1) 0 1)) false [] I ∧ (∃ i, i ∈ I.lanes ∧ signTest (5 : Byte).toNat (I.c.read (sourceOf I i) (.w 1))) ∧
      (target s I (brnTarget I.E.pc (brn 5 (.w 1) 0 1))).2 = none) ∧
    (∃ s I e, Issues s (.brp (brn 3 (.w 1) 1 0)) false [] I ∧ (∃ i, i ∈ I.lanes ∧ signTest (3 : Byte).toNat (I.c.read (sourceOf I i) (.w 1))) ∧
      (target s I (brnTarget I.E.pc (brn 3 (.w 1) 1 0))).2 = some e) ∧
    (∃ s p, Streams s 0 0 p ∧ (s.checkTarget 0 (s.skeinWho p.skein 0 none) true (brnTarget p.spc (brn 1 (.w 4) 0 1))).2 = none ∧
      signTest (1 : Byte).toNat (p.rd.get (.w 4)) ∧ ¬ signTest (0 : Byte).toNat (p.rd.get (.w 4))) ∧
    (∃ s p t, Streams s 0 0 p ∧ (s.checkTarget 0 (s.skeinWho p.skein 0 none) true (brnTarget p.spc (brn 0 (.w 0) 1 0))).2 = some (.trap t)) :=
  ⟨⟨jumping c32, who _ c32 _, issues_jumping (by decide), by decide⟩,
   ⟨jumping c32, who _ c32 _, _, issues_jumping (by decide), rfl⟩,
   ⟨jumping c32, who _ c32 (.brp (brn 0 (.w 1) 0 1)), issues_jumping (by decide), fun i h => absurd h.2 (by
     have k : i ∈ [0, 1] := h.1
     clear h; revert i; unfold signTest; decide)⟩,
   ⟨jumping c32, who _ c32 _, issues_jumping (by decide), ⟨0, by unfold signTest; decide⟩, by decide⟩,
   ⟨jumping c32, who _ c32 _, _, issues_jumping (by decide), ⟨0, by unfold signTest; decide⟩, rfl⟩,
   ⟨{ streaming seq with cores := cachedCores }, seq, ⟨rfl, rfl, .inl rfl, fun q hq => by cases hq⟩, by decide, by unfold signTest; decide,
    by unfold signTest; decide⟩,
   ⟨streaming seq, seq, _, streams rfl, rfl⟩⟩

/-- An invalid PC, the cached line, a line read from memory, and one that does not translate. -/
theorem witness_TransferTargets :
    pcValid 5 = false ∧
    (∃ (s : State) (w : Who) (x : IcLine), pcValid 0x1001 = true ∧ s.icFind 0 w.ctx (pcLine 0x1001) = some x) ∧
    (∃ (s : State) (w : Who) (bits : LineBits), pcValid 0x2004 = true ∧ s.icFind 0 w.ctx (pcLine 0x2004) = none ∧ s.fillRead w (pcLine 0x2004) = .ok bits) ∧
    (∃ (s : State) (w : Who) (e : Stop), pcValid 0x40000000 = true ∧ s.icFind 0 w.ctx (pcLine 0x40000000) = none ∧
      s.fillRead w (pcLine 0x40000000) = .error e) :=
  ⟨by decide, ⟨jumping c32, (jumping c32).courseWho 0 c32, _, by decide, rfl⟩, ⟨jumping c32, (jumping c32).courseWho 0 c32, _, by decide, by decide, rfl⟩,
   ⟨jumping c32, (jumping c32).courseWho 0 c32, _, by decide, by decide, rfl⟩⟩

/-- w1 and w2 hold the table's address and 1; a strand has been called once from the cached line. -/
def cTable : Course := course VReg.zero [(1, 0x3000), (2, 1)]
def jmp (bound : Half) : Jmp := ⟨⟨⟨false, 0⟩, 0, .w 0, .w 1, .w 2, .w 0, false⟩, 0, bound, 0, 0xBEEF⟩
def inCall (x : Strand) : Strand := { x with wb := 4, depth := 1, rstack := [{ pc := loadPc, prio := 1, n := 4 }] }
def cCalled : Course := (c32.modSt 0 inCall).modSt 1 inCall

theorem witness_Calls_all :
    (∃ s I s1 rs, Issues s (.jtb (jmp 2)) false [] I ∧ Unwatched s ∧ Iss.eachState I.runs (passed s I) (fun s i => s.jumpTable I (jmp 2) i) = (s1, .ok rs)) ∧
    (∃ s I s1 rs, Issues s (.call (brn 23 (.w 0) 0 2)) false [] I ∧ Unwatched s ∧ (target s I (brnTarget I.E.pc (brn 23 (.w 0) 0 2))).2 = none ∧
      Iss.eachState I.lanes (target s I (brnTarget I.E.pc (brn 23 (.w 0) 0 2))).1
        (fun s i => s.callStrand I (brn 23 (.w 0) 0 2) ((s.launchOf I.c).elim 64 (·.hdr.depth)) i) = (s1, .ok rs)) ∧
    (∃ s I s1 rs, Issues s (.ret (gen 0 (.w 0) (.w 0) (.w 0))) false [] I ∧ Unwatched s ∧
      Iss.eachState I.lanes (passed s I) (fun s i => s.retStrand I i) = (s1, .ok rs) ∧ ∀ x ∈ rs, ∃ y pc prio, x.2 = .go y pc prio) := by
  refine ⟨?_, ?_, ?_⟩
  · obtain ⟨s1, rs, h, _⟩ := pair_ok (x := Iss.eachState (who (jumping cTable) cTable (.jtb (jmp 2))).runs
      (passed (jumping cTable) (who (jumping cTable) cTable (.jtb (jmp 2)))) (fun s i => s.jumpTable (who (jumping cTable) cTable (.jtb (jmp 2))) (jmp 2) i))
      (fun _ => true) (by decide +kernel)
    exact ⟨_, _, s1, rs, issues_jumping (by decide), by unfold Unwatched; decide, h⟩
  · let I := who (jumping c32) c32 (.call (brn 23 (.w 0) 0 2))
    obtain ⟨s1, rs, h, _⟩ := pair_ok (x := Iss.eachState I.lanes (target (jumping c32) I (brnTarget I.E.pc (brn 23 (.w 0) 0 2))).1
        (fun s i => s.callStrand I (brn 23 (.w 0) 0 2) ((s.launchOf I.c).elim 64 (·.hdr.depth)) i)) (fun _ => true) (by decide +kernel)
    exact ⟨_, _, s1, rs, issues_jumping (by decide), by unfold Unwatched; decide, by decide, h⟩
  · let I := who (jumping cCalled) cCalled (.ret (gen 0 (.w 0) (.w 0) (.w 0)))
    obtain ⟨s1, rs, h, k⟩ := pair_ok (x := Iss.eachState I.lanes (passed (jumping cCalled) I) (fun s i => s.retStrand I i))
      (fun r => r.all (fun x => match x.2 with | .go _ _ _ => true | .leave => false)) (by decide +kernel)
    refine ⟨_, _, s1, rs, issues_jumping (by decide), by unfold Unwatched; decide, h, fun x hx => ?_⟩
    have := List.all_eq_true.1 k x hx
    obtain ⟨i, _ | ⟨y, pc, prio⟩⟩ := x
    · cases this
    · exact ⟨y, pc, prio, rfl⟩

/-- For one strand: the index at the bound; a table off alignment; an entry that is no PC, and one that leads to the pad; a call and a return
that stay on chip, the call at the greatest window that DEPTH allows; a return at depth zero. -/
theorem witness_Calls_one :
    (∃ (c : Course), (jmp 1).bound.toNat ≤ (c.read 0 (.w 2)).toNat) ∧
    (∃ (c : Course), (c.read 0 (.w 2)).toNat < (jmp 8).bound.toNat ∧ (c.read 0 (.w 1)).toNat % 8 ≠ 0) ∧
    (∃ (s : State) (I : Iss), ∃ o, (I.c.read 0 (.w 2)).toNat < (jmp 2).bound.toNat ∧
      s.reach (s.strandWho I.core I.c.pslot I.c 0) I.core false true (0x3000 + 0 * 8) 8 = .ok o ∧
      pcValid (BitVec.ofNat 64 (leNat (s.routeRead o.route))) = false) ∧
    (∃ (s : State) (I : Iss), ∃ o x, s.reach (s.strandWho I.core I.c.pslot I.c 0) I.core false true (0x3000 + 1 * 8) 8 = .ok o ∧
      BitVec.ofNat 64 (leNat (s.routeRead o.route)) = loadPc ∧ (s.checkTarget I.core I.w true loadPc).2 = none ∧
      (s.checkTarget I.core I.w true loadPc).1.icFind I.core I.w.ctx (pcLine loadPc) = some x) ∧
    ((c32.st 0).rstack.length < 16 ∧ (c32.st 0).wb + 23 + 24 ≤ (c32.st 0).low + 47) ∧
    onChip (cCalled.st 0) { pc := loadPc, prio := 1, n := 4 } ∧ (c32.st 0).depth = 0 := by
  refine ⟨⟨cTable, by decide⟩, ⟨c32, by decide⟩, ?_, ?_, ⟨by decide, by decide⟩, ⟨by decide, rfl, by decide, by decide, by decide, by decide⟩, rfl⟩
  · let I := who (jumping cTable) cTable (.jtb (jmp 2))
    obtain ⟨o, h, k⟩ := is_ok (x := (jumping cTable).reach ((jumping cTable).strandWho I.core I.c.pslot I.c 0) I.core false true (0x3000 + 0 * 8) 8)
      (fun o => !pcValid (BitVec.ofNat 64 (leNat ((jumping cTable).routeRead o.route)))) (by decide +kernel)
    exact ⟨jumping cTable, I, o, by decide, h, by simpa using k⟩
  · let I := who (jumping cTable) cTable (.jtb (jmp 2))
    obtain ⟨o, h, k⟩ := is_ok (x := (jumping cTable).reach ((jumping cTable).strandWho I.core I.c.pslot I.c 0) I.core false true (0x3000 + 1 * 8) 8)
      (fun o => BitVec.ofNat 64 (leNat ((jumping cTable).routeRead o.route)) == loadPc) (by decide +kernel)
    obtain ⟨x, hx⟩ := is_some (x := ((jumping cTable).checkTarget I.core I.w true loadPc).1.icFind I.core I.w.ctx (pcLine loadPc)) (by decide +kernel)
    exact ⟨jumping cTable, I, o, x, h, by simpa using k, by decide +kernel, hx⟩

end Sys2Proof.Tests
end

