-- ==== Sys2Proof/Tests/Memory.lean ====
section
/-! SUPPORT. For each statement about memory, tiles and copies, a machine and operands that meet its hypotheses. -/
set_option maxRecDepth 20000
set_option Elab.async false
namespace Sys2Proof.Tests
open Sys2Proof.Machine Sys2Proof.Safety

/-- What each of some strands' access finds, if none stops. -/
def allGood {ε α : Type} (f : Nat → Except ε α) (p : α → Bool) (l : List Nat) : Bool := l.all (fun i => match f i with | .ok r => p r | .error _ => false)

def got {ε α : Type} (a : α) (f : Nat → Except ε α) (i : Nat) : α := match f i with | .ok r => r | .error _ => a

theorem got_ok {ε α : Type} (a : α) {f : Nat → Except ε α} {p : α → Bool} {l : List Nat} (h : allGood f p l = true) :
    ∀ i ∈ l, f i = .ok (got a f i) ∧ p (got a f i) = true := by
  intro i hi
  have := List.all_eq_true.1 h i hi
  unfold got
  cases e : f i with
  | error _ => rw [e] at this; cases this
  | ok r => rw [e] at this; exact ⟨rfl, this⟩

theorem all_ok {ε α : Type} (a : α) {f : Nat → Except ε α} {p : α → Bool} {l : List Nat} (h : allGood f p l = true) :
    ∃ o : Nat → α, ∀ i ∈ l, f i = .ok (o i) ∧ p (o i) = true := ⟨_, got_ok a h⟩

/-- A descriptor of a tile of 2 rows of 8 INT32 elements, PITCH 32, with its home at h × 64 KiB. -/
def tile (k : Nat) (h : Byte) (res logOff logcap : Byte) : Memory :=
  let a := 0x8000 + 64 * k
  [(a + 0x02, h), (a + 0x10, 2), (a + 0x14, 8), (a + 0x18, 0x20), (a + 0x1E, 0x09), (a + 0x20, res), (a + 0x2D, logOff), (a + 0x30, logcap)].filter
    (fun x => x.2 != 0)

/-- Tile 0 is at home, tile 1 resident and writable in the scratchpad of core 0, tile 2 has a log of 16 entries; t0, t1 and t2 name them. -/
def tiling (c : Course) : State :=
  let h (i : Nat) : Handle := { tile := BitVec.ofNat 10 i, tag := 0x09, bound := true, pending := false }
  { machine c with
    mem := { Memories.start with hbm := [(0x3000, 0x2A), (0x3007, 0x80)] ++ tile 0 1 0 0 0 ++ tile 1 2 5 0 0 ++ tile 2 3 0 1 16 ++ tables }
    panels := [(0, { panel with handles := (Vector.replicate 16 Handle.unbound).set 0 (h 0) |>.set 1 (h 1) |>.set 2 (h 2) })]
    async := { (machine c).async with dir := [{ launch := 0, skein := some 0, tile := 1, home := [(0, ⟨.hbm, 0x20000⟩, 64)], evicting := false, base := 0, inAt := 0, inDur := 0 }] } }

/-- w1 = 0x3000, w2 = 8, w3 = 3; the vector registers are indices of 64 bits, 8 apart. -/
def cMem : Course := course { bits := 0x00000000000000080000000000000000, tag := 0x0C, exps := 0 } [(1, 0x3000), (2, 8), (3, 3), (4, 0x3001), (5, 0x50000000)]

theorem issues_tiling {c : Course} {i : Instr} {rmw : Bool} {req : List Reg} (h : issues (tiling c) c i rmw req = true) :
    Issues (tiling c) i rmw req (who (tiling c) c i rmw) := issues_sound rfl rfl h

def mem (m : Byte) (d a : Reg) (x : Bool := false) (disp : BitVec 48 := 0) (b : Reg := .w 0) (c : Reg := .w 0) : Mem :=
  ⟨⟨⟨false, 0⟩, m, d, a, b, c, false⟩, 0, x, disp⟩

def op0 : Opnd := { a := 0, route := .split [], home := [], bit := 0 }
def vop0 : VOpnd := { o := op0, pairs := none }

/-- No log takes part in a route. -/
def nolog (r : Route) : Bool := match r with | .plain _ _ => true | .split ds => ds.all (fun d => match d with | .mem _ => true | .log _ _ _ => false)
theorem nolog_sound {r : Route} (h : nolog r = true) : logless r := by
  rintro ds rfl d hd
  have := List.all_eq_true.1 h d hd
  cases d with
  | mem l => exact ⟨l, rfl⟩
  | log _ _ _ => cases this

/-! ## Plain memory -/

/-- Aligned, misaligned, untranslated, plain; an absent line in each of its three ways, and a latent error. -/
theorem witness_Accesses :
    (∃ (a : Word) (n : Nat), 2 ≤ n ∧ a.toNat % n ≠ 0) ∧
    (∃ (s : State) (w : Who) (a : Word) (e : XFail), a.toNat % 8 = 0 ∧ s.home w .load a = .error e) ∧
    (∃ (s : State) (w : Who) (a : Word) (l : Loc), a.toNat % 8 = 0 ∧ s.home w .load a = .ok l ∧ (s.async.dir = [] ∨ s.dirMeets l 8 = false)) ∧
    (∃ (s : State) (root va : Nat) (l l' : Loc), walk s root va .store false = .ok (.home l) ∧ va / 2 ^ 16 = (va + 5) / 2 ^ 16 ∧
      walk s root (va + 5) .store false = .ok (.home l')) ∧
    (∃ (s : State) (root va : Nat) (l : Loc), walk s root va .exec false = .ok (.home l)) ∧
    (∃ s : State, memoryKept s ∧ s.mem.hbm ≠ []) := by
  refine ⟨⟨0x3001, 2, by decide, by decide⟩, ?_, ?_, ?_, ?_, ⟨tiling cMem, ?_, by decide⟩⟩
  · obtain ⟨e, h⟩ := is_error (x := (tiling cMem).home ((tiling cMem).courseWho 0 cMem) .load 0x50000000) (by decide +kernel)
    exact ⟨_, _, _, e, by decide, h⟩
  · obtain ⟨l, h, k⟩ := is_ok (x := (tiling cMem).home ((tiling cMem).courseWho 0 cMem) .load 0x3000) (fun l => !(tiling cMem).dirMeets l 8) (by decide +kernel)
    exact ⟨_, _, _, l, by decide, h, .inr (by simpa using k)⟩
  · exact ⟨tiling cMem, 0x100000, 0x3000, ⟨.hbm, 0x3000⟩, ⟨.hbm, 0x3005⟩, by rfl, by decide, by rfl⟩
  · exact ⟨tiling cMem, 0x100000, 0x3000, ⟨.hbm, 0x3000⟩, by rfl⟩
  · unfold memoryKept; decide

/-- A plain and a tile operand of LD, a line of LDV and one of a resident tile, a gather; the data on their way. -/
theorem witness_LoadsArrive :
    (∀ f ∈ [mem 0x13 (.w 6) (.w 1), mem 0x08 (.w 6) (.w 4), mem 0x03 (.w 6) (.t 1) true 3 (.w 2), mem 0x03 (.w 6) (.t 2) true 7 (.w 2)],
      Reg.shared f.dst = false ∧ ∃ s I, ∃ o : Nat → Opnd, Issues s (.ld f) false [] I ∧ Unwatched s ∧
        ∀ lane ∈ I.runs, (passed s I).scalarOpnd I f lane (sizeBits f.mod) false true = .ok (o lane)) ∧
    (∃ f s I, ∃ o : Nat → VOpnd, Issues s (.ldv f) false [] I ∧ Unwatched s ∧ ∀ lane ∈ I.runs, (passed s I).vecOpnd I f lane false = .ok (o lane)) ∧
    (∃ f s I, ∃ o : Nat → List (Nat × Opnd), Issues s (.gath f) false [] I ∧ Unwatched s ∧
      ∀ lane ∈ I.runs, (passed s I).gathOpnds I f lane false = .ok (o lane)) ∧
    (∃ (s : State) (d : Datum) (c : Course), kget s.async.data 5 = some d ∧ s.course? d.core d.slot = some c ∧ d.lane < 16) := by
  refine ⟨?_, ?_, ?_, ⟨{ machine c32 with async := { (machine c32).async with data := [(5, { core := 0, slot := 0, lane := 1, reg := .pos 6, value := VReg.zero })] } },
    _, c32, rfl, rfl, by decide⟩⟩
  · intro f hf
    have h : issues (tiling cMem) cMem (.ld f) false [] = true ∧ Reg.shared f.dst = false ∧
        allGood (fun lane => (passed (tiling cMem) (who (tiling cMem) cMem (.ld f))).scalarOpnd
          (who (tiling cMem) cMem (.ld f)) f lane (sizeBits f.mod) false true) (fun _ => true) (who (tiling cMem) cMem (.ld f)).runs = true := by
      revert f; decide +kernel
    obtain ⟨o, ho⟩ := all_ok op0 h.2.2
    exact ⟨h.2.1, _, _, o, issues_tiling h.1, by unfold Unwatched; decide, fun lane hl => (ho lane hl).1⟩
  · let f := mem 0x0A (.v 1) (.w 1)
    obtain ⟨o, ho⟩ := all_ok vop0 (f := fun lane => (passed (tiling cMem) (who (tiling cMem) cMem (.ldv f))).vecOpnd (who (tiling cMem) cMem (.ldv f)) f lane false)
      (p := fun _ => true) (l := (who (tiling cMem) cMem (.ldv f)).runs) (by decide +kernel)
    exact ⟨f, _, _, o, issues_tiling (by decide), by unfold Unwatched; decide, fun lane hl => (ho lane hl).1⟩
  · let f := mem 0x04 (.v 1) (.w 1) true 0 (.v 2)
    obtain ⟨o, ho⟩ := all_ok [] (f := fun lane => (passed (tiling cMem) (who (tiling cMem) cMem (.gath f))).gathOpnds (who (tiling cMem) cMem (.gath f)) f lane false)
      (p := fun _ => true) (l := (who (tiling cMem) cMem (.gath f)).runs) (by decide +kernel)
    exact ⟨f, _, _, o, issues_tiling (by decide), by unfold Unwatched; decide, fun lane hl => (ho lane hl).1⟩

/-- A nibble and a word at a plain address, an element of a resident tile, and one of a tile at home with a log; lines; a scatter. -/
theorem witness_StoresLand :
    (∀ f ∈ [mem 0x08 (.w 6) (.w 4), mem 0x04 (.w 6) (.w 1), mem 0x03 (.w 6) (.t 1) true 3 (.w 2)],
      ∃ s I, ∃ o : Nat → Opnd, Issues s (.st f) false [] I ∧ Unwatched s ∧
        (∀ lane ∈ I.runs, (passed s I).scalarOpnd I f lane (sizeBits f.mod) true false = .ok (o lane)) ∧ ∀ lane ∈ I.runs, logless (o lane).route) ∧
    (∃ f s I s2, ∃ o : Nat → Opnd, Issues s (.st f) false [] I ∧ Unwatched s ∧
      (∀ lane ∈ I.runs, (passed s I).scalarOpnd I f lane (sizeBits f.mod) true false = .ok (o lane)) ∧ (o 0).logged = true ∧
      I.performs (passed s I) (fun s1 i (o : Opnd) =>
        if sizeBits f.mod == 4 then s1.routeNibble ((passed s I).workEv I.c 0) (o.bit == 4) (I.c.read i f.dst).toNat o.route
        else s1.routeWrite ((passed s I).workEv I.c 0) (leBytes (sizeBits f.mod / 8) (I.c.read i f.dst).toNat) o.route)
        (I.runs.map (fun lane => (lane, o lane))) = .ok s2) ∧
    (∃ f s I, ∃ o : Nat → VOpnd, Issues s (.stv f) false [] I ∧ Unwatched s ∧ (vecTag f.mod = 0 ∨ tagged I f.dst (vecTag f.mod)) ∧
      (∀ lane ∈ I.runs, (passed s I).vecOpnd I f lane true = .ok (o lane)) ∧
      ∀ lane ∈ I.runs, logless (o lane).o.route ∧ ∀ p ∈ (o lane).pairs, logless p.route) ∧
    (∃ f s I, ∃ o : Nat → List (Nat × Opnd), Issues s (.scat f) false [] I ∧ Unwatched s ∧
      (if gathTag f.mod = 0 then ∀ lane ∈ I.runs, ((I.c.rd lane).vec f.dst).tag ≠ 0 else tagged I f.dst (gathTag f.mod)) ∧
      (∀ lane ∈ I.runs, (passed s I).gathOpnds I f lane true = .ok (o lane)) ∧ ∀ lane ∈ I.runs, ∀ x ∈ o lane, logless x.2.route) := by
  refine ⟨?_, ?_, ?_, ?_⟩
  · intro f hf
    have h : issues (tiling cMem) cMem (.st f) false [] = true ∧
        allGood (fun lane => (passed (tiling cMem) (who (tiling cMem) cMem (.st f))).scalarOpnd
          (who (tiling cMem) cMem (.st f)) f lane (sizeBits f.mod) true false) (fun o => nolog o.route) (who (tiling cMem) cMem (.st f)).runs = true := by
      revert f; decide +kernel
    obtain ⟨o, ho⟩ := all_ok op0 h.2
    exact ⟨_, _, o, issues_tiling h.1, by unfold Unwatched; decide, fun lane hl => (ho lane hl).1, fun lane hl => nolog_sound (ho lane hl).2⟩
  · let f := mem 0x03 (.w 1) (.t 2) true 7 (.w 2)
    let I := who (tiling cMem) cMem (.st f)
    have h : allGood (fun lane => (passed (tiling cMem) I).scalarOpnd I f lane (sizeBits f.mod) true false) (fun _ => true) I.runs = true := by
      decide +kernel
    obtain ⟨s2, h2, _⟩ := is_ok (x := I.performs (passed (tiling cMem) I) (fun s1 i (o : Opnd) =>
        if sizeBits f.mod == 4 then s1.routeNibble ((passed (tiling cMem) I).workEv I.c 0) (o.bit == 4) (I.c.read i f.dst).toNat o.route
        else s1.routeWrite ((passed (tiling cMem) I).workEv I.c 0) (leBytes (sizeBits f.mod / 8) (I.c.read i f.dst).toNat) o.route)
        (I.runs.map (fun lane => (lane, got op0 (fun lane => (passed (tiling cMem) I).scalarOpnd I f lane (sizeBits f.mod) true false) lane))))
      (fun _ => true) (by decide +kernel)
    exact ⟨f, _, I, s2, _, issues_tiling (by decide), by unfold Unwatched; decide, fun lane hl => (got_ok op0 h lane hl).1, by decide +kernel, h2⟩
  · let f := mem 0x62 (.v 1) (.w 1)
    obtain ⟨o, ho⟩ := all_ok vop0 (f := fun lane => (passed (tiling cMem) (who (tiling cMem) cMem (.stv f))).vecOpnd (who (tiling cMem) cMem (.stv f)) f lane true)
      (p := fun o => nolog o.o.route && o.pairs.all (fun p => nolog p.route)) (l := (who (tiling cMem) cMem (.stv f)).runs) (by decide +kernel)
    exact ⟨f, _, _, o, issues_tiling (by decide), by unfold Unwatched; decide, .inr (by unfold tagged; decide), fun lane hl => (ho lane hl).1,
      fun lane hl => have k := Bool.and_eq_true_iff.1 (ho lane hl).2
        ⟨nolog_sound k.1, fun p hp => nolog_sound (Option.all_eq_true _ _ |>.1 k.2 p hp)⟩⟩
  · let f := mem 0x14 (.v 1) (.w 1) true 0 (.v 2)
    obtain ⟨o, ho⟩ := all_ok [] (f := fun lane => (passed (tiling cMem) (who (tiling cMem) cMem (.scat f))).gathOpnds (who (tiling cMem) cMem (.scat f)) f lane true)
      (p := fun o => o.all (fun x => nolog x.2.route)) (l := (who (tiling cMem) cMem (.scat f)).runs) (by decide +kernel)
    exact ⟨f, _, _, o, issues_tiling (by decide), by unfold Unwatched; decide, by unfold tagged; decide, fun lane hl => (ho lane hl).1,
      fun lane hl x hx => nolog_sound (List.all_eq_true.1 (ho lane hl).2 x hx)⟩

/-- Atomics at a plain address; both strands act on one word. -/
theorem witness_Atomics :
    (∀ x ∈ [(.aadd (mem 0x03 (.w 6) (.w 1) false 0 (.w 0) (.w 3)), false), (.acas (mem 0x04 (.w 6) (.w 1) false 0 (.w 0) (.w 3)), true),
        (.afad (mem 0x03 (.w 6) (.w 1) false 4 (.w 0) (.w 3)), false)],
      ∃ f op s I, ∃ o : Nat → Opnd, atomic x.1 = some (f, x.2, op) ∧ (sizeBits f.mod = 32 ∨ sizeBits f.mod = 64) ∧ Issues s x.1 x.2 [] I ∧ Unwatched s ∧
        (∀ lane ∈ I.runs, (passed s I).reach ((passed s I).strandWho I.core I.c.pslot I.c lane) I.core true true
          (I.c.read lane f.sa + (if f.x then I.c.read lane f.sb <<< f.scale.toNat else 0) + f.disp.signExtend 64) (sizeBits f.mod / 8) = .ok (o lane)) ∧
        ∀ lane ∈ I.runs, logless (o lane).route) := by
  intro x hx
  let I := who (tiling cMem) cMem x.1 x.2
  have h : ∃ f op, atomic x.1 = some (f, x.2, op) ∧ (sizeBits f.mod = 32 ∨ sizeBits f.mod = 64) ∧ issues (tiling cMem) cMem x.1 x.2 [] = true ∧
      allGood (fun lane => (passed (tiling cMem) I).reach ((passed (tiling cMem) I).strandWho I.core I.c.pslot I.c lane) I.core true true
        (I.c.read lane f.sa + (if f.x then I.c.read lane f.sb <<< f.scale.toNat else 0) + f.disp.signExtend 64) (sizeBits f.mod / 8))
        (fun o => nolog o.route) I.runs = true := by
    simp only [List.mem_cons, List.not_mem_nil, or_false] at hx
    rcases hx with rfl | rfl | rfl <;> exact ⟨_, _, rfl, by decide, by decide, by decide +kernel⟩
  obtain ⟨f, op, ha, hw, hi, hg⟩ := h
  obtain ⟨o, ho⟩ := all_ok op0 hg
  exact ⟨f, op, _, _, o, ha, hw, issues_tiling hi, by unfold Unwatched; decide, fun lane hl => (ho lane hl).1, fun lane hl => nolog_sound (ho lane hl).2⟩

end Sys2Proof.Tests
end

