-- ==== Sys2Proof/Tests/Tiles.lean ====
section
/-! SUPPORT. For each statement about tiles and copies, a machine and operands that meet its hypotheses. -/
set_option maxRecDepth 20000
set_option Elab.async false
namespace Sys2Proof.Tests
open Sys2Proof.Machine Sys2Proof.Safety

/-- A form that signals no counter. -/
theorem cnum_none {s : State} {I : Iss} {imm : BitVec 48} (h : imm.getLsbD 16 = false) : s.cnumOf I imm = .ok none := by
  unfold State.cnumOf
  rw [h]
  rfl

/-- w1, w2 and w3 hold values. -/
def cW (a b c : Word) : Course := course VReg.zero [(1, a), (2, b), (3, c)]

def tdsc (field : BitVec 48) : Gen := gen 0 (.w 0) (.w 1) (.w 2) field

/-- The last tile and the first beyond it; a TENSOR of 17 bits; an FMT that is reserved; PITCH of a resident tile, its POLICY, and PITCH of a tile at home. -/
theorem witness_TileDescriptors :
    ((tiling cMem).launchId cMem = some 0 ∧ (tiling cMem).launch? 0 = some launch ∧ launch.hdr.ttcount = 8) ∧
    (∃ s I, Issues s (.tdsc (tdsc 4)) false [.w 1, .w 2] I ∧ s.launchId I.c = some 0 ∧ s.launch? 0 = some launch ∧ 8 ≤ (I.c.read I.leader (.w 1)).toNat) ∧
    (∃ s I, Issues s (.tdsc (tdsc 5)) false [.w 1, .w 2] I ∧ s.launchId I.c = some 0 ∧ s.launch? 0 = some launch ∧
      256 ^ (tdscField 5).2 ≤ (I.c.read I.leader (.w 2)).toNat) ∧
    (∀ x ∈ [(0, 0x109, 6, true), (1, 0x40, 4, false), (1, 2, 9, false), (0, 0x40, 4, false)], ∃ s I b, Issues s (.tdsc (tdsc x.2.2.1)) false [.w 1, .w 2] I ∧
      s.launchId I.c = some 0 ∧ s.launch? 0 = some launch ∧ (passed s I).readRange (launchWho 0 launch) (0x8000 + 64 * x.1) 64 = .ok b ∧
      I.c.read I.leader (.w 1) = x.1 ∧ I.c.read I.leader (.w 2) = x.2.1 ∧
      (tileFields 0 x.1.toNat (0x8000 + 64 * x.1) 4 (b.take (tdscField (bitsOf x.2.2.1.toNat 3 0)).1 ++
        leBytes (tdscField (bitsOf x.2.2.1.toNat 3 0)).2 x.2.1.toNat ++
        b.drop ((tdscField (bitsOf x.2.2.1.toNat 3 0)).1 + (tdscField (bitsOf x.2.2.1.toNat 3 0)).2))).isNone = x.2.2.2) ∧
    ((tiling cMem).dirOf 0 0 = none ∧ (tiling cMem).dirOf 0 1 ≠ none) := by
  refine ⟨⟨by rfl, rfl, rfl⟩, ⟨_, _, issues_tiling (c := cW 8 0 0) (by decide), by rfl, rfl, by decide⟩,
    ⟨_, _, issues_tiling (c := cW 7 65536 0) (by decide), by rfl, rfl, by decide⟩, ?_, by rfl, by decide⟩
  intro x hx
  simp only [List.mem_cons, List.not_mem_nil, or_false] at hx
  have h : ∃ b, (passed (tiling (cW x.1 x.2.1 0)) (who (tiling (cW x.1 x.2.1 0)) (cW x.1 x.2.1 0) (.tdsc (tdsc x.2.2.1)))).readRange (launchWho 0 launch) (0x8000 + 64 * x.1) 64 = .ok b ∧
      ((tileFields 0 x.1.toNat (0x8000 + 64 * x.1) 4 (b.take (tdscField (bitsOf x.2.2.1.toNat 3 0)).1 ++
        leBytes (tdscField (bitsOf x.2.2.1.toNat 3 0)).2 x.2.1.toNat ++
        b.drop ((tdscField (bitsOf x.2.2.1.toNat 3 0)).1 + (tdscField (bitsOf x.2.2.1.toNat 3 0)).2))).isNone == x.2.2.2) = true := by
    apply is_ok
    rcases hx with rfl | rfl | rfl | rfl <;> decide +kernel
  obtain ⟨b, hb, hk⟩ := h
  have k : issues (tiling (cW x.1 x.2.1 0)) (cW x.1 x.2.1 0) (.tdsc (tdsc x.2.2.1)) false [.w 1, .w 2] = true ∧
      (tiling (cW x.1 x.2.1 0)).launchId (cW x.1 x.2.1 0) = some 0 ∧
      (cW x.1 x.2.1 0).read 0 (.w 1) = x.1 ∧ (cW x.1 x.2.1 0).read 0 (.w 2) = x.2.1 := by
    clear hb hk; rcases hx with rfl | rfl | rfl | rfl <;> decide +kernel
  have l : (who (tiling (cW x.1 x.2.1 0)) (cW x.1 x.2.1 0) (.tdsc (tdsc x.2.2.1))).leader = 0 := by clear hb hk k; rcases hx with rfl | rfl | rfl | rfl <;> decide +kernel
  exact ⟨_, _, b, issues_tiling k.1, k.2.1, rfl, hb, by rw [l]; exact k.2.2.1, by rw [l]; exact k.2.2.2, by simpa using hk⟩

def tfch (m : Byte) : Gen := gen m (.t 3) (.w 1) (.w 2)

/-- A bind of a tile at home and of a resident one, a fetch of tile 0 to offset 128 of the scratchpad; TEVC of each kind. -/
theorem witness_TileResidence :
    (∃ s I t sig, Issues s (.tfch (tfch 0)) false [.w 1, .w 2] I ∧ s.launchId I.c = some 0 ∧ (passed s I).readTile 0 (I.c.read I.leader (.w 1)).toNat = .ok t ∧
      (passed s I).cnumOf I 0 = .ok sig) ∧
    (∃ s I t sig, Issues s (.tfch (tfch 5)) false [.w 1, .w 2] I ∧ s.launchId I.c = some 0 ∧ (passed s I).readTile 0 (I.c.read I.leader (.w 1)).toNat = .ok t ∧
      (passed s I).cnumOf I 0 = .ok sig ∧ tileFree (passed s I) 0 (I.c.read I.leader (.w 1)).toNat ∧ t.resident = true ∧ t.writable = true) ∧
    (∃ s I t sig, ∃ die, Issues s (.tfch (tfch 5)) false [.w 1, .w 2] I ∧ s.launchId I.c = some 0 ∧
      (passed s I).readTile 0 (I.c.read I.leader (.w 1)).toNat = .ok t ∧ (passed s I).cnumOf I 0 = .ok sig ∧
      tileFree (passed s I) 0 (I.c.read I.leader (.w 1)).toNat ∧ t.resident = false ∧
      (passed s I).checkRange I 1 (I.c.read I.leader (.w 2)).toNat t.imageSize = .ok die ∧ (I.c.read I.leader (.w 2)).toNat % 128 = 0 ∧
      s.async.dir.length < dirLimit ∧ 2 ≤ (s.freeLockNums I.core).length) ∧
    (∀ i : Fin 2, ∃ s I t sig, Issues s (.tevc (gen 1 (.w 0) (.t (i.castLE (by decide))) (.w 0))) false [] I ∧
      (passed s I).boundTile I (.t (i.castLE (by decide))) = .ok t ∧ (passed s I).cnumOf I 0 = .ok sig ∧
      ((passed s I).dirOf t.launch t.idx).elim false (·.evicting) = false ∧ t.resident = decide (i = 1) ∧ 2 ≤ (s.freeLockNums I.core).length) := by
  refine ⟨?_, ?_, ?_, ?_⟩
  · let c := cW 0 0 0
    let I := who (tiling c) c (.tfch (tfch 0))
    obtain ⟨t, ht, _⟩ := is_ok (x := (passed (tiling c) I).readTile 0 (I.c.read I.leader (.w 1)).toNat) (fun _ => true) (by decide +kernel)
    exact ⟨_, I, t, none, issues_tiling (by decide), by decide, ht, rfl⟩
  · let c := cW 1 0 0
    let I := who (tiling c) c (.tfch (tfch 5))
    obtain ⟨t, ht, hk⟩ := is_ok (x := (passed (tiling c) I).readTile 0 (I.c.read I.leader (.w 1)).toNat) (fun t => t.resident && t.writable) (by decide +kernel)
    simp only [Bool.and_eq_true] at hk
    exact ⟨_, I, t, none, issues_tiling (by decide), by decide, ht, rfl, by unfold tileFree; decide +kernel, hk⟩
  · let c := cW 0 128 0
    let I := who (tiling c) c (.tfch (tfch 5))
    obtain ⟨t, ht, hk⟩ := is_ok (x := (passed (tiling c) I).readTile 0 (I.c.read I.leader (.w 1)).toNat) (fun t => !t.resident &&
      good (fun _ => true) ((passed (tiling c) I).checkRange I 1 (I.c.read I.leader (.w 2)).toNat t.imageSize)) (by decide +kernel)
    simp only [Bool.and_eq_true, Bool.not_eq_true'] at hk
    obtain ⟨die, hd, _⟩ := is_ok (fun _ => true) hk.2
    exact ⟨_, I, t, none, die, issues_tiling (by decide), by decide, ht, rfl, by unfold tileFree; decide +kernel, hk.1, hd, by decide, by decide, by decide⟩
  · intro i
    let I := who (tiling cMem) cMem (.tevc (gen 1 (.w 0) (.t (i.castLE (by decide))) (.w 0)))
    have h : good (fun t => ((passed (tiling cMem) I).dirOf t.launch t.idx).elim false (·.evicting) == false && t.resident == decide (i = 1))
      ((passed (tiling cMem) I).boundTile I (.t (i.castLE (by decide)))) = true := by revert i; decide +kernel
    obtain ⟨t, ht, hk⟩ := is_ok _ h
    simp only [Bool.and_eq_true, beq_iff_eq] at hk
    exact ⟨_, I, t, none, issues_tiling (by clear h ht hk; revert i; decide), ht, rfl, hk.1, hk.2, by clear h ht hk; revert i; decide⟩

/-- TMOV without a turn: the shapes are alike, the tags are, and the destination is resident and writable. -/
def unmoved (d a : Tile) : Bool :=
  d.rows == a.rows && d.cols == a.cols && d.layout != 2 && movPairing a.tag d.tag == some false && d.resident && d.writable && a.tag != 0

def query : Instr := .tlogQuery (gen 3 (.w 2) (.t 2) (.w 0))
def rlq (n : Byte) : Instr := .rlq (gen n (.w 2) (.w 1) (.w 0))

theorem witness_Copies :
    (∃ f s I d a, Issues s (.tmov f) false [] I ∧ f.mod = 0 ∧ (passed s I).boundTile I f.dst = .ok d ∧ (passed s I).boundTile I f.sa = .ok a ∧
      (passed s I).cnumOf I f.imm = .ok none ∧ unmoved d a = true ∧ (passed s I).imagesMeet d a = false ∧ ((passed s I).dirOf d.launch d.idx).elim false (·.evicting) = false ∧
      ((passed s I).dirOf a.launch a.idx).elim false (·.evicting) = false ∧ (passed s I).logBusy a.launch a.idx = false ∧
      2 ≤ (s.freeLockNums I.core).length) ∧
    (∀ i ∈ [.tlogCompact (gen 0 (.w 0) (.t 2) (.w 0)), .tlogApply (gen 0 (.w 0) (.t 2) (.w 0)), .tlogDiscard (gen 0 (.w 0) (.t 2) (.w 0)), query],
      ∃ s I t, Issues s i false [] I ∧ (passed s I).boundTile I (.t 2) = .ok t ∧ (passed s I).cnumOf I 0 = .ok none ∧
      ((passed s I).dirOf t.launch t.idx).elim false (·.evicting) = false ∧ 1 ≤ (s.freeLockNums I.core).length) ∧
    (∃ f s I, Issues s (.cpy f) false [f.sa, f.sb, f.sc] I ∧ f.imm = 0 ∧ I.c.read I.leader f.sa = 0x3100 ∧ I.c.read I.leader f.sb = 0x30E0 ∧
      I.c.read I.leader f.sc = 32 ∧ (passed s I).cnumOf I f.imm = .ok none ∧ (passed s I).rangeMeets I.w 0x3100 32 = false ∧
      2 ≤ (s.freeLockNums I.core).length) ∧
    (∃ f s I t, Issues s (.cpySnap f) false [f.sa] I ∧ (passed s I).boundTile I f.sb = .ok t ∧ (passed s I).cnumOf I f.imm = .ok none ∧ t.resident = false ∧
      t.logcap ≠ 0 ∧ (I.c.read I.leader f.sa).toNat % 32 = 0 ∧ 2 ≤ (s.freeLockNums I.core).length) ∧
    (∀ n ∈ [4, 3], ∃ s I, Issues s (.cwt (gen 0 (.w 0) (.w 0) (.w 0) n)) false [] I ∧ (I.c.asyncOut ≤ bitsOf n.toNat 7 0 ↔ n = 4)) ∧
    (∀ n ∈ [0, 1, 2], Instr.wellFormed false (rlq n) = true ∧ ∃ s I, Issues s (rlq n) false [.w 1] I) ∧ Instr.wellFormed false query = true := by
  refine ⟨?_, ?_, ?_, ?_, ?_, fun n hn => ⟨by revert n; decide, _, _, issues_tiling (c := cMem) (by revert n; decide)⟩, by decide⟩
  · let f := gen 0 (.t 1) (.t 0) (.w 0)
    let I := who (tiling cMem) cMem (.tmov f)
    obtain ⟨d, hd, hk⟩ := is_ok (x := (passed (tiling cMem) I).boundTile I f.dst) (fun d => good (fun a => unmoved d a && !(passed (tiling cMem) I).imagesMeet d a &&
      !((passed (tiling cMem) I).dirOf d.launch d.idx).elim false (·.evicting) && !((passed (tiling cMem) I).dirOf a.launch a.idx).elim false (·.evicting) &&
      !(passed (tiling cMem) I).logBusy a.launch a.idx) ((passed (tiling cMem) I).boundTile I f.sa)) (by decide +kernel)
    obtain ⟨a, ha, hq⟩ := is_ok _ hk
    simp only [Bool.and_eq_true, Bool.not_eq_true'] at hq
    exact ⟨f, _, I, d, a, issues_tiling (by decide), rfl, hd, ha, cnum_none (by decide), hq.1.1.1.1, hq.1.1.1.2, hq.1.1.2, hq.1.2, hq.2, by decide⟩
  · intro i hi
    have h : issues (tiling cMem) cMem i false [] = true ∧ good (fun t => !((passed (tiling cMem) (who (tiling cMem) cMem i)).dirOf t.launch t.idx).elim
        false (·.evicting)) ((passed (tiling cMem) (who (tiling cMem) cMem i)).boundTile (who (tiling cMem) cMem i) (.t 2)) = true ∧
        1 ≤ ((tiling cMem).freeLockNums (who (tiling cMem) cMem i).core).length := by
      revert i; decide +kernel
    obtain ⟨t, ht, hk⟩ := is_ok _ h.2.1
    exact ⟨_, _, t, issues_tiling h.1, ht, rfl, by simpa using hk, h.2.2⟩
  · let c := cW 0x3100 0x30E0 32
    let f := gen 0 (.w 0) (.w 1) (.w 2) 0 0 (.w 3)
    exact ⟨f, _, who (tiling c) c (.cpy f), issues_tiling (by decide), rfl, by decide, by decide, by decide, cnum_none (by decide), by decide +kernel, by decide⟩
  · let c := cW 0x30040 0 0
    let f := gen 0 (.w 0) (.w 1) (.t 2)
    let I := who (tiling c) c (.cpySnap f)
    obtain ⟨t, ht, hk⟩ := is_ok (x := (passed (tiling c) I).boundTile I f.sb) (fun t => !t.resident && t.logcap != 0) (by decide +kernel)
    simp only [Bool.and_eq_true, Bool.not_eq_true', bne_iff_ne] at hk
    exact ⟨f, _, I, t, issues_tiling (by decide), ht, cnum_none (by decide), hk.1, hk.2, by decide, by decide⟩
  · intro n hn
    let c : Course := { cMem with asyncOut := 4 }
    have h : issues (tiling c) c (.cwt (gen 0 (.w 0) (.w 0) (.w 0) n)) false [] = true := by
      simp only [List.mem_cons, List.not_mem_nil, or_false] at hn
      rcases hn with rfl | rfl <;> decide +kernel
    have h2 : (4 ≤ bitsOf n.toNat 7 0 ↔ n = 4) := by
      simp only [List.mem_cons, List.not_mem_nil, or_false] at hn
      rcases hn with rfl | rfl <;> decide
    exact ⟨_, _, issues_tiling h, h2⟩

/-! ## Elements -/

def tile0 : Tile :=
  { launch := 0, idx := 0, at_ := 0, home := 0, side := 0, rows := 2, cols := 8, pitch := 32, tensor := 0, tag := 0x09, layout := 0, res := 0, base := 0, die := 0,
    logOff := 0, logcap := 0, logcnt := 0, policy := 0 }
def default0 : (Tile × Nat × Opnd) × Nat × FpNum := ((tile0, 0, op0), 0, .nan)

/-- An element of a resident tile and one of a tile at home with a log, for each form; and an append to that log. -/
theorem witness_TileElements :
    (∀ k ∈ [(1 : Fin 16), 2], ∃ s I, ∃ x : Nat → (Tile × Nat × Opnd) × Nat × FpNum, Issues s (.tget (mem 0 (.w 6) (.t k) true 7 (.w 2))) false [] I ∧
      Unwatched s ∧ ∀ lane ∈ I.runs, (passed s I).elemRead I (.t k) (tileIndex (mem 0 (.w 6) (.t k) true 7 (.w 2)) (I.c.rd lane)) = .ok (x lane)) ∧
    (∀ k ∈ [(1 : Fin 16), 2], ∃ s I, ∃ x : Nat → (Tile × Nat × Opnd) × Nat × FpNum, Issues s (.tcmp (gen 2 (.p 1) (.t k) (.w 2) 0 0 (.w 3))) false [] I ∧
      Unwatched s ∧ ∀ lane ∈ I.runs, (passed s I).elemRead I (.t k) (I.c.read lane (.w 2)).toNat = .ok (x lane)) ∧
    (∀ k ∈ [(1 : Fin 16), 2], let f := mem 0 (.w 1) (.t k) true 7 (.w 2)
      ∃ s I s2, ∃ x : Nat → Tile × Nat × Opnd, Issues s (.tset f) false [] I ∧ Unwatched s ∧
        (∀ lane ∈ I.runs, (passed s I).elemOpnd I f.sa false true false (tileIndex f (I.c.rd lane)) = .ok (x lane)) ∧
        I.performs (passed s I) (fun s1 i (x : Tile × Nat × Opnd) =>
          let n := valueNum x.1.tag (I.c.read i f.dst)
          let r := roundTo x.1.tag (bitsOf f.mod.toNat 1 0) n
          (s1.countStats (some x.1.launch) (cntKeys x.1.tensor (if n.isFin then r.cnt else .nonfin))).storeElem ((passed s I).workEv I.c 0)
            x.1 x.2.1 x.2.2 r.bits) (I.runs.map (fun lane => (lane, x lane))) = .ok s2) ∧
    (∀ k ∈ [(1 : Fin 16), 2], let f := gen 0 (.w 0) (.t k) (.w 2) 0 0 (.w 3)
      ∃ s I s2, ∃ x : Nat → Tile × Nat × Opnd, Issues s (.tacc f) false [] I ∧ Unwatched s ∧
        (∀ lane ∈ I.runs, (passed s I).elemOpnd I f.sa false true true (I.c.read lane f.sb).toNat = .ok (x lane) ∧
          ((x lane).2.2.logged = false ∨ (x lane).1.tag ≠ 0x16)) ∧
        I.performs (passed s I) (fun s1 i x => s1.accElem ((passed s I).workEv I.c 0) (2 + bitsOf f.mod.toNat 1 0) (I.c.read i f.sc) x)
          (I.runs.map (fun lane => (lane, x lane))) = .ok s2) := by
  refine ⟨?_, ?_, ?_, ?_⟩
  · intro k hk
    let i : Instr := .tget (mem 0 (.w 6) (.t k) true 7 (.w 2))
    have h : issues (tiling cMem) cMem i false [] = true ∧ allGood (fun lane => (passed (tiling cMem) (who (tiling cMem) cMem i)).elemRead
      (who (tiling cMem) cMem i) (.t k) (tileIndex (mem 0 (.w 6) (.t k) true 7 (.w 2)) ((who (tiling cMem) cMem i).c.rd lane))) (fun _ => true)
      (who (tiling cMem) cMem i).runs = true := by revert k; decide +kernel
    exact ⟨_, _, _, issues_tiling h.1, by unfold Unwatched; decide, fun lane hl => (got_ok (default0) h.2 lane hl).1⟩
  · intro k hk
    let i : Instr := .tcmp (gen 2 (.p 1) (.t k) (.w 2) 0 0 (.w 3))
    have h : issues (tiling cMem) cMem i false [] = true ∧ allGood (fun lane => (passed (tiling cMem) (who (tiling cMem) cMem i)).elemRead
      (who (tiling cMem) cMem i) (.t k) ((who (tiling cMem) cMem i).c.read lane (.w 2)).toNat) (fun _ => true)
      (who (tiling cMem) cMem i).runs = true := by revert k; decide +kernel
    exact ⟨_, _, _, issues_tiling h.1, by unfold Unwatched; decide, fun lane hl => (got_ok (default0) h.2 lane hl).1⟩
  · intro k hk f
    let I := who (tiling cMem) cMem (.tset f)
    let g (lane : Nat) := (passed (tiling cMem) I).elemOpnd I f.sa false true false (tileIndex f (I.c.rd lane))
    have h : issues (tiling cMem) cMem (.tset f) false [] = true ∧ allGood g (fun _ => true) I.runs = true ∧
      good (fun _ => true) (I.performs (passed (tiling cMem) I) (fun s1 i (x : Tile × Nat × Opnd) =>
          let n := valueNum x.1.tag (I.c.read i f.dst)
          let r := roundTo x.1.tag (bitsOf f.mod.toNat 1 0) n
          (s1.countStats (some x.1.launch) (cntKeys x.1.tensor (if n.isFin then r.cnt else .nonfin))).storeElem ((passed (tiling cMem) I).workEv I.c 0)
            x.1 x.2.1 x.2.2 r.bits) (I.runs.map (fun lane => (lane, got default0.1 g lane)))) = true := by
      simp only [List.mem_cons, List.not_mem_nil, or_false] at hk
      rcases hk with rfl | rfl <;> decide +kernel
    obtain ⟨s2, hs, _⟩ := is_ok _ h.2.2
    exact ⟨_, I, s2, got default0.1 g, issues_tiling h.1, by unfold Unwatched; decide, fun lane hl => (got_ok default0.1 h.2.1 lane hl).1, hs⟩
  · intro k hk f
    let I := who (tiling cMem) cMem (.tacc f)
    let g (lane : Nat) := (passed (tiling cMem) I).elemOpnd I f.sa false true true (I.c.read lane f.sb).toNat
    have h : issues (tiling cMem) cMem (.tacc f) false [] = true ∧ allGood g (fun x => x.1.tag != 0x16) I.runs = true ∧
      good (fun _ => true) (I.performs (passed (tiling cMem) I) (fun s1 i x => s1.accElem ((passed (tiling cMem) I).workEv I.c 0)
          (2 + bitsOf f.mod.toNat 1 0) (I.c.read i f.sc) x) (I.runs.map (fun lane => (lane, got default0.1 g lane)))) = true := by
      simp only [List.mem_cons, List.not_mem_nil, or_false] at hk
      rcases hk with rfl | rfl <;> decide +kernel
    obtain ⟨s2, hs, _⟩ := is_ok _ h.2.2
    exact ⟨_, I, s2, got default0.1 g, issues_tiling h.1, by unfold Unwatched; decide,
      fun lane hl => ⟨(got_ok default0.1 h.2.1 lane hl).1, .inr (by simpa using (got_ok default0.1 h.2.1 lane hl).2)⟩, hs⟩

/-- An element at its place, the last of a line; a log with room; a log of two entries that compaction joins. -/
theorem witness_TileElements_one :
    (∃ o : Opnd, logless o.route ∧ (cells o.route).length = tile0.eb ∧ o.bit + tile0.ew ≤ 8 * tile0.eb) ∧
    (∃ (s : State) (o : Opnd) (t t' : Tile), o.logged = true ∧ s.readTile t.launch t.idx = .ok t' ∧ (s.dirOf t'.launch t'.idx).isSome ∧
      s.logBusy t'.launch t'.idx = false ∧ t'.logcnt < t'.logcap ∧ t'.logcnt + 1 < t'.threshold) ∧
    (∃ (t : Tile) (log : List LogEntry), intTag t.tag = true ∧ (∀ y ∈ log, t.malformed y = false) ∧ 5 < 2 ^ t.ew ∧ (log.foldl t.compactOne []).length < log.length) := by
  refine ⟨⟨{ op0 with route := .plain ⟨.hbm, 0x20⟩ 4 }, nolog_sound rfl, by decide, by decide⟩, ?_, ?_⟩
  · let s : State := (tiling cMem).setDir [{ launch := 0, skein := none, tile := 2, home := [], evicting := false, base := 0, inAt := 0, inDur := 0 }]
    obtain ⟨t, ht, hk⟩ := is_ok (x := s.readTile 0 2) (fun t => (s.dirOf t.launch t.idx).isSome && !s.logBusy t.launch t.idx &&
      decide (t.logcnt < t.logcap) && decide (t.logcnt + 1 < t.threshold)) (by decide +kernel)
    simp only [Bool.and_eq_true, Bool.not_eq_true', decide_eq_true_eq] at hk
    exact ⟨s, { op0 with route := .split [.log 0 2 0] }, { tile0 with idx := 2 }, t, rfl, ht, hk.1.1.1, hk.1.1.2, hk.1.2, hk.2⟩
  · let y : LogEntry := { index := 15, op := 2, type := 9, mask := 15, value := 7, rsv := 0 }
    exact ⟨tile0, [y, y], by decide, by decide, by decide, by decide⟩

end Sys2Proof.Tests
end

