-- ==== Sys2Proof/Tests/Engine.lean ====
section
/-! SUPPORT. For each statement about the engine, a machine and operands that meet its hypotheses. -/
set_option maxRecDepth 20000
set_option Elab.async false
namespace Sys2Proof.Tests
open Sys2Proof.Machine Sys2Proof.Safety

/-- A card at 0x3000 (R322): one step of one row and one column of INT8 at the start of the scratchpad and at 0x1000 there, to 0x3800, all levels
inside the one output tile. -/
def cardCells : Memory :=
  [(0x3007, 0xE0), (0x3009, 0x10), (0x300F, 0xE0), (0x3019, 0x38), (0x3020, 5), (0x3021, 5), (0x3022, 5), (0x3029, 0x40), (0x3038, 1), (0x303A, 1),
   (0x303C, 1), (0x303E, 1), (0x3040, 1)]
def cardBits : Card := BitVec.ofNat 1024 (leNat ((List.range 128).map (fun i => Memory.read cardCells (0x3000 + i))))

/-- A machine whose sequencer issues, with an engine; m4 is the card's address. -/
def seqCard : Panel := { seq with m := Vector.replicate 16 0x3000 }
def engining (p : Panel) (e : Engine) : State :=
  { streaming p with
    mem := { Memories.start with hbm := cardCells ++ tables }
    cores := [(0, { Core.zero with engine := e, granules := [(0, .held 0), (1, .held 0)] })] }

theorem engines {p : Panel} {e : Engine} (h : p.swait = .none) : Streams (engining p e) 0 0 p := ⟨rfl, rfl, .inl h, by intro q hq; cases hq⟩

def job : Job :=
  { card := cardBits, addr := 0x3000, cause := 5, pslot := 0, sba := [], sbw := [], op := 7, tiles := 0, startGt := 0, tileStart := 0, waited := 0,
    waitFrom := none, stopReq := none, walked := false }
def owned : Engine := { Engine.zero with owner := some 0 }
def running : Engine := { owned with estat := 0x400, job := some job }
def stoppedAt (code : Word32) : Engine := { owned with estat := 0x400 + code, job := some job }

theorem witness_EngineForms :
    (∃ s p, Streams s 0 0 p ∧ (s.engine 0).owner ≠ some 0 ∧ (s.engine 0).owner = none ∧ (s.acquireEngine 0 0).jobWaits 0 = false ∧
      0 ∉ (s.engine 0).waiters ∧ (p.gates.filter (fun x => !x.sbw)).length < 4) ∧
    (∃ s p, Streams s 0 0 p ∧ (s.engine 0).owner = some 0 ∧ s.jobWaits 0 = false ∧ (s.engine 0).eaccV = false) ∧
    (∃ s p, Streams s 0 0 p ∧ (s.engine 0).owner = some 0 ∧ s.jobWaits 0 = false ∧ (s.engine 0).eaccV = true ∧ (s.engine 0).g = 0 ∧
      (s.engine 0).derived = true ∧ (s.engine 0).eaccExp = -1024) ∧
    (∃ s p, Streams s 0 0 p ∧ (s.engine 0).owner = some 1) ∧
    (∃ s p, Streams s 0 0 p ∧ (s.engine 0).owner = some 0 ∧ s.jobWaits 0 = true) ∧
    (∀ code ∈ [2, 3], ∃ s p, Streams s 0 0 p ∧ (s.engine 0).owner = some 0 ∧ s.jobWaits 0 = false ∧ (s.engine 0).stop = code) :=
  ⟨⟨_, _, engines (p := seqCard) (e := Engine.zero) rfl, by decide, rfl, by decide, by decide, by decide⟩,
   ⟨_, _, engines (p := seqCard) (e := owned) rfl, rfl, by decide, by decide⟩,
   ⟨_, _, engines (p := seqCard) (e := { owned with eacc := 0x8001FC00 }) rfl, rfl, by decide, by decide, by decide, by decide, by decide⟩,
   ⟨_, _, engines (p := seqCard) (e := { owned with owner := some 1 }) rfl, rfl⟩,
   ⟨_, _, engines (p := seqCard) (e := stoppedAt 4) rfl, rfl, by decide⟩,
   fun code h => ⟨_, _, engines (p := seqCard) (e := stoppedAt (BitVec.ofNat 32 code)) rfl, rfl, by revert code; decide, by revert code; decide⟩⟩

/-- The card passes its checks, with an idle engine and with a stopped one. -/
theorem witness_JobsBegin :
    (∃ s p c, Streams s 0 0 p ∧ (s.engine 0).owner = some 0 ∧ s.jobWaits 0 = false ∧ s.readCard 0 0 (p.rd.get (.w 4)) true = .ok c ∧
      (s.startJob 0 0 p (p.rd.get (.w 4)) c none false).isSome) ∧
    (∃ s p c, Streams s 0 0 p ∧ (s.engine 0).owner = some 0 ∧ (s.engine 0).job = some job ∧ (s.engine 0).live = true ∧ (s.engine 0).stop = 5 ∧
      (s.engine 0).extract = none ∧ s.readCard 0 0 (p.rd.get (.w 4)) true = .ok c ∧ c.mode = (s.engine 0).mode ∧ c.g = (s.engine 0).g ∧
      (s.startJob 0 0 p (p.rd.get (.w 4)) c (s.engine 0).job true).isSome) ∧
    (∃ s p c, Streams s 0 0 p ∧ (s.engine 0).owner = some 0 ∧ s.jobWaits 0 = false ∧ s.readCard 0 0 (p.rd.get (.w 4)) false = .ok c ∧
      ((s.newCause (coreTaker 0)).2.engineLocks 0 0 (s.newCause (coreTaker 0)).1 (c.dstRange false)).isSome) := by
  refine ⟨?_, ?_, ?_⟩
  · let s := engining seqCard owned
    obtain ⟨c, hc, hk⟩ := is_ok (x := s.readCard 0 0 0x3000 true) (fun c => (s.startJob 0 0 seqCard 0x3000 c none false).isSome) (by decide +kernel)
    exact ⟨s, seqCard, c, engines rfl, rfl, by decide, hc, hk⟩
  · let s := engining seqCard (stoppedAt 5)
    obtain ⟨c, hc, hk⟩ := is_ok (x := s.readCard 0 0 0x3000 true) (fun c => c.mode == (s.engine 0).mode && c.g == (s.engine 0).g &&
      (s.startJob 0 0 seqCard 0x3000 c (s.engine 0).job true).isSome) (by decide +kernel)
    simp only [Bool.and_eq_true, beq_iff_eq] at hk
    exact ⟨s, seqCard, c, engines rfl, rfl, rfl, by decide, by decide, rfl, hc, hk.1.1, hk.1.2, hk.2⟩
  · let s := engining seqCard owned
    obtain ⟨c, hc, hk⟩ := is_ok (x := s.readCard 0 0 0x3000 false) (fun c => ((s.newCause (coreTaker 0)).2.engineLocks 0 0 (s.newCause (coreTaker 0)).1
      (c.dstRange false)).isSome) (by decide +kernel)
    exact ⟨s, seqCard, c, engines rfl, rfl, by decide, hc, hk⟩

/-! ## Images -/

/-- A header whose scratchpad has three granules, and the machine with it: an image fits the scratchpad. -/
def wide : Header := { header with shape := header.shape + 0x800000000000, stream := loadPc }
def imageLaunches : KMap Launch := [(0, { launch with hdr := wide })]
def imageSkeins : KMap Skein := [(0, { loadSkein with granules := [[0, 1, 2, 3]] })]
def imaging (e : Engine) : State :=
  { engining { seqCard with m := Vector.replicate 16 0xE000000000000000 } e with
    work := { WorkState.start with launches := imageLaunches, skeins := imageSkeins, nextId := 10 } }
def imager : Panel := { seqCard with m := Vector.replicate 16 0xE000000000000000 }

theorem cell_length (e : Engine) (i : Nat) : (e.cell i).length = 4 := by
  unfold Engine.cell
  dsimp only
  split
  · rw [List.length_append, Laws.leBytes_length, Laws.leBytes_length]
  · exact Laws.leBytes_length _ _

theorem line_length (e : Engine) (k : Nat) : (e.imageLine k).length = 128 := by
  unfold Engine.imageLine
  split
  · unfold Engine.imageHead
    simp only [List.length_append, Laws.leBytes_length, List.length_flatMap, List.map_const', Vector.length_toList, List.sum_replicate_nat]
  · simp only [List.length_flatMap, cell_length, List.map_const', List.length_range, List.sum_replicate_nat]

/-- Who the engine's accesses are made for. -/
def imageWho : Who := { ctx := 1, root := 0x100000, skein := some 0, core := 0, launch := some 0, strand := none }

def imageAt (k : Nat) : Word := 0xE000000000000000 + BitVec.ofNat 64 (128 * k)

theorem imageAt_nat {k : Nat} (h : k < imageLines) : (imageAt k).toNat = 0xE000000000000000 + 128 * k := by
  unfold imageAt imageLines at *
  rw [BitVec.toNat_add, BitVec.toNat_ofNat]
  simp only [BitVec.reduceToNat]
  omega

/-- Every line of the image has its home in the scratchpad, whatever memory holds. -/
theorem image_home {s : State} (hw : s.work.launches = imageLaunches ∧ s.work.skeins = imageSkeins) (acc : Access) {k : Nat} (h : k < imageLines) :
    ∃ l, s.home imageWho acc (imageAt k) = .ok l := by
  have hk : k < 2049 := h
  have n := imageAt_nat h
  have sp : spaceOf (imageAt k) = 0xE := by
    unfold spaceOf bitsOf; rw [n, Nat.shiftRight_eq_div_pow]; omega
  have of : offsetOf (imageAt k) = 128 * k := by unfold offsetOf; rw [n]; omega
  refine ⟨unitLoc 0 (128 * k / 131072) (128 * k % 131072), ?_⟩
  unfold State.home State.place
  rw [sp, of]
  simp only [imageWho, hw.1, hw.2]
  have g : 128 * k / 131072 = 0 ∨ 128 * k / 131072 = 1 ∨ 128 * k / 131072 = 2 := by omega
  have b : ¬ wide.ugran * 131072 ≤ 128 * k := by
    rw [show wide.ugran = 3 from by decide]; omega
  generalize ho : 128 * k = o at *
  generalize hr : o % 131072 = r at *
  generalize hq : o / 131072 = q at *
  have e1 : (Option.bind (some 0) (kget imageLaunches)).map (·.hdr) = some wide := rfl
  have e2 : Option.bind (some 0) (kget imageSkeins) = some { loadSkein with granules := [[0, 1, 2, 3]] } := rfl
  rw [e1, e2]
  dsimp only
  rw [if_neg b]
  rcases g with rfl | rfl | rfl <;> rfl

/-- What the writing of an image keeps. -/
structure Clear (s : State) : Prop where
  work   : s.work.launches = imageLaunches ∧ s.work.skeins = imageSkeins
  runs   : s.work.runs = []
  dir    : s.async.dir = []
  absent : s.mem.absent = []
  bad    : s.mem.bad = []

theorem Clear.poke {s : State} (h : Clear s) (l : Loc) (b : List Byte) : Clear (s.poke l b) := by
  have d : (s.poke l b).async.dir = s.async.dir := by unfold State.poke; split <;> rfl
  have a : (s.poke l b).mem.absent = s.mem.absent := by unfold State.poke; cases l.store <;> rfl
  have b' : (s.poke l b).mem.bad = s.mem.bad.filter (fun x => !(x.store == l.store && l.addr ≤ x.addr && x.addr < l.addr + b.length)) := by
    unfold State.poke; cases l.store <;> rfl
  exact ⟨h.work, h.runs, d.trans h.dir, a.trans h.absent, by rw [b', h.bad]; rfl⟩

theorem Clear.route {s : State} (h : Clear s) (core : Nat) (store : Bool) (a : Word) (l : Loc) (n : Nat) :
    s.routeAt core store a l n = .ok (.plain l n) := by unfold State.routeAt; rw [h.dir]; rfl

theorem Clear.line {s : State} (h : Clear s) (own : Option Nat) (a : Word) (l : Loc) : s.lineFor own a l = .ok () := by
  unfold State.lineFor State.absentAt; rw [h.absent]; rfl

theorem aligned {k : Nat} (h : k < imageLines) : (imageAt k).toNat % 128 = 0 := by rw [imageAt_nat h]; omega

theorem image_writes {s : State} (h : Clear s) (ev : Ev) {k : Nat} (hk : k < imageLines) {b : List Byte} (hb : b.length = 128) :
    ∃ l, s.engWrite imageWho 0 ev (imageAt k) 3 b = .ok (s.poke l b) := by
  obtain ⟨l, hl⟩ := image_home h.work .store hk
  refine ⟨l, ?_⟩
  have ne : b.isEmpty = false := by cases b with | nil => cases hb | cons _ _ => rfl
  have take : b.take 128 = b := List.take_of_length_le (by omega)
  have drop : b.drop 128 = [] := List.drop_eq_nil_of_le (by omega)
  unfold State.engWrite
  rw [ne]
  simp only [hb, aligned hk, hl, h.route, Route.locs, List.findSome?, h.line, State.routeWrite, take, drop, Bool.false_eq_true, if_false,
    Nat.sub_zero, Nat.min_self]
  rfl

theorem image_reads {s : State} (h : Clear s) {k : Nat} (hk : k < imageLines) :
    ∃ l, s.home imageWho .load (imageAt k) = .ok l ∧ s.engRead imageWho 0 (imageAt k) 3 128 = .ok (s.peekList l 128, [(l, 128)]) := by
  obtain ⟨l, hl⟩ := image_home h.work .load hk
  refine ⟨l, hl, ?_⟩
  have ld : s.loadList l 128 = s.peekList l 128 := by unfold State.loadList; rw [h.runs]; rfl
  have nb : s.routeBad (.plain l 128) = none := by unfold State.routeBad State.badIn; rw [h.bad]; rfl
  unfold State.engRead State.engineRead
  simp only [aligned hk, hl, h.route, Route.locs, List.findSome?, h.line, nb, State.routeRead, Route.seen, ld, Nat.sub_zero, Nat.min_self]
  unfold State.engRead
  simp

theorem image_written {s : State} (h : Clear s) (ev : Ev) (x : Engine) (n k : Nat) (hk : k + n ≤ imageLines) :
    ∃ s1, s.writeImage imageWho 0 ev x 0xE000000000000000 k n = (s1, none) := by
  induction n generalizing s k with
  | zero => exact ⟨_, rfl⟩
  | succ n ih =>
    obtain ⟨l, hl⟩ := image_writes h ev (k := k) (by omega) (line_length x k)
    unfold State.writeImage
    rw [show (0xE000000000000000 : Word) + BitVec.ofNat 64 (128 * k) = imageAt k from rfl, hl]
    exact ih (h.poke _ _) (k + 1) (by omega)

theorem cells_read {s : State} (h : Clear s) (g n k : Nat) (hk : k + n ≤ imageLines) :
    ∃ m, s.readCells imageWho 0 g 0xE000000000000000 k n = .ok m := by
  induction n generalizing k with
  | zero => exact ⟨_, rfl⟩
  | succ n ih =>
    obtain ⟨l, _, hl⟩ := image_reads h (k := k) (by omega)
    obtain ⟨m, hm⟩ := ih (k + 1) (by omega)
    unfold State.readCells
    rw [show (0xE000000000000000 : Word) + BitVec.ofNat 64 (128 * k) = imageAt k from rfl, hl]
    simp only [hm]
    exact ⟨_, rfl⟩

/-- The range of an image is free: its instruction holds it, and all that an image's transfer looks at is as it was. -/
def heldState (e : Engine) (dst : Bool) : State := ((imaging e).holdImage 0 0 imager 0xE000000000000000 dst).getD (imaging e)

theorem held (e : Engine) (dst : Bool) : (imaging e).holdImage 0 0 imager 0xE000000000000000 dst = some (heldState e dst) ∧ Clear (heldState e dst) :=
  ⟨rfl, ⟨rfl, rfl⟩, rfl, rfl, rfl, rfl⟩

/-- An image of a stopped engine is written to the scratchpad; one of zeros is read from there by a panel that takes a free engine; a header with
reserved bits zero; digits at the ends of their range, in the first cell and in the last one of half 1. -/
theorem witness_EngineImages :
    (∃ s p f s0 s1, Streams s 0 0 p ∧ (s.engine 0).owner = some 0 ∧ 0 ∉ (s.engine 0).waiters ∧ (s.engine 0).extract = none ∧
      ((s.engine 0).running = true ∨ s.jobWaits 0 = false) ∧ imageAddr (p.rd.get f) = .ok () ∧ s.holdImage 0 0 p (p.rd.get f) true = some s0 ∧
      s0.writeImage (s0.engineWho 0 0) 0 (s0.panelEv 0 0 (State.copySrc 0) 0 0) (if (s.engine 0).running then (s.engine 0).setStop 5 else s.engine 0)
        (p.rd.get f) 0 imageLines = (s1, none)) ∧
    (∃ s p f s0 b p' e' m, Streams s 0 0 p ∧ (s.engine 0).owner = none ∧ imageAddr (p.rd.get f) = .ok () ∧
      s.holdImage 0 0 p (p.rd.get f) false = some s0 ∧ s0.engRead (s.engineWho 0 0) 0 (p.rd.get f) 3 128 = .ok (b, p') ∧ Engine.ofHead b = some e' ∧
      s0.readCells (s.engineWho 0 0) 0 e'.g (p.rd.get f) 1 (imageLines - 1) = .ok m) ∧
    (∃ e : Engine, bitsOf e.eacc.toNat 30 17 = 0 ∧ e.eaccExp = -1024 ∧ bitsOf e.estat.toNat 31 24 = 0 ∧ e.g ≠ 3 ∧ e.mode ≠ 3 ∧
      bitsOf e.estat.toNat 9 8 = 0 ∧ e.stop = 5 ∧ e.running = false) ∧
    (∃ e : Engine, e.g = 0 ∧ (kget e.digits 0).getD 0 = 2 ^ 15 - 1 ∧ (kget e.digits 131071).getD 0 = -(2 ^ 15)) ∧
    (∃ e : Engine, e.g ≠ 0 ∧ (kget e.digits 65535).getD 0 = -(2 ^ 31)) := by
  refine ⟨?_, ?_, ⟨{ owned with eacc := 0x8001FC00, estat := 0xFF2C05 }, by decide, by decide, by decide, by decide, by decide, by decide, by decide, by decide⟩,
    ⟨{ owned with digits := [(0, 32767), (131071, -32768)] }, by decide, by decide, by decide⟩,
    ⟨{ owned with estat := 0x4000, digits := [(65535, -2147483648)] }, by decide, by decide⟩⟩
  · let s := imaging (stoppedAt 5)
    let s0 := heldState (stoppedAt 5) true
    have ⟨h0, c⟩ := held (stoppedAt 5) true
    obtain ⟨s1, h1⟩ := image_written c (s0.panelEv 0 0 (State.copySrc 0) 0 0) (stoppedAt 5) imageLines 0 (by decide)
    have w : s0.engineWho 0 0 = imageWho := rfl
    refine ⟨s, imager, .w 4, s0, s1, ⟨rfl, rfl, .inl rfl, by intro q hq; cases hq⟩, rfl, by decide, rfl, .inr (by decide), rfl, h0, ?_⟩
    rw [show imager.rd.get (.w 4) = 0xE000000000000000 from rfl, if_neg (by decide), w]
    exact h1
  · let s := imaging Engine.zero
    let s0 := heldState Engine.zero false
    have ⟨h0, c⟩ := held Engine.zero false
    obtain ⟨l, hl, hr⟩ := image_reads c (k := 0) (by decide)
    obtain ⟨e', he⟩ := is_some (x := Engine.ofHead (s0.peekList (unitLoc 0 0 0) 128)) (by decide +kernel)
    obtain ⟨m, hm⟩ := cells_read c e'.g 2048 1 (by decide)
    rw [show imageAt 0 = 0xE000000000000000 from by decide] at hr hl
    have z : l = unitLoc 0 0 0 := by
      have : s0.home imageWho .load 0xE000000000000000 = .ok (unitLoc 0 0 0) := by rfl
      rw [this] at hl; cases hl; rfl
    rw [z] at hr
    refine ⟨s, imager, .w 4, s0, s0.peekList (unitLoc 0 0 0) 128, [(unitLoc 0 0 0, 128)], e', m, ⟨rfl, rfl, .inl rfl, by intro q hq; cases hq⟩, rfl, rfl, h0, ?_, he, ?_⟩
    · exact hr
    · exact hm

/-! ## Depth steps and the engine's events -/

/-- A block of one 1 on each side, another that is a NaN block, and an engine with a digit at the end of its range. -/
def ones : Block := { v := 1 :: List.replicate 31 0, scale := 0, width := 8, plane := 8, loss := 0, flush := 0 }
def stepped (e : Engine) (a : Option Block) : Bool := (e.step cardBits { a := [(7, 0, a)], b := [(0, some ones)] }).isSome

theorem witness_DepthStepsAreExact :
    (∀ a ∈ [some ones, none], ∃ (e : Engine) (x : StepIn), ∃ e1 cnts, e.step cardBits x = some (e1, cnts) ∧ x = { a := [(7, 0, a)], b := [(0, some ones)] } ∧
      (∀ y ∈ x.a, y.1 < 8 ∧ ∀ z, y.2.2 = some z → z.v.length = 32) ∧ (∀ y ∈ x.b, y.1 < 8 ∧ ∀ z, y.2 = some z → z.v.length = 32) ∧ e.mode ≤ 2) ∧
    (∃ e : Engine, e.sat = true ∧ stepped e (some ones) = true ∧ (kget e.digits (digitKey 0 224 0)).getD 0 = 2 ^ 15 - 1) ∧
    ones.v.length = 32 ∧ ((0 : Int) < 1) := by
  refine ⟨fun a ha => ?_, ⟨{ owned with estat := 0x800, digits := [(57344, 32767)] }, by decide, by decide +kernel, by decide⟩, by decide, by decide⟩
  have h : stepped owned a = true := by revert a; decide +kernel
  obtain ⟨⟨e1, cnts⟩, hr⟩ := is_some h
  refine ⟨owned, _, e1, cnts, hr, rfl, ?_, ?_, by decide⟩
  · intro y hy
    cases List.mem_singleton.1 hy
    refine ⟨show 7 < 8 by decide, fun z hz => ?_⟩
    simp only [List.mem_cons, List.not_mem_nil, or_false] at ha
    rcases ha with rfl | rfl
    · cases hz; rfl
    · cases hz
  · intro y hy
    cases List.mem_singleton.1 hy
    exact ⟨by decide, fun z hz => by cases hz; rfl⟩

/-- A running job of two output tiles, a step that leaves the guard range, gates closed and open, extractions that have ended. -/
def gated (phase : Word32) : Engine := { running with job := some { job with sbw := [({ sbw := true, barrier := 3, tile := 0 }, phase)] } }
def twoLevels : Card := cardBits + BitVec.ofNat 1024 (2 ^ (8 * 0x40))
def full : Engine := { running with digits := [(0, -32768)] }
def extraction (byExt : Bool) : Extract :=
  { tile := 0, card := cardBits, x := 0x3800, digits := [], exp := 0, maskr := 0, maskc := 0, cursor := 0x1C1, started := 0, pslot := 0, cause := 5, op := 7, byExt,
    clr := false }
/-- The scratchpad holds −1 and 1. -/
def signed (s : State) : State := { s with mem := { s.mem with unit := [(0, 0xFF), (4096, 1)] } }

theorem witness_EngineEvents :
    (∃ s : State, ∃ x e1 cnts, (s.engine 0).job = some job ∧ (s.engine 0).live = true ∧ (s.engine 0).stop = 0 ∧ (s.engine 0).extract = none ∧
      s.engineParked 0 = false ∧ Unwatched s ∧ s.async.faults = [] ∧ s.tileGates 0 (s.engine 0) job = [] ∧ s.stepIn 0 job (s.engine 0) = .ok x ∧
      (s.engine 0).step cardBits x.1 = some (e1, cnts) ∧ (s.engine 0).tileLast cardBits = true ∧ (s.engine 0).walkLast cardBits = true) ∧
    (∃ s : State, ∃ j x e1 cnts, (s.engine 0).job = some j ∧ (s.engine 0).running = true ∧ s.engineParked 0 = false ∧ Unwatched s ∧
      s.async.faults = [] ∧ s.tileGates 0 (s.engine 0) j = [] ∧ s.stepIn 0 j (s.engine 0) = .ok x ∧ (s.engine 0).step j.card x.1 = some (e1, cnts) ∧
      (s.engine 0).tileLast j.card = false ∧ (s.engine 0).walkLast j.card = false) ∧
    (∃ s : State, ∃ x, (s.engine 0).job = some job ∧ (s.engine 0).running = true ∧ s.engineParked 0 = false ∧ Unwatched s ∧
      s.async.faults = [] ∧ s.tileGates 0 (s.engine 0) job = [] ∧ s.stepIn 0 job (s.engine 0) = .ok x ∧ (s.engine 0).step cardBits x.1 = none) ∧
    (∃ s : State, ∃ j, (s.engine 0).job = some j ∧ (s.engine 0).running = true ∧ (s.engine 0).tileFirst j.card = true ∧
      s.tileGates 0 (s.engine 0) j ≠ [] ∧ ∀ x ∈ s.tileGates 0 (s.engine 0) j, x.2 = true) ∧
    (∀ b : Bool, (extraction b).finished = true ∧ ∃ s : State, (s.engine 0).extract = some (extraction b) ∧
      (b = false → ∃ j, (s.engine 0).job = some j ∧ (s.engine 0).live = true ∧ (s.engine 0).stop = 0 ∧ j.stopReq = none ∧ j.walked = true)) ∧
    (∃ s : State, ∃ p, (s.engine 0).owner = some 0 ∧ s.panel? 0 0 = some p ∧ p.stopped = true) := by
  refine ⟨?_, ?_, ?_, ?_, ?_, ?_⟩
  · let s := engining seqCard running
    obtain ⟨x, hx, hk⟩ := is_ok (x := s.stepIn 0 job (s.engine 0)) (fun x => ((s.engine 0).step cardBits x.1).isSome) (by decide +kernel)
    obtain ⟨⟨e1, cnts⟩, hr⟩ := is_some hk
    exact ⟨s, x, e1, cnts, rfl, by decide, by decide, rfl, by decide, by unfold Unwatched; decide, rfl, by decide, hx, hr, by decide +kernel, by decide +kernel⟩
  · let e : Engine := { running with job := some { job with card := twoLevels } }
    let s := engining seqCard e
    obtain ⟨x, hx, hk⟩ := is_ok (x := s.stepIn 0 { job with card := twoLevels } (s.engine 0)) (fun x => ((s.engine 0).step twoLevels x.1).isSome) (by decide +kernel)
    obtain ⟨⟨e1, cnts⟩, hr⟩ := is_some hk
    exact ⟨s, _, x, e1, cnts, rfl, by decide, by decide, by unfold Unwatched; decide, rfl, by decide, hx, hr, by decide +kernel, by decide +kernel⟩
  · let s := signed (engining seqCard full)
    obtain ⟨x, hx, hk⟩ := is_ok (x := s.stepIn 0 job (s.engine 0)) (fun x => ((s.engine 0).step cardBits x.1).isNone) (by decide +kernel)
    exact ⟨s, x, rfl, by decide, by decide, by unfold Unwatched; decide, rfl, by decide, hx, Option.isNone_iff_eq_none.1 hk⟩
  · exact ⟨engining seqCard (gated 0xFFFFFFFF), _, rfl, by decide, by decide +kernel, by decide +kernel, by decide +kernel⟩
  · intro b
    refine ⟨by revert b; decide +kernel, engining seqCard { running with extract := some (extraction b), job := some { job with walked := true } }, rfl,
      fun _ => ⟨_, rfl, by cases b <;> decide, by cases b <;> decide, rfl, rfl⟩⟩
  · exact ⟨engining { seqCard with stopped := true } running, _, rfl, rfl, rfl⟩

end Sys2Proof.Tests
end

