-- ==== Sys2Proof/Tests/Sync.lean ====
section
/-! SUPPORT. For each statement about synchronisation and the fabric's instructions, a machine and operands that meet its hypotheses. -/
set_option maxRecDepth 20000
set_option Elab.async false
namespace Sys2Proof.Tests
open Sys2Proof.Machine Sys2Proof.Safety

/-! ## Barriers and counters -/

/-- The course with the last of its barriers reached by one strand, or by both. -/
def arrived (n : Nat) : Course :=
  (List.range n).foldl (fun c i => c.modSt i (fun x => { x with arrs := [⟨0, 3, 1, 5, 0, 0⟩] })) { c32 with barriers := c32.barriers.set 3 (Barrier.start 2 false) }

def bar (m : Byte) (imm : BitVec 48) (a : Reg := .w 0) : Gen := gen m (.w 6) a (.w 0) imm
def start2 : Barrier := Barrier.start 2 false

theorem witness_Barriers :
    (∀ i ∈ [.bara (bar 0 3), .barw (bar 0 3), .bar (bar 0 3), .barq (bar 0 0x10003), .barq (bar 8 0x10F)], ∃ s I, Issues s i false [] I ∧
      s.bar? (s.unitOf I.core I.slot I.c 0) 3 = some start2 ∧ quotaOf s I 15 = some 15) ∧
    (∃ s I, Issues s (.bara (bar 4 0 (.w 3))) false [.w 3] I ∧ barNumber (bar 4 0 (.w 3)) (I.c.read I.leader) = 2 ∧
      (s.bar? (s.unitOf I.core I.slot I.c 0) 2).isSome) ∧
    (∃ s p, Streams s 0 0 p ∧ barNumber (bar 0 7) p.rd.get = 7 ∧ (s.bar? (.panel 0 0) 7).isSome ∧ barNumber (bar 0 15) p.rd.get = 15 ∧
      (s.bar? (.panel 0 0) 15).isSome) ∧
    (∀ n ∈ [1, 2], ∃ (s : State) (c : Course) (b : Barrier), s.course? 0 0 = some c ∧ s.bar? (.course 0 0) 3 = some b ∧ b.joined = false ∧ b.arrived = [] ∧
      b.departed = [] ∧ b.expect = 2 ∧ ((lanesOf c.present).filter (fun l => arrCovers (c.st l).arrs 0 3 b.phase)).length = n) := by
  refine ⟨fun i hi => ⟨machine (arrived 0), who _ (arrived 0) i, issues_sound rfl rfl (by revert i; decide), ?_, ?_⟩,
    ⟨machine c32, who _ c32 _, issues_sound rfl rfl (by decide), by decide, by decide⟩, ⟨streaming seq, seq, streams rfl, by decide, by decide, by decide, by decide⟩,
    fun n hn => ⟨machine (arrived n), arrived n, start2, rfl, ?_, rfl, rfl, rfl, rfl, ?_⟩⟩
  · revert i; decide
  · unfold quotaOf; revert i; decide
  · revert n; decide
  · revert n; decide

/-- Counter 3 has a value and an armed entry, counter 4 is poisoned. -/
def armedEntry : Armed := { threshold := 6, bits := 1, core := 0, ctx := 1, launch := none, skein := none, cause := 1, parent := 0 }
def counting (c : Course) (n : Nat) : State :=
  { machine c with async := { (machine c).async with counters := [(3, { Counter.zero with value := 5, armed := List.replicate n armedEntry }),
                                                                  (4, { Counter.zero with poison := true })] } }

def ctr (m : Byte) (imm : BitVec 48) : Gen := gen m (.w 6) (.w 3) (.w 2) imm

theorem witness_Counters :
    (∃ s : State, (s.counter 3).poison = false ∧ (s.counter 3).armed.length = 1 ∧ (s.counter 4).poison = true ∧ (s.counter 15).poison = false) ∧
    (∀ x ∈ [(.cinc (ctr 0x0A 0x100000003), 3), (.cset (ctr 0x08 3), 3), (.cwait (ctr 0x0A 0x500000003), 3), (.cwait (ctr 0x02 0x600000003), 3)],
      Reg.shared (.w 6) = false ∧ ∃ s I, Issues s x.1 false [] I ∧ quotaOf s I x.2 = some 3 ∧ (s.counter 3).poison = false ∧ (s.counter 3).value = 5) ∧
    (∃ s I, Issues s (.cinc (ctr 0x01 0)) false [.w 3] I ∧ ctrNumber (ctr 0x01 0) true (I.c.read I.leader) = 2 ∧ quotaOf s I 2 = some 2) ∧
    (∀ i ∈ [.cinc (ctr 0 16), .cset (ctr 0 4)], ∃ s I, Issues s i false [] I ∧ quotaOf s I 16 = none ∧ quotaOf s I 4 = some 4 ∧ (s.counter 4).poison = true) := by
  refine ⟨⟨counting c32 1, by decide, by decide, by decide, by decide⟩, ?_, ?_, ?_⟩
  · intro x hx
    have h : issues (counting c32 1) c32 x.1 false [] = true ∧ quotaOf (counting c32 1) (who (counting c32 1) c32 x.1) x.2 = some 3 := by
      unfold quotaOf; revert x; decide
    exact ⟨by decide, _, _, issues_sound rfl rfl h.1, h.2, by decide, by decide⟩
  · exact ⟨counting c32 1, who _ c32 _, issues_sound rfl rfl (by decide), by decide, by unfold quotaOf; decide⟩
  · intro i hi
    exact ⟨counting c32 1, who _ c32 i, issues_sound rfl rfl (by revert i; decide), by unfold quotaOf; revert i; decide, by unfold quotaOf; revert i; decide, by decide⟩

/-- Tables of one and of no declared entry; fences that wait and do not. -/
def declaring (c : Course) : State := { counting c 1 with mem := { Memories.start with hbm := [(0x3003, 1), (0x3006, 7)] ++ tables } }

def cdcl (n : BitVec 48) : Gen := gen 0 (.w 0) (.w 0) (.w 1) n
def cdclWho (n : BitVec 48) : Iss := who (declaring cMem) cMem (.cdcl (cdcl n))
def cdclReach (n : BitVec 48) : Except Stop Opnd :=
  let s := passed (declaring cMem) (cdclWho n)
  let I := cdclWho n
  s.reach (s.strandWho I.core I.c.pslot I.c I.leader) I.core false true (I.c.read I.leader (.w 1) + BitVec.ofNat 64 (8 * 0)) 8

theorem cdcl_reads (n : BitVec 48) (hn : n ∈ [(3 : BitVec 48), 0x10003]) : ∃ (o : Nat → Opnd) (d : Nat → Decl), (cdcl n).mod = 0 ∧ (cdcl n).imm = n ∧
    Issues (declaring cMem) (.cdcl (cdcl n)) false [.w 1] (cdclWho n) ∧ Unwatched (declaring cMem) ∧ quotaOf (declaring cMem) (cdclWho n) 3 = some 3 ∧
    ((declaring cMem).counter 3).poison = false ∧ ((cdclWho n).c.read (cdclWho n).leader (.w 1)).toNat % 8 = 0 ∧
    ∀ k < bitsOf (cdcl n).imm.toNat 20 16, (passed (declaring cMem) (cdclWho n)).reach ((passed (declaring cMem) (cdclWho n)).strandWho (cdclWho n).core
          (cdclWho n).c.pslot (cdclWho n).c (cdclWho n).leader) (cdclWho n).core false true
          ((cdclWho n).c.read (cdclWho n).leader (.w 1) + BitVec.ofNat 64 (8 * k)) 8 = .ok (o k) ∧
        declOf (leNat ((passed (declaring cMem) (cdclWho n)).routeRead (o k).route)) = some (d k) := by
  have hn : n = 3 ∨ n = 0x10003 := by simpa using hn
  have h : issues (declaring cMem) cMem (.cdcl (cdcl n)) false [.w 1] = true := by rcases hn with rfl | rfl <;> decide
  have q : quotaOf (declaring cMem) (cdclWho n) 3 = some 3 := by unfold quotaOf; rcases hn with rfl | rfl <;> decide
  have a : ((cdclWho n).c.read (cdclWho n).leader (.w 1)).toNat % 8 = 0 := by rcases hn with rfl | rfl <;> decide
  have l : bitsOf (cdcl n).imm.toNat 20 16 ≤ 1 := by rcases hn with rfl | rfl <;> decide
  have g : good (fun o => (declOf (leNat ((passed (declaring cMem) (cdclWho n)).routeRead o.route))).isSome) (cdclReach n) = true := by
    rcases hn with rfl | rfl <;> decide +kernel
  obtain ⟨o, ho, hd⟩ := is_ok _ g
  obtain ⟨d, hd⟩ := is_some hd
  refine ⟨fun _ => o, fun _ => d, rfl, rfl, issues_sound rfl rfl h, by unfold Unwatched; decide, q, by decide, a, fun k hk => ?_⟩
  have : k = 0 := by omega
  subst this
  exact ⟨ho, hd⟩

theorem witness_DeclareAndFence :
    (∀ n ∈ [(3 : BitVec 48), 0x10003], ∃ f s I, ∃ (o : Nat → Opnd) (d : Nat → Decl), f.mod = 0 ∧ f.imm = n ∧ Issues s (.cdcl f) false [f.sb] I ∧ Unwatched s ∧
      quotaOf s I 3 = some 3 ∧ (s.counter 3).poison = false ∧ (I.c.read I.leader f.sb).toNat % 8 = 0 ∧
      ∀ k < bitsOf f.imm.toNat 20 16, (passed s I).reach ((passed s I).strandWho I.core I.c.pslot I.c I.leader) I.core false true
          (I.c.read I.leader f.sb + BitVec.ofNat 64 (8 * k)) 8 = .ok (o k) ∧
        declOf (leNat ((passed s I).routeRead (o k).route)) = some (d k)) ∧
    (∀ x ∈ [((0 : Byte), 1), (1, 0), (2, 0)], ∃ s I, Issues s (.fence (gen x.1 (.w 0) (.w 0) (.w 0))) false [] I ∧ I.c.asyncOut = x.2 ∧ s.postedOut I.c = false) ∧
    (∃ s I, Issues s (.fence (gen 1 (.w 0) (.w 0) (.w 0))) false [] I ∧ I.c.asyncOut ≠ 0) ∧
    (∃ s p, Streams s 0 0 p ∧ (s.engine 0).owner = some 0 ∧ s.jobWaits 0 = true) ∧ (∃ s p, Streams s 0 0 p ∧ s.jobWaits 0 = false) := by
  refine ⟨?_, ?_, ⟨machine { c32 with asyncOut := 1 }, who _ { c32 with asyncOut := 1 } _, issues_sound rfl rfl (by decide), by decide⟩,
    ⟨_, _, engines (p := seqCard) (e := running) rfl, rfl, by decide⟩, ⟨_, _, engines (p := seqCard) (e := owned) rfl, by decide⟩⟩
  · exact fun n hn => ⟨cdcl n, declaring cMem, cdclWho n, cdcl_reads n hn⟩
  · intro x hx
    have h : issues (machine { c32 with asyncOut := x.2 }) { c32 with asyncOut := x.2 } (.fence (gen x.1 (.w 0) (.w 0) (.w 0))) false [] = true := by
      revert x; decide
    exact ⟨_, _, issues_sound rfl rfl h, rfl, rfl⟩

/-! ## Fabric -/

/-- The tables with a second root entry: 2^39 leads to the first GiB of device 1. -/
def peerTables : Memory :=
  [(0x100000, 0x01), (0x100002, 0x20), (0x100008, 0x01), (0x100009, 0x20), (0x10000A, 0x20), (0x200000, 0x1B), (0x202000, 0x0B), (0x202007, 0x82)]
def peering (c : Course) : State := { machine c with mem := { Memories.start with hbm := peerTables } }
def cPeer : Course := course VReg.zero [(1, 0x8000000010), (2, 9)]
def far (m : Byte) : Gen := gen m (.w 6) (.w 1) (.w 2) 0xFFFFFFFFFFF8

theorem witness_RemoteAccesses :
    (∃ s I, ∃ o : Nat → Word × Nat × Nat, Issues s (.fld (far 0x0B)) false [] I ∧
      ∀ lane ∈ I.runs, (passed s I).peerOpnd I (far 0x0B) lane (fabBytes 0x0B) .peerLoad = .ok (o lane)) ∧
    (∀ i ∈ [.fst (far 4), .fatm (far 4)], ∃ s I, ∃ o : Nat → Word × Nat × Nat, Issues s i false [] I ∧
      ∀ lane ∈ I.runs, (passed s I).peerOpnd I (far 4) lane (fabBytes 4) .peerStore = .ok (o lane)) ∧
    (({ peering cPeer with dev := { (peering cPeer).dev with bootDone := 8 } } : State).route 7 0).isSome ∧ (peering cPeer).route 8 0 = none := by
  refine ⟨?_, ?_, by decide, by decide⟩
  · let I := who (peering cPeer) cPeer (.fld (far 0x0B))
    obtain ⟨o, ho⟩ := all_ok (0, 0, 0) (f := fun lane => (passed (peering cPeer) I).peerOpnd I (far 0x0B) lane (fabBytes 0x0B) .peerLoad) (p := fun _ => true)
      (l := I.runs) (by decide +kernel)
    exact ⟨_, I, o, issues_sound rfl rfl (by decide), fun lane hl => (ho lane hl).1⟩
  · intro i hi
    let I := who (peering cPeer) cPeer i
    have h : issues (peering cPeer) cPeer i false [] = true ∧ allGood (fun lane => (passed (peering cPeer) I).peerOpnd I (far 4) lane (fabBytes 4) .peerStore)
        (fun _ => true) I.runs = true := by
      have hi : i = .fst (far 4) ∨ i = .fatm (far 4) := by simpa using hi
      rcases hi with rfl | rfl <;> decide +kernel
    obtain ⟨o, ho⟩ := all_ok (0, 0, 0) h.2
    exact ⟨_, I, o, issues_sound rfl rfl h.1, fun lane hl => (ho lane hl).1⟩

/-- An entry at 0x3000: a signal of device 1; `counting` has 7 or 8 armed entries on counter 3. -/
def posting (n : Nat) : State := { counting cMem n with mem := { Memories.start with hbm := [(0x3000, 3), (0x3005, 1)] ++ tables } }

theorem witness_FlowsAndEntries :
    (∃ s I, Issues s (.pent (gen 2 (.w 0) (.w 0) (.w 0) 6)) false [] I ∧ 6 < s.domainSize - 1) ∧
    (∃ s I, Issues s (.pent (gen 0 (.w 0) (.w 0) (.w 0) 7)) false [] I ∧ s.domainSize - 1 ≤ 7) ∧
    (∃ s I b o, Issues s (.qpst (gen 0 (.w 0) (.w 1) (.w 0))) false [.w 1] I ∧ Unwatched s ∧ (passed s I).readEntry I (I.c.read I.leader (.w 1)) = .ok (b, o)) ∧
    (∀ n ∈ [7, 8], ∃ s I b o, Issues s (.qarm (gen 0 (.w 0) (.w 1) (.w 2) 3)) false [.w 1, .w 2] I ∧ Unwatched s ∧ quotaOf s I 3 = some 3 ∧
      (s.counter 3).poison = false ∧ (passed s I).readEntry I (I.c.read I.leader (.w 1)) = .ok (b, o) ∧ (s.counter 3).armed.length = n ∧ s.armedTotal = n) := by
  refine ⟨⟨machine c32, who _ c32 _, issues_sound rfl rfl (by decide), by decide⟩, ⟨machine c32, who _ c32 _, issues_sound rfl rfl (by decide), by decide⟩, ?_, ?_⟩
  · let i : Instr := .qpst (gen 0 (.w 0) (.w 1) (.w 0))
    obtain ⟨⟨b, o⟩, h, _⟩ := is_ok (x := (passed (posting 0) (who (posting 0) cMem i)).readEntry (who (posting 0) cMem i)
      ((who (posting 0) cMem i).c.read (who (posting 0) cMem i).leader (.w 1))) (fun _ => true) (by decide +kernel)
    exact ⟨_, _, b, o, issues_sound rfl rfl (by decide), by unfold Unwatched; decide, h⟩
  · intro n hn
    let i : Instr := .qarm (gen 0 (.w 0) (.w 1) (.w 2) 3)
    have h : issues (posting n) cMem i false [.w 1, .w 2] = true ∧ quotaOf (posting n) (who (posting n) cMem i) 3 = some 3 ∧
        ((posting n).counter 3).poison = false ∧ ((posting n).counter 3).armed.length = n ∧ (posting n).armedTotal = n := by
      have hn : n = 7 ∨ n = 8 := by simpa using hn
      unfold quotaOf
      rcases hn with rfl | rfl <;> decide
    have g : good (fun _ => true) ((passed (posting n) (who (posting n) cMem i)).readEntry (who (posting n) cMem i)
        ((who (posting n) cMem i).c.read (who (posting n) cMem i).leader (.w 1))) = true := by
      have hn : n = 7 ∨ n = 8 := by simpa using hn
      rcases hn with rfl | rfl <;> decide +kernel
    obtain ⟨⟨b, o⟩, hr, _⟩ := is_ok _ g
    exact ⟨_, _, b, o, issues_sound rfl rfl h.1, fun x hx i => by cases List.mem_singleton.1 hx; revert i; decide, h.2.1, h.2.2.1, hr, h.2.2.2⟩

/-- A descriptor at 0x3000: an all-reduce of 64 elements with device 1, in chunks of 256 bytes. -/
def descCells : Memory :=
  [(0x3000, 1), (0x3002, 9), (0x3003, 2), (0x300D, 1), (0x3011, 0x50), (0x3019, 0x60), (0x3020, 0x40), (0x3029, 0x70), (0x3051, 1)]
def collecting (cs : KMap Coll) : State :=
  { machine cMem with mem := { Memories.start with hbm := descCells ++ tables }, async := { (machine cMem).async with colls := cs } }
def coll (fired : Bool) : Coll :=
  { cause := 3, parent := 0, ctx := 1, launch := some 0, skein := some 0, issuer := .device, desc := 0, deadline := 8, issued := 0, pos := [], counter := 0, sentTo := [],
    reduced := false, done := false, fired, late := 0, lateSteps := 0, op := 5, resend := [] }

def collI : Instr := .coll (gen 0 (.w 6) (.w 1) (.w 0))
def collDesc (o1 o2 : Opnd) : BitVec 1024 :=
  let p := passed (collecting []) (who (collecting []) cMem collI)
  BitVec.ofNat 1024 (leNat (p.routeRead o1.route ++ p.routeRead o2.route))
def collReach (k : Word) : Except Stop Opnd :=
  let p := passed (collecting []) (who (collecting []) cMem collI)
  p.reach (p.strandWho 0 0 cMem 0) 0 false true (0x3000 + k) 64
def collTakes (d : BitVec 1024) : Bool :=
  let I := who (collecting []) cMem collI
  let x := (passed (collecting []) I).newCause (coreTaker I.core)
  let y := x.2.newOp I (.coll x.1) none
  (y.2.2.takeLocks I.core y.1 2 (cdLocks d)).isSome

theorem witness_Collectives :
    (∃ s I o1 o2 s3, Instr.wellFormed false collI = true ∧ Issues s collI false [.w 1] I ∧ Unwatched s ∧ I.c.read I.leader (.w 1) = 0x3000 ∧
      (passed s I).reach ((passed s I).strandWho I.core I.c.pslot I.c I.leader) I.core false true (0x3000 + 0) 64 = .ok o1 ∧
      (passed s I).reach ((passed s I).strandWho I.core I.c.pslot I.c I.leader) I.core false true (0x3000 + 64) 64 = .ok o2 ∧
      (passed s I).descOk (collDesc o1 o2) = true ∧ (passed s I).joinTaken (s.launchId I.c) (collDesc o1 o2) = false ∧
      (let x := (passed s I).newCause (coreTaker I.core)
       let y := x.2.newOp I (.coll x.1) none
       y.2.2.takeLocks I.core y.1 2 (cdLocks (collDesc o1 o2)) = some s3)) ∧
    (Instr.wellFormed false (.cwdQuery (gen 0 (.w 6) (.w 3) (.w 0) 3)) = true ∧
      ∃ s I, Issues s (.cwdQuery (gen 0 (.w 6) (.w 3) (.w 0) 3)) false [.w 3] I ∧ s.collOf I (I.c.read I.leader (.w 3)) = some (coll false)) ∧
    (∀ b : Bool, ∃ s I, Issues s (.cwdExtend (gen 1 (.w 0) (.w 3) (.w 2))) false [.w 3, .w 2] I ∧ s.collOf I (I.c.read I.leader (.w 3)) = some (coll b) ∧
      (I.c.read I.leader (.w 2)).toNat = (coll b).deadline.toNat) := by
  refine ⟨?_, ⟨by decide, collecting [(3, coll false)], who _ cMem _, issues_sound rfl rfl (by decide), by decide⟩, fun b => ?_⟩
  · obtain ⟨o1, h1, k⟩ := is_ok (x := collReach 0) (fun o1 => good (fun o2 =>
      (passed (collecting []) (who (collecting []) cMem collI)).descOk (collDesc o1 o2) && !(passed (collecting []) (who (collecting []) cMem collI)).joinTaken
        ((collecting []).launchId cMem) (collDesc o1 o2) && collTakes (collDesc o1 o2)) (collReach 64)) (by decide +kernel)
    obtain ⟨o2, h2, k⟩ := is_ok _ k
    simp only [Bool.and_eq_true, Bool.not_eq_true'] at k
    obtain ⟨s3, h3⟩ := is_some (show (_ : Option State).isSome = true from k.2)
    exact ⟨collecting [], who (collecting []) cMem collI, o1, o2, s3, by decide, issues_sound rfl rfl (by decide), by unfold Unwatched; decide, by decide, h1, h2,
      k.1.1, k.1.2, h3⟩
  · have h : issues (collecting [(3, coll b)]) cMem (.cwdExtend (gen 1 (.w 0) (.w 3) (.w 2))) false [.w 3, .w 2] = true := by cases b <;> decide
    exact ⟨_, _, issues_sound rfl rfl h, by cases b <;> decide, by cases b <;> decide⟩

end Sys2Proof.Tests
end

