-- ==== Sys2Proof/Tests/Events.lean ====
section
/-! SUPPORT. For each statement about the device's events, a machine and operands that meet its hypotheses. -/
set_option maxRecDepth 20000
set_option Elab.async false
namespace Sys2Proof.Tests
open Sys2Proof.Machine Sys2Proof.Safety

/-- The machine with a device, tables and asynchronous state of its own. -/
def part (d : Device) : State := { machine c32 with dev := d }
def dev0 : Device := State.reset.dev

/-- A queue of context 1 that may run, with HEAD and TAIL at 0x3000 and 0x3040. -/
def queue : Queue := { Queue.zero with ctx := 1, log2size := 4, qbase := 0x5000, tailaddr := 0x3040, headaddr := 0x3000 }
def queued (x : Queue) : State := { machine c32 with tables := { (machine c32).tables with queues := [(1023, x)] } }

theorem witness_ManagementBlock :
    (∃ s : State, s.dev.powered = true ∧ s.dev.recovery = false ∧ s.anyPortUp = false) ∧ (∃ s : State, s.dev.powered = true ∧ s.dev.recovery = false ∧ s.anyPortUp = true) ∧
    (∀ v ∈ [0x0807, 0x100F], let v : Word := BitVec.ofNat 64 v
      8 ≤ bitsOf v.toNat 12 8 ∧ bitsOf v.toNat 12 8 ≤ 16 ∧ bitsOf v.toNat 3 0 < bitsOf v.toNat 12 8) ∧
    (∀ v ∈ [0x0707, 0x1100, 0x0808], let v : Word := BitVec.ofNat 64 v
      ¬ (8 ≤ bitsOf v.toNat 12 8 ∧ bitsOf v.toNat 12 8 ≤ 16 ∧ bitsOf v.toNat 3 0 < bitsOf v.toNat 12 8)) ∧
    (∀ n ∈ [(0 : Byte), 1], ∃ s : State, s.dev.powered = true ∧ s.dev.recovery = false ∧ (s.queue 1023).state = n ∧ (s.queue 1023).qclass.toNat < 4) ∧
    (∃ s : State, ∃ hb tb, s.dev.powered = true ∧ s.dev.recovery = false ∧ (s.queue 1023).state ≠ 3 ∧ (s.queue 1023).startable = true ∧
      s.readRange (s.whoOf (s.queue 1023).ctx.toNat) (s.queue 1023).headaddr 8 = .ok hb ∧
      s.readRange (s.whoOf (s.queue 1023).ctx.toNat) (s.queue 1023).tailaddr 8 = .ok tb ∧ leNat hb ≤ leNat tb ∧
      leNat tb ≤ leNat hb + 2 ^ (s.queue 1023).log2size.toNat ∧ leNat tb < 2 ^ 64) ∧
    (∃ s : State, (kkeys s.async.counters).Nodup ∧ s.quotaClash 4095 { ContextEntry.zero with ptroot := 1, cbase := 15, ccount := 1 } = true ∧
      s.quotaClash 4095 { ContextEntry.zero with ptroot := 1, cbase := 16, ccount := 65520 } = false) ∧
    (∃ s : State, s.dev.powered = true ∧ s.dev.recovery = false ∧ s.firn.enabled = false) ∧ (∃ s : State, s.dev.powered = true ∧ s.dev.recovery = false ∧ s.firn.enabled = true) ∧
    (0x14000 ≤ Config.lpddrBytes → ∃ f : FirnState, f.base.toNat % 4096 = 0 ∧ 65536 ≤ f.size.toNat ∧ f.size.toNat ≤ 2 ^ 34 ∧ f.size.toNat % 65536 = 0 ∧
      4096 ≤ f.opsz.toNat ∧ f.opsz.toNat % 4096 = 0 ∧ 4096 + f.opsz.toNat ≤ f.size.toNat ∧ f.base.toNat + f.size.toNat ≤ Config.lpddrBytes) ∧
    (∃ s : State, s.ctxKilled 1 = false ∧ (kkeys s.courses).Nodup) := by
  refine ⟨⟨machine c32, rfl, rfl, by decide +kernel⟩, ⟨part { dev0 with bootDone := 8 }, rfl, rfl, by decide +kernel⟩, by decide +kernel, by decide +kernel, ?_, ?_, ?_, ⟨machine c32, rfl, rfl, rfl⟩,
    ⟨{ machine c32 with firn := { State.reset.firn with enabled := true } }, rfl, rfl, rfl⟩, ?_, ⟨machine c32, by decide +kernel, by decide +kernel⟩⟩
  · intro n hn
    exact ⟨queued { queue with state := n }, rfl, rfl, rfl, show (0 : Byte).toNat < 4 by decide⟩
  · obtain ⟨hb, h1, k⟩ := is_ok (x := (queued queue).readRange ((queued queue).whoOf 1) 0x3000 8) (fun hb => good (fun tb =>
      decide (leNat hb ≤ leNat tb) && decide (leNat tb ≤ leNat hb + 2 ^ 4) && decide (leNat tb < 2 ^ 64))
      ((queued queue).readRange ((queued queue).whoOf 1) 0x3040 8)) (by decide +kernel)
    obtain ⟨tb, h2, k⟩ := is_ok _ k
    simp only [Bool.and_eq_true, decide_eq_true_eq] at k
    exact ⟨queued queue, hb, tb, rfl, rfl, by decide +kernel, by decide +kernel, h1, h2, k.1.1, k.1.2, k.2⟩
  · exact ⟨machine c32, by decide +kernel, by decide +kernel, by decide +kernel⟩
  · intro h
    exact ⟨{ State.reset.firn with base := 0x4000, size := 0x10000, opsz := 0x1000 }, by decide +kernel, by decide +kernel, by decide +kernel, by decide +kernel, by decide +kernel, by decide +kernel, by decide +kernel, h⟩

/-- The vendor's signature is free (log 12): where an image must verify, the witness is for any image that does. -/
def image (v : Nat) (major minor : Half) : FirmwareImage := { bytes := [], signature := 0, secVersion := v, major, minor }

theorem witness_PowerAndHeat :
    (∀ j ∈ [(79 : Int), 80], ∃ s : State, s.dev.tripped = true ∧ s.dev.junction = j ∧ s.dev.powerUpSeen = true) ∧
    (∃ s : State, s.dev.powered = true ∧ s.dev.tripped = false) ∧
    (∀ i, imageOk i = true → ∃ (s : State) (b : BootInputs), (∀ r ∈ s.dev.curRecords, recFailed r = false) ∧ b.results.length = 10 ∧ (∀ r ∈ b.results, r.ok = true) ∧
      b.slotA = i ∧ b.microcode = i) ∧
    (∃ s : State, s.dev.powered = true ∧ s.dev.hotGt = some 0 ∧ 0 + 16000000 ≤ s.time.gt ∧ s.dev.coolGt = some 0 ∧ s.dev.hotFirst = some 5) ∧
    (∃ s : State, s.dev.powered = true ∧ 7500 * s.dev.samples.length < s.dev.samples.foldl (· + ·) 0 ∧ s.dev.overGt ≤ s.time.gt ∧ 400 < s.dev.clock) ∧
    (∃ s : State, s.dev.powered = true ∧ s.dev.samples.foldl (· + ·) 0 ≤ 7125 * s.dev.samples.length ∧ s.dev.underGt + 160000 ≤ s.time.gt ∧
      s.dev.clock < s.dev.ceiling) ∧
    (∃ s : State, s.dev.powered = true ∧ 110 < (111 : Int)) ∧
    (∃ s : State, s.dev.samples ≠ [] ∧ (s.time.gt - s.dev.sampleGt) / 64 = 0) ∧ (∃ s : State, ∃ x l, s.dev.samples = x :: l ∧ (s.time.gt - s.dev.sampleGt) / 64 = 1) ∧
    (∃ s : State, s.dev.ready = true ∧ s.dev.heartAt ≤ s.time.gt) ∧ (∃ s : State, s.time.gt < s.dev.heartAt) ∧
    (∃ s : State, s.dev.ready = true ∧ s.dev.updating = none ∧ 3 ≤ s.dev.missed) ∧
    (∀ i : FirmwareImage, imageOk i = true → ∃ s : State, s.dev.ready = true ∧ s.dev.updating = none ∧ i.major = s.dev.major ∧ s.dev.minor.toNat ≤ i.minor.toNat) ∧
    (∃ (s : State) (i : FirmwareImage), s.dev.ready = true ∧ s.dev.updating = none ∧ i.major = s.dev.major ∧ i.minor.toNat < s.dev.minor.toNat) ∧
    (∃ (s : State) (i : FirmwareImage), s.dev.updating = some i ∧ s.quiescent = true ∧ s.failReason false = none) ∧
    (∃ (s : State) (i : FirmwareImage), s.dev.updating = some i ∧ s.quiescent = false) ∧
    (∃ (s : State) (i : FirmwareImage), s.dev.updating = some i ∧ (s.failReason false).isSome) :=
  ⟨fun j _ => ⟨part { dev0 with tripped := true, junction := j, powerUpSeen := true }, rfl, rfl, rfl⟩, ⟨part dev0, rfl, rfl⟩,
   fun i _ => ⟨part dev0, { results := List.replicate 10 ⟨true, 0, 0⟩, slotA := i, slotB := i, microcode := i, badRows := [], peersUp := [] }, (by intro r hr; cases hr), rfl, (by intro r hr; rw [List.eq_of_mem_replicate hr]), rfl, rfl⟩,
   ⟨{ part { dev0 with hotGt := some 0, coolGt := some 0, hotFirst := some 5 } with time := { State.reset.time with gt := 16000000 } }, rfl, rfl, by decide +kernel, rfl, rfl⟩,
   ⟨part { dev0 with samples := [7501], clock := 401 }, rfl, by decide +kernel, by decide +kernel, by decide +kernel⟩,
   ⟨{ part { dev0 with samples := [7125], clock := 1500, ceiling := 1600 } with time := { State.reset.time with gt := 160000 } }, rfl, by decide +kernel, by decide +kernel, by decide +kernel⟩,
   ⟨part dev0, rfl, by decide⟩, ⟨part { dev0 with samples := [1] }, by decide, by decide +kernel⟩,
   ⟨{ part { dev0 with samples := [1] } with time := { State.reset.time with gt := 100 } }, 1, [], rfl, by decide +kernel⟩,
   ⟨part { dev0 with ready := true, heartAt := 0 }, rfl, by decide +kernel⟩, ⟨part { dev0 with heartAt := 1 }, by decide +kernel⟩,
   ⟨part { dev0 with ready := true, missed := 3 }, rfl, rfl, by decide +kernel⟩,
   fun i _ => ⟨part { dev0 with ready := true, major := i.major, minor := i.minor }, rfl, rfl, rfl, Nat.le_refl _⟩,
   ⟨part { dev0 with ready := true, minor := 1, major := 2 }, image 0 2 0, rfl, rfl, rfl, by decide +kernel⟩,
   ⟨part { dev0 with updating := some (image 0 2 0) }, _, rfl, by decide +kernel, by decide +kernel⟩,
   ⟨{ queued { queue with packet := some none } with dev := { dev0 with updating := some (image 0 2 0) } }, _, rfl, by decide +kernel⟩,
   ⟨part { dev0 with ready := true, missed := 3, updating := some (image 0 2 0) }, _, rfl, by decide +kernel⟩⟩

end Sys2Proof.Tests
end

