-- ==== Sys2Proof/Tests/Graph.lean ====
section
/-! SUPPORT. For each statement about launch queues and graphs, a machine and operands that meet its hypotheses. -/
set_option maxRecDepth 20000
set_option Elab.async false
namespace Sys2Proof.Tests
open Sys2Proof.Machine Sys2Proof.Safety

/-- Queue 1023 runs with one packet at 0x5000; its context may have instances in flight. -/
def launching (cells : Memory) (x : Queue) : State :=
  { machine c32 with
    dev := { (machine c32).dev with ready := true }
    mem := { Memories.start with hbm := cells ++ tables }
    tables := { (machine c32).tables with queues := [(1023, x)], contexts := [(1, { entry := { entry with instq := 2 }, killed := false })] } }
def running1 : Queue := { queue with state := 1, tail := 1 }
def packet (t : Byte) : Memory := if t = 1 then [(0x5000, 1), (0x5012, 1), (0x5019, 0x60)] else if t = 0 then [] else [(0x5000, t)]

def taken1 (s : State) (x : Queue) : Bool := s.nextQueue == some 1023 && decide (s.work.takeAt ≤ s.time.gt) && s.queue 1023 == x

def isHead (s : State) (type : Nat) (more : Nat → Bool) : Bool :=
  s.nextQueue == some 1023 && decide (s.work.takeAt ≤ s.time.gt) && (s.queue 1023).waiting.isNone &&
    (s.headPacket (s.queue 1023)).elim false (fun p => pkType p == type && packetOk (s.ctxEntry (s.queue 1023).ctx.toNat) p && more p)

theorem isHead_sound {s : State} {type : Nat} {more : Nat → Bool} (h : isHead s type more = true) : ∃ p, headIs s 1023 type p ∧ more p = true := by
  unfold isHead at h
  simp only [Bool.and_eq_true, beq_iff_eq, decide_eq_true_eq, Option.isNone_iff_eq_none] at h
  obtain ⟨⟨⟨h1, h2⟩, h3⟩, h4⟩ := h
  cases hp : s.headPacket (s.queue 1023) with
  | none => rw [hp] at h4; cases h4
  | some p =>
    rw [hp] at h4
    simp only [Option.elim, Bool.and_eq_true, beq_iff_eq] at h4
    exact ⟨p, ⟨h1, h2, h3, hp, h4.1.1, h4.1.2⟩, h4.2⟩

theorem witness_LaunchQueues :
    (∀ x ∈ [1, 16, 17], ∃ s : State, ∃ b, (s.queue 1023).state = 1 ∧ s.readRange (s.whoOf (s.queue 1023).ctx.toNat) (s.queue 1023).tailaddr 8 = .ok b ∧
      leNat b = x ∧ (s.queue 1023).head.toNat + 2 ^ (s.queue 1023).log2size.toNat = 16) ∧
    (∃ s s1 : State, s.writeRange (s.whoOf (s.queue 1023).ctx.toNat) (s.queue 1023).tailaddr (leBytes 8 1) = .ok s1) ∧
    (∀ t ∈ [0, 2, 4], ∃ s p, headIs s 1023 t p) ∧
    (∃ s p i, headIs s 1023 3 p ∧ counterOf (s.ctxEntry (s.queue 1023).ctx.toNat) (pkField p 8 2) = some i ∧ pkField p 0x10 8 ≤ (s.counter i).value.toNat) ∧
    (∃ s p i, headIs s 1023 3 p ∧ counterOf (s.ctxEntry (s.queue 1023).ctx.toNat) (pkField p 8 2) = some i ∧ (s.counter i).value.toNat < pkField p 0x10 8) ∧
    (∃ s p s1 homes, headIs s 1023 1 p ∧ s.writeRange (s.whoOf (s.queue 1023).ctx.toNat) (BitVec.ofNat 64 (pkField p 0x18 8))
      (List.replicate (areaBytes (pkField p 0x12 2)) 0) = .ok s1 ∧ s.homes (s.whoOf (s.queue 1023).ctx.toNat) .store (BitVec.ofNat 64 (pkField p 0x18 8))
        (areaBytes (pkField p 0x12 2) / 128 + 2) (areaBytes (pkField p 0x12 2)) = .ok homes) ∧
    (∃ s : State, s.nextQueue = some 1023 ∧ s.work.takeAt ≤ s.time.gt ∧ (s.queue 1023).waiting.isSome) ∧ (∃ s : State, (s.queue 1023).packet.isSome) ∧
    (∀ t ∈ [3, 5], ∃ s : State, ∃ p, s.nextQueue = some 1023 ∧ s.work.takeAt ≤ s.time.gt ∧ (s.queue 1023).waiting = none ∧
      s.headPacket (s.queue 1023) = some p ∧ packetOk (s.ctxEntry (s.queue 1023).ctx.toNat) p = false ∧ pkType p = t) := by
  refine ⟨?_, ?_, ?_, ?_, ?_, ?_, ?_, ⟨launching [] { running1 with packet := some none }, rfl⟩, ?_⟩
  · intro x hx
    have g : good (fun b => leNat b == x) ((launching [(0x3040, BitVec.ofNat 8 x)] running1).readRange
        ((launching [(0x3040, BitVec.ofNat 8 x)] running1).whoOf 1) 0x3040 8) = true := by revert x; decide +kernel
    obtain ⟨b, hb, hk⟩ := is_ok _ g
    exact ⟨_, b, rfl, hb, by simpa using hk, rfl⟩
  · obtain ⟨s1, h, _⟩ := is_ok (x := (launching [] running1).writeRange ((launching [] running1).whoOf 1) 0x3040 (leBytes 8 1)) (fun _ => true) (by decide +kernel)
    exact ⟨_, s1, h⟩
  · intro t ht
    obtain ⟨p, hp, _⟩ := isHead_sound (s := launching (packet (BitVec.ofNat 8 t)) running1) (type := t) (more := fun _ => true) (by revert t; decide +kernel)
    exact ⟨_, p, hp⟩
  · obtain ⟨p, hp, hk⟩ := isHead_sound (s := launching (packet 3) running1) (type := 3)
      (more := fun p => decide (counterOf { entry with instq := 2 } (pkField p 8 2) = some 0) && decide (pkField p 0x10 8 ≤ 0)) (by decide +kernel)
    simp only [Bool.and_eq_true, decide_eq_true_eq] at hk
    exact ⟨_, p, 0, hp, hk.1, hk.2⟩
  · obtain ⟨p, hp, hk⟩ := isHead_sound (s := launching (packet 3 ++ [(0x5010, 1)]) running1) (type := 3)
      (more := fun p => decide (counterOf { entry with instq := 2 } (pkField p 8 2) = some 0) && decide (0 < pkField p 0x10 8)) (by decide +kernel)
    simp only [Bool.and_eq_true, decide_eq_true_eq] at hk
    exact ⟨_, p, 0, hp, hk.1, hk.2⟩
  · obtain ⟨p, hp, hk⟩ := isHead_sound (s := launching (packet 1) running1) (type := 1)
      (more := fun p => good (fun _ => true) ((launching (packet 1) running1).writeRange ((launching (packet 1) running1).whoOf 1)
        (BitVec.ofNat 64 (pkField p 0x18 8)) (List.replicate (areaBytes (pkField p 0x12 2)) 0)) && good (fun _ => true)
        ((launching (packet 1) running1).homes ((launching (packet 1) running1).whoOf 1) .store (BitVec.ofNat 64 (pkField p 0x18 8))
          (areaBytes (pkField p 0x12 2) / 128 + 2) (areaBytes (pkField p 0x12 2)))) (by decide +kernel)
    simp only [Bool.and_eq_true] at hk
    obtain ⟨s1, hs, _⟩ := is_ok _ hk.1
    obtain ⟨l, hl, _⟩ := is_ok _ hk.2
    exact ⟨_, p, s1, l, hp, hs, hl⟩
  · let x : Queue := { running1 with waiting := some (0, 0) }
    have h1 : taken1 (launching (packet 3) x) x = true := by decide +kernel
    simp only [taken1, Bool.and_eq_true, beq_iff_eq, decide_eq_true_eq] at h1
    exact ⟨_, h1.1.1, h1.1.2, rfl⟩
  · intro t ht
    have ht : t = 3 ∨ t = 5 := by simpa using ht
    have h : taken1 (launching (if t = 3 then [(0x5000, 3), (0x5008, 16)] else [(0x5000, 5)]) running1) running1 = true ∧
        ((launching (if t = 3 then [(0x5000, 3), (0x5008, 16)] else [(0x5000, 5)]) running1).headPacket running1).elim false
        (fun p => !packetOk { entry with instq := 2 } p && pkType p == t) = true := by rcases ht with rfl | rfl <;> decide +kernel
    obtain ⟨h1, h2⟩ := h
    simp only [taken1, Bool.and_eq_true, beq_iff_eq, decide_eq_true_eq] at h1
    cases hp : (launching (if t = 3 then [(0x5000, 3), (0x5008, 16)] else [(0x5000, 5)]) running1).headPacket running1 with
    | none => rw [hp] at h2; cases h2
    | some p =>
      rw [hp] at h2
      simp only [Option.elim, Bool.and_eq_true, Bool.not_eq_true', beq_iff_eq] at h2
      exact ⟨_, p, h1.1.1, h1.1.2, rfl, hp, h2.1, h2.2⟩

/-- Instance 20 over two nodes at 0x5000, node 0 ready. -/
def instance1 : GraphRun :=
  { queue := 1023, ctx := 1, entry, gbase := 0x5000, first := 0, nnodes := 2, area := 0x7000, areaAt := [], donesig := 0, doneaddr := 0, cause := 5, parent := 0,
    counts := [], ordinary := [0], ready := [0], running := [], loops := [], backs := [], early := [], ended := false, failed := false }
def walking (cells : Memory) (g : GraphRun) : State :=
  { machine c32 with mem := { Memories.start with hbm := cells ++ tables }, work := { (machine c32).work with runs := [(20, g)] } }
def nodeCells (t : Nat) : Memory :=
  if t = 1 then [(0x5000, 1), (0x5011, 0x60), (0x6001, 0x10), (0x6010, 0x11), (0x6011, 0x52), (0x6015, 0x0C), (0x6018, 1), (0x601C, 1), (0x6020, 1), (0x6061, 4)]
  else if t = 2 then [(0x5000, 2), (0x5011, 0x30), (0x5019, 0x40), (0x5020, 0x20)]
  else if t = 3 then descCells ++ [(0x5000, 3), (0x5011, 0x30)]
  else if t = 6 then [(0x5000, 6), (0x502C, 1), (0x5030, 1), (0x5032, 1), (0x5034, 1), (0x5042, 1)]
  else if t = 5 ∨ t = 9 then [(0x5000, BitVec.ofNat 8 (t % 9 + (if t = 9 then 7 else 0))), (0x5011, 0x30)]
  else [(0x5000, BitVec.ofNat 8 t)]

def isNode (s : State) (type : Nat) (more : BitVec 512 → Bool) : Bool :=
  match s.readNode instance1 0 with
  | none => false
  | some b => s.run? 20 == some instance1 && ndType b == type && (started s 20 instance1 0 [] b).2.nodeOk instance1 b && more b

theorem isNode_sound {s : State} {type : Nat} {more : BitVec 512 → Bool} (h : isNode s type more = true) :
    ∃ b, nodeIs s 20 type instance1 0 [] b ∧ more b = true := by
  unfold isNode at h
  cases hb : s.readNode instance1 0 with
  | none => rw [hb] at h; cases h
  | some b =>
    rw [hb] at h
    simp only [Bool.and_eq_true, beq_iff_eq] at h
    exact ⟨b, ⟨h.1.1.1, rfl, rfl, hb, h.1.1.2, rfl, List.mem_singleton.2 rfl, h.1.2⟩, h.2⟩

def after1 (s : State) (b : BitVec 512) : State := (started s 20 instance1 0 [] b).2

/-- A loop whose body is node 1 alone. -/
def bodyLoop : LoopRun := { trips := 1, cause := 1, bits := BitVec.ofNat 512 (2 ^ 384 + 2 ^ 400 + 2 ^ 416) }

/-- R41: a body node that names its loop and then a node outside the body makes the loop fail; the loop does not evaluate again. -/
theorem test_loop_broken :
    (((walking [] { instance1 with nnodes := 4, ready := [], loops := [(0, bodyLoop)] }).arrivals 20 1 [(0, true), (2, true)]).run? 20).elim
      false (fun g => g.ready == [] && g.loops == [] && g.counts == []) = true := by decide +kernel

theorem witness_GraphNodes :
    (∀ t ∈ [4, 8, 6, 2], ∃ s b, nodeIs s 20 t instance1 0 [] b) ∧
    (∃ s b, nodeIs s 20 7 instance1 0 [] b ∧ ndWord b 0x10 = 0) ∧
    (∃ s b u1, nodeIs s 20 7 instance1 0 [] b ∧ ndWord b 0x10 ≠ 0 ∧ (ndWord b 0x10).toNat % 8 = 0 ∧ spaceOf (ndWord b 0x10) = 0 ∧
      (started s 20 instance1 0 [] b).2.writeRange (graphWho instance1) (ndWord b 0x10) (leBytes 8 (ndField b 0x18 8)) = .ok u1) ∧
    (∃ s b r, nodeIs s 20 5 instance1 0 [] b ∧ (started s 20 instance1 0 [] b).2.condTest instance1 b = some r) ∧
    (∃ s b l, nodeIs s 20 3 instance1 0 [] b ∧ (ndWord b 0x10).toNat % 64 = 0 ∧ spaceOf (ndWord b 0x10) = 0 ∧
      (started s 20 instance1 0 [] b).2.readRange (graphWho instance1) (ndWord b 0x10) 128 = .ok l ∧
      (started s 20 instance1 0 [] b).2.descOk (BitVec.ofNat 1024 (leNat l)) = true ∧
      (started s 20 instance1 0 [] b).2.joinTaken none (BitVec.ofNat 1024 (leNat l)) = false) ∧
    (∃ s b h, nodeIs s 20 1 instance1 0 [] b ∧ (started s 20 instance1 0 [] b).2.readHeader instance1 (ndWord b 0x10) = some h ∧ h.place ≠ 1) ∧
    (∃ (s : State) (x : LoopRun) (g : GraphRun), s.run? 20 = some g ∧ g.ready = [0] ∧ kget g.loops 0 = some x ∧ g.ended = false) ∧
    (∀ st ∈ [0, 1, 3, 16], ∃ (s : State) (g : GraphRun) (n : NodeRun), s.run? 20 = some g ∧
      g.running.find? (fun x => x.node == n.node && x.status.isSome) = some n ∧ n.status = some (BitVec.ofNat 8 st)) ∧
    (∃ s : State, ∃ b, s.run? 20 = some instance1 ∧ 1 < instance1.nnodes ∧
      [(7, bodyLoop)].all (fun (j, x) => !inBody x 0 || j == 1 || inBody x 1) ∧ s.backOf instance1 0 1 = none ∧
      (s.putCount 20 1 ((kget instance1.counts 1).getD 0 + 1)).readNode instance1 1 = some b) ∧
    (∃ s : State, ∃ v g, s.launch? 0 = some v ∧ v.late = false ∧ v.hdr.deadline ≠ 0 ∧ v.hdr.deadline.toNat ≤ s.time.gt ∧ s.run? v.run = some g) := by
  refine ⟨?_, ?_, ?_, ?_, ?_, ?_, ?_, ?_, ?_, ?_⟩
  · intro t ht
    obtain ⟨b, hb, _⟩ := isNode_sound (s := walking (nodeCells t) instance1) (type := t) (more := fun _ => true) (by revert t; decide +kernel)
    exact ⟨_, b, hb⟩
  · obtain ⟨b, hb, k⟩ := isNode_sound (s := walking (nodeCells 7) instance1) (type := 7) (more := fun b => ndWord b 0x10 == 0) (by decide +kernel)
    exact ⟨_, b, hb, by simpa using k⟩
  · obtain ⟨b, hb, k⟩ := isNode_sound (s := walking (nodeCells 9) instance1) (type := 7)
      (more := fun b => decide (ndWord b 0x10 ≠ 0) && decide ((ndWord b 0x10).toNat % 8 = 0) && decide (spaceOf (ndWord b 0x10) = 0) &&
        good (fun _ => true) ((after1 (walking (nodeCells 9) instance1) b).writeRange (graphWho instance1) (ndWord b 0x10) (leBytes 8 (ndField b 0x18 8))))
      (by decide +kernel)
    simp only [Bool.and_eq_true, decide_eq_true_eq] at k
    obtain ⟨u1, hu, _⟩ := is_ok _ k.2
    exact ⟨_, b, u1, hb, k.1.1.1, k.1.1.2, k.1.2, hu⟩
  · obtain ⟨b, hb, k⟩ := isNode_sound (s := walking (nodeCells 5) instance1) (type := 5)
      (more := fun b => ((after1 (walking (nodeCells 5) instance1) b).condTest instance1 b).isSome) (by decide +kernel)
    obtain ⟨r, hr⟩ := is_some k
    exact ⟨_, b, r, hb, hr⟩
  · obtain ⟨b, hb, k⟩ := isNode_sound (s := walking (nodeCells 3) instance1) (type := 3)
      (more := fun b => decide ((ndWord b 0x10).toNat % 64 = 0) && decide (spaceOf (ndWord b 0x10) = 0) && good (fun l =>
        (after1 (walking (nodeCells 3) instance1) b).descOk (BitVec.ofNat 1024 (leNat l)) &&
          !(after1 (walking (nodeCells 3) instance1) b).joinTaken none (BitVec.ofNat 1024 (leNat l)))
        ((after1 (walking (nodeCells 3) instance1) b).readRange (graphWho instance1) (ndWord b 0x10) 128)) (by decide +kernel)
    simp only [Bool.and_eq_true, decide_eq_true_eq] at k
    obtain ⟨l, hl, k2⟩ := is_ok _ k.2
    simp only [Bool.and_eq_true, Bool.not_eq_true'] at k2
    exact ⟨_, b, l, hb, k.1.1, k.1.2, hl, k2.1, k2.2⟩
  · obtain ⟨b, hb, k⟩ := isNode_sound (s := walking (nodeCells 1) instance1) (type := 1)
      (more := fun b => ((after1 (walking (nodeCells 1) instance1) b).readHeader instance1 (ndWord b 0x10)).elim false (fun h => h.place != 1)) (by decide +kernel)
    cases hh : (after1 (walking (nodeCells 1) instance1) b).readHeader instance1 (ndWord b 0x10) with
    | none => rw [hh] at k; cases k
    | some h => rw [hh] at k; exact ⟨_, b, h, hb, hh, by simpa using k⟩
  · exact ⟨walking [] { instance1 with loops := [(0, { trips := 0, cause := 1, bits := 0 })] }, _, _, rfl, rfl, rfl, rfl⟩
  · intro st _
    let n : NodeRun := { node := 0, cause := 1, bits := 0, held := false, status := some (BitVec.ofNat 8 st), op := none }
    exact ⟨walking [] { instance1 with running := [n] }, _, n, rfl, rfl, rfl⟩
  · have h : (((walking (nodeCells 4) instance1).putCount 20 1 1).readNode instance1 1).isSome = true := by decide +kernel
    obtain ⟨b, hb⟩ := is_some h
    exact ⟨walking (nodeCells 4) instance1, b, rfl, by decide, by decide +kernel, by decide +kernel, hb⟩
  · exact ⟨{ walking [] instance1 with work := { (walking [] instance1).work with launches := [(0, { launch with run := 20, hdr := { header with deadline := 1 } })] }, time := { (machine c32).time with gt := 5 } }, _, _, rfl, rfl, by decide, by decide, rfl⟩

end Sys2Proof.Tests
end

