-- ==== Sys2Proof/Tests/Placement.lean ====
section
/-! SUPPORT. For each statement about placement, a machine and operands that meet its hypotheses. -/
set_option maxRecDepth 20000
set_option Elab.async false
namespace Sys2Proof.Tests
open Sys2Proof.Machine Sys2Proof.Safety

/-- A launch that casts on, or is affine, of a class. -/
def placing (caston : Bool) (pclass : Nat) : Launch :=
  { launch with hdr := { header with shape := header.shape + BitVec.ofNat 64 ((if caston then 2 ^ 56 else 0) + pclass * 2 ^ 58) } }
def waitingSkein : Skein := { loadSkein with phase := .queued, cores := [], granules := [] }
/-- Its one skein waits, with the agents of a list under way, at gt 4000000. -/
def placed (v : Launch) (k : Skein) (l : List Agent) : State :=
  { State.reset with
    mem := { Memories.start with hbm := tables }
    tables := { State.reset.tables with contexts := [(1, { entry, killed := false })] }
    work := { WorkState.start with launches := [(0, v)], skeins := [(0, k)], nextId := 10, head := some 0, agents := l }
    time := { State.reset.time with gt := 4000000 } }
def fenced (v : Launch) : Launch := { v with entry := { v.entry with fgroup := 5 } }
def agentOf (n : Nat) (x : Attempt) : Agent := { agent := n, skein := 0, state := x }

theorem witness_Reservations :
    (∀ f ∈ [false, true], ∃ s : State, ∃ k v, s.agentIn 3 (fun x => match x with | .releasing _ _ => false | _ => true) = none ∧
      s.work.agentFree[3]?.getD 0 ≤ s.time.gt ∧ (s.takeable true).find? (fun x => decide (x.2.nextTry ≤ s.time.gt)) = some (0, k) ∧ s.skein? 0 = some k ∧
      s.skeinLaunch k = some v ∧ (s.castonChoice 0 v).isSome = !f) ∧
    (∀ f ∈ [false, true], ∃ s : State, ∃ k v, s.work.agentFree[4] ≤ s.time.gt ∧
      (s.takeable false).find? (fun x => decide (x.2.nextTry ≤ s.time.gt)) = some (0, k) ∧ s.skein? 0 = some k ∧
      s.skeinLaunch k = some v ∧ (s.affineChoice 0 v (s.affinity k.launch v).1).isSome = !f) ∧
    (∃ s : State, ∃ a k v, s.agentIn 0 (fun x => match x with | .sent _ => true | _ => false) = some a ∧ a.state = .sent 5 ∧ s.skein? a.skein = some k ∧
      s.skeinLaunch k = some v ∧ ∃ c ∈ v.hdr.rect 5, s.reserved c = true) ∧
    (∃ s : State, ∃ a k v, s.agentIn 0 (fun x => match x with | .sent _ => true | _ => false) = some a ∧ a.state = .sent 5 ∧ s.skein? a.skein = some k ∧
      s.skeinLaunch k = some v ∧ (∀ c ∈ v.hdr.rect 5, s.reserved c = false) ∧ ∀ x ∈ (v.hdr.rect 5).zipIdx, s.accepts a.skein v x.1 x.2 [] = true) ∧
    (∃ s : State, ∃ a k v, s.agentIn 0 (fun x => match x with | .sent _ => true | _ => false) = some a ∧ a.state = .sent 5 ∧ s.skein? a.skein = some k ∧
      s.skeinLaunch k = some v ∧ ∃ x ∈ (v.hdr.rect 5).zipIdx, s.accepts a.skein v x.1 x.2 [] = false) ∧
    (∀ f ∈ [false, true], ∃ s : State, ∃ a k v, s.agentIn 0 (fun x => match x with | .granted _ _ | .denied _ => true | _ => false) = some a ∧
      s.skein? a.skein = some k ∧ s.skeinLaunch k = some v ∧ a.state = .granted 5 0 ∧ v.hdr.place = 1 ∧
      (if f then v.entry.gang.toNat < s.gangUsage v.ctx + v.hdr.members else s.gangUsage v.ctx + v.hdr.members ≤ v.entry.gang.toNat)) ∧
    (∀ n ∈ [0, 4], ∃ s : State, ∃ a k v, s.agentIn n (fun x => match x with | .granted _ _ | .denied _ => true | _ => false) = some a ∧
      s.skein? a.skein = some k ∧ s.skeinLaunch k = some v ∧ a.state = .denied 5 ∧ a.agent = n) ∧
    (∃ s : State, ∃ a, s.agentIn 0 (fun x => match x with | .releasing _ _ => true | _ => false) = some a) ∧
    (∀ x ∈ [Attempt.granted 5 0, .committing 5 0, .releasing 5 0], ∃ s : State, ∃ a k, s.agentIn 0 (fun x => match x with
      | .granted _ t | .committing _ t | .releasing _ t => decide (t + 640 ≤ s.time.gt) | _ => false) = some a ∧ s.skein? a.skein = some k ∧ a.state = x) := by
  refine ⟨?_, ?_, ?_, ?_, ?_, ?_, ?_, ?_, ?_⟩
  · intro f hf
    exact ⟨placed (if f then fenced (placing true 0) else placing true 0) waitingSkein [], waitingSkein, _, rfl, by revert f; decide +kernel,
      by revert f; decide +kernel, rfl, rfl, by revert f; decide +kernel⟩
  · intro f hf
    exact ⟨placed (if f then fenced (placing false 0) else placing false 0) waitingSkein [], waitingSkein, _, by revert f; decide +kernel, by revert f; decide +kernel, rfl, rfl,
      by revert f; decide +kernel⟩
  · exact ⟨placed (placing true 0) waitingSkein [agentOf 0 (.sent 5), agentOf 1 (.granted 5 0)], agentOf 0 (.sent 5), waitingSkein, _, by decide +kernel, rfl, rfl, rfl,
      5, by decide +kernel, by decide +kernel⟩
  · exact ⟨placed (placing true 0) waitingSkein [agentOf 0 (.sent 5)], agentOf 0 (.sent 5), waitingSkein, _, by decide +kernel, rfl, rfl, rfl,
      by decide +kernel, by decide +kernel⟩
  · exact ⟨placed (fenced (placing true 0)) waitingSkein [agentOf 0 (.sent 5)], agentOf 0 (.sent 5), waitingSkein, _, by decide +kernel, rfl, rfl, rfl,
      by decide +kernel⟩
  · intro f hf
    let v := if f then { placing true 0 with entry := { entry with gang := 0 } } else placing true 0
    exact ⟨placed v waitingSkein [agentOf 0 (.granted 5 0)], agentOf 0 (.granted 5 0), waitingSkein, v, rfl, rfl, rfl, rfl,
      by revert f; decide +kernel, by revert f; decide +kernel⟩
  · intro n hn
    exact ⟨placed (placing (n == 0) 0) waitingSkein [agentOf n (.denied 5)], agentOf n (.denied 5), waitingSkein, _, by revert n; decide +kernel, rfl, rfl, rfl, rfl⟩
  · exact ⟨placed (placing true 0) waitingSkein [agentOf 0 (.releasing 5 0)], _, rfl⟩
  · intro x hx
    have hx : x = .granted 5 0 ∨ x = .committing 5 0 ∨ x = .releasing 5 0 := by simpa using hx
    exact ⟨placed (placing true 0) waitingSkein [agentOf 0 x], agentOf 0 x, waitingSkein, by rcases hx with rfl | rfl | rfl <;> decide +kernel, rfl, rfl⟩

/-- A context with a save pool of slots of 1 MiB from 0x100000 bytes into its page. -/
def pooled : ContextEntry := { entry with trapvec := 0x4000 }
def poolCells : Memory := [(0x401E, 0x10), (0x4022, 0x10), (0x4028, 2)]
/-- A blocked head of a class waits in front of a resident skein of class 0. -/
def pressed (pclass : Nat) : State :=
  { machine c32 with
    mem := { Memories.start with hbm := poolCells ++ tables }
    tables := { State.reset.tables with contexts := [(1, { entry := pooled, killed := false })] }
    work := { WorkState.start with
      launches := [(0, { launch with entry := pooled }), (1, placing true pclass)], skeins := [(0, loadSkein), (1, { waitingSkein with launch := 1, blocked := true })],
      nextId := 10, head := some 1 }
    time := { State.reset.time with gt := 4000000 } }
/-- The one skein is placed and holds some tiles, with nothing running. -/
def emptied (dir : List DirEntry) (cells : Memory) : State :=
  { machine c32 with panels := [], courses := [], mem := { Memories.start with hbm := cells ++ tables }, async := { (machine c32).async with dir } }
/-- The skein is being saved; its launch has an empty shape, so that its image is two parts of 256 bytes. -/
def leaving : State :=
  { machine c32 with
    work := { (machine c32).work with
      launches := [(0, { launch with hdr := { header with shape := 0 } })], skeins := [(0, { loadSkein with phase := .saving, saveBase := 0x300000 })] } }

theorem witness_SkeinLives :
    (∃ s : State, ∃ a k v, s.doClaims.agentIn 0 (fun x => match x with
      | .committing _ t => decide (t + 80 ≤ s.doClaims.time.gt) | .lapsed _ => true | _ => false) = some a ∧ a.state = .committing 5 0 ∧
      s.doClaims.skein? a.skein = some k ∧ s.doClaims.skeinLaunch k = some v) ∧
    (∃ s : State, ∃ a k v, s.skein? a.skein = some k ∧ k.phase = .queued ∧ v.attached = false ∧ v.hdr.scols ≤ 4 ∧
      (∀ x ∈ (v.hdr.rect 5).zipIdx, s.hasRoom v x.1 x.2 [] = true) ∧ (∀ x ∈ s.work.skeins, x.2.claims = []) ∧
      (∀ c, ∀ x ∈ (s.core c).granules, match x.2 with | .held _ => True | .saved _ _ _ => False) ∧ (a : Agent).agent = 0) ∧
    (∀ b ∈ [false, true], ∃ s : State, ∃ k v o, s.headSkein = some (0, k, v) ∧ s.work.headAt + 1600000 ≤ s.time.gt ∧
      (∀ d ∈ s.work.drains, d.preempt = true ∧ d.skein ≠ 0) ∧ s.drainChoice k.launch v = some o ∧ (v.hdr.place == 1) = b) ∧
    (∀ n ∈ [2, 3], ∃ s : State, ∃ k v o l, s.headSkein = some (1, k, v) ∧ k.blocked = true ∧
      (if n = 3 then 3 ≤ v.hdr.pclass else v.hdr.pclass = 2 ∧ s.work.headAt + 160000 ≤ s.time.gt) ∧ (∀ d ∈ s.work.drains, d.skein ≠ 1 ∨ d.preempt = false) ∧
      s.preemptChoice 1 v = some (o, l) ∧ (l.map (·.1)).Nodup) ∧
    (∃ s : State, ∃ k v s1, s.skein? 0 = some k ∧ s.skeinLaunch k = some v ∧ k.phase = .saving ∧ s.savesLater 0 = false ∧
      (kkeys s.courses).Nodup ∧ (s.settleSkein 0).writeParts 0 v.hdr (imgParts v.hdr) = .ok s1) ∧
    (∃ s : State, ∃ c, s.course? 0 0 = some c ∧ c.fr0 = [] ∧ c.fr1 = [] ∧ c.fr2 = [] ∧ ∀ x ∈ c.strands.toList, x.pending = []) ∧
    (∀ b ∈ [false, true], ∃ s : State, ∃ k, s.skein? 0 = some k ∧ k.phase = .placed ∧ s.skeinPanels 0 = [] ∧ s.skeinCourses 0 = [] ∧
      (∀ x ∈ s.async.ops, x.2.holdsSkein 0 = false) ∧ (s.skeinTiles 0).isEmpty = b) := by
  refine ⟨?_, ?_, ?_, ?_, ?_, ?_, ?_⟩
  · exact ⟨placed (placing true 0) waitingSkein [agentOf 0 (.committing 5 0)], agentOf 0 (.committing 5 0), waitingSkein, _, by decide +kernel, rfl, rfl, rfl⟩
  · exact ⟨placed (placing true 0) waitingSkein [], agentOf 0 .holding, waitingSkein, placing true 0, rfl, rfl, rfl, by decide +kernel, by decide +kernel,
      by decide +kernel, fun c x hx => (nomatch hx), rfl⟩
  · intro b hb
    have h : (placed (placing b 0) waitingSkein []).drainChoice 0 (placing b 0) = some 0 ∧ ((placing b 0).hdr.place == 1) = b := by revert b; decide +kernel
    exact ⟨placed (placing b 0) waitingSkein [], waitingSkein, placing b 0, 0, rfl, by show 0 + 1600000 ≤ 4000000; decide, fun d hd => (nomatch hd), h.1, h.2⟩
  · intro n hn
    have h : (pressed n).preemptChoice 1 (placing true n) = some (0, [(0, 0, 0x100000)]) ∧
        (if n = 3 then 3 ≤ (placing true n).hdr.pclass else (placing true n).hdr.pclass = 2 ∧ (pressed n).work.headAt + 160000 ≤ (pressed n).time.gt) := by
      revert n; decide +kernel
    exact ⟨pressed n, _, placing true n, 0, [(0, 0, 0x100000)], rfl, rfl, h.2, fun d hd => (nomatch hd), h.1, by decide⟩
  · obtain ⟨s1, h, _⟩ := is_ok (x := (leaving.settleSkein 0).writeParts 0 { header with shape := 0 } (imgParts { header with shape := 0 })) (fun _ => true)
      (by decide +kernel)
    exact ⟨leaving, _, _, s1, rfl, rfl, rfl, by decide +kernel, by decide +kernel, h⟩
  · exact ⟨machine { c32 with fr0 := [] }, { c32 with fr0 := [] }, rfl, rfl, rfl, rfl, by decide +kernel⟩
  · intro b hb
    let d : DirEntry := { launch := 0, skein := some 0, tile := 1, home := [(0, ⟨.hbm, 0x20000⟩, 64)], evicting := false, base := 0, inAt := 0, inDur := 0 }
    exact ⟨emptied (if b then [] else [d]) (tile 1 2 5 0 0), _, rfl, rfl, rfl, rfl, fun x hx => (nomatch hx), by revert b; decide +kernel⟩

end Sys2Proof.Tests
end

