-- ==== Sys2Proof/Tests/Part.lean ====
section
/-! SUPPORT. For each statement about what happens around issue and about transfers, a machine and operands that meet its hypotheses. -/
set_option maxRecDepth 20000
set_option Elab.async false
namespace Sys2Proof.Tests
open Sys2Proof.Machine Sys2Proof.Safety

def cached (c : Course) : State :=
  { machine c with cores := [(0, { Core.zero with icache := [icMark 1 0x3000 0], granules := [(0, .held 0), (1, .held 0)] })] }
/-- Breakpoint 3 stands at the course's PC; the skein is attached or not. -/
def breaking (attached : Bool) : Course × State :=
  let c : Course := { c32 with bps := (Vector.replicate 4 0).set 3 (BitVec.ofNat 64 (0x1000 + 8)), fr0 := [Entry.fresh 0x1000 0 3 false] }
  (c, { machine c with work := { (machine c).work with skeins := [(0, { loadSkein with attached })] } })
def parkedAt (w : FaultWho) (due : Bool) : Parked :=
  { who := w, ctx := 1, cause := 5, parent := 0, addr := 0x9000, detail := 1, core := 0, slot := 0, issuer := 0, lines := [], tried := 0, due, again := false }
/-- One operation and one parked fault. -/
def transferring (cells : Memory) (o : Option Op) (w : FaultWho) (due : Bool) : State :=
  { tiling cMem with
    mem := { Memories.start with hbm := cells ++ (tiling cMem).mem.hbm }
    async := { (tiling cMem).async with ops := (o.map (fun o => (7, o))).toList, faults := [(8, parkedAt w due)] }
    time := { State.reset.time with gt := 16000000 } }
def sampling (n : Nat) : State :=
  { machine c32 with
    work := { (machine c32).work with launches := [(0, { launch with hdr := { header with trctl := BitVec.ofNat 32 n } })] }
    time := { State.reset.time with gt := 1000000 } }
def transfer (k : OpKind) (cursor : Nat) : Op :=
  { kind := k, ctx := 1, launch := some 0, skein := some 0, issuer := .course 0 0 0, core := 0, cause := 6, parent := 0, signal := none, cursor, started := 0,
    moved := 32 * cursor, doneAt := 0, waiting := false, fault := none }

theorem witness_AroundIssue :
    (∃ s : State, ∃ l bits, let w : Who := { s.whoOf 1 with core := 0 }
      s.home w .exec 0x3000 = .ok l ∧ s.icFind 0 1 0x3000 = none ∧ s.fillRead w 0x3000 = .ok bits) ∧
    (∃ s : State, ∃ y bits, s.icFind 0 1 0x3000 = some y ∧ s.lineRead { s.whoOf 1 with core := 0 } 0x3000 = .ok bits) ∧
    (∀ b : Bool, ∃ s : State, ∃ c E, s.course? 0 0 = some c ∧ headEntry c.front = some E ∧ E.wait = .none ∧ c.passAt ≠ some E.pc ∧
      (let hits (i : Fin 4) : Prop := c.bps[i].getLsbD 3 = true ∧ bitsOf c.bps[i].toNat 55 6 = bitsOf E.pc.toNat 55 6 ∧
        bitsOf c.bps[i].toNat 2 0 = bitsOf E.pc.toNat 2 0
       hits 3 ∧ ∀ j < 3, ¬ hits j) ∧ s.attachedTo c.skein = b) ∧
    (∃ s : State, ∃ c E, s.course? 0 0 = some c ∧ headEntry c.front = some E ∧ E.wait = .none ∧ c.sstep = true ∧ c.level = 0 ∧ c.stepFree = false) ∧
    (∃ s : State, ∃ c, s.course? 0 0 = some c ∧ c.fr0 ≠ []) ∧
    (∀ b : Bool, ∃ s : State, ∃ p c, kget s.async.faults 8 = some p ∧ p.again = false ∧ (p.due = true ∨ p.tried + 16000000 ≤ s.time.gt) ∧ p.due = b ∧
      p.who = .course 0 0 0x1000 ∧ s.course? 0 0 = some c) ∧
    (∃ s : State, ∃ p q, kget s.async.faults 8 = some p ∧ p.again = false ∧ p.due = true ∧ p.who = .stream 0 0 ∧ s.panel? 0 0 = some q) ∧
    (∃ s : State, ∃ p o, kget s.async.faults 8 = some p ∧ p.again = false ∧ p.due = true ∧ p.who = .op 7 ∧ s.op? 7 = some o) ∧
    (∀ n ∈ [0, 1], ∃ s : State, ∃ v, s.work.launches = [(0, v)] ∧ bitsOf v.hdr.trctl.toNat 15 0 = n ∧
      (n ≠ 0 → (kget v.sampled 0).getD 0 < s.time.gt / (n * 64 * s.clockGt) ∧ ∃ c, (s.partCourses 0 0 0)[s.time.gt / (n * 64 * s.clockGt) % (s.partCourses 0 0 0).length]? = some (0, c))) := by
  refine ⟨?_, ?_, ?_, ?_, ?_, ?_, ?_, ?_, ?_⟩
  · obtain ⟨l, h, k⟩ := is_ok (x := (machine c32).home { (machine c32).whoOf 1 with core := 0 } .exec 0x3000)
      (fun _ => good (fun _ => true) ((machine c32).fillRead { (machine c32).whoOf 1 with core := 0 } 0x3000)) (by decide +kernel)
    obtain ⟨bits, k, _⟩ := is_ok _ k
    exact ⟨machine c32, l, bits, h, rfl, k⟩
  · obtain ⟨bits, k, _⟩ := is_ok (x := (cached c32).lineRead { (cached c32).whoOf 1 with core := 0 } 0x3000) (fun _ => true) (by decide +kernel)
    exact ⟨cached c32, icMark 1 0x3000 0, bits, by decide +kernel, k⟩
  · intro b
    exact ⟨(breaking b).2, (breaking b).1, Entry.fresh 0x1000 0 3 false, rfl, by cases b <;> decide, rfl, by cases b <;> decide,
      by cases b <;> decide +kernel, by cases b <;> rfl⟩
  · exact ⟨machine { c32 with sstep := true, fr0 := [Entry.fresh 0x1000 0 3 false] }, _, Entry.fresh 0x1000 0 3 false, rfl, by decide, rfl, rfl, rfl, rfl⟩
  · exact ⟨machine c32, c32, rfl, by decide⟩
  · intro b
    exact ⟨transferring [] none (.course 0 0 0x1000) b, _, cMem, rfl, rfl, .inr (by show 0 + 16000000 ≤ 16000000; decide), rfl, rfl, rfl⟩
  · exact ⟨transferring [] none (.stream 0 0) true, _, _, rfl, rfl, rfl, rfl, rfl⟩
  · exact ⟨transferring [] (some (transfer (.copy 0x3000 0x4000 64 0) 0)) (.op 7) true, _, _, rfl, rfl, rfl, rfl, rfl⟩
  · intro n hn
    have hn : n = 0 ∨ n = 1 := by simpa using hn
    rcases hn with rfl | rfl
    · exact ⟨sampling 0, _, rfl, by decide, fun h => absurd rfl h⟩
    · exact ⟨sampling 1, _, rfl, by decide, fun _ => ⟨by decide +kernel, c32, by decide +kernel⟩⟩

/-- The indices of a statement about soft errors: a course with an entry, and queue numbers. -/
theorem witness_SramErrors : (∃ s : State, ∃ c E, s.course? 0 0 = some c ∧ headEntry c.front = some E ∧ (15 : Nat) < 16) ∧ (1023 : Nat) < 1024 ∧ (4 : Nat) ≤ 4 ∧
    ∀ b : Bool, ∃ s : State, s.firn.enabled = b :=
  ⟨⟨machine { c32 with fr0 := [Entry.fresh 0x1000 0 3 false] }, _, Entry.fresh 0x1000 0 3 false, rfl, by decide, by decide⟩, by decide, by decide,
    fun b => ⟨{ machine c32 with firn := { State.reset.firn with enabled := b } }, rfl⟩⟩

/-- Operation 7 in the machine of three tiles. -/
def moving (k : OpKind) (cursor : Nat) : State := transferring [] (some (transfer k cursor)) (.op 9) true
def kind4 : Nat → OpKind
  | 0 => .evict 1 5 64 false
  | 1 => .fetch 0 0 0 5 0xE000000000000000 64 0 false
  | 2 => .move 0 1 false false 0
  | _ => .snap 0 0x6000 64 true
def copied (a : Word) : OpKind := .copy a 0x4000 64 0

theorem witness_TransferSteps :
    (∀ n ∈ [0, 1], ∃ s : State, ∃ o b l z, s.op? 7 = some o ∧ o.kind = .copy 0x3000 0x4000 64 0 ∧ o.fault = none ∧ o.cursor = n ∧ 32 * o.cursor + 32 ≤ 64 ∧
      Unwatched s ∧ s.engineRead (some 7) (s.opWho o) o.core (0x3000 + BitVec.ofNat 64 (32 * o.cursor)) 32 = .ok (b, l) ∧
      s.home (s.opWho o) .store (0x4000 + BitVec.ofNat 64 (32 * o.cursor)) = .ok z ∧
      s.routeAt o.core true (0x4000 + BitVec.ofNat 64 (32 * o.cursor)) z 32 = .ok (.plain z 32) ∧ s.lineTo 7 z = .ok ()) ∧
    (∀ n ∈ [0, 1, 2, 3], ∃ s : State, ∃ o s1, s.op? 7 = some o ∧ o.kind = kind4 n ∧ o.fault = none ∧ o.cursor < s.opSectors o ∧ s.nextSector 7 o = .ok s1 ∧
      s1.op? 7 = some o) ∧
    (∃ s : State, ∃ o e a, s.op? 7 = some o ∧ o.kind = .copy 0x4000000000 0x4000 64 0 ∧ o.fault = none ∧ 32 * o.cursor + 32 ≤ 64 ∧
      s.nextSector 7 o = .error (.fault e a) ∧ ∀ p ∈ s.async.faults, p.2.who ≠ .op 7) ∧
    (∀ n ∈ [0, 1, 2], ∃ s : State, ∃ o v, s.op? 7 = some o ∧ o.kind = kind4 n ∧ s.opMoved o = true ∧ 7 < s.work.nextId ∧ o.launch = some 0 ∧ o.skein = some 0 ∧
      s.launch? 0 = some v ∧ v.hdr.trctl.getLsbD 16 = false ∧ v.bound < v.hdr.e3 * v.hdr.e4 * v.hdr.e5 ∧ s.isSaved 0 = false ∧ (n = 0 → s.fetchRuns 0 1 = false) ∧
      (∀ a b c, o.issuer = .course a b c → s.isSaved a = false) ∧ ∃ core i q, s.panelBy 0 0 = some (core, i, q) ∧ s.panel? core i = some q) ∧
    (∃ s : State, ∃ o, s.op? 7 = some o ∧ o.kind = .copy 0x3000 0x4000 64 0 ∧ s.opMoved o = true ∧ 7 < s.work.nextId ∧ (∀ g n, o.issuer ≠ .node g n)) ∧
    (∃ s : State, ∃ o core slot d, 7 < s.work.nextId ∧ s.op? 7 = some o ∧ o.issuer = .course 0 0 0 ∧ o.signal = none ∧ s.isSaved 0 = false ∧
      s.courseBy 0 0 0 = some (core, slot, d) ∧ s.course? core slot = some d) ∧
    (∃ s : State, ∃ o, s.op? 7 = some o ∧ o.signal = some (3, 3, 2) ∧ (s.counter 3).poison = false) ∧
    (∃ s : State, ∃ o t0 s1, s.op? 7 = some o ∧ o.kind = .snap 0 0x6000 64 false ∧ o.launch = some 0 ∧ o.fault = none ∧ s.logBusy 0 0 = false ∧ s.snapBefore 0 0 7 = false ∧
      s.opTile o 0 = .ok t0 ∧ s.admitTile t0 none = some s1 ∧ t0.logcnt = 0) ∧
    (∃ s : State, ∃ o t0, s.op? 7 = some o ∧ o.kind = .log 2 2 ∧ o.launch = some 0 ∧ o.fault = none ∧ s.logBefore 0 2 7 = false ∧ s.opTile o 2 = .ok t0) := by
  refine ⟨?_, ?_, ?_, ?_, ?_, ?_, ?_, ?_, ?_⟩
  · intro n hn
    let o := transfer (copied 0x3000) n
    let s := moving (copied 0x3000) n
    obtain ⟨⟨b, l⟩, h1, k⟩ := is_ok (x := s.engineRead (some 7) (s.opWho o) 0 (0x3000 + BitVec.ofNat 64 (32 * n)) 32) (fun _ =>
      good (fun z => decide (s.routeAt 0 true (0x4000 + BitVec.ofNat 64 (32 * n)) z 32 = .ok (.plain z 32)) && match s.lineTo 7 z with | .ok () => true | .error _ => false) (s.home (s.opWho o) .store (0x4000 + BitVec.ofNat 64 (32 * n))))
      (by revert n; decide +kernel)
    obtain ⟨z, h2, h3⟩ := is_ok _ k
    simp only [Bool.and_eq_true, decide_eq_true_eq] at h3
    obtain ⟨h4, h3⟩ := h3
    refine ⟨s, o, b, l, z, rfl, rfl, rfl, rfl, ?_, ?_, h1, h2, h4, ?_⟩
    · show 32 * n + 32 ≤ 64
      have : n = 0 ∨ n = 1 := by simpa using hn
      omega
    · unfold Unwatched; show ∀ p ∈ (tiling cMem).panels, _; decide +kernel
    · cases h : s.lineTo 7 z with
      | ok u => rfl
      | error e => rw [h] at h3; cases h3
  · intro n hn
    obtain ⟨s1, h, k⟩ := is_ok (x := (moving (kind4 n) 0).nextSector 7 (transfer (kind4 n) 0)) (fun s1 => s1.op? 7 == some (transfer (kind4 n) 0))
      (by revert n; decide +kernel)
    have hs : 0 < (moving (kind4 n) 0).opSectors (transfer (kind4 n) 0) := by clear h k; revert n; decide +kernel
    exact ⟨moving (kind4 n) 0, _, s1, rfl, rfl, rfl, hs, h, by simpa using k⟩
  · have h : (match (moving (copied 0x4000000000) 0).nextSector 7 (transfer (copied 0x4000000000) 0) with | .error (.fault _ _) => true | _ => false) = true := by
      decide +kernel
    cases hx : (moving (copied 0x4000000000) 0).nextSector 7 (transfer (copied 0x4000000000) 0) with
    | ok s1 => rw [hx] at h; cases h
    | error x =>
      cases x with
      | fault e a =>
        refine ⟨moving (copied 0x4000000000) 0, _, e, a, rfl, rfl, rfl, by decide, hx, ?_⟩
        show ∀ p ∈ [(8, parkedAt (.op 9) true)], p.2.who ≠ .op 7
        simp [parkedAt]
      | _ => rw [hx] at h; cases h
  · intro n hn
    exact ⟨moving (kind4 n) 2, _, launch, rfl, rfl, by revert n; decide +kernel, by revert n; decide +kernel, rfl, rfl, rfl, by decide, by decide, rfl, by revert n; decide +kernel,
      fun a b c h => by cases h; rfl, 0, 0, _, rfl, rfl⟩
  · exact ⟨moving (copied 0x3000) 2, _, rfl, rfl, by decide +kernel, by decide +kernel, fun g n h => (nomatch h)⟩
  · exact ⟨moving (copied 0x3000) 2, _, 0, 0, cMem, by decide +kernel, rfl, rfl, rfl, rfl, rfl, rfl⟩
  · exact ⟨transferring [] (some { transfer (copied 0x3000) 2 with signal := some (3, 3, 2) }) (.op 9) true, _, rfl, rfl, rfl⟩
  · let o := transfer (.snap 0 0x6000 64 false) 0
    let s := moving (.snap 0 0x6000 64 false) 0
    obtain ⟨t0, h1, k⟩ := is_ok (x := s.opTile o 0) (fun t0 => (s.admitTile t0 none).isSome && t0.logcnt == 0) (by decide +kernel)
    simp only [Bool.and_eq_true, beq_iff_eq] at k
    obtain ⟨s1, h2⟩ := is_some k.1
    exact ⟨s, o, t0, s1, rfl, rfl, rfl, rfl, by decide +kernel, by decide +kernel, h1, h2, k.2⟩
  · let o := transfer (.log 2 2) 0
    let s := moving (.log 2 2) 0
    obtain ⟨t0, h1, _⟩ := is_ok (x := s.opTile o 2) (fun _ => true) (by decide +kernel)
    exact ⟨s, o, t0, rfl, rfl, rfl, rfl, by decide +kernel, h1⟩

end Sys2Proof.Tests
end

