-- ==== Sys2Proof/Tests/Links.lean ====
section
/-! SUPPORT. For each statement about the fabric's packets and collectives, a machine and operands that meet its hypotheses. -/
set_option maxRecDepth 20000
set_option Elab.async false
namespace Sys2Proof.Tests
open Sys2Proof.Machine Sys2Proof.Safety

/-- A packet of context 1 of device 1 to this device, 0. -/
def packetOf (kind : Byte) (body : Body) : Packet :=
  { cause := 7, ctx := 1, ent := 0, kind, seq := 0, len := 0, src := 1, dst := 0, mode := 0, mark := false, rly := false, relay := 0, info := 0,
    flow := .pair 1, req := 9, body }
/-- Its aperture: 64 KiB from 0x3000 of context 1, with every right. -/
def window : FatEntry := { flags := 0x3F, sdev := 1, sctx := 1, tctx := 1, aoff := 0, alen := 0x10000, tva := 0x3000 }
def serving (c : Course) (killed : Bool) (root : Word) : State :=
  { counting c 1 with
    tables := { (machine c).tables with access := [(5, window)], contexts := [(1, { entry := { entry with ptroot := root }, killed })] } }
def agt : Agt := (serving c32 false 0x100000).packetAgt (packetOf 1 .none) window

/-- What an atomic of R379 stores. -/
def atomicF (op : BitVec 4) (n : Nat) (v : Word) (old : Nat) : Nat :=
  let W := 8 * n
  let x : BitVec W := BitVec.ofNat W old
  let y : BitVec W := v.setWidth W
  (match op.toNat with
   | 0 => x + y
   | 1 => if x.slt y then x else y
   | 2 => if y.slt x then x else y
   | 3 => if x.ult y then x else y
   | 4 => if y.ult x then x else y
   | 5 => x &&& y
   | 6 => x ||| y
   | 7 => x ^^^ y
   | 8 => y
   | _ => let T : Tag := if W = 32 then 0x15 else 0x16
     BitVec.ofNat W (addRnd T 0 (numOf T x.toNat) (numOf T y.toNat)).bits).toNat

theorem witness_FabricRequests :
    (∃ (s : State) (p : Packet) (e : FatEntry), ∃ bs l, nextOfFlow s p ∧ p.body = .read 0xFFF8 8 ∧ s.admitted p 1 (some (0xFFF8, 8)) = .ok e ∧ Unwatched s ∧
      s.agtLoad (s.packetAgt p e) (fatAddr e 0xFFF8) 8 = .ok (bs, l)) ∧
    (∃ (s : State) (p : Packet) (e : FatEntry), ∃ s1, nextOfFlow s p ∧ p.body = .write 0 [1, 2] ∧ s.admitted p 2 (some (0, 2)) = .ok e ∧
      s.agtStore (s.packetAgt p e) (fatAddr e 0) [1, 2] = .ok s1) ∧
    (∀ x ∈ [(0, 4), (0, 8), (9, 4), (9, 8)], let op : BitVec 4 := BitVec.ofNat 4 x.1
      ∃ (s : State) (p : Packet) (e : FatEntry), ∃ s1, nextOfFlow s p ∧ p.body = .atomic 16 op x.2 3 ∧ s.admitted p 3 (some (16, x.2)) = .ok e ∧
        s.agtAtomic (s.packetAgt p e) (fatAddr e 16) x.2 (op == 9) (atomicF op x.2 3) = .ok s1) ∧
    (∃ (s : State) (p : Packet) (e : FatEntry), ∃ s1, nextOfFlow s p ∧ p.body = .reduce 0 0 0x15 [1, 2, 3, 4] ∧ s.admitted p 2 (some (0, 4)) = .ok e ∧
      s.agtReduceAll (s.packetAgt p e) 0x15 0 (fatAddr e 0) [1, 2, 3, 4] = .ok s1) ∧
    (∃ (s : State) (p : Packet) (e : FatEntry), nextOfFlow s p ∧ s.admitted p 4 none = .ok e ∧ counterOf (s.ctxEntry e.tctx.toNat) 3 = some 3 ∧
      (s.counter 3).poison = false ∧ counterOf (s.ctxEntry e.tctx.toNat) 4 = some 4 ∧ (s.counter 4).poison = true ∧
      counterOf (s.ctxEntry e.tctx.toNat) 16 = none) ∧
    (∃ (s : State) (p : Packet), nextOfFlow s p ∧ s.admits p 1 (some (0xFFF9, 8)) = none) ∧
    (∀ b : Bool, ∃ (s : State) (p : Packet) (e : FatEntry), nextOfFlow s p ∧ s.admits p 1 (some (0, 8)) = some e ∧
      (if b then s.ctxKilled e.tctx.toNat = true else (s.ctxEntry e.tctx.toNat).ptroot = 0)) ∧
    (∀ n ∈ [1, 0x7FFF, 0x8000], ∃ (s : State) (p : Packet), p.dst.toNat = s.devNo ∧ p.mode ≠ 2 ∧ p ∉ s.async.early ∧
      (p.seq - (s.seqAt p.src.toNat p.flow).2).toNat = n) ∧
    (∃ (s : State) (g : Agt) (a : Word), ∃ l, a.toNat % 128 + 4 ≤ 128 ∧ s.async.dir = [] ∧ Unwatched s ∧ s.absentAt l = none ∧
      s.home g.w .store a = .ok l ∧ s.home g.w .load a = .ok l ∧ s.badIn l 4 = false) := by
  let s := serving c32 false 0x100000
  have hu : Unwatched s := by unfold Unwatched; decide
  refine ⟨?_, ?_, ?_, ?_, ?_, ?_, ?_, ?_, ?_⟩
  · obtain ⟨⟨bs, l⟩, h, _⟩ := is_ok (x := s.agtLoad agt (fatAddr window 0xFFF8) 8) (fun _ => true) (by decide +kernel)
    exact ⟨s, packetOf 1 (.read 0xFFF8 8), window, bs, l, ⟨by decide, by decide⟩, rfl, by rfl, hu, h⟩
  · obtain ⟨s1, h, _⟩ := is_ok (x := s.agtStore agt (fatAddr window 0) [1, 2]) (fun _ => true) (by decide +kernel)
    exact ⟨s, packetOf 3 (.write 0 [1, 2]), window, s1, ⟨by decide, by decide⟩, rfl, by rfl, h⟩
  · intro x hx
    have hx : x = (0, 4) ∨ x = (0, 8) ∨ x = (9, 4) ∨ x = (9, 8) := by simpa using hx
    have g : good (fun _ => true) (s.agtAtomic agt (fatAddr window 16) x.2 (BitVec.ofNat 4 x.1 == 9) (atomicF (BitVec.ofNat 4 x.1) x.2 3)) = true := by
      rcases hx with rfl | rfl | rfl | rfl <;> decide +kernel
    obtain ⟨s1, h, _⟩ := is_ok _ g
    exact ⟨s, packetOf 4 (.atomic 16 (BitVec.ofNat 4 x.1) x.2 3), window, s1,
      ⟨by rcases hx with rfl | rfl | rfl | rfl <;> decide, by rcases hx with rfl | rfl | rfl | rfl <;> decide⟩, rfl,
      by rcases hx with rfl | rfl | rfl | rfl <;> rfl, h⟩
  · obtain ⟨s1, h, _⟩ := is_ok (x := s.agtReduceAll agt 0x15 0 (fatAddr window 0) [1, 2, 3, 4]) (fun _ => true) (by decide +kernel)
    exact ⟨s, packetOf 5 (.reduce 0 0 0x15 [1, 2, 3, 4]), window, s1, ⟨by decide, by decide⟩, rfl, by rfl, h⟩
  · exact ⟨s, packetOf 6 (.signal 0x10003 0), window, ⟨by decide, by decide⟩, by rfl, by decide, by decide, by decide, by decide, by decide⟩
  · exact ⟨s, packetOf 1 (.read 0xFFF9 8), ⟨by decide, by decide⟩, by decide⟩
  · intro b
    exact ⟨serving c32 b (if b then 0x100000 else 0), packetOf 1 (.read 0 8), window, ⟨by cases b <;> decide, by cases b <;> decide⟩, by cases b <;> decide,
      by cases b <;> decide⟩
  · intro n hn
    exact ⟨s, { packetOf 1 (.read 0 8) with seq := BitVec.ofNat 16 n }, by revert n; decide, by show (0 : BitVec 2) ≠ 2; decide, fun h => (nomatch h), by revert n; decide⟩
  · obtain ⟨l, h, k⟩ := is_ok (x := s.home agt.w .store 0x307C) (fun l => (s.absentAt l).isNone && !s.badIn l 4 &&
      good (fun m => m == l) (s.home agt.w .load 0x307C)) (by decide +kernel)
    simp only [Bool.and_eq_true, Bool.not_eq_true', Option.isNone_iff_eq_none] at k
    obtain ⟨m, hm, hk⟩ := is_ok _ k.2
    exact ⟨s, agt, 0x307C, l, by decide, rfl, hu, k.1.1, h, by rw [hm, beq_iff_eq.1 hk], k.1.2⟩

/-! ## Answers -/

def asked (k : ReqKind) : Req :=
  { kind := k, flow := .pair 1, dev := 1, ctx := 1, cause := 7, parent := 0, laddr := 0x100, sent := 0, packet := packetOf 1 .none, ended := none }
def loadKind : ReqKind := .fld 0 0 0 3 (.w 6) 4 true
def asking (c : Course) (k : ReqKind) (down : List (Nat × Nat)) : State :=
  { machine c with
    async := { (machine c).async with
      reqs := [(9, asked k)], down, ops := [(5, transfer (.entry 1 true) 0)],
      colls := [(3, { coll false with desc := 1 })] }
    dev := { (machine c).dev with bootDone := 8 }
    time := { State.reset.time with gt := 160000000 } }
def remoteEntry : Entry := { Entry.fresh 0x1000 0 3 false with wait := .remote }

theorem witness_FabricAnswers :
    (∃ (s : State) (p : Packet), ∃ r core slot c, krising s.async.reqs = true ∧ s.answered p = some r ∧ p.body = .value 5 ∧ r.kind = loadKind ∧
      s.fldReqs 0 0 0 = [(p.req, r)] ∧ s.isSaved 0 = false ∧ s.courseBy 0 0 0 = some (core, slot, c) ∧ s.course? core slot = some c ∧ c.orphan = none ∧
      (c.fr0 ++ c.fr1 ++ c.fr2).find? (fun e => e.wait == .remote) = some remoteEntry ∧ remoteEntry ∈ c.front) ∧
    (∀ k ∈ [.posted 0 0 0, loadKind], ∃ (s : State) (p : Packet), ∃ r, s.answered p = some r ∧ r.kind = k) ∧
    (∃ (s : State) (p : Packet), ∃ r o, s.answered p = some r ∧ r.kind = .entry 5 true ∧ s.op? 5 = some o ∧ o.kind = .entry 1 true) ∧
    (∀ k ∈ [.chunk 3, .ready 3 1], ∃ (s : State) (p : Packet), ∃ r z, s.answered p = some r ∧ r.kind = k ∧ (p.info.setWidth 8 : Byte) = 6 ∧ s.coll? 3 = some z) ∧
    (∀ b : Bool, ∃ (s : State), ∃ r core slot c, kget s.async.reqs 9 = some r ∧ r.ended = none ∧ r.sent + 160000000 ≤ s.time.gt ∧ r.kind = loadKind ∧
      s.courseBy 0 0 0 = some (core, slot, c) ∧ s.course? core slot = some c ∧ (if b then c.orphan = none else c.fr0 = [] ∧ c.fr1 = [] ∧ c.fr2 = [])) ∧
    (∃ s : State, ∃ r, kget s.async.reqs 9 = some r ∧ r.ended = none ∧ r.sent + 160000000 ≤ s.time.gt ∧ r.kind = .posted 0 0 0) ∧
    (∀ n ∈ [0, 1, 2], ∃ (s : State) (p : Packet), p.rly = true ∧ p.relay.toNat = s.devNo ∧ p.dst.toNat ≠ s.devNo ∧ p.src.toNat ≠ s.devNo ∧
      s.devNo < s.domainSize ∧
      (let others := (List.range s.domainSize).filter (fun d => d != p.src.toNat && d != p.dst.toNat)
       let up (r : Nat) : Prop := s.linkUp r = true ∧ s.farDown r p.dst.toNat = false
       (n = 0 → s.linkUp p.dst.toNat = true) ∧ (n = 1 → s.linkUp p.dst.toNat = false ∧ ∃ r ∈ others, up r) ∧
       (n = 2 → s.linkUp p.dst.toNat = false ∧ ∀ r ∈ others, ¬ up r))) ∧
    (∃ s : State, s.linkUp 7 = true) ∧ (∃ (s : State) (p : Packet), p.body = .link 3 false ∧ p.src.toNat ≠ s.devNo) ∧
    (∃ s : State, (s.devNo, 7) ∈ s.async.down ∧ 8 ≤ s.dev.bootDone.toNat ∧ 7 ≠ s.devNo ∧ 7 < s.domainSize) := by
  refine ⟨?_, ?_, ?_, ?_, ?_, ?_, ?_, ?_, ⟨asking c32 (.posted 0 0 0) [], packetOf 0x0C (.link 3 false), rfl, by decide⟩, ?_⟩
  · exact ⟨asking { c32 with fr0 := [remoteEntry] } loadKind [], packetOf 2 (.value 5), asked loadKind, 0, 0, { c32 with fr0 := [remoteEntry] },
      by decide, by rfl, rfl, rfl, by rfl, rfl, by rfl, rfl, rfl, by rfl, List.mem_singleton.2 rfl⟩
  · intro k _
    exact ⟨asking c32 k [], packetOf 7 .none, asked k, by rfl, rfl⟩
  · exact ⟨asking c32 (.entry 5 true) [], packetOf 7 .none, asked (.entry 5 true), transfer (.entry 1 true) 0, by rfl, rfl, rfl, rfl⟩
  · intro k _
    exact ⟨asking c32 k [], { packetOf 8 .none with info := 6 }, asked k, _, by rfl, rfl, by show ((6 : BitVec 24).setWidth 8 : Byte) = 6; decide, rfl⟩
  · intro b
    exact ⟨asking { c32 with fr0 := [] } loadKind [], asked loadKind, 0, 0, { c32 with fr0 := [] }, rfl, rfl, by decide, rfl, by rfl, rfl,
      by cases b <;> simp [c32, tagCourse, course, Course.start]⟩
  · exact ⟨asking c32 (.posted 0 0 0) [], _, rfl, rfl, by decide, rfl⟩
  · intro n hn
    let p : Packet := { packetOf 1 .none with dst := 2, rly := true }
    have hn : n = 0 ∨ n = 1 ∨ n = 2 := by simpa using hn
    let down : List (Nat × Nat) := if n = 0 then [] else if n = 1 then [(0, 2)] else (List.range 8).map (fun r => (0, r))
    have d : p.relay.toNat = (asking c32 (.posted 0 0 0) down).devNo ∧ p.dst.toNat ≠ (asking c32 (.posted 0 0 0) down).devNo ∧
        p.src.toNat ≠ (asking c32 (.posted 0 0 0) down).devNo ∧ (asking c32 (.posted 0 0 0) down).devNo < (asking c32 (.posted 0 0 0) down).domainSize := by
      rcases hn with rfl | rfl | rfl <;> decide
    refine ⟨asking c32 (.posted 0 0 0) down, p, rfl, d.1, d.2.1, d.2.2.1, d.2.2.2, ?_, ?_, ?_⟩
    · rintro rfl; decide
    · rintro rfl; exact ⟨by decide, by decide⟩
    · rintro rfl; exact ⟨by decide, by decide⟩
  · exact ⟨asking c32 (.posted 0 0 0) [], by decide⟩
  · exact ⟨asking c32 (.posted 0 0 0) [(0, 7)], by decide, by decide, by decide, by decide⟩

/-! ## Collectives -/

/-- Devices 0 and 1 work on 64 elements of FP32 in chunks of 256 bytes, at 0x5000, 0x6000 and 0x7000. -/
def descOf (op : Nat) : BitVec 1024 :=
  BitVec.ofNat 1024 (op + 9 * 2 ^ 16 + 2 * 2 ^ 24 + 1 * 2 ^ 64 + 256 * 2 ^ 96 + 0x5000 * 2 ^ 128 + 0x6000 * 2 ^ 192 + 64 * 2 ^ 256 + 0x7000 <<< 320 +
    1 <<< 648)
def collOf (op : Nat) : Coll :=
  { coll false with desc := descOf op, pos := [Position.none, Position.none], counter := if op = 1 then 0 else 1 }
def sharing (c : Coll) : State :=
  { serving c32 false 0x100000 with
    async := { (serving c32 false 0x100000).async with colls := [(3, c)], ops := [(5, transfer (.coll 3) 0)] }
    time := { State.reset.time with gt := 20000000 } }

/-- The second piece of 128 bytes of a chunk is not there yet; a piece of 256 bytes is the whole chunk. -/
theorem pieceEnds {n : Nat} (g : Position → Position) (hn : n = 128 ∨ n = 256)
    (hp : (g Position.none).parts = [] := by rfl) :
    (((collOf 2).modPos 1 g).piece 1 false (0x6100 - cdInto (descOf 2) 1 (cdSelf (descOf 2)) false (cdStage (descOf 2)) (cdDst (descOf 2))).toNat n
      (cdBytes (descOf 2) 1 (cdSelf (descOf 2)) false)).1 = true ↔ n = 256 := by
  have h1 : (0x6100 - cdInto (descOf 2) 1 (cdSelf (descOf 2)) false (cdStage (descOf 2)) (cdDst (descOf 2))).toNat = 0 := by decide +kernel
  have h2 : cdBytes (descOf 2) 1 (cdSelf (descOf 2)) false = 256 := by decide +kernel
  have h3 : cdChunk (descOf 2) = 256 := by decide +kernel
  have h4 : ((collOf 2).modPos 1 g).desc = descOf 2 := rfl
  have h5 : (((collOf 2).modPos 1 g).at 1).parts = [] := hp
  have h6 (k : Nat) : kget ([] : KMap Nat) k = none := rfl
  unfold Coll.piece
  simp only [h1, h2, h3, h4, h5, h6]
  rcases hn with rfl | rfl <;> decide

theorem witness_CollectiveEvents :
    (∃ (s : State) (p : Packet) (c : Coll), nextOfFlow s p ∧ p.body = .ready 1 0x7000 0x6000 ∧ s.collPacket p 1 false = .ok (c, 1)) ∧
    (∀ n ∈ [128, 256], ∃ (s : State) (p : Packet) (c : Coll), ∃ s1, nextOfFlow s p ∧ p.body = .chunk 1 false 0x6100 (List.replicate n 5) ∧
      s.collPacket p 1 false = .ok (c, 1) ∧ (∀ x, s.op? c.op = some x → x.fault = none) ∧ s.agtStore (s.collAgt c) 0x6100 (List.replicate n 5) = .ok s1 ∧
      0 < cdChunk c.desc ∧ 1 < c.pos.length ∧
      (((c.modPos 1 (fun x => { x with last := s1.stamp })).piece 1 false
        (0x6100 - cdInto c.desc 1 (cdSelf c.desc) false (cdStage c.desc) (cdDst c.desc)).toNat n (cdBytes c.desc 1 (cdSelf c.desc) false)).1 = true ↔ n = 256)) ∧
    (∃ c : Coll, ∃ x, c.pos[1]? = some x ∧ cdAcsig c.desc < 2 ^ 16) ∧
    (∀ b ∈ [Body.barrier 1, .departure 1], ∃ (s : State) (p : Packet) (c : Coll), nextOfFlow s p ∧ p.body = b ∧ s.collPacket p 1 true = .ok (c, 1)) ∧
    (∀ b : Bool, ∃ (s : State) (p : Packet), p.body = .late 0 ∧ (s.admits p 5 none).isSome = b) ∧
    (∀ b ∈ [Body.ready 1 0 0, .chunk 1 false 0 []], ∃ s : State, ∃ c, s.coll? 3 = some c ∧ 20000000 ≤ s.time.gt ∧ c.resend = [(20000000, 1, b)]) ∧
    (∃ s : State, ∃ c o core ins s1, s.coll? 3 = some c ∧ s.op? c.op = some o ∧ o.fault = none ∧ cdOp c.desc = 1 ∧ c.reduced = false ∧ c.counter = 0 ∧
      s.reduceCore c.ctx = some core ∧ s.reduceInputs c = .ok ins ∧
      s.agtStore (s.collAgt c) (cdDst c.desc + BitVec.ofNat 64 (cdSelf c.desc * cdSegment c.desc))
        (reduceBytes (cdTag c.desc) (cdRed c.desc) ins (cdSegment c.desc)) = .ok s1) ∧
    (∃ (T : Tag) (xs : List Nat), fpTag T = false ∧ T ≠ 0 ∧ xs ≠ [] ∧ xs.length = 16 ∧ ∀ x ∈ xs, x < 2 ^ tagWidth T) ∧
    (∃ s : State, ∃ c, s.coll? 3 = some c ∧ c.cause.toNat = 3 ∧ c.fired = false ∧ c.done = false ∧ c.watchAt ≤ s.time.gt) ∧
    (∃ c : Coll, (cdPeers c.desc).filter c.awaits = []) ∧ (∃ c : Coll, (cdPeers c.desc).filter c.awaits ≠ []) := by
  refine ⟨?_, ?_, ?_, ?_, ?_, ?_, ?_, ?_, ?_, ?_, ?_⟩
  · exact ⟨sharing (collOf 2), packetOf 0x0A (.ready 1 0x7000 0x6000), collOf 2, ⟨by decide, by decide⟩, rfl, by rfl⟩
  · intro n hn
    have hn : n = 128 ∨ n = 256 := by simpa using hn
    have g : good (fun _ => true) ((sharing (collOf 2)).agtStore ((sharing (collOf 2)).collAgt (collOf 2)) 0x6100 (List.replicate n 5)) = true := by
      rcases hn with rfl | rfl <;> decide +kernel
    obtain ⟨s1, h, _⟩ := is_ok _ g
    exact ⟨sharing (collOf 2), packetOf 9 (.chunk 1 false 0x6100 (List.replicate n 5)), collOf 2, s1, ⟨rfl, rfl⟩, rfl, by rfl,
      fun x hx => by cases hx; rfl, h, by decide +kernel, by decide, pieceEnds _ hn⟩
  · exact ⟨collOf 2, Position.none, rfl, by decide +kernel⟩
  · intro b _
    exact ⟨sharing (collOf 6), packetOf 0x0B b, collOf 6, ⟨rfl, rfl⟩, rfl, by rfl⟩
  · intro b
    exact ⟨sharing (collOf 6), { packetOf 0x0C (.late 0) with ctx := if b then 1 else 2 }, rfl, by cases b <;> rfl⟩
  · intro b _
    exact ⟨sharing { collOf 2 with resend := [(20000000, 1, b)] }, _, rfl, Nat.le_refl _, rfl⟩
  · let s := sharing (collOf 1)
    obtain ⟨ins, h, k⟩ := is_ok (x := s.reduceInputs (collOf 1)) (fun ins => good (fun _ => true) (s.agtStore (s.collAgt (collOf 1))
      (cdDst (descOf 1) + BitVec.ofNat 64 (cdSelf (descOf 1) * cdSegment (descOf 1))) (reduceBytes (cdTag (descOf 1)) (cdRed (descOf 1)) ins
        (cdSegment (descOf 1))))) (by decide +kernel)
    obtain ⟨s1, h1, _⟩ := is_ok _ k
    obtain ⟨core, hc⟩ := is_some (show (s.reduceCore 1).isSome = true by decide +kernel)
    exact ⟨s, collOf 1, transfer (.coll 3) 0, core, ins, s1, rfl, rfl, rfl, by decide +kernel, rfl, rfl, hc, h, h1⟩
  · exact ⟨0x05, List.replicate 16 255, by decide, by decide, by decide, by decide, by decide⟩
  · exact ⟨sharing (collOf 2), collOf 2, rfl, by decide, rfl, rfl, by decide +kernel⟩
  · exact ⟨{ collOf 4 with pos := [Position.none, { Position.none with ready := true }] }, by decide +kernel⟩
  · exact ⟨collOf 2, by decide +kernel⟩

end Sys2Proof.Tests
end

