-- ==== Sys2Proof/Tests/System.lean ====
section
/-! SUPPORT. For each statement about system instructions and traps, a machine and operands that meet its hypotheses. -/
set_option maxRecDepth 20000
set_option Elab.async false
namespace Sys2Proof.Tests
open Sys2Proof.Machine Sys2Proof.Safety

def plain (imm : BitVec 48 := 0) : Gen := gen 0 (.w 0) (.w 0) (.w 0) imm

/-! ## System instructions -/

/-- The machine whose skein a debugger has attached. -/
def debugged (c : Course) : State := { machine c with work := { (machine c).work with skeins := [(0, { loadSkein with attached := true })] } }

/-- w1 and w2 hold a range of two lines; w3 a length off 64, w4 a base off 64. -/
def cRange : Course := course VReg.zero [(1, 0x1000), (2, 0x80), (3, 0x81), (4, 0x1020)]

theorem witness_SystemForms :
    (∀ x ∈ ([(.trap (plain 0xFACE), []), (.bkpt (plain 0xBEAD), []), (.halt (plain), []), (.evt (gen 1 (.w 0) (.w 1) (.w 2) 15), []),
        (.caus (gen 0 (.w 0) (.w 1) (.w 0)), [.w 1]), (.causNew (gen 1 (.w 1) (.w 0) (.w 0)), []), (.glch (plain 1), []), (.kill (plain 2), [])] :
        List (Instr × List Reg)), Issues (machine c32) x.1 false x.2 (who (machine c32) c32 x.1)) ∧
    Instr.wellFormed false (.causNew (gen 1 (.w 1) (.w 0) (.w 0))) = true ∧
    ((machine c32).attachedTo c32.skein = false ∧ (debugged c32).attachedTo c32.skein = true) ∧
    (∃ s I, Issues s (.bkpt (plain 1)) false [] I ∧ s.attachedTo I.c.skein = true ∧ I.c.passAt = some I.E.pc) ∧
    (∃ s I k, Issues s (.halt (plain)) false [] I ∧ s.skein? I.c.skein = some k ∧ k.attached = true ∧ k.stopped = false ∧ I.c.passAt ≠ some I.E.pc ∧
      (kkeys s.courses).Nodup) ∧
    (∃ s I, Issues s (.icinv (gen 3 (.w 0) (.w 1) (.w 2))) false [.w 1, .w 2] I ∧ (I.c.read I.leader (.w 1)).toNat % 64 = 0 ∧
      (I.c.read I.leader (.w 2)).toNat ≠ 0 ∧ (I.c.read I.leader (.w 2)).toNat % 64 = 0 ∧ (I.c.read I.leader (.w 2)).toNat < 2 ^ 32) ∧
    (∃ s I, Issues s (.icinv (gen 0 (.w 0) (.w 4) (.w 2))) false [.w 4, .w 2] I ∧ (I.c.read I.leader (.w 4)).toNat % 64 ≠ 0) ∧
    (∃ s I, Issues s (.icinv (gen 0 (.w 0) (.w 1) (.w 3))) false [.w 1, .w 3] I ∧ (I.c.read I.leader (.w 1)).toNat % 64 = 0 ∧
      (I.c.read I.leader (.w 3)).toNat % 64 ≠ 0) ∧
    (machine c32).launchId c32 = some 0 ∧ (machine c32).dbg.pulled = none ∧
    (∃ s t0, Issues s (.glch (plain)) false [] (who s c32 (.glch (plain))) ∧ s.dbg.pulled = some t0 ∧ s.time.gt < t0 + 16000) ∧
    ((machine c32).skein? c32.skein = some loadSkein ∧ (machine c32).launch? 0 = some launch ∧ (kkeys (machine c32).courses).Nodup) :=
  ⟨fun x h => issues_sound rfl rfl (by revert x; decide), by decide, ⟨by decide, by decide⟩,
   ⟨debugged { c32 with passAt := some loadPc }, who _ { c32 with passAt := some loadPc } _, issues_sound rfl rfl (by decide), by decide, rfl⟩,
   ⟨debugged c32, who _ c32 _, _, issues_sound rfl rfl (by decide), rfl, rfl, rfl, by decide, by decide⟩,
   ⟨machine cRange, who _ cRange _, issues_sound rfl rfl (by decide), by decide, by decide, by decide, by decide⟩,
   ⟨machine cRange, who _ cRange _, issues_sound rfl rfl (by decide), by decide⟩,
   ⟨machine cRange, who _ cRange _, issues_sound rfl rfl (by decide), by decide, by decide⟩, by decide, rfl,
   ⟨{ machine c32 with dbg := { DebugState.start with pulled := some 0 } }, 0, issues_sound rfl rfl (by decide), rfl, by decide⟩,
   ⟨rfl, rfl, by decide⟩⟩

/-- At TL0 the registers of level 0 are open, at TL2 all of them; cDiffer's strands differ in w2. -/
def cLevel2 : Course := { c32 with level := 2, fr2 := [Entry.fresh loadPc 0 3 false] }

theorem witness_SystemRegisters :
    (∃ s I, Issues s (.srd (gen 0 (.w 1) (.w 0) (.w 0) 0x00)) false [] I ∧ 0 ≤ I.c.level.val) ∧
    (∃ s I, Issues s (.srd (gen 0 (.w 1) (.w 0) (.w 0) 0x25)) false [] I ∧ 2 ≤ I.c.level.val) ∧
    (∃ s I, Issues s (.swr (gen 0 (.w 0) (.w 2) (.w 0) 0x24)) false [] I ∧ 2 ≤ I.c.level.val ∧ I.differs [.w 2] = none) ∧
    (∃ s I, Issues s (.swr (gen 0 (.w 0) (.w 2) (.w 0) 0x00)) false [] I ∧ I.differs [.w 2] ≠ none) ∧
    (∃ s I e, Issues s (.swr (gen 0 (.w 0) (.w 2) (.w 0) 0x33)) false [] I ∧ I.differs [.w 2] = some e) ∧
    (∃ s I, Issues s (.swr (gen 0 (.w 0) (.w 2) (.w 0) 0x23)) false [] I) ∧
    (∃ s I, Issues s (.srd (gen 0 (.w 1) (.w 0) (.w 0) 0x04)) false [] I) ∧
    (∃ s I, Issues s (.srd (gen 0 (.w 1) (.w 0) (.w 0) 0x10)) false [] I ∧ I.c.level.val < 1) :=
  ⟨⟨machine c32, who _ c32 _, issues_sound rfl rfl (by decide), by decide⟩,
   ⟨machine cLevel2, who _ cLevel2 _, issues_sound rfl rfl (by decide), by decide⟩,
   ⟨machine cLevel2, who _ cLevel2 _, issues_sound rfl rfl (by decide), by decide, by decide⟩,
   ⟨machine cDiffer, who _ cDiffer _, issues_sound rfl rfl (by decide), by decide⟩,
   ⟨machine cDiffer, who _ cDiffer _, _, issues_sound rfl rfl (by decide), rfl⟩,
   ⟨machine cDiffer, who _ cDiffer _, issues_sound rfl rfl (by decide)⟩,
   ⟨machine cDiffer, who _ cDiffer _, issues_sound rfl rfl (by decide)⟩,
   ⟨machine cDiffer, who _ cDiffer _, issues_sound rfl rfl (by decide), by decide⟩⟩

/-! ## Traps -/

/-- A trap table at 0x4000: H1 and H2 the cached line or, for a bad handler, the next one; every cause is taken. -/
def trapBytes (h1 h2 : Byte) : Memory := [(0x4001, h1), (0x4009, h2), (0x4010, 0xFF), (0x4011, 0xFF), (0x4012, 0xFF), (0x4014, 3)].filter (fun x => x.2 != 0)

def trapping (c : Course) (h1 h2 : Byte) : State :=
  { machine c with
    cores := cachedCores
    mem := { Memories.start with hbm := trapBytes h1 h2 ++ tables }
    tables := { State.reset.tables with contexts := [(1, { entry := { entry with trapvec := 0x4000 }, killed := false })] } }

def cLevel1 : Course := { c32 with level := 1, fr1 := [Entry.fresh loadPc 0 3 false] }
def E0 : Entry := Entry.fresh loadPc 0 3 false
def req (c : Byte) : TrapReq := { t := { cause := c, detail := 0, tval := 0 }, mask := 1, pc := loadPc, prio := 0 }

def handler (s : State) (c : Course) (r : TrapReq) : Word :=
  (s.trapTable (s.courseWho 0 c)).elim 0 (fun T => if c.level = 0 then (if T.take.getLsbD r.t.cause.toNat then T.h1 else 0) else T.h2)

theorem witness_Traps_entry :
    (∃ s : State, s.course? 0 0 = some cLevel2 ∧ cLevel2.front.contains E0 = true ∧ cLevel2.level = 2) ∧
    (∃ s : State, s.course? 0 0 = some cLevel1 ∧ cLevel1.front.contains E0 = true ∧ cLevel1.level = 1 ∧ handler s cLevel1 (req Cause.div0) = 0) ∧
    (∃ s : State, s.course? 0 0 = some cLevel1 ∧ cLevel1.level ≠ 2 ∧ handler s cLevel1 (req Cause.div0) ≠ 0 ∧
      (s.checkTarget 0 (s.courseWho 0 cLevel1) true (handler s cLevel1 (req Cause.div0))).2.isSome) ∧
    (∃ s : State, s.course? 0 0 = some c32 ∧ c32.front.contains (c32.front.headD E0) = true ∧ c32.level = 0 ∧ handler s c32 (req Cause.xlate) = 0) ∧
    (∃ s : State, s.course? 0 0 = some c32 ∧ c32.level ≠ 2 ∧ handler s c32 (req Cause.div0) ≠ 0 ∧
      (s.checkTarget 0 (s.courseWho 0 c32) true (handler s c32 (req Cause.div0))).2 = none) :=
  ⟨⟨machine cLevel2, rfl, by decide, rfl⟩, ⟨trapping cLevel1 0x10 0, rfl, by decide, rfl, by decide +kernel⟩,
   ⟨trapping cLevel1 0x10 0x20, rfl, by decide, by decide +kernel, by decide +kernel⟩, ⟨machine c32, rfl, by decide, rfl, by decide +kernel⟩,
   ⟨trapping c32 0x10 0x10, rfl, by decide, by decide +kernel, by decide +kernel⟩⟩

/-- At TL1 with TPC the cached line; TCAUSE as a strand's trap, a stream's, and a stream's with SEXIT. -/
def returning (tcause : Word) (fr1 : List Entry) : Course :=
  { c32 with level := 1, fr1, tl1 := { TrapBank.zero with tcause, tpc := loadPc } }
def whole : List Entry := [Entry.fresh loadPc 0 3 false]
def rtt : Instr := .rtt (plain)

theorem witness_Traps_return :
    (∃ s I, Issues s rtt false [] I ∧ I.c.level = 0) ∧
    (∃ s I, Issues s rtt false [] I ∧ I.c.level ≠ 0 ∧ maskOf I.lanes = I.E.mask ∧ I.E.mask ≠ I.c.levelMask) ∧
    (∃ s I, Issues s rtt false [] I ∧ I.c.level ≠ 0 ∧ maskOf I.lanes = I.E.mask ∧ I.E.mask = I.c.levelMask ∧ (I.c.bank.strm && I.c.bank.sexit) = true) ∧
    (∃ s I, Issues s rtt false [] I ∧ I.c.level ≠ 0 ∧ maskOf I.lanes = I.E.mask ∧ I.E.mask = I.c.levelMask ∧ (I.c.bank.strm && I.c.bank.sexit) = false ∧
      ((passed s I).checkTarget I.core I.w false I.c.bank.tpc).2 = none) ∧
    (∃ s I e, Issues s rtt false [] I ∧ I.E.mask = I.c.levelMask ∧ (I.c.bank.strm && I.c.bank.sexit) = false ∧
      ((passed s I).checkTarget I.core I.w false I.c.bank.tpc).2 = some e) ∧
    (∃ (s : State) (c : Course) (p : Panel), s.course? 0 0 = some c ∧ c.level ≠ 0 ∧ c.bank.async = true ∧ c.bank.strm = true ∧ c.bank.sexit = false ∧
      s.panel? 0 c.pslot = some p) ∧
    (∃ (s : State) (c : Course), s.course? 0 0 = some c ∧ c.level ≠ 0 ∧ c.bank.async = false ∧ c.bank.strm = false) := by
  refine ⟨⟨machine c32, who _ c32 _, issues_sound rfl rfl (by decide), rfl⟩, ?_, ?_, ?_, ?_, ?_, ?_⟩
  · let c := returning 0 [Entry.fresh loadPc 0 1 false, Entry.fresh 0x2000 0 2 false]
    exact ⟨machine c, who _ c _, issues_sound rfl rfl (by decide), by decide, by decide, by decide⟩
  · let c := returning 0x1C0000 whole
    exact ⟨machine c, who _ c _, issues_sound rfl rfl (by decide), by decide, by decide, by decide, by decide⟩
  · let c := returning 0 whole
    exact ⟨jumping c, who _ c _, issues_sound rfl rfl (by decide), by decide, by decide, by decide, by decide, by decide +kernel⟩
  · let c := { returning 0 whole with tl1 := { TrapBank.zero with tpc := 0x40000000 } }
    obtain ⟨e, h⟩ := is_some (x := ((passed (jumping c) (who (jumping c) c rtt)).checkTarget 0 ((jumping c).courseWho 0 c) false 0x40000000).2)
      (by decide +kernel)
    exact ⟨jumping c, who _ c _, e, issues_sound rfl rfl (by decide), by decide, by decide, h⟩
  · exact ⟨machine (returning 0xC0000 whole), returning 0xC0000 whole, panel, rfl, by decide, by decide, by decide, by decide, rfl⟩
  · exact ⟨machine (returning 0 whole), returning 0 whole, rfl, by decide, by decide, by decide⟩

end Sys2Proof.Tests
end

