-- ==== Sys2Proof/Tests/Time.lean ====
section
/-! SUPPORT. For each statement about the debug channel, time, checkpoints and steps, a machine and operands that meet its hypotheses. -/
set_option maxRecDepth 20000
set_option Elab.async false
namespace Sys2Proof.Tests
open Sys2Proof.Machine Sys2Proof.Safety

/-- The skein as a debugger sees it; `stepping` is what it steps. -/
def inspected (k : Skein) (stepping : Option (Nat × Nat × Option Nat)) : State :=
  { machine { c32 with stopped := k.stopped } with
    work := { (machine c32).work with skeins := [(0, k)] }
    dbg := { DebugState.start with stepping } }
def watched (attached stopped : Bool) : Skein := { loadSkein with attached, stopped }

theorem witness_DebugChannel :
    (∀ b : Bool, ∃ s : State, ∃ k, s.skein? 0 = some k ∧ k.attached = true ∧ k.phase = .placed ∧ k.stopped = b ∧ (kkeys s.courses).Nodup ∧
      (kkeys s.panels).Nodup) ∧
    (∃ s : State, ∃ k, s.skein? 0 = some k ∧ k.attached = false) ∧
    (∃ s : State, ∃ k h, s.skein? 0 = some k ∧ k.attached = true ∧ k.stopped = true ∧ k.phase = .placed ∧ s.stepsSkein 0 = false ∧ s.skeinHdr 0 = some h ∧
      (imgPartAt h 0).isSome ∧ (imgPartAt h 0x6FF).isSome) ∧
    (∀ x ∈ [(0x1000, 64, true), (0x1020, 64, false), (0x1000, 0, false), (0x1000, 2 ^ 32, false)], let base : Word := BitVec.ofNat 64 x.1
      decide (base.toNat % 64 = 0 ∧ x.2.1 ≠ 0 ∧ x.2.1 % 64 = 0 ∧ x.2.1 < 2 ^ 32) = x.2.2) ∧
    (∃ s : State, ∃ k, s.skein? 0 = some k ∧ k.phase = .placed ∧ s.stepsSkein 0 = true ∧ s.stepOver = true) ∧
    (∃ s : State, s.skein? 1 = none) ∧
    (∃ s : State, ∃ c p k, s.course? 0 0 = some c ∧ c.orphan = none ∧ s.panel? 0 0 = some p ∧ s.skein? c.skein = some k ∧ p.skein = c.skein ∧ k.stopped = true ∧
      k.phase = .placed ∧ s.dbg.stepping = none ∧ (kkeys s.courses).Nodup) ∧
    (∃ s : State, s.dbg.pulled = none) ∧ (∀ n ∈ [15999, 16000], ∃ s : State, s.dbg.pulled = some 0 ∧ s.time.gt = n) := by
  refine ⟨?_, ?_, ?_, ?_, ?_, ?_, ?_, ?_, ?_⟩
  · intro b
    exact ⟨inspected (watched true b) none, _, rfl, rfl, rfl, rfl, by cases b <;> decide, by cases b <;> decide⟩
  · exact ⟨inspected (watched false false) none, _, rfl, rfl⟩
  · exact ⟨inspected (watched true true) none, _, header, rfl, rfl, rfl, rfl, rfl, rfl, by decide +kernel, by decide +kernel⟩
  · decide
  · exact ⟨inspected (watched true true) (some (0, 0, some 0)), _, rfl, rfl, rfl, rfl⟩
  · exact ⟨inspected (watched true true) none, rfl⟩
  · exact ⟨inspected (watched true true) none, _, _, _, rfl, rfl, rfl, rfl, rfl, rfl, rfl, rfl, by decide⟩
  · exact ⟨inspected (watched true true) none, rfl⟩
  · intro n _
    exact ⟨{ inspected (watched true true) none with dbg := { DebugState.start with pulled := some 0 }, time := { State.reset.time with gt := n } }, rfl, rfl⟩

/-! ## Time and checkpoints -/

theorem beBytes_length (n v : Nat) : (beBytes n v).length = n := by simp [beBytes, Sys2Proof.Laws.leBytes_length]
theorem sha384_length (m : List Byte) : (sha384 m).length = 48 := by simp [sha384, beBytes_length]


def timed (t : TimeState) : State := { machine c32 with time := t }
def t0 : TimeState := State.reset.time
/-- A shard at 0x3000 whose payload is 16 bytes, and a copy that runs, to it or elsewhere. -/
def sharded (ops : KMap Op) : State :=
  { machine c32 with mem := { Memories.start with hbm := [(0x3000, 0x4B), (0x3028, 16)] ++ tables }, async := { (machine c32).async with ops } }
def tailOf (h : List Byte) : Option (List Byte) := (sharded []).shardPayload 1 0x3000 h

theorem witness_TimeAndCheckpoints :
    (∀ b : Bool, ∃ s : State, s.isMaster = b) ∧
    (∀ m ∈ [none, some 1, some 0], ∃ (s : State) (p : Packet), p.body = .ptp s.ptpDomain (.sync 4 none) ∧ s.isMaster = false ∧ s.time.master = m ∧
      p.src.toNat = 1) ∧
    (∃ (s : State) (p : Packet), p.body = .ptp 1 (.sync 4 (some 7)) ∧ (1 : Byte) ≠ s.ptpDomain) ∧
    (∃ (s : State) (p : Packet), p.body = .ptp s.ptpDomain (.followUp 4 7) ∧ s.isMaster = false ∧ s.time.syncIn = some (p.src.toNat, 4, 6) ∧
      s.time.master = some p.src.toNat) ∧
    (∀ x ∈ [none, some (5, 6)], ∃ (s : State) (p : Packet), p.body = .ptp s.ptpDomain (if x.isSome then .pdelayFollowUp 4 7 else .pdelayResp 4 5) ∧
      kget s.time.asking p.src.toNat = some (4, 3, x)) ∧
    (∃ s : State, kget s.time.delays 1 = some 12) ∧
    (∀ b : Bool, ∃ s : State, s.time.loaded = b) ∧
    (∃ s : State, s.time.loaded = true ∧ s.time.locked = false ∧ (160 : Int).natAbs ≤ 160 ∧ 15 ≤ s.time.inBand ∧ s.outranked = false) ∧
    (∃ s : State, s.time.loaded = true ∧ s.time.locked = true ∧ 160 < (-161 : Int).natAbs ∧ 15 ≤ s.time.outBand) ∧
    (∃ s : State, s.shardHeader 2 0x3000 = none) ∧
    (∃ s : State, ∃ h, s.shardHeader 1 0x3000 = some h ∧ ∃ x ∈ s.async.ops, s.copyMeets 1 0x3000 (256 + shardPlen h) x.2 = true) ∧
    (∃ s : State, ∃ h pay s1, s.shardHeader 1 0x3000 = some h ∧ (∀ x ∈ s.async.ops, s.copyMeets 1 0x3000 (256 + shardPlen h) x.2 = false) ∧
      s.shardPayload 1 0x3000 h = some pay ∧ s.writeRange (s.whoOf 1) (0x3000 + 0x40) (sha384 pay ++ sha384 (h.take 0x40 ++ sha384 pay)) = .ok s1) := by
  refine ⟨?_, ?_, ⟨timed t0, packetOf 0x0C (.ptp 1 (.sync 4 (some 7))), rfl, by decide⟩,
    ⟨timed { t0 with syncIn := some (1, 4, 6), master := some 1 }, packetOf 0x0C (.ptp 0 (.followUp 4 7)), rfl, by decide, rfl, rfl⟩,
    fun x hx => ⟨timed { t0 with asking := [(1, (4, 3, x))] }, packetOf 0x0C (.ptp 0 (if x.isSome then .pdelayFollowUp 4 7 else .pdelayResp 4 5)), by revert x; decide, rfl⟩,
    ⟨timed { t0 with delays := [(1, 12)] }, rfl⟩, ?_, ?_, ?_, ?_, ?_, ?_⟩
  · intro b
    exact ⟨timed { t0 with domain := if b then 0x10800 else 0x0800 }, by cases b <;> decide⟩
  · intro m hm
    exact ⟨timed { t0 with master := m }, packetOf 0x0C (.ptp 0 (.sync 4 none)), by revert m hm; decide, by show t0.domain.getLsbD 16 = false; decide, rfl, by decide⟩
  · intro b
    exact ⟨timed { t0 with loaded := b }, rfl⟩
  · exact ⟨timed { t0 with loaded := true, inBand := 15 }, rfl, rfl, by decide, by decide, rfl⟩
  · exact ⟨timed { t0 with loaded := true, locked := true, outBand := 15 }, rfl, rfl, by decide, by decide⟩
  · exact ⟨sharded [], by decide +kernel⟩
  · let s := sharded [(5, transfer (.copy 0x5000 0x30C0 64 0) 0)]
    have h : (s.shardHeader 1 0x3000).elim false (fun h => s.copyMeets 1 0x3000 (256 + shardPlen h) (transfer (.copy 0x5000 0x30C0 64 0) 0)) = true := by
      decide +kernel
    cases hh : s.shardHeader 1 0x3000 with
    | none => rw [hh] at h; cases h
    | some x => rw [hh] at h; exact ⟨s, x, hh, _, List.mem_singleton.2 rfl, h⟩
  · have h : ((sharded []).shardHeader 1 0x3000).elim false (fun h => ((sharded []).shardPayload 1 0x3000 h).isSome) = true := by decide +kernel
    cases hh : (sharded []).shardHeader 1 0x3000 with
    | none => rw [hh] at h; cases h
    | some x =>
      rw [hh] at h
      obtain ⟨pay, hp⟩ := is_some h
      have hw : ∀ bs : List Byte, bs.length = 96 → ∃ s1, (sharded []).writeRange ((sharded []).whoOf 1) (0x3000 + 0x40) bs = .ok s1 := by
        intro bs hb
        have g : good (fun _ => true) ((sharded []).homes ((sharded []).whoOf 1) .store (0x3000 + 0x40) (96 / 128 + 2) 96) = true := by decide +kernel
        obtain ⟨l, hl, _⟩ := is_ok _ g
        unfold State.writeRange
        rw [hb, hl]
        exact ⟨_, rfl⟩
      obtain ⟨s1, h1⟩ := hw (sha384 pay ++ sha384 (x.take 0x40 ++ sha384 pay)) (by rw [List.length_append, sha384_length, sha384_length])
      exact ⟨sharded [], x, pay, s1, hh, fun y hy => (nomatch hy), hp, h1⟩

/-! ## Steps -/

/-- A course that issues its first instruction has started. -/
def startedCourse (s : State) (c : Course) : State := if c.level = 0 then s.modCourse 0 0 (fun c => { c with started := true }) else s

/-- The next turn is the course's or the sequencer's, its instruction can be fetched and issues, and it is not held. -/
def courseStep (s : State) : Bool :=
  match s.advance with
  | (some (.course 0 0), s1) => match s1.course? 0 0 with
    | none => false
    | some c0 => match headEntry c0.polled.front with
      | none => false
      | some E => match (s1.setCourse 0 0 c0.polled).fetched 0 0 c0.polled E with
        | (_, .error _) => false
        | (s2, .ok i) =>
          let s3 := startedCourse s2 c0.polled
          !c0.polled.stepsNow && c0.polled.breakpoint E.pc == none && !s3.scoreboard 0 c0.polled E i &&
            (match exec i { s3 with focus := .course 0 0 } with
             | .next t => !({ t with focus := .none } : State).heldAt 0 0 E
             | _ => false)
  | _ => false

def streamStep (s : State) : Bool :=
  match s.advance with
  | (some (.stream 0 0), s1) => match s1.panel? 0 0 with
    | none => false
    | some p => !p.ending && match s1.seqFetched 0 p with
      | (_, .error _) => false
      | (s2, .ok i) => match exec i { (s2.modPanel 0 0 (fun p => { p with sstarted := true })) with focus := .stream 0 0 } with
        | .next _ => true
        | _ => false
  | _ => false

def eventStep (s : State) : Bool :=
  match s.advance with
  | (some (.event i), s1) => match exec i { s1 with focus := .none } with | .next _ => true | _ => false
  | _ => false

theorem decodes {x : Except Illegal Instr} (h : (match x with | .ok _ => true | .error _ => false) = true) : ∃ i, x = .ok i := by
  cases x with
  | ok i => exact ⟨i, rfl⟩
  | error e => cases h

theorem witness_StepRuns :
    (∃ s : State, s.dev.powered = false ∧ s.agenda = []) ∧
    (∀ b : Bool, ∃ s : State, ∃ it rest i, s.dev.powered = false ∧ s.agenda = it :: rest ∧ it.turn = .event i ∧ actsUnpowered i = b) ∧
    (∃ s : State, ∃ s1, s.dev.powered = true ∧ s.advance = (none, s1)) ∧
    (∃ s : State, ∃ i s1 t, s.dev.powered = true ∧ s.advance = (some (.event i), s1) ∧ exec i { s1 with focus := .none } = .next t) ∧
    (∃ s : State, ∃ s1 c0 E s2 i t, s.dev.powered = true ∧ s.advance = (some (.course 0 0), s1) ∧ s1.course? 0 0 = some c0 ∧ headEntry c0.polled.front = some E ∧
      (E.wait = .none → c0.polled.stepsNow = false ∧ c0.polled.breakpoint E.pc = none) ∧
      (s1.setCourse 0 0 c0.polled).fetched 0 0 c0.polled E = (s2, .ok i) ∧
      (startedCourse s2 c0.polled).scoreboard 0 c0.polled E i = false ∧
      exec i { (startedCourse s2 c0.polled) with focus := .course 0 0 } = .next t ∧
      ({ t with focus := .none } : State).heldAt 0 0 E = false) ∧
    (∃ s : State, ∃ s1 p s2 i t, s.dev.powered = true ∧ s.advance = (some (.stream 0 0), s1) ∧ s1.panel? 0 0 = some p ∧ p.ending = false ∧
      s1.seqFetched 0 p = (s2, .ok i) ∧ exec i { (s2.modPanel 0 0 (fun p => { p with sstarted := true })) with focus := .stream 0 0 } = .next t) ∧
    (∃ (s : State) (c : Course) (E : Entry), ∃ x i, c.started = true ∧ s.icFind 0 (s.courseWho 0 c).ctx (pcLine E.pc) = some x ∧ x.lbad = false ∧
      lineReservedOk x.bits = true ∧ x.sbad.getLsbD (pcSlot E.pc) = false ∧ decodeSlot false (lineSlot x.bits (pcSlot E.pc)) = .ok i) ∧
    (∃ (s : State) (p : Panel), ∃ x i, p.sstarted = true ∧ s.icFind 0 (s.skeinWho p.skein 0 none).ctx (pcLine p.spc) = some x ∧ x.lbad = false ∧
      lineReservedOk x.bits = true ∧ x.sbad.getLsbD (pcSlot p.spc) = false ∧ decodeSlot true (lineSlot x.bits (pcSlot p.spc)) = .ok i) ∧
    (∃ s : State, ∃ l t u, s.nextTurn l = some t ∧ u ∈ l ∧ keyBefore s.rotor u.key = true) ∧
    (∃ s : State, ∃ it rest, s.placementDue = [] ∧
      s.reqTimers ++ s.collTimers ++ s.faultTimers ++ s.sampleTimers ++ s.syncTimer ++ s.launcherTimer ++ s.partTimers = [] ∧
      s.agenda = it :: rest ∧ (∀ u, s.nextTurn s.turns = some u → it.at_ < s.time.gt + s.turnGt u)) := by
  let off : State := { State.reset with dev := { State.reset.dev with powered := false } }
  refine ⟨⟨off, rfl, rfl⟩, fun b => ⟨{ off with agenda := [⟨0, .event (if b then .powerLoss false else .clockReduction)⟩] }, _, _, _, rfl, rfl, rfl,
    by cases b <;> rfl⟩, ?_, ?_, ?_, ?_, ?_, ?_, ?_, ?_⟩
  · have h : (State.reset.advance.1).isNone = true := by decide +kernel
    exact ⟨State.reset, State.reset.advance.2, rfl, by rw [← Option.isNone_iff_eq_none.1 h]⟩
  · let s : State := { State.reset with agenda := [⟨0, .event (.attach (.skein 3))⟩] }
    have h : eventStep s = true := by decide +kernel
    unfold eventStep at h
    split at h
    · rename_i i s1 ha
      split at h
      · rename_i t ht
        exact ⟨s, i, s1, t, rfl, ha, ht⟩
      · cases h
    · cases h
  · let s := State.reset.withFetchWord 96 0x100300420C00000000000000
    have h : courseStep s = true := by decide +kernel
    unfold courseStep at h
    split at h
    · rename_i s1 ha
      split at h
      · cases h
      · rename_i c0 hc
        split at h
        · cases h
        · rename_i E hE
          split at h
          · cases h
          · rename_i s2 i hf
            simp only [Bool.and_eq_true, Bool.not_eq_true', beq_iff_eq] at h
            obtain ⟨⟨⟨h1, h2⟩, h3⟩, h4⟩ := h
            split at h4
            · rename_i t ht
              exact ⟨s, s1, c0, E, s2, i, t, rfl, ha, hc, hE, fun _ => ⟨h1, h2⟩, hf, h3, ht, by simpa using h4⟩
            · cases h4
    · cases h
  · let s := State.reset.withFetchWord 96 0x980000000000000001230005
    have h : streamStep s = true := by decide +kernel
    unfold streamStep at h
    split at h
    · rename_i s1 ha
      split at h
      · cases h
      · rename_i p hp
        simp only [Bool.and_eq_true, Bool.not_eq_true'] at h
        obtain ⟨h1, h2⟩ := h
        split at h2
        · cases h2
        · rename_i s2 i hf
          split at h2
          · rename_i t ht
            exact ⟨s, s1, p, s2, i, t, rfl, ha, hp, h1, hf, ht⟩
          · cases h2
    · cases h
  · let w : Slot := 0x100300420C00000000000000
    obtain ⟨i, hi⟩ := decodes (x := decodeSlot false (lineSlot (lineOf [w]) (pcSlot loadPc))) (by decide +kernel)
    exact ⟨State.reset.withFetchWord 96 0x100300420C00000000000000, { Course.start (loadLaunch false) 0 0 0 0 with started := true }, Entry.fresh loadPc 0 1 false,
      icMark 1 loadPc (lineOf [w]), i, rfl, by decide +kernel, by decide +kernel, by decide +kernel, by decide +kernel, hi⟩
  · let w : Slot := 0x980000000000000001230005
    obtain ⟨i, hi⟩ := decodes (x := decodeSlot true (lineSlot (lineOf [w]) (pcSlot loadPc))) (by decide +kernel)
    exact ⟨State.reset.withFetchWord 96 0x980000000000000001230005, { Panel.start (loadHeader true) 0 0 with sstarted := true },
      icMark 1 loadPc (lineOf [w]), i, rfl, by decide +kernel, by decide +kernel, by decide +kernel, by decide +kernel, hi⟩
  · exact ⟨State.reset, [.course 0 2, .course 0 1], .course 0 1, .course 0 2, by decide +kernel, .head _, by decide +kernel⟩
  · have h : ((State.reset.withFetchWord 96 0x100300420C00000000000000).nextTurn (State.reset.withFetchWord 96 0x100300420C00000000000000).turns).elim true
        (fun u => decide (0 < 0 + (State.reset.withFetchWord 96 0x100300420C00000000000000).turnGt u)) = true := by decide +kernel
    exact ⟨State.reset.withFetchWord 96 0x100300420C00000000000000, _, _, by decide +kernel, by decide +kernel, rfl, fun u hu => by
      rw [hu] at h; exact of_decide_eq_true h⟩

theorem witness_EncodingRoundTrip : Instr.wellFormed false (.trap (gen 0 (.w 0) (.w 0) (.w 0) 0xFFFF)) = true := by decide

theorem witness_MemoryInvariant : ∃ s t : State, memoryKept s ∧ step s = .next t := by
  have h : (match step (State.reset.withFetchWord 96 0x100300420C00000000000000) with | .next _ => true | _ => false) = true := by decide +kernel
  refine ⟨State.reset.withFetchWord 96 0x100300420C00000000000000, ?_⟩
  split at h
  · rename_i t ht
    exact ⟨t, by unfold memoryKept; decide +kernel, ht⟩
  · cases h

end Sys2Proof.Tests
end

