-- ==== Sys2Proof/Tests/Slice0.lean ====
section
/-! SUPPORT. The author's own tests: ill-formed instructions that the checks refuse, one word of every coded instruction written out from the
layout of a slot (R104, R114), worked examples of the spec, and first steps after reset. Each expected value is the spec's or was computed
by hand from its rules. -/
set_option maxRecDepth 20000
set_option Elab.async false
namespace Sys2Proof.Tests
open Sys2Proof Sys2Proof.Machine

/-! ## Well-formedness: a refused term for each check of R116 -/

/-- Its first failing check, none for a well-formed instruction. -/
def failing (stream : Bool) (i : Instr) : Option Illegal := (i.form stream).bind (fun f => f.check stream)

def frm (m : Byte) (d a b : Reg) (imm : BitVec 48 := 0) (fn : BitVec 3 := 0) (c : Reg := .w 0) (u : Bool := false) : Gen := ⟨⟨⟨false, 0⟩, m, d, a, b, c, u⟩, fn, imm⟩

/-- Check 5: an opcode of the other stream. -/
theorem test_wf_stream : failing true (.exit (frm 0 (.w 0) (.w 0) (.w 0))) = some ⟨0x05, 0x7F⟩ ∧
    failing false (.sba (frm 0 (.w 0) (.w 0) (.w 0))) = some ⟨0x05, 0x7F⟩ := by decide
/-- Check 6: reserved modifier bits, SX with W 64, V in the matrix stream. -/
theorem test_wf_modifier : failing false (.add (frm 0x13 (.w 1) (.w 2) (.w 3))) = some ⟨0x02, 0x7F⟩ ∧
    failing false (.add (frm 0x07 (.w 1) (.w 2) (.w 3))) = some ⟨0x02, 0x7F⟩ ∧
    failing true (.add (frm 0x83 (.w 1) (.w 2) (.w 3))) = some ⟨0x02, 0x7F⟩ := by decide
/-- Check 7: an unused register field, an unused immediate, FN, a slot of 5, BOUND 0, SCALE without X, the U bit and a guard in the stream. -/
theorem test_wf_reserved : failing false (.trap (frm 0 (.w 1) (.w 0) (.w 0) 5)) = some ⟨0x03, 70⟩ ∧
    failing false (.add (frm 3 (.w 1) (.w 2) (.w 3) 0x10)) = some ⟨0x03, 4⟩ ∧
    failing false (.add (frm 3 (.w 1) (.w 2) (.w 3) 0 1)) = some ⟨0x03, 48⟩ ∧
    failing false (.bra ⟨⟨⟨false, 0⟩, 0, .w 0, .w 0, .w 0, .w 0, false⟩, 0, 0, 5, 0⟩) = some ⟨0x03, 16⟩ ∧
    failing false (.jtb ⟨⟨⟨false, 0⟩, 0, .w 0, .w 1, .w 2, .w 0, false⟩, 0, 0, 0, 0⟩) = some ⟨0x03, 32⟩ ∧
    failing false (.ld ⟨⟨⟨false, 0⟩, 3, .w 1, .w 2, .w 0, .w 0, false⟩, 2, false, 0⟩) = some ⟨0x03, 50⟩ ∧
    failing true (.add (frm 3 (.w 1) (.w 2) (.w 3) 0 0 (.w 0) true)) = some ⟨0x03, 51⟩ ∧
    failing true (.add ⟨⟨⟨true, 0⟩, 3, .w 1, .w 2, .w 3, .w 0, false⟩, 0, 0⟩) = some ⟨0x03, 79⟩ := by decide
/-- Check 8: a register of a class that the field does not accept, of several the lowest field; w16 in the stream. -/
theorem test_wf_class : failing false (.add (frm 3 (.w 1) (.p 2) (.t 3))) = some ⟨0x04, 58⟩ ∧
    failing true (.add (frm 3 (.w 16) (.w 2) (.w 3))) = some ⟨0x04, 70⟩ := by decide
/-- Check 9: k0 as a destination. -/
theorem test_wf_k0 : failing false (.add (frm 3 (.k 0) (.w 2) (.w 3))) = some ⟨0x07, 70⟩ := by decide
/-- The forms' own checks: more than 16 bits of RGN, a field past the width, FCVT of two integers, VPACK of no digit, an odd pair, a WB type
at an address, G code 3 of GRD, a gate of barrier 8, barrier 4 of a course, a read-only register. -/
theorem test_wf_own : failing false (.rgn (frm 0 (.w 0) (.w 0) (.w 0) 0x1FFFF)) = some ⟨0x03, 0⟩ ∧
    failing false (.bfx (frm 2 (.w 1) (.w 2) (.w 0) 0x0220)) = some ⟨0x03, 0⟩ ∧
    failing false (.fcvt (frm 0x09 (.w 1) (.w 2) (.w 0) 0x0B)) = some ⟨0x02, 0x7F⟩ ∧
    failing false (.vpmul (frm 0x0B (.v 3) (.v 1) (.v 2))) = some ⟨0x04, 70⟩ ∧
    failing false (.bar (frm 0 (.w 0) (.w 0) (.w 0) 4)) = some ⟨0x03, 0⟩ ∧
    failing false (.swr (frm 0 (.w 0) (.w 1) (.w 0) 0x12)) = some ⟨0x03, 0⟩ ∧
    failing true (.sba (frm 0 (.w 0) (.w 0) (.w 0) 8)) = some ⟨0x03, 0⟩ := by decide
/-- Nothing else: the same forms with the field put right. -/
theorem test_wf_accepts : failing false (.add (frm 3 (.w 1) (.k 2) (.w 3))) = none ∧ failing false (.bar (frm 0 (.w 0) (.w 0) (.w 0) 3)) = none ∧
    failing true (.sba (frm 0 (.w 0) (.w 0) (.w 0) 7)) = none := by decide

/-! ## Decoding: every coded instruction -/

theorem test_decode_control : ∀ x ∈ ([
    (0x000000000000000000000000, .nop ⟨⟨⟨false, 0⟩, 0x00, .w 0, .w 0, .w 0, .w 0, false⟩, 0, 0x0⟩),
    (0x010050000008FFFFFFEC1234, .bra ⟨⟨⟨false, 5⟩, 0x00, .w 0, .w 0, .w 0, .w 0, true⟩, 0, 0x1FFFFFFD, 4, 0x1234⟩),
    (0x0205A0190000055E6F7B8001, .brp ⟨⟨⟨true, 2⟩, 0x05, .w 0, .k 1, .w 0, .w 0, false⟩, 0, 0xABCDEF, 3, 0x8001⟩),
    (0x0300F0047400000C0000BEEF, .jtb ⟨⟨⟨true, 7⟩, 0x00, .w 0, .w 4, .k 5, .w 0, false⟩, 0, 0xC, 0x0, 0xBEEF⟩),
    (0x04004000000800004321BEEF, .lpad ⟨⟨⟨false, 4⟩, 0x00, .w 0, .w 0, .w 0, .w 0, true⟩, 0, 0x0, 0x4321, 0xBEEF⟩),
    (0x051790000000C00000010007, .call ⟨⟨⟨true, 1⟩, 0x17, .w 0, .w 0, .w 0, .w 0, false⟩, 0, 0x18000000, 1, 0x7⟩),
    (0x0600E0000000000000000000, .ret ⟨⟨⟨true, 6⟩, 0x00, .w 0, .w 0, .w 0, .w 0, false⟩, 0, 0x0⟩),
    (0x070030000008000000000000, .exit ⟨⟨⟨false, 3⟩, 0x00, .w 0, .w 0, .w 0, .w 0, true⟩, 0, 0x0⟩),
    (0x0800800000000000000000A5, .yield ⟨⟨⟨true, 0⟩, 0x00, .w 0, .w 0, .w 0, .w 0, false⟩, 0, 0xA5⟩),
    (0x0900D00000000000008421FF, .rgn ⟨⟨⟨true, 5⟩, 0x00, .w 0, .w 0, .w 0, .w 0, false⟩, 0, 0x8421FF⟩)] : List (Slot × Instr)),
    (decodeSlot false x.1).toOption = some x.2 := by decide
theorem test_decode_integer : ∀ x ∈ ([
    (0x108228629C08000000000000, .add ⟨⟨⟨false, 2⟩, 0x82, .v 1, .v 2, .v 7, .w 0, true⟩, 0, 0x0⟩),
    (0x1204705A5C00000000000000, .sub ⟨⟨⟨false, 7⟩, 0x04, .w 1, .k 2, .w 23, .w 0, false⟩, 0, 0x0⟩),
    (0x1303C05A5C00000000000000, .mul ⟨⟨⟨true, 4⟩, 0x03, .w 1, .k 2, .w 23, .w 0, false⟩, 0, 0x0⟩),
    (0x148118629C08000000000000, .mulh ⟨⟨⟨false, 1⟩, 0x81, .v 1, .v 2, .v 7, .w 0, true⟩, 0, 0x0⟩),
    (0x1502605A5C00000000000000, .mulhu ⟨⟨⟨false, 6⟩, 0x02, .w 1, .k 2, .w 23, .w 0, false⟩, 0, 0x0⟩),
    (0x1682B8629C00000000000000, .div ⟨⟨⟨true, 3⟩, 0x82, .v 1, .v 2, .v 7, .w 0, false⟩, 0, 0x0⟩),
    (0x1704005A5C08000000000000, .divu ⟨⟨⟨false, 0⟩, 0x04, .w 1, .k 2, .w 23, .w 0, true⟩, 0, 0x0⟩),
    (0x1803505A5C00000000000000, .rem ⟨⟨⟨false, 5⟩, 0x03, .w 1, .k 2, .w 23, .w 0, false⟩, 0, 0x0⟩),
    (0x1981A8629C00000000000000, .remu ⟨⟨⟨true, 2⟩, 0x81, .v 1, .v 2, .v 7, .w 0, false⟩, 0, 0x0⟩),
    (0x1105F25B0008FFFFFFFFFFF0, .addi ⟨⟨⟨true, 7⟩, 0x05, .w 9, .k 3, .w 0, .w 0, true⟩, 0, 0xFFFFFFFFFFF0⟩),
    (0x1A8049639800000000000000, .and ⟨⟨⟨false, 4⟩, 0x80, .v 5, .v 3, .v 6, .w 0, false⟩, 0, 0x0⟩),
    (0x1B0B90420000800000000002, .or ⟨⟨⟨true, 1⟩, 0x0B, .w 1, .w 2, .w 0, .w 0, false⟩, 0, 0x800000000002⟩),
    (0x1C82E9639808000000000000, .xor ⟨⟨⟨true, 6⟩, 0x82, .v 5, .v 3, .v 6, .w 0, true⟩, 0, 0x0⟩),
    (0x1D0B30420000800000000004, .andn ⟨⟨⟨false, 3⟩, 0x0B, .w 1, .w 2, .w 0, .w 0, false⟩, 0, 0x800000000004⟩),
    (0x1E8089639800000000000000, .shl ⟨⟨⟨true, 0⟩, 0x80, .v 5, .v 3, .v 6, .w 0, false⟩, 0, 0x0⟩),
    (0x1F0BD0420008800000000006, .shr ⟨⟨⟨true, 5⟩, 0x0B, .w 1, .w 2, .w 0, .w 0, true⟩, 0, 0x800000000006⟩),
    (0x208229639800000000000000, .sar ⟨⟨⟨false, 2⟩, 0x82, .v 5, .v 3, .v 6, .w 0, false⟩, 0, 0x0⟩),
    (0x210B70420000800000000008, .rol ⟨⟨⟨false, 7⟩, 0x0B, .w 1, .w 2, .w 0, .w 0, false⟩, 0, 0x800000000008⟩),
    (0x2580C9639808000000000000, .min ⟨⟨⟨true, 4⟩, 0x80, .v 5, .v 3, .v 6, .w 0, true⟩, 0, 0x0⟩),
    (0x260B1042000080000000000A, .max ⟨⟨⟨false, 1⟩, 0x0B, .w 1, .w 2, .w 0, .w 0, false⟩, 0, 0x80000000000A⟩),
    (0x278269639800000000000000, .minu ⟨⟨⟨false, 6⟩, 0x82, .v 5, .v 3, .v 6, .w 0, false⟩, 0, 0x0⟩),
    (0x280BB042000880000000000C, .maxu ⟨⟨⟨true, 3⟩, 0x0B, .w 1, .w 2, .w 0, .w 0, true⟩, 0, 0x80000000000C⟩),
    (0x220607110000000000000000, .clz ⟨⟨⟨false, 0⟩, 0x06, .k 4, .w 17, .w 0, .w 0, false⟩, 0, 0x0⟩),
    (0x220657110001000000000000, .ctz ⟨⟨⟨false, 5⟩, 0x06, .k 4, .w 17, .w 0, .w 0, false⟩, 1, 0x0⟩),
    (0x2206A711000A000000000000, .popc ⟨⟨⟨true, 2⟩, 0x06, .k 4, .w 17, .w 0, .w 0, true⟩, 2, 0x0⟩),
    (0x2206F7110003000000000000, .brev ⟨⟨⟨true, 7⟩, 0x06, .k 4, .w 17, .w 0, .w 0, false⟩, 3, 0x0⟩),
    (0x220647110004000000000000, .abs ⟨⟨⟨false, 4⟩, 0x06, .k 4, .w 17, .w 0, .w 0, false⟩, 4, 0x0⟩),
    (0x231390420008000000003B05, .bfx ⟨⟨⟨true, 1⟩, 0x13, .w 1, .w 2, .w 0, .w 0, true⟩, 0, 0x3B05⟩),
    (0x2402E0420C0000000000011F, .bfi ⟨⟨⟨true, 6⟩, 0x02, .w 1, .w 2, .w 3, .w 0, false⟩, 0, 0x11F⟩)] : List (Slot × Instr)),
    (decodeSlot false x.1).toOption = some x.2 := by decide
theorem test_decode_moves : ∀ x ∈ ([
    (0x2906305A0EC0000000000000, .sel ⟨⟨⟨false, 3⟩, 0x06, .w 1, .k 2, .w 3, .p 4, false⟩, 0, 0x0⟩),
    (0x2A8388620008000000000000, .mov ⟨⟨⟨true, 0⟩, 0x83, .v 1, .v 2, .w 0, .w 0, true⟩, 0, 0x0⟩),
    (0x2B04D2400000FFFFFFFFFF80, .movi ⟨⟨⟨true, 5⟩, 0x04, .w 9, .w 0, .w 0, .w 0, false⟩, 0, 0xFFFFFFFFFF80⟩),
    (0x2B0327C0000100000000CAFE, .movh ⟨⟨⟨false, 2⟩, 0x03, .k 7, .w 0, .w 0, .w 0, false⟩, 1, 0xCAFE⟩),
    (0x2C0370426C0DFFFFFFFFF000, .lea ⟨⟨⟨false, 7⟩, 0x03, .w 1, .w 2, .k 3, .w 0, true⟩, 2, true, 0xFFFFFFFFF000⟩),
    (0x2D2BCA83000000000000000A, .cmp ⟨⟨⟨true, 4⟩, 0x2B, .p 2, .w 3, .w 0, .w 0, false⟩, 0, 0xA⟩),
    (0x2E001A6AAEF0000000000096, .plop ⟨⟨⟨false, 1⟩, 0x00, .p 1, .p 2, .p 3, .p 7, false⟩, 0, 0x96⟩),
    (0x2F036140000800000000000B, .rdid ⟨⟨⟨false, 6⟩, 0x03, .w 5, .w 0, .w 0, .w 0, true⟩, 0, 0xB⟩)] : List (Slot × Instr)),
    (decodeSlot false x.1).toOption = some x.2 := by decide
theorem test_decode_floating : ∀ x ∈ ([
    (0x3013B0426C00000000000000, .fadd ⟨⟨⟨true, 3⟩, 0x13, .w 1, .w 2, .k 3, .w 0, false⟩, 0, 0x0⟩),
    (0x31B408628C00000000000000, .fsub ⟨⟨⟨false, 0⟩, 0xB4, .v 1, .v 2, .v 3, .w 0, false⟩, 0, 0x0⟩),
    (0x325550426C08000000000000, .fmul ⟨⟨⟨false, 5⟩, 0x55, .w 1, .w 2, .k 3, .w 0, true⟩, 0, 0x0⟩),
    (0x33F6A8628E40000000000000, .fma ⟨⟨⟨true, 2⟩, 0xF6, .v 1, .v 2, .v 3, .v 4, false⟩, 0, 0x0⟩),
    (0x3413F0426C00000000000000, .fdiv ⟨⟨⟨true, 7⟩, 0x13, .w 1, .w 2, .k 3, .w 0, false⟩, 0, 0x0⟩),
    (0x35B448620008000000000000, .fsqrt ⟨⟨⟨false, 4⟩, 0xB4, .v 1, .v 2, .w 0, .w 0, true⟩, 0, 0x0⟩),
    (0x365590420000000000000000, .frcp ⟨⟨⟨true, 1⟩, 0x55, .w 1, .w 2, .w 0, .w 0, false⟩, 0, 0x0⟩),
    (0x37F6E8620000000000000000, .frsq ⟨⟨⟨true, 6⟩, 0xF6, .v 1, .v 2, .w 0, .w 0, false⟩, 0, 0x0⟩),
    (0x381330420008000000000000, .fex2 ⟨⟨⟨false, 3⟩, 0x13, .w 1, .w 2, .w 0, .w 0, true⟩, 0, 0x0⟩),
    (0x39B488620000000000000000, .flg2 ⟨⟨⟨true, 0⟩, 0xB4, .v 1, .v 2, .w 0, .w 0, false⟩, 0, 0x0⟩),
    (0x3A15D0426C00000000000000, .fmin ⟨⟨⟨true, 5⟩, 0x15, .w 1, .w 2, .k 3, .w 0, false⟩, 0, 0x0⟩),
    (0x3B9628628C08000000000000, .fmax ⟨⟨⟨false, 2⟩, 0x96, .v 1, .v 2, .v 3, .w 0, true⟩, 0, 0x0⟩),
    (0x3E1370420000000000000000, .fcls ⟨⟨⟨false, 7⟩, 0x13, .w 1, .w 2, .w 0, .w 0, false⟩, 0, 0x0⟩),
    (0x3FB4C8620000000000000000, .frnd ⟨⟨⟨true, 4⟩, 0xB4, .v 1, .v 2, .w 0, .w 0, false⟩, 0, 0x0⟩),
    (0x3C9510A18C08000000000007, .fcmp ⟨⟨⟨false, 1⟩, 0x95, .w 2, .v 1, .v 3, .w 0, true⟩, 0, 0x7⟩),
    (0x3DF56862000000000ABC0113, .fcvt ⟨⟨⟨false, 6⟩, 0xF5, .v 1, .v 2, .w 0, .w 0, false⟩, 0, 0xABC0113⟩)] : List (Slot × Instr)),
    (decodeSlot false x.1).toOption = some x.2 := by decide
theorem test_decode_vector : ∀ x ∈ ([
    (0x402BB8400000FFFFFFFFFFFE, .vspl ⟨⟨⟨true, 3⟩, 0x2B, .v 1, .w 0, .w 0, .w 0, false⟩, 0, 0xFFFFFFFFFFFE⟩),
    (0x410608628C08000000000000, .vprm ⟨⟨⟨false, 0⟩, 0x06, .v 1, .v 2, .v 3, .w 0, true⟩, 0, 0x0⟩),
    (0x42275062000000000000001F, .vext ⟨⟨⟨false, 5⟩, 0x27, .w 1, .v 2, .w 0, .w 0, false⟩, 0, 0x1F⟩),
    (0x430CA8426C00000000000000, .vins ⟨⟨⟨true, 2⟩, 0x0C, .v 1, .w 2, .k 3, .w 0, false⟩, 0, 0x0⟩),
    (0x4469F0620C08000000000001, .vred ⟨⟨⟨true, 7⟩, 0x69, .w 1, .v 2, .w 3, .w 0, true⟩, 0, 0x1⟩),
    (0x451548620000000000000000, .vscn ⟨⟨⟨false, 4⟩, 0x15, .v 1, .v 2, .w 0, .w 0, false⟩, 0, 0x0⟩),
    (0x461698628C40000000000000, .vsel ⟨⟨⟨true, 1⟩, 0x16, .v 1, .v 2, .v 3, .w 4, false⟩, 0, 0x0⟩),
    (0x4748E8420008000000000000, .vmsk ⟨⟨⟨true, 6⟩, 0x48, .v 1, .w 2, .w 0, .w 0, true⟩, 0, 0x0⟩),
    (0x481838628C00000001230100, .vqnt ⟨⟨⟨false, 3⟩, 0x18, .v 1, .v 2, .v 3, .w 0, false⟩, 0, 0x1230100⟩),
    (0x497588620000000004560700, .vdqn ⟨⟨⟨true, 0⟩, 0x75, .v 1, .v 2, .w 0, .w 0, false⟩, 0, 0x4560700⟩),
    (0x4A19D8620008000000000000, .vtag ⟨⟨⟨true, 5⟩, 0x19, .v 1, .v 2, .w 0, .w 0, true⟩, 0, 0x0⟩),
    (0x4B2528620000000000020408, .vpack ⟨⟨⟨false, 2⟩, 0x25, .v 1, .v 2, .w 0, .w 0, false⟩, 0, 0x20408⟩),
    (0x4C4978620000000000F30810, .vunpk ⟨⟨⟨false, 7⟩, 0x49, .v 1, .v 2, .w 0, .w 0, false⟩, 0, 0xF30810⟩),
    (0x4D0BC9A18808000000000000, .vpmul ⟨⟨⟨true, 4⟩, 0x0B, .v 6, .v 1, .v 2, .w 0, true⟩, 0, 0x0⟩),
    (0x4E0C18420000000000000000, .vrand ⟨⟨⟨false, 1⟩, 0x0C, .v 1, .w 2, .w 0, .w 0, false⟩, 0, 0x0⟩)] : List (Slot × Instr)),
    (decodeSlot false x.1).toOption = some x.2 := by decide
theorem test_decode_across_strands : ∀ x ∈ ([
    (0x504060420000000000000009, .xshf ⟨⟨⟨false, 6⟩, 0x40, .w 1, .w 2, .w 0, .w 0, false⟩, 0, 0x9⟩),
    (0x5100B8620C00000000000000, .xbrd ⟨⟨⟨true, 3⟩, 0x00, .v 1, .v 2, .w 3, .w 0, false⟩, 0, 0x0⟩),
    (0x52A900420000000000000000, .xred ⟨⟨⟨false, 0⟩, 0xA9, .w 1, .w 2, .w 0, .w 0, false⟩, 0, 0x0⟩),
    (0x535558620000000000000001, .xscn ⟨⟨⟨false, 5⟩, 0x55, .v 1, .v 2, .w 0, .w 0, false⟩, 0, 0x1⟩),
    (0x5440A06A0000000000000000, .xvot ⟨⟨⟨true, 2⟩, 0x40, .w 1, .p 2, .w 0, .w 0, false⟩, 0, 0x0⟩),
    (0x5509F05A0000000000000000, .xuni ⟨⟨⟨true, 7⟩, 0x09, .w 1, .k 2, .w 0, .w 0, false⟩, 0, 0x0⟩)] : List (Slot × Instr)),
    (decodeSlot false x.1).toOption = some x.2 := by decide
theorem test_decode_memory : ∀ x ∈ ([
    (0x601340426C07FFFFFFFFFFF0, .ld ⟨⟨⟨false, 4⟩, 0x13, .w 1, .w 2, .k 3, .w 0, false⟩, 3, true, 0xFFFFFFFFFFF0⟩),
    (0x610890790008000000000005, .st ⟨⟨⟨true, 1⟩, 0x08, .w 1, .t 9, .w 0, .w 0, true⟩, 0, false, 0x5⟩),
    (0x62ACE8420000123456789ABC, .ldv ⟨⟨⟨true, 6⟩, 0xAC, .v 1, .w 2, .w 0, .w 0, false⟩, 0, false, 0x123456789ABC⟩),
    (0x63C438720C01000000000000, .stv ⟨⟨⟨false, 3⟩, 0xC4, .v 1, .t 2, .w 3, .w 0, false⟩, 0, true, 0x0⟩),
    (0x642C88428C4D000000000008, .gath ⟨⟨⟨true, 0⟩, 0x2C, .v 1, .w 2, .v 3, .w 4, true⟩, 2, true, 0x8⟩),
    (0x6513D8428C01FFFFFFFFFFF8, .scat ⟨⟨⟨true, 5⟩, 0x13, .v 1, .w 2, .v 3, .w 0, false⟩, 0, true, 0xFFFFFFFFFFF8⟩),
    (0x700320420DC1FFFFFFFFFFF8, .aadd ⟨⟨⟨false, 2⟩, 0x03, .w 1, .w 2, .w 3, .k 4, false⟩, 0, true, 0xFFFFFFFFFFF8⟩),
    (0x710C70420DCBFFFFFFFFFFF0, .amin ⟨⟨⟨false, 7⟩, 0x0C, .w 1, .w 2, .w 3, .k 4, true⟩, 1, true, 0xFFFFFFFFFFF0⟩),
    (0x720BC0420DC5FFFFFFFFFFE0, .amax ⟨⟨⟨true, 4⟩, 0x0B, .w 1, .w 2, .w 3, .k 4, false⟩, 2, true, 0xFFFFFFFFFFE0⟩),
    (0x730410420DC7FFFFFFFFFFC0, .aand ⟨⟨⟨false, 1⟩, 0x04, .w 1, .w 2, .w 3, .k 4, false⟩, 3, true, 0xFFFFFFFFFFC0⟩),
    (0x740360420DC9FFFFFFFFFF80, .aor ⟨⟨⟨false, 6⟩, 0x03, .w 1, .w 2, .w 3, .k 4, true⟩, 0, true, 0xFFFFFFFFFF80⟩),
    (0x7504B0420DC3FFFFFFFFFF00, .axor ⟨⟨⟨true, 3⟩, 0x04, .w 1, .w 2, .w 3, .k 4, false⟩, 1, true, 0xFFFFFFFFFF00⟩),
    (0x760300420DC5FFFFFFFFFE00, .axch ⟨⟨⟨false, 0⟩, 0x03, .w 1, .w 2, .w 3, .k 4, false⟩, 2, true, 0xFFFFFFFFFE00⟩),
    (0x770450420DCFFFFFFFFFFC00, .acas ⟨⟨⟨false, 5⟩, 0x04, .w 1, .w 2, .w 3, .k 4, true⟩, 3, true, 0xFFFFFFFFFC00⟩),
    (0x7803A0420DC1FFFFFFFFF800, .afad ⟨⟨⟨true, 2⟩, 0x03, .w 1, .w 2, .w 3, .k 4, false⟩, 0, true, 0xFFFFFFFFF800⟩)] : List (Slot × Instr)),
    (decodeSlot false x.1).toOption = some x.2 := by decide
theorem test_decode_tiles : ∀ x ∈ ([
    (0x8000F0016800000000000009, .tdsc ⟨⟨⟨true, 7⟩, 0x00, .w 0, .w 1, .k 2, .w 0, false⟩, 0, 0x9⟩),
    (0x81094CC1080800000001ABCD, .tfch ⟨⟨⟨false, 4⟩, 0x09, .t 3, .w 1, .w 2, .w 0, true⟩, 0, 0x1ABCD⟩),
    (0x82019034000000000001FFFF, .tevc ⟨⟨⟨true, 1⟩, 0x01, .w 0, .t 4, .w 0, .w 0, false⟩, 0, 0x1FFFF⟩),
    (0x830FEC720000000000010001, .tmov ⟨⟨⟨true, 6⟩, 0x0F, .t 1, .t 2, .w 0, .w 0, false⟩, 0, 0x10001⟩),
    (0x840230350428000000000000, .tacc ⟨⟨⟨false, 3⟩, 0x02, .w 0, .t 5, .w 1, .w 2, true⟩, 0, 0x0⟩),
    (0x850380720C0100000000004D, .tset ⟨⟨⟨true, 0⟩, 0x03, .w 1, .t 2, .w 3, .w 0, false⟩, 0, true, 0x4D⟩),
    (0x8600D07F00007FFFFFFFFFFF, .tget ⟨⟨⟨true, 5⟩, 0x00, .w 1, .t 15, .w 0, .w 0, false⟩, 0, false, 0x7FFFFFFFFFFF⟩),
    (0x87032A720DC8000000000000, .tcmp ⟨⟨⟨false, 2⟩, 0x03, .p 1, .t 2, .w 3, .k 4, true⟩, 0, 0x0⟩),
    (0x880070360000000000010002, .tlogCompact ⟨⟨⟨false, 7⟩, 0x00, .w 0, .t 6, .w 0, .w 0, false⟩, 0, 0x10002⟩),
    (0x8801C0360000000000010003, .tlogApply ⟨⟨⟨true, 4⟩, 0x01, .w 0, .t 6, .w 0, .w 0, false⟩, 0, 0x10003⟩),
    (0x880210360008000000010004, .tlogDiscard ⟨⟨⟨false, 1⟩, 0x02, .w 0, .t 6, .w 0, .w 0, true⟩, 0, 0x10004⟩),
    (0x880360B60000000000000000, .tlogQuery ⟨⟨⟨false, 6⟩, 0x03, .w 2, .t 6, .w 0, .w 0, false⟩, 0, 0x0⟩),
    (0x8900B001083000000001000A, .cpy ⟨⟨⟨true, 3⟩, 0x00, .w 0, .w 1, .w 2, .w 3, false⟩, 0, 0x1000A⟩),
    (0x89010001C808000000010007, .cpySnap ⟨⟨⟨false, 0⟩, 0x01, .w 0, .w 1, .t 2, .w 0, true⟩, 0, 0x10007⟩),
    (0x8A00500000000000000000C8, .cwt ⟨⟨⟨false, 5⟩, 0x00, .w 0, .w 0, .w 0, .w 0, false⟩, 0, 0xC8⟩),
    (0x8B02A0420000000000000000, .rlq ⟨⟨⟨true, 2⟩, 0x02, .w 1, .w 2, .w 0, .w 0, false⟩, 0, 0x0⟩)] : List (Slot × Instr)),
    (decodeSlot false x.1).toOption = some x.2 := by decide
theorem test_decode_engine : ∀ x ∈ ([
    (0x90000000000007FE00001802, .grd ⟨⟨⟨false, 0⟩, 0x00, .w 0, .w 0, .w 0, .w 0, false⟩, 0, 0x7FE00001802⟩),
    (0x9100004F0000000000000000, .job ⟨⟨⟨false, 0⟩, 0x00, .w 1, .w 15, .w 0, .w 0, false⟩, 0, 0x0⟩),
    (0x920100C00000000000000000, .jwt ⟨⟨⟨false, 0⟩, 0x01, .w 3, .w 0, .w 0, .w 0, false⟩, 0, 0x0⟩),
    (0x930000020000000000000000, .jrs ⟨⟨⟨false, 0⟩, 0x00, .w 0, .w 2, .w 0, .w 0, false⟩, 0, 0x0⟩),
    (0x940000000000000000000000, .acz ⟨⟨⟨false, 0⟩, 0x00, .w 0, .w 0, .w 0, .w 0, false⟩, 0, 0x0⟩),
    (0x950000070000000000000000, .acs ⟨⟨⟨false, 0⟩, 0x00, .w 0, .w 7, .w 0, .w 0, false⟩, 0, 0x0⟩),
    (0x960000080000000000000000, .acl ⟨⟨⟨false, 0⟩, 0x00, .w 0, .w 8, .w 0, .w 0, false⟩, 0, 0x0⟩),
    (0x970100090000000000000000, .ext ⟨⟨⟨false, 0⟩, 0x01, .w 0, .w 9, .w 0, .w 0, false⟩, 0, 0x0⟩),
    (0x980000000000000001230005, .sba ⟨⟨⟨false, 0⟩, 0x00, .w 0, .w 0, .w 0, .w 0, false⟩, 0, 0x1230005⟩),
    (0x9900000000000000FFFF000F, .sbw ⟨⟨⟨false, 0⟩, 0x00, .w 0, .w 0, .w 0, .w 0, false⟩, 0, 0xFFFF000F⟩),
    (0x070000000000000000000000, .streamExit ⟨⟨⟨false, 0⟩, 0x00, .w 0, .w 0, .w 0, .w 0, false⟩, 0, 0x0⟩)] : List (Slot × Instr)),
    (decodeSlot true x.1).toOption = some x.2 := by decide
theorem test_decode_synchronisation : ∀ x ∈ ([
    (0xA00460010000000000000000, .bara ⟨⟨⟨false, 6⟩, 0x04, .w 0, .w 1, .w 0, .w 0, false⟩, 0, 0x0⟩),
    (0xA101B000000800000000000F, .barw ⟨⟨⟨true, 3⟩, 0x01, .w 0, .w 0, .w 0, .w 0, true⟩, 0, 0xF⟩),
    (0xA20300000000000000000003, .bar ⟨⟨⟨false, 0⟩, 0x03, .w 0, .w 0, .w 0, .w 0, false⟩, 0, 0x3⟩),
    (0xA3085080000000000011ABCD, .barq ⟨⟨⟨false, 5⟩, 0x08, .w 2, .w 0, .w 0, .w 0, false⟩, 0, 0x11ABCD⟩),
    (0xA40AA040000889ABCDEF1234, .cinc ⟨⟨⟨true, 2⟩, 0x0A, .w 1, .w 0, .w 0, .w 0, true⟩, 0, 0x89ABCDEF1234⟩),
    (0xA501F0010800000000000000, .cwait ⟨⟨⟨true, 7⟩, 0x01, .w 0, .w 1, .w 2, .w 0, false⟩, 0, 0x0⟩),
    (0xA60840C0700000000000FEDC, .cset ⟨⟨⟨false, 4⟩, 0x08, .w 3, .w 0, .k 4, .w 0, false⟩, 0, 0xFEDC⟩),
    (0xA70090000408000000105678, .cdcl ⟨⟨⟨true, 1⟩, 0x00, .w 0, .w 0, .w 1, .w 0, true⟩, 0, 0x105678⟩),
    (0xA802E0000000000000000000, .fence ⟨⟨⟨true, 6⟩, 0x02, .w 0, .w 0, .w 0, .w 0, false⟩, 0, 0x0⟩)] : List (Slot × Instr)),
    (decodeSlot false x.1).toOption = some x.2 := by decide
theorem test_decode_fabric : ∀ x ∈ ([
    (0xB00B30420000FFFFFFFFFFF8, .fld ⟨⟨⟨false, 3⟩, 0x0B, .w 1, .w 2, .w 0, .w 0, false⟩, 0, 0xFFFFFFFFFFF8⟩),
    (0xB10280020C08100000000000, .fst ⟨⟨⟨true, 0⟩, 0x02, .w 0, .w 2, .w 3, .w 0, true⟩, 0, 0x100000000000⟩),
    (0xB24CD0026C00000000000001, .fatm ⟨⟨⟨true, 5⟩, 0x4C, .w 0, .w 2, .k 3, .w 0, false⟩, 0, 0x1⟩),
    (0xB30020050000000000000000, .qpst ⟨⟨⟨false, 2⟩, 0x00, .w 0, .w 5, .w 0, .w 0, false⟩, 0, 0x0⟩),
    (0xB4007005180800000000FFFF, .qarm ⟨⟨⟨false, 7⟩, 0x00, .w 0, .w 5, .w 6, .w 0, true⟩, 0, 0xFFFF⟩),
    (0xB500C0420000000000000000, .coll ⟨⟨⟨true, 4⟩, 0x00, .w 1, .w 2, .w 0, .w 0, false⟩, 0, 0x0⟩),
    (0xB60010420000000000000003, .cwdQuery ⟨⟨⟨false, 1⟩, 0x00, .w 1, .w 2, .w 0, .w 0, false⟩, 0, 0x3⟩),
    (0xB60160010808000000000000, .cwdExtend ⟨⟨⟨false, 6⟩, 0x01, .w 0, .w 1, .w 2, .w 0, true⟩, 0, 0x0⟩),
    (0xB702B00000000000000000FE, .pent ⟨⟨⟨true, 3⟩, 0x02, .w 0, .w 0, .w 0, .w 0, false⟩, 0, 0xFE⟩)] : List (Slot × Instr)),
    (decodeSlot false x.1).toOption = some x.2 := by decide
theorem test_decode_system : ∀ x ∈ ([
    (0xC0000000000000000000FACE, .trap ⟨⟨⟨false, 0⟩, 0x00, .w 0, .w 0, .w 0, .w 0, false⟩, 0, 0xFACE⟩),
    (0xC10050000008000000000000, .rtt ⟨⟨⟨false, 5⟩, 0x00, .w 0, .w 0, .w 0, .w 0, true⟩, 0, 0x0⟩),
    (0xC200A0400000000000000033, .srd ⟨⟨⟨true, 2⟩, 0x00, .w 1, .w 0, .w 0, .w 0, false⟩, 0, 0x33⟩),
    (0xC300F0010000000000000025, .swr ⟨⟨⟨true, 7⟩, 0x00, .w 0, .w 1, .w 0, .w 0, false⟩, 0, 0x25⟩),
    (0xC40340016808000000000000, .icinv ⟨⟨⟨false, 4⟩, 0x03, .w 0, .w 1, .k 2, .w 0, true⟩, 0, 0x0⟩),
    (0xC5009000000000000000BEAD, .bkpt ⟨⟨⟨true, 1⟩, 0x00, .w 0, .w 0, .w 0, .w 0, false⟩, 0, 0xBEAD⟩),
    (0xC601E001080000000000000C, .evt ⟨⟨⟨true, 6⟩, 0x01, .w 0, .w 1, .w 2, .w 0, false⟩, 0, 0xC⟩),
    (0xC70030010008000000000000, .caus ⟨⟨⟨false, 3⟩, 0x00, .w 0, .w 1, .w 0, .w 0, true⟩, 0, 0x0⟩),
    (0xC70180400000000000000000, .causNew ⟨⟨⟨true, 0⟩, 0x01, .w 1, .w 0, .w 0, .w 0, false⟩, 0, 0x0⟩),
    (0xC800D0000000000000000000, .halt ⟨⟨⟨true, 5⟩, 0x00, .w 0, .w 0, .w 0, .w 0, false⟩, 0, 0x0⟩),
    (0xC90020000008000000001111, .glch ⟨⟨⟨false, 2⟩, 0x00, .w 0, .w 0, .w 0, .w 0, true⟩, 0, 0x1111⟩),
    (0xCA0070000000000000002222, .kill ⟨⟨⟨false, 7⟩, 0x00, .w 0, .w 0, .w 0, .w 0, false⟩, 0, 0x2222⟩)] : List (Slot × Instr)),
    (decodeSlot false x.1).toOption = some x.2 := by decide

/-! ## Worked examples of the spec -/

/-- The slots that the chapters write out: the line of R129, DIV of R174, AADD of R263, TACC of R285, SKEIN barrier 3 and CINC of R360, FST of
R378, RTT and SRD of R422. -/
theorem test_spec_words : ∀ x ∈ ([
    (0x100300C41400000000000000, .add ⟨⟨⟨false, 0⟩, 3, .w 3, .w 4, .w 5, .w 0, false⟩, 0, 0⟩),
    (0x600301840000000000000040, .ld ⟨⟨⟨false, 0⟩, 3, .w 6, .w 4, .w 0, .w 0, false⟩, 0, false, 0x40⟩),
    (0x010020000000000000000010, .bra ⟨⟨⟨false, 2⟩, 0, .w 0, .w 0, .w 0, .w 0, false⟩, 0, 0, 0, 0x10⟩),
    (0x160601C20C00000000000000, .div ⟨⟨⟨false, 0⟩, 6, .w 7, .w 2, .w 3, .w 0, false⟩, 0, 0⟩),
    (0x700400441427000000000000, .aadd ⟨⟨⟨false, 0⟩, 4, .w 1, .w 4, .w 5, .w 2, false⟩, 3, true, 0⟩),
    (0x840000331460000000000000, .tacc ⟨⟨⟨false, 0⟩, 0, .w 0, .t 3, .w 5, .w 6, false⟩, 0, 0⟩),
    (0xA20200000000000000000003, .bar ⟨⟨⟨false, 0⟩, 2, .w 0, .w 0, .w 0, .w 0, false⟩, 0, 3⟩),
    (0xA40400000800000000000005, .cinc ⟨⟨⟨false, 0⟩, 4, .w 0, .w 0, .w 2, .w 0, false⟩, 0, 5⟩),
    (0xB10400020C00000000000000, .fst ⟨⟨⟨false, 0⟩, 4, .w 0, .w 2, .w 3, .w 0, false⟩, 0, 0⟩),
    (0x339408A39220000000000000, .fma ⟨⟨⟨false, 0⟩, 0x94, .v 2, .v 3, .v 4, .v 2, false⟩, 0, 0⟩),
    (0xC10000000000000000000000, .rtt ⟨⟨⟨false, 0⟩, 0, .w 0, .w 0, .w 0, .w 0, false⟩, 0, 0⟩),
    (0xC20000400000000000000010, .srd ⟨⟨⟨false, 0⟩, 0, .w 1, .w 0, .w 0, .w 0, false⟩, 0, 0x10⟩)] : List (Slot × Instr)),
    (decodeSlot false x.1).toOption = some x.2 := by decide

/-- The line of R129 with its line word 0x4821: parities hold, slot 0 is a target and slot 1 is not. -/
theorem test_spec_line :
    let l : LineBits := (0x00004821 : BitVec 32) ++ (0 : BitVec 192) ++ (0x010020000000000000000010 : Slot) ++ (0x600301840000000000000040 : Slot) ++
      (0x100300C41400000000000000 : Slot)
    lineParityOk l = true ∧ lineReservedOk l = true ∧ ((List.range 5).all (slotParityOk l)) = true ∧ lineTarget l 0 = true ∧ lineTarget l 1 = false := by
  decide +kernel

/-- R31: the work identifier of lane 11, course 3, panel 4 of the skein of index 219. -/
theorem test_spec_work_id : workId { header with shape := 0 + 2 * 2 ^ 19 + 3 * 2 ^ 21 + 4 * 2 ^ 24 + 3 * 2 ^ 30 + 2 * 2 ^ 36, e3 := 10, e4 := 8 } 219 4 3 11 = 0x2B33B := by
  decide +kernel

/-- R45: the SHAPE word of that example. -/
def specShape : Header := { header with shape := 0x09222020C4741464 }
theorem test_spec_shape : [specShape.courses, specShape.panels, specShape.scols, specShape.srows, specShape.strands, specShape.depth, specShape.ugran,
    specShape.sgran, specShape.place, specShape.pclass] = [4, 6, 2, 1, 16, 64, 8, 4, 1, 2] ∧
    [specShape.f1w, specShape.f2w, specShape.f3w, specShape.f4w, specShape.f5w] = [2, 3, 4, 3, 2] := by decide +kernel

/-- R87: channel 163 attaches at core 83; the near set's distances. -/
theorem test_spec_distance : channelAt 163 = (2, 0, 3) ∧ [83, 82, 87, 81, 86, 91].map (fun c => distance c 163) = [0, 1, 1, 2, 2, 2] := by decide

/-- R174: the four quotients and remainders, and the quotient without SX. -/
theorem test_spec_division :
    [(0xFFFFFFF9, 2), (0x80000000, 0xFFFFFFFF), (100, 7), (9, 0xFFFFFFFD)].map (fun (a, b) => extendTo true 32 (opDiv 32 a b)) =
      [0xFFFFFFFFFFFFFFFD, 0xFFFFFFFF80000000, 14, 0xFFFFFFFFFFFFFFFD] ∧
    [(0xFFFFFFF9, 2), (0x80000000, 0xFFFFFFFF), (100, 7), (9, 0xFFFFFFFD)].map (fun (a, b) => extendTo true 32 (opRem 32 a b)) =
      [0xFFFFFFFFFFFFFFFF, 0, 2, 0] ∧ extendTo false 32 (opDiv 32 0xFFFFFFF9 2) = 0xFFFFFFFD := by decide

/-- R194: a WB8 element of 0xA5 under E1 0x85, and one of 0x25 under E0 0x80: 37 and 37 × 2^−5. -/
theorem test_spec_wb8 : (wbElem 0x19 0x80 0x85 0xA5, wbElem 0x19 0x80 0x85 0x25) = (.fin false 37 0, .fin false 37 (-5)) := by decide +kernel

/-- R197: 5.0, −1.25, 0.375 and 0.1 as a WB4 block: the exponents, the elements, one flush. -/
theorem test_spec_wb4 : let x := wbConvert 0x18 ([numOf 0x15 0x40A00000, numOf 0x15 0xBFA00000, numOf 0x15 0x3EC00000, numOf 0x15 0x3DCCCCCD] ++
      List.replicate 28 (numOf 0x15 0))
    (x.e0, x.e1, x.elems.take 5) = (0x80, 0x82, [0xA, 0x6, 0x1, 0x0, 0x0]) := by decide +kernel

/-- R202: four BF16 lanes in two orders. -/
theorem test_spec_tree : reduceElem 0x14 0 [0x3F80, 0x3B80, 0x3B80, 0] = 0x3F80 ∧ reduceElem 0x14 0 [0x3F80, 0, 0x3B80, 0x3B80] = 0x3F81 := by decide +kernel

/-- R209: FMA keeps what FMUL and FADD lose. -/
theorem test_spec_fma :
    let a := numOf 0x14 0x3F82
    let c := numOf 0x14 0xBF80
    (fmaRnd 0x14 0 a a c).bits = 0x3D01 ∧ (fmaRnd 0x14 0 a a c).flags &&& flagNX = 0 ∧ (mulRnd 0x14 0 a a).bits = 0x3F84 ∧
      (mulRnd 0x14 0 a a).flags &&& flagNX ≠ 0 ∧ (addRnd 0x14 0 (numOf 0x14 0x3F84) c).bits = 0x3D00 := by decide +kernel

/-- R212: FP32 into E4M3: 1.0, 300.0, 460.0, 500.0, 0.0001, NaN. -/
theorem test_spec_e4m3 : [0x3F800000, 0x43960000, 0x43E60000, 0x43FA0000, 0x38D1B717, 0x7FC00000].map (fun x => (cvtLane 0x15 0x11 0 x).bits) =
    [0x38, 0x79, 0x7E, 0x7E, 0x00, 0x7F] ∧
    [0x3F800000, 0x43FA0000, 0x38D1B717, 0x7FC00000].map (fun x => (cvtLane 0x15 0x11 0 x).cnt) = [.none, .sat, .flush, .nonfin] := by decide +kernel

/-- R373: of 16 devices, device 3 sends to device 9 with ENT 5 through device 5, and with ENT 6 through device 6. -/
theorem test_spec_relay : let s : State := { State.reset with time := { State.reset.time with domain := 0x1003 } }
    (s.relays 9 5).head? = some 5 ∧ (s.relays 9 6).head? = some 6 := by decide +kernel

/-! ## First steps after reset -/

/-- The first course of a state after a step. -/
def after (s : State) (f : Course → Bool) : Bool := match step s with | .next t => (t.course? 0 0).elim false f | _ => false

/-- ADDI w1, k7, −1: w1 becomes all ones, and the course goes to slot 1. -/
theorem test_step_addi : after (State.reset.withFetchWord 96 0x1103005F0000FFFFFFFFFFFF) (fun c =>
    c.read 0 (.w 1) == 0xFFFFFFFFFFFFFFFF && c.headPc == loadPc + 1) = true := by decide +kernel
/-- BRA to slot 2 of the line after: the course's head goes there or the transfer traps; without a target bit it does not move on. -/
theorem test_step_bra : after (State.reset.withFetchWord 96 0x010000000000000000020010) (fun c => c.headPc != loadPc + 1) = true := by decide +kernel
/-- EXIT: the course has no entry left. -/
theorem test_step_exit : after (State.reset.withFetchWord 96 0x070000000000000000000000) (fun c => c.fr0.isEmpty && c.present == 0) = true := by decide +kernel
/-- A reserved opcode raises ILLEGAL: with no trap table the entry is held where it stands. -/
theorem test_step_illegal : after (State.reset.withFetchWord 96 0x0A0000000000000000000000) (fun c =>
    c.headPc == loadPc && c.fr0.any (fun e => e.wait != .none)) = true := by decide +kernel

end Sys2Proof.Tests
end

section
/-! The state right after reset (R5, R52, R78, R353; log 1). -/
namespace Sys2Proof.Laws
open Sys2Proof.Machine Sys2Proof.Safety

/-- Every memory is empty right after reset, so it is in canonical form. -/
theorem reset_kept : memoryKept State.reset := ⟨rfl, rfl, rfl, rfl, rfl⟩

/-- An empty memory reads 0 everywhere, whichever memory it is (log 1). -/
theorem reset_peek (l : Loc) : State.reset.peek l = 0 := by
  obtain ⟨st, a⟩ := l
  cases st <;> rfl

/-- Settles O55: the registers by evaluation, and every table is empty, so each lookup gives its default. -/
theorem resetValues : Obligations.ResetValues :=
  ⟨rfl, rfl, by decide, rfl, rfl, rfl, fun _ => rfl, fun _ => rfl, reset_peek, reset_kept, fun _ _ => rfl, fun _ _ => rfl, fun _ => rfl,
    fun _ => ⟨rfl, rfl⟩, fun _ => rfl, fun _ => rfl, rfl, rfl⟩
end Sys2Proof.Laws
end

section
/-! An access's checks and home, the laws of the walk, and numbers in memory (R8, R244 to R253, R284). -/
namespace Sys2Proof.Laws
open Sys2Proof.Machine Sys2Proof.Safety

/-! ## The checks of an access (R249) -/

theorem reach_misaligned (s : State) (w : Who) (core : Nat) (store reads : Bool) {a : Word} {n : Nat} (h2 : 2 ≤ n) (h : a.toNat % n ≠ 0) :
    s.reach w core store reads a n = .error (Trp.stop Cause.align 0 a) := by
  unfold State.reach
  rw [if_pos (by simp [h2, h])]

/-- The alignment check lets an access of a byte, or an aligned one, pass. -/
theorem not_misaligned {a : Word} {n : Nat} (h : n < 2 ∨ a.toNat % n = 0) : ¬ (2 ≤ n && a.toNat % n != 0) = true := by
  simp only [Bool.and_eq_true, decide_eq_true_eq, bne_iff_ne, ne_eq, not_and, not_not]
  omega

theorem reach_untranslated {s : State} {w : Who} {core : Nat} {store reads : Bool} {a : Word} {n : Nat} {e : XFail}
    (h : n < 2 ∨ a.toNat % n = 0) (he : s.home w (if store then .store else .load) a = .error e) :
    s.reach w core store reads a n = .error (e.stop a) := by
  unfold State.reach
  rw [if_neg (not_misaligned h), he]

/-- An access that meets no tile goes straight to its home. -/
theorem routeAt_plain {s : State} {l : Loc} {n : Nat} (h : s.async.dir = [] ∨ s.dirMeets l n = false) (core : Nat) (store : Bool) (a : Word) :
    s.routeAt core store a l n = .ok (.plain l n) := by
  unfold State.routeAt
  rw [if_pos]
  rcases h with h | h <;> simp [h]

/-- What is left of an aligned, translated access that meets no tile: the checks at its home. -/
theorem reach_plain {s : State} {w : Who} {core : Nat} {store reads : Bool} {a : Word} {n : Nat} {l : Loc} (h : n < 2 ∨ a.toNat % n = 0)
    (hl : s.home w (if store then .store else .load) a = .ok l) (hd : s.async.dir = [] ∨ s.dirMeets l n = false) :
    s.reach w core store reads a n =
      (s.finishAccess w core store reads a n (.plain l n)).map (fun _ => { a, route := .plain l n, home := [(l, n)], bit := 0 }) := by
  unfold State.reach
  rw [if_neg (not_misaligned h), hl]
  simp only [routeAt_plain hd]
  cases s.finishAccess w core store reads a n (.plain l n) <;> rfl

theorem finishAccess_absent {s : State} {store : Bool} {a : Word} {l : Loc} {e : Stop} (h : s.present store a l = .error e)
    (w : Who) (core : Nat) (reads : Bool) (n : Nat) : s.finishAccess w core store reads a n (.plain l n) = .error e := by
  have hp : s.routePresent store a (.plain l n) = .error e := h
  simp only [State.finishAccess, hp]

/-- At a present home the range locks come before the latent errors, and these stop only what reads. -/
theorem finishAccess_present {s : State} {store : Bool} {a : Word} {l : Loc} (h : s.present store a l = .ok ()) (w : Who) (core : Nat)
    (reads : Bool) (n : Nat) :
    s.finishAccess w core store reads a n (.plain l n) =
      if s.lockHit w core store a n then .error (Trp.stop Cause.rangelock 0 a)
      else if reads && s.badIn l n then .error (eccStop l a) else .ok () := by
  have hp : s.routePresent store a (.plain l n) = .ok () := h
  simp only [State.finishAccess, hp]
  have hb : s.routeBad (.plain l n) = if s.badIn l n then some l else none := rfl
  rw [hb]
  cases reads <;> cases s.badIn l n <;> rfl

/-! ## The walk (R245 to R247) -/

/-- Which memory a leaf's target names. -/
def targetStore (target : Nat) : Store :=
  match target with
  | 0 => .hbm
  | 1 => .lpddr
  | 2 => .host
  | _ => .die

/-- A leaf that gives a home: the home is the physical offset in the memory of its target, and a load would have been given it too. -/
theorem leafPlace_home {s : State} {e phys : Nat} {acc : Access} {die : Bool} {l : Loc} (h : leafPlace s e phys acc die = .ok (.home l)) :
    l = ⟨targetStore (bitsOf e 63 61), phys⟩ ∧
      (acc = .store ∨ acc = .exec → leafPlace s e phys .load die = .ok (.home l)) := by
  unfold leafPlace at h ⊢
  simp only [] at h ⊢
  split at h
  · cases h
  next h1 =>
  split at h
  · cases h
  next h2 =>
  split at h
  · cases h
  split at h
  · cases h
  rw [if_neg h1]
  constructor
  · split at h <;> simp_all [targetStore]
  · rintro (rfl | rfl) <;> exact (if_neg h2).trans h

/-- A walk that ends at a home ends at a leaf of the level it has come to, and a load would have come to the same home. -/
theorem walkFrom_home {s : State} {va : Nat} {acc : Access} {die : Bool} {levels : List (Nat × Nat × Nat)} {base : Nat} {lines : List Nat}
    {l : Loc} (hacc : acc = .store ∨ acc = .exec) (h : walkFrom s va acc die levels base lines = .ok (.home l)) :
    walkFrom s va .load die levels base lines = .ok (.home l) := by
  induction levels generalizing base lines with
  | nil => cases h
  | cons x rest ih =>
    obtain ⟨level, shift, width⟩ := x
    simp only [walkFrom] at h ⊢
    split at h
    · cases h
    split at h
    · next ht =>
      rw [if_pos ht]
      split at h
      · next p hp =>
        cases h
        rw [(leafPlace_home hp).2 hacc]
      · cases h
    · next ht =>
      rw [if_neg ht]
      exact ih h

/-- Addresses of one page of 64 KiB have the same index at every level, and differ by their place in the page. -/
theorem index_of_page {va va' shift : Nat} (hp : va / 2 ^ 16 = va' / 2 ^ 16) (hs : 16 ≤ shift) :
    va >>> shift = va' >>> shift ∧ va % 2 ^ shift + va' = va' % 2 ^ shift + va := by
  have hq : va / 2 ^ shift = va' / 2 ^ shift := by
    rw [show shift = 16 + (shift - 16) by omega, pow_add, ← Nat.div_div_eq_div_mul, ← Nat.div_div_eq_div_mul, hp]
  refine ⟨by rw [Nat.shiftRight_eq_div_pow, Nat.shiftRight_eq_div_pow, hq], ?_⟩
  have h1 := Nat.div_add_mod va (2 ^ shift)
  have h2 := Nat.div_add_mod va' (2 ^ shift)
  rw [hq] at h1
  omega

/-- Within a page homes follow addresses: the walk reads the same entries. -/
theorem walkFrom_page {s : State} {va va' : Nat} {acc : Access} {die : Bool} {levels : List (Nat × Nat × Nat)} {base : Nat}
    {lines : List Nat} {l l' : Loc} (hp : va / 2 ^ 16 = va' / 2 ^ 16) (hs : ∀ x ∈ levels, 16 ≤ x.2.1)
    (h : walkFrom s va acc die levels base lines = .ok (.home l)) (h' : walkFrom s va' acc die levels base lines = .ok (.home l')) :
    l.store = l'.store ∧ l.addr + va' = l'.addr + va := by
  induction levels generalizing base lines with
  | nil => cases h
  | cons x rest ih =>
    obtain ⟨level, shift, width⟩ := x
    obtain ⟨hi, ho⟩ := index_of_page hp (show 16 ≤ shift from hs _ List.mem_cons_self)
    simp only [walkFrom, ← hi] at h h'
    split at h
    · cases h
    next hf =>
    rw [hf] at h'
    simp only [] at h'
    split at h
    · next ht =>
      rw [if_pos ht] at h'
      split at h
      · next p hl =>
        cases h
        split at h'
        · next p' hl' =>
          cases h'
          rw [(leafPlace_home hl).1, (leafPlace_home hl').1]
          exact ⟨rfl, by simp only []; omega⟩
        · cases h'
      · cases h
    · next ht =>
      rw [if_neg ht] at h'
      exact ih (fun x hx => hs x (List.mem_cons_of_mem _ hx)) h h'

/-- A walk that ends at a home begins at a proper root. -/
theorem walk_home {s : State} {root va : Nat} {acc : Access} {die : Bool} {l : Loc} (h : walk s root va acc die = .ok (.home l)) :
    walkFrom s va acc die walkLevels root [] = .ok (.home l) ∧ ∀ acc', walk s root va acc' die = walkFrom s va acc' die walkLevels root [] := by
  unfold walk at h ⊢
  split at h
  · cases h
  next h0 =>
  split at h
  · cases h
  next h1 =>
  exact ⟨h, fun _ => by rw [if_neg h0, if_neg h1]⟩

/-- Whoever may store or execute may load (R247: a leaf has no right that a load needs). -/
theorem walk_load {s : State} {root va : Nat} {acc : Access} {die : Bool} {l : Loc} (hacc : acc = .store ∨ acc = .exec)
    (h : walk s root va acc die = .ok (.home l)) : walk s root va .load die = .ok (.home l) := by
  obtain ⟨hw, hr⟩ := walk_home h
  rw [hr]
  exact walkFrom_home hacc hw

theorem walk_page {s : State} {root va va' : Nat} {acc : Access} {die : Bool} {l l' : Loc} (hp : va / 2 ^ 16 = va' / 2 ^ 16)
    (h : walk s root va acc die = .ok (.home l)) (h' : walk s root va' acc die = .ok (.home l')) :
    l.store = l'.store ∧ l.addr + va' = l'.addr + va :=
  walkFrom_page hp (by decide) (walk_home h).1 (walk_home h').1

/-! ## Numbers in memory (R8) -/

theorem leBytes_getElem? {n j : Nat} (h : j < n) (v : Nat) : (leBytes n v)[j]? = some (BitVec.ofNat 8 (v / 256 ^ j)) := by
  induction n generalizing v j with
  | zero => omega
  | succ n ih =>
    cases j with
    | zero => simp [leBytes]
    | succ j =>
      simp only [leBytes, List.getElem?_cons_succ, ih (Nat.lt_of_succ_lt_succ h)]
      rw [Nat.div_div_eq_div_mul, Nat.pow_succ']

/-- What n bytes from an address hold is the number their bytes make. -/
theorem readNat_eq (m : Memory) (a n v : Nat) (h : ∀ j < n, Memory.read m (a + j) = BitVec.ofNat 8 (v / 256 ^ j)) :
    Memory.readNat m a n = v % 256 ^ n := by
  induction n generalizing a v with
  | zero => simp [Memory.readNat, Nat.mod_one]
  | succ n ih =>
    have h0 : (Memory.read m a).toNat = v % 256 := by
      have := h 0 (Nat.succ_pos n)
      rw [Nat.add_zero, Nat.pow_zero, Nat.div_one] at this
      rw [this]; simp
    have ht : Memory.readNat m (a + 1) n = v / 256 % 256 ^ n := by
      refine ih (a + 1) (v / 256) (fun j hj => ?_)
      rw [Nat.div_div_eq_div_mul, ← Nat.pow_succ', Nat.add_assoc, Nat.add_comm 1 j]
      exact h (j + 1) (Nat.succ_lt_succ hj)
    rw [Memory.readNat, h0, ht, Nat.pow_succ', Nat.mod_mul]

/-- A number is stored with its lowest byte first. -/
theorem peek_pokeNat (s : State) (l : Loc) {n j : Nat} (h : j < n) (v : Nat) :
    (s.pokeNat l n v).peek (l.plus j) = BitVec.ofNat 8 (v / 256 ^ j) := by
  unfold State.pokeNat Loc.plus
  rw [peek_poke, if_pos ⟨rfl, Nat.le_add_right _ _, by simp only [leBytes_length]; omega⟩]
  simp only [Nat.add_sub_cancel_left, leBytes_getElem? h, Option.getD_some]

theorem peekNat_pokeNat (s : State) (l : Loc) (n v : Nat) : (s.pokeNat l n v).peekNat l n = v % 256 ^ n :=
  readNat_eq _ _ _ _ (fun _ hj => peek_pokeNat s l hj v)

/-- Settles O18: the checks in their order, the walk's two laws, and what storing bytes does. -/
theorem accesses : Obligations.Accesses := by
  refine ⟨fun s w core store reads a n => ⟨fun h2 h => reach_misaligned s w core store reads h2 h, fun h =>
    ⟨fun e he => reach_untranslated h he, fun l hl hd => ?_⟩⟩, fun s root va die l => ⟨walk_load (.inl rfl), walk_load (.inr rfl),
    fun acc va' l' hp => walk_page hp, fun hr acc => by rw [hr]; rfl⟩, fun s l bs => ⟨fun x => peek_poke s l x bs, fun h => poke_kept h l bs,
    fun n v => ⟨peekNat_pokeNat s l n v, fun j hj => peek_pokeNat s l hj v⟩⟩⟩
  rw [reach_plain h hl hd]
  rcases ha : s.absentAt l with _ | _ | _ | _
  · rw [finishAccess_present (by rw [State.present, ha])]
    split
    · rfl
    · split <;> rfl
  all_goals rw [finishAccess_absent (by rw [State.present, ha])]; rfl
end Sys2Proof.Laws
end

section
/-! Every step keeps the canonical form of every memory (R8, R244). Only `poke`, clearing and moving granules, and the losses of power write a
memory; every other function writes other parts of the state. So each function that answers a state has one lemma here, `<function>_keeps`,
that follows its own cases and cites the lemmas of the functions it calls. -/
namespace Sys2Proof.Laws
open Sys2Proof.Machine Sys2Proof.Safety

section
variable {s t : State} {α β ε : Type}

/-! ## Answers that carry a state -/

/-- If there is an answer, its memories are in canonical form. -/
def OkKept (r : Except ε State) : Prop := ∀ t, r = .ok t → memoryKept t

/-- If there is a state, its memories are in canonical form. -/
def SomeKept (r : Option State) : Prop := ∀ t, r = some t → memoryKept t

/-- If an instruction has a next state, its memories are in canonical form. -/
def NextKept (o : Host.Outcome State Fault Refusal) : Prop := ∀ t, o = .next t → memoryKept t

/-- An instruction of a course leaves canonical memories, whether it takes effect or stops. -/
def RanKept : Ran → Prop
  | (_, .ok e) => memoryKept e.s
  | (s, .error _) => memoryKept s

/-- The same for an instruction of a matrix stream. -/
def SRanKept : SRan → Prop
  | .done s | .goto s _ | .wait s _ | .trap s _ => memoryKept s

/-- The same for a request served for another device. -/
def AckKept (r : Except Tgt (State × Nat × Body)) : Prop := ∀ a, r = .ok a → memoryKept a.1

theorem ok_keeps (h : memoryKept s) : OkKept (.ok s : Except ε State) := by rintro t ⟨⟩; exact h
theorem error_keeps {e : ε} : OkKept (.error e) := by rintro t ⟨⟩
theorem some_keeps (h : memoryKept s) : SomeKept (some s) := by rintro t ⟨⟩; exact h
theorem none_keeps : SomeKept none := by rintro t ⟨⟩
theorem next_keeps (h : memoryKept s) : NextKept (.next s) := by rintro t ⟨⟩; exact h
theorem fault_keeps {f : Fault} : NextKept (.fault f) := by rintro t ⟨⟩
theorem ranOk_keeps {e : Eff} (h : memoryKept e.s) : RanKept (s, .ok e) := h
theorem ranError_keeps {e : Stop × BitVec 16} (h : memoryKept s) : RanKept (s, .error e) := h
theorem done_keeps (h : memoryKept s) : SRanKept (.done s) := h
theorem goto_keeps {pc : Word} (h : memoryKept s) : SRanKept (.goto s pc) := h
theorem wait_keeps {w : SeqWait} (h : memoryKept s) : SRanKept (.wait s w) := h
theorem trap_keeps {x : Trp} (h : memoryKept s) : SRanKept (.trap s x) := h
theorem ackError_keeps {e : Tgt} : AckKept (.error e) := by rintro a ⟨⟩
theorem ackOk_keeps {n : Nat} {b : Body} (h : memoryKept s) : AckKept (.ok (s, n, b)) := by rintro a ⟨⟩; exact h

/-! ## The state out of an answer, by the equation a case split leaves -/

theorem kept_of_ok {r : Except ε State} (e : r = .ok t) (h : OkKept r) : memoryKept t := h t e
theorem kept_of_some {r : Option State} (e : r = some t) (h : SomeKept r) : memoryKept t := h t e
theorem kept_of_next {o : Host.Outcome State Fault Refusal} (e : o = .next t) (h : NextKept o) : memoryKept t := h t e
theorem kept_of_done {r : SRan} (e : r = .done t) (h : SRanKept r) : memoryKept t := by rw [e] at h; exact h
theorem kept_of_goto {r : SRan} {pc : Word} (e : r = .goto t pc) (h : SRanKept r) : memoryKept t := by rw [e] at h; exact h
theorem kept_of_wait {r : SRan} {w : SeqWait} (e : r = .wait t w) (h : SRanKept r) : memoryKept t := by rw [e] at h; exact h
theorem kept_of_trap {r : SRan} {x : Trp} (e : r = .trap t x) (h : SRanKept r) : memoryKept t := by rw [e] at h; exact h
theorem kept_of_ranOk {r : Ran} {x : Eff} (e : r = (t, .ok x)) (h : RanKept r) : memoryKept x.s := by rw [e] at h; exact h
theorem kept_of_ranError {r : Ran} {x : Stop × BitVec 16} (e : r = (t, .error x)) (h : RanKept r) : memoryKept t := by
  rw [e] at h; exact h
theorem fst_kept {x : State × α} {a : α} (e : x = (t, a)) (h : memoryKept x.1) : memoryKept t := by rw [e] at h; exact h
theorem snd_kept {x : α × State} {a : α} (e : x = (a, t)) (h : memoryKept x.2) : memoryKept t := by rw [e] at h; exact h
theorem thd_kept {x : α × β × State} {a : α} {b : β} (e : x = (a, b, t)) (h : memoryKept x.2.2) : memoryKept t := by
  rw [e] at h; exact h
theorem fst_kept_of_some {r : Option (State × α)} {a : α} (e : r = some (t, a)) (h : SomeKept (r.map Prod.fst)) : memoryKept t :=
  h t (by rw [e]; rfl)
theorem snd_kept_of_some {r : Option (α × State)} {a : α} (e : r = some (a, t)) (h : SomeKept (r.map Prod.snd)) : memoryKept t :=
  h t (by rw [e]; rfl)
theorem fst_kept_of_ok {r : Except ε (State × α)} {a : α} (e : r = .ok (t, a)) (h : OkKept (r.map Prod.fst)) : memoryKept t :=
  h t (by rw [e]; rfl)

theorem getD_keeps {r : Option State} (hr : SomeKept r) (h : memoryKept s) : memoryKept (r.getD s) := by
  cases r with
  | none => exact h
  | some t => exact hr t rfl

theorem elim_keeps {r : Option α} {f : α → State} (hf : ∀ a, memoryKept (f a)) (h : memoryKept s) : memoryKept (r.elim s f) := by
  cases r with
  | none => exact h
  | some a => exact hf a

/-! ## Folds -/

theorem foldl_keeps {f : State → α → State} {l : List α} (hf : ∀ t x, memoryKept t → memoryKept (f t x)) (h : memoryKept s) :
    memoryKept (l.foldl f s) :=
  List.foldlRecOn l f h (fun t ht x _ => hf t x ht)

theorem foldl_fst_keeps {f : State × β → α → State × β} {l : List α} {a : State × β}
    (hf : ∀ b x, memoryKept b.1 → memoryKept (f b x).1) (h : memoryKept a.1) : memoryKept (l.foldl f a).1 :=
  List.foldlRecOn l f h (fun b hb x _ => hf b x hb)

theorem foldl_ok_keeps {f : Except ε State → α → Except ε State} {l : List α} {a : Except ε State}
    (hf : ∀ b x, OkKept b → OkKept (f b x)) (h : OkKept a) : OkKept (l.foldl f a) :=
  List.foldlRecOn l f h (fun b hb x _ => hf b x hb)

theorem foldl_ok_fst_keeps {f : Except ε (State × β) → α → Except ε (State × β)} {l : List α} {a : Except ε (State × β)}
    (hf : ∀ b x, OkKept (b.map Prod.fst) → OkKept ((f b x).map Prod.fst)) (h : OkKept (a.map Prod.fst)) :
    OkKept ((l.foldl f a).map Prod.fst) :=
  List.foldlRecOn (motive := fun r => OkKept (r.map Prod.fst)) l f h (fun b hb x _ => hf b x hb)

/-! ## What a change of the state does to its memories -/

/-- A change elsewhere keeps the memories. -/
theorem kept_update {dev time firn tables work cores panels courses async dbg agenda focus rotor freeCount}
    (h : memoryKept s) :
    memoryKept ⟨dev, time, firn, tables, s.mem, work, cores, panels, courses, async, dbg, agenda, focus, rotor, freeCount⟩ := h

/-- The marks of absent and bad places are no bytes of a memory. -/
theorem kept_marks {absent bad dev time firn tables work cores panels courses async dbg agenda focus rotor freeCount}
    (h : memoryKept s) :
    memoryKept ⟨dev, time, firn, tables, ⟨s.mem.hbm, s.mem.lpddr, s.mem.host, s.mem.die, s.mem.unit, absent, bad⟩, work, cores, panels,
      courses, async, dbg, agenda, focus, rotor, freeCount⟩ := h

/-- A new content of the unit memories is all there is to check. -/
theorem kept_unit {unit absent bad dev time firn tables work cores panels courses async dbg agenda focus rotor freeCount}
    (h : memoryKept s) (hunit : Memory.wf unit = true) :
    memoryKept ⟨dev, time, firn, tables, ⟨s.mem.hbm, s.mem.lpddr, s.mem.host, s.mem.die, unit, absent, bad⟩, work, cores, panels,
      courses, async, dbg, agenda, focus, rotor, freeCount⟩ := by
  obtain ⟨hhbm, hlpddr, hhost, hdie, _⟩ := h
  exact ⟨hhbm, hlpddr, hhost, hdie, hunit⟩

theorem emit_keeps {e : Ev} (h : memoryKept s) : memoryKept (s.emit e) := emit_kept h e
theorem poke_keeps {l : Loc} {bs : List Byte} (h : memoryKept s) : memoryKept (s.poke l bs) := poke_kept h l bs
theorem writeRange_keeps {w : Who} {a : Word} {bs : List Byte} (h : memoryKept s) : OkKept (s.writeRange w a bs) :=
  fun _ e => writeRange_kept h e

/-! ## Parts of a memory -/

theorem krising_iff_pairwise (m : KMap α) : krising m = true ↔ m.Pairwise (fun x y => x.1 < y.1) := by
  have : IsTrans (Nat × α) (fun x y => x.1 < y.1) := ⟨fun _ _ _ => Nat.lt_trans⟩
  rw [← List.isChain_iff_pairwise]
  induction m with
  | nil => simp [krising]
  | cons x t ih =>
    cases t with
    | nil => simp [krising]
    | cons y u => simp [krising, ih]

theorem wf_filter {m : Memory} (h : Memory.wf m = true) (p : Nat × Byte → Bool) : Memory.wf (m.filter p) = true := by
  obtain ⟨hrise, hnz⟩ := (wf_iff m).1 h
  exact (wf_iff _).2 ⟨(krising_iff_pairwise _).2 (((krising_iff_pairwise m).1 hrise).filter p), fun x hx => hnz x (List.mem_filter.1 hx).1⟩

theorem wf_foldl {f : Memory → α → Memory} (hf : ∀ m x, Memory.wf m = true → Memory.wf (f m x) = true) {m : Memory}
    (h : Memory.wf m = true) (l : List α) : Memory.wf (l.foldl f m) = true :=
  List.foldlRecOn (motive := fun m => Memory.wf m = true) l f h (fun m hm x _ => hf m x hm)
end

section
variable {s : State}

/-! ## Machine/Mem.lean -/

theorem pokeNat_keeps {l n v} (h : memoryKept s) : memoryKept (s.pokeNat l n v) :=
  poke_keeps h

theorem setAbsent_keeps {l a} (h : memoryKept s) : memoryKept (s.setAbsent l a) :=
  kept_marks h

theorem setPresent_keeps {l} (h : memoryKept s) : memoryKept (s.setPresent l) :=
  kept_marks h

/-! ## Machine/Records.lean -/

theorem newCause_keeps {taker} (h : memoryKept s) : memoryKept (s.newCause taker).2 :=
  h

theorem ringSlot_keeps {b} (h : memoryKept s) : memoryKept (s.ringSlot b) := by
  unfold State.ringSlot
  split
  · exact h
  extract_lets
  exact kept_update (poke_keeps h)

theorem ringWrite_keeps {r} (h : memoryKept s) : memoryKept (s.ringWrite r) :=
  ringSlot_keeps h

theorem viewWrite_keeps {r} (h : memoryKept s) : memoryKept (s.viewWrite r) := by
  unfold State.viewWrite
  extract_lets
  split
  · exact h
  split
  · exact kept_update h
  · exact poke_keeps (poke_keeps h)

theorem carry_keeps {r} (h : memoryKept s) : memoryKept (s.carry r) :=
  viewWrite_keeps (ringWrite_keeps (kept_update h))

theorem resetMark_keeps (h : memoryKept s) : memoryKept s.resetMark := by
  unfold State.resetMark
  split
  · exact h
  extract_lets
  exact carry_keeps (kept_update h)

theorem errEntry_keeps {ctx r} (h : memoryKept s) : memoryKept (s.errEntry ctx r) := by
  unfold State.errEntry
  extract_lets
  split
  · exact ringWrite_keeps h
  split
  · exact ringWrite_keeps h
  extract_lets
  split
  · exact ringWrite_keeps h
  next e1 =>
  split
  · exact ringWrite_keeps (kept_of_ok e1 (writeRange_keeps (kept_update h)))
  · next e2 => exact kept_of_ok e2 (writeRange_keeps (kept_of_ok e1 (writeRange_keeps (kept_update h))))

theorem emitErr_keeps {ctx e} (h : memoryKept s) : memoryKept (s.emitErr ctx e) :=
  errEntry_keeps (emit_keeps (resetMark_keeps h))

theorem setLaunch_keeps {l v} (h : memoryKept s) : memoryKept (s.setLaunch l v) :=
  h

theorem traceLost_keeps {l v} (h : memoryKept s) : memoryKept (s.traceLost l v) := by
  unfold State.traceLost
  extract_lets
  split
  · exact setLaunch_keeps h
  · next e1 => exact kept_of_ok e1 (writeRange_keeps (setLaunch_keeps h))

theorem traceSuspend_keeps {l v a} (h : memoryKept s) : memoryKept (s.traceSuspend l v a) := by
  unfold State.traceSuspend
  extract_lets _ _ s1
  have h1 : memoryKept s1 := by
    unfold s1
    split
    · exact h
    next e1 =>
    split
    · exact kept_of_ok e1 (writeRange_keeps h)
    · next e2 => exact kept_of_ok e2 (writeRange_keeps (kept_of_ok e1 (writeRange_keeps h)))
  exact traceLost_keeps h1

theorem traceRecord_keeps {l r} (h : memoryKept s) : memoryKept (s.traceRecord l r) := by
  unfold State.traceRecord
  split
  · exact h
  split
  · exact h
  split
  · exact traceLost_keeps h
  extract_lets
  split
  · exact traceSuspend_keeps h
  extract_lets
  split
  · exact traceSuspend_keeps h
  next e1 =>
  split
  · exact traceSuspend_keeps (kept_of_ok e1 (writeRange_keeps h))
  · next e2 => exact kept_of_ok e2 (writeRange_keeps (kept_of_ok e1 (writeRange_keeps h)))

theorem traceEv_keeps {l e} (h : memoryKept s) : memoryKept (s.traceEv l e) :=
  traceRecord_keeps h

theorem freshWord_keeps (h : memoryKept s) : memoryKept s.freshWord.2 :=
  h

theorem life_keeps {i} (h : memoryKept s) : memoryKept (s.life i) :=
  h

/-! ## Machine/Units.lean -/

theorem setCourse_keeps {core slot c} (h : memoryKept s) : memoryKept (s.setCourse core slot c) :=
  h

theorem modCourse_keeps {core slot f} (h : memoryKept s) : memoryKept (s.modCourse core slot f) :=
  h

theorem dropCourse_keeps {core slot} (h : memoryKept s) : memoryKept (s.dropCourse core slot) :=
  h

theorem setPanel_keeps {core pslot p} (h : memoryKept s) : memoryKept (s.setPanel core pslot p) :=
  h

theorem modPanel_keeps {core pslot f} (h : memoryKept s) : memoryKept (s.modPanel core pslot f) :=
  h

theorem setCore_keeps {c v} (h : memoryKept s) : memoryKept (s.setCore c v) :=
  h

theorem modCore_keeps {c f} (h : memoryKept s) : memoryKept (s.modCore c f) :=
  setCore_keeps h

theorem modEngine_keeps {c f} (h : memoryKept s) : memoryKept (s.modEngine c f) :=
  modCore_keeps h

theorem setSkein_keeps {i v} (h : memoryKept s) : memoryKept (s.setSkein i v) :=
  h

theorem modSkein_keeps {i f} (h : memoryKept s) : memoryKept (s.modSkein i f) :=
  h

theorem modLaunch_keeps {i f} (h : memoryKept s) : memoryKept (s.modLaunch i f) :=
  h

theorem newId_keeps (h : memoryKept s) : memoryKept s.newId.2 :=
  h

theorem setOp_keeps {i v} (h : memoryKept s) : memoryKept (s.setOp i v) :=
  h

theorem dropOp_keeps {i} (h : memoryKept s) : memoryKept (s.dropOp i) :=
  h

theorem newHead_keeps (h : memoryKept s) : memoryKept s.newHead := by
  unfold State.newHead
  extract_lets
  split
  · exact h
  · exact kept_update h

theorem wakeAffine_keeps (h : memoryKept s) : memoryKept s.wakeAffine :=
  h

theorem wakeCastOn_keeps {cores} (h : memoryKept s) : memoryKept (s.wakeCastOn cores) :=
  wakeAffine_keeps (kept_update h)

/-! ## Machine/Counters.lean -/

theorem setCounter_keeps {i c} (h : memoryKept s) : memoryKept (s.setCounter i c) :=
  h

theorem wakeCounter_keeps {i} (h : memoryKept s) : memoryKept (s.wakeCounter i) :=
  h

theorem startEntry_keeps {a} (h : memoryKept s) : memoryKept (s.startEntry a) :=
  setOp_keeps (kept_update h)

theorem fireOne_keeps {ctx i cnum cause parent a} (h : memoryKept s) : memoryKept (s.fireOne ctx i cnum cause parent a) :=
  startEntry_keeps (emit_keeps (emit_keeps h))

theorem fireArmed_keeps {ctx i cnum cause parent} (h : memoryKept s) : memoryKept (s.fireArmed ctx i cnum cause parent) :=
  foldl_keeps (fun _ _ h => fireOne_keeps h) (setCounter_keeps h)

theorem signal_keeps {ctx i cnum incr dev key cause parent} (h : memoryKept s) : memoryKept (s.signal ctx i cnum incr dev key cause parent) := by
  unfold State.signal
  extract_lets
  split
  · exact h
  · exact wakeCounter_keeps (fireArmed_keeps (setCounter_keeps h))

theorem signalWord_keeps {ctx e w dev key cause parent} (h : memoryKept s) : memoryKept (s.signalWord ctx e w dev key cause parent) := by
  unfold State.signalWord
  extract_lets
  split
  · exact h
  split
  · exact h
  · exact signal_keeps h

theorem setValue_keeps {ctx i cnum v cause parent} (h : memoryKept s) : memoryKept (s.setValue ctx i cnum v cause parent) :=
  wakeCounter_keeps (fireArmed_keeps (setCounter_keeps h))

theorem poison_keeps {ctx i cnum cause parent} (h : memoryKept s) : memoryKept (s.poison ctx i cnum cause parent) :=
  emit_keeps (wakeCounter_keeps (setCounter_keeps h))

theorem poisonQuota_keeps {ctx e cause parent} (h : memoryKept s) : memoryKept (s.poisonQuota ctx e cause parent) := by
  unfold State.poisonQuota
  refine foldl_keeps (fun _ _ h => ?_) h
  split
  · exact poison_keeps h
  · exact h

/-! ## Machine/Links.lean -/

theorem setFlow_keeps {x} (h : memoryKept s) : memoryKept (s.setFlow x) :=
  h

theorem portOut_keeps {p} (h : memoryKept s) : memoryKept (s.portOut p) :=
  h

theorem launchPacket_keeps {p} (h : memoryKept s) : memoryKept (s.launchPacket p) :=
  portOut_keeps h

theorem sendControl_keeps {dst ctx f body} (h : memoryKept s) : memoryKept (s.sendControl dst ctx f body) :=
  launchPacket_keeps h

theorem reportLinks_keeps {link} (h : memoryKept s) : memoryKept (s.reportLinks link) :=
  foldl_keeps (fun _ _ h => foldl_keeps (fun _ _ h => sendControl_keeps h) h) h

theorem linkHeard_keeps {src peer up} (h : memoryKept s) : memoryKept (s.linkHeard src peer up) := by
  unfold State.linkHeard
  split
  · exact h
  extract_lets
  exact kept_update h

theorem sendPacket_keeps {f dst kind ctx ent0 mode0 cause req body} (h : memoryKept s) :
    memoryKept (s.sendPacket f dst kind ctx ent0 mode0 cause req body).1 :=
  launchPacket_keeps (setFlow_keeps h)

theorem answer_keeps {q kind info body} (h : memoryKept s) : memoryKept (s.answer q kind info body) :=
  launchPacket_keeps h

theorem laterAt_keeps {t i} (h : memoryKept s) : memoryKept (s.laterAt t i) :=
  h

theorem later_keeps {i} (h : memoryKept s) : memoryKept (s.later i) :=
  laterAt_keeps h

theorem sendReq_keeps {kind f dst pk ctx ent0 mode0 cause parent laddr body} (h : memoryKept s) :
    memoryKept (s.sendReq kind f dst pk ctx ent0 mode0 cause parent laddr body) := by
  unfold State.sendReq
  split
  next e1 =>
  extract_lets
  split
  next e2 =>
  extract_lets _ s1
  have h1 : memoryKept s1 := by
    unfold s1
    split
    · exact fst_kept e2 (sendPacket_keeps (snd_kept e1 (newId_keeps h)))
    · exact snd_kept e1 (newId_keeps h)
  split
  · exact kept_update h1
  · exact later_keeps (kept_update h1)

/-! ## Machine/Barriers.lean -/

theorem setBar_keeps {u n b} (h : memoryKept s) : memoryKept (s.setBar u n b) := by
  unfold State.setBar
  split
  · exact modCourse_keeps h
  · exact modPanel_keeps h
  · exact modSkein_keeps h
  · exact modLaunch_keeps h

theorem tellJoined_keeps {launch n cause departs} (h : memoryKept s) : memoryKept (s.tellJoined launch n cause departs) := by
  unfold State.tellJoined
  split
  · exact h
  extract_lets
  exact foldl_keeps (fun _ _ h => sendPacket_keeps h) h

theorem releaseBar_keeps {u n P} (h : memoryKept s) : memoryKept (s.releaseBar u n P) := by
  unfold State.releaseBar
  extract_lets
  split
  · exact modPanel_keeps (foldl_keeps (fun _ _ h => modCourse_keeps h) h)
  · exact foldl_keeps (fun _ _ h => modCourse_keeps h) h

theorem completePhase_keeps {u n b cause parent} (h : memoryKept s) : memoryKept (s.completePhase u n b cause parent) := by
  unfold State.completePhase
  extract_lets _ _ _ _ _ _ s2
  have h2 : memoryKept s2 := by
    unfold s2
    split
    · exact emit_keeps (setBar_keeps h)
    · exact setBar_keeps h
  exact releaseBar_keeps h2

theorem evalOnce_keeps {u n first cause parent} (h : memoryKept s) : memoryKept (s.evalOnce u n first cause parent).2 := by
  unfold State.evalOnce
  split
  · exact h
  extract_lets _ _ _ _ tell _ s1 s2
  clear_value tell
  have h2 : memoryKept s2 := by
    unfold s2
    split
    · exact tellJoined_keeps (setBar_keeps h)
    · exact setBar_keeps h
  split
  · exact completePhase_keeps h2
  · exact h2

theorem evalCarried_keeps {u n fuel} (h : memoryKept s) : memoryKept (s.evalCarried u n fuel) := by
  induction fuel generalizing s with
  | zero => exact h
  | succ fuel ih =>
    unfold State.evalCarried
    split
    · exact h
    dsimp only
    split
    · next e => exact ih (snd_kept e (evalOnce_keeps h))
    · next e => exact snd_kept e (evalOnce_keeps h)

theorem evalBar_keeps {u n cause parent fuel} (h : memoryKept s) : memoryKept (s.evalBar u n cause parent fuel) := by
  unfold State.evalBar
  split
  · exact h
  split
  · next e1 => exact evalCarried_keeps (snd_kept e1 (evalOnce_keeps h))
  · next e1 => exact snd_kept e1 (evalOnce_keeps h)

theorem evalAt_keeps {core slot level n cause parent} (h : memoryKept s) : memoryKept (s.evalAt core slot level n cause parent) := by
  unfold State.evalAt
  split
  · exact h
  · exact evalBar_keeps h

theorem evalAll_keeps {u cause parent} (h : memoryKept s) : memoryKept (s.evalAll u cause parent) :=
  foldl_keeps (fun _ _ h => evalBar_keeps h) h

theorem arriveStrands_keeps {core slot level n lanes} (h : memoryKept s) : memoryKept (s.arriveStrands core slot level n lanes).1 := by
  unfold State.arriveStrands
  split
  · exact h
  split
  · exact h
  extract_lets
  exact setCourse_keeps h

theorem departAll_keeps {u party counted cause parent} (h : memoryKept s) : memoryKept (s.departAll u party counted cause parent) := by
  unfold State.departAll
  refine foldl_keeps (fun _ _ h => ?_) h
  split
  · exact h
  split
  · exact h
  · exact evalBar_keeps (setBar_keeps h)

theorem strandsDepart_keeps {core slot lanes cause parent} (h : memoryKept s) : memoryKept (s.strandsDepart core slot lanes cause parent) := by
  unfold State.strandsDepart
  extract_lets
  split
  · exact foldl_keeps (fun _ _ h => departAll_keeps h) h
  split
  · extract_lets s2
    have h2 : memoryKept s2 := departAll_keeps (foldl_keeps (fun _ _ h => departAll_keeps h) h)
    exact evalAll_keeps (evalAll_keeps h2)
  · exact evalAll_keeps (evalAll_keeps (evalAll_keeps (foldl_keeps (fun _ _ h => departAll_keeps h) h)))

/-! ## Machine/Fetch.lean -/

theorem icPut_keeps {core x} (h : memoryKept s) : memoryKept (s.icPut core x) :=
  modCore_keeps h

theorem obtain_keeps {core w line} (h : memoryKept s) : memoryKept (s.obtain core w line).1 := by
  unfold State.obtain
  split
  · exact icPut_keeps h
  split
  · exact h
  extract_lets
  exact icPut_keeps h

theorem icDrop_keeps {core ctx base len} (h : memoryKept s) : memoryKept (s.icDrop core ctx base len) :=
  modCore_keeps h

theorem icDropAll_keeps {ctx} (h : memoryKept s) : memoryKept (s.icDropAll ctx) :=
  h

theorem checkTarget_keeps {core w tgt pc} (h : memoryKept s) : memoryKept (s.checkTarget core w tgt pc).1 := by
  unfold State.checkTarget
  split
  · exact h
  split
  · next e1 => exact fst_kept e1 (obtain_keeps h)
  · next e1 => split <;> exact fst_kept e1 (obtain_keeps h)

theorem checkLanding_keeps {core w label pc} (h : memoryKept s) : memoryKept (s.checkLanding core w label pc).1 := by
  unfold State.checkLanding
  split
  · exact h
  split
  · next e1 => exact fst_kept e1 (checkTarget_keeps h)
  next e1 =>
  split
  · next e2 => exact fst_kept e2 (obtain_keeps (fst_kept e1 (checkTarget_keeps h)))
  · next e2 => split <;> exact fst_kept e2 (obtain_keeps (fst_kept e1 (checkTarget_keeps h)))

/-! ## Machine/Teardown.lean -/

theorem freeLocks_keeps {op} (h : memoryKept s) : memoryKept (s.freeLocks op) :=
  h

theorem endOp_keeps {op} (h : memoryKept s) : memoryKept (s.endOp op) :=
  kept_marks (dropOp_keeps (freeLocks_keeps h))

theorem acquireEngine_keeps {core pslot} (h : memoryKept s) : memoryKept (s.acquireEngine core pslot) :=
  emit_keeps (modPanel_keeps (modEngine_keeps h))

theorem releaseEngine_keeps {core} (h : memoryKept s) : memoryKept (s.releaseEngine core) := by
  unfold State.releaseEngine
  split
  · exact h
  extract_lets
  split
  · exact emit_keeps (modPanel_keeps (modEngine_keeps h))
  · exact acquireEngine_keeps (modEngine_keeps (emit_keeps (modPanel_keeps (modEngine_keeps h))))

theorem stopEngine_keeps {core code} (h : memoryKept s) : memoryKept (s.stopEngine core code) := by
  unfold State.stopEngine
  extract_lets
  split
  · exact h
  split
  · exact h
  split
  · exact modEngine_keeps h
  extract_lets
  exact emit_keeps (kept_update (endOp_keeps (modEngine_keeps h)))

theorem writePieces_keeps {w l} (h : memoryKept s) : memoryKept (s.writePieces w l).1 := by
  induction l generalizing s with
  | nil => exact h
  | cons p l ih =>
    unfold State.writePieces
    split
    · exact h
    · next e => exact ih (kept_of_ok e (writeRange_keeps h))

theorem writeStats_keeps {l v status} (h : memoryKept s) : memoryKept (s.writeStats l v status).1 := by
  unfold State.writeStats
  split
  · exact h
  extract_lets
  exact writePieces_keeps h

theorem finishLaunch_keeps {l status applied} (h : memoryKept s) : memoryKept (s.finishLaunch l status applied) := by
  unfold State.finishLaunch
  split
  · exact h
  split
  next s1 _ _ e =>
  have h1 : memoryKept s1 := fst_kept e (writeStats_keeps h)
  extract_lets v s2 s3 v' s4 s5 s6
  have h2 : memoryKept s2 := by
    refine foldl_keeps (fun _ _ h => ?_) h1
    split
    · exact tellJoined_keeps h
    · exact h
  have h3 : memoryKept s3 := by
    unfold s3
    split
    · exact traceEv_keeps h2
    · exact h2
  have h4 : memoryKept s4 := by
    unfold s4
    split
    · exact h3
    · exact emit_keeps h3
  exact later_keeps (kept_update (emit_keeps h4))

theorem instanceDone_keeps {gi g} (h : memoryKept s) : memoryKept (s.instanceDone gi g) := by
  unfold State.instanceDone
  extract_lets
  refine kept_update ?_
  split
  · next e1 =>
    split
    · exact emitErr_keeps (signalWord_keeps (kept_of_ok e1 (writeRange_keeps h)))
    · exact emit_keeps (signalWord_keeps (kept_of_ok e1 (writeRange_keeps h)))
  split
  · exact emitErr_keeps (signalWord_keeps h)
  · exact emit_keeps (signalWord_keeps h)

theorem checkInstance_keeps {gi} (h : memoryKept s) : memoryKept (s.checkInstance gi) := by
  unfold State.checkInstance
  split
  · exact h
  split
  · exact instanceDone_keeps h
  · exact h

theorem killRecords_keeps {ctx reason k} (h : memoryKept s) : memoryKept (s.killRecords ctx reason k) :=
  emitErr_keeps (emitErr_keeps h)

theorem stopCourse_keeps {ctx core slot c} (h : memoryKept s) : memoryKept (s.stopCourse ctx core slot c) :=
  kept_update (setCourse_keeps h)

theorem forgetSkein_keeps {sk} (h : memoryKept s) : memoryKept (s.forgetSkein sk) :=
  newHead_keeps (kept_marks h)

theorem tearSkein_keeps {ctx sk} (h : memoryKept s) : memoryKept (s.tearSkein ctx sk) := by
  unfold State.tearSkein
  extract_lets _ _ s2
  have h2 : memoryKept s2 := by
    unfold s2
    refine foldl_keeps (fun _ _ h => ?_) (foldl_keeps (fun _ _ h => stopCourse_keeps h) h)
    refine kept_update ?_
    split
    · exact releaseEngine_keeps (modEngine_keeps (modEngine_keeps h))
    · exact modEngine_keeps h
  exact wakeCastOn_keeps (forgetSkein_keeps h2)

theorem kill_keeps {ctx reason k} (h : memoryKept s) : memoryKept (s.kill ctx reason k) := by
  unfold State.kill
  extract_lets _ _ _ _ _ _ _ _ s3 _ _ _ _ _ s5 _ _ _ _ s8
  have h3 : memoryKept s3 := foldl_keeps (fun _ _ h => endOp_keeps h) (kept_update (killRecords_keeps h))
  have h5 : memoryKept s5 := kept_update (foldl_keeps (fun _ _ h => tearSkein_keeps h) h3)
  have h8 : memoryKept s8 := foldl_keeps (fun _ _ h => finishLaunch_keeps h) (kept_update (poisonQuota_keeps h5))
  exact foldl_keeps (fun _ _ h => checkInstance_keeps (foldl_keeps (fun _ _ h => later_keeps h) (kept_update h))) (kept_update h8)

/-! ## Machine/Ops.lean -/

theorem memUe_keeps {l core cause parent ctx} (h : memoryKept s) : memoryKept (s.memUe l core cause parent ctx) := by
  unfold State.memUe
  extract_lets
  split <;> exact emit_keeps (life_keeps h)

theorem pullTrigger_keeps {tag source} (h : memoryKept s) : memoryKept (s.pullTrigger tag source) := by
  unfold State.pullTrigger
  extract_lets
  split
  · exact h
  · exact kept_update h

theorem debugStop_keeps {sk hdr hit} (h : memoryKept s) : memoryKept (s.debugStop sk hdr hit) := by
  unfold State.debugStop
  split
  · exact h
  split
  · exact h
  extract_lets _ s2
  have h2 : memoryKept s2 := by
    unfold s2
    refine foldl_keeps (fun _ _ h => ?_) (foldl_keeps (fun _ _ h => setCourse_keeps h) h)
    split
    extract_lets
    split
    · exact stopEngine_keeps (setPanel_keeps h)
    · exact setPanel_keeps h
  exact pullTrigger_keeps (emit_keeps (kept_update (modSkein_keeps h2)))

theorem hostFault_keeps {p} (h : memoryKept s) : memoryKept (s.hostFault p) := by
  unfold State.hostFault
  split
  · exact kept_update h
  · exact kept_update (emitErr_keeps (kept_update h))

theorem faultOver_keeps {who} (h : memoryKept s) : memoryKept (s.faultOver who) := by
  unfold State.faultOver
  split
  · extract_lets
    exact kept_update (emit_keeps h)
  · exact h

theorem trapKill_keeps {core slot c r reason} (h : memoryKept s) : memoryKept (s.trapKill core slot c r reason) :=
  kill_keeps h

theorem park_keeps {core slot c E r} (h : memoryKept s) : memoryKept (s.park core slot c E r) := by
  unfold State.park
  extract_lets E who s1 s2
  clear_value E
  split
  · have h1 : memoryKept s1 := by
      unfold s1
      split
      · exact setCourse_keeps h
      · exact h
    exact hostFault_keeps h1
  · have h2 : memoryKept s2 := by
      unfold s2
      split
      · exact setCourse_keeps h
      · exact h
    exact emitErr_keeps h2

theorem takeTrap_keeps {core slot E r} (h : memoryKept s) : memoryKept (s.takeTrap core slot E r) := by
  unfold State.takeTrap
  split
  · exact h
  extract_lets s1
  have h1 : memoryKept s1 := by
    unfold s1
    split
    · split <;> exact memUe_keeps h
    · exact h
  split
  · exact trapKill_keeps h1
  split
  · split
    · exact park_keeps h1
    · exact trapKill_keeps h1
  split
  · next e1 => exact trapKill_keeps (fst_kept e1 (checkTarget_keeps h1))
  next e1 =>
  extract_lets
  exact emit_keeps (setCourse_keeps (fst_kept e1 (checkTarget_keeps h1)))

theorem streamTrap_keeps {core pslot t} (h : memoryKept s) : memoryKept (s.streamTrap core pslot t) := by
  unfold State.streamTrap
  split
  · exact h
  extract_lets _ _ _ s2
  have h2 : memoryKept s2 := by
    unfold s2
    split
    · exact setPanel_keeps h
    · exact emit_keeps (setPanel_keeps h)
  split
  · exact kill_keeps h2
  · exact takeTrap_keeps h2

theorem popLevel_keeps {core slot ret} (h : memoryKept s) : memoryKept (s.popLevel core slot ret) := by
  unfold State.popLevel
  split
  · exact h
  extract_lets _ _ _ _ _ _ _ s2
  have h2 : memoryKept s2 := by
    unfold s2
    split
    · exact modPanel_keeps (setCourse_keeps h)
    · exact setCourse_keeps h
  exact emit_keeps h2

/-! ## Machine/Operands.lean -/

theorem strandsLeave_keeps {core slot lanes} (h : memoryKept s) : memoryKept (s.strandsLeave core slot lanes) := by
  unfold State.strandsLeave
  split
  · exact h
  extract_lets _ _ _ _ _ _ _ s2 s3
  have h2 : memoryKept s2 := by
    unfold s2
    split
    · exact popLevel_keeps (setCourse_keeps h)
    · exact setCourse_keeps h
  have h3 : memoryKept s3 := by
    unfold s3
    split
    · split
      · exact popLevel_keeps h2
      · exact h2
    · exact h2
  exact strandsDepart_keeps h3

theorem afterHits_keeps {I hits} (h : memoryKept s) : memoryKept (s.afterHits I hits) := by
  unfold State.afterHits
  extract_lets s1 s2
  have h1 : memoryKept s1 := by
    unfold s1
    refine foldl_keeps (fun _ _ h => ?_) h
    extract_lets
    exact emit_keeps h
  have h2 : memoryKept s2 := by
    unfold s2
    refine foldl_keeps (fun _ _ h => ?_) h1
    split
    · exact debugStop_keeps h
    · exact h
  split
  · exact h2
  extract_lets
  exact takeTrap_keeps (kept_update h2)

theorem complete_keeps {I e} (h : memoryKept e.s) : memoryKept (State.complete I e) := by
  unfold State.complete
  extract_lets s1
  have h1 : memoryKept s1 := by
    unfold s1
    split
    · exact h
    · exact faultOver_keeps h
  split
  · exact h1
  split
  · exact h1
  extract_lets s3 s4
  have h3 : memoryKept s3 := by
    unfold s3
    split
    · exact h1
    split
    · exact setCourse_keeps h1
    split
    · exact strandsLeave_keeps h1
    · exact modCourse_keeps (strandsLeave_keeps h1)
  have h4 : memoryKept s4 := by
    unfold s4
    split
    · exact evalAt_keeps h3
    · exact h3
  split
  · exact h4
  · exact afterHits_keeps h4

theorem failed_keeps {I e mask} (h : memoryKept s) : memoryKept (s.failed I e mask) := by
  unfold State.failed
  split
  · exact setCourse_keeps h
  extract_lets
  split
  · exact takeTrap_keeps h
  · exact kept_update (takeTrap_keeps h)

theorem runCourse_keeps {i rmw req body} (h : memoryKept s) (hb : ∀ I t, memoryKept t → RanKept (body I t)) :
    NextKept (runCourse s i rmw req body) := by
  unfold runCourse
  split
  · split
    · split
      · exact next_keeps h
      extract_lets _ s1
      have h1 : memoryKept s1 := by
        unfold s1
        split
        · exact setCourse_keeps h
        · exact h
      split
      · exact next_keeps (complete_keeps h1)
      split
      · exact next_keeps (failed_keeps h1)
      split
      · next e1 => exact next_keeps (complete_keeps (kept_of_ranOk e1 (hb _ _ h1)))
      · next e1 => exact next_keeps (failed_keeps (kept_of_ranError e1 (hb _ _ h1)))
    · exact fault_keeps
  · exact fault_keeps

theorem countStats_keeps {l keys} (h : memoryKept s) : memoryKept (s.countStats l keys) := by
  unfold State.countStats
  split
  · exact h
  split
  · exact h
  · exact modLaunch_keeps h

theorem issStore_keeps {I rs} (h : memoryKept s) : OkKept (Iss.store I s rs) := by
  unfold Iss.store
  split
  · exact error_keeps
  extract_lets
  exact ok_keeps (countStats_keeps (modCourse_keeps h))

theorem runLanes_keeps {i rmw folds f extra} (h : memoryKept s) : NextKept (runLanes s i rmw folds f extra) := by
  unfold runLanes
  refine runCourse_keeps h (fun _ _ h => ?_)
  split
  · exact ranError_keeps h
  · exact ranError_keeps h
  split
  · exact ranError_keeps h
  · next e1 => exact ranOk_keeps (kept_of_ok e1 (issStore_keeps h))

theorem runReg_keeps {i rmw folds f} (h : memoryKept s) : NextKept (runReg s i rmw folds f) :=
  runLanes_keeps h

theorem runStream_keeps {body} (h : memoryKept s) (hb : ∀ core pslot p t, memoryKept t → SRanKept (body core pslot p t)) :
    NextKept (runStream s body) := by
  unfold runStream
  split
  · split
    · exact fault_keeps
    extract_lets beyond
    have hbeyond : ∀ {t}, memoryKept t → memoryKept (beyond t) := fun h => by
      unfold beyond
      split
      · exact h
      · exact faultOver_keeps h
    split
    · next e => exact next_keeps (modPanel_keeps (hbeyond (kept_of_done e (hb _ _ _ _ h))))
    · next e => exact next_keeps (modPanel_keeps (hbeyond (kept_of_goto e (hb _ _ _ _ h))))
    · next e => exact next_keeps (modPanel_keeps (kept_of_wait e (hb _ _ _ _ h)))
    · next e => exact next_keeps (streamTrap_keeps (kept_of_trap e (hb _ _ _ _ h)))
  · exact fault_keeps

theorem runBoth_keeps {i rmw folds f} (h : memoryKept s) : NextKept (runBoth s i rmw folds f) := by
  unfold runBoth
  split
  · refine runStream_keeps h (fun _ _ _ _ h => ?_)
    split
    · exact trap_keeps h
    · exact wait_keeps h
    · exact done_keeps (modPanel_keeps h)
  · exact runReg_keeps h

/-! ## Machine/Integer.lean -/

theorem execAdd_keeps {f} (h : memoryKept s) : NextKept (execAdd f s) :=
  runBoth_keeps h

theorem execSub_keeps {f} (h : memoryKept s) : NextKept (execSub f s) :=
  runBoth_keeps h

theorem execMul_keeps {f} (h : memoryKept s) : NextKept (execMul f s) :=
  runBoth_keeps h

theorem execMulh_keeps {f} (h : memoryKept s) : NextKept (execMulh f s) :=
  runReg_keeps h

theorem execMulhu_keeps {f} (h : memoryKept s) : NextKept (execMulhu f s) :=
  runReg_keeps h

theorem execAnd_keeps {f} (h : memoryKept s) : NextKept (execAnd f s) :=
  runBoth_keeps h

theorem execOr_keeps {f} (h : memoryKept s) : NextKept (execOr f s) :=
  runBoth_keeps h

theorem execXor_keeps {f} (h : memoryKept s) : NextKept (execXor f s) :=
  runBoth_keeps h

theorem execAndn_keeps {f} (h : memoryKept s) : NextKept (execAndn f s) :=
  runBoth_keeps h

theorem execShl_keeps {f} (h : memoryKept s) : NextKept (execShl f s) :=
  runBoth_keeps h

theorem execShr_keeps {f} (h : memoryKept s) : NextKept (execShr f s) :=
  runBoth_keeps h

theorem execSar_keeps {f} (h : memoryKept s) : NextKept (execSar f s) :=
  runBoth_keeps h

theorem execRol_keeps {f} (h : memoryKept s) : NextKept (execRol f s) :=
  runReg_keeps h

theorem execMin_keeps {f} (h : memoryKept s) : NextKept (execMin f s) :=
  runBoth_keeps h

theorem execMax_keeps {f} (h : memoryKept s) : NextKept (execMax f s) :=
  runBoth_keeps h

theorem execMinu_keeps {f} (h : memoryKept s) : NextKept (execMinu f s) :=
  runBoth_keeps h

theorem execMaxu_keeps {f} (h : memoryKept s) : NextKept (execMaxu f s) :=
  runBoth_keeps h

theorem execAddi_keeps {f} (h : memoryKept s) : NextKept (execAddi f s) :=
  runBoth_keeps h

theorem execDiv_keeps {f} (h : memoryKept s) : NextKept (execDiv f s) :=
  runReg_keeps h

theorem execDivu_keeps {f} (h : memoryKept s) : NextKept (execDivu f s) :=
  runReg_keeps h

theorem execRem_keeps {f} (h : memoryKept s) : NextKept (execRem f s) :=
  runReg_keeps h

theorem execRemu_keeps {f} (h : memoryKept s) : NextKept (execRemu f s) :=
  runReg_keeps h

theorem execClz_keeps {f} (h : memoryKept s) : NextKept (execClz f s) :=
  runReg_keeps h

theorem execCtz_keeps {f} (h : memoryKept s) : NextKept (execCtz f s) :=
  runReg_keeps h

theorem execPopc_keeps {f} (h : memoryKept s) : NextKept (execPopc f s) :=
  runReg_keeps h

theorem execBrev_keeps {f} (h : memoryKept s) : NextKept (execBrev f s) :=
  runReg_keeps h

theorem execAbs_keeps {f} (h : memoryKept s) : NextKept (execAbs f s) :=
  runReg_keeps h

theorem execBfx_keeps {f} (h : memoryKept s) : NextKept (execBfx f s) :=
  runBoth_keeps h

theorem execBfi_keeps {f} (h : memoryKept s) : NextKept (execBfi f s) :=
  runBoth_keeps h

theorem execSel_keeps {f} (h : memoryKept s) : NextKept (execSel f s) :=
  runReg_keeps h

theorem execMov_keeps {f} (h : memoryKept s) : NextKept (execMov f s) :=
  runBoth_keeps h

theorem execMovi_keeps {f} (h : memoryKept s) : NextKept (execMovi f s) :=
  runBoth_keeps h

theorem execMovh_keeps {f} (h : memoryKept s) : NextKept (execMovh f s) :=
  runBoth_keeps h

theorem execCmp_keeps {f} (h : memoryKept s) : NextKept (execCmp f s) :=
  runReg_keeps h

theorem execPlop_keeps {f} (h : memoryKept s) : NextKept (execPlop f s) :=
  runReg_keeps h

theorem execLea_keeps {f} (h : memoryKept s) : NextKept (execLea f s) :=
  runBoth_keeps h

theorem execRdid_keeps {f} (h : memoryKept s) : NextKept (execRdid f s) := by
  unfold execRdid
  refine runCourse_keeps h (fun _ _ h => ?_)
  extract_lets
  split
  · exact ranError_keeps h
  · next e1 => exact ranOk_keeps (kept_of_ok e1 (issStore_keeps h))

/-! ## Machine/Tiles.lean -/

theorem setTile_keeps {t off n v} (h : memoryKept s) : memoryKept (s.setTile t off n v) := by
  unfold State.setTile
  split
  · exact pokeNat_keeps h
  · exact h

theorem setDir_keeps {l} (h : memoryKept s) : memoryKept (s.setDir l) :=
  h

theorem dropDir_keeps {launch tile} (h : memoryKept s) : memoryKept (s.dropDir launch tile) :=
  setDir_keeps h

theorem admitTile_keeps {t skein} (h : memoryKept s) : SomeKept (s.admitTile t skein) := by
  unfold State.admitTile
  split
  · exact some_keeps h
  split
  · exact none_keeps
  · exact some_keeps (setDir_keeps h)

theorem tidyDir_keeps {launch tile} (h : memoryKept s) : memoryKept (s.tidyDir launch tile) := by
  unfold State.tidyDir
  split
  · exact h
  split
  · exact h
  · exact dropDir_keeps h

theorem writeLog_keeps {t l} (h : memoryKept s) : memoryKept (s.writeLog t l) :=
  setTile_keeps (foldl_keeps (fun _ _ h => pokeNat_keeps h) h)

theorem dropMalformed_keeps {t b} (h : memoryKept s) : memoryKept (s.dropMalformed t b) :=
  foldl_keeps (fun _ _ h => emit_keeps h) h

theorem compactLog_keeps {t b} (h : memoryKept s) : memoryKept (s.compactLog t b).1 := by
  unfold State.compactLog
  extract_lets _ _ _ s2
  have h2 : memoryKept s2 := emit_keeps (writeLog_keeps (dropMalformed_keeps h))
  exact h2

theorem applySector_keeps {t log sec} (h : memoryKept s) : OkKept (s.applySector t log sec) := by
  unfold State.applySector
  extract_lets
  split
  · exact error_keeps
  extract_lets
  exact ok_keeps (countStats_keeps (poke_keeps h))

theorem applySectors_keeps {t log l} (h : memoryKept s) : memoryKept (s.applySectors t log l).1 := by
  induction l generalizing s with
  | nil => exact h
  | cons sec l ih =>
    unfold State.applySectors
    split
    · exact h
    · next e => exact ih (kept_of_ok e (applySector_keeps h))

theorem logFault_keeps {op b tile a} (h : memoryKept s) : memoryKept (s.logFault op b tile a) := by
  unfold State.logFault
  split
  · exact h
  · exact emit_keeps h

theorem applyHome_keeps {op t b} (h : memoryKept s) : memoryKept (s.applyHome op t b).1 := by
  unfold State.applyHome
  extract_lets
  split
  · next e1 => exact setTile_keeps (fst_kept e1 (applySectors_keeps (dropMalformed_keeps h)))
  next e1 =>
  extract_lets
  exact logFault_keeps (writeLog_keeps (fst_kept e1 (applySectors_keeps (dropMalformed_keeps h))))

theorem parkLog_keeps {t b act e a} (h : memoryKept s) : memoryKept (s.parkLog t b act e a) :=
  hostFault_keeps (setOp_keeps (kept_update h))

theorem pushEntry_keeps {t b y} (h : memoryKept s) : memoryKept (s.pushEntry t b y) := by
  unfold State.pushEntry
  extract_lets
  split
  · exact compactLog_keeps (setTile_keeps (pokeNat_keeps h))
  · exact setTile_keeps (pokeNat_keeps h)

theorem append_keeps {t0 b y} (h : memoryKept s) : OkKept (s.append t0 b y) := by
  unfold State.append
  extract_lets
  split
  · exact ok_keeps (kept_update (kept_update h))
  split
  · exact error_keeps
  split
  · exact ok_keeps (pushEntry_keeps h)
  split
  next e1 =>
  split
  · exact ok_keeps (pushEntry_keeps (fst_kept e1 (compactLog_keeps h)))
  split
  · exact error_keeps
  split
  · next e2 => exact ok_keeps (pushEntry_keeps (emit_keeps (fst_kept e2 (applyHome_keeps (fst_kept e1 (compactLog_keeps h))))))
  · next e2 => exact ok_keeps (kept_update (kept_update (parkLog_keeps (fst_kept e2 (applyHome_keeps (fst_kept e1 (compactLog_keeps h)))))))

/-! ## Machine/Access.lean -/

theorem appendAll_keeps {t b l} (h : memoryKept s) : OkKept (s.appendAll t b l) := by
  induction l generalizing s with
  | nil => exact ok_keeps h
  | cons y l ih =>
    unfold State.appendAll
    split
    · exact error_keeps
    · next e => exact ih (kept_of_ok e (append_keeps h))

theorem logBytes_keeps {launch tile b l} (h : memoryKept s) : OkKept (s.logBytes launch tile b l) := by
  unfold State.logBytes
  split
  · exact error_keeps
  split
  · exact error_keeps
  · next e1 => exact appendAll_keeps (kept_of_some e1 (admitTile_keeps h))

theorem routeWrite_keeps {b bs r} (h : memoryKept s) : OkKept (s.routeWrite b bs r) := by
  unfold State.routeWrite
  split
  · exact ok_keeps (poke_keeps h)
  · refine foldl_ok_keeps (fun _ _ h => ?_) (ok_keeps (foldl_keeps (fun _ _ h => ?_) h))
    · dsimp only
      split
      · exact error_keeps
      · exact logBytes_keeps (h _ rfl)
    · dsimp only
      split
      · exact poke_keeps h
      · exact h

theorem routeNibble_keeps {b hi v r} (h : memoryKept s) : OkKept (s.routeNibble b hi v r) := by
  unfold State.routeNibble
  extract_lets
  split
  · split
    · exact error_keeps
    split
    · exact routeWrite_keeps h
    split
    · exact error_keeps
    next e1 =>
    extract_lets
    exact appendAll_keeps (kept_of_some e1 (admitTile_keeps h))
  · exact routeWrite_keeps h

/-! ## Machine/Saved.lean -/

theorem imgWrite_keeps {sk off bs} (h : memoryKept s) : OkKept (s.imgWrite sk off bs) := by
  unfold State.imgWrite
  split
  · exact ok_keeps h
  · exact writeRange_keeps h

theorem imgChange_keeps {sk off n f} (h : memoryKept s) : memoryKept (s.imgChange sk off n f) := by
  unfold State.imgChange
  split
  · split
    · next e1 => exact kept_of_ok e1 (imgWrite_keeps h)
    · exact kill_keeps h
  · exact kill_keeps h

theorem fillLine_keeps {id o old new image} (h : memoryKept s) : memoryKept (s.fillLine id o old new image) := by
  unfold State.fillLine
  extract_lets _ _ got
  clear_value got
  split
  · exact kill_keeps h
  extract_lets
  split
  · exact setOp_keeps (poke_keeps (kept_marks h))
  split
  · exact endOp_keeps (poke_keeps (kept_marks h))
  · exact wakeAffine_keeps (modCore_keeps (endOp_keeps (poke_keeps (kept_marks h))))

theorem landDatum_keeps {id d} (h : memoryKept s) : memoryKept (s.landDatum id d) :=
  modCourse_keeps (kept_update h)

theorem landAsync_keeps {who} (h : memoryKept s) : memoryKept (s.landAsync who) := by
  unfold State.landAsync
  split
  · split
    · split
      · exact imgChange_keeps h
      · exact h
    split
    · exact modCourse_keeps h
    · exact h
  · exact h

theorem landHandle_keeps {sk p handle} (h : memoryKept s) : memoryKept (s.landHandle sk p handle) := by
  unfold State.landHandle
  split
  · exact imgChange_keeps h
  split
  · exact modPanel_keeps h
  · exact h

/-! ## Machine/Float.lean -/

theorem execFadd_keeps {f} (h : memoryKept s) : NextKept (execFadd f s) :=
  runReg_keeps h

theorem execFsub_keeps {f} (h : memoryKept s) : NextKept (execFsub f s) :=
  runReg_keeps h

theorem execFmul_keeps {f} (h : memoryKept s) : NextKept (execFmul f s) :=
  runReg_keeps h

theorem execFma_keeps {f} (h : memoryKept s) : NextKept (execFma f s) :=
  runReg_keeps h

theorem execFdiv_keeps {f} (h : memoryKept s) : NextKept (execFdiv f s) :=
  runReg_keeps h

theorem execFsqrt_keeps {f} (h : memoryKept s) : NextKept (execFsqrt f s) :=
  runReg_keeps h

theorem execFrcp_keeps {f} (h : memoryKept s) : NextKept (execFrcp f s) :=
  runReg_keeps h

theorem execFrsq_keeps {f} (h : memoryKept s) : NextKept (execFrsq f s) :=
  runReg_keeps h

theorem execFex2_keeps {f} (h : memoryKept s) : NextKept (execFex2 f s) :=
  runReg_keeps h

theorem execFlg2_keeps {f} (h : memoryKept s) : NextKept (execFlg2 f s) :=
  runReg_keeps h

theorem execFmin_keeps {f} (h : memoryKept s) : NextKept (execFmin f s) :=
  runReg_keeps h

theorem execFmax_keeps {f} (h : memoryKept s) : NextKept (execFmax f s) :=
  runReg_keeps h

theorem execFcmp_keeps {f} (h : memoryKept s) : NextKept (execFcmp f s) :=
  runReg_keeps h

theorem execFcvt_keeps {f} (h : memoryKept s) : NextKept (execFcvt f s) :=
  runReg_keeps h

theorem execFcls_keeps {f} (h : memoryKept s) : NextKept (execFcls f s) :=
  runReg_keeps h

theorem execFrnd_keeps {f} (h : memoryKept s) : NextKept (execFrnd f s) :=
  runReg_keeps h

/-! ## Machine/Vector.lean -/

theorem execVspl_keeps {f} (h : memoryKept s) : NextKept (execVspl f s) :=
  runReg_keeps h

theorem takeExps_keeps {T} (h : memoryKept s) : memoryKept (s.takeExps T) := by
  unfold State.takeExps
  split
  · exact kept_update h
  · exact h

theorem execVprm_keeps {f} (h : memoryKept s) : NextKept (execVprm f s) := by
  unfold execVprm
  refine runLanes_keeps ?_
  exact takeExps_keeps h

theorem execVext_keeps {f} (h : memoryKept s) : NextKept (execVext f s) :=
  runReg_keeps h

theorem execVins_keeps {f} (h : memoryKept s) : NextKept (execVins f s) :=
  runReg_keeps h

theorem execVred_keeps {f} (h : memoryKept s) : NextKept (execVred f s) :=
  runReg_keeps h

theorem execVscn_keeps {f} (h : memoryKept s) : NextKept (execVscn f s) :=
  runReg_keeps h

theorem execVsel_keeps {f} (h : memoryKept s) : NextKept (execVsel f s) := by
  unfold execVsel
  refine runLanes_keeps ?_
  exact takeExps_keeps h

theorem execVmsk_keeps {f} (h : memoryKept s) : NextKept (execVmsk f s) :=
  runReg_keeps h

theorem execVtag_keeps {f} (h : memoryKept s) : NextKept (execVtag f s) :=
  runReg_keeps h

theorem execVrand_keeps {f} (h : memoryKept s) : NextKept (execVrand f s) := by
  unfold execVrand
  refine runCourse_keeps h (fun _ _ h => ?_)
  extract_lets
  split
  · exact ranError_keeps h
  · next e1 => exact ranOk_keeps (kept_of_ok e1 (issStore_keeps h))

theorem execVqnt_keeps {f} (h : memoryKept s) : NextKept (execVqnt f s) :=
  runReg_keeps h

theorem execVdqn_keeps {f} (h : memoryKept s) : NextKept (execVdqn f s) :=
  runReg_keeps h

theorem execVpack_keeps {f} (h : memoryKept s) : NextKept (execVpack f s) :=
  runReg_keeps h

theorem execVpmul_keeps {f} (h : memoryKept s) : NextKept (execVpmul f s) :=
  runReg_keeps h

theorem execVunpk_keeps {f} (h : memoryKept s) : NextKept (execVunpk f s) :=
  runLanes_keeps h

/-! ## Machine/Transfers.lean -/

theorem takeLocks_keeps {core op issuer l} (h : memoryKept s) : SomeKept (s.takeLocks core op issuer l) := by
  unfold State.takeLocks
  extract_lets
  split
  · exact none_keeps
  · exact some_keeps (modCore_keeps h)

theorem engineHits_keeps {cls core cause parent ctx kind a locs} (h : memoryKept s) :
    memoryKept (s.engineHits cls core cause parent ctx kind a locs) := by
  unfold State.engineHits
  split
  · exact h
  refine foldl_keeps (fun _ _ h => ?_) h
  extract_lets
  split
  · exact debugStop_keeps (emit_keeps h)
  · exact emit_keeps h

theorem parkOpPark_keeps {id o issuer a detail lines} (h : memoryKept s) : memoryKept (State.parkOp.park id o issuer s a detail lines) :=
  hostFault_keeps (setOp_keeps h)

theorem parkOp_keeps {id o issuer e} (h : memoryKept s) : memoryKept (s.parkOp id o issuer e) := by
  unfold State.parkOp
  split
  · exact h
  · exact parkOpPark_keeps h
  · exact parkOpPark_keeps (memUe_keeps h)

theorem opGoesOn_keeps {id} (h : memoryKept s) : memoryKept (s.opGoesOn id) := by
  unfold State.opGoesOn
  split
  · exact h
  · exact faultOver_keeps h

theorem opDone_keeps {id o} (h : memoryKept s) : memoryKept (s.opDone id o) := by
  unfold State.opDone
  extract_lets _ s2
  have h2 : memoryKept s2 := by
    unfold s2
    split
    · exact signal_keeps (endOp_keeps (opGoesOn_keeps h))
    · exact endOp_keeps (opGoesOn_keeps h)
  exact landAsync_keeps h2

theorem homeWrite_keeps {t a b} (h : memoryKept s) : OkKept ((s.homeWrite t a b).map Prod.fst) := by
  unfold State.homeWrite
  split
  · exact error_keeps
  split
  · exact error_keeps
  · exact ok_keeps (poke_keeps h)

theorem markIncoming_keeps {id l} (h : memoryKept s) : memoryKept (s.markIncoming id l) := by
  unfold State.markIncoming
  refine foldl_keeps (fun _ _ h => ?_) h
  split
  split
  · split
    · exact setAbsent_keeps h
    · exact h
  · split
    · exact setAbsent_keeps h
    · exact h
  · exact setAbsent_keeps h
  · exact setAbsent_keeps h
  · exact setAbsent_keeps h
  · exact setAbsent_keeps h
  · exact h

theorem linePresent_keeps {id l} (h : memoryKept s) : memoryKept (s.linePresent id l) := by
  unfold State.linePresent
  split
  · extract_lets
    split
    · exact setPresent_keeps h
    · exact setAbsent_keeps h
  · exact h

theorem mcastFail_keeps {id o t core off l} (h : memoryKept s) : memoryKept (s.mcastFail id o t core off l) := by
  unfold State.mcastFail
  extract_lets _ _ s2
  have h2 : memoryKept s2 := by
    unfold s2
    refine foldl_keeps (fun _ _ h => ?_) (memUe_keeps h)
    split
    · exact setAbsent_keeps h
    · exact h
  exact emit_keeps h2

theorem fetchSector_keeps {id o t mc size} (h : memoryKept s) : OkKept (s.fetchSector id o t mc size) := by
  unfold State.fetchSector
  extract_lets
  split
  · exact error_keeps
  extract_lets _ _ back
  have hback : OkKept back := by
    unfold back
    split
    · split
      · exact error_keeps
      · next e1 => exact ok_keeps (engineHits_keeps (fst_kept_of_ok e1 (homeWrite_keeps h)))
    · exact ok_keeps h
  clear_value back
  split
  · exact error_keeps
  extract_lets
  refine ok_keeps ?_
  refine foldl_keeps (fun _ _ h => ?_) (engineHits_keeps (countStats_keeps (hback _ rfl)))
  split
  split
  · exact h
  split
  · exact mcastFail_keeps h
  extract_lets
  split
  · exact linePresent_keeps (engineHits_keeps (poke_keeps h))
  · exact engineHits_keeps (poke_keeps h)

theorem evictSector_keeps {o t} (h : memoryKept s) : OkKept (s.evictSector o t) := by
  unfold State.evictSector
  extract_lets
  split
  · exact error_keeps
  split
  · exact error_keeps
  split
  · exact error_keeps
  split
  · exact error_keeps
  · next e1 => exact ok_keeps (engineHits_keeps (engineHits_keeps (fst_kept_of_ok e1 (homeWrite_keeps h))))

theorem movHits_keeps {o d a tr off} (h : memoryKept s) : memoryKept (s.movHits o d a tr off) := by
  unfold State.movHits
  split
  · exact h
  extract_lets spans
  clear_value spans
  split
  · exact h
  · exact engineHits_keeps h

theorem moveSector_keeps {id o d a tr rm} (h : memoryKept s) : OkKept (s.moveSector id o d a tr rm) := by
  unfold State.moveSector
  extract_lets
  split
  · exact error_keeps
  split
  · exact error_keeps
  split
  · exact error_keeps
  extract_lets _ s2
  have h2 : memoryKept s2 := engineHits_keeps (movHits_keeps (countStats_keeps (foldl_keeps (fun _ _ h => poke_keeps h) h)))
  refine ok_keeps ?_
  split
  · exact linePresent_keeps h2
  · exact h2

theorem copyOut_keeps {id o dst len b} (h : memoryKept s) : OkKept (s.copyOut id o dst len b) := by
  unfold State.copyOut
  extract_lets
  split
  · exact error_keeps
  split
  · exact error_keeps
  split
  · exact error_keeps
  split
  · exact error_keeps
  next e1 =>
  extract_lets s1
  have h1 : memoryKept s1 := engineHits_keeps (kept_of_ok e1 (routeWrite_keeps h))
  refine ok_keeps ?_
  split
  · exact linePresent_keeps h1
  · exact h1

theorem copySector_keeps {id o src dst len} (h : memoryKept s) : OkKept (s.copySector id o src dst len) := by
  unfold State.copySector
  extract_lets
  split
  · exact error_keeps
  · exact copyOut_keeps (engineHits_keeps h)

theorem snapSector_keeps {id o t dst len} (h : memoryKept s) : OkKept (s.snapSector id o t dst len) := by
  unfold State.snapSector
  extract_lets
  split
  · exact error_keeps
  · exact copyOut_keeps (engineHits_keeps h)

theorem nextSector_keeps {id o} (h : memoryKept s) : OkKept (s.nextSector id o) := by
  unfold State.nextSector
  split
  · split
    · exact error_keeps
    · exact fetchSector_keeps h
  · split
    · exact error_keeps
    split
    · exact error_keeps
    · exact evictSector_keeps h
  · split
    · exact moveSector_keeps h
    · exact error_keeps
    · exact error_keeps
  · exact copySector_keeps h
  · split
    · exact error_keeps
    · exact snapSector_keeps h
  · exact error_keeps

theorem execTileFetch_keeps {id} (h : memoryKept s) : NextKept (execTileFetch id s) := by
  unfold execTileFetch
  split
  · exact next_keeps h
  split
  · split
    · exact next_keeps h
    extract_lets s1
    have h1 : memoryKept s1 := by
      unfold s1
      split
      · split
        · exact h
        · exact setTile_keeps (dropMalformed_keeps h)
      · exact h
    exact next_keeps (opDone_keeps (emit_keeps (landHandle_keeps (setDir_keeps h1))))
  · exact next_keeps h

theorem residenceStamp_keeps {ev launch tile started back} (h : memoryKept s) : memoryKept (s.residenceStamp ev launch tile started back) := by
  unfold State.residenceStamp
  split
  · exact h
  split
  · exact h
  extract_lets
  exact traceEv_keeps h

theorem retireOp_keeps {l v kind} (h : memoryKept s) : memoryKept (s.retireOp l v kind) :=
  setOp_keeps (kept_update h)

theorem retireCheck_keeps {l} (h : memoryKept s) : memoryKept (s.retireCheck l) := by
  unfold State.retireCheck
  split
  · exact h
  split
  · exact h
  extract_lets
  split
  · exact foldl_keeps (fun _ _ h => retireOp_keeps h) (setDir_keeps h)
  split
  · exact modLaunch_keeps (foldl_keeps (fun _ _ h => retireOp_keeps h) h)
  · exact finishLaunch_keeps h

theorem execTileEvict_keeps {id} (h : memoryKept s) : NextKept (execTileEvict id s) := by
  unfold execTileEvict
  split
  · exact next_keeps h
  split
  · split
    · exact next_keeps h
    extract_lets _ _ s2
    have h2 : memoryKept s2 := by
      unfold s2
      split
      · exact setTile_keeps (residenceStamp_keeps h)
      · exact residenceStamp_keeps h
    exact next_keeps (retireCheck_keeps (opDone_keeps (emit_keeps (tidyDir_keeps (setDir_keeps h2)))))
  · exact next_keeps h

theorem execTmovComplete_keeps {id} (h : memoryKept s) : NextKept (execTmovComplete id s) := by
  unfold execTmovComplete
  split
  · exact next_keeps h
  split
  · refine next_keeps ?_
    split
    · exact opDone_keeps h
    · exact h
  · exact next_keeps h

theorem nodeEnds_keeps {gi node status} (h : memoryKept s) : memoryKept (s.nodeEnds gi node status) :=
  later_keeps (kept_update h)

theorem execCopyDone_keeps {id} (h : memoryKept s) : NextKept (execCopyDone id s) := by
  unfold execCopyDone
  split
  · exact next_keeps h
  extract_lets
  split
  · exact next_keeps h
  split
  · exact next_keeps (nodeEnds_keeps (opDone_keeps (emit_keeps h)))
  · exact next_keeps (opDone_keeps (emit_keeps h))
  · exact next_keeps (tidyDir_keeps (opDone_keeps (emit_keeps h)))
  · exact next_keeps h

theorem execSnapshotCopyStart_keeps {id} (h : memoryKept s) : NextKept (execSnapshotCopyStart id s) := by
  unfold execSnapshotCopyStart
  split
  · exact next_keeps h
  split
  · split
    · exact next_keeps h
    split
    · exact next_keeps (parkOp_keeps h)
    split
    · exact next_keeps h
    next e1 =>
    extract_lets
    split
    · exact next_keeps (opGoesOn_keeps (setOp_keeps (kept_of_some e1 (admitTile_keeps h))))
    split
    · next e2 => exact next_keeps (opGoesOn_keeps (setOp_keeps (fst_kept e2 (applyHome_keeps (kept_of_some e1 (admitTile_keeps h))))))
    · next e2 => exact next_keeps (parkOp_keeps (fst_kept e2 (applyHome_keeps (kept_of_some e1 (admitTile_keeps h)))))
  · exact next_keeps h

theorem drainAppends_keeps {launch tile b} (h : memoryKept s) : memoryKept (s.drainAppends launch tile b) := by
  unfold State.drainAppends
  refine foldl_keeps (fun _ _ h => ?_) h
  split
  extract_lets
  split
  · split
    · next e1 => exact kept_of_ok e1 (append_keeps (kept_update h))
    · exact kept_update h
  · exact kept_update h

theorem execTlogComplete_keeps {id} (h : memoryKept s) : NextKept (execTlogComplete id s) := by
  unfold execTlogComplete
  split
  · exact next_keeps h
  split
  · split
    · exact next_keeps h
    split
    · exact next_keeps (parkOp_keeps h)
    extract_lets
    split
    · exact next_keeps (retireCheck_keeps (tidyDir_keeps (drainAppends_keeps (opDone_keeps (compactLog_keeps h)))))
    · split
      · exact next_keeps h
      split
      · next e1 =>
        extract_lets s1
        have h1 : memoryKept s1 := by
          unfold s1
          split
          · exact emit_keeps (fst_kept e1 (applyHome_keeps h))
          · exact fst_kept e1 (applyHome_keeps h)
        exact next_keeps (retireCheck_keeps (tidyDir_keeps (drainAppends_keeps (opDone_keeps h1))))
      · next e1 => exact next_keeps (parkOp_keeps (fst_kept e1 (applyHome_keeps h)))
    · exact next_keeps (retireCheck_keeps (tidyDir_keeps (drainAppends_keeps (opDone_keeps (emit_keeps (setTile_keeps h))))))
  · exact next_keeps h

/-! ## Machine/Retire.lean -/

theorem panelCheck_keeps {core pslot} (h : memoryKept s) : memoryKept (s.panelCheck core pslot) := by
  unfold State.panelCheck
  split
  · exact h
  split
  · exact h
  extract_lets _ _ _ _ s2
  have h2 : memoryKept s2 := wakeAffine_keeps (kept_update (departAll_keeps h))
  exact emit_keeps h2

theorem execCourseRetired_keeps {core slot} (h : memoryKept s) : NextKept (execCourseRetired core slot s) := by
  unfold execCourseRetired
  split
  · exact next_keeps h
  split
  · exact next_keeps h
  extract_lets _ _ s1
  have h1 : memoryKept s1 := emit_keeps (wakeAffine_keeps (dropCourse_keeps h))
  refine next_keeps ?_
  split
  · exact h1
  · exact panelCheck_keeps h1

theorem execReplyAbandon_keeps {req} (h : memoryKept s) : NextKept (execReplyAbandon req s) := by
  unfold execReplyAbandon
  split
  · exact next_keeps h
  split
  · split
    · exact next_keeps h
    split
    · exact next_keeps h
    extract_lets
    exact next_keeps (kept_update (setCourse_keeps h))
  · exact next_keeps h

theorem bindOffEvict_keeps {sk k t} (h : memoryKept s) : memoryKept (s.bindOffEvict sk k t) := by
  unfold State.bindOffEvict
  refine setOp_keeps ?_
  split
  · exact modSkein_keeps (setDir_keeps (kept_update h))
  · exact setDir_keeps (kept_update h)

theorem bindOff_keeps {sk k} (h : memoryKept s) : memoryKept (s.bindOff sk k) := by
  unfold State.bindOff
  extract_lets _ _ _ _ _ s4
  have h4 : memoryKept s4 := kept_update (emit_keeps (departAll_keeps (kept_update h)))
  exact retireCheck_keeps (modLaunch_keeps (wakeCastOn_keeps h4))

theorem execSkeinBoundOff_keeps {skein} (h : memoryKept s) : NextKept (execSkeinBoundOff skein s) := by
  unfold execSkeinBoundOff
  split
  · exact next_keeps h
  split
  · exact next_keeps h
  split
  · exact next_keeps (bindOff_keeps h)
  · exact next_keeps (foldl_keeps (fun _ _ h => bindOffEvict_keeps h) h)

/-! ## Machine/Memory.lean -/

theorem sendDatum_keeps {I lane r v} (h : memoryKept s) : memoryKept (s.sendDatum I lane r v) := by
  unfold State.sendDatum
  split
  · exact h
  · exact kept_update (modCourse_keeps (kept_update h))

theorem issDeliver_keeps {I r vals} (h : memoryKept s) : OkKept (Iss.deliver I s r vals) := by
  unfold Iss.deliver
  extract_lets
  split
  · exact error_keeps
  · exact ok_keeps (foldl_keeps (fun _ _ h => sendDatum_keeps h) h)

theorem execLd_keeps {f} (h : memoryKept s) : NextKept (execLd f s) := by
  unfold execLd
  refine runCourse_keeps h (fun _ _ h => ?_)
  extract_lets
  split
  · exact ranError_keeps h
  extract_lets
  split
  · exact ranError_keeps h
  · next e1 => exact ranOk_keeps (kept_of_ok e1 (issDeliver_keeps h))

theorem issPerforms_keeps {α : Type} {I : Iss} {f : State → Nat → α → Except Stop State} {l} (h : memoryKept s)
    (hf : ∀ t i a, memoryKept t → OkKept (f t i a)) : OkKept (I.performs s f l) := by
  induction l generalizing s with
  | nil => exact ok_keeps h
  | cons x l ih =>
    unfold Iss.performs
    split
    · exact error_keeps
    · next e => exact ih (kept_of_ok e (hf _ _ _ h))

theorem execSt_keeps {f} (h : memoryKept s) : NextKept (execSt f s) := by
  unfold execSt
  refine runCourse_keeps h (fun _ _ h => ?_)
  extract_lets
  split
  · exact ranError_keeps h
  split
  · exact ranError_keeps h
  next e1 =>
  refine ranOk_keeps ?_
  refine kept_of_ok e1 ?_
  refine issPerforms_keeps h (fun _ _ _ h => ?_)
  extract_lets
  split
  · exact routeNibble_keeps h
  · exact routeWrite_keeps h

theorem execLdv_keeps {f} (h : memoryKept s) : NextKept (execLdv f s) := by
  unfold execLdv
  refine runCourse_keeps h (fun _ _ h => ?_)
  split
  · exact ranError_keeps h
  extract_lets
  split
  · exact ranError_keeps h
  · next e1 => exact ranOk_keeps (kept_of_ok e1 (issDeliver_keeps h))

theorem execStv_keeps {f} (h : memoryKept s) : NextKept (execStv f s) := by
  unfold execStv
  refine runCourse_keeps h (fun _ _ h => ?_)
  extract_lets
  split
  · exact ranError_keeps h
  split
  · exact ranError_keeps h
  next e1 =>
  refine ranOk_keeps ?_
  refine kept_of_ok e1 ?_
  refine issPerforms_keeps h (fun _ _ _ h => ?_)
  extract_lets
  split
  · exact error_keeps
  next e2 =>
  split
  · exact routeWrite_keeps (kept_of_ok e2 (routeWrite_keeps h))
  · exact ok_keeps (kept_of_ok e2 (routeWrite_keeps h))

theorem execGath_keeps {f} (h : memoryKept s) : NextKept (execGath f s) := by
  unfold execGath
  refine runCourse_keeps h (fun _ _ h => ?_)
  extract_lets
  split
  · exact ranError_keeps h
  extract_lets
  split
  · exact ranError_keeps h
  · next e1 => exact ranOk_keeps (kept_of_ok e1 (issDeliver_keeps h))

theorem execScat_keeps {f} (h : memoryKept s) : NextKept (execScat f s) := by
  unfold execScat
  refine runCourse_keeps h (fun _ _ h => ?_)
  extract_lets
  split
  · exact ranError_keeps h
  extract_lets
  split
  · exact ranError_keeps h
  · next e1 => exact ranOk_keeps (kept_of_ok e1 (issPerforms_keeps h (fun _ _ _ h => routeWrite_keeps h)))

theorem runAtomic_keeps {i f rmw op} (h : memoryKept s) : NextKept (runAtomic s i f rmw op) := by
  unfold runAtomic
  refine runCourse_keeps h (fun I s h => ?_)
  extract_lets W
  split
  · exact ranError_keeps h
  extract_lets go
  have hgo : OkKept (go.map Prod.fst) := by
    refine foldl_ok_fst_keeps (fun acc _ hacc => ?_) (ok_keeps h)
    dsimp only
    split
    · exact error_keeps
    split
    · exact hacc
    split
    · exact error_keeps
    · next e => exact ok_keeps (kept_of_ok e (routeWrite_keeps (fst_kept_of_ok rfl hacc)))
  clear_value go
  split
  · exact ranError_keeps h
  split
  · exact ranError_keeps h
  · next e => exact ranOk_keeps (kept_of_ok e (issDeliver_keeps (fst_kept_of_ok rfl hgo)))

theorem execAadd_keeps {f} (h : memoryKept s) : NextKept (execAadd f s) :=
  runAtomic_keeps h

theorem execAmin_keeps {f} (h : memoryKept s) : NextKept (execAmin f s) :=
  runAtomic_keeps h

theorem execAmax_keeps {f} (h : memoryKept s) : NextKept (execAmax f s) :=
  runAtomic_keeps h

theorem execAand_keeps {f} (h : memoryKept s) : NextKept (execAand f s) :=
  runAtomic_keeps h

theorem execAor_keeps {f} (h : memoryKept s) : NextKept (execAor f s) :=
  runAtomic_keeps h

theorem execAxor_keeps {f} (h : memoryKept s) : NextKept (execAxor f s) :=
  runAtomic_keeps h

theorem execAxch_keeps {f} (h : memoryKept s) : NextKept (execAxch f s) :=
  runAtomic_keeps h

theorem execAcas_keeps {f} (h : memoryKept s) : NextKept (execAcas f s) :=
  runAtomic_keeps h

theorem execAfad_keeps {f} (h : memoryKept s) : NextKept (execAfad f s) :=
  runAtomic_keeps h

/-! ## Machine/TileOps.lean -/

theorem runShared_keeps {i req visible body} (h : memoryKept s) (hb : ∀ I get t, memoryKept t → OkKept (body I get t)) :
    NextKept (runShared s i req visible body) := by
  unfold runShared
  refine runCourse_keeps h (fun _ _ h => ?_)
  split
  · exact ranError_keeps h
  · exact ranError_keeps h
  · next e1 => exact ranOk_keeps (kept_of_ok e1 (hb _ _ _ h))

theorem issGive_keeps {I r v} (h : memoryKept s) : memoryKept (Iss.give I s r v) :=
  modCourse_keeps h

theorem newOp_keeps {I kind signal} (h : memoryKept s) : memoryKept (s.newOp I kind signal).2.2 :=
  h

theorem accept_keeps {I id o} (h : memoryKept s) : memoryKept (s.accept I id o) :=
  modCourse_keeps (setOp_keeps h)

theorem acceptDone_keeps {I sig} (h : memoryKept s) : memoryKept (s.acceptDone I sig) := by
  unfold State.acceptDone
  split
  · exact h
  · exact signal_keeps h

theorem execTdsc_keeps {f} (h : memoryKept s) : NextKept (execTdsc f s) := by
  unfold execTdsc
  refine runShared_keeps h (fun _ _ _ h => ?_)
  extract_lets
  split
  split
  · exact error_keeps
  split
  · exact error_keeps
  split
  · exact error_keeps
  extract_lets
  split
  · exact error_keeps
  extract_lets
  split
  · exact error_keeps
  split
  · exact error_keeps
  · exact ok_keeps (setTile_keeps h)

theorem execTfch_keeps {f} (h : memoryKept s) : NextKept (execTfch f s) := by
  unfold execTfch
  refine runShared_keeps h (fun I val s h => ?_)
  extract_lets idx off where' wr mc
  split
  · exact error_keeps
  split
  · exact error_keeps
  · exact error_keeps
  extract_lets d snapping bind
  have hbind : ∀ {t p}, memoryKept t → memoryKept (bind t p) := fun h => by
    unfold bind
    split
    · exact modPanel_keeps h
    · exact h
  split
  · exact ok_keeps (hbind (acceptDone_keeps h))
  split
  · exact error_keeps
  split
  · split
    · exact error_keeps
    · exact ok_keeps (hbind (acceptDone_keeps h))
  split
  · exact error_keeps
  extract_lets
  split
  · exact error_keeps
  split
  · exact error_keeps
  next e1 =>
  split
  next e2 =>
  split
  · exact error_keeps
  · next e3 =>
    have h3 := kept_of_some e3 (takeLocks_keeps (thd_kept e2 (newOp_keeps (kept_of_some e1 (admitTile_keeps h)))))
    exact ok_keeps (hbind (accept_keeps (markIncoming_keeps (setDir_keeps (setTile_keeps h3)))))

theorem execTevc_keeps {f} (h : memoryKept s) : NextKept (execTevc f s) := by
  unfold execTevc
  refine runShared_keeps h (fun _ _ _ h => ?_)
  split
  · exact error_keeps
  · exact error_keeps
  split
  · exact error_keeps
  split
  · exact ok_keeps (acceptDone_keeps h)
  split
  next e1 =>
  extract_lets
  split
  · exact error_keeps
  next e2 =>
  extract_lets s1
  have h1 : memoryKept s1 := setDir_keeps (kept_of_some e2 (takeLocks_keeps (thd_kept e1 (newOp_keeps h))))
  exact ok_keeps (accept_keeps h1)

theorem execTmov_keeps {f} (h : memoryKept s) : NextKept (execTmov f s) := by
  unfold execTmov
  refine runCourse_keeps h (fun I s h => ?_)
  extract_lets tr rm all r
  have hr : OkKept r := by
    unfold r
    split
    · exact error_keeps
    · exact error_keeps
    · exact error_keeps
    extract_lets same
    split
    split
    split
    · exact error_keeps
    split
    · exact error_keeps
    split
    · exact error_keeps
    split
    · exact error_keeps
    split
    · exact error_keeps
    split
    · exact error_keeps
    split
    · exact error_keeps
    split
    next e1 =>
    split
    · exact error_keeps
    · next e2 => exact ok_keeps (accept_keeps (markIncoming_keeps (kept_of_some e2 (takeLocks_keeps (thd_kept e1 (newOp_keeps h))))))
  clear_value r
  split
  · exact ranError_keeps h
  · exact ranOk_keeps (hr _ rfl)

theorem storeElem_keeps {b t i o v} (h : memoryKept s) : OkKept (s.storeElem b t i o v) := by
  unfold State.storeElem
  split
  · split
    · exact error_keeps
    split
    · exact error_keeps
    · next e1 => exact append_keeps (kept_of_some e1 (admitTile_keeps h))
  · exact routeWrite_keeps h

theorem accElem_keeps {b op v x} (h : memoryKept s) : OkKept (s.accElem b op v x) := by
  unfold State.accElem
  split
  extract_lets
  split
  · split
    · exact error_keeps
    split
    · exact error_keeps
    split
    · exact error_keeps
    · next e1 => exact append_keeps (kept_of_some e1 (admitTile_keeps h))
  · exact routeWrite_keeps (countStats_keeps h)

theorem execTacc_keeps {f} (h : memoryKept s) : NextKept (execTacc f s) := by
  unfold execTacc
  refine runCourse_keeps h (fun _ _ h => ?_)
  extract_lets
  split
  · exact ranError_keeps h
  split
  · exact ranError_keeps h
  · next e1 => exact ranOk_keeps (kept_of_ok e1 (issPerforms_keeps h (fun _ _ _ h => accElem_keeps h)))

theorem execTset_keeps {f} (h : memoryKept s) : NextKept (execTset f s) := by
  unfold execTset
  refine runCourse_keeps h (fun _ _ h => ?_)
  extract_lets
  split
  · exact ranError_keeps h
  split
  · exact ranError_keeps h
  next e1 =>
  refine ranOk_keeps ?_
  refine kept_of_ok e1 ?_
  refine issPerforms_keeps h (fun _ _ _ h => ?_)
  extract_lets
  exact storeElem_keeps (countStats_keeps h)

theorem execTget_keeps {f} (h : memoryKept s) : NextKept (execTget f s) := by
  unfold execTget
  refine runCourse_keeps h (fun _ _ h => ?_)
  split
  · exact ranError_keeps h
  extract_lets
  split
  · exact ranError_keeps h
  · next e1 => exact ranOk_keeps (kept_of_ok e1 (issDeliver_keeps h))

theorem execTcmp_keeps {f} (h : memoryKept s) : NextKept (execTcmp f s) := by
  unfold execTcmp
  refine runCourse_keeps h (fun _ _ h => ?_)
  split
  · exact ranError_keeps h
  extract_lets
  split
  · exact ranError_keeps h
  · next e1 => exact ranOk_keeps (kept_of_ok e1 (issStore_keeps h))

theorem startLog_keeps {I t act sig} (h : memoryKept s) : OkKept (s.startLog I t act sig) := by
  unfold State.startLog
  split
  · exact error_keeps
  split
  next e1 =>
  split
  · exact error_keeps
  next e2 =>
  refine ok_keeps ?_
  refine accept_keeps ?_
  refine kept_of_some e2 ?_
  split
  · exact takeLocks_keeps (thd_kept e1 (newOp_keeps h))
  · exact some_keeps (thd_kept e1 (newOp_keeps h))

theorem logForm_keeps {I f act} (h : memoryKept s) : OkKept (s.logForm I f act) := by
  unfold State.logForm
  split
  · exact error_keeps
  · exact error_keeps
  · exact startLog_keeps h

theorem execTlogCompact_keeps {f} (h : memoryKept s) : NextKept (execTlogCompact f s) :=
  runShared_keeps h (fun _ _ _ h => logForm_keeps h)

theorem execTlogApply_keeps {f} (h : memoryKept s) : NextKept (execTlogApply f s) :=
  runShared_keeps h (fun _ _ _ h => logForm_keeps h)

theorem execTlogDiscard_keeps {f} (h : memoryKept s) : NextKept (execTlogDiscard f s) :=
  runShared_keeps h (fun _ _ _ h => logForm_keeps h)

theorem execTlogQuery_keeps {f} (h : memoryKept s) : NextKept (execTlogQuery f s) := by
  unfold execTlogQuery
  refine runShared_keeps h (fun _ _ _ h => ?_)
  split
  · exact error_keeps
  · exact ok_keeps (issGive_keeps h)

theorem execCpy_keeps {f} (h : memoryKept s) : NextKept (execCpy f s) := by
  unfold execCpy
  refine runCourse_keeps h (fun I s h => ?_)
  extract_lets dst src len all r
  have hr : OkKept r := by
    unfold r
    split
    · exact error_keeps
    split
    · exact error_keeps
    split
    · exact error_keeps
    split
    · exact error_keeps
    split
    · exact error_keeps
    split
    · exact error_keeps
    split
    next e1 =>
    split
    · exact error_keeps
    · next e2 => exact ok_keeps (accept_keeps (markIncoming_keeps (kept_of_some e2 (takeLocks_keeps (thd_kept e1 (newOp_keeps h))))))
  clear_value r
  split
  · exact ranError_keeps h
  · exact ranOk_keeps (hr _ rfl)

theorem execCpySnap_keeps {f} (h : memoryKept s) : NextKept (execCpySnap f s) := by
  unfold execCpySnap
  refine runShared_keeps h (fun _ _ _ h => ?_)
  extract_lets
  split
  · exact error_keeps
  · exact error_keeps
  split
  · exact error_keeps
  split
  · exact error_keeps
  split
  next e1 =>
  split
  · exact error_keeps
  · next e2 => exact ok_keeps (accept_keeps (markIncoming_keeps (kept_of_some e2 (takeLocks_keeps (thd_kept e1 (newOp_keeps h))))))

theorem execCwt_keeps {f} (h : memoryKept s) : NextKept (execCwt f s) := by
  unfold execCwt
  refine runShared_keeps h (fun _ _ _ h => ?_)
  split
  · exact ok_keeps h
  · exact error_keeps

theorem execRlq_keeps {f} (h : memoryKept s) : NextKept (execRlq f s) := by
  unfold execRlq
  refine runShared_keeps h (fun _ _ _ h => ?_)
  extract_lets
  exact ok_keeps (issGive_keeps h)

/-! ## Machine/Engine.lean -/

theorem engWrite_keeps {w core ev a fuel b} (h : memoryKept s) : OkKept (s.engWrite w core ev a fuel b) := by
  induction fuel generalizing s a b with
  | zero => exact ok_keeps h
  | succ fuel ih =>
    unfold State.engWrite
    dsimp only
    split
    · exact ok_keeps h
    split
    · exact error_keeps
    split
    · exact error_keeps
    · exact error_keeps
    split
    · exact error_keeps
    split
    · exact error_keeps
    · exact error_keeps
    · next e => exact ih (kept_of_ok e (routeWrite_keeps h))

theorem engineLocks_keeps {core pslot cause l} (h : memoryKept s) :
    SomeKept ((s.engineLocks core pslot cause l).map Prod.snd) := by
  unfold State.engineLocks
  dsimp only
  rw [Option.map_map]
  intro t e
  obtain ⟨u, hu, rfl⟩ := Option.map_eq_some_iff.1 e
  exact setOp_keeps (kept_of_some hu (takeLocks_keeps (newId_keeps h)))

theorem seqArrive_keeps {core pslot n cause parent} (h : memoryKept s) : memoryKept (s.seqArrive core pslot n cause parent) := by
  unfold State.seqArrive
  split
  · exact evalBar_keeps (setPanel_keeps h)
  · exact h

theorem performSba_keeps {core which} (h : memoryKept s) : memoryKept (s.performSba core which) := by
  unfold State.performSba
  split
  · exact h
  extract_lets
  exact foldl_keeps (fun _ _ h => seqArrive_keeps h) (modEngine_keeps h)

theorem resumeJob_keeps {core} (h : memoryKept s) : memoryKept (s.resumeJob core) := by
  unfold State.resumeJob
  extract_lets
  split
  · exact h
  extract_lets
  split
  · exact h
  split
  · exact h
  · next e1 => exact modEngine_keeps (snd_kept_of_some e1 (engineLocks_keeps h))

theorem execSbwGateOpen_keeps {core} (h : memoryKept s) : NextKept (execSbwGateOpen core s) := by
  unfold execSbwGateOpen
  extract_lets
  split
  · exact next_keeps (resumeJob_keeps h)
  extract_lets
  split
  · exact next_keeps (resumeJob_keeps h)
  · exact next_keeps (modEngine_keeps (resumeJob_keeps h))

theorem jobDone_keeps {core} (h : memoryKept s) : memoryKept (s.jobDone core) := by
  unfold State.jobDone
  split
  · exact h
  extract_lets _ s2
  have h2 : memoryKept s2 := endOp_keeps (performSba_keeps (modEngine_keeps h))
  exact modEngine_keeps (emit_keeps h2)

theorem parkEngine_keeps {core cause x} (h : memoryKept s) : memoryKept (s.parkEngine core cause x) := by
  unfold State.parkEngine
  extract_lets
  split
  · exact h
  · exact hostFault_keeps h
  · exact hostFault_keeps (memUe_keeps h)

theorem engineGoesOn_keeps {core} (h : memoryKept s) : memoryKept (s.engineGoesOn core) := by
  unfold State.engineGoesOn
  split
  · exact h
  · exact faultOver_keeps h

theorem faultStop_keeps {core j x} (h : memoryKept s) : memoryKept (s.faultStop core j x) := by
  unfold State.faultStop
  extract_lets
  split
  · exact h
  · exact stopEngine_keeps (modPanel_keeps h)
  · exact stopEngine_keeps (modPanel_keeps (memUe_keeps h))

theorem execDepthStep_keeps {core} (h : memoryKept s) : NextKept (execDepthStep core s) := by
  unfold execDepthStep
  extract_lets
  split
  · exact next_keeps (resumeJob_keeps h)
  split
  · exact next_keeps (resumeJob_keeps h)
  split
  · exact next_keeps (modEngine_keeps (resumeJob_keeps h))
  split
  · exact next_keeps (modEngine_keeps (resumeJob_keeps h))
  · refine next_keeps ?_
    split
    · exact faultStop_keeps (resumeJob_keeps h)
    · exact parkEngine_keeps (resumeJob_keeps h)
  extract_lets _ _ _ s2
  have h2 : memoryKept s2 := engineGoesOn_keeps (modEngine_keeps (resumeJob_keeps h))
  split
  · exact next_keeps (stopEngine_keeps (foldl_keeps (fun _ _ h => engineHits_keeps h) h2))
  extract_lets s4
  have h4 : memoryKept s4 := countStats_keeps (foldl_keeps (fun _ _ h => engineHits_keeps h) h2)
  split
  · exact next_keeps (modEngine_keeps h4)
  refine next_keeps ?_
  split
  · exact jobDone_keeps (modEngine_keeps h4)
  · exact modEngine_keeps h4

theorem extractWrite_keeps {core x a b} (h : memoryKept s) : OkKept (s.extractWrite core x a b) := by
  unfold State.extractWrite
  split
  · exact ok_keeps h
  extract_lets
  split
  · exact error_keeps
  · next e1 => exact ok_keeps (engineHits_keeps (kept_of_ok e1 (engWrite_keeps h)))

theorem extractSector_keeps {core x sec} (h : memoryKept s) : OkKept (s.extractSector core x sec) := by
  unfold State.extractSector
  extract_lets c lo hi w ew rows r
  have hr : OkKept r := by
    refine foldl_ok_keeps (fun _ _ h => ?_) (ok_keeps h)
    dsimp only
    split
    · exact error_keeps
    split
    · exact error_keeps
    split
    · exact error_keeps
    · next e => exact ok_keeps (countStats_keeps (kept_of_ok e (extractWrite_keeps (h _ rfl))))
  clear_value r
  split
  · exact error_keeps
  split
  · exact extractWrite_keeps (hr _ rfl)
  · exact ok_keeps (hr _ rfl)

theorem extractLog_keeps {core x k} (h : memoryKept s) : OkKept (s.extractLog core x k) := by
  unfold State.extractLog
  extract_lets
  split
  · exact error_keeps
  split
  · exact error_keeps
  · exact error_keeps
  split
  split
  · exact ok_keeps h
  extract_lets
  split
  extract_lets
  split
  · exact error_keeps
  split
  · exact error_keeps
  extract_lets
  split
  · exact error_keeps
  split
  · exact error_keeps
  split
  · exact error_keeps
  · next e1 => exact ok_keeps (engineHits_keeps (countStats_keeps (kept_of_ok e1 (accElem_keeps h))))

theorem extractNext_keeps {core} (h : memoryKept s) : memoryKept (s.extractNext core) := by
  unfold State.extractNext
  split
  · exact h
  split
  · exact h
  split
  next r next e =>
  have hr : OkKept r := by
    split at e
    · cases e; exact extractLog_keeps h
    · split at e
      · cases e; exact extractSector_keeps h
      · cases e; exact ok_keeps h
  split
  · exact parkEngine_keeps h
  · exact engineGoesOn_keeps (modEngine_keeps (hr _ rfl))

theorem extractStamp_keeps {core x first waited} (h : memoryKept s) : memoryKept (s.extractStamp core x first waited) := by
  unfold State.extractStamp
  split
  · exact h
  split
  · exact h
  extract_lets
  exact traceEv_keeps h

theorem execTileExtract_keeps {core} (h : memoryKept s) : NextKept (execTileExtract core s) := by
  unfold execTileExtract
  split
  · exact next_keeps h
  split
  · exact next_keeps h
  extract_lets _ _ s2
  have h2 : memoryKept s2 := endOp_keeps (extractStamp_keeps (emit_keeps (modEngine_keeps h)))
  split
  · exact next_keeps (emit_keeps (modEngine_keeps h2))
  split
  · exact next_keeps (modEngine_keeps h)
  extract_lets s4
  have h4 : memoryKept s4 := extractStamp_keeps (emit_keeps (modEngine_keeps h))
  refine next_keeps ?_
  split
  · exact jobDone_keeps (performSba_keeps (modEngine_keeps h4))
  split
  · exact stopEngine_keeps (performSba_keeps (modEngine_keeps h4))
  · exact performSba_keeps (modEngine_keeps h4)

theorem execEngineStop_keeps {core code} (h : memoryKept s) : NextKept (execEngineStop core code s) := by
  unfold execEngineStop
  extract_lets
  refine next_keeps ?_
  split
  · exact stopEngine_keeps h
  · exact h

/-! ## Machine/Stream.lean -/

theorem forbids_keeps (h : memoryKept s) : SRanKept s.forbids :=
  trap_keeps (kept_update h)

theorem sStopRan_keeps {x} (h : memoryKept s) : SRanKept (SStop.ran s x) := by
  unfold SStop.ran
  split
  · exact trap_keeps h
  · exact wait_keeps h

theorem runOwner_keeps {body} (h : memoryKept s) (hb : ∀ core pslot p t, memoryKept t → SRanKept (body core pslot p t)) :
    NextKept (runOwner s body) := by
  unfold runOwner
  refine runStream_keeps h (fun _ _ _ _ h => ?_)
  split
  · exact hb _ _ _ _ h
  · exact forbids_keeps h

theorem execGrd_keeps {f} (h : memoryKept s) : NextKept (execGrd f s) := by
  unfold execGrd
  refine runOwner_keeps h (fun _ _ _ _ h => ?_)
  extract_lets
  split
  · exact wait_keeps h
  split
  · exact forbids_keeps h
  · exact done_keeps (modEngine_keeps h)

theorem startJob_keeps {core pslot p a c old resume} (h : memoryKept s) :
    SomeKept ((s.startJob core pslot p a c old resume).map Prod.fst) := by
  unfold State.startJob
  extract_lets e0
  split
  next e1 =>
  have h1 := snd_kept e1 (by
    split
    · exact h
    · exact newCause_keeps h)
  split
  · exact none_keeps
  next e2 =>
  extract_lets passed
  split
  exact some_keeps (emit_keeps (modPanel_keeps (modEngine_keeps (snd_kept_of_some e2 (engineLocks_keeps h1)))))

theorem execJob_keeps {f} (h : memoryKept s) : NextKept (execJob f s) := by
  unfold execJob
  refine runOwner_keeps h (fun _ _ _ _ h => ?_)
  split
  · exact wait_keeps h
  extract_lets
  split
  · exact sStopRan_keeps h
  split
  · exact wait_keeps h
  · next e1 => exact done_keeps (modPanel_keeps (fst_kept_of_some e1 (startJob_keeps h)))

theorem execJwt_keeps {f} (h : memoryKept s) : NextKept (execJwt f s) := by
  unfold execJwt
  refine runStream_keeps h (fun _ _ _ _ h => ?_)
  extract_lets
  split
  · exact wait_keeps h
  split
  · exact trap_keeps h
  split
  · exact trap_keeps h
  · exact done_keeps (modPanel_keeps h)

theorem execJrs_keeps {f} (h : memoryKept s) : NextKept (execJrs f s) := by
  unfold execJrs
  refine runOwner_keeps h (fun _ _ _ _ h => ?_)
  extract_lets
  split
  · exact forbids_keeps h
  split
  · exact wait_keeps h
  split
  · exact sStopRan_keeps h
  split
  · exact sStopRan_keeps h
  split
  · exact wait_keeps h
  · next e1 => exact done_keeps (fst_kept_of_some e1 (startJob_keeps h))

theorem claimEngine_keeps {core pslot} (h : memoryKept s) : SomeKept (s.claimEngine core pslot) := by
  unfold State.claimEngine
  extract_lets
  split
  · split
    · exact some_keeps h
    · exact none_keeps
  · exact some_keeps (acquireEngine_keeps h)

theorem queueEngine_keeps {core pslot} (h : memoryKept s) : memoryKept (s.queueEngine core pslot) :=
  modEngine_keeps h

theorem execAcz_keeps {f} (h : memoryKept s) : NextKept (execAcz f s) := by
  unfold execAcz
  refine runStream_keeps h (fun _ _ _ _ h => ?_)
  split
  · exact wait_keeps (queueEngine_keeps h)
  next e1 =>
  split
  · exact wait_keeps (kept_of_some e1 (claimEngine_keeps h))
  · exact done_keeps (modEngine_keeps (kept_of_some e1 (claimEngine_keeps h)))

theorem writeImage_keeps {w core ev eng a k n} (h : memoryKept s) : memoryKept (s.writeImage w core ev eng a k n).1 := by
  induction n generalizing s k with
  | zero => exact h
  | succ n ih =>
    unfold State.writeImage
    split
    · exact h
    · next e => exact ih (kept_of_ok e (engWrite_keeps h))

theorem holdImage_keeps {core pslot p a dst} (h : memoryKept s) : SomeKept (s.holdImage core pslot p a dst) := by
  unfold State.holdImage
  split
  · exact some_keeps h
  intro t e
  obtain ⟨⟨id, u⟩, hu, rfl⟩ := Option.map_eq_some_iff.1 e
  exact modPanel_keeps (snd_kept_of_some hu (engineLocks_keeps h))

theorem dropImage_keeps {core pslot} (h : memoryKept s) : memoryKept (s.dropImage core pslot) := by
  unfold State.dropImage
  split
  · exact modPanel_keeps (endOp_keeps h)
  · exact h

theorem imageStops_keeps {core pslot x} (h : memoryKept s) : SRanKept (s.imageStops core pslot x) := by
  unfold State.imageStops
  split
  · exact wait_keeps h
  · exact sStopRan_keeps (dropImage_keeps h)

theorem execAcs_keeps {f} (h : memoryKept s) : NextKept (execAcs f s) := by
  unfold execAcs
  refine runOwner_keeps h (fun _ _ _ _ h => ?_)
  extract_lets
  split
  · exact wait_keeps h
  split
  · exact sStopRan_keeps h
  split
  · exact wait_keeps h
  next e1 =>
  split
  · next e2 => exact imageStops_keeps (fst_kept e2 (writeImage_keeps (kept_of_some e1 (holdImage_keeps h))))
  next e2 =>
  extract_lets s1
  have h1 : memoryKept s1 := dropImage_keeps (stopEngine_keeps (fst_kept e2 (writeImage_keeps (kept_of_some e1 (holdImage_keeps h)))))
  exact done_keeps (releaseEngine_keeps (emit_keeps h1))

theorem execAcl_keeps {f} (h : memoryKept s) : NextKept (execAcl f s) := by
  unfold execAcl
  refine runStream_keeps h (fun core pslot p s h => ?_)
  extract_lets a w mine
  split
  · exact wait_keeps (queueEngine_keeps h)
  split
  · exact wait_keeps h
  split
  · exact sStopRan_keeps h
  split
  · exact wait_keeps h
  next e =>
  have h1 := kept_of_some e (holdImage_keeps h)
  have h2 := dropImage_keeps (core := core) (pslot := pslot) h1
  split
  · exact imageStops_keeps h1
  split
  · exact sStopRan_keeps h2
  have h3 := getD_keeps (claimEngine_keeps (core := core) (pslot := pslot) h2) h1
  split
  · exact wait_keeps h1
  · exact sStopRan_keeps (modEngine_keeps h3)
  · exact done_keeps (emit_keeps (modEngine_keeps h3))

theorem execExt_keeps {f} (h : memoryKept s) : NextKept (execExt f s) := by
  unfold execExt
  refine runOwner_keeps h (fun _ _ _ _ h => ?_)
  split
  · exact wait_keeps h
  extract_lets
  split
  · exact sStopRan_keeps h
  split
  next e1 =>
  split
  · exact wait_keeps h
  next e2 =>
  extract_lets _ s1
  have h1 : memoryKept s1 := modEngine_keeps (snd_kept_of_some e2 (engineLocks_keeps (snd_kept e1 (newCause_keeps h))))
  exact done_keeps (emit_keeps h1)

theorem addGate_keeps {core pslot p g} (h : memoryKept s) : SRanKept (s.addGate core pslot p g) := by
  unfold State.addGate
  split
  · exact forbids_keeps h
  · exact done_keeps (setPanel_keeps h)

theorem execSba_keeps {f} (h : memoryKept s) : NextKept (execSba f s) :=
  runStream_keeps h (fun _ _ _ _ h => addGate_keeps h)

theorem execSbw_keeps {f} (h : memoryKept s) : NextKept (execSbw f s) :=
  runStream_keeps h (fun _ _ _ _ h => addGate_keeps h)

theorem execStreamExit_keeps {f} (h : memoryKept s) : NextKept (execStreamExit f s) := by
  unfold execStreamExit
  extract_lets
  split
  · split
    · exact fault_keeps
    extract_lets _ _ _ s1 _ _ s3 _ _ _ s7
    have h1 : memoryKept s1 := by
      unfold s1
      split
      · exact performSba_keeps h
      · exact h
    have h3 : memoryKept s3 := by
      unfold s3
      refine dropImage_keeps ?_
      split
      · exact releaseEngine_keeps (foldl_keeps (fun _ _ h => seqArrive_keeps h) h1)
      · exact foldl_keeps (fun _ _ h => seqArrive_keeps h) h1
    have h7 : memoryKept s7 := departAll_keeps (emit_keeps (modPanel_keeps (modEngine_keeps h3)))
    split
    · exact next_keeps (modPanel_keeps h)
    · exact next_keeps (panelCheck_keeps h7)
  · exact fault_keeps

/-! ## Machine/Sync.lean -/

theorem runBarrier_keeps {i f act} (h : memoryKept s) : NextKept (runBarrier s i f act) := by
  unfold runBarrier
  refine runCourse_keeps h (fun I s h => ?_)
  extract_lets level n
  split
  · exact ranError_keeps h
  split
  next e =>
  refine ranOk_keeps (fst_kept e ?_)
  split
  · exact arriveStrands_keeps h
  · exact h

theorem runSeqBarrier_keeps {i f act} (h : memoryKept s) : NextKept (runSeqBarrier s i f act) := by
  unfold runSeqBarrier
  refine runStream_keeps h (fun core pslot p s h => ?_)
  generalize (if act.arrives = true then 8 else 16) = limit
  extract_lets n
  split
  · exact trap_keeps h
  split
  · exact done_keeps h
  have h1 : memoryKept (if act.arrives = true then s.seqArrive core pslot n (s.skeinCause p.skein) (s.skeinParent p.skein) else s) := by
    split
    · exact seqArrive_keeps h
    · exact h
  split
  extract_lets target now
  clear_value target
  split
  · exact done_keeps h1
  split
  · exact wait_keeps h1
  · exact done_keeps h1

theorem execBara_keeps {f} (h : memoryKept s) : NextKept (execBara f s) := by
  unfold execBara
  split
  · exact runSeqBarrier_keeps h
  · exact runBarrier_keeps h

theorem execBarw_keeps {f} (h : memoryKept s) : NextKept (execBarw f s) := by
  unfold execBarw
  split
  · exact runSeqBarrier_keeps h
  · exact runBarrier_keeps h

theorem execBar_keeps {f} (h : memoryKept s) : NextKept (execBar f s) := by
  unfold execBar
  split
  · exact runSeqBarrier_keeps h
  · exact runBarrier_keeps h

theorem issOldTo_keeps {I old r l} (h : memoryKept s) : OkKept (Iss.oldTo I s old r l) := by
  unfold Iss.oldTo
  split
  · exact issStore_keeps h
  · exact ok_keeps h

theorem execBarq_keeps {f} (h : memoryKept s) : NextKept (execBarq f s) := by
  unfold execBarq
  refine runCourse_keeps h (fun I s h => ?_)
  extract_lets word u n r
  clear_value r
  split
  · exact ranError_keeps h
  split
  · exact ranError_keeps h
  · next e => exact ranOk_keeps (kept_of_ok e (issStore_keeps h))

theorem execCinc_keeps {f} (h : memoryKept s) : NextKept (execCinc f s) := by
  unfold execCinc
  refine runCourse_keeps h (fun _ _ h => ?_)
  extract_lets
  split
  · exact ranError_keeps h
  extract_lets
  split
  · exact ranError_keeps h
  next e1 =>
  extract_lets s1
  have h1 : memoryKept s1 := foldl_keeps (fun _ _ h => signal_keeps h) (kept_of_ok e1 (issOldTo_keeps h))
  exact ranOk_keeps h1

theorem execCwait_keeps {f} (h : memoryKept s) : NextKept (execCwait f s) := by
  unfold execCwait
  refine runCourse_keeps h (fun _ _ h => ?_)
  extract_lets
  split
  · exact ranError_keeps h
  extract_lets
  split
  · exact ranError_keeps h
  split
  · exact ranError_keeps h
  · next e1 => exact ranOk_keeps (kept_of_ok e1 (issOldTo_keeps h))

theorem execCset_keeps {f} (h : memoryKept s) : NextKept (execCset f s) := by
  unfold execCset
  refine runCourse_keeps h (fun _ _ h => ?_)
  extract_lets
  split
  · exact ranError_keeps h
  extract_lets
  split
  · exact ranError_keeps h
  next e1 =>
  extract_lets s1
  have h1 : memoryKept s1 := foldl_keeps (fun _ _ h => setValue_keeps h) (kept_of_ok e1 (issOldTo_keeps h))
  exact ranOk_keeps h1

theorem execCdcl_keeps {f} (h : memoryKept s) : NextKept (execCdcl f s) := by
  unfold execCdcl
  refine runCourse_keeps h (fun _ _ h => ?_)
  extract_lets
  split
  · exact ranError_keeps h
  split
  · exact ranError_keeps h
  split
  · exact ranError_keeps h
  extract_lets
  exact ranOk_keeps (emit_keeps (setCounter_keeps h))

theorem execFence_keeps {f} (h : memoryKept s) : NextKept (execFence f s) := by
  unfold execFence
  split
  · refine runStream_keeps h (fun _ _ _ _ h => ?_)
    split
    · exact wait_keeps h
    · exact done_keeps h
  refine runCourse_keeps h (fun _ _ h => ?_)
  extract_lets
  split
  · exact ranError_keeps h
  · exact ranOk_keeps h

/-! ## Machine/Fabric.lean -/

theorem execLinkDown_keeps {peer} (h : memoryKept s) : NextKept (execLinkDown peer s) := by
  unfold execLinkDown
  split
  · exact next_keeps h
  extract_lets
  exact next_keeps (reportLinks_keeps (emit_keeps (life_keeps (kept_update h))))

theorem execLinkUp_keeps {peer} (h : memoryKept s) : NextKept (execLinkUp peer s) := by
  unfold execLinkUp
  split
  · exact next_keeps h
  extract_lets
  exact next_keeps (reportLinks_keeps (emit_keeps (kept_update h)))

theorem execPacketRelay_keeps {p} (h : memoryKept s) : NextKept (execPacketRelay p s) := by
  unfold execPacketRelay
  split
  · exact next_keeps h
  split
  · exact next_keeps (portOut_keeps h)
  extract_lets
  split
  · exact next_keeps (portOut_keeps h)
  · exact next_keeps (answer_keeps h)

theorem execReservedKindPacket_keeps {p} (h : memoryKept s) : NextKept (execReservedKindPacket p s) :=
  next_keeps (kept_update h)

theorem setSeq_keeps {src f e n} (h : memoryKept s) : memoryKept (s.setSeq src f e n) :=
  h

theorem skipDone_keeps {src f n} (h : memoryKept s) : memoryKept (s.skipDone src f n) := by
  induction n generalizing s with
  | zero => exact h
  | succ n ih =>
    unfold State.skipDone
    split
    split
    · exact h
    · exact ih (setSeq_keeps (kept_update h))

theorem inFlow_keeps {p f} (h : memoryKept s) (hf : ∀ t, memoryKept t → memoryKept (f t).2) : memoryKept (s.inFlow p f) := by
  unfold State.inFlow
  extract_lets src hold
  split
  split
  · exact h
  have hhold : ∀ {t}, memoryKept t → memoryKept (hold t) := fun h => by
    unfold hold
    split
    · exact h
    · exact kept_update h
  split
  · exact hhold h
  split
  · next e => exact hhold (snd_kept e (hf _ h))
  next e =>
  have h1 := snd_kept e (hf _ h)
  split
  · exact skipDone_keeps (setSeq_keeps (kept_update h1))
  · exact kept_update (kept_update h1)

theorem served_keeps {p r} (h : memoryKept s) (hr : AckKept r) : memoryKept (s.served p r).2 := by
  unfold State.served
  split
  · exact answer_keeps (hr _ rfl)
  · exact h
  · exact answer_keeps h
  · exact answer_keeps h
  · exact answer_keeps (memUe_keeps h)

theorem agtHits_keeps {g kind a l} (h : memoryKept s) : memoryKept (s.agtHits g kind a l) :=
  engineHits_keeps h

theorem agtStore_keeps {g a bs} (h : memoryKept s) : OkKept (s.agtStore g a bs) := by
  unfold State.agtStore
  refine foldl_ok_keeps (fun _ _ h => ?_) (ok_keeps h)
  dsimp only
  split
  · exact error_keeps
  split
  · exact error_keeps
  split
  · exact error_keeps
  · next e => exact ok_keeps (agtHits_keeps (kept_of_ok e (routeWrite_keeps (h _ rfl))))

theorem agtAtomic_keeps {g a n fp f} (h : memoryKept s) : OkKept (s.agtAtomic g a n fp f) := by
  unfold State.agtAtomic
  split
  · exact error_keeps
  extract_lets
  split
  · exact error_keeps
  split
  · exact error_keeps
  split
  · exact error_keeps
  · next e1 => exact ok_keeps (agtHits_keeps (kept_of_ok e1 (routeWrite_keeps h)))

theorem agtReduce_keeps {g a t red v} (h : memoryKept s) : OkKept (s.agtReduce g a t red v) := by
  unfold State.agtReduce
  extract_lets
  split
  · exact error_keeps
  split
  · exact agtAtomic_keeps h
  split
  · exact error_keeps
  split
  · exact error_keeps
  next e1 =>
  split
  · exact error_keeps
  · next e2 => exact ok_keeps (agtHits_keeps (kept_of_ok e2 (append_keeps (kept_of_some e1 (admitTile_keeps h)))))

theorem agtReduceAll_keeps {g t red a bs} (h : memoryKept s) : OkKept (s.agtReduceAll g t red a bs) := by
  unfold State.agtReduceAll
  dsimp only
  refine foldl_ok_keeps (fun _ _ h => ?_) (ok_keeps h)
  split
  · exact error_keeps
  · exact agtReduce_keeps (h _ rfl)

theorem onRange_keeps {p right o n f} (h : memoryKept s) (hf : ∀ g a, AckKept (f g a)) : memoryKept (s.onRange p right o n f).2 := by
  unfold State.onRange
  refine served_keeps h ?_
  split
  · exact ackError_keeps
  · exact hf _ _

theorem acked_keeps {r} (h : OkKept r) : AckKept (acked r) := by
  unfold acked
  split
  · exact ackError_keeps
  · exact ackOk_keeps (h _ rfl)

theorem execFabricRead_keeps {p} (h : memoryKept s) : NextKept (execFabricRead p s) := by
  unfold execFabricRead
  split
  · refine next_keeps ?_
    refine inFlow_keeps h (fun _ h => ?_)
    refine onRange_keeps h (fun _ _ => ?_)
    split
    · exact ackError_keeps
    · exact ackOk_keeps (agtHits_keeps h)
  · exact next_keeps h

theorem execFabricWrite_keeps {p} (h : memoryKept s) : NextKept (execFabricWrite p s) := by
  unfold execFabricWrite
  split
  · exact next_keeps (inFlow_keeps h (fun _ h => onRange_keeps h (fun _ _ => acked_keeps (agtStore_keeps h))))
  · exact next_keeps h

theorem execFabricAtomic_keeps {p} (h : memoryKept s) : NextKept (execFabricAtomic p s) := by
  unfold execFabricAtomic
  split
  · exact next_keeps (inFlow_keeps h (fun _ h => onRange_keeps h (fun _ _ => acked_keeps (agtAtomic_keeps h))))
  · exact next_keeps h

theorem execFabricWriteReduce_keeps {p} (h : memoryKept s) : NextKept (execFabricWriteReduce p s) := by
  unfold execFabricWriteReduce
  split
  · exact next_keeps (inFlow_keeps h (fun _ h => onRange_keeps h (fun _ _ => acked_keeps (agtReduceAll_keeps h))))
  · exact next_keeps h

theorem applyRsig_keeps {ctx e w dev key cause parent} (h : memoryKept s) : OkKept (s.applyRsig ctx e w dev key cause parent) := by
  unfold State.applyRsig
  split
  · exact ok_keeps h
  split
  · exact error_keeps
  split
  · exact error_keeps
  · exact ok_keeps (signalWord_keeps h)

theorem execFabricSignal_keeps {p} (h : memoryKept s) : NextKept (execFabricSignal p s) := by
  unfold execFabricSignal
  split
  · refine next_keeps ?_
    refine inFlow_keeps h (fun _ h => ?_)
    refine served_keeps h ?_
    split
    · exact ackError_keeps
    · exact acked_keeps (applyRsig_keeps h)
  · exact next_keeps h

theorem execFld_keeps {f} (h : memoryKept s) : NextKept (execFld f s) := by
  unfold execFld
  refine runCourse_keeps h (fun _ _ h => ?_)
  extract_lets
  split
  · exact ranError_keeps h
  extract_lets s2
  have h2 : memoryKept s2 := foldl_keeps (fun _ _ h => sendReq_keeps h) (modCourse_keeps h)
  exact ranOk_keeps h2

theorem runPosted_keeps {i f kind body} (h : memoryKept s) : NextKept (runPosted s i f kind body) := by
  unfold runPosted
  refine runCourse_keeps h (fun _ _ h => ?_)
  extract_lets
  split
  · exact ranError_keeps h
  extract_lets
  exact ranOk_keeps (foldl_keeps (fun _ _ h => sendReq_keeps h) h)

theorem execFst_keeps {f} (h : memoryKept s) : NextKept (execFst f s) :=
  runPosted_keeps h

theorem execFatm_keeps {f} (h : memoryKept s) : NextKept (execFatm f s) :=
  runPosted_keeps h

theorem setEntropy_keeps {keep ent mode} (h : memoryKept s) : memoryKept (s.setEntropy keep ent mode) :=
  foldl_keeps (fun _ _ h => setFlow_keeps h) h

theorem execPent_keeps {f} (h : memoryKept s) : NextKept (execPent f s) := by
  unfold execPent
  refine runShared_keeps h (fun _ _ _ h => ?_)
  extract_lets
  split
  · exact error_keeps
  · exact ok_keeps (setEntropy_keeps (modCourse_keeps h))

theorem rotate_keeps {f dev mark} (h : memoryKept s) : memoryKept (s.rotate f dev mark) := by
  unfold State.rotate
  split
  · exact h
  · exact setFlow_keeps h

theorem dropReq_keeps {id r mark} (h : memoryKept s) : memoryKept (s.dropReq id r mark) :=
  rotate_keeps (kept_update h)

theorem forget_keeps {l} (h : memoryKept s) : memoryKept (s.forget l) :=
  h

theorem fldFinish_keeps {sk p k} (h : memoryKept s) : memoryKept (s.fldFinish sk p k) := by
  unfold State.fldFinish
  extract_lets _ _ bad
  split
  · exact h
  split
  · split
    · exact h
    · exact forget_keeps h
  split
  · exact forget_keeps h
  clear_value bad
  split
  · extract_lets
    exact takeTrap_keeps (forget_keeps h)
  extract_lets s2
  have h2 : memoryKept s2 := by
    unfold s2
    split
    · exact forget_keeps h
    · exact faultOver_keeps (forget_keeps h)
  exact setCourse_keeps h2

theorem fldSaved_keeps {sk p k r} (h : memoryKept s) : memoryKept (s.fldSaved sk p k r) := by
  unfold State.fldSaved
  split
  · exact h
  extract_lets _ s1
  have h1 : memoryKept s1 := by
    unfold s1
    split
    · refine foldl_keeps (fun _ _ h => ?_) h
      split
      · exact imgChange_keeps h
      · exact h
    · exact h
  split
  · exact h1
  refine foldl_keeps (fun _ _ h => ?_) (forget_keeps h1)
  refine foldl_keeps (fun _ _ h => ?_) h
  split
  · exact imgChange_keeps h
  · exact h

theorem fldEnded_keeps {id r e mark} (h : memoryKept s) : memoryKept (s.fldEnded id r e mark) := by
  unfold State.fldEnded
  split
  · extract_lets
    split
    · exact fldSaved_keeps (rotate_keeps (kept_update h))
    split
    · exact forget_keeps (rotate_keeps (kept_update h))
    extract_lets
    split
    · split
      · exact forget_keeps (modCourse_keeps (rotate_keeps (kept_update h)))
      · exact fldFinish_keeps (modCourse_keeps (rotate_keeps (kept_update h)))
    · exact modCourse_keeps (rotate_keeps (kept_update h))
  · exact h

theorem execFabricReadResponse_keeps {p} (h : memoryKept s) : NextKept (execFabricReadResponse p s) := by
  unfold execFabricReadResponse
  split
  · exact next_keeps (fldEnded_keeps h)
  · exact next_keeps h

theorem fabricFault_keeps {r type reason} (h : memoryKept s) : memoryKept (s.fabricFault r type reason) :=
  emitErr_keeps h

theorem execFldReplyTimeout_keeps {req} (h : memoryKept s) : NextKept (execFldReplyTimeout req s) := by
  unfold execFldReplyTimeout
  split
  · exact next_keeps h
  split
  · extract_lets
    split
    · exact next_keeps h
    · exact next_keeps (fldEnded_keeps (emit_keeps h))
  · exact next_keeps h

/-! ## Machine/Boot.lean -/

theorem extend_keeps {i hash} (h : memoryKept s) : memoryKept (s.extend i hash) :=
  h

theorem putRecord_keeps {r} (h : memoryKept s) : memoryKept (s.putRecord r) :=
  h

theorem loadFirmware_keeps {m} (h : memoryKept s) : memoryKept (s.loadFirmware m).2 := by
  unfold State.loadFirmware
  extract_lets
  split
  · exact kept_update (extend_keeps (extend_keeps h))
  · exact extend_keeps (extend_keeps h)

theorem portsDown_keeps (h : memoryKept s) : memoryKept s.portsDown :=
  h

theorem trainPorts_keeps {up} (h : memoryKept s) : memoryKept (s.trainPorts up) := by
  unfold State.trainPorts
  split
  · exact h
  extract_lets
  exact reportLinks_keeps (foldl_keeps (fun _ _ h => emit_keeps h) (kept_update h))

theorem bootCopy_keeps (h : memoryKept s) : memoryKept s.bootCopy :=
  foldl_keeps (fun _ _ h => ringSlot_keeps h) (emit_keeps h)

theorem bootComplexes_keeps (h : memoryKept s) : memoryKept s.bootComplexes :=
  kept_update (bootCopy_keeps h)

theorem stepEffect_keeps {b step path} (h : memoryKept s) : memoryKept (s.stepEffect b step path).2 := by
  unfold State.stepEffect
  split
  · exact loadFirmware_keeps h
  · exact kept_update h
  · dsimp only
    split
    · exact h
    · exact kept_update h
  · exact trainPorts_keeps h
  · extract_lets
    split
    · exact bootComplexes_keeps (extend_keeps h)
    · exact extend_keeps h
  · exact h

theorem bootStep_keeps {b step} (h : memoryKept s) : memoryKept (s.bootStep b step).2 := by
  unfold State.bootStep
  split
  · exact kept_update h
  extract_lets
  split
  · exact kept_update (putRecord_keeps h)
  extract_lets
  split
  next e1 =>
  extract_lets s3
  have h3 : memoryKept s3 := by
    unfold s3
    refine putRecord_keeps ?_
    refine snd_kept e1 ?_
    split
    · exact stepEffect_keeps (kept_update (putRecord_keeps h))
    · exact kept_update (putRecord_keeps h)
  split <;> exact kept_update h3

theorem bootSteps_keeps {b l} (h : memoryKept s) : memoryKept (s.bootSteps b l) := by
  induction l generalizing s with
  | nil => exact h
  | cons n t ih =>
    unfold State.bootSteps
    split
    · next e => exact ih (snd_kept e (bootStep_keeps h))
    · next e => exact snd_kept e (bootStep_keeps h)

theorem cold_keeps (h : memoryKept s) : memoryKept s.cold := by
  obtain ⟨_, hlpddr, hhost, _, _⟩ := h
  exact ⟨rfl, hlpddr, hhost, rfl, rfl⟩

theorem start_keeps {b} (h : memoryKept s) : memoryKept (s.start b) :=
  bootSteps_keeps (extend_keeps (portsDown_keeps (kept_update (cold_keeps h))))

theorem execPowerOn_keeps {b} (h : memoryKept s) : NextKept (execPowerOn b s) := by
  unfold execPowerOn
  split
  · exact next_keeps (kept_update h)
  · exact next_keeps (start_keeps (life_keeps h))

theorem execDeviceReset_keeps {b} (h : memoryKept s) : NextKept (execDeviceReset b s) := by
  unfold execDeviceReset
  split
  · exact next_keeps h
  · exact next_keeps (start_keeps (kept_update h))

theorem railsOff_keeps (h : memoryKept s) : memoryKept s.railsOff :=
  kept_update (cold_keeps h)

theorem execPowerLoss_keeps {vaux} (h : memoryKept s) : NextKept (execPowerLoss vaux s) := by
  unfold execPowerLoss
  extract_lets t
  have ht : memoryKept t := railsOff_keeps h
  split
  · exact next_keeps ht
  · obtain ⟨hhbm, _, hhost, hdie, hunit⟩ := ht
    exact next_keeps ⟨hhbm, rfl, hhost, hdie, hunit⟩

theorem senseJunction_keeps {t} (h : memoryKept s) : memoryKept (s.senseJunction t) :=
  h

theorem underCeiling_keeps (h : memoryKept s) : memoryKept s.underCeiling := by
  unfold State.underCeiling
  split
  · exact life_keeps (kept_update h)
  · exact h

theorem execThermalCeilingFall_keeps {t} (h : memoryKept s) : NextKept (execThermalCeilingFall t s) := by
  unfold execThermalCeilingFall
  extract_lets
  split
  · exact next_keeps (senseJunction_keeps h)
  · exact next_keeps (underCeiling_keeps (kept_update (senseJunction_keeps h)))

theorem execThermalCeilingRise_keeps {t} (h : memoryKept s) : NextKept (execThermalCeilingRise t s) := by
  unfold execThermalCeilingRise
  extract_lets
  split
  · exact next_keeps (senseJunction_keeps h)
  split
  · exact next_keeps (senseJunction_keeps h)
  · exact next_keeps (kept_update (senseJunction_keeps h))

theorem execThermalTrip_keeps {t} (h : memoryKept s) : NextKept (execThermalTrip t s) := by
  unfold execThermalTrip
  extract_lets _ _ s3
  have h3 : memoryKept s3 := railsOff_keeps (life_keeps (senseJunction_keeps h))
  split
  · exact next_keeps (senseJunction_keeps h)
  · exact next_keeps (kept_update h3)

theorem execThermalExcursionEnd_keeps {t} (h : memoryKept s) : NextKept (execThermalExcursionEnd t s) := by
  unfold execThermalExcursionEnd
  extract_lets
  split
  · exact next_keeps (senseJunction_keeps h)
  split
  · exact next_keeps (senseJunction_keeps h)
  · exact next_keeps (life_keeps (kept_update (senseJunction_keeps h)))

theorem execPowerUpCommand_keeps {b} (h : memoryKept s) : NextKept (execPowerUpCommand b s) := by
  unfold execPowerUpCommand
  split
  · exact next_keeps h
  split
  · exact next_keeps (start_keeps (life_keeps h))
  · exact next_keeps (kept_update h)

theorem execJunctionBelow80c_keeps {t b} (h : memoryKept s) : NextKept (execJunctionBelow80c t b s) := by
  unfold execJunctionBelow80c
  extract_lets
  split
  · exact next_keeps (start_keeps (life_keeps (senseJunction_keeps h)))
  · exact next_keeps (senseJunction_keeps h)

theorem execVcoreCurrentSample_keeps {amps} (h : memoryKept s) : NextKept (execVcoreCurrentSample amps s) := by
  unfold execVcoreCurrentSample
  extract_lets
  split
  · exact next_keeps h
  · exact next_keeps (kept_update h)

theorem execClockReduction_keeps (h : memoryKept s) : NextKept (execClockReduction s) := by
  unfold execClockReduction
  split
  · exact next_keeps h
  · exact next_keeps (life_keeps (kept_update h))

theorem execClockRaise_keeps (h : memoryKept s) : NextKept (execClockRaise s) := by
  unfold execClockRaise
  split
  · exact next_keeps h
  · exact next_keeps (kept_update h)

theorem execDroopExcursion_keeps {_rail gt} (h : memoryKept s) : NextKept (execDroopExcursion _rail gt s) := by
  unfold execDroopExcursion
  split
  · exact next_keeps h
  · exact next_keeps (life_keeps h)

theorem execHeartbeat_keeps {arrives} (h : memoryKept s) : NextKept (execHeartbeat arrives s) := by
  unfold execHeartbeat
  split
  · exact next_keeps h
  · exact next_keeps (kept_update h)

theorem takeOver_keeps {reason} (h : memoryKept s) : memoryKept (s.takeOver reason) :=
  emit_keeps (life_keeps (kept_update h))

theorem failOver_keeps {ecc} (h : memoryKept s) : memoryKept (s.failOver ecc) := by
  unfold State.failOver
  split
  · exact takeOver_keeps h
  · exact kept_update h
  · exact h

theorem execFailover_keeps {ecc} (h : memoryKept s) : NextKept (execFailover ecc s) :=
  next_keeps (failOver_keeps h)

theorem execLiveUpdate_keeps {img} (h : memoryKept s) : NextKept (execLiveUpdate img s) := by
  unfold execLiveUpdate
  split
  · exact next_keeps h
  extract_lets
  split
  · exact next_keeps (extend_keeps h)
  split
  · exact next_keeps (kept_update (extend_keeps h))
  · exact next_keeps (emit_keeps (extend_keeps h))

theorem execUpdateDone_keeps (h : memoryKept s) : NextKept (execUpdateDone s) := by
  unfold execUpdateDone
  split
  · exact next_keeps h
  split
  · exact next_keeps h
  extract_lets
  exact next_keeps (emit_keeps (kept_update h))

theorem execUpdateAbandoned_keeps (h : memoryKept s) : NextKept (execUpdateAbandoned s) := by
  unfold execUpdateAbandoned
  split
  · extract_lets
    exact next_keeps (takeOver_keeps (emit_keeps (kept_update h)))
  · exact next_keeps h

theorem execAttestationReport_keeps {nonce} (h : memoryKept s) : NextKept (execAttestationReport nonce s) :=
  next_keeps (kept_update h)

theorem execLifeidxSelect_keeps {r idx} (h : memoryKept s) : NextKept (execLifeidxSelect r idx s) := by
  unfold execLifeidxSelect
  split
  · exact next_keeps (kept_update h)
  · exact next_keeps h

theorem execLifeidxClear_keeps {r idx} (h : memoryKept s) : NextKept (execLifeidxClear r idx s) := by
  unfold execLifeidxClear
  split
  · exact next_keeps (kept_update h)
  · exact next_keeps h

theorem execCxlLinkRetrain_keeps (h : memoryKept s) : NextKept (execCxlLinkRetrain s) :=
  next_keeps (life_keeps h)

/-! ## Machine/Checkpoint.lean -/

theorem ckptReply_keeps {status} (h : memoryKept s) : memoryKept (s.ckptReply status) :=
  h

theorem execSeal_keeps {ctx addr} (h : memoryKept s) : NextKept (execSeal ctx addr s) := by
  unfold execSeal
  split
  · exact next_keeps (ckptReply_keeps h)
  split
  · exact next_keeps (laterAt_keeps h)
  split
  · exact next_keeps (ckptReply_keeps h)
  extract_lets
  split
  · exact next_keeps (ckptReply_keeps h)
  · next e1 => exact next_keeps (ckptReply_keeps (emit_keeps (kept_of_ok e1 (writeRange_keeps h))))

theorem execVerify_keeps {ctx shards job result} (h : memoryKept s) : NextKept (execVerify ctx shards job result s) := by
  unfold execVerify
  extract_lets hs
  split
  next e1 =>
  have h1 := fst_kept e1 (by
    split
    · exact h
    · exact freshWord_keeps h)
  extract_lets _ _ _ block
  split
  next e2 =>
  have h2 := fst_kept e2 (by
    split
    · next e =>
      refine kept_of_ok e ?_
      split
      · exact error_keeps
      · exact writeRange_keeps h1
    · exact h1)
  extract_lets s3
  have h3 : memoryKept s3 := by
    unfold s3
    split <;> exact emit_keeps h2
  exact next_keeps (ckptReply_keeps h3)

/-! ## Machine/Entries.lean -/

theorem execQpst_keeps {f} (h : memoryKept s) : NextKept (execQpst f s) := by
  unfold execQpst
  refine runCourse_keeps h (fun _ _ h => ?_)
  split
  · exact ranError_keeps h
  · exact ranOk_keeps (startEntry_keeps h)

theorem execQarm_keeps {f} (h : memoryKept s) : NextKept (execQarm f s) := by
  unfold execQarm
  refine runCourse_keeps h (fun _ _ h => ?_)
  extract_lets
  split
  · exact ranError_keeps h
  split
  · exact ranError_keeps h
  extract_lets
  split
  · exact ranError_keeps h
  · exact ranOk_keeps (fireArmed_keeps (setCounter_keeps h))

theorem entryLocal_keeps {o b a bs} (h : memoryKept s) : OkKept (s.entryLocal o b a bs) := by
  unfold State.entryLocal
  extract_lets
  split
  · exact error_keeps
  split
  · split
    · exact error_keeps
    extract_lets
    split
    · exact error_keeps
    · next e1 => exact ok_keeps (kept_of_ok e1 (imgWrite_keeps h))
  split
  · exact agtReduceAll_keeps h
  · exact agtStore_keeps h

theorem entryEnd_keeps {id o b ok} (h : memoryKept s) : memoryKept (s.entryEnd id o b ok) := by
  unfold State.entryEnd
  extract_lets
  split
  · exact signalWord_keeps (endOp_keeps (opGoesOn_keeps h))
  · exact endOp_keeps (opGoesOn_keeps h)

theorem entryNack_keeps {id o b reason a} (h : memoryKept s) : memoryKept (s.entryNack id o b reason a) :=
  entryEnd_keeps (emitErr_keeps h)

theorem entrySector_keeps {id o b} (h : memoryKept s) : memoryKept (s.entrySector id o b) := by
  unfold State.entrySector
  extract_lets
  split
  · exact entryNack_keeps h
  split
  · exact parkOp_keeps h
  extract_lets _ s2
  have h2 : memoryKept s2 := by
    unfold s2
    split
    · exact setEntropy_keeps (agtHits_keeps h)
    · exact agtHits_keeps h
  split
  · split
    · next e1 => exact opGoesOn_keeps (setOp_keeps (kept_of_ok e1 (entryLocal_keeps (agtHits_keeps h))))
    · exact h
    · exact entryNack_keeps h
    · exact entryNack_keeps h
    · exact entryNack_keeps (memUe_keeps h)
  · exact opGoesOn_keeps (setOp_keeps (sendReq_keeps h2))

theorem entryFinish_keeps {id o b} (h : memoryKept s) : memoryKept (s.entryFinish id o b) := by
  unfold State.entryFinish
  extract_lets _ s1
  have h1 : memoryKept s1 := by
    unfold s1
    split
    · exact setEntropy_keeps h
    · exact h
  split
  · split
    · next e1 =>
      refine entryEnd_keeps ?_
      refine kept_of_ok e1 ?_
      split
      · exact applyRsig_keeps h
      · exact ok_keeps h
    · exact entryNack_keeps h
  split
  · exact entryEnd_keeps h
  · exact sendReq_keeps (setOp_keeps h1)

theorem entryNext_keeps {id o b sent} (h : memoryKept s) : memoryKept (s.entryNext id o b sent) := by
  unfold State.entryNext
  split
  · exact h
  split
  · exact entrySector_keeps h
  split
  · exact entryFinish_keeps h
  · exact h

theorem execFabricAck_keeps {p} (h : memoryKept s) : NextKept (execFabricAck p s) := by
  unfold execFabricAck
  split
  · exact next_keeps h
  split
  · exact next_keeps h
  · extract_lets
    split
    · split
      · exact next_keeps (entryEnd_keeps (dropReq_keeps h))
      · exact next_keeps (dropReq_keeps h)
    · exact next_keeps (dropReq_keeps h)
  · exact next_keeps (dropReq_keeps h)

theorem reqFailed_keeps {id r type reason mark} (h : memoryKept s) : memoryKept (s.reqFailed id r type reason mark) := by
  unfold State.reqFailed
  extract_lets
  split
  · split
    · split
      · exact entryEnd_keeps (fabricFault_keeps (dropReq_keeps h))
      · exact dropReq_keeps h
    · exact dropReq_keeps h
  · exact fabricFault_keeps (dropReq_keeps h)

theorem execFabricNack_keeps {p} (h : memoryKept s) : NextKept (execFabricNack p s) := by
  unfold execFabricNack
  split
  · exact next_keeps h
  extract_lets
  split
  · exact next_keeps (fldEnded_keeps h)
  · refine next_keeps ?_
    split
    · exact kept_update (dropReq_keeps h)
    · exact reqFailed_keeps h
  · refine next_keeps ?_
    split
    · exact kept_update (dropReq_keeps h)
    · exact reqFailed_keeps h
  · exact next_keeps (reqFailed_keeps h)

theorem execFabricTimeout_keeps {req} (h : memoryKept s) : NextKept (execFabricTimeout req s) := by
  unfold execFabricTimeout
  split
  · exact next_keeps h
  split
  · exact next_keeps h
  refine next_keeps ?_
  split
  · exact h
  · exact reqFailed_keeps h

/-! ## Machine/Collective.lean -/

theorem setColl_keeps {c} (h : memoryKept s) : memoryKept (s.setColl c) :=
  h

theorem freeSide_keeps {op dst} (h : memoryKept s) : memoryKept (s.freeSide op dst) :=
  h

theorem collTidy_keeps {c} (h : memoryKept s) : memoryKept (s.collTidy c) := by
  unfold State.collTidy
  split
  · exact h
  split
  · exact endOp_keeps h
  · exact freeSide_keeps h

theorem joinDone_keeps {c} (h : memoryKept s) : memoryKept (s.joinDone c) := by
  unfold State.joinDone
  extract_lets _ _ _ s1
  have h1 : memoryKept s1 := by
    unfold s1
    split
    · extract_lets
      exact setBar_keeps h
    · exact h
  exact evalBar_keeps (emit_keeps (signalWord_keeps h1))

theorem collCheck_keeps {cause} (h : memoryKept s) : memoryKept (s.collCheck cause) := by
  unfold State.collCheck
  split
  · exact h
  split
  · exact collTidy_keeps h
  extract_lets _ _ _ s3 s4
  have h3 : memoryKept s3 := by
    unfold s3
    split
    · exact joinDone_keeps (setColl_keeps h)
    · exact freeSide_keeps (emit_keeps (signalWord_keeps (setColl_keeps h)))
  have h4 : memoryKept s4 := by
    unfold s4
    split
    · exact nodeEnds_keeps h3
    · exact h3
  exact collTidy_keeps h4

theorem collSend_keeps {c kind dev pk laddr body} (h : memoryKept s) : memoryKept (s.collSend c kind dev pk laddr body) :=
  sendReq_keeps h

theorem sendReadies_keeps {c} (h : memoryKept s) : memoryKept (s.sendReadies c) :=
  foldl_keeps (fun _ _ h => collSend_keeps h) h

theorem ownBlock_keeps {c} (h : memoryKept s) : OkKept (s.ownBlock c) := by
  unfold State.ownBlock
  extract_lets
  split
  · exact ok_keeps h
  split
  · exact error_keeps
  · exact agtStore_keeps (agtHits_keeps h)

theorem collStart_keeps {op o d deadline issuer cause parent} (h : memoryKept s) : memoryKept (s.collStart op o d deadline issuer cause parent) := by
  unfold State.collStart
  extract_lets _ _ _ s2
  have h2 : memoryKept s2 := by
    unfold s2
    split
    · split
      · exact modLaunch_keeps (setColl_keeps (setOp_keeps h))
      · exact setColl_keeps (setOp_keeps h)
    · exact setColl_keeps (setOp_keeps h)
  split
  · next e1 => exact collCheck_keeps (sendReadies_keeps (setOp_keeps (kept_of_ok e1 (ownBlock_keeps (emit_keeps h2)))))
  · exact parkOp_keeps (emit_keeps h2)

theorem execColl_keeps {f} (h : memoryKept s) : NextKept (execColl f s) := by
  unfold execColl
  refine runCourse_keeps h (fun _ _ h => ?_)
  extract_lets
  split
  · exact ranError_keeps h
  split
  · exact ranError_keeps h
  extract_lets
  split
  · exact ranError_keeps h
  split
  next e1 =>
  split
  next e2 =>
  split
  · exact ranError_keeps h
  next e3 =>
  extract_lets _ s1
  have h1 : memoryKept s1 := collStart_keeps (kept_of_some e3 (takeLocks_keeps (thd_kept e2 (newOp_keeps (snd_kept e1 (newCause_keeps h))))))
  exact ranOk_keeps (issGive_keeps h1)

theorem execCwdQuery_keeps {f} (h : memoryKept s) : NextKept (execCwdQuery f s) := by
  unfold execCwdQuery
  refine runShared_keeps h (fun _ _ _ h => ?_)
  extract_lets
  split
  · exact error_keeps
  split
  · exact error_keeps
  · exact ok_keeps (issGive_keeps h)

theorem execCwdExtend_keeps {f} (h : memoryKept s) : NextKept (execCwdExtend f s) := by
  unfold execCwdExtend
  refine runShared_keeps h (fun _ _ _ h => ?_)
  split
  · exact error_keeps
  split
  · exact error_keeps
  · exact ok_keeps (setColl_keeps h)

theorem countChunk_keeps {c j result dev} (h : memoryKept s) : memoryKept (s.countChunk c j result dev) := by
  unfold State.countChunk
  extract_lets
  split
  · split
    · exact signal_keeps (setColl_keeps h)
    · exact setColl_keeps h
  · exact setColl_keeps h

theorem execFabricChunk_keeps {p} (h : memoryKept s) : NextKept (execFabricChunk p s) := by
  unfold execFabricChunk
  split
  · refine next_keeps (inFlow_keeps h (fun s h => ?_))
    split
    · exact served_keeps h ackError_keeps
    split
    · exact h
    extract_lets
    split
    · next e =>
      have h1 := kept_of_ok e (agtStore_keeps h)
      extract_lets _ s2
      have h2 : memoryKept s2 := opGoesOn_keeps h1
      split
      extract_lets s3
      have h3 : memoryKept s3 := by
        unfold s3
        split
        · exact countChunk_keeps h2
        · exact setColl_keeps h2
      exact served_keeps h3 (ackOk_keeps (collCheck_keeps h3))
    split
    · exact parkOp_keeps h
    · exact h
  · exact next_keeps h

theorem execFabricReady_keeps {p} (h : memoryKept s) : NextKept (execFabricReady p s) := by
  unfold execFabricReady
  split
  · refine next_keeps ?_
    refine inFlow_keeps h (fun _ h => ?_)
    refine served_keeps h ?_
    split
    · exact ackError_keeps
    extract_lets
    exact ackOk_keeps (collCheck_keeps (setColl_keeps h))
  · exact next_keeps h

theorem peerArrives_keeps {p c departs} (h : memoryKept s) : memoryKept (s.peerArrives p c departs) := by
  unfold State.peerArrives
  extract_lets
  split
  · exact h
  extract_lets
  exact evalBar_keeps (setBar_keeps h)

theorem barrierPacket_keeps {p tag departs} (h : memoryKept s) : memoryKept (s.barrierPacket p tag departs) := by
  unfold State.barrierPacket
  refine inFlow_keeps h (fun _ h => ?_)
  refine served_keeps h ?_
  split
  · exact ackError_keeps
  · exact ackOk_keeps (peerArrives_keeps h)

theorem execFabricBarrierArrival_keeps {p} (h : memoryKept s) : NextKept (execFabricBarrierArrival p s) := by
  unfold execFabricBarrierArrival
  split
  · exact next_keeps (barrierPacket_keeps h)
  · exact next_keeps (barrierPacket_keeps h)
  · exact next_keeps h

theorem execDepartureReport_keeps {p} (h : memoryKept s) : NextKept (execDepartureReport p s) := by
  unfold execDepartureReport
  split
  · exact next_keeps (barrierPacket_keeps h)
  · exact next_keeps h

theorem execReadyResend_keeps {coll} (h : memoryKept s) : NextKept (execReadyResend coll s) := by
  unfold execReadyResend
  split
  · exact next_keeps h
  refine next_keeps ?_
  refine foldl_keeps (fun _ _ h => ?_) (setColl_keeps h)
  split
  · split <;> exact collSend_keeps h

theorem execReducePanel_keeps {coll} (h : memoryKept s) : NextKept (execReducePanel coll s) := by
  unfold execReducePanel
  split
  · exact next_keeps h
  extract_lets
  split
  · exact next_keeps h
  split
  · exact next_keeps h
  split
  · exact next_keeps h
  split
  · exact next_keeps (parkOp_keeps h)
  split
  · exact next_keeps (parkOp_keeps h)
  next e1 =>
  extract_lets s1
  have h1 : memoryKept s1 := emit_keeps (opGoesOn_keeps (kept_of_ok e1 (agtStore_keeps h)))
  exact next_keeps (collCheck_keeps (setColl_keeps h1))

theorem execCollLate_keeps {coll} (h : memoryKept s) : NextKept (execCollLate coll s) := by
  unfold execCollLate
  split
  · exact next_keeps h
  split
  · exact next_keeps h
  · exact next_keeps (foldl_keeps (fun _ _ h => sendControl_keeps h) (emitErr_keeps (setColl_keeps h)))

theorem lateArrives_keeps {p r} (h : memoryKept s) : memoryKept (s.lateArrives p r) := by
  unfold State.lateArrives
  split
  · exact errEntry_keeps h
  · exact h

theorem collNext_keeps {id o cause} (h : memoryKept s) : memoryKept (s.collNext id o cause) := by
  unfold State.collNext
  split
  · exact endOp_keeps h
  split
  · exact h
  split
  · split
    · next e1 => exact collCheck_keeps (sendReadies_keeps (opGoesOn_keeps (setOp_keeps (kept_of_ok e1 (ownBlock_keeps h)))))
    · exact parkOp_keeps h
  split
  · exact collTidy_keeps h
  extract_lets
  split
  extract_lets
  split
  · exact parkOp_keeps h
  extract_lets
  exact collTidy_keeps (collSend_keeps (setColl_keeps (opGoesOn_keeps (agtHits_keeps h))))

theorem execSectorComplete_keeps {id} (h : memoryKept s) : NextKept (execSectorComplete id s) := by
  unfold execSectorComplete
  split
  · exact next_keeps h
  split
  · exact next_keeps (extractNext_keeps h)
  · exact next_keeps (entryNext_keeps h)
  · exact next_keeps (collNext_keeps h)
  · exact next_keeps (fillLine_keeps h)
  extract_lets
  split
  · exact next_keeps h
  split
  · exact next_keeps h
  · extract_lets s1
    have h1 : memoryKept s1 := by
      unfold s1
      split
      · split
        · exact h
        · exact logFault_keeps h
      · exact h
    exact next_keeps (parkOp_keeps h1)
  next e1 =>
  extract_lets _ _ s1
  have h1 : memoryKept s1 := opGoesOn_keeps (setOp_keeps (kept_of_ok e1 (nextSector_keeps h)))
  refine next_keeps ?_
  split
  · exact freeLocks_keeps h1
  · exact h1

/-! ## Machine/Control.lean -/

theorem execNop_keeps {f} (h : memoryKept s) : NextKept (execNop f s) := by
  unfold execNop
  split
  · exact runStream_keeps h (fun _ _ _ _ h => done_keeps h)
  · exact runCourse_keeps h (fun _ _ h => ranOk_keeps h)

theorem execLpad_keeps {f} (h : memoryKept s) : NextKept (execLpad f s) :=
  runCourse_keeps h (fun _ _ h => ranOk_keeps h)

theorem issJumpTo_keeps {I lanes pc prio folds branch} (h : memoryKept s) : RanKept (Iss.jumpTo I s lanes pc prio folds branch) := by
  unfold Iss.jumpTo
  split
  · exact ranOk_keeps h
  split
  · next e1 => exact ranError_keeps (fst_kept e1 (checkTarget_keeps h))
  · next e1 => exact ranOk_keeps (fst_kept e1 (checkTarget_keeps h))

theorem streamJump_keeps {core p pc} (h : memoryKept s) : SRanKept (streamJump s core p pc) := by
  unfold streamJump
  split
  · next e1 => exact trap_keeps (fst_kept e1 (checkTarget_keeps h))
  · next e1 => exact wait_keeps (fst_kept e1 (checkTarget_keeps h))
  · next e1 => exact goto_keeps (fst_kept e1 (checkTarget_keeps h))

theorem execBra_keeps {f} (h : memoryKept s) : NextKept (execBra f s) := by
  unfold execBra
  split
  · exact runStream_keeps h (fun _ _ _ _ h => streamJump_keeps h)
  · exact runCourse_keeps h (fun _ _ h => issJumpTo_keeps h)

theorem execBrp_keeps {f} (h : memoryKept s) : NextKept (execBrp f s) := by
  unfold execBrp
  split
  · refine runStream_keeps h (fun _ _ _ _ h => ?_)
    split
    · exact streamJump_keeps h
    · exact done_keeps h
  refine runCourse_keeps h (fun _ _ h => ?_)
  extract_lets
  exact issJumpTo_keeps h

theorem jumpTable_keeps {I f lane} (h : memoryKept s) : memoryKept (s.jumpTable I f lane).1 := by
  unfold State.jumpTable
  extract_lets
  split
  · exact h
  split
  · exact h
  split
  · exact h
  extract_lets
  split
  · next e1 => exact fst_kept e1 (checkLanding_keeps h)
  · next e1 => exact fst_kept e1 (checkLanding_keeps h)

theorem issEachState_keeps {α : Type} {lanes} {f : State → Nat → State × Except Stop α} (h : memoryKept s)
    (hf : ∀ t i, memoryKept t → memoryKept (f t i).1) : memoryKept (Iss.eachState lanes s f).1 := by
  have hl : memoryKept (lanes.foldl (fun (acc : State × List (Nat × Except Stop α)) i => ((f acc.1 i).1, acc.2 ++ [(i, (f acc.1 i).2)]))
      (s, [])).1 := foldl_fst_keeps (fun a i h => hf a.1 i h) h
  unfold Iss.eachState
  split
  next e =>
  split
  · exact fst_kept e hl
  · exact fst_kept e hl

theorem execJtb_keeps {f} (h : memoryKept s) : NextKept (execJtb f s) := by
  unfold execJtb
  refine runCourse_keeps h (fun _ _ h => ?_)
  split
  · next e1 => exact ranError_keeps (fst_kept e1 (issEachState_keeps h (fun _ _ h => jumpTable_keeps h)))
  next e1 =>
  extract_lets
  exact ranOk_keeps (fst_kept e1 (issEachState_keeps h (fun _ _ h => jumpTable_keeps h)))

theorem spill_keeps {I lane off v} (h : memoryKept s) : OkKept (s.spill I lane off v) := by
  unfold State.spill
  split
  · exact error_keeps
  split
  · exact error_keeps
  · next e1 => exact ok_keeps (kept_of_ok e1 (routeWrite_keeps h))

theorem spillAll_keeps {I lane l} (h : memoryKept s) : memoryKept (s.spillAll I lane l).1 := by
  induction l generalizing s with
  | nil => exact h
  | cons p l ih =>
    unfold State.spillAll
    split
    · exact h
    · next e => exact ih (kept_of_ok e (spill_keeps h))

theorem windowEv_keeps {I lane type payload} (h : memoryKept s) : memoryKept (s.windowEv I lane type payload) :=
  emit_keeps h

theorem spillSeq_keeps {I lane type payload l} (h : memoryKept s) : memoryKept (s.spillSeq I lane type payload l).1 := by
  unfold State.spillSeq
  split
  · next e1 => exact fst_kept e1 (spillAll_keeps h)
  next e1 =>
  dsimp only
  split
  · exact fst_kept e1 (spillAll_keeps h)
  · exact windowEv_keeps (fst_kept e1 (spillAll_keeps h))

theorem callStrand_keeps {I f depthMax lane} (h : memoryKept s) : memoryKept (s.callStrand I f depthMax lane).1 := by
  unfold State.callStrand
  extract_lets
  split
  split
  · next e1 => exact fst_kept e1 (spillSeq_keeps h)
  next e1 =>
  split
  · next e2 => exact fst_kept e2 (spillSeq_keeps (fst_kept e1 (spillSeq_keeps h)))
  next e2 =>
  extract_lets
  exact fst_kept e2 (spillSeq_keeps (fst_kept e1 (spillSeq_keeps h)))

theorem heldOr_keeps {s1 e} (h : memoryKept s) (h1 : memoryKept s1) : RanKept (heldOr s s1 e) := by
  unfold heldOr
  split
  · exact ranError_keeps h
  · exact ranError_keeps h1

theorem putStrands_keeps {I l} (h : memoryKept s) : memoryKept (s.putStrands I l) :=
  modCourse_keeps h

theorem execCall_keeps {f} (h : memoryKept s) : NextKept (execCall f s) := by
  unfold execCall
  refine runCourse_keeps h (fun _ _ h => ?_)
  extract_lets
  split
  · next e => exact ranError_keeps (fst_kept e (checkTarget_keeps h))
  next e =>
  have h1 := fst_kept e (checkTarget_keeps h)
  extract_lets
  split
  · next e => exact heldOr_keeps h1 (fst_kept e (issEachState_keeps h1 (fun _ _ h => callStrand_keeps h)))
  · next e => exact ranOk_keeps (putStrands_keeps (fst_kept e (issEachState_keeps h1 (fun _ _ h => callStrand_keeps h))))

theorem retStrand_keeps {I lane} (h : memoryKept s) : memoryKept (s.retStrand I lane).1 := by
  unfold State.retStrand
  extract_lets
  split
  · exact h
  split
  · exact h
  extract_lets s1
  have h1 : memoryKept s1 := by
    unfold s1
    split
    · exact windowEv_keeps h
    · exact h
  split
  · exact h1
  split
  · next e1 => exact fst_kept e1 (checkTarget_keeps h1)
  next e1 =>
  split
  · exact fst_kept e1 (checkTarget_keeps h1)
  extract_lets s2
  have h2 : memoryKept s2 := by
    unfold s2
    split
    · exact windowEv_keeps (fst_kept e1 (checkTarget_keeps h1))
    · exact fst_kept e1 (checkTarget_keeps h1)
  exact h2

theorem execRet_keeps {f} (h : memoryKept s) : NextKept (execRet f s) := by
  unfold execRet
  refine runCourse_keeps h (fun _ _ h => ?_)
  split
  · next e1 => exact heldOr_keeps h (fst_kept e1 (issEachState_keeps h (fun _ _ h => retStrand_keeps h)))
  next e1 =>
  extract_lets _ _ s1
  have h1 : memoryKept s1 := putStrands_keeps (fst_kept e1 (issEachState_keeps h (fun _ _ h => retStrand_keeps h)))
  exact ranOk_keeps h1

theorem execExit_keeps {f} (h : memoryKept s) : NextKept (execExit f s) :=
  runCourse_keeps h (fun _ _ h => ranOk_keeps h)

theorem execYield_keeps {f} (h : memoryKept s) : NextKept (execYield f s) := by
  unfold execYield
  refine runCourse_keeps h (fun _ _ h => ?_)
  extract_lets _ s1
  have h1 : memoryKept s1 := by
    unfold s1
    split
    · exact h
    · exact laterAt_keeps (modCourse_keeps h)
  exact ranOk_keeps h1

theorem execYieldExpiry_keeps {core slot} (h : memoryKept s) : NextKept (execYieldExpiry core slot s) :=
  next_keeps (modCourse_keeps h)

theorem execRgn_keeps {f} (h : memoryKept s) : NextKept (execRgn f s) := by
  unfold execRgn
  refine runCourse_keeps h (fun _ _ h => ?_)
  extract_lets
  exact ranOk_keeps (modCourse_keeps h)

/-! ## Machine/Cross.lean -/

theorem runCross_keeps {i req folds f} (h : memoryKept s) : NextKept (runCross s i req folds f) := by
  unfold runCross
  refine runCourse_keeps h (fun _ _ h => ?_)
  extract_lets
  split
  · exact ranError_keeps h
  split
  · exact ranError_keeps h
  · next e1 => exact ranOk_keeps (kept_of_ok e1 (issStore_keeps h))

theorem execXshf_keeps {f} (h : memoryKept s) : NextKept (execXshf f s) :=
  runCross_keeps h

theorem execXbrd_keeps {f} (h : memoryKept s) : NextKept (execXbrd f s) :=
  runCross_keeps h

theorem execXred_keeps {f} (h : memoryKept s) : NextKept (execXred f s) :=
  runCross_keeps h

theorem execXscn_keeps {f} (h : memoryKept s) : NextKept (execXscn f s) :=
  runCross_keeps h

theorem execXvot_keeps {f} (h : memoryKept s) : NextKept (execXvot f s) :=
  runCross_keeps h

theorem execXuni_keeps {f} (h : memoryKept s) : NextKept (execXuni f s) :=
  runCross_keeps h

/-! ## Machine/Manage.lean -/

theorem operate_keeps {r f} (h : memoryKept s) (hf : ∀ t, memoryKept t → memoryKept (f t)) : memoryKept (s.operate r f) := by
  unfold State.operate
  split
  · split
    · exact hf _ h
    · exact h
  · exact h

theorem execDomainWrite_keeps {r v} (h : memoryKept s) : NextKept (execDomainWrite r v s) := by
  unfold execDomainWrite
  refine next_keeps ?_
  refine operate_keeps h (fun _ h => ?_)
  split
  · exact h
  · split <;> exact kept_update h

theorem writeTctl_keeps {v} (h : memoryKept s) : memoryKept (s.writeTctl v) := by
  unfold State.writeTctl
  extract_lets
  split
  · exact kept_update h
  · exact h

theorem setQueue_keeps {q v} (h : memoryKept s) : memoryKept (s.setQueue q v) :=
  h

theorem writeQueueField_keeps {q off n v} (h : memoryKept s) : memoryKept (s.writeQueueField q off n v) := by
  unfold State.writeQueueField
  extract_lets
  split
  · exact h
  · exact setQueue_keeps h

theorem loadPacket_keeps {q} (h : memoryKept s) : memoryKept (s.loadPacket q) := by
  unfold State.loadPacket
  extract_lets
  split
  · exact setQueue_keeps h
  · exact h

theorem readTail_keeps {q} (h : memoryKept s) : memoryKept (s.readTail q) := by
  unfold State.readTail
  extract_lets
  split
  · exact h
  split
  · exact h
  extract_lets
  split
  · exact emitErr_keeps (setQueue_keeps h)
  · exact loadPacket_keeps (setQueue_keeps h)

theorem execQueueStateOff_keeps {r q} (h : memoryKept s) : NextKept (execQueueStateOff r q s) := by
  unfold execQueueStateOff
  refine next_keeps ?_
  refine operate_keeps h (fun _ h => ?_)
  split
  · exact h
  · exact setQueue_keeps h

theorem execQueueStateRun_keeps {r q} (h : memoryKept s) : NextKept (execQueueStateRun r q s) := by
  unfold execQueueStateRun
  refine next_keeps ?_
  refine operate_keeps h (fun _ h => ?_)
  extract_lets
  split
  · exact h
  split
  · exact h
  extract_lets
  exact readTail_keeps (setQueue_keeps h)

theorem queueLost_keeps {q} (h : memoryKept s) : memoryKept (s.queueLost q) :=
  emitErr_keeps (setQueue_keeps h)

theorem execQueueLost_keeps {q} (h : memoryKept s) : NextKept (execQueueLost q s) := by
  unfold execQueueLost
  refine next_keeps ?_
  split
  · exact h
  · exact queueLost_keeps h

theorem execManagementRegisterWrite_keeps {r off size v} (h : memoryKept s) : NextKept (execManagementRegisterWrite r off size v s) := by
  unfold execManagementRegisterWrite
  refine next_keeps ?_
  refine operate_keeps h (fun _ h => ?_)
  split
  · exact writeTctl_keeps h
  split
  · extract_lets
    split
    · exact writeQueueField_keeps h
    · exact h
  · exact h

theorem firnHeader_keeps (h : memoryKept s) : memoryKept s.firnHeader := by
  unfold State.firnHeader
  split
  · exact h
  extract_lets
  exact pokeNat_keeps (pokeNat_keeps (pokeNat_keeps h))

theorem clearPoison_keeps {e} (h : memoryKept s) : memoryKept (s.clearPoison e) :=
  h

theorem execContextEntryWrite_keeps {r id e} (h : memoryKept s) : NextKept (execContextEntryWrite r id e s) := by
  unfold execContextEntryWrite
  refine next_keeps ?_
  refine operate_keeps h (fun _ h => ?_)
  split
  · exact h
  extract_lets
  split
  · exact firnHeader_keeps (kept_update h)
  · exact clearPoison_keeps (icDropAll_keeps (firnHeader_keeps (kept_update h)))

theorem execRegionFenceWrite_keeps {r region v} (h : memoryKept s) : NextKept (execRegionFenceWrite r region v s) := by
  unfold execRegionFenceWrite
  refine next_keeps ?_
  refine operate_keeps h (fun _ h => ?_)
  split
  · exact h
  extract_lets
  exact kept_update h

theorem execFabricAccessTableWrite_keeps {idx e} (h : memoryKept s) : NextKept (execFabricAccessTableWrite idx e s) := by
  unfold execFabricAccessTableWrite
  split
  · exact next_keeps h
  · exact next_keeps (kept_update h)

theorem execFirnGeometryWrite_keeps {r reg v} (h : memoryKept s) : NextKept (execFirnGeometryWrite r reg v s) := by
  unfold execFirnGeometryWrite
  refine next_keeps ?_
  refine operate_keeps h (fun _ h => ?_)
  split
  · exact h
  extract_lets
  exact kept_update h

theorem execFirnEnable_keeps {r} (h : memoryKept s) : NextKept (execFirnEnable r s) := by
  unfold execFirnEnable
  refine next_keeps ?_
  refine operate_keeps h (fun _ h => ?_)
  split
  · exact firnHeader_keeps (kept_update h)
  · exact h

theorem execFirnDisable_keeps {r} (h : memoryKept s) : NextKept (execFirnDisable r s) :=
  next_keeps (operate_keeps h (fun _ h => kept_update h))

/-! ## Machine/Queue.lean -/

theorem execTailWrite_keeps {q v} (h : memoryKept s) : NextKept (execTailWrite q v s) := by
  unfold execTailWrite
  extract_lets _ s1
  have h1 : memoryKept s1 := by
    unfold s1
    split
    · exact h
    split
    · next e1 => exact kept_of_ok e1 (writeRange_keeps h)
    · exact h
  exact next_keeps (readTail_keeps h1)

theorem passHead_keeps {q x} (h : memoryKept s) : memoryKept (s.passHead q x) := by
  unfold State.passHead
  extract_lets
  split
  · next e1 => exact kept_of_ok e1 (writeRange_keeps (kept_update (setQueue_keeps h)))
  · exact kept_update (setQueue_keeps h)

theorem packetBad_keeps {q x} (h : memoryKept s) : memoryKept (s.packetBad q x) :=
  emitErr_keeps (passHead_keeps h)

theorem packetTaken_keeps {q x} (h : memoryKept s) : memoryKept (s.packetTaken q x) :=
  emit_keeps (kept_update (passHead_keeps h))

theorem takePacket_keeps {q type eff} (h : memoryKept s) (hf : ∀ x p t, memoryKept t → memoryKept (eff x p t)) :
    memoryKept (s.takePacket q type eff) := by
  unfold State.takePacket
  split
  · exact h
  extract_lets
  split
  · exact h
  split
  · split
    · exact packetBad_keeps h
    · exact h
  split
  · split
    · exact h
    split
    · exact hf _ _ _ h
    · exact packetBad_keeps h
  split
  · exact h
  split
  · exact hf _ _ _ h
  · exact packetBad_keeps h

theorem execPacketNop_keeps {q} (h : memoryKept s) : NextKept (execPacketNop q s) :=
  next_keeps (takePacket_keeps h (fun _ _ _ h => packetTaken_keeps h))

theorem execPacketSignal_keeps {q} (h : memoryKept s) : NextKept (execPacketSignal q s) := by
  unfold execPacketSignal
  refine next_keeps ?_
  refine takePacket_keeps h (fun _ _ _ h => ?_)
  extract_lets
  exact signalWord_keeps (packetTaken_keeps h)

theorem execPacketWait_keeps {q} (h : memoryKept s) : NextKept (execPacketWait q s) := by
  unfold execPacketWait
  refine next_keeps ?_
  refine takePacket_keeps h (fun _ _ _ h => ?_)
  split
  · exact packetBad_keeps h
  extract_lets
  split
  · exact packetTaken_keeps h
  · exact setQueue_keeps h

theorem execWaitPacketRelease_keeps {q} (h : memoryKept s) : NextKept (execWaitPacketRelease q s) := by
  unfold execWaitPacketRelease
  split
  · exact next_keeps h
  extract_lets
  refine next_keeps ?_
  split
  · exact packetTaken_keeps h
  · exact h

theorem execPacketMarker_keeps {q} (h : memoryKept s) : NextKept (execPacketMarker q s) :=
  next_keeps (takePacket_keeps h (fun _ _ _ h => emit_keeps (packetTaken_keeps h)))

theorem startInstance_keeps {q x p areaAt} (h : memoryKept s) : memoryKept (s.startInstance q x p areaAt) :=
  emit_keeps (kept_update (kept_update (kept_update h)))

theorem execPacketGraph_keeps {q} (h : memoryKept s) : NextKept (execPacketGraph q s) := by
  unfold execPacketGraph
  refine next_keeps ?_
  refine takePacket_keeps h (fun _ _ _ h => ?_)
  extract_lets
  split
  · next e1 _ => exact startInstance_keeps (packetTaken_keeps (kept_of_ok e1 (writeRange_keeps h)))
  · exact packetBad_keeps h

/-! ## Machine/Graph.lean -/

theorem setRun_keeps {gi g} (h : memoryKept s) : memoryKept (s.setRun gi g) :=
  h

theorem modRunning_keeps {gi f} (h : memoryKept s) : memoryKept (s.modRunning gi f) :=
  h

theorem nodeFinished_keeps {gi n status} (h : memoryKept s) : memoryKept (s.nodeFinished gi n status) :=
  later_keeps (modRunning_keeps h)

theorem loopEnds_keeps {gi i x status} (h : memoryKept s) : memoryKept (s.loopEnds gi i x status) :=
  nodeFinished_keeps (modRunning_keeps h)

theorem putCount_keeps {gi i n} (h : memoryKept s) : memoryKept (s.putCount gi i n) := by
  unfold State.putCount
  split
  · exact h
  extract_lets
  split
  · next e1 => exact kept_of_ok e1 (writeRange_keeps (setRun_keeps h))
  · exact setRun_keeps h

theorem arrivalCount_keeps {gi t ordinary g} (h : memoryKept s) : memoryKept (State.arrival.count gi t ordinary s g).1 := by
  unfold State.arrival.count
  extract_lets _ _ s2
  have h2 : memoryKept s2 := by
    unfold s2
    split
    · exact modRunning_keeps (putCount_keeps h)
    · exact putCount_keeps h
  exact h2

theorem arrival_keeps {gi loops src t ordinary} (h : memoryKept s) : memoryKept (s.arrival gi loops src t ordinary).1 := by
  unfold State.arrival
  split
  · exact h
  split
  · exact h
  extract_lets
  split
  · refine foldl_keeps (fun _ _ h => ?_) h
    split
    split
    · exact loopEnds_keeps h
    · exact h
  split
  · extract_lets
    exact setRun_keeps h
  · exact arrivalCount_keeps h

theorem arrivals_keeps {gi src l} (h : memoryKept s) : memoryKept (s.arrivals gi src l) := by
  unfold State.arrivals
  dsimp only
  exact modRunning_keeps (foldl_fst_keeps (fun _ _ h => arrival_keeps h) h)

theorem abandon_keeps {g i} (h : memoryKept s) : memoryKept (s.abandon g i) :=
  emit_keeps (kept_update h)

theorem endCheck_keeps {gi} (h : memoryKept s) : memoryKept (s.endCheck gi) := by
  unfold State.endCheck
  split
  · exact h
  split
  · exact h
  · exact checkInstance_keeps (foldl_keeps (fun _ _ h => abandon_keeps h) h)

theorem execNodeDone_keeps {gi node} (h : memoryKept s) : NextKept (execNodeDone gi node s) := by
  unfold execNodeDone
  split
  · exact next_keeps h
  split
  · exact next_keeps h
  extract_lets
  exact next_keeps (endCheck_keeps (arrivals_keeps (emit_keeps (setRun_keeps h))))

theorem takeNode_keeps {gi row again act} (h : memoryKept s) (hagain : ∀ g i x t, memoryKept t → memoryKept (again g i x t))
    (hact : ∀ g n t, memoryKept t → memoryKept (act g n t)) : memoryKept (s.takeNode gi row again act) := by
  unfold State.takeNode
  split
  · exact h
  split
  · exact h
  extract_lets b loop
  generalize (if loop.isSome = true then 6 else nodeRow b) = r
  split
  · exact h
  clear_value loop
  split
  · exact hagain _ _ _ _ (setRun_keeps h)
  · exact endCheck_keeps (abandon_keeps (setRun_keeps h))
  split
  next e =>
  have h2 := snd_kept e (newCause_keeps (setRun_keeps h))
  extract_lets _ s3
  have h3 : memoryKept s3 := emit_keeps h2
  split
  · exact nodeFinished_keeps h2
  split
  · exact nodeFinished_keeps h3
  · exact hact _ _ _ h3

theorem noLoop_keeps {g x y} (h : memoryKept s) : memoryKept (noLoop g x y s) :=
  h

theorem nodeRuns_keeps {gi n} (h : memoryKept s) : memoryKept (s.nodeRuns gi n) :=
  modRunning_keeps h

theorem execNodeJoin_keeps {gi} (h : memoryKept s) : NextKept (execNodeJoin gi s) :=
  next_keeps (takeNode_keeps h (fun _ _ _ _ h => noLoop_keeps h) (fun _ _ _ h => nodeFinished_keeps h))

theorem execNodeEnd_keeps {gi} (h : memoryKept s) : NextKept (execNodeEnd gi s) :=
  next_keeps (takeNode_keeps h (fun _ _ _ _ h => noLoop_keeps h) (fun _ _ _ h => nodeFinished_keeps (modRunning_keeps h)))

theorem execNodeEvent_keeps {gi} (h : memoryKept s) : NextKept (execNodeEvent gi s) := by
  unfold execNodeEvent
  refine next_keeps ?_
  refine takeNode_keeps h (fun _ _ _ _ h => noLoop_keeps h) (fun _ _ _ h => ?_)
  extract_lets _ wrote
  have hwrote : SomeKept wrote := by
    unfold wrote
    split
    · exact some_keeps h
    split
    · exact none_keeps
    split
    · next e1 => exact some_keeps (kept_of_ok e1 (writeRange_keeps h))
    · exact none_keeps
  clear_value wrote
  split
  · exact nodeFinished_keeps h
  extract_lets
  exact nodeFinished_keeps (emit_keeps (signalWord_keeps (hwrote _ rfl)))

theorem evalRecord_keeps {g i b cause held trips} (h : memoryKept s) : memoryKept (s.evalRecord g i b cause held trips) :=
  emit_keeps h

theorem execNodeConditional_keeps {gi} (h : memoryKept s) : NextKept (execNodeConditional gi s) := by
  unfold execNodeConditional
  refine next_keeps ?_
  refine takeNode_keeps h (fun _ _ _ _ h => noLoop_keeps h) (fun _ _ _ h => ?_)
  split
  · exact nodeFinished_keeps h
  · exact nodeFinished_keeps (evalRecord_keeps h)

theorem loopEval_keeps {gi g i x} (h : memoryKept s) : memoryKept (s.loopEval gi g i x) := by
  unfold State.loopEval
  split
  · exact loopEnds_keeps h
  extract_lets _ _ _ _ _ _ s3
  have h3 : memoryKept s3 := foldl_keeps (fun _ _ h => putCount_keeps h) (modRunning_keeps (evalRecord_keeps h))
  split
  · exact loopEnds_keeps (evalRecord_keeps h)
  · exact arrivals_keeps h3

theorem execNodeLoop_keeps {gi} (h : memoryKept s) : NextKept (execNodeLoop gi s) :=
  next_keeps (endCheck_keeps (takeNode_keeps h (fun _ _ _ _ h => loopEval_keeps h) (fun _ _ _ h => loopEval_keeps h)))

theorem execNodeCopy_keeps {gi} (h : memoryKept s) : NextKept (execNodeCopy gi s) := by
  unfold execNodeCopy
  refine next_keeps ?_
  refine takeNode_keeps h (fun _ _ _ _ h => noLoop_keeps h) (fun _ _ _ h => ?_)
  extract_lets
  exact nodeRuns_keeps (markIncoming_keeps (setOp_keeps (kept_update h)))

theorem execNodeCollective_keeps {gi} (h : memoryKept s) : NextKept (execNodeCollective gi s) := by
  unfold execNodeCollective
  refine next_keeps ?_
  refine takeNode_keeps h (fun _ _ _ _ h => noLoop_keeps h) (fun _ _ _ h => ?_)
  extract_lets _ read
  clear_value read
  split
  · exact nodeFinished_keeps h
  split
  · exact nodeFinished_keeps h
  · exact collStart_keeps (nodeRuns_keeps (kept_update h))

theorem queueSkein_keeps {l v stamp index} (h : memoryKept s) : memoryKept (s.queueSkein l v stamp index) :=
  emit_keeps (setSkein_keeps (kept_update (kept_update h)))

theorem execNodeKernel_keeps {gi} (h : memoryKept s) : NextKept (execNodeKernel gi s) := by
  unfold execNodeKernel
  refine next_keeps ?_
  refine takeNode_keeps h (fun _ _ _ _ h => noLoop_keeps h) (fun _ _ _ h => ?_)
  split
  · exact nodeFinished_keeps h
  split
  · exact nodeFinished_keeps h
  extract_lets
  refine newHead_keeps ?_
  refine foldl_keeps (fun _ _ h => queueSkein_keeps h) ?_
  refine kept_update ?_
  split
  · split
    · exact traceEv_keeps (nodeRuns_keeps (setLaunch_keeps (kept_update h)))
    · exact nodeRuns_keeps (setLaunch_keeps (kept_update h))
  refine laterAt_keeps ?_
  split
  · exact traceEv_keeps (nodeRuns_keeps (setLaunch_keeps (kept_update h)))
  · exact nodeRuns_keeps (setLaunch_keeps (kept_update h))

theorem execDeadline_keeps {launch} (h : memoryKept s) : NextKept (execDeadline launch s) := by
  unfold execDeadline
  split
  · exact next_keeps h
  split
  · exact next_keeps h
  split
  · exact next_keeps h
  extract_lets
  exact next_keeps (emit_keeps (setLaunch_keeps h))

/-! ## Machine/Image.lean -/

theorem headerLoad_keeps {sk b} (h : memoryKept s) : memoryKept (s.headerLoad sk b) := by
  unfold State.headerLoad
  split
  · exact h
  extract_lets
  exact setSkein_keeps (modLaunch_keeps h)

theorem loadOwn_keeps {core i own} (h : memoryKept s) : memoryKept (s.loadOwn core i own) := by
  unfold State.loadOwn
  split
  · exact h
  split
  · exact acquireEngine_keeps (setPanel_keeps h)
  split
  · exact releaseEngine_keeps h
  · exact h

theorem partLoad_keeps {sk x b} (h : memoryKept s) : memoryKept (s.partLoad sk x b) := by
  unfold State.partLoad
  split
  · exact headerLoad_keeps h
  · extract_lets
    exact modSkein_keeps h
  · split
    · exact setPanel_keeps h
    · exact h
  · split
    · exact setCourse_keeps h
    · exact h
  · split
    · exact setCourse_keeps h
    · exact h
  · split
    · exact h
    split
    · exact h
    split
    · exact setPanel_keeps h
    · exact modEngine_keeps h
  split
  · exact h
  split
  · exact poke_keeps h
  · exact h

theorem settleSkein_keeps {sk} (h : memoryKept s) : memoryKept (s.settleSkein sk) := by
  unfold State.settleSkein
  extract_lets _ _ _ s2
  have h2 : memoryKept s2 := by
    refine foldl_keeps (fun _ _ h => ?_) (foldl_keeps (fun _ _ h => landDatum_keeps h) h)
    exact setPanel_keeps (elim_keeps (fun _ => endOp_keeps h) h)
  exact foldl_keeps (fun _ _ h => setCourse_keeps h) (kept_update h2)

theorem writeParts_keeps {sk hdr l} (h : memoryKept s) : OkKept (s.writeParts sk hdr l) := by
  induction l generalizing s with
  | nil => exact ok_keeps h
  | cons x l ih =>
    unfold State.writeParts
    split
    · exact error_keeps
    · next e => exact ih (kept_of_ok e (imgWrite_keeps h))

theorem leaveCores_keeps {sk k} (h : memoryKept s) : memoryKept (s.leaveCores sk k) := by
  unfold State.leaveCores
  extract_lets _ _ _ s2
  have h2 : memoryKept s2 := by
    unfold s2
    refine foldl_keeps (fun _ _ h => ?_) (foldl_keeps (fun _ _ h => modEngine_keeps h) h)
    split
    split
    · exact releaseEngine_keeps h
    · exact h
  exact kept_update h2

theorem execSkeinSaved_keeps {skein} (h : memoryKept s) : NextKept (execSkeinSaved skein s) := by
  unfold execSkeinSaved
  split
  · split
    · exact next_keeps h
    extract_lets
    split
    · exact next_keeps (kill_keeps (settleSkein_keeps h))
    next e1 =>
    extract_lets s2
    have h2 : memoryKept s2 := emit_keeps (leaveCores_keeps (kept_of_ok e1 (writeParts_keeps (settleSkein_keeps h))))
    exact next_keeps (newHead_keeps (wakeCastOn_keeps h2))
  · exact next_keeps h

/-! ## Machine/Restore.lean -/

theorem clearGranule_keeps {base} (h : memoryKept s) : memoryKept (s.clearGranule base) := by
  obtain ⟨_, _, _, _, hunit⟩ := id h
  unfold State.clearGranule
  exact kept_unit h (wf_filter hunit _)

theorem moveGranule_keeps {src dst} (h : memoryKept s) : memoryKept (s.moveGranule src dst) := by
  have h1 := clearGranule_keeps (base := dst) (clearGranule_keeps (base := src) h)
  obtain ⟨_, _, _, _, hunit⟩ := id h1
  unfold State.moveGranule
  exact kept_unit h1 (wf_foldl (fun _ _ h => wf_write h _ _) hunit _)

theorem setGranule_keeps {sk m j g} (h : memoryKept s) : memoryKept (s.setGranule sk m j g) :=
  modSkein_keeps h

theorem takeGranules_keeps {sk core n} (h : memoryKept s) : memoryKept (s.takeGranules sk core n).1 := by
  unfold State.takeGranules
  extract_lets _ _ _ _ _ s1
  have h1 : memoryKept s1 := foldl_keeps (fun _ _ h => clearGranule_keeps (modCore_keeps h)) h
  refine foldl_keeps (fun _ _ h => ?_) h1
  exact modSkein_keeps (clearGranule_keeps (modCore_keeps (setGranule_keeps (moveGranule_keeps h))))

theorem doClaim_keeps {victim c} (h : memoryKept s) : memoryKept (s.doClaim victim c) := by
  unfold State.doClaim
  extract_lets
  split
  · extract_lets wrote
    have hwrote : OkKept wrote := by
      unfold wrote
      split
      · exact error_keeps
      · next e1 => exact imgWrite_keeps (kept_of_ok e1 (imgWrite_keeps (modSkein_keeps h)))
    clear_value wrote
    split
    · exact kill_keeps (modSkein_keeps h)
    extract_lets _ _ _ _ s4
    have h4 : memoryKept s4 := modSkein_keeps (kept_marks (clearGranule_keeps (hwrote _ rfl)))
    exact emit_keeps h4
  · exact modSkein_keeps h

theorem doClaims_keeps (h : memoryKept s) : memoryKept s.doClaims :=
  foldl_keeps (fun _ _ h => doClaim_keeps h) h

theorem settleClaims_keeps {victim} (h : memoryKept s) : memoryKept (s.settleClaims victim) :=
  foldl_keeps (fun _ _ h => doClaim_keeps h) h

theorem putPanel_keeps {core p courses} (h : memoryKept s) : memoryKept (s.putPanel core p courses) := by
  unfold State.putPanel
  extract_lets
  refine foldl_keeps (fun _ _ h => ?_) (setPanel_keeps h)
  extract_lets
  exact setCourse_keeps h

theorem takeBack_keeps {sk k cores} (h : memoryKept s) : memoryKept (s.takeBack sk k cores).1 := by
  unfold State.takeBack
  extract_lets
  refine foldl_keeps (fun _ _ h => ?_) h
  split
  split
  · exact modCore_keeps h
  · exact h

theorem takeAnew_keeps {sk k cores} (h : memoryKept s) : memoryKept (s.takeAnew sk k cores).1 := by
  unfold State.takeAnew
  exact foldl_fst_keeps (fun _ _ h => takeGranules_keeps h) h

theorem beginRefill_keeps {sk hdr m j core g} (h : memoryKept s) : memoryKept (s.beginRefill sk hdr m j core g) := by
  unfold State.beginRefill
  split
  · exact h
  extract_lets _ _ _ _ s1
  have h1 : memoryKept s1 := by
    unfold s1
    split
    · exact modCore_keeps h
    · exact h
  exact setOp_keeps (setGranule_keeps (kept_update (kept_marks h1)))

theorem restoreGranules_keeps {sk hdr k cores} (h : memoryKept s) : memoryKept (s.restoreGranules sk hdr k cores).1 :=
  foldl_keeps (fun _ _ h => beginRefill_keeps h) (settleClaims_keeps (takeAnew_keeps (takeBack_keeps h)))

theorem followCores_keeps {sk old new} (h : memoryKept s) : memoryKept (s.followCores sk old new) :=
  h

theorem readParts_keeps {sk hdr l} (h : memoryKept s) : OkKept (s.readParts sk hdr l) := by
  induction l generalizing s with
  | nil => exact ok_keeps h
  | cons x l ih =>
    unfold State.readParts
    split
    · exact error_keeps
    · exact ih (partLoad_keeps h)

theorem regainEngines_keeps {sk} (h : memoryKept s) : memoryKept (s.regainEngines sk) := by
  unfold State.regainEngines
  refine foldl_keeps (fun _ _ h => ?_) h
  split
  split
  · exact h
  split
  · exact acquireEngine_keeps (modEngine_keeps h)
  · exact queueEngine_keeps h

theorem catchUp_keeps {sk} (h : memoryKept s) : memoryKept (s.catchUp sk) := by
  unfold State.catchUp
  extract_lets
  split
  · exact foldl_keeps (fun _ _ h => fldFinish_keeps h) h
  refine foldl_keeps (fun _ _ h => ?_) (foldl_keeps (fun _ _ h => fldFinish_keeps h) h)
  split
  · exact releaseBar_keeps h
  · exact h

theorem notifyResumed_keeps {sk origin} (h : memoryKept s) : memoryKept (s.notifyResumed sk origin) := by
  unfold State.notifyResumed
  split
  · refine foldl_keeps (fun _ _ h => ?_) h
    split
    split
    · exact takeTrap_keeps h
    · exact h
  · exact h

theorem followTile_keeps {launch tile dest} (h : memoryKept s) : memoryKept (s.followTile launch tile dest) := by
  unfold State.followTile
  split
  · exact h
  split
  · exact setTile_keeps h
  · exact h

theorem followTiles_keeps {sk old new} (h : memoryKept s) : memoryKept (s.followTiles sk old new) :=
  foldl_keeps (fun _ _ h => followTile_keeps h) h

theorem restoreSkein_keeps {sk hdr cores} (h : memoryKept s) : memoryKept (s.restoreSkein sk hdr cores) := by
  unfold State.restoreSkein
  extract_lets
  split
  · exact settleClaims_keeps h
  extract_lets
  split
  next e1 =>
  split
  · exact fst_kept e1 (restoreGranules_keeps (settleClaims_keeps h))
  extract_lets s2 _ s4
  have h2 : memoryKept s2 := modSkein_keeps (fst_kept e1 (restoreGranules_keeps (settleClaims_keeps h)))
  have h4 : memoryKept s4 := foldl_keeps (fun _ _ h => putPanel_keeps h) (followTiles_keeps (followCores_keeps h2))
  split
  · exact kill_keeps h4
  next e2 =>
  extract_lets s5
  have h5 : memoryKept s5 := regainEngines_keeps (kept_of_ok e2 (readParts_keeps h4))
  exact notifyResumed_keeps (catchUp_keeps (emit_keeps h5))

/-! ## Machine/System.lean -/

theorem execTrap_keeps {f} (h : memoryKept s) : NextKept (execTrap f s) :=
  runCourse_keeps h (fun _ _ h => ranError_keeps h)

theorem runBreak_keeps {i reason tval detail} (h : memoryKept s) (ht : ∀ t, memoryKept t → memoryKept (tval t).2) :
    NextKept (runBreak s i reason tval detail) := by
  unfold runBreak
  split
  · exact next_keeps (debugStop_keeps h)
  refine runCourse_keeps h (fun _ _ h => ?_)
  split
  · exact ranOk_keeps h
  · exact ranError_keeps (ht _ h)

theorem execBkpt_keeps {f} (h : memoryKept s) : NextKept (execBkpt f s) :=
  runBreak_keeps h (fun _ h => h)

theorem execHalt_keeps {f} (h : memoryKept s) : NextKept (execHalt f s) :=
  runBreak_keeps h (fun _ h => freshWord_keeps h)

theorem trapLevelStop_keeps {m} (h : memoryKept s) : RanKept (s.trapLevelStop m) :=
  ranError_keeps (kept_update h)

theorem execRtt_keeps {f} (h : memoryKept s) : NextKept (execRtt f s) := by
  unfold execRtt
  refine runCourse_keeps h (fun _ _ h => ?_)
  split
  · exact trapLevelStop_keeps h
  split
  · exact ranOk_keeps h
  split
  · exact ranOk_keeps h
  extract_lets
  split
  · next e1 => exact ranError_keeps (fst_kept e1 (checkTarget_keeps h))
  · next e1 => exact ranOk_keeps (popLevel_keeps (fst_kept e1 (checkTarget_keeps h)))

theorem execSrd_keeps {f} (h : memoryKept s) : NextKept (execSrd f s) := by
  unfold execSrd
  refine runCourse_keeps h (fun _ _ h => ?_)
  split
  · exact ranError_keeps h
  split
  · exact trapLevelStop_keeps h
  extract_lets
  split
  · exact ranError_keeps h
  · next e1 => exact ranOk_keeps (kept_of_ok e1 (issStore_keeps h))

theorem execSwr_keeps {f} (h : memoryKept s) : NextKept (execSwr f s) := by
  unfold execSwr
  refine runCourse_keeps h (fun _ _ h => ?_)
  split
  · exact ranError_keeps h
  split
  · exact ranError_keeps h
  split
  · exact trapLevelStop_keeps h
  split
  · exact ranError_keeps h
  extract_lets
  exact ranOk_keeps (modCourse_keeps h)

theorem execIcinv_keeps {f} (h : memoryKept s) : NextKept (execIcinv f s) := by
  unfold execIcinv
  refine runCourse_keeps h (fun _ _ h => ?_)
  extract_lets
  split
  · exact ranError_keeps h
  split
  · exact ranError_keeps h
  · exact ranOk_keeps (foldl_keeps (fun _ _ h => icDrop_keeps h) h)

theorem execEvt_keeps {f} (h : memoryKept s) : NextKept (execEvt f s) := by
  unfold execEvt
  refine runCourse_keeps h (fun _ _ h => ?_)
  refine ranOk_keeps ?_
  refine foldl_keeps (fun _ _ h => ?_) h
  extract_lets _ _ s1
  have h1 : memoryKept s1 := by
    unfold s1
    split
    · exact traceEv_keeps h
    · exact h
  split
  · exact emit_keeps h1
  · exact h1

theorem execCaus_keeps {f} (h : memoryKept s) : NextKept (execCaus f s) := by
  unfold execCaus
  refine runCourse_keeps h (fun _ _ h => ?_)
  extract_lets
  exact ranOk_keeps (modCourse_keeps h)

theorem execCausNew_keeps {f} (h : memoryKept s) : NextKept (execCausNew f s) := by
  unfold execCausNew
  refine runCourse_keeps h (fun _ _ h => ?_)
  extract_lets
  exact ranOk_keeps (emit_keeps (modCourse_keeps (issGive_keeps (kept_update h))))

theorem execGlch_keeps {f} (h : memoryKept s) : NextKept (execGlch f s) :=
  runCourse_keeps h (fun _ _ h => ranOk_keeps (pullTrigger_keeps h))

theorem execKill_keeps {f} (h : memoryKept s) : NextKept (execKill f s) := by
  unfold execKill
  refine runCourse_keeps h (fun I s h => ?_)
  extract_lets k
  refine ranOk_keeps ?_
  dsimp only
  exact kill_keeps h

/-! ## Machine/Debug.lean -/

theorem reply_keeps {ok b} (h : memoryKept s) : memoryKept (s.reply ok b) :=
  h

theorem execAttach_keeps {target} (h : memoryKept s) : NextKept (execAttach target s) := by
  unfold execAttach
  split
  · split
    · exact next_keeps (reply_keeps (setSkein_keeps h))
    · exact next_keeps (reply_keeps h)
  · exact next_keeps (reply_keeps (kept_update h))

theorem execDetach_keeps {skein} (h : memoryKept s) : NextKept (execDetach skein s) := by
  unfold execDetach
  split
  · exact next_keeps (reply_keeps (setSkein_keeps h))
  · exact next_keeps (reply_keeps h)

theorem execStop_keeps {skein} (h : memoryKept s) : NextKept (execStop skein s) := by
  unfold execStop
  split
  · split
    · exact next_keeps (reply_keeps h)
    · exact next_keeps (reply_keeps (debugStop_keeps h))
  · exact next_keeps (reply_keeps h)

theorem execResume_keeps {skein} (h : memoryKept s) : NextKept (execResume skein s) := by
  unfold execResume
  split
  · split
    · exact next_keeps (reply_keeps h)
    extract_lets _ s1 _ s3
    have h1 : memoryKept s1 := by
      unfold s1
      split
      · exact kept_update h
      · exact h
    have h3 : memoryKept s3 := foldl_keeps (fun _ _ h => setPanel_keeps h) (foldl_keeps (fun _ _ h => setCourse_keeps h) h1)
    exact next_keeps (reply_keeps (modSkein_keeps h3))
  · exact next_keeps (reply_keeps h)

theorem execStepCourse_keeps {core slot} (h : memoryKept s) : NextKept (execStepCourse core slot s) := by
  unfold execStepCourse
  split
  · split
    · exact next_keeps (reply_keeps h)
    extract_lets
    exact next_keeps (reply_keeps (kept_update (setCourse_keeps h)))
  · exact next_keeps (reply_keeps h)

theorem execStepPhase_keeps {core pslot} (h : memoryKept s) : NextKept (execStepPhase core pslot s) := by
  unfold execStepPhase
  split
  · split
    · exact next_keeps (reply_keeps h)
    extract_lets _ s2
    have h2 : memoryKept s2 := modPanel_keeps (foldl_keeps (fun _ _ h => setCourse_keeps h) h)
    exact next_keeps (reply_keeps (kept_update h2))
  · exact next_keeps (reply_keeps h)

theorem execDebugStop_keeps {skein hit} (h : memoryKept s) : NextKept (execDebugStop skein hit s) := by
  unfold execDebugStop
  split
  · exact next_keeps h
  split
  · exact next_keeps h
  split
  · refine next_keeps ?_
    split
    · exact debugStop_keeps h
    · exact h
  split
  · exact next_keeps h
  · exact next_keeps (debugStop_keeps h)

theorem touch_keeps {sk x} (h : memoryKept s) : memoryKept (s.touch sk x) := by
  unfold State.touch
  extract_lets
  refine foldl_keeps (fun _ _ h => ?_) h
  split
  split
  · exact modCourse_keeps h
  · exact h

theorem partWrite_keeps {sk x b} (h : memoryKept s) : memoryKept (s.partWrite sk x b) := by
  unfold State.partWrite
  extract_lets
  split
  · split
    · exact loadOwn_keeps (touch_keeps (partLoad_keeps h))
    · exact touch_keeps (partLoad_keeps h)
  · exact touch_keeps (partLoad_keeps h)

theorem recordWrite_keeps {sk hdr f off b} (h : memoryKept s) : SomeKept (s.recordWrite sk hdr f off b) := by
  induction f generalizing s off b with
  | zero => exact none_keeps
  | succ f ih =>
    unfold State.recordWrite
    split
    · exact some_keeps h
    split
    · exact none_keeps
    extract_lets o n old new s1
    have h1 : SomeKept s1 := by
      unfold s1
      split
      · split
        · next e => exact some_keeps (kept_of_ok e (imgWrite_keeps h))
        · exact none_keeps
      · exact some_keeps (partWrite_keeps h)
    intro t e
    obtain ⟨u, hu, ht⟩ := Option.bind_eq_some_iff.1 e
    exact ih (h1 u hu) t ht

theorem execDebugRead_keeps {skein off len} (h : memoryKept s) : NextKept (execDebugRead skein off len s) := by
  unfold execDebugRead
  split
  · split
    · exact next_keeps (reply_keeps h)
    · split <;> exact next_keeps (reply_keeps h)
  · exact next_keeps (reply_keeps h)

theorem execDebugWrite_keeps {skein off bytes} (h : memoryKept s) : NextKept (execDebugWrite skein off bytes s) := by
  unfold execDebugWrite
  split
  · split
    · exact next_keeps (reply_keeps h)
    split
    · next e1 => exact next_keeps (reply_keeps (kept_of_some e1 (recordWrite_keeps h)))
    · exact next_keeps (reply_keeps h)
  · exact next_keeps (reply_keeps h)

theorem execDebugIcinv_keeps {skein base len} (h : memoryKept s) : NextKept (execDebugIcinv skein base len s) := by
  unfold execDebugIcinv
  split
  · split
    · exact next_keeps (reply_keeps h)
    · exact next_keeps (reply_keeps (foldl_keeps (fun _ _ h => icDrop_keeps h) h))
  · exact next_keeps (reply_keeps h)

theorem execTrigger_keeps (h : memoryKept s) : NextKept (execTrigger s) :=
  next_keeps (reply_keeps (pullTrigger_keeps h))

/-! ## Machine/Issue.lean -/

theorem execIcacheFill_keeps {core ctx sector ue} (h : memoryKept s) : NextKept (execIcacheFill core ctx sector ue s) := by
  unfold execIcacheFill
  extract_lets
  split
  · exact next_keeps h
  split
  · exact next_keeps (kept_marks h)
  split
  · refine next_keeps ?_
    split
    · exact h
    · exact modCore_keeps h
  split
  · exact next_keeps h
  · exact next_keeps (icPut_keeps h)

theorem icSoft_keeps {core ctx line} (h : memoryKept s) : memoryKept (s.icSoft core ctx line) := by
  unfold State.icSoft
  split
  · exact h
  extract_lets
  split
  · exact life_keeps (icDrop_keeps h)
  · exact icPut_keeps (life_keeps (icDrop_keeps h))

theorem execIcacheSoftError_keeps {core ctx line slot} (h : memoryKept s) : NextKept (execIcacheSoftError core ctx line slot s) := by
  unfold execIcacheSoftError
  refine next_keeps ?_
  split
  · exact icSoft_keeps h
  · exact h

theorem execBreakpointHit_keeps {core slot} (h : memoryKept s) : NextKept (execBreakpointHit core slot s) := by
  unfold execBreakpointHit
  split
  · exact next_keeps h
  split
  · exact next_keeps h
  split
  · exact next_keeps h
  split
  · exact next_keeps (debugStop_keeps h)
  · exact next_keeps (takeTrap_keeps h)

theorem execSingleStepTrap_keeps {core slot} (h : memoryKept s) : NextKept (execSingleStepTrap core slot s) := by
  unfold execSingleStepTrap
  split
  · exact next_keeps h
  split
  · exact next_keeps h
  split
  · exact next_keeps h
  · exact next_keeps (takeTrap_keeps (kept_update h))

theorem execDatumArrival_keeps {id} (h : memoryKept s) : NextKept (execDatumArrival id s) := by
  unfold execDatumArrival
  split
  · exact next_keeps (landDatum_keeps h)
  · exact next_keeps h

theorem execParkedAccessResume_keeps {core slot} (h : memoryKept s) : NextKept (execParkedAccessResume core slot s) :=
  next_keeps (modCourse_keeps h)

theorem execFaultRetry_keeps {id} (h : memoryKept s) : NextKept (execFaultRetry id s) := by
  unfold execFaultRetry
  split
  · exact next_keeps h
  split
  · exact next_keeps h
  extract_lets
  split
  · exact next_keeps (modCourse_keeps (kept_update h))
  · exact next_keeps (modPanel_keeps (kept_update h))
  · split
    · exact next_keeps (setOp_keeps (kept_update h))
    · exact next_keeps (kept_update h)
  · exact next_keeps (kept_update h)

theorem execPcSample_keeps {core partition} (h : memoryKept s) : NextKept (execPcSample core partition s) := by
  unfold execPcSample
  refine next_keeps ?_
  refine foldl_keeps (fun _ _ h => ?_) h
  split
  extract_lets
  split
  · extract_lets
    exact traceEv_keeps (modLaunch_keeps h)
  · exact h

theorem sramUe_keeps {row core ctx cause parent} (h : memoryKept s) : memoryKept (s.sramUe row core ctx cause parent) :=
  emit_keeps (life_keeps h)

theorem execSramUe_keeps {place} (h : memoryKept s) : NextKept (execSramUe place s) := by
  unfold execSramUe
  split
  · split
    · exact next_keeps h
    split
    · exact next_keeps h
    extract_lets
    exact next_keeps (takeTrap_keeps (sramUe_keeps h))
  · extract_lets
    exact next_keeps (kept_marks h)
  · extract_lets
    exact next_keeps (kept_marks h)
  · exact next_keeps (life_keeps h)
  · extract_lets
    exact next_keeps (modEngine_keeps (sramUe_keeps h))
  · extract_lets owner
    refine next_keeps ?_
    clear_value owner
    split <;> exact poison_keeps (sramUe_keeps h)
  · extract_lets
    refine next_keeps ?_
    split
    · exact sramUe_keeps h
    · exact kill_keeps (sramUe_keeps h)
  · split
    · exact next_keeps h
    · exact next_keeps (queueLost_keeps (sramUe_keeps h))
  · exact next_keeps (failOver_keeps (sramUe_keeps h))
  · extract_lets
    refine next_keeps ?_
    split
    · exact sramUe_keeps h
    · exact kept_update (sramUe_keeps h)
  split
  · exact next_keeps h
  · exact next_keeps (icSoft_keeps (sramUe_keeps h))

theorem execCxlMemWrite_keeps {addr bytes} (h : memoryKept s) : NextKept (execCxlMemWrite addr bytes s) := by
  unfold execCxlMemWrite
  refine next_keeps ?_
  split
  · exact poke_keeps h
  · exact h

theorem execContextKill_keeps {ctx reason} (h : memoryKept s) : NextKept (execContextKill ctx reason s) := by
  unfold execContextKill
  refine next_keeps ?_
  split
  · exact h
  · exact kill_keeps h

/-! ## Machine/Placement.lean -/

theorem placeEv_keeps {k type payload} (h : memoryKept s) : memoryKept (s.placeEv k type payload) :=
  emit_keeps h

theorem deniedEv_keeps {a k origin reason} (h : memoryKept s) : memoryKept (s.deniedEv a k origin reason) :=
  placeEv_keeps h

theorem setAgents_keeps {l} (h : memoryKept s) : memoryKept (s.setAgents l) :=
  h

theorem putAgent_keeps {a b} (h : memoryKept s) : memoryKept (s.putAgent a b) :=
  setAgents_keeps h

theorem freeAgent_keeps {a} (h : memoryKept s) : memoryKept (s.freeAgent a) :=
  h

theorem attempt_keeps {a choice} (h : memoryKept s) : memoryKept (s.attempt a choice) := by
  unfold State.attempt
  extract_lets
  split
  · exact laterAt_keeps (setAgents_keeps (modSkein_keeps h))
  split
  · exact modSkein_keeps (modSkein_keeps h)
  · exact setAgents_keeps (modSkein_keeps (modSkein_keeps h))

theorem execCastonAttempt_keeps {agent} (h : memoryKept s) : NextKept (execCastonAttempt agent s) := by
  unfold execCastonAttempt
  split
  · exact next_keeps h
  extract_lets go
  have hgo : ∀ {t sk k}, memoryKept t → memoryKept (go t sk k) := fun h => by
    unfold go
    split
    · exact attempt_keeps h
    · exact h
  split
  · split
    · split
      · exact next_keeps (hgo (putAgent_keeps h))
      · exact next_keeps h
    · exact next_keeps h
  split
  · exact next_keeps h
  split
  · exact next_keeps (hgo h)
  · exact next_keeps h

theorem execAffineAttempt_keeps (h : memoryKept s) : NextKept (execAffineAttempt s) := by
  unfold execAffineAttempt
  split
  · exact next_keeps h
  split
  · exact next_keeps h
  split
  · exact next_keeps h
  refine next_keeps ?_
  refine freeAgent_keeps ?_
  refine attempt_keeps ?_
  split
  · split
    · exact h
    · exact placeEv_keeps h
  · split
    · exact h
    · exact placeEv_keeps h
  split
  · exact h
  · exact placeEv_keeps h

theorem execReserve_keeps {agent} (h : memoryKept s) : NextKept (execReserve agent s) := by
  unfold execReserve
  split
  · exact next_keeps h
  split
  · extract_lets
    split
    · exact next_keeps (deniedEv_keeps (putAgent_keeps (laterAt_keeps h)))
    split
    · exact next_keeps (laterAt_keeps (putAgent_keeps (laterAt_keeps h)))
    · exact next_keeps (deniedEv_keeps (putAgent_keeps (laterAt_keeps h)))
  · exact next_keeps h

theorem turnedDown_keeps {a} (h : memoryKept s) : memoryKept (s.turnedDown a) := by
  unfold State.turnedDown
  split
  · exact putAgent_keeps h
  · split <;> exact modSkein_keeps (putAgent_keeps h)

theorem execReserveReply_keeps {agent} (h : memoryKept s) : NextKept (execReserveReply agent s) := by
  unfold execReserveReply
  split
  · exact next_keeps h
  split
  · extract_lets _ _ s2
    have h2 : memoryKept s2 := placeEv_keeps (freeAgent_keeps (modSkein_keeps (putAgent_keeps h)))
    split
    · exact next_keeps (laterAt_keeps h2)
    · exact next_keeps (laterAt_keeps (putAgent_keeps h))
  · exact next_keeps (turnedDown_keeps h)
  · exact next_keeps h

theorem execRelease_keeps {agent} (h : memoryKept s) : NextKept (execRelease agent s) := by
  unfold execRelease
  split
  · exact next_keeps (putAgent_keeps h)
  · exact next_keeps h

theorem execCommitWindowLapse_keeps {agent} (h : memoryKept s) : NextKept (execCommitWindowLapse agent s) := by
  unfold execCommitWindowLapse
  extract_lets
  split
  · exact next_keeps h
  split
  · exact next_keeps (deniedEv_keeps (putAgent_keeps h))
  · exact next_keeps (deniedEv_keeps (putAgent_keeps h))
  · exact next_keeps (deniedEv_keeps (putAgent_keeps h))
  · exact next_keeps h

theorem startSkein_keeps {sk v k cores} (h : memoryKept s) : memoryKept (s.startSkein sk v k cores) := by
  unfold State.startSkein
  dsimp only
  exact foldl_keeps (fun _ _ h => putPanel_keeps h) (modSkein_keeps (foldl_fst_keeps (fun _ _ h => takeGranules_keeps h) h))

theorem placeSkein_keeps {a k v origin} (h : memoryKept s) : memoryKept (s.placeSkein a k v origin) := by
  unfold State.placeSkein
  extract_lets _ _ _ _ _ _ _ s3 _ s5 _ s7
  have h3 : memoryKept s3 := modSkein_keeps (kept_update (freeAgent_keeps (putAgent_keeps h)))
  have h5 : memoryKept s5 := by
    unfold s5
    split
    · exact restoreSkein_keeps (placeEv_keeps h3)
    · exact startSkein_keeps (placeEv_keeps h3)
  have h7 : memoryKept s7 := by
    unfold s7
    split
    · exact debugStop_keeps (modSkein_keeps (doClaims_keeps h5))
    · exact doClaims_keeps h5
  exact newHead_keeps (wakeAffine_keeps h7)

theorem execCommit_keeps {agent} (h : memoryKept s) : NextKept (execCommit agent s) := by
  unfold execCommit
  extract_lets
  split
  · exact next_keeps (doClaims_keeps h)
  split
  · exact next_keeps (placeSkein_keeps (doClaims_keeps h))
  · exact next_keeps (turnedDown_keeps (doClaims_keeps h))
  · exact next_keeps (doClaims_keeps h)

theorem setAside_keeps {sk k v origin preempt} (h : memoryKept s) : memoryKept (s.setAside sk k v origin preempt) :=
  placeEv_keeps (kept_update h)

theorem execDrainStart_keeps (h : memoryKept s) : NextKept (execDrainStart s) := by
  unfold execDrainStart
  split
  · exact next_keeps (setAside_keeps h)
  · exact next_keeps h

theorem execPreemptRequest_keeps (h : memoryKept s) : NextKept (execPreemptRequest s) := by
  unfold execPreemptRequest
  split
  · exact next_keeps h
  extract_lets s1
  have h1 : memoryKept s1 := by
    unfold s1
    refine foldl_keeps (fun _ _ h => ?_) h
    split
    split
    · exact h
    extract_lets
    exact placeEv_keeps (setSkein_keeps h)
  exact next_keeps (setAside_keeps h1)

/-! ## Machine/Time.lean -/

theorem correct_keeps {e} (h : memoryKept s) : memoryKept (s.correct e) := by
  unfold State.correct
  split
  · extract_lets
    exact emit_keeps (kept_update h)
  · exact kept_update h

theorem discipline_keeps {e} (h : memoryKept s) : memoryKept (s.discipline e) := by
  unfold State.discipline
  extract_lets _ _ _ _ _ _ _ _ _ s4
  have h4 : memoryKept s4 := by
    unfold s4
    split
    · exact emit_keeps (kept_update (kept_update h))
    split
    · exact emit_keeps (kept_update (kept_update h))
    · exact kept_update h
  split
  · exact kept_update h
  · exact correct_keeps h4

theorem sendPtp_keeps {dst m} (h : memoryKept s) : memoryKept (s.sendPtp dst m) :=
  sendControl_keeps h

theorem askDelay_keeps {dst} (h : memoryKept s) : memoryKept (s.askDelay dst) :=
  sendPtp_keeps (kept_update h)

theorem dropStamps_keeps (h : memoryKept s) : memoryKept s.dropStamps :=
  h

theorem estimate_keeps {src stamp heard} (h : memoryKept s) : memoryKept (s.estimate src stamp heard) := by
  unfold State.estimate
  refine askDelay_keeps ?_
  split
  · exact h
  extract_lets
  split
  · exact discipline_keeps h
  · exact dropStamps_keeps (discipline_keeps h)

theorem masterHeard_keeps {src} (h : memoryKept s) : memoryKept (s.masterHeard src) := by
  unfold State.masterHeard
  split
  · split
    · extract_lets
      exact kept_update h
    · exact h
  · exact kept_update h

theorem ptpArrives_keeps {src m} (h : memoryKept s) : memoryKept (s.ptpArrives src m) := by
  unfold State.ptpArrives
  split
  · split
    · exact masterHeard_keeps h
    split
    · exact h
    split
    · exact estimate_keeps (masterHeard_keeps h)
    extract_lets
    exact kept_update (masterHeard_keeps h)
  · split
    · split
      · exact estimate_keeps (kept_update h)
      · exact h
    · exact h
  · exact sendPtp_keeps (sendPtp_keeps h)
  · split
    · split
      · exact kept_update h
      · exact h
    · exact h
  split
  · split
    · exact kept_update h
    · exact h
  · exact h

theorem execFabricControl_keeps {p} (h : memoryKept s) : NextKept (execFabricControl p s) := by
  unfold execFabricControl
  split
  · refine next_keeps ?_
    split
    · exact ptpArrives_keeps h
    · exact h
  · exact next_keeps (linkHeard_keeps h)
  · exact next_keeps (lateArrives_keeps h)
  · exact next_keeps h

theorem execGrandmasterMessage_keeps {offset} (h : memoryKept s) : NextKept (execGrandmasterMessage offset s) := by
  unfold execGrandmasterMessage
  refine next_keeps ?_
  split
  · exact discipline_keeps h
  · exact h

theorem execSyncInterval_keeps (h : memoryKept s) : NextKept (execSyncInterval s) := by
  unfold execSyncInterval
  split
  · exact next_keeps h
  extract_lets
  exact next_keeps (foldl_keeps (fun _ _ h => sendPtp_keeps (sendPtp_keeps h)) (kept_update h))

/-! ## Machine/Dispatch.lean -/

theorem exec_keeps {i} (h : memoryKept s) : NextKept (exec i s) := by
  unfold exec
  split
  · exact execNop_keeps h
  · exact execBra_keeps h
  · exact execBrp_keeps h
  · exact execJtb_keeps h
  · exact execLpad_keeps h
  · exact execCall_keeps h
  · exact execRet_keeps h
  · exact execExit_keeps h
  · exact execStreamExit_keeps h
  · exact execYield_keeps h
  · exact execRgn_keeps h
  · exact execAdd_keeps h
  · exact execAddi_keeps h
  · exact execSub_keeps h
  · exact execMul_keeps h
  · exact execMulh_keeps h
  · exact execMulhu_keeps h
  · exact execDiv_keeps h
  · exact execDivu_keeps h
  · exact execRem_keeps h
  · exact execRemu_keeps h
  · exact execAnd_keeps h
  · exact execOr_keeps h
  · exact execXor_keeps h
  · exact execAndn_keeps h
  · exact execShl_keeps h
  · exact execShr_keeps h
  · exact execSar_keeps h
  · exact execRol_keeps h
  · exact execClz_keeps h
  · exact execCtz_keeps h
  · exact execPopc_keeps h
  · exact execBrev_keeps h
  · exact execAbs_keeps h
  · exact execBfx_keeps h
  · exact execBfi_keeps h
  · exact execMin_keeps h
  · exact execMax_keeps h
  · exact execMinu_keeps h
  · exact execMaxu_keeps h
  · exact execSel_keeps h
  · exact execMov_keeps h
  · exact execMovi_keeps h
  · exact execMovh_keeps h
  · exact execLea_keeps h
  · exact execCmp_keeps h
  · exact execPlop_keeps h
  · exact execRdid_keeps h
  · exact execFadd_keeps h
  · exact execFsub_keeps h
  · exact execFmul_keeps h
  · exact execFma_keeps h
  · exact execFdiv_keeps h
  · exact execFsqrt_keeps h
  · exact execFrcp_keeps h
  · exact execFrsq_keeps h
  · exact execFex2_keeps h
  · exact execFlg2_keeps h
  · exact execFmin_keeps h
  · exact execFmax_keeps h
  · exact execFcmp_keeps h
  · exact execFcvt_keeps h
  · exact execFcls_keeps h
  · exact execFrnd_keeps h
  · exact execVspl_keeps h
  · exact execVprm_keeps h
  · exact execVext_keeps h
  · exact execVins_keeps h
  · exact execVred_keeps h
  · exact execVscn_keeps h
  · exact execVsel_keeps h
  · exact execVmsk_keeps h
  · exact execVqnt_keeps h
  · exact execVdqn_keeps h
  · exact execVtag_keeps h
  · exact execVpack_keeps h
  · exact execVunpk_keeps h
  · exact execVpmul_keeps h
  · exact execVrand_keeps h
  · exact execXshf_keeps h
  · exact execXbrd_keeps h
  · exact execXred_keeps h
  · exact execXscn_keeps h
  · exact execXvot_keeps h
  · exact execXuni_keeps h
  · exact execLd_keeps h
  · exact execSt_keeps h
  · exact execLdv_keeps h
  · exact execStv_keeps h
  · exact execGath_keeps h
  · exact execScat_keeps h
  · exact execAadd_keeps h
  · exact execAmin_keeps h
  · exact execAmax_keeps h
  · exact execAand_keeps h
  · exact execAor_keeps h
  · exact execAxor_keeps h
  · exact execAxch_keeps h
  · exact execAcas_keeps h
  · exact execAfad_keeps h
  · exact execTdsc_keeps h
  · exact execTfch_keeps h
  · exact execTevc_keeps h
  · exact execTmov_keeps h
  · exact execTacc_keeps h
  · exact execTset_keeps h
  · exact execTget_keeps h
  · exact execTcmp_keeps h
  · exact execTlogCompact_keeps h
  · exact execTlogApply_keeps h
  · exact execTlogDiscard_keeps h
  · exact execTlogQuery_keeps h
  · exact execCpy_keeps h
  · exact execCpySnap_keeps h
  · exact execCwt_keeps h
  · exact execRlq_keeps h
  · exact execGrd_keeps h
  · exact execJob_keeps h
  · exact execJwt_keeps h
  · exact execJrs_keeps h
  · exact execAcz_keeps h
  · exact execAcs_keeps h
  · exact execAcl_keeps h
  · exact execExt_keeps h
  · exact execSba_keeps h
  · exact execSbw_keeps h
  · exact execBara_keeps h
  · exact execBarw_keeps h
  · exact execBar_keeps h
  · exact execBarq_keeps h
  · exact execCinc_keeps h
  · exact execCwait_keeps h
  · exact execCset_keeps h
  · exact execCdcl_keeps h
  · exact execFence_keeps h
  · exact execFld_keeps h
  · exact execFst_keeps h
  · exact execFatm_keeps h
  · exact execQpst_keeps h
  · exact execQarm_keeps h
  · exact execColl_keeps h
  · exact execCwdQuery_keeps h
  · exact execCwdExtend_keeps h
  · exact execPent_keeps h
  · exact execTrap_keeps h
  · exact execRtt_keeps h
  · exact execSrd_keeps h
  · exact execSwr_keeps h
  · exact execIcinv_keeps h
  · exact execBkpt_keeps h
  · exact execEvt_keeps h
  · exact execCaus_keeps h
  · exact execCausNew_keeps h
  · exact execHalt_keeps h
  · exact execGlch_keeps h
  · exact execKill_keeps h
  · exact execTailWrite_keeps h
  · exact execPacketNop_keeps h
  · exact execPacketGraph_keeps h
  · exact execPacketSignal_keeps h
  · exact execPacketWait_keeps h
  · exact execWaitPacketRelease_keeps h
  · exact execPacketMarker_keeps h
  · exact execNodeKernel_keeps h
  · exact execNodeCopy_keeps h
  · exact execNodeCollective_keeps h
  · exact execNodeJoin_keeps h
  · exact execNodeConditional_keeps h
  · exact execNodeLoop_keeps h
  · exact execNodeEvent_keeps h
  · exact execNodeEnd_keeps h
  · exact execNodeDone_keeps h
  · exact execDeadline_keeps h
  · exact execCastonAttempt_keeps h
  · exact execReserve_keeps h
  · exact execReserveReply_keeps h
  · exact execCommit_keeps h
  · exact execRelease_keeps h
  · exact execCommitWindowLapse_keeps h
  · exact execSkeinSaved_keeps h
  · exact execIcacheFill_keeps h
  · exact execYieldExpiry_keeps h
  · exact execBreakpointHit_keeps h
  · exact execSingleStepTrap_keeps h
  · exact execParkedAccessResume_keeps h
  · exact execFaultRetry_keeps h
  · exact execSectorComplete_keeps h
  · exact execTileFetch_keeps h
  · exact execTileEvict_keeps h
  · exact execTmovComplete_keeps h
  · exact execTlogComplete_keeps h
  · exact execSnapshotCopyStart_keeps h
  · exact execCopyDone_keeps h
  · exact execDepthStep_keeps h
  · exact execSbwGateOpen_keeps h
  · exact execTileExtract_keeps h
  · exact execEngineStop_keeps h
  · exact execFabricRead_keeps h
  · exact execFabricReadResponse_keeps h
  · exact execFabricWrite_keeps h
  · exact execFabricAtomic_keeps h
  · exact execFabricWriteReduce_keeps h
  · exact execFabricSignal_keeps h
  · exact execFabricAck_keeps h
  · exact execFabricNack_keeps h
  · exact execFabricChunk_keeps h
  · exact execFabricReady_keeps h
  · exact execFabricBarrierArrival_keeps h
  · exact execFabricControl_keeps h
  · exact execFldReplyTimeout_keeps h
  · exact execFabricTimeout_keeps h
  · exact execReplyAbandon_keeps h
  · exact execReadyResend_keeps h
  · exact execReducePanel_keeps h
  · exact execCollLate_keeps h
  · exact execDebugStop_keeps h
  · exact execCourseRetired_keeps h
  · exact execSkeinBoundOff_keeps h
  · exact execDatumArrival_keeps h
  · exact execDepartureReport_keeps h
  · exact execPcSample_keeps h
  · exact execSeal_keeps h
  · exact execQueueLost_keeps h
  · exact execPacketRelay_keeps h
  · exact execContextKill_keeps h
  · exact execAttach_keeps h
  · exact execDetach_keeps h
  · exact execStop_keeps h
  · exact execResume_keeps h
  · exact execStepCourse_keeps h
  · exact execStepPhase_keeps h
  · exact execDebugRead_keeps h
  · exact execDebugWrite_keeps h
  · exact execDebugIcinv_keeps h
  · exact execCxlMemWrite_keeps h
  · exact execVerify_keeps h
  · exact execPowerOn_keeps h
  · exact execDeviceReset_keeps h
  · exact execManagementRegisterWrite_keeps h
  · exact execDomainWrite_keeps h
  · exact execContextEntryWrite_keeps h
  · exact execQueueStateOff_keeps h
  · exact execQueueStateRun_keeps h
  · exact execRegionFenceWrite_keeps h
  · exact execFirnGeometryWrite_keeps h
  · exact execFirnEnable_keeps h
  · exact execFirnDisable_keeps h
  · exact execFabricAccessTableWrite_keeps h
  · exact execLinkDown_keeps h
  · exact execLinkUp_keeps h
  · exact execSramUe_keeps h
  · exact execIcacheSoftError_keeps h
  · exact execGrandmasterMessage_keeps h
  · exact execReservedKindPacket_keeps h
  · exact execPowerLoss_keeps h
  · exact execThermalExcursionEnd_keeps h
  · exact execJunctionBelow80c_keeps h
  · exact execLifeidxClear_keeps h
  · exact execLifeidxSelect_keeps h
  · exact execAttestationReport_keeps h
  · exact execLiveUpdate_keeps h
  · exact execFailover_keeps h
  · exact execHeartbeat_keeps h
  · exact execThermalTrip_keeps h
  · exact execThermalCeilingRise_keeps h
  · exact execThermalCeilingFall_keeps h
  · exact execDroopExcursion_keeps h
  · exact execVcoreCurrentSample_keeps h
  · exact execClockReduction_keeps h
  · exact execClockRaise_keeps h
  · exact execPowerUpCommand_keeps h
  · exact execUpdateDone_keeps h
  · exact execUpdateAbandoned_keeps h
  · exact execAffineAttempt_keeps h
  · exact execDrainStart_keeps h
  · exact execPreemptRequest_keeps h
  · exact execSyncInterval_keeps h
  · exact execTrigger_keeps h
  · exact execCxlLinkRetrain_keeps h

/-! ## Machine/Turns.lean -/

theorem begun_keeps {core slot level E} (h : memoryKept s) : memoryKept (s.begun core slot level E) := by
  unfold State.begun
  split
  · exact h
  · exact modCourse_keeps h

theorem fetched_keeps {core slot c E} (h : memoryKept s) : memoryKept (s.fetched core slot c E).1 := by
  unfold State.fetched
  extract_lets w
  split
  next e1 =>
  have h1 := fst_kept e1 (by
    split
    · exact h
    · exact checkTarget_keeps h)
  split
  · exact h1
  split
  · next e2 => exact fst_kept e2 (obtain_keeps h1)
  · next e2 => exact fst_kept e2 (obtain_keeps h1)

theorem issueEntry_keeps {core slot c E} (h : memoryKept s) : NextKept (s.issueEntry core slot c E) := by
  unfold State.issueEntry
  split
  · exact exec_keeps h
  split
  · exact exec_keeps h
  split
  · next e1 =>
    refine next_keeps ?_
    extract_lets s1
    have h1 : memoryKept s1 := begun_keeps (failed_keeps (fst_kept e1 (fetched_keeps h)))
    exact kept_update h1
  next e1 =>
  extract_lets s1
  have h1 : memoryKept s1 := by
    unfold s1
    split
    · exact modCourse_keeps (fst_kept e1 (fetched_keeps h))
    · exact fst_kept e1 (fetched_keeps h)
  split
  · exact next_keeps h1
  · exact exec_keeps (kept_update h1)

theorem stepped_keeps {core slot} (h : memoryKept s) : memoryKept (s.stepped core slot) := by
  unfold State.stepped
  extract_lets
  split
  · split
    · exact modCourse_keeps (kept_update h)
    · exact kept_update h
  · exact kept_update h

theorem issueCourse_keeps {n core slot} (h : memoryKept s) : NextKept (issueCourse n core slot s) := by
  induction n generalizing s with
  | zero => exact next_keeps h
  | succ n ih =>
    unfold issueCourse
    split
    · exact next_keeps h
    split
    · exact next_keeps h
    split
    · next e =>
      have h1 := kept_of_next e (issueEntry_keeps h)
      extract_lets issued t
      split
      · exact ih (kept_update h1)
      · split
        · exact next_keeps (stepped_keeps (kept_update h1))
        · exact next_keeps (kept_update h1)
    · exact issueEntry_keeps h

theorem courseTurn_keeps {core slot} (h : memoryKept s) : NextKept (s.courseTurn core slot) := by
  unfold State.courseTurn
  split
  · exact next_keeps h
  · exact issueCourse_keeps (setCourse_keeps h)

theorem seqFetched_keeps {core p} (h : memoryKept s) : memoryKept (s.seqFetched core p).1 := by
  unfold State.seqFetched
  extract_lets w
  split
  next e1 =>
  have h1 := fst_kept e1 (by
    split
    · exact h
    · exact checkTarget_keeps h)
  split
  · exact h1
  split
  · next e2 => exact fst_kept e2 (obtain_keeps h1)
  · next e2 => exact fst_kept e2 (obtain_keeps h1)

theorem streamTurn_keeps {core pslot} (h : memoryKept s) : NextKept (s.streamTurn core pslot) := by
  unfold State.streamTurn
  split
  · exact next_keeps h
  split
  · exact exec_keeps (kept_update h)
  split
  · next e1 => exact next_keeps (fst_kept e1 (seqFetched_keeps h))
  · next e1 =>
    extract_lets s1
    have h1 : memoryKept s1 := streamTrap_keeps (fst_kept e1 (seqFetched_keeps h))
    refine next_keeps ?_
    split
    · exact h1
    · exact modPanel_keeps h1
  next e1 =>
  refine exec_keeps ?_
  extract_lets
  exact kept_update (modPanel_keeps (fst_kept e1 (seqFetched_keeps h)))

theorem due_keeps (h : memoryKept s) : SomeKept (s.due.map (·.2.2)) := by
  unfold State.due
  extract_lets place timer item best
  have hitem : SomeKept (item.map (·.2.2)) := by
    unfold item
    split
    · exact none_keeps
    · exact some_keeps (kept_update h)
  clear_value item timer place
  have hbest : SomeKept (best.map (·.2.2)) := by
    unfold best
    split
    · split
      · exact some_keeps h
      · exact hitem
    · exact hitem
    · exact some_keeps h
    · exact none_keeps
  clear_value best
  split
  · split
    · exact hbest
    · exact some_keeps h
  · exact some_keeps h
  · exact hbest

theorem slewFor_keeps {d t} (h : memoryKept s) : memoryKept (s.slewFor d t) :=
  h

theorem passTo_keeps {t} (h : memoryKept s) : memoryKept (s.passTo t) := by
  unfold State.passTo
  split
  · exact h
  · exact slewFor_keeps h

theorem passFor_keeps {d} (h : memoryKept s) : memoryKept (s.passFor d) :=
  slewFor_keeps h

theorem perform_keeps {t} (h : memoryKept s) : NextKept (s.perform t) := by
  unfold State.perform
  split
  · exact exec_keeps (kept_update h)
  · exact courseTurn_keeps h
  · exact streamTurn_keeps h

theorem advance_keeps (h : memoryKept s) : memoryKept s.advance.2 := by
  unfold State.advance
  extract_lets take
  have htake : ∀ u, memoryKept (take u).2 := fun u => kept_update (passFor_keeps h)
  have hdue : ∀ {t x s1}, s.due = some (t, x, s1) → memoryKept s1 := fun e => due_keeps h _ (by rw [e]; rfl)
  split
  · next e _ =>
    split
    · exact passTo_keeps (hdue e)
    · exact htake _
  · next e _ => exact passTo_keeps (hdue e)
  · exact htake _
  · exact passFor_keeps h

theorem restOnce_keeps (h : memoryKept s) : NextKept s.restOnce := by
  unfold State.restOnce
  split
  · exact next_keeps h
  extract_lets
  split
  · split
    · exact exec_keeps (passTo_keeps (kept_update h))
    · exact next_keeps (passTo_keeps (kept_update h))
  · exact next_keeps (passTo_keeps (kept_update h))

theorem stepOnce_keeps (h : memoryKept s) : NextKept s.stepOnce := by
  unfold State.stepOnce
  split
  · exact restOnce_keeps h
  split
  · next e => exact next_keeps (snd_kept e (advance_keeps h))
  next e =>
  have h1 := snd_kept e (advance_keeps h)
  split
  · next e2 => exact next_keeps (kept_update (kept_of_next e2 (perform_keeps h1)))
  · exact perform_keeps h1

/-! ## Machine/Step.lean -/

theorem step_keeps (h : memoryKept s) : NextKept (step s) :=
  stepOnce_keeps h

end

/-- Settles O59: a step is a turn, and every turn's function keeps the memories. -/
theorem memoryInvariant : Obligations.MemoryInvariant := fun _ t h e => step_keeps h t e

end Sys2Proof.Laws
end

section
/-! What events of the part leave as it was: what a table finds, what bytes stored at homes and records carried change (R55, R67 to R76), and
what a read of a range depends on (R237 to R247). -/
namespace Sys2Proof.Laws
open Sys2Proof.Machine Sys2Proof.Safety

/-! ## Tables -/

section
variable {α : Type}

theorem kget_kmapVals (m : KMap α) (f : Nat → α → α) (k : Nat) : kget (kmapVals m f) k = (kget m k).map (f k) := by
  induction m with
  | nil => rfl
  | cons x m ih =>
    obtain ⟨j, a⟩ := x
    have ih' : kget (m.map fun (k, a) => (k, f k a)) k = (kget m k).map (f k) := ih
    by_cases h : j = k
    · subst h; simp [kmapVals, kget]
    · simp [kmapVals, kget, h, ih']

theorem mem_of_kget {m : KMap α} {k : Nat} {a : α} (h : kget m k = some a) : (k, a) ∈ m := by
  induction m with
  | nil => cases h
  | cons x m ih =>
    obtain ⟨j, b⟩ := x
    simp only [kget] at h
    split at h
    · next e => cases h; cases e; exact List.mem_cons_self
    · exact List.mem_cons_of_mem _ (ih h)

/-- An entry of a table without repeated keys is the one its key finds. -/
theorem kget_of_mem {m : KMap α} {k : Nat} {a : α} (hm : (kkeys m).Nodup) (h : (k, a) ∈ m) : kget m k = some a := by
  induction m with
  | nil => cases h
  | cons x m ih =>
    obtain ⟨j, b⟩ := x
    obtain ⟨hj, hm'⟩ := List.nodup_cons.1 hm
    rcases List.mem_cons.1 h with e | h
    · cases e; simp [kget]
    · have : j ≠ k := fun e => hj (List.mem_map.2 ⟨_, h, e.symm⟩)
      simp [kget, this, ih hm' h]

/-- Entries that are kept or dropped by their own key and value are found so. -/
theorem kget_filterMap {m : KMap α} (hm : (kkeys m).Nodup) (g : Nat → α → Option α) (k : Nat) :
    kget (m.filterMap (fun (j, a) => (g j a).map (fun b => (j, b)))) k = (kget m k).bind (g k) := by
  induction m with
  | nil => rfl
  | cons x m ih =>
    obtain ⟨j, a⟩ := x
    obtain ⟨hj, hm'⟩ := List.nodup_cons.1 hm
    have ih := ih hm'
    by_cases h : j = k
    · subst h
      have hnone : kget m j = none := by
        rcases hk : kget m j with _ | b
        · rfl
        · exact absurd (List.mem_map.2 ⟨_, mem_of_kget hk, rfl⟩) hj
      rw [hnone] at ih
      cases hg : g j a <;> simp_all [kget]
    · cases hg : g j a <;> simp_all [kget]

theorem isSome_kget_kset {m : KMap α} {k : Nat} (j : Nat) (a : α) (h : (kget m k).isSome) : (kget (kset m j a) k).isSome := by
  rw [kget_kset]
  split
  · rfl
  · exact h
end

/-! ## Registers -/

theorem registersKept_of_courses {s t : State} (h : t.courses = s.courses) : RegistersKept s t := fun k => by rw [h]

/-- Entries that look at a counter again stand in the frontiers: every course keeps its registers. -/
theorem wakeCounter_registersKept (s : State) (i : Nat) : RegistersKept s (s.wakeCounter i) := by
  intro k
  unfold State.wakeCounter
  extract_lets
  rw [kget_kmapVals, Option.map_map]
  rfl

/-! ## Bytes stored and records carried -/

/-- Beside the memories and the firn registers, only which faults are due again may differ. -/
def Recorded (s t : State) : Prop :=
  ({ t with firn := s.firn, mem := s.mem, async := { t.async with faults := s.async.faults } } : State) = s

namespace Recorded
variable {s t u : State}

theorem refl (s : State) : Recorded s s := rfl

theorem trans (h : Recorded s t) (k : Recorded t u) : Recorded s u := by
  unfold Recorded at h k ⊢
  rw [← k] at h
  exact h

theorem courses (h : Recorded s t) : t.courses = s.courses := (congrArg State.courses h :)
theorem tables (h : Recorded s t) : t.tables = s.tables := (congrArg State.tables h :)
theorem dev (h : Recorded s t) : t.dev = s.dev := (congrArg State.dev h :)

end Recorded

variable {s t : State}

theorem Carried.recorded (h : Carried s t) : Recorded s t := by
  obtain ⟨hrest, -, -, -⟩ := h
  have ha : t.async = s.async := (congrArg State.async hrest :)
  unfold Recorded
  rw [← ha]
  exact hrest

theorem poke_recorded (s : State) (l : Loc) (bs : List Byte) : Recorded s (s.poke l bs) := poke_rest s l bs

theorem writeRange_recorded {w : Who} {a : Word} {bs : List Byte} (h : s.writeRange w a bs = .ok t) : Recorded s t := by
  unfold State.writeRange at h
  split at h
  · cases h
  · next l _ =>
    cases h
    exact List.foldlRecOn (motive := fun x : State × List Byte => Recorded s x.1) l _ (Recorded.refl s)
      (fun x hx p _ => hx.trans (poke_recorded _ _ _))

theorem errEntry_recorded (s : State) (ctx : Nat) (r : Record) : Recorded s (s.errEntry ctx r) := by
  have hlost (t : State) (r : Record) : Recorded t (t.ringWrite r) := (ringWrite_carried t r).recorded
  unfold State.errEntry
  extract_lets _ _ _ raised
  have hr : Recorded s raised := rfl
  split
  · exact hlost _ _
  split
  · exact hlost _ _
  extract_lets
  split
  · exact hlost _ _
  next h1 =>
  have h1 := hr.trans (writeRange_recorded h1)
  split
  · exact h1.trans (hlost _ _)
  · next h2 => exact h1.trans (writeRange_recorded h2)

theorem emit_recorded (s : State) (e : Ev) : Recorded s (s.emit e) := (emit_carried s e).recorded

theorem emitErr_recorded (s : State) (ctx : Nat) (e : Ev) : Recorded s (s.emitErr ctx e) :=
  ((resetMark_carried s).recorded.trans (emit_recorded _ e)).trans (errEntry_recorded _ ctx _)

@[simp] theorem emitErr_courses (s : State) (ctx : Nat) (e : Ev) : (s.emitErr ctx e).courses = s.courses := (emitErr_recorded s ctx e).courses
@[simp] theorem emitErr_tables (s : State) (ctx : Nat) (e : Ev) : (s.emitErr ctx e).tables = s.tables := (emitErr_recorded s ctx e).tables
@[simp] theorem emitErr_dev (s : State) (ctx : Nat) (e : Ev) : (s.emitErr ctx e).dev = s.dev := (emitErr_recorded s ctx e).dev

/-- What stays outside the rings at each of two steps stays over both, as long as the store's place does. -/
theorem keptOutside_trans {u : State} (h : MemoryKept s t) (hp : t.firn.base = s.firn.base ∧ t.firn.size = s.firn.size ∧ t.firn.opsz = s.firn.opsz)
    (k : MemoryKept t u) : MemoryKept s u := by
  obtain ⟨hbase, hsize, hopsz⟩ := hp
  intro l hl
  rw [← h l hl]
  refine k l ?_
  unfold outsideRings
  rw [hbase, hsize, hopsz]
  exact hl

theorem registersKept_trans {u : State} (h : RegistersKept s t) (k : RegistersKept t u) : RegistersKept s u := fun i => (k i).trans (h i)

/-- The store of event records stays where it lies. -/
theorem Carried.at_place (h : Carried s t) : t.firn.base = s.firn.base ∧ t.firn.size = s.firn.size ∧ t.firn.opsz = s.firn.opsz := by
  obtain ⟨-, ⟨hbase, hsize, hopsz, -⟩, -, -⟩ := h
  exact ⟨hbase, hsize, hopsz⟩

/-! ## Reads of memory by what they depend on -/

/-- The memories, the domain and the work are all that an access goes by. -/
structure SameReads (s t : State) : Prop where
  mem  : t.mem = s.mem
  time : t.time = s.time
  work : t.work = s.work

theorem leafPlace_congr (h : SameReads s t) (e phys : Nat) (acc : Access) (die : Bool) : leafPlace t e phys acc die = leafPlace s e phys acc die := by
  obtain ⟨-, htime, -⟩ := h
  unfold leafPlace State.devNo State.domainSize
  rw [htime]

theorem walkFrom_congr (h : SameReads s t) (va : Nat) (acc : Access) (die : Bool) (levels : List (Nat × Nat × Nat)) (base : Nat)
    (lines : List Nat) : walkFrom t va acc die levels base lines = walkFrom s va acc die levels base lines := by
  induction levels generalizing base lines with
  | nil => rfl
  | cons x rest ih =>
    obtain ⟨level, shift, width⟩ := x
    simp only [walkFrom, leafPlace_congr h, ih, h.mem]

theorem place_congr (h : SameReads s t) (w : Who) (acc : Access) (a : Word) : t.place w acc a = s.place w acc a := by
  have hwalk (root va : Nat) (die : Bool) : walk t root va acc die = walk s root va acc die := by
    simp only [walk, walkFrom_congr h]
  unfold State.place
  simp only [hwalk, h.work]

theorem homes_congr (h : SameReads s t) (w : Who) (acc : Access) (a : Word) (f n : Nat) : t.homes w acc a f n = s.homes w acc a f n := by
  induction f generalizing a n with
  | zero => rfl
  | succ f ih => simp only [State.homes, State.home, place_congr h, ih]

theorem readRange_congr (h : SameReads s t) (w : Who) (a : Word) (n : Nat) : t.readRange w a n = s.readRange w a n := by
  simp only [State.readRange, homes_congr h, State.peekList, h.mem]

/-- A range that reads gives no more bytes than were asked for. -/
theorem homes_length {w : Who} {acc : Access} {a : Word} {f n : Nat} {l : List (Loc × Nat)} (h : s.homes w acc a f n = .ok l) :
    (l.map (·.2)).sum ≤ n := by
  induction f generalizing a n l with
  | zero => cases h; simp
  | succ f ih =>
    simp only [State.homes] at h
    split at h
    · cases h; simp
    split at h
    · cases h
    split at h
    · cases h
    · next ht =>
      cases h
      have := ih ht
      simp only [List.map_cons, List.sum_cons]
      omega

theorem readList_length (m : Memory) (a n : Nat) : (Memory.readList m a n).length = n := by
  induction n generalizing a with
  | zero => rfl
  | succ n ih => simp [Memory.readList, ih]

theorem readRange_length {w : Who} {a : Word} {n : Nat} {b : List Byte} (h : s.readRange w a n = .ok b) : b.length ≤ n := by
  unfold State.readRange at h
  split at h
  · cases h
  · next l hl =>
    cases h
    have := homes_length hl
    simpa [List.length_flatMap, State.peekList, readList_length] using this

theorem leNat_lt (b : List Byte) : leNat b < 256 ^ b.length := by
  induction b with
  | nil => simp [leNat]
  | cons x t ih =>
    have := x.isLt
    simp only [leNat, List.length_cons, Nat.pow_succ]
    omega

/-- A number read whole from n bytes. -/
theorem leNat_readRange_lt {w : Who} {a : Word} {n : Nat} {b : List Byte} (h : s.readRange w a n = .ok b) : leNat b < 256 ^ n :=
  (leNat_lt b).trans_le (Nat.pow_le_pow_right (by omega) (readRange_length h))

/-- A disabled context reads nothing by itself: it has no tables, and no skein or launch either (R54). -/
theorem readRange_disabled {ctx : Nat} (h : (s.ctxEntry ctx).ptroot = 0) (a : Word) {n : Nat} (hn : n ≠ 0) :
    ∃ e, s.readRange (s.whoOf ctx) a n = .error e := by
  have hwalk (va : Nat) (acc : Access) (die : Bool) : walk s (s.whoOf ctx).root va acc die = .error ⟨Xlate.notValid, []⟩ := by
    simp [walk, State.whoOf, h]
  have hplace : ∃ e, s.place (s.whoOf ctx) .load a = .error e := by
    unfold State.place
    simp only [hwalk]
    split
    · split <;> exact ⟨_, rfl⟩
    · exact ⟨_, rfl⟩
    · split <;> exact ⟨_, rfl⟩
    · exact ⟨_, rfl⟩
    · exact ⟨_, rfl⟩
    · exact ⟨_, rfl⟩
  obtain ⟨e, he⟩ := hplace
  refine ⟨e, ?_⟩
  simp [State.readRange, State.homes, State.home, he, hn]

/-! ## Numbers stored apart (R8) -/

theorem peek_pokeNat_ne {l x : Loc} {n v : Nat} (h : x.store ≠ l.store ∨ x.addr < l.addr ∨ l.addr + n ≤ x.addr) :
    (s.pokeNat l n v).peek x = s.peek x := by
  unfold State.pokeNat
  rw [peek_poke, if_neg]
  rw [leBytes_length]
  rintro ⟨hs, h1, h2⟩
  rcases h with h | h
  · exact h hs
  · omega

theorem readNat_congr {m m' : Memory} {a n : Nat} (h : ∀ j < n, Memory.read m' (a + j) = Memory.read m (a + j)) :
    Memory.readNat m' a n = Memory.readNat m a n := by
  induction n generalizing a with
  | zero => rfl
  | succ n ih =>
    have h0 : Memory.read m' a = Memory.read m a := h 0 (Nat.succ_pos n)
    have ht := ih (a := a + 1) (fun j hj => by rw [Nat.add_assoc, Nat.add_comm 1]; exact h (j + 1) (Nat.succ_lt_succ hj))
    simp only [Memory.readNat, h0, ht]

theorem peekNat_pokeNat_ne {l x : Loc} {n m v : Nat} (h : x.store ≠ l.store ∨ x.addr + m ≤ l.addr ∨ l.addr + n ≤ x.addr) :
    (s.pokeNat l n v).peekNat x m = s.peekNat x m :=
  readNat_congr (fun j hj => peek_pokeNat_ne (s := s) (l := l) (x := ⟨x.store, x.addr + j⟩) (h.imp_right (fun _ => by simp only; omega)))

end Sys2Proof.Laws
end

section
/-! A context's kill tears down its skeins, launches and instances, and spares the other contexts and every course's registers (R401). Each
function that a kill runs has one lemma here, `<function>_spares`, that follows its cases and cites those of the functions it calls. -/
namespace Sys2Proof.Laws
open Sys2Proof.Machine Sys2Proof.Safety

variable {s t : State}

/-! ## What is spared -/

/-- Every course is still there, and whatever stands in a course's place has its registers. -/
def SameRegisters (l l' : KMap Course) : Prop :=
  (∀ x' ∈ l', ∃ x ∈ l, x.1 = x'.1 ∧ registers x.2 = registers x'.2) ∧ ∀ k, (kget l k).isSome → (kget l' k).isSome

/-- What every part of a kill spares of the state it began with: the context table and the courses' registers. -/
def Spared (b s : State) : Prop := s.tables.contexts = b.tables.contexts ∧ SameRegisters b.courses s.courses

theorem SameRegisters.refl (l : KMap Course) : SameRegisters l l := ⟨fun x h => ⟨x, h, rfl, rfl⟩, fun _ => id⟩

/-- Whatever stood in its place, a course with the registers it had there may be put. -/
theorem SameRegisters.kset {l l' : KMap Course} {k : Nat} {c : Course} (h : SameRegisters l l')
    (hc : ∃ x ∈ l, x.1 = k ∧ registers x.2 = registers c) : SameRegisters l (kset l' k c) := by
  obtain ⟨hall, hsome⟩ := h
  refine ⟨fun x' hx' => ?_, fun j hj => isSome_kget_kset k c (hsome j hj)⟩
  rcases mem_kset hx' with rfl | hx'
  · exact hc
  · exact hall x' hx'

theorem SameRegisters.kmapVals {l l' : KMap Course} {f : Nat → Course → Course} (h : SameRegisters l l')
    (hf : ∀ k c, registers (f k c) = registers c) : SameRegisters l (kmapVals l' f) := by
  obtain ⟨hall, hsome⟩ := h
  refine ⟨fun x' hx' => ?_, fun j hj => ?_⟩
  · obtain ⟨y, hy, rfl⟩ := List.mem_map.1 hx'
    obtain ⟨x, hx, hk, hr⟩ := hall y hy
    exact ⟨x, hx, hk, hr.trans (hf _ _).symm⟩
  · rw [kget_kmapVals, Option.isSome_map]
    exact hsome j hj

/-- Where no key repeats, the course of each key keeps its registers. -/
theorem SameRegisters.kget {l l' : KMap Course} (h : SameRegisters l l') (hl : (kkeys l).Nodup) {k : Nat} {c : Course}
    (hc : kget l k = some c) : (kget l' k).map registers = some (registers c) := by
  obtain ⟨hall, hsome⟩ := h
  obtain ⟨c', hc'⟩ := Option.isSome_iff_exists.1 (hsome k (by rw [hc]; rfl))
  obtain ⟨⟨j, x⟩, hx, hk, hr⟩ := hall _ (mem_of_kget hc')
  cases hk
  have : x = c := Option.some.inj ((kget_of_mem hl hx).symm.trans hc)
  rw [hc', Option.map_some, ← hr, this]

section
variable {b : State}

theorem Spared.refl (s : State) : Spared s s := ⟨rfl, SameRegisters.refl _⟩

/-- Bytes and records spare the courses and the tables. -/
theorem Recorded.spares (k : Recorded s t) (h : Spared b s) : Spared b t := by
  unfold Spared
  rw [k.tables, k.courses]
  exact h

theorem emit_spares {e : Ev} (h : Spared b s) : Spared b (s.emit e) := (emit_recorded s e).spares h
theorem emitErr_spares {ctx : Nat} {e : Ev} (h : Spared b s) : Spared b (s.emitErr ctx e) := (emitErr_recorded s ctx e).spares h
theorem writeRange_spares {w : Who} {a : Word} {bs : List Byte} (e : s.writeRange w a bs = .ok t) (h : Spared b s) : Spared b t :=
  (writeRange_recorded e).spares h

theorem foldl_spares {α : Type} {f : State → α → State} {l : List α} (hf : ∀ t, ∀ x ∈ l, Spared b t → Spared b (f t x)) (h : Spared b s) :
    Spared b (l.foldl f s) :=
  List.foldlRecOn l f h (fun t ht x hx => hf t x hx ht)

/-! ### Counters -/

theorem wakeCounter_spares {i : Nat} (h : Spared b s) : Spared b (s.wakeCounter i) := by
  obtain ⟨hctx, hreg⟩ := h
  unfold State.wakeCounter
  extract_lets
  refine ⟨hctx, ?_⟩
  dsimp only
  exact hreg.kmapVals (fun _ _ => rfl)

theorem fireArmed_spares {ctx i cnum cause parent} (h : Spared b s) : Spared b (s.fireArmed ctx i cnum cause parent) := by
  unfold State.fireArmed
  exact foldl_spares (fun _ _ _ h => emit_spares (emit_spares h)) h

theorem signalWord_spares {ctx e w dev key cause parent} (h : Spared b s) : Spared b (s.signalWord ctx e w dev key cause parent) := by
  unfold State.signalWord
  extract_lets
  split
  · exact h
  split
  · exact h
  unfold State.signal
  extract_lets
  split
  · exact h
  · exact wakeCounter_spares (fireArmed_spares h)

theorem poison_spares {ctx i cnum cause parent} (h : Spared b s) : Spared b (s.poison ctx i cnum cause parent) :=
  emit_spares (wakeCounter_spares h)

theorem poisonQuota_spares {ctx e cause parent} (h : Spared b s) : Spared b (s.poisonQuota ctx e cause parent) := by
  unfold State.poisonQuota
  refine foldl_spares (fun t n _ h => ?_) h
  split
  · exact poison_spares h
  · exact h

/-! ### Trace buffers -/

theorem traceLost_spares {l v} (h : Spared b s) : Spared b (s.traceLost l v) := by
  unfold State.traceLost
  extract_lets
  split
  · exact h
  · next e => exact writeRange_spares e h

theorem traceSuspend_spares {l v a} (h : Spared b s) : Spared b (s.traceSuspend l v a) := by
  unfold State.traceSuspend
  extract_lets _ _ s1
  have h1 : Spared b s1 := by
    unfold s1
    split
    · exact h
    next e1 =>
    split
    · exact writeRange_spares e1 h
    · next e2 => exact writeRange_spares e2 (writeRange_spares e1 h)
  exact traceLost_spares h1

theorem traceEv_spares {l e} (h : Spared b s) : Spared b (s.traceEv l e) := by
  unfold State.traceEv State.traceRecord
  split
  · exact h
  split
  · exact h
  split
  · exact traceLost_spares h
  extract_lets
  split
  · exact traceSuspend_spares h
  extract_lets
  split
  · exact traceSuspend_spares h
  next e1 =>
  split
  · exact traceSuspend_spares (writeRange_spares e1 h)
  · next e2 => exact writeRange_spares e2 (writeRange_spares e1 h)

/-! ### Skeins -/

theorem acquireEngine_spares {core pslot} (h : Spared b s) : Spared b (s.acquireEngine core pslot) := emit_spares h

theorem releaseEngine_spares {core} (h : Spared b s) : Spared b (s.releaseEngine core) := by
  unfold State.releaseEngine
  split
  · exact h
  extract_lets
  split
  · exact emit_spares h
  · exact acquireEngine_spares (emit_spares h)

theorem newHead_spares (h : Spared b s) : Spared b s.newHead := by
  unfold State.newHead
  extract_lets
  split
  · exact h
  · exact h

/-- A course that stops keeps its registers; only data on their way to them may no longer come. -/
theorem stopCourse_spares {ctx core slot c} (hc : ∃ x ∈ b.courses, x.1 = courseKey core slot ∧ registers x.2 = registers c)
    (h : Spared b s) : Spared b (s.stopCourse ctx core slot c) := by
  obtain ⟨hctx, hreg⟩ := h
  refine ⟨hctx, hreg.kset ?_⟩
  obtain ⟨x, hx, hk, hr⟩ := hc
  refine ⟨x, hx, hk, hr.trans ?_⟩
  split <;> simp [registers, Vector.toList_map]

/-- The courses of a skein are courses of the table, in their places. -/
theorem mem_skeinCourses {sk core slot : Nat} {c : Course} (h : (core, slot, c) ∈ s.skeinCourses sk) :
    (courseKey core slot, c) ∈ s.courses := by
  unfold State.skeinCourses State.coursesWhere at h
  obtain ⟨⟨k, d⟩, hm, he⟩ := List.mem_map.1 h
  cases he
  have hk : courseKey (k / 32) (k % 32) = k := by unfold courseKey; omega
  rw [hk]
  exact (List.mem_filter.1 hm).1

theorem tearSkein_spares {ctx sk} (h : Spared b s) : Spared b (s.tearSkein ctx sk) := by
  unfold State.tearSkein
  extract_lets _ s1 s2
  have h1 : Spared b s1 := by
    unfold s1
    exact foldl_spares (fun _ x hx h' => stopCourse_spares (h.2.1 _ (mem_skeinCourses hx)) h') h
  have h2 : Spared b s2 := by
    unfold s2
    refine foldl_spares (fun t x _ h => ?_) h1
    change Spared b (ite _ _ _)
    split
    · exact releaseEngine_spares h
    · exact h
  have h3 : Spared b (s2.forgetSkein sk) := newHead_spares h2
  exact h3

/-! ### Launches and instances -/

theorem tellJoined_spares {launch n cause departs} (h : Spared b s) : Spared b (s.tellJoined launch n cause departs) := by
  unfold State.tellJoined
  split
  · exact h
  · exact foldl_spares (fun _ _ _ h => h) h

theorem writePieces_spares {w l} (h : Spared b s) : Spared b (s.writePieces w l).1 := by
  induction l generalizing s with
  | nil => exact h
  | cons p l ih =>
    unfold State.writePieces
    split
    · exact h
    · next e => exact ih (writeRange_spares e h)

theorem writeStats_spares {l v status} (h : Spared b s) : Spared b (s.writeStats l v status).1 := by
  unfold State.writeStats
  split
  · exact h
  · exact writePieces_spares h

theorem finishLaunch_spares {l status applied} (h : Spared b s) : Spared b (s.finishLaunch l status applied) := by
  unfold State.finishLaunch
  split
  · exact h
  split
  next s1 _ _ e =>
  have h1 : Spared b s1 := by
    have := writeStats_spares (l := l) (v := ‹Launch›) (status := status) h
    rwa [e] at this
  extract_lets _ s2 s3 _ s4
  have h2 : Spared b s2 := by
    refine foldl_spares (fun _ _ _ h => ?_) h1
    split
    · exact tellJoined_spares h
    · exact h
  have h3 : Spared b s3 := by
    unfold s3
    split
    · exact traceEv_spares h2
    · exact h2
  have h4 : Spared b s4 := by
    unfold s4
    split
    · exact h3
    · exact emit_spares h3
  exact emit_spares h4

theorem instanceDone_spares {gi g} (h : Spared b s) : Spared b (s.instanceDone gi g) := by
  unfold State.instanceDone
  extract_lets
  split
  next s1 lost e =>
  have h1 : Spared b s1 := by
    split at e
    · next e' => cases e; exact writeRange_spares e' h
    · cases e; exact h
  extract_lets s2 ev s3
  have h2 : Spared b s2 := signalWord_spares h1
  have h3 : Spared b s3 := by
    unfold s3
    split
    · exact emitErr_spares h2
    · exact emit_spares h2
  exact h3

theorem checkInstance_spares {gi} (h : Spared b s) : Spared b (s.checkInstance gi) := by
  unfold State.checkInstance
  split
  · exact h
  split
  · exact instanceDone_spares h
  · exact h

/-- The state a kill goes on from: its two records, and the context marked. -/
def killMarked (s : State) (ctx : Nat) (reason : BitVec 4) (k : KillInfo) : State :=
  let s := s.killRecords ctx reason k
  { s with tables := { s.tables with contexts := kset s.tables.contexts ctx { entry := s.ctxEntry ctx, killed := true } } }

theorem kill_spares (s : State) (ctx : Nat) (reason : BitVec 4) (k : KillInfo) : Spared (killMarked s ctx reason k) (s.kill ctx reason k) := by
  unfold State.kill
  extract_lets _ _ _ s2 _ _ _ _ s3 s4 _ _ _ _ _ s6 _ _ _ s8
  have h2 : Spared (killMarked s ctx reason k) s2 := Spared.refl s2
  generalize killMarked s ctx reason k = b at h2 ⊢
  clear_value s2
  have h3 : Spared b s3 := foldl_spares (fun _ _ _ h => h) h2
  have h4 : Spared b s4 := foldl_spares (fun _ _ _ h => tearSkein_spares h) h3
  have h6 : Spared b s6 := poisonQuota_spares h4
  have h8 : Spared b s8 := foldl_spares (fun _ _ _ h => finishLaunch_spares h) h6
  exact foldl_spares (fun _ _ _ h => checkInstance_spares (foldl_spares (fun _ _ _ h => h) h)) h8

/-- A kill marks its context and no other (R401 step 1). -/
theorem kill_ctxKilled (s : State) (ctx : Nat) (reason : BitVec 4) (k : KillInfo) (j : Nat) :
    (s.kill ctx reason k).ctxKilled j = (j == ctx || s.ctxKilled j) := by
  obtain ⟨hctx, -⟩ := kill_spares s ctx reason k
  unfold State.ctxKilled
  rw [hctx]
  simp only [killMarked, State.killRecords, emitErr_tables, kget_kset]
  by_cases h : j = ctx <;> simp [h]

/-- A kill leaves every course its registers, also the stopped ones. -/
theorem kill_registersKept {s : State} (hs : (kkeys s.courses).Nodup) {key : Nat} {c : Course} (hc : kget s.courses key = some c)
    (ctx : Nat) (reason : BitVec 4) (k : KillInfo) : (kget (s.kill ctx reason k).courses key).map registers = some (registers c) := by
  obtain ⟨-, hreg⟩ := kill_spares s ctx reason k
  have he : (killMarked s ctx reason k).courses = s.courses := by simp [killMarked, State.killRecords]
  rw [he] at hreg
  exact hreg.kget hs hc
end

end Sys2Proof.Laws
end

section
/-! The management block (R28, R51 to R60, R71, R352, R377, R401): what an operator's writes do. -/
namespace Sys2Proof.Laws
open Sys2Proof.Machine Sys2Proof.Safety

variable {s t : State}

/-! ## Who writes (R17, R51) -/

theorem operate_operator (hp : s.dev.powered = true) (hr : s.dev.recovery = false) (f : State → State) : s.operate .operator f = f s := by
  simp [State.operate, hp, hr]

/-! ## DOMAIN (R52) -/

theorem domainOk_iff (v : Word) :
    domainOk v = true ↔ 8 ≤ bitsOf v.toNat 12 8 ∧ bitsOf v.toNat 12 8 ≤ 16 ∧ bitsOf v.toNat 3 0 < bitsOf v.toNat 12 8 := by
  simp [domainOk, and_assoc]

theorem exec_domainWrite (hp : s.dev.powered = true) (hr : s.dev.recovery = false) (v : Word) : exec (.domainWrite .operator v) s =
    .next (if domainOk v then
      (if s.anyPortUp then { s with time := { s.time with nextDomain := some (v &&& 0xFF011F0F) } }
       else { s with time := { s.time with domain := v &&& 0xFF011F0F, nextDomain := none } }) else s) := by
  change Host.Outcome.next (s.operate .operator _) = _
  rw [operate_operator hp hr]
  cases domainOk v <;> rfl

/-! ## Fields of a queue entry (R57) -/

/-- The bits of an image whose bytes were replaced: those of the replacement in its place, and the others as they were. -/
theorem testBit_replaceBytes (x off n v i : Nat) : (replaceBytes x off n v).testBit i =
    if i < 8 * off then x.testBit i else if i < 8 * (off + n) then v.testBit (i - 8 * off) else x.testBit i := by
  have he : replaceBytes x off n v = 2 ^ (8 * off) * (2 ^ (8 * n) * (x >>> (8 * (off + n))) + v % 2 ^ (8 * n)) + x % 2 ^ (8 * off) := by
    rw [replaceBytes, Nat.shiftLeft_eq, Nat.mul_add 8, Nat.pow_add]
    ring
  rw [he, Nat.testBit_two_pow_mul_add _ (Nat.mod_lt _ (Nat.two_pow_pos _))]
  split
  · next h => simp [Nat.testBit_mod_two_pow, h]
  · next h =>
    rw [Nat.testBit_two_pow_mul_add _ (Nat.mod_lt _ (Nat.two_pow_pos _))]
    by_cases hi : i < 8 * (off + n)
    · rw [if_pos (by omega), if_pos hi, Nat.testBit_mod_two_pow, decide_eq_true (by omega), Bool.true_and]
    · rw [if_neg (by omega), if_neg hi, Nat.testBit_shiftRight]
      congr 1; omega

/-- A field outside the replaced bytes. -/
theorem ofNat_replaceBytes_outside {x off n v a w : Nat} (h : a + w ≤ 8 * off ∨ 8 * (off + n) ≤ a) :
    BitVec.ofNat w (replaceBytes x off n v >>> a) = BitVec.ofNat w (x >>> a) := by
  apply BitVec.eq_of_getLsbD_eq
  intro i hi
  simp only [BitVec.getLsbD_ofNat, Nat.testBit_shiftRight, testBit_replaceBytes]
  split
  · rfl
  · rw [if_neg (by omega)]

/-- A field that is the replaced bytes, or the low part of them. -/
theorem ofNat_replaceBytes_inside {x off n v a w : Nat} (ha : a = 8 * off) (hw : w ≤ 8 * n) :
    BitVec.ofNat w (replaceBytes x off n v >>> a) = BitVec.ofNat w v := by
  apply BitVec.eq_of_getLsbD_eq
  intro i hi
  simp only [BitVec.getLsbD_ofNat, Nat.testBit_shiftRight, testBit_replaceBytes]
  rw [if_neg (by omega), if_pos (by omega), show a + i - 8 * off = i by omega]

/-- The fields of an entry's image. -/
theorem image_fields (x : Queue) (hq : x.qclass.toNat < 4) :
    BitVec.ofNat 64 (x.image >>> 0) = x.qbase ∧ BitVec.ofNat 64 (x.image >>> 64) = x.tailaddr ∧ BitVec.ofNat 64 (x.image >>> 128) = x.headaddr ∧
      BitVec.ofNat 16 (x.image >>> 192) = x.ctx ∧ BitVec.ofNat 8 (x.image >>> 208) = x.log2size ∧
      (BitVec.ofNat 2 (x.image >>> 216)).setWidth 8 = x.qclass := by
  have h1 := x.qbase.isLt
  have h2 := x.tailaddr.isLt
  have h3 := x.headaddr.isLt
  have h4 := x.ctx.isLt
  have h5 := x.log2size.isLt
  refine ⟨?_, ?_, ?_, ?_, ?_, ?_⟩ <;> apply BitVec.eq_of_toNat_eq <;>
    simp only [BitVec.toNat_setWidth, BitVec.toNat_ofNat, Queue.image, Nat.shiftRight_eq_div_pow] <;> omega

/-- The entry that an image's driver fields make. -/
theorem drive_eq (x : Queue) (i : Nat) : x.drive i =
    { x with qbase := BitVec.ofNat 64 (i >>> 0), tailaddr := BitVec.ofNat 64 (i >>> 64), headaddr := BitVec.ofNat 64 (i >>> 128),
             ctx := BitVec.ofNat 16 (i >>> 192), log2size := BitVec.ofNat 8 (i >>> 208),
             qclass := (BitVec.ofNat 2 (i >>> 216)).setWidth 8 } := by
  have h : BitVec.ofNat 8 (bitsOf i 217 216) = (BitVec.ofNat 2 (i >>> 216)).setWidth 8 := by
    apply BitVec.eq_of_toNat_eq
    simp [bitsOf]
  simp [Queue.drive, h]

/-- A driver's write of one whole field sets it and leaves the others. -/
theorem drive_replaceBytes (x : Queue) (hq : x.qclass.toNat < 4) (off n : Nat) (v : Word) :
    (off = 0 ∧ n = 8 → x.drive (replaceBytes x.image off n v.toNat) = { x with qbase := v }) ∧
    (off = 8 ∧ n = 8 → x.drive (replaceBytes x.image off n v.toNat) = { x with tailaddr := v }) ∧
    (off = 16 ∧ n = 8 → x.drive (replaceBytes x.image off n v.toNat) = { x with headaddr := v }) ∧
    (off = 24 ∧ n = 2 → x.drive (replaceBytes x.image off n v.toNat) = { x with ctx := v.setWidth 16 }) ∧
    (off = 26 ∧ n = 1 → x.drive (replaceBytes x.image off n v.toNat) = { x with log2size := v.setWidth 8 }) ∧
    (off = 27 ∧ n = 1 → x.drive (replaceBytes x.image off n v.toNat) = { x with qclass := v.setWidth 8 &&& 3 }) := by
  obtain ⟨hqbase, htail, hhead, hctx, hsize, hclass⟩ := image_fields x hq
  have hand : (v.setWidth 2).setWidth 8 = v.setWidth 8 &&& (3 : BitVec 8) := by
    apply BitVec.eq_of_toNat_eq
    rw [BitVec.toNat_and, show (3 : BitVec 8).toNat = 2 ^ 2 - 1 from rfl, Nat.and_two_pow_sub_one_eq_mod]
    simp only [BitVec.toNat_setWidth]
    omega
  refine ⟨?_, ?_, ?_, ?_, ?_, ?_⟩ <;> rintro ⟨rfl, rfl⟩ <;> rw [drive_eq] <;>
    simp (disch := omega) only [ofNat_replaceBytes_outside, ofNat_replaceBytes_inside, hqbase, htail, hhead, hctx, hsize, hclass,
      BitVec.ofNat_toNat, BitVec.setWidth_eq, hand]

/-- A write inside one entry of the queue table. -/
theorem exec_queueFieldWrite (hp : s.dev.powered = true) (hr : s.dev.recovery = false) {q o n : Nat} (hq : q < 1024) (ho : o < 64)
    (hn : o + n ≤ 64) (v : Word) :
    exec (.managementRegisterWrite .operator (0x10000 + 64 * q + o) n v) s = .next (s.writeQueueField q o n v.toNat) := by
  change Host.Outcome.next (s.operate .operator _) = _
  rw [operate_operator hp hr]
  have h38 : (0x10000 + 64 * q + o == 0x38 && n == 8) = false := by
    rw [Bool.and_eq_false_iff]; left; rw [beq_eq_false_iff_ne]; omega
  have hdiv : (0x10000 + 64 * q + o - 0x10000) / 64 = q := by omega
  have hmod : (0x10000 + 64 * q + o) % 64 = o := by omega
  simp only [h38, hdiv, hmod]
  rw [if_neg (by simp), if_pos (by simp; omega), if_pos hn]

/-! ## Changes of one queue's entry -/

/-- Only the entry of one queue differs. -/
def QueueOnly (q : Nat) (s t : State) : Prop :=
  ({ t with tables := { t.tables with queues := s.tables.queues } } : State) = s ∧ ∀ r, r ≠ q → t.queue r = s.queue r

theorem QueueOnly.refl (q : Nat) (s : State) : QueueOnly q s s := ⟨rfl, fun _ _ => rfl⟩

theorem QueueOnly.setQueue {q : Nat} (h : QueueOnly q s t) (x : Queue) : QueueOnly q s (t.setQueue q x) := by
  obtain ⟨hrest, hother⟩ := h
  exact ⟨hrest, fun r hr => (queue_setQueue_ne _ _ _ _ hr).trans (hother r hr)⟩

theorem writeQueueField_only (s : State) (q off n v : Nat) : QueueOnly q s (s.writeQueueField q off n v) := by
  unfold State.writeQueueField
  extract_lets
  split
  · exact QueueOnly.refl q s
  · exact (QueueOnly.refl q s).setQueue _

theorem writeQueueField_running {q : Nat} (h : (s.queue q).state ≠ 0) (off n v : Nat) : s.writeQueueField q off n v = s :=
  if_pos (bne_iff_ne.2 h)

theorem queue_writeQueueField {q : Nat} (h : (s.queue q).state = 0) (off n v : Nat) :
    (s.writeQueueField q off n v).queue q = (s.queue q).drive (replaceBytes (s.queue q).image off n v) := by
  simp [State.writeQueueField, h, queue_setQueue_self]

theorem loadPacket_only {q : Nat} (h : QueueOnly q s t) : QueueOnly q s (t.loadPacket q) := by
  unfold State.loadPacket
  extract_lets
  split
  · exact h.setQueue _
  · exact h

theorem queue_loadPacket (s : State) (q : Nat) : (s.loadPacket q).queue q =
    if s.packetUnread (s.queue q) then { s.queue q with packet := some (s.readPacket (s.queue q)) } else s.queue q := by
  unfold State.loadPacket
  extract_lets x
  split
  · exact queue_setQueue_self s q _
  · rfl

/-! ## A queue starts (R57, R58) -/

/-- A running queue whose tail is in range takes it, and its head packet. -/
theorem readTail_running {q : Nat} {b : List Byte} (hrun : (s.queue q).state = 1)
    (hb : s.readRange (s.whoOf (s.queue q).ctx.toNat) (s.queue q).tailaddr 8 = .ok b) (hlow : (s.queue q).head.toNat ≤ leNat b)
    (hhigh : leNat b ≤ (s.queue q).head.toNat + 2 ^ (s.queue q).log2size.toNat) :
    s.readTail q = (s.setQueue q { s.queue q with tail := BitVec.ofNat 64 (leNat b) }).loadPacket q := by
  unfold State.readTail
  extract_lets x
  rw [if_neg (by simp [x, hrun])]
  simp only [x, hb]
  rw [if_neg (by simp; omega)]

theorem setQueue_sameReads (s : State) (q : Nat) (x : Queue) : SameReads s (s.setQueue q x) := ⟨rfl, rfl, rfl⟩

theorem readPacket_setQueue (s : State) (q : Nat) (x y : Queue) : (s.setQueue q x).readPacket y = s.readPacket y := by
  unfold State.readPacket
  rw [readRange_congr (setQueue_sameReads s q x)]
  rfl

/-- A queue's entry when it has started from the words in memory, before its head packet is read. -/
def queueStarted (x : Queue) (head tail : Nat) : Queue :=
  { x with state := 1, head := BitVec.ofNat 64 head, tail := BitVec.ofNat 64 tail, packet := none, waiting := none }

theorem queueStarted_head {head : Nat} (h : head < 2 ^ 64) (x : Queue) (tail : Nat) : (queueStarted x head tail).head.toNat = head := by
  simp only [queueStarted, BitVec.toNat_ofNat]
  omega

theorem queueStarted_tail {tail : Nat} (h : tail < 2 ^ 64) (x : Queue) (head : Nat) : (queueStarted x head tail).tail.toNat = tail := by
  simp only [queueStarted, BitVec.toNat_ofNat]
  omega

/-- A started queue of an enabled context has a packet to read when its tail is past its head. -/
theorem packetUnread_queueStarted {x : Queue} {head tail : Nat} (hr : (s.ctxEntry x.ctx.toNat).ptroot ≠ 0) (hh : head < 2 ^ 64)
    (ht : tail < 2 ^ 64) : s.packetUnread (queueStarted x head tail) = decide (head < tail) := by
  simp only [State.packetUnread, queueStarted_head hh, queueStarted_tail ht]
  change ((1 : Byte) == 1 && true && decide (head < tail) && (s.ctxEntry x.ctx.toNat).ptroot != 0) = _
  rw [bne_iff_ne.2 hr]
  simp

/-- A queue that may start runs from the words in memory, and its head packet is read if there is one. -/
theorem exec_queueStateRun (hp : s.dev.powered = true) (hr : s.dev.recovery = false) {q : Nat} {hb tb : List Byte} (hq : q < 1024)
    (hstate : (s.queue q).state ≠ 3) (hstart : (s.queue q).startable = true)
    (hhead : s.readRange (s.whoOf (s.queue q).ctx.toNat) (s.queue q).headaddr 8 = .ok hb)
    (htail : s.readRange (s.whoOf (s.queue q).ctx.toNat) (s.queue q).tailaddr 8 = .ok tb)
    (hlow : leNat hb ≤ leNat tb) (hhigh : leNat tb ≤ leNat hb + 2 ^ (s.queue q).log2size.toNat) :
    ∃ t, exec (.queueStateRun .operator q) s = .next t ∧ QueueOnly q s t ∧
      t.queue q = if leNat hb < leNat tb
        then { queueStarted (s.queue q) (leNat hb) (leNat tb) with packet := some (s.readPacket (queueStarted (s.queue q) (leNat hb) (leNat tb))) }
        else queueStarted (s.queue q) (leNat hb) (leNat tb) := by
  have hroot : (s.ctxEntry (s.queue q).ctx.toNat).ptroot ≠ 0 := fun h0 => by
    obtain ⟨e, he⟩ := readRange_disabled h0 (s.queue q).headaddr (n := 8) (by omega)
    cases hhead.symm.trans he
  have hlt : leNat hb < 2 ^ 64 := leNat_readRange_lt hhead
  have htt : leNat tb < 2 ^ 64 := leNat_readRange_lt htail
  have hx : (s.setQueue q (queueStarted (s.queue q) (leNat hb) (leNat hb))).queue q = queueStarted (s.queue q) (leNat hb) (leNat hb) :=
    queue_setQueue_self s q _
  have hrt : (s.setQueue q (queueStarted (s.queue q) (leNat hb) (leNat hb))).readTail q =
      ((s.setQueue q (queueStarted (s.queue q) (leNat hb) (leNat hb))).setQueue q (queueStarted (s.queue q) (leNat hb) (leNat tb))).loadPacket q := by
    have := readTail_running (s := s.setQueue q (queueStarted (s.queue q) (leNat hb) (leNat hb))) (q := q) (b := tb) (by rw [hx]; rfl)
      (by rw [hx, readRange_congr (setQueue_sameReads s q _)]; exact htail) (by rw [hx, queueStarted_head hlt]; exact hlow)
      (by rw [hx, queueStarted_head hlt]; exact hhigh)
    rwa [hx] at this
  refine ⟨_, ?_, loadPacket_only (((QueueOnly.refl q s).setQueue (queueStarted (s.queue q) (leNat hb) (leNat hb))).setQueue
    (queueStarted (s.queue q) (leNat hb) (leNat tb))), ?_⟩
  · change Host.Outcome.next (s.operate .operator _) = _
    rw [operate_operator hp hr]
    extract_lets x
    have hlost : (x.state == 3) = false := beq_eq_false_iff_ne.2 hstate
    have hvalid : x.startable = true := hstart
    rw [if_neg (by simp only [hlost, hvalid, decide_eq_false (Nat.not_le.2 hq)]; decide)]
    simp only [x, hhead]
    exact congrArg _ hrt
  · rw [queue_loadPacket, queue_setQueue_self]
    simp only [id]
    rw [packetUnread_queueStarted (s := (s.setQueue q _).setQueue q _) hroot hlt htt, readPacket_setQueue, readPacket_setQueue]
    by_cases h : leNat hb < leNat tb <;> simp [h]

/-- An error in the queue table loses one queue and raises an event (R60). -/
theorem queueLost_spec (s : State) (q : Nat) : RegistersKept s (s.queueLost q) ∧ (s.queueLost q).dev = s.dev ∧
    (s.queueLost q).queue q = { s.queue q with state := 3, packet := none, waiting := none } ∧
    ∀ r, r ≠ q → (s.queueLost q).queue r = s.queue r := by
  unfold State.queueLost
  extract_lets x u
  refine ⟨registersKept_of_courses (emitErr_courses _ _ _), emitErr_dev _ _ _, ?_, fun r hr => ?_⟩
  · rw [State.queue, emitErr_tables]
    exact queue_setQueue_self s q _
  · rw [State.queue, emitErr_tables]
    exact queue_setQueue_ne s q r _ hr

/-! ## The firn store's header (R71) -/

/-- The header's three words lie at the base of the store. -/
theorem firnHeader_carried (s : State) : Carried s s.firnHeader := by
  unfold State.firnHeader
  split
  · exact Carried.refl s
  extract_lets at_ views
  have hput (t : State) (ht : t.firn = s.firn) (o v : Nat) (ho : o ≤ 16) : Carried t (t.pokeNat (at_ o) 8 v) :=
    Carried.poke t _ _ (fun _ => by rw [leBytes_length, ht]; omega)
  refine (hput s rfl 0 _ (by omega)).trans ((hput _ ?_ 8 _ (by omega)).trans (hput _ ?_ 16 _ (by omega))) <;> rfl

theorem firnHeader_disabled (h : s.firn.enabled = false) : s.firnHeader = s := by simp [State.firnHeader, h]

/-- What the header of an enabled store says, and that nothing else is written. -/
theorem firnHeader_enabled (h : s.firn.enabled = true) : s.firnHeader.firn = s.firn ∧
    s.firnHeader.peekNat ⟨.lpddr, s.firn.base.toNat⟩ 8 = s.firn.size.toNat ∧
    s.firnHeader.peekNat ⟨.lpddr, s.firn.base.toNat + 8⟩ 8 = s.firn.opsz.toNat ∧
    ∀ l : Loc, l.store ≠ .lpddr ∨ l.addr < s.firn.base.toNat ∨ s.firn.base.toNat + 24 ≤ l.addr → s.firnHeader.peek l = s.peek l := by
  unfold State.firnHeader
  rw [if_neg (by simp [h])]
  extract_lets at_ views
  have hsize : s.firn.size.toNat % 256 ^ 8 = s.firn.size.toNat := Nat.mod_eq_of_lt s.firn.size.isLt
  have hopsz : s.firn.opsz.toNat % 256 ^ 8 = s.firn.opsz.toNat := Nat.mod_eq_of_lt s.firn.opsz.isLt
  refine ⟨rfl, ?_, ?_, fun l hl => ?_⟩
  · rw [peekNat_pokeNat_ne (by simp only [at_]; omega), peekNat_pokeNat_ne (by simp only [at_]; omega)]
    exact (peekNat_pokeNat s (at_ 0) 8 _).trans hsize
  · rw [peekNat_pokeNat_ne (by simp only [at_]; omega)]
    exact (peekNat_pokeNat _ (at_ 8) 8 _).trans hopsz
  · have hout (o : Nat) (ho : o ≤ 16) : l.store ≠ (at_ o).store ∨ l.addr < (at_ o).addr ∨ (at_ o).addr + 8 ≤ l.addr :=
      hl.imp_right (fun _ => by simp only [at_]; omega)
    rw [peek_pokeNat_ne (hout 16 (by omega)), peek_pokeNat_ne (hout 8 (by omega)), peek_pokeNat_ne (hout 0 (by omega))]

/-! ## A context's entry (R54, R123, R352, R401) -/

/-- A counter after its quota's poison has ended. -/
def unpoisoned (e : ContextEntry) (i : Nat) (c : Counter) : Counter :=
  if e.cbase.toNat ≤ i && i < e.cbase.toNat + e.ccount.toNat then { c with poison := false } else c

theorem unpoisoned_zero (e : ContextEntry) (i : Nat) : unpoisoned e i Counter.zero = Counter.zero := by
  unfold unpoisoned
  split <;> rfl

theorem clearPoison_counters (s : State) (e : ContextEntry) : (s.clearPoison e).async.counters = s.async.counters.filterMap (fun (i, c) =>
    (if unpoisoned e i c = Counter.zero then none else some (unpoisoned e i c)).map (fun b => (i, b))) := by
  have hmap : (fun (x : Nat × Counter) => if unpoisoned e x.1 x.2 = Counter.zero then none else some (x.1, unpoisoned e x.1 x.2)) =
      fun (i, c) => (if unpoisoned e i c = Counter.zero then none else some (unpoisoned e i c)).map (fun b => (i, b)) := by
    funext ⟨i, c⟩
    simp only
    split <;> rfl
  rw [← hmap]
  rfl

/-- The end of a quota's poison (R352). -/
theorem counter_clearPoison (hs : (kkeys s.async.counters).Nodup) (e : ContextEntry) (n : Nat) :
    (s.clearPoison e).counter n =
      if e.cbase.toNat ≤ n ∧ n < e.cbase.toNat + e.ccount.toNat then { s.counter n with poison := false } else s.counter n := by
  have hget : (s.clearPoison e).counter n = unpoisoned e n (s.counter n) := by
    unfold State.counter
    rw [clearPoison_counters, kget_filterMap hs (fun i c => if unpoisoned e i c = Counter.zero then none else some (unpoisoned e i c))]
    rcases kget s.async.counters n with _ | c
    · exact (unpoisoned_zero e n).symm
    · simp only [Option.bind_some, Option.getD_some]
      split
      · next h => rw [h]; rfl
      · rfl
  rw [hget]
  simp [unpoisoned]

/-- No core keeps a line of a context whose lines are dropped (R123). -/
theorem icDropAll_core (s : State) (ctx core : Nat) : ∀ x ∈ ((s.icDropAll ctx).core core).icache, x.ctx ≠ ctx := by
  intro x hx
  unfold State.core State.icDropAll at hx
  simp only [kget_kmapVals] at hx
  rcases hc : kget s.cores core with _ | c <;> rw [hc] at hx
  · exact absurd hx List.not_mem_nil
  · simpa using (List.mem_filter.1 hx).2

/-- A context's entry is put, and the header counts its view. -/
def putContext (s : State) (id : Nat) (c : Context) : State :=
  ({ s with tables := { s.tables with contexts := kset s.tables.contexts id c } } : State).firnHeader

theorem exec_contextEntryWrite (hp : s.dev.powered = true) (hr : s.dev.recovery = false) {id : Nat} (hid : id < 4096) (e : ContextEntry) :
    exec (.contextEntryWrite .operator id e) s = .next (if s.quotaClash id e then
      putContext s id { (kget s.tables.contexts id).getD Context.zero with entry := { s.ctxEntry id with ptroot := 0 } }
      else ((putContext s id { entry := { e with fgroup := e.fgroup &&& 0xFFF }, killed := false }).icDropAll id).clearPoison
        { e with fgroup := e.fgroup &&& 0xFFF }) := by
  change Host.Outcome.next (s.operate .operator _) = _
  rw [operate_operator hp hr]
  rw [if_neg (Nat.not_le.2 hid)]
  rfl

/-- What putting an entry leaves: every other context, the courses, the cores, the counters, and all bytes but the header's. -/
theorem putContext_spec (s : State) (id : Nat) (c : Context) :
    (∀ j, (putContext s id c).ctxEntry j = if j = id then c.entry else s.ctxEntry j) ∧
      (∀ j, (putContext s id c).ctxKilled j = if j = id then c.killed else s.ctxKilled j) ∧
      (putContext s id c).courses = s.courses ∧ (putContext s id c).cores = s.cores ∧ (putContext s id c).async = s.async ∧
      (s.firn.enabled = false → BytesKept s (putContext s id c)) := by
  obtain ⟨hrest, -, -, -⟩ := firnHeader_carried ({ s with tables := { s.tables with contexts := kset s.tables.contexts id c } } : State)
  have ht : (putContext s id c).tables.contexts = kset s.tables.contexts id c := (congrArg (·.tables.contexts) hrest :)
  refine ⟨fun j => ?_, fun j => ?_, (congrArg State.courses hrest :), (congrArg State.cores hrest :), (congrArg State.async hrest :),
    fun hf l => ?_⟩
  · rw [State.ctxEntry, ht, kget_kset]
    split <;> rfl
  · rw [State.ctxKilled, ht, kget_kset]
    split <;> rfl
  · have : (putContext s id c).mem = s.mem :=
      (congrArg State.mem (firnHeader_disabled (s := { s with tables := { s.tables with contexts := kset s.tables.contexts id c } }) hf) :)
    rw [State.peek, this]
    rfl

theorem contextEntryWrite_spec (hp : s.dev.powered = true) (hr : s.dev.recovery = false) {id : Nat} (hid : id < 4096) (e : ContextEntry)
    (hn : (kkeys s.async.counters).Nodup) : ∃ t, exec (.contextEntryWrite .operator id e) s = .next t ∧ RegistersKept s t ∧
      (s.firn.enabled = false → BytesKept s t) ∧ (∀ j, j ≠ id → t.ctxEntry j = s.ctxEntry j ∧ t.ctxKilled j = s.ctxKilled j) ∧
      (s.quotaClash id e = true → t.ctxEntry id = { s.ctxEntry id with ptroot := 0 } ∧ t.async.counters = s.async.counters ∧ t.cores = s.cores) ∧
      (s.quotaClash id e = false → t.ctxEntry id = { e with fgroup := e.fgroup &&& 0xFFF } ∧ t.ctxKilled id = false ∧
        (∀ core, ∀ x ∈ (t.core core).icache, x.ctx ≠ id) ∧
        ∀ n, t.counter n = if e.cbase.toNat ≤ n ∧ n < e.cbase.toNat + e.ccount.toNat then { s.counter n with poison := false } else s.counter n) := by
  refine ⟨_, exec_contextEntryWrite hp hr hid e, ?_⟩
  by_cases hq : s.quotaClash id e
  · rw [if_pos hq]
    obtain ⟨hentry, hkilled, hcourses, hcores, hasync, hbytes⟩ := putContext_spec s id
      { (kget s.tables.contexts id).getD Context.zero with entry := { s.ctxEntry id with ptroot := 0 } }
    exact ⟨registersKept_of_courses hcourses, hbytes, fun j hj => ⟨(hentry j).trans (if_neg hj), (hkilled j).trans (if_neg hj)⟩,
      fun _ => ⟨(hentry id).trans (if_pos rfl), congrArg _ hasync, hcores⟩, fun h => absurd (hq.symm.trans h) (by decide)⟩
  · rw [if_neg hq]
    obtain ⟨hentry, hkilled, hcourses, -, hasync, hbytes⟩ :=
      putContext_spec s id { entry := { e with fgroup := e.fgroup &&& 0xFFF }, killed := false }
    refine ⟨registersKept_of_courses hcourses, hbytes, fun j hj => ⟨(hentry j).trans (if_neg hj), (hkilled j).trans (if_neg hj)⟩,
      fun h => absurd h hq, fun _ => ⟨(hentry id).trans (if_pos rfl), (hkilled id).trans (if_pos rfl), icDropAll_core _ id, fun n => ?_⟩⟩
    generalize hu : putContext s id { entry := { e with fgroup := e.fgroup &&& 0xFFF }, killed := false } = u at hasync
    have hdrop : (u.icDropAll id).async = s.async := hasync
    rw [counter_clearPoison (by rw [hdrop]; exact hn)]
    simp only [State.counter, hdrop]

/-! ## Region fences (R56) and the firn registers (R71) -/

/-- A fence register that is written: zero is not listed. -/
theorem fence_put (m : KMap (BitVec 12)) (region : Nat) (g : BitVec 12) (r : Nat) :
    (kget (if g == 0 then kdel m region else kset m region g) r).getD 0 = if r = region then g else (kget m r).getD 0 := by
  by_cases hr : r = region
  · rw [hr, if_pos rfl]
    split
    · next h => rw [kget_kdel_self, eq_of_beq h]; rfl
    · rw [kget_kset_self]; rfl
  · rw [if_neg hr]
    split
    · rw [kget_kdel_ne hr]
    · rw [kget_kset_ne hr]

theorem exec_regionFenceWrite (hp : s.dev.powered = true) (hr : s.dev.recovery = false) {region : Nat} (hreg : region < 20) (v : Word32) :
    ∃ t, exec (.regionFenceWrite .operator region v) s = .next t ∧
      ({ t with tables := { t.tables with fences := s.tables.fences } } : State) = s ∧ t.fenceWord region = v.toNat % 4096 ∧
      ∀ r, r ≠ region → t.fenceWord r = s.fenceWord r := by
  refine ⟨_, congrArg Host.Outcome.next ((operate_operator hp hr _).trans (if_neg (Nat.not_le.2 hreg))), rfl, ?_, fun r h => ?_⟩
  · simp only [State.fenceWord, fence_put, if_pos hreg]
    exact BitVec.toNat_setWidth 12 v
  · simp only [State.fenceWord, fence_put, if_neg h]

theorem exec_firnGeometryWrite (hp : s.dev.powered = true) (hr : s.dev.recovery = false) (reg : FirnReg) (v : Word) :
    exec (.firnGeometryWrite .operator reg v) s = .next (if s.firn.enabled then s else { s with firn :=
      { (match reg with
          | .base => { s.firn with base := v }
          | .size => { s.firn with size := v }
          | .opsz => { s.firn with opsz := v }) with wp := 0 } }) :=
  congrArg Host.Outcome.next (operate_operator hp hr _)

theorem geometryOk_iff (f : FirnState) : f.geometryOk = true ↔
    f.base.toNat % 4096 = 0 ∧ 65536 ≤ f.size.toNat ∧ f.size.toNat ≤ 2 ^ 34 ∧ f.size.toNat % 65536 = 0 ∧ 4096 ≤ f.opsz.toNat ∧
      f.opsz.toNat % 4096 = 0 ∧ 4096 + f.opsz.toNat ≤ f.size.toNat ∧ f.base.toNat + f.size.toNat ≤ Config.lpddrBytes := by
  simp [FirnState.geometryOk, and_assoc]

theorem exec_firnEnable (hp : s.dev.powered = true) (hr : s.dev.recovery = false) : exec (.firnEnable .operator) s =
    .next (if s.firn.geometryOk then ({ s with firn := { s.firn with enabled := true } } : State).firnHeader else s) := by
  change Host.Outcome.next (s.operate .operator _) = _
  rw [operate_operator hp hr]

/-! ## Kill of a context (R401) -/

theorem exec_contextKill {ctx : Nat} {reason : BitVec 4} (h1 : 1 ≤ reason.toNat) (h7 : reason.toNat ≤ 7) (hk : s.ctxKilled ctx = false) :
    exec (.contextKill ctx reason) s = .next (s.kill ctx reason { source := src 1 0, cause := 0, parent := 0 }) := by
  have h0 : (reason == 0) = false := by
    rw [beq_eq_false_iff_ne]
    rintro rfl
    exact absurd h1 (by decide)
  change Host.Outcome.next _ = _
  rw [if_neg (by simp only [h0, hk, decide_eq_false (Nat.not_lt.2 h7)]; decide)]

/-- Settles O39: each clause by the lemma of its instruction. -/
theorem managementBlock : Obligations.ManagementBlock := by
  unfold Obligations.ManagementBlock
  refine ⟨fun s hp hr => ⟨fun v => ?_, fun v => ?_, fun q o n v hq ho hn hclass => ?_, fun q hq => ?_, ?_, fun q hq => ?_,
    fun id e hid hn => contextEntryWrite_spec hp hr hid e hn, fun region v hreg => exec_regionFenceWrite hp hr hreg v, fun idx e hidx => ?_,
    fun v hf => ?_, fun reg v hf => ?_, ⟨fun hok => ?_, fun hok => ?_⟩, ?_, ?_⟩, fun s i => ⟨rfl, rfl, rfl, rfl⟩,
    fun s addr bytes hr ha => ?_, fun s ctx reason h1 h7 hk hn => ?_⟩
  · intro ok
    simp only [exec_domainWrite hp hr, domainOk_iff]
    exact ⟨fun h hd => by rw [if_pos h, hd]; rfl, fun h hu => by rw [if_pos h, if_pos hu], fun h => by rw [if_neg h]⟩
  · intro l
    change Host.Outcome.next (s.operate .operator _) = _
    rw [operate_operator hp hr]
    simp [State.writeTctl, l]
  · obtain ⟨hrest, hother⟩ := writeQueueField_only s q o n v.toNat
    refine ⟨_, exec_queueFieldWrite hp hr hq ho hn v, hrest, hother, fun h => writeQueueField_running h o n v.toNat, fun h => ?_⟩
    rw [queue_writeQueueField h]
    exact drive_replaceBytes _ hclass o n v
  · change Host.Outcome.next (s.operate .operator _) = _
    rw [operate_operator hp hr, if_neg (Nat.not_le.2 hq)]
  · intro q hb tb x who hq hstate hstart hhead htail hlow hhigh _
    obtain ⟨t, ht, ⟨hrest, hother⟩, hqueue⟩ := exec_queueStateRun hp hr hq hstate hstart hhead htail hlow hhigh
    exact ⟨t, ht, hrest, hqueue, hother⟩
  · obtain ⟨hreg, -, hself, hother⟩ := queueLost_spec s q
    exact ⟨s.queueLost q, congrArg _ (if_neg (Nat.not_le.2 hq)), hreg, hself, hother⟩
  · exact if_neg (by simp [hp, hidx])
  · simp only [exec_firnGeometryWrite hp hr, hf]
    exact ⟨rfl, rfl, rfl⟩
  · rw [exec_firnGeometryWrite hp hr, if_pos hf]
  · rw [exec_firnEnable hp hr, if_pos ((geometryOk_iff _).2 hok)]
    obtain ⟨hfirn, hsize, hopsz, hother⟩ := firnHeader_enabled (s := { s with firn := { s.firn with enabled := true } }) rfl
    exact ⟨_, rfl, hfirn, registersKept_of_courses (firnHeader_carried _).recorded.courses, hsize, hopsz, hother⟩
  · rw [exec_firnEnable hp hr, if_neg (fun h => hok ((geometryOk_iff _).1 h))]
  · change Host.Outcome.next (s.operate .operator _) = _
    rw [operate_operator hp hr]
  · intro id e q region reg v i hi
    simp only [List.mem_cons, List.not_mem_nil, or_false] at hi
    rcases hi with rfl | rfl | rfl | rfl | rfl | rfl | rfl | rfl | rfl <;> rfl
  · exact congrArg _ (if_pos (by simp [hr, ha]))
  · exact ⟨_, exec_contextKill h1 h7 hk, by simp [kill_ctxKilled], fun j hj => by simp [kill_ctxKilled, hj],
      fun key c hc _ => kill_registersKept hn hc ctx reason _⟩

end Sys2Proof.Laws
end

section
/-! The control complexes (R23 to R26): a takeover and a live update leave work, tables, registers and memory as they were. -/
namespace Sys2Proof.Laws
open Sys2Proof.Machine Sys2Proof.Safety

variable {s t : State}

/-! ## A record by itself -/

/-- A record that follows a change of the device registers leaves the courses, the work, the tables and the memory of the state before. -/
theorem Carried.around {d : Device} (h : Carried { s with dev := d } t) :
    t.dev = d ∧ RegistersKept s t ∧ MemoryKept s t ∧ t.work = s.work ∧ t.tables = s.tables := by
  obtain ⟨hrest, -, hbytes, -⟩ := h
  exact ⟨(congrArg State.dev hrest :), registersKept_of_courses (congrArg State.courses hrest :), hbytes, (congrArg State.work hrest :),
    (congrArg State.tables hrest :)⟩

/-! ## The takeover (R23) -/

/-- The device after the standby has taken over. -/
def takenOver (s : State) : Device :=
  { s.dev with activeCx := !s.dev.activeCx, missed := 0, cxError := false, heartAt := s.time.gt + gtMs, life := (s.life 9).dev.life }

theorem takeOver_spec (s : State) (reason : Nat) : (s.takeOver reason).dev = takenOver s ∧ RegistersKept s (s.takeOver reason) ∧
    MemoryKept s (s.takeOver reason) ∧ (s.takeOver reason).work = s.work ∧ (s.takeOver reason).tables = s.tables :=
  Carried.around (d := takenOver s) (emit_carried _ _)

/-- Whether the active complex has failed while it is ready (R23). -/
theorem failReason_isSome_iff (s : State) (ecc : Bool) :
    (s.failReason ecc).isSome ↔ s.dev.ready = true ∧ (ecc = true ∨ s.dev.cxError = true ∨ 3 ≤ s.dev.missed) := by
  unfold State.failReason
  cases s.dev.ready <;> cases ecc <;> cases s.dev.cxError <;> by_cases h : 3 ≤ s.dev.missed <;> simp [h]

/-- A failed complex is replaced, unless an update is under way. -/
theorem failOver_eq {ecc : Bool} (h : (s.failReason ecc).isSome) (hu : s.dev.updating = none) : ∃ r, s.failOver ecc = s.takeOver r := by
  obtain ⟨r, hr⟩ := Option.isSome_iff_exists.1 h
  exact ⟨r, by simp only [State.failOver, hr, hu]⟩

/-- A failure that cannot be acted on changes at most the mark of it. -/
theorem failOver_stays {ecc : Bool} (h : ¬ ((s.failReason ecc).isSome ∧ s.dev.updating = none)) :
    ∃ b, s.failOver ecc = { s with dev := { s.dev with cxError := b } } := by
  unfold State.failOver
  split
  · next hr hu => exact absurd ⟨by rw [hr]; rfl, hu⟩ h
  · exact ⟨_, rfl⟩
  · exact ⟨s.dev.cxError, rfl⟩

/-- An uncorrectable error in the active complex's instruction memory hands over to the standby, when it is ready and no update is under
way; registers and memory stay as they were (R23). -/
theorem failOver_ecc_spec (s : State) : RegistersKept s (s.failOver true) ∧ MemoryKept s (s.failOver true) ∧
    (s.failOver true).dev.activeCx = if s.dev.ready = true ∧ s.dev.updating = none then !s.dev.activeCx else s.dev.activeCx := by
  have hiff : (s.failReason true).isSome ↔ s.dev.ready = true := by simp [failReason_isSome_iff]
  by_cases h : s.dev.ready = true ∧ s.dev.updating = none
  · obtain ⟨r, hr⟩ := failOver_eq (hiff.2 h.1) h.2
    obtain ⟨hdev, hreg, hmem, -, -⟩ := takeOver_spec s r
    rw [hr, if_pos h, hdev]
    exact ⟨hreg, hmem, rfl⟩
  · obtain ⟨b, hb⟩ := failOver_stays (ecc := true) (fun k => h ⟨hiff.1 k.1, k.2⟩)
    rw [hb, if_neg h]
    exact ⟨fun _ => rfl, fun _ _ => rfl, rfl⟩

/-! ## Live update (R24 to R26) -/

/-- The measurement of an image that a live update brings (R21). -/
def updateMeasure (s : State) (img : FirmwareImage) : BitVec 384 :=
  sha384Bits (digestBytes (s.dev.measure[3]) ++ digestBytes (sha384Bits img.bytes))

/-- The state in which the image is in the measurement register of the control firmware. -/
def measured (s : State) (img : FirmwareImage) : State :=
  { s with dev := { s.dev with measure := s.dev.measure.set 3 (updateMeasure s img) } }

theorem extend_three (s : State) (img : FirmwareImage) : s.extend 3 (sha384Bits img.bytes) = measured s img := by
  have hset (v : BitVec 384) : s.dev.measure.setIfInBounds 3 v = s.dev.measure.set 3 v := by
    ext i hi
    simp only [Vector.getElem_setIfInBounds, Vector.getElem_set]
  unfold State.extend measured updateMeasure
  rw [← hset]
  rfl

theorem exec_liveUpdate (hr : s.dev.ready = true) (hu : s.dev.updating = none) (img : FirmwareImage) :
    ∃ t, exec (.liveUpdate img) s = .next t ∧ t.dev.measure = s.dev.measure.set 3 (updateMeasure s img) ∧ RegistersKept s t ∧ MemoryKept s t ∧
      t.dev.updating = if imageOk img = true ∧ img.major = s.dev.major ∧ s.dev.minor.toNat ≤ img.minor.toNat then some img else none := by
  have he : exec (.liveUpdate img) s = _ := if_neg (by simp [hr, hu])
  rw [he, extend_three]
  have hnew : (img.major == (measured s img).dev.major && decide ((measured s img).dev.minor.toNat ≤ img.minor.toNat)) = true ↔
      img.major = s.dev.major ∧ s.dev.minor.toNat ≤ img.minor.toNat := by
    rw [Bool.and_eq_true, beq_iff_eq, decide_eq_true_eq]
    rfl
  by_cases hok : imageOk img = true
  · rw [if_neg (by simp [hok])]
    by_cases hv : img.major = s.dev.major ∧ s.dev.minor.toNat ≤ img.minor.toNat
    · rw [if_pos (hnew.2 hv)]
      exact ⟨_, rfl, rfl, fun _ => rfl, fun _ _ => rfl, by rw [if_pos ⟨hok, hv⟩]⟩
    · rw [if_neg (fun h => hv (hnew.1 h))]
      obtain ⟨hdev, hreg, hmem, -, -⟩ := Carried.around (s := s) (emit_carried (measured s img) _)
      exact ⟨_, rfl, congrArg _ hdev, hreg, hmem, by rw [if_neg (fun h => hv h.2), hdev]; exact hu⟩
  · rw [if_pos (by simpa using hok)]
    exact ⟨_, rfl, rfl, fun _ => rfl, fun _ _ => rfl, by rw [if_neg (fun h => hok h.1)]; exact hu⟩

theorem exec_updateDone {img : FirmwareImage} (hu : s.dev.updating = some img) (hq : s.quiescent = true) (hf : s.failReason false = none) :
    ∃ t, exec .updateDone s = .next t ∧ t.dev.activeCx = !s.dev.activeCx ∧ t.dev.updating = none ∧ t.dev.major = img.major ∧
      t.dev.minor = img.minor ∧ RegistersKept s t ∧ MemoryKept s t := by
  change ∃ t, execUpdateDone s = .next t ∧ _
  unfold execUpdateDone
  rw [hu]
  simp only [hq, hf]
  obtain ⟨hdev, hreg, hmem, -, -⟩ := Carried.around (s := s) (emit_carried { s with dev := { s.dev with
      activeCx := !s.dev.activeCx, updating := none, cxPrev := none, major := img.major, minor := img.minor, missed := 0
      heartAt := s.time.gt + gtMs } } _)
  exact ⟨_, rfl, congrArg Device.activeCx hdev, congrArg Device.updating hdev, congrArg Device.major hdev, congrArg Device.minor hdev, hreg,
    hmem⟩

theorem exec_updateDone_busy (hu : s.dev.updating.isSome) (hq : s.quiescent = false) : exec .updateDone s = .next s := by
  obtain ⟨img, hi⟩ := Option.isSome_iff_exists.1 hu
  change execUpdateDone s = _
  simp [execUpdateDone, hi, hq]

theorem exec_updateAbandoned (hu : s.dev.updating.isSome) (hf : (s.failReason false).isSome) : ∃ t, exec .updateAbandoned s = .next t ∧
    t.dev.activeCx = !s.dev.activeCx ∧ t.dev.updating = none ∧ t.dev.major = s.dev.major ∧ t.dev.minor = s.dev.minor ∧
      t.dev.life = (s.life 9).dev.life ∧ RegistersKept s t ∧ MemoryKept s t := by
  obtain ⟨img, hi⟩ := Option.isSome_iff_exists.1 hu
  obtain ⟨r, hr⟩ := Option.isSome_iff_exists.1 hf
  change ∃ t, execUpdateAbandoned s = .next t ∧ _
  unfold execUpdateAbandoned
  rw [hi, hr]
  extract_lets _ s1 s2
  have hc : Carried s1 s2 := emit_carried s1 _
  obtain ⟨hdev, hreg, hmem, -, -⟩ := Carried.around (s := s) hc
  obtain ⟨hdev', hreg', hmem', -, -⟩ := takeOver_spec s2 r
  refine ⟨_, rfl, ?_, ?_, ?_, ?_, ?_, registersKept_trans hreg hreg', keptOutside_trans hmem hc.at_place hmem'⟩ <;> rw [hdev']
  · exact (congrArg (fun d : Device => !d.activeCx) hdev :)
  · exact (congrArg Device.updating hdev :)
  · exact (congrArg Device.major hdev :)
  · exact (congrArg Device.minor hdev :)
  · exact (congrArg (fun d : Device => kset d.life 9 (satInc32 ((kget d.life 9).getD 0))) hdev :)

end Sys2Proof.Laws
end

section
/-! Uncorrectable and corrected SRAM errors (R27, R249, R280, R314, R352, R353, R401, R412), structure by structure. -/
namespace Sys2Proof.Laws
open Sys2Proof.Machine Sys2Proof.Safety

variable {s t : State}

/-! ## The count and the record of an error -/

/-- Counting an error and recording it: a life counter, and what the record's way to the rings changes. -/
theorem sramUe_carried (s : State) (row core ctx : Nat) (cause parent : Word32) :
    Carried (s.life 4) (s.sramUe row core ctx cause parent) := emit_carried _ _

section
variable (s : State) (row core ctx : Nat) (cause parent : Word32)

@[simp] theorem sramUe_dev : (s.sramUe row core ctx cause parent).dev = (s.life 4).dev := emit_dev _ _
@[simp] theorem sramUe_tables : (s.sramUe row core ctx cause parent).tables = s.tables := emit_tables _ _
@[simp] theorem sramUe_courses : (s.sramUe row core ctx cause parent).courses = s.courses := emit_courses _ _
@[simp] theorem sramUe_cores : (s.sramUe row core ctx cause parent).cores = s.cores := emit_cores _ _
@[simp] theorem sramUe_async : (s.sramUe row core ctx cause parent).async = s.async := emit_async _ _

theorem sramUe_memoryKept : MemoryKept s (s.sramUe row core ctx cause parent) := (sramUe_carried s row core ctx cause parent).bytes

end

/-! ## A latent error (R249, R412) -/

/-- An error that lies at a home is found there, and no byte is lost by it. -/
theorem badIn_marked (s : State) (l : Loc) :
    ({ s with mem := { s.mem with bad := l :: s.mem.bad.filter (· != l) } } : State).badIn l 1 = true := by
  simp [State.badIn]

/-! ## A poisoned counter (R352) -/

/-- Poison is set in one counter, with one GEN more, and nothing waits armed; no register changes. -/
theorem poison_spec (s : State) (ctx i cnum : Nat) (cause parent : Word32) :
    (s.poison ctx i cnum cause parent).counter i = { s.counter i with poison := true, armed := [], gen := (s.counter i).gen + 1 } ∧
      (∀ m, m ≠ i → (s.poison ctx i cnum cause parent).counter m = s.counter m) ∧
      (s.poison ctx i cnum cause parent).dev = s.dev ∧ RegistersKept s (s.poison ctx i cnum cause parent) := by
  unfold State.poison
  extract_lets c u
  refine ⟨?_, fun m hm => ?_, emit_dev _ _, fun k => ?_⟩
  · rw [State.counter, emit_async]
    exact counter_setCounter_self s i _
  · rw [State.counter, emit_async]
    exact counter_setCounter_ne s i m _ hm
  · rw [emit_courses]
    exact wakeCounter_registersKept (s.setCounter i _) i k

theorem engine_modEngine_self (s : State) (core : Nat) (f : Engine → Engine) : (s.modEngine core f).engine core = f (s.engine core) :=
  congrArg Core.engine (core_setCore_self s core _)

/-- A counter's error is counted and poisons it, whoever's quota it lies in. -/
theorem exec_sramUe_counter (s : State) (n : Nat) : ∃ ctx x cnum, exec (.sramUe (.counter n)) s =
    .next ((s.sramUe 5 0xFF x 0 0).poison ctx n cnum 0 0) := by
  change ∃ ctx x cnum, execSramUe (.counter n) s = _
  simp only [execSramUe]
  generalize List.find? _ s.tables.contexts = owner
  rcases owner with _ | ⟨ctx, c⟩
  · exact ⟨_, _, _, rfl⟩
  · exact ⟨_, _, _, rfl⟩

/-- The source of a record that is lost is among those that have lost one (R73). -/
theorem mem_dropping (l : List Half) (source : Half) : source ∈ (if l.contains source then l else source :: l) := by
  split
  · next h => exact List.contains_iff_mem.1 h
  · exact List.mem_cons_self

/-- Settles O46: each structure by the lemma of what its error does, after the count and the record. -/
theorem sramErrors : Obligations.SramErrors := by
  unfold Obligations.SramErrors
  intro s counted
  refine ⟨fun core slot c E lane field hc hE _ => ?_, fun die addr => ⟨_, rfl, badIn_marked s _, fun _ => rfl, rfl⟩,
    fun lpddr addr => ⟨_, rfl, badIn_marked s _, fun _ => rfl, rfl⟩, fun k => rfl, fun core cell => ?_, fun n => ?_, fun ctx core => ?_,
    fun q hq => ?_, ?_, fun source => ?_, fun core ctx line slot hslot => if_neg (Nat.not_lt.2 hslot)⟩
  · change execSramUe (.registers core slot lane field) s = _
    unfold execSramUe
    simp only [hc, hE]
  · refine ⟨_, rfl, (congrArg Device.life (sramUe_dev s 4 core _ _ _) :), registersKept_of_courses (sramUe_courses s 4 core _ _ _),
      sramUe_memoryKept s 4 core _ _ _, ?_⟩
    rw [engine_modEngine_self, State.engine, State.core, sramUe_cores]
    rfl
  · obtain ⟨ctx, x, cnum, hexec⟩ := exec_sramUe_counter s n
    obtain ⟨hself, hother, hdev, hreg⟩ := poison_spec (s.sramUe 5 0xFF x 0 0) ctx n cnum 0 0
    have hc (m : Nat) : (s.sramUe 5 0xFF x 0 0).counter m = s.counter m := by rw [State.counter, sramUe_async]; rfl
    refine ⟨_, hexec, ?_, by rw [hself], by rw [hself, hc], fun m hm => (hother m hm).trans (hc m),
      registersKept_trans (registersKept_of_courses (sramUe_courses _ _ _ _ _ _)) hreg⟩
    simp only [counted, hdev, sramUe_dev]
  · have hkilled (j : Nat) : (s.sramUe 6 core ctx 0 0).ctxKilled j = s.ctxKilled j := by rw [State.ctxKilled, sramUe_tables]; rfl
    refine ⟨_, rfl, ?_, fun j hj => ?_⟩
    · split
      · assumption
      · simp [kill_ctxKilled]
    · split
      · exact hkilled j
      · rw [kill_ctxKilled, hkilled, beq_eq_false_iff_ne.2 hj, Bool.false_or]
  · obtain ⟨hreg, hdev, hself, hother⟩ := queueLost_spec (s.sramUe 7 0xFF 0xFFFF 0 0) q
    have hq' (r : Nat) : (s.sramUe 7 0xFF 0xFFFF 0 0).queue r = s.queue r := by rw [State.queue, sramUe_tables]; rfl
    refine ⟨_, if_neg (Nat.not_le.2 hq), ?_, by rw [hself], fun r hr => (hother r hr).trans (hq' r),
      registersKept_trans (registersKept_of_courses (sramUe_courses _ _ _ _ _ _)) hreg⟩
    simp only [counted, hdev, sramUe_dev]
  · have hc := sramUe_carried s 8 0xFF 0xFFFF 0 0
    obtain ⟨hreg, hmem, hactive⟩ := failOver_ecc_spec (s.sramUe 8 0xFF 0xFFFF 0 0)
    refine ⟨_, rfl, registersKept_trans (registersKept_of_courses (sramUe_courses _ _ _ _ _ _)) hreg,
      keptOutside_trans (sramUe_memoryKept _ _ _ _ _ _) hc.at_place hmem, ?_⟩
    rw [hactive, sramUe_dev]
    rfl
  · intro u
    obtain ⟨-, ⟨-, -, -, henabled⟩, hbytes, -⟩ := sramUe_carried s 9 0xFF 0xFFFF 0 0
    have hreg : RegistersKept s u := registersKept_of_courses (sramUe_courses _ _ _ _ _ _)
    have hcount : u.dev.life = (s.life 4).dev.life := congrArg Device.life (sramUe_dev _ _ _ _ _ _)
    refine ⟨_, rfl, ?_⟩
    by_cases h : s.firn.enabled = true
    · rw [if_neg (by rw [henabled, life_firn, h]; decide)]
      exact ⟨hcount, hreg, hbytes, fun _ => ⟨rfl, mem_dropping _ source⟩, fun h' => absurd (h.symm.trans h') (by decide)⟩
    · rw [if_pos (by rw [henabled, life_firn, eq_false_of_ne_true h]; rfl)]
      exact ⟨hcount, hreg, hbytes, fun h' => absurd h' h, fun _ => rfl⟩

end Sys2Proof.Laws
end

section
/-! Power, starts and heat (R14 to R22, R27, R74): what a start keeps and how its steps pass, clocks, current, droop, life counters and the
attestation report. -/
namespace Sys2Proof.Laws
open Sys2Proof.Machine Sys2Proof.Safety

variable {s t u b : State}

/-! ## Records reach LPDDR6 alone (R71, R72) -/

/-- Every memory but LPDDR6 stays as it was. -/
def OthersKept (s t : State) : Prop := ∀ st, st ≠ .lpddr → t.mem.of st = s.mem.of st

theorem OthersKept.trans (h : OthersKept s t) (k : OthersKept t u) : OthersKept s u := fun st hs => (k st hs).trans (h st hs)

theorem poke_others (s : State) (a : Nat) (bs : List Byte) : OthersKept s (s.poke ⟨.lpddr, a⟩ bs) := fun st hs => by
  rw [poke_of, if_neg hs]

theorem ringSlot_others (s : State) (bs : List Byte) : OthersKept s (s.ringSlot bs) := by
  unfold State.ringSlot
  split
  · exact fun _ _ => rfl
  · exact poke_others s _ bs

theorem viewWrite_others (s : State) (r : Record) : OthersKept s (s.viewWrite r) := by
  unfold State.viewWrite
  extract_lets
  split
  · exact fun _ _ => rfl
  split
  · exact fun _ _ => rfl
  · exact (poke_others s _ _).trans (poke_others _ _ _)

theorem carry_others (s : State) (r : Record) : OthersKept s (s.carry r) :=
  (ringSlot_others { s with firn := { s.firn with records := s.firn.records ++ [r], port := s.firn.port.take s.time.gt r } } _).trans
    (viewWrite_others _ r)

theorem resetMark_others (s : State) : OthersKept s s.resetMark := by
  unfold State.resetMark
  split
  · exact fun _ _ => rfl
  · exact carry_others { s with firn := { s.firn with mark := false } } _

theorem emit_others (s : State) (e : Ev) : OthersKept s (s.emit e) := (resetMark_others s).trans (carry_others s.resetMark _)

/-- A slot of the ring that takes at most 32 bytes is written inside the store. -/
theorem ringSlot_carried_le (s : State) {bs : List Byte} (hb : bs.length ≤ 32) : Carried s (s.ringSlot bs) := by
  unfold State.ringSlot
  split
  · exact Carried.refl s
  · refine Carried.trans (Carried.poke s _ _ (fun h => ?_)) (Carried.firn _ _ ⟨rfl, rfl, rfl, rfl⟩)
    have hslot : s.firn.wp % (s.firn.opsz.toNat / 32) < s.firn.opsz.toNat / 32 := Nat.mod_lt _ (by omega)
    omega

/-! ## What the steps of a start leave (R17, R18) -/

/-- What no boot step changes. -/
def keptByBoot (s : State) :=
  (s.dev.powered, s.dev.bootNo, s.dev.prevRecords, s.dev.life, s.courses, s.panels, s.cores, s.work, s.mem.hbm, s.mem.die, s.mem.unit,
    s.mem.host, s.firn.base, s.firn.size, s.firn.opsz, s.firn.enabled, s.time.domain)

/-- The effect of a step changes neither that, nor whether the part is in recovery mode, nor the step that failed before. -/
def EffectKeeps (b s : State) : Prop :=
  (keptByBoot s, s.dev.recovery, s.dev.bootFailed) = (keptByBoot b, b.dev.recovery, b.dev.bootFailed) ∧ MemoryKept b s

def BootKeeps (b s : State) : Prop := keptByBoot s = keptByBoot b ∧ MemoryKept b s

theorem EffectKeeps.refl (s : State) : EffectKeeps s s := ⟨rfl, fun _ _ => rfl⟩

/-- Records keep it. -/
theorem EffectKeeps.carried (h : EffectKeeps b s) (k : Carried s t) (ho : OthersKept s t) : EffectKeeps b t := by
  obtain ⟨hkept, hmem⟩ := h
  obtain ⟨hrest, ⟨hbase, hsize, hopsz, henabled⟩, hbytes, -⟩ := k
  have hhbm : t.mem.hbm = s.mem.hbm := ho .hbm (by decide)
  have hdie : t.mem.die = s.mem.die := ho .die (by decide)
  have hunit : t.mem.unit = s.mem.unit := ho .unit (by decide)
  have hhost : t.mem.host = s.mem.host := ho .host (by decide)
  have hs : (keptByBoot t, t.dev.recovery, t.dev.bootFailed) = (keptByBoot s, s.dev.recovery, s.dev.bootFailed) := by
    have hdev : t.dev = s.dev := (congrArg State.dev hrest :)
    have htime : t.time = s.time := (congrArg State.time hrest :)
    have hcourses : t.courses = s.courses := (congrArg State.courses hrest :)
    have hpanels : t.panels = s.panels := (congrArg State.panels hrest :)
    have hcores : t.cores = s.cores := (congrArg State.cores hrest :)
    have hwork : t.work = s.work := (congrArg State.work hrest :)
    unfold keptByBoot
    rw [hdev, htime, hcourses, hpanels, hcores, hwork, hhbm, hdie, hunit, hhost, hbase, hsize, hopsz, henabled]
  refine ⟨hs.trans hkept, keptOutside_trans hmem ?_ hbytes⟩
  simp only [keptByBoot, Prod.mk.injEq] at hkept
  tauto

theorem emit_effectKeeps {e : Ev} (h : EffectKeeps b s) : EffectKeeps b (s.emit e) := h.carried (emit_carried s e) (emit_others s e)

theorem foldl_effectKeeps {α : Type} {f : State → α → State} {l : List α} (hf : ∀ t, ∀ x ∈ l, EffectKeeps b t → EffectKeeps b (f t x))
    (h : EffectKeeps b s) : EffectKeeps b (l.foldl f s) :=
  List.foldlRecOn l f h (fun t ht x hx => hf t x hx ht)

theorem mem_chunksOf {α : Type} {n f : Nat} {l x : List α} (h : x ∈ chunksOf n f l) : x.length ≤ n := by
  induction f generalizing l with
  | zero => cases h
  | succ f ih =>
    cases l with
    | nil => cases h
    | cons a l =>
      rcases List.mem_cons.1 h with rfl | h
      · exact List.length_take_le n _
      · exact ih h

/-- The two records of a slot fill it at most. -/
theorem slot_length {l : List BootRecord} (h : l.length ≤ 2) : (l.flatMap (fun r => leBytes 16 r.toNat)).length ≤ 32 := by
  have : (l.flatMap (fun r => leBytes 16 r.toNat)).length = 16 * l.length := by
    simp [List.length_flatMap, leBytes_length, Nat.mul_comm]
  omega

theorem bootCopy_effectKeeps (h : EffectKeeps b s) : EffectKeeps b s.bootCopy := by
  unfold State.bootCopy
  extract_lets s1 slots
  exact foldl_effectKeeps (fun t l hl h => h.carried (ringSlot_carried_le t (slot_length (mem_chunksOf hl))) (ringSlot_others t _))
    (emit_effectKeeps h)

theorem bootComplexes_effectKeeps (h : EffectKeeps b s) : EffectKeeps b s.bootComplexes := bootCopy_effectKeeps h

theorem reportLinks_effectKeeps {l : List Nat} (h : EffectKeeps b s) : EffectKeeps b (s.reportLinks l) := by
  unfold State.reportLinks
  exact foldl_effectKeeps (fun _ _ _ h => foldl_effectKeeps (fun _ _ _ h => h) h) h

theorem trainPorts_effectKeeps {up : Option (List Nat)} (h : EffectKeeps b s) : EffectKeeps b (s.trainPorts up) := by
  unfold State.trainPorts
  split
  · exact h
  · exact reportLinks_effectKeeps (foldl_effectKeeps (fun _ _ _ h => emit_effectKeeps h) h)

theorem loadFirmware_effectKeeps {m : FirmwareImage} (h : EffectKeeps b s) : EffectKeeps b (s.loadFirmware m).2 := by
  unfold State.loadFirmware
  extract_lets
  split
  · exact h
  · exact h

theorem stepEffect_effectKeeps {i : BootInputs} {step path : Nat} (h : EffectKeeps b s) : EffectKeeps b (s.stepEffect i step path).2 := by
  unfold State.stepEffect
  split
  · exact loadFirmware_effectKeeps h
  · exact h
  · split
    · exact h
    · exact h
  · exact trainPorts_effectKeeps h
  · extract_lets
    split
    · exact bootComplexes_effectKeeps h
    · exact h
  · exact h

/-! ### One step, in its three parts (R18) -/

/-- The state in which a step's effect takes place: its record says that it has started, and its time has passed. -/
def stepBegun (s : State) (step path attempt dt : Nat) : State :=
  let s := s.putRecord (bootRecord s.stamp s.dev.bootNo.toNat 0 attempt path 0 step)
  { s with time := { s.time with gt := s.time.gt + dt } }

/-- What the step does, when it passes from outside or is skipped. -/
def stepRun (s : State) (i : BootInputs) (step path : Nat) (ok : Bool) : Bool × State :=
  if path == 2 || ok then s.stepEffect i step path else (false, s)

/-- The end of the step, by whether it passed. -/
def stepEnded (x : Bool × State) (step path attempt detail : Nat) : Bool × State :=
  let s := x.2.putRecord (bootRecord x.2.stamp x.2.dev.bootNo.toNat (if x.1 then 0 else detail) attempt path (if x.1 then 1 else 2) step)
  if x.1 then (true, { s with dev := { s.dev with bootDone := BitVec.ofNat 8 step } })
  else (false, { s with dev := { s.dev with bootFailed := BitVec.ofNat 8 step, recovery := step == 1 } })

/-- A step runs in these parts, unless the part goes to recovery mode or its start ends at the step. -/
theorem bootStep_cases (s : State) (i : BootInputs) (step : Nat) :
    (∃ path attempt r, bootPlan (s.dev.prevRecords.find? (fun r => recStep r == step)) step = some (path, attempt) ∧
      nth i.results (step - 1) = some r ∧
      s.bootStep i step = stepEnded (stepRun (stepBegun s step path attempt r.dt) i step path r.ok) step path attempt r.detail.toNat) ∨
    ((bootPlan (s.dev.prevRecords.find? (fun r => recStep r == step)) step = none ∨ nth i.results (step - 1) = none) ∧
      BootKeeps s (s.bootStep i step).2) := by
  unfold State.bootStep
  rcases hplan : bootPlan (s.dev.prevRecords.find? (fun r => recStep r == step)) step with _ | ⟨path, attempt⟩
  · exact .inr ⟨.inl rfl, rfl, fun _ _ => rfl⟩
  · rcases hres : nth i.results (step - 1) with _ | r
    · exact .inr ⟨.inr rfl, rfl, fun _ _ => rfl⟩
    · exact .inl ⟨path, attempt, r, rfl, rfl, rfl⟩

theorem stepRun_effectKeeps {i : BootInputs} {step path : Nat} {ok : Bool} (h : EffectKeeps b s) :
    EffectKeeps b (stepRun s i step path ok).2 := by
  unfold stepRun
  split
  · exact stepEffect_effectKeeps h
  · exact h

theorem BootKeeps.trans (h : BootKeeps b s) (k : BootKeeps s t) : BootKeeps b t := by
  obtain ⟨hkept, hmem⟩ := h
  refine ⟨k.1.trans hkept, keptOutside_trans hmem ?_ k.2⟩
  simp only [keptByBoot, Prod.mk.injEq] at hkept
  tauto

theorem EffectKeeps.boot (h : EffectKeeps b s) : BootKeeps b s := ⟨congrArg Prod.fst h.1, h.2⟩

theorem bootStep_bootKeeps (s : State) (i : BootInputs) (step : Nat) : BootKeeps s (s.bootStep i step).2 := by
  rcases bootStep_cases s i step with ⟨path, attempt, r, -, -, he⟩ | ⟨-, h⟩
  · rw [he]
    have hrun : BootKeeps s (stepRun (stepBegun s step path attempt r.dt) i step path r.ok).2 :=
      (stepRun_effectKeeps (EffectKeeps.refl (stepBegun s step path attempt r.dt))).boot
    unfold stepEnded
    extract_lets
    split
    · exact hrun
    · exact hrun
  · exact h

theorem bootSteps_bootKeeps (s : State) (i : BootInputs) (l : List Nat) : BootKeeps s (s.bootSteps i l) := by
  induction l generalizing s with
  | nil => exact (EffectKeeps.refl s).boot
  | cons n l ih =>
    have hstep := bootStep_bootKeeps s i n
    unfold State.bootSteps
    rcases he : s.bootStep i n with ⟨_ | _, u⟩ <;> rw [he] at hstep
    · exact hstep
    · exact hstep.trans (ih u)

/-! ### Steps that pass (R17, R19) -/

section
variable {i : BootInputs}

/-- Nothing failed in the start before. -/
def NoneFailed (s : State) : Prop := ∀ r ∈ s.dev.prevRecords, recFailed r = false

/-- Without a failure before, every step takes its first path. -/
theorem bootPlan_noneFailed (h : NoneFailed s) (step : Nat) :
    bootPlan (s.dev.prevRecords.find? (fun r => recStep r == step)) step = some (0, 0) := by
  rcases hf : s.dev.prevRecords.find? (fun r => recStep r == step) with _ | r
  · rfl
  · simp [bootPlan, h r (List.mem_of_find?_eq_some hf)]

/-- With good images no effect of a step on its first path fails. -/
theorem stepEffect_passes (hA : imageOk i.slotA = true) (hm : imageOk i.microcode = true) (s : State) (step : Nat) :
    (s.stepEffect i step 0).1 = true := by
  unfold State.stepEffect
  split
  · simp [State.loadFirmware, hA]
  · rfl
  · rfl
  · rfl
  · simp [hm]
  · rfl

/-- The last step opens the launch queues. -/
theorem stepEffect_ready (hm : imageOk i.microcode = true) (s : State) : (s.stepEffect i 10 0).2.dev.ready = true := by
  simp [State.stepEffect, hm, State.bootComplexes]

/-- A step passes when its result is good: it is the last step done, and the part is no nearer to recovery mode. -/
theorem bootStep_passes (hA : imageOk i.slotA = true) (hm : imageOk i.microcode = true) (hlen : i.results.length = 10)
    (hok : ∀ r ∈ i.results, r.ok = true) (h : NoneFailed s) {step : Nat} (h1 : 1 ≤ step) (h10 : step ≤ 10) :
    ∃ u, s.bootStep i step = (true, u) ∧ NoneFailed u ∧ u.dev.recovery = s.dev.recovery ∧ u.dev.bootFailed = s.dev.bootFailed ∧
      u.dev.bootDone = BitVec.ofNat 8 step ∧ (step = 10 → u.dev.ready = true) := by
  obtain ⟨r, hr⟩ : ∃ r, nth i.results (step - 1) = some r := ⟨i.results[step - 1], List.getElem?_eq_getElem (by omega)⟩
  have hrok : r.ok = true := hok r (List.mem_of_getElem? hr)
  rcases bootStep_cases s i step with ⟨path, attempt, r', hplan, hres, he⟩ | ⟨hnone | hnone, -⟩
  · cases (bootPlan_noneFailed h step).symm.trans hplan
    cases hr.symm.trans hres
    have hkeep := stepEffect_effectKeeps (i := i) (step := step) (path := 0) (EffectKeeps.refl (stepBegun s step 0 0 r.dt))
    have hpass := stepEffect_passes hA hm (stepBegun s step 0 0 r.dt) step
    have hready : step = 10 → ((stepBegun s step 0 0 r.dt).stepEffect i step 0).2.dev.ready = true := by
      rintro rfl
      exact stepEffect_ready hm _
    rw [he, stepRun, if_pos (by rw [hrok]; rfl)]
    generalize (stepBegun s step 0 0 r.dt).stepEffect i step 0 = x at hkeep hpass hready ⊢
    obtain ⟨ok, u⟩ := x
    cases hpass
    obtain ⟨hkept, -⟩ := hkeep
    have hprev : u.dev.prevRecords = s.dev.prevRecords := (congrArg (fun x => x.1.2.2.1) hkept :)
    exact ⟨_, rfl, fun r hr => h r (hprev ▸ hr), (congrArg (fun x => x.2.1) hkept :), (congrArg (fun x => x.2.2) hkept :), rfl, hready⟩
  · cases (bootPlan_noneFailed h step).symm.trans hnone
  · cases hr.symm.trans hnone

/-- Steps that all pass are followed by the next. -/
theorem bootSteps_pass (hA : imageOk i.slotA = true) (hm : imageOk i.microcode = true) (hlen : i.results.length = 10)
    (hok : ∀ r ∈ i.results, r.ok = true) (h : NoneFailed s) (l : List Nat) (hl : ∀ n ∈ l, 1 ≤ n ∧ n ≤ 10) :
    ∃ u, NoneFailed u ∧ u.dev.recovery = s.dev.recovery ∧ u.dev.bootFailed = s.dev.bootFailed ∧
      ∀ m, s.bootSteps i (l ++ m) = u.bootSteps i m := by
  induction l generalizing s with
  | nil => exact ⟨s, h, rfl, rfl, fun _ => rfl⟩
  | cons n l ih =>
    obtain ⟨h1, h10⟩ := hl n List.mem_cons_self
    obtain ⟨v, hv, hnone, hrec, hfail, -, -⟩ := bootStep_passes hA hm hlen hok h h1 h10
    obtain ⟨u, hu, hrec', hfail', hrun⟩ := ih hnone (fun k hk => hl k (List.mem_cons_of_mem _ hk))
    refine ⟨u, hu, hrec'.trans hrec, hfail'.trans hfail, fun m => ?_⟩
    rw [List.cons_append, State.bootSteps, hv]
    exact hrun m

end

/-! ## A start (R16 to R19, R74) -/

/-- The boot steps begin with the volatile state gone: what no step changes is known, LPDDR6 holds what it held, and the step that failed
last is named. -/
theorem start_cases (s : State) (i : BootInputs) : ∃ u, s.start i = u.bootSteps i [1, 2, 3, 4, 5, 6, 7, 8, 9, 10] ∧
    keptByBoot u = (true, s.dev.bootNo + 1, s.dev.curRecords, s.dev.life, [], [], [],
      { WorkState.start with causeSeq := s.work.causeSeq, nextId := s.work.nextId }, [], [], [], s.mem.host, s.firn.base, s.firn.size, s.firn.opsz,
      s.firn.enabled, s.time.nextDomain.getD s.time.domain) ∧
    u.mem.lpddr = s.mem.lpddr ∧ u.dev.recovery = false ∧
    ((∀ r ∈ s.dev.curRecords, recFailed r = false) → u.dev.bootFailed = 0) := by
  refine ⟨_, rfl, rfl, rfl, rfl, fun h => ?_⟩
  have hnone : s.dev.curRecords.reverse.find? recFailed = none :=
    List.find?_eq_none.2 (fun r hr => by simp [h r (List.mem_reverse.1 hr)])
  change BitVec.ofNat 8 (match s.dev.curRecords.reverse.find? recFailed with | some r => recStep r | none => 0) = 0
  rw [hnone]
  rfl

/-- What a start keeps, and what it loses (R16, R74). -/
theorem start_spec (s : State) (i : BootInputs) : let t := s.start i
    t.dev.powered = true ∧ t.dev.bootNo = s.dev.bootNo + 1 ∧ t.dev.prevRecords = s.dev.curRecords ∧ t.dev.life = s.dev.life ∧ t.courses = [] ∧
      t.panels = [] ∧ t.cores = [] ∧ t.work.launches = [] ∧ t.work.causeSeq = s.work.causeSeq ∧ t.mem.hbm = [] ∧ t.mem.die = [] ∧ t.mem.unit = [] ∧
      t.mem.host = s.mem.host ∧ t.firn.base = s.firn.base ∧ t.firn.size = s.firn.size ∧ t.firn.opsz = s.firn.opsz ∧
      t.firn.enabled = s.firn.enabled ∧ t.time.domain = s.time.nextDomain.getD s.time.domain ∧
      ∀ l, outsideRings s l → l.store = .lpddr → t.peek l = s.peek l := by
  obtain ⟨u, he, hu, hlpddr, -, -⟩ := start_cases s i
  obtain ⟨hkept, hmem⟩ := bootSteps_bootKeeps u i [1, 2, 3, 4, 5, 6, 7, 8, 9, 10]
  rw [← he, hu] at hkept
  rw [← he] at hmem
  intro t
  simp only [keptByBoot, Prod.mk.injEq] at hkept hu
  obtain ⟨h1, h2, h3, h4, h5, h6, h7, hwork, h9, h10, h11, h12, h13, h14, h15, h16, h17⟩ := hkept
  obtain ⟨-, -, -, -, -, -, -, -, -, -, -, -, hbase, hsize, hopsz, -, -⟩ := hu
  have hlaunches : t.work.launches = [] := (congrArg WorkState.launches hwork :)
  have hseq : t.work.causeSeq = s.work.causeSeq := (congrArg WorkState.causeSeq hwork :)
  refine ⟨h1, h2, h3, h4, h5, h6, h7, hlaunches, hseq, h9, h10, h11, h12, h13, h14, h15, h16, h17, fun l hl hs => ?_⟩
  have hout : outsideRings u l := by
    unfold outsideRings
    rw [hbase, hsize, hopsz]
    exact hl
  rw [hmem l hout, State.peek, State.peek, hs]
  exact congrArg (fun m => Memory.read m l.addr) hlpddr

/-- A start whose steps all pass, after one without a failure, ends ready and out of recovery mode (R17, R19). -/
theorem start_ready {i : BootInputs} (hprev : ∀ r ∈ s.dev.curRecords, recFailed r = false) (hlen : i.results.length = 10)
    (hok : ∀ r ∈ i.results, r.ok = true) (hA : imageOk i.slotA = true) (hm : imageOk i.microcode = true) :
    (s.start i).dev.ready = true ∧ (s.start i).dev.bootDone = 0x0A ∧ (s.start i).dev.recovery = false ∧ (s.start i).dev.bootFailed = 0 := by
  obtain ⟨u, he, hu, -, hrec, hfail⟩ := start_cases s i
  have hnone : NoneFailed u := fun r hr => hprev r ((congrArg (fun x => x.2.2.1) hu : u.dev.prevRecords = s.dev.curRecords) ▸ hr)
  obtain ⟨v, hv, hrec', hfail', hrun⟩ := bootSteps_pass hA hm hlen hok hnone [1, 2, 3, 4, 5, 6, 7, 8, 9] (by decide)
  obtain ⟨w, hw, -, hrec'', hfail'', hdone, hready⟩ := bootStep_passes hA hm hlen hok hv (step := 10) (by decide) (by decide)
  have hlast : s.start i = w := by
    rw [he, show [1, 2, 3, 4, 5, 6, 7, 8, 9, 10] = [1, 2, 3, 4, 5, 6, 7, 8, 9] ++ [10] from rfl, hrun, State.bootSteps, hw]
    rfl
  rw [hlast]
  exact ⟨hready rfl, hdone, hrec''.trans (hrec'.trans hrec), hfail''.trans (hfail'.trans (hfail hprev))⟩

end Sys2Proof.Laws
end

section
/-! Power on and off, heat, current, droop, life counters and attestation (R14 to R16, R22, R27), and the statement on power and heat. -/
namespace Sys2Proof.Laws
open Sys2Proof.Machine Sys2Proof.Safety

variable {s t : State}

/-! ## Power (R16) -/

/-- A part that tripped waits until its junction is below 80 °C. -/
theorem tripWaits_iff (s : State) : (s.dev.tripped && decide (80 ≤ s.dev.junction)) = true ↔ s.dev.tripped = true ∧ 80 ≤ s.dev.junction := by
  rw [Bool.and_eq_true, decide_eq_true_eq]

theorem exec_powerOn (i : BootInputs) (s : State) : exec (.powerOn i) s =
    .next (if s.dev.tripped = true ∧ 80 ≤ s.dev.junction then { s with dev := { s.dev with powerUpSeen := true } } else (s.life 0).start i) := by
  change execPowerOn i s = _
  unfold execPowerOn
  simp only [tripWaits_iff]
  split <;> rfl

theorem exec_powerUpCommand (i : BootInputs) (ht : s.dev.tripped = true) : exec (.powerUpCommand i) s =
    .next (if s.dev.junction < 80 then (s.life 0).start i else { s with dev := { s.dev with powerUpSeen := true } }) := by
  change execPowerUpCommand i s = _
  unfold execPowerUpCommand
  rw [if_neg (by simp [ht])]
  split <;> rfl

/-- What the loss of every rail but VAUX leaves. -/
theorem railsOff_spec (s : State) : s.railsOff.dev.powered = false ∧ s.railsOff.courses = [] ∧ s.railsOff.panels = [] ∧ s.railsOff.mem.hbm = [] ∧
    s.railsOff.mem.host = s.mem.host ∧ s.railsOff.mem.lpddr = s.mem.lpddr ∧ s.railsOff.dev.life = s.dev.life ∧
    s.railsOff.work.causeSeq = s.work.causeSeq ∧ s.railsOff.firn.base = s.firn.base ∧ s.railsOff.time.domain = s.time.domain ∧
    s.railsOff.time.gt = s.time.gt :=
  ⟨rfl, rfl, rfl, rfl, rfl, rfl, rfl, rfl, rfl, rfl, rfl⟩

/-! ## Heat (R15, R16, R27) -/

/-- A fall of the ceiling that is due takes the clock down with it and touches nothing else. -/
theorem exec_thermalCeilingFall {c : Int} (hp : s.dev.powered = true) (hhot : 95 < c)
    (hdue : ∀ g, s.dev.hotGt = some g → g + 16000000 ≤ s.time.gt) : ∃ u, exec (.thermalCeilingFall c) s = .next u ∧
      u.dev.ceiling = max 400 (s.dev.ceiling - 100) ∧ u.dev.clock = min s.dev.clock (max 400 (s.dev.ceiling - 100)) ∧
      u.dev.hotGt = some s.time.gt ∧
      ({ u with dev := { (s.senseJunction c).dev with ceiling := u.dev.ceiling, clock := u.dev.clock, hotGt := u.dev.hotGt, life := u.dev.life } } :
        State) = u ∧ ({ u with dev := s.dev } : State) = s := by
  have hgt : (s.senseJunction c).dev.hotGt = s.dev.hotGt := if_pos hhot
  have hmatch : (match (s.senseJunction c).dev.hotGt with | none => true | some g => decide (g + gtMs ≤ s.time.gt)) = true := by
    rw [hgt]
    rcases hg : s.dev.hotGt with _ | g
    · rfl
    · exact decide_eq_true (hdue g hg)
  have he : exec (.thermalCeilingFall c) s = .next ({ s.senseJunction c with dev := { (s.senseJunction c).dev with
      ceiling := max 400 (s.dev.ceiling - 100), hotGt := some s.time.gt } } : State).underCeiling := by
    refine if_neg ?_
    rw [Bool.or_eq_true, Bool.or_eq_true, not_or, not_or]
    refine ⟨⟨by simp [State.senseJunction, hp], by simpa using hhot⟩, ?_⟩
    rw [Bool.not_eq_true', Bool.not_eq_false]
    exact hmatch
  refine ⟨_, he, ?_⟩
  unfold State.underCeiling
  split
  · next h => exact ⟨rfl, (Nat.min_eq_right (Nat.le_of_lt h)).symm, rfl, rfl, rfl⟩
  · next h => exact ⟨rfl, (Nat.min_eq_left (Nat.not_lt.1 h)).symm, rfl, rfl, rfl⟩

theorem exec_thermalCeilingRise {c : Int} {g : Nat} (hp : s.dev.powered = true) (hcool : c < 90) (hg : s.dev.coolGt = some g)
    (hdue : g + 16000000 ≤ s.time.gt) : exec (.thermalCeilingRise c) s = .next { s.senseJunction c with dev :=
      { (s.senseJunction c).dev with ceiling := min 1600 (s.dev.ceiling + 100), coolGt := some s.time.gt } } := by
  have hc : (s.senseJunction c).dev.coolGt = some g := (if_pos hcool).trans (by rw [hg]; rfl)
  change execThermalCeilingRise c s = _
  unfold execThermalCeilingRise
  extract_lets u
  rw [show u.dev.coolGt = some g from hc]
  refine if_neg ?_
  rw [Bool.or_eq_true, not_or]
  exact ⟨by simp [u, State.senseJunction, hp], by simpa [u, State.senseJunction, gtMs] using hdue⟩

theorem exec_thermalTrip {c : Int} (hp : s.dev.powered = true) (hhot : 110 < c) : ∃ u, exec (.thermalTrip c) s = .next u ∧
    u.dev.powered = false ∧ u.dev.tripped = true ∧ u.dev.powerUpSeen = false ∧ u.courses = [] ∧ u.dev.life = (s.life 8).dev.life ∧
      u.mem.lpddr = s.mem.lpddr := by
  have hn : ¬ (!(s.senseJunction c).dev.powered || decide (c ≤ 110)) = true := by simp [State.senseJunction, hp, hhot]
  exact ⟨_, if_neg hn, rfl, rfl, rfl, rfl, rfl, rfl⟩

theorem exec_thermalExcursionEnd {c g : Int} (hcool : c ≤ 95) (hg : s.dev.hotFirst = some g) : exec (.thermalExcursionEnd c) s =
    .next (({ s.senseJunction c with dev := { (s.senseJunction c).dev with hotFirst := none } } : State).life
      (0x10 + durationBin ((s.time.gt : Int) - g).toNat)) := by
  have hf : (s.senseJunction c).dev.hotFirst = some g := (if_neg (Int.not_lt.2 hcool)).trans hg
  change execThermalExcursionEnd c s = _
  unfold execThermalExcursionEnd
  extract_lets u
  rw [show u.dev.hotFirst = some g from hf]
  exact if_neg (Int.not_lt.2 hcool)

/-! ## Current (R14) -/

theorem meanAbove_iff (d : Device) (n : Nat) : d.meanAbove (10 * n) = true ↔ n * d.samples.length < d.samples.foldl (· + ·) 0 := by
  rw [Device.meanAbove, decide_eq_true_eq, Nat.mul_assoc]
  omega

theorem exec_clockReduction (hp : s.dev.powered = true) (hmean : 7500 * s.dev.samples.length < s.dev.samples.foldl (· + ·) 0)
    (hdue : s.dev.overGt ≤ s.time.gt) (hclock : 400 < s.dev.clock) : exec .clockReduction s =
      .next (({ s with dev := { s.dev with clock := max 400 (s.dev.clock - 100), overGt := s.time.gt + 16000 } } : State).life 7) := by
  have habove : s.dev.meanAbove 75000 = true := (meanAbove_iff s.dev 7500).2 hmean
  exact if_neg (by simp [hp, habove, hdue, hclock])

theorem exec_clockRaise (hp : s.dev.powered = true) (hmean : s.dev.samples.foldl (· + ·) 0 ≤ 7125 * s.dev.samples.length)
    (hdue : s.dev.underGt + 160000 ≤ s.time.gt) (hclock : s.dev.clock < s.dev.ceiling) : exec .clockRaise s =
      .next { s with dev := { s.dev with clock := min s.dev.ceiling (s.dev.clock + 100), underGt := s.time.gt } } := by
  have hbelow : s.dev.meanAbove 71250 = false := by
    rw [← Bool.not_eq_true, meanAbove_iff s.dev 7125]
    omega
  exact if_neg (by simp [hp, hbelow, hdue, hclock])

/-- A sample at its time: the mean takes it after those that its gap repeats, and the limits' times follow. -/
theorem exec_vcoreCurrentSample {amps : Nat} (hk : 0 < (s.time.gt - s.dev.sampleGt) / 64) :
    ∃ t, exec (.vcoreCurrentSample amps) s = .next t ∧ t.dev.sampleGt = s.dev.sampleGt + 64 * ((s.time.gt - s.dev.sampleGt) / 64) ∧
       ((s.time.gt - s.dev.sampleGt) / 64 = 1 → t.dev.samples = (amps :: s.dev.samples).take 250) ∧
       (∀ x l, s.dev.samples = x :: l →
         t.dev.samples = (amps :: (List.replicate (min ((s.time.gt - s.dev.sampleGt) / 64 - 1) 250) x ++ s.dev.samples)).take 250) ∧
       ({ t with dev := { t.dev with
         samples := s.dev.samples, sampleGt := s.dev.sampleGt, overGt := s.dev.overGt, underGt := s.dev.underGt } } : State) = s := by
  have hn : ¬ ((s.time.gt - s.dev.sampleGt) / 64 == 0 && !s.dev.samples.isEmpty) = true := by
    rw [beq_eq_false_iff_ne.2 (Nat.ne_of_gt hk)]
    simp
  refine ⟨_, if_neg hn, rfl, fun h1 => ?_, fun x l hx => ?_, rfl⟩
  · simp only [h1, meanSamples]
    rcases s.dev.samples with _ | ⟨x, l⟩ <;> rfl
  · simp only [hx, meanSamples]
    rfl

/-! ## Life counters (R27) -/

theorem life_spec (s : State) (n : Nat) : (kget (s.life n).dev.life n).getD 0 = min ((kget s.dev.life n).getD 0 + 1) (2 ^ 32 - 1) ∧
    (∀ m, m ≠ n → kget (s.life n).dev.life m = kget s.dev.life m) ∧
      ({ (s.life n) with dev := { (s.life n).dev with life := s.dev.life } } : State) = s := by
  refine ⟨?_, fun m hm => kget_kset_ne hm _, rfl⟩
  simp only [State.life, kget_kset_self]
  rfl

/-! ## Attestation (R22) -/

theorem digestBytes_length (d : BitVec 384) : (digestBytes d).length = 48 := by
  simp [digestBytes, beBytes, leBytes_length]

theorem measures_length (m : Vector (BitVec 384) 4) : (m.toList.flatMap digestBytes).length = 192 := by
  simp [List.length_flatMap, digestBytes_length]

/-- A report's layout: its header, the nonce and the measurements come first, and 384 bytes in all. -/
theorem report_spec (s : State) (nonce : BitVec 384) : (s.report nonce).length = 384 ∧
    ((s.report nonce).drop 16).take 48 = digestBytes nonce ∧
    ((s.report nonce).drop 64).take 192 = s.dev.measure.toList.flatMap digestBytes := by
  unfold State.report
  generalize hh : leBytes 16 (Config.reportHeader Config.fusedVersion s.dev.bootNo).toNat = header
  have hheader : header.length = 16 := hh ▸ leBytes_length _ _
  have hnonce : (digestBytes nonce).length = 48 := digestBytes_length nonce
  have hmeasures := measures_length s.dev.measure
  extract_lets body sig
  refine ⟨?_, ?_, ?_⟩
  · simp only [body, List.length_append, hheader, hnonce, hmeasures, leBytes_length, List.length_flatMap]
    rfl
  · simp only [body, List.append_assoc]
    rw [List.drop_left' hheader, List.take_left' hnonce]
  · simp only [body, List.append_assoc]
    rw [← List.append_assoc header, List.drop_left' (by rw [List.length_append, hheader, hnonce]), List.take_left' hmeasures]

/-- Settles O40: what a start keeps and how it passes, then each event by its lemma. -/
theorem powerAndHeat : Obligations.PowerAndHeat := by
  unfold Obligations.PowerAndHeat
  refine ⟨⟨fun s i => ⟨fun h => ?_, fun ht hj => ⟨?_, ?_⟩, fun ht hj => ?_, fun hp => ?_, fun c hc ht hu => ?_⟩, fun s i => ?_, fun s vaux => ?_,
    fun s c hp => ⟨fun hc hg => exec_thermalCeilingFall hp hc hg, fun hc g hg hdue => exec_thermalCeilingRise hp hc hg hdue,
      fun hc => exec_thermalTrip hp hc, fun hc g hg => exec_thermalExcursionEnd hc hg⟩,
    fun s amps => ⟨fun hk hs => ?_, fun hk => exec_vcoreCurrentSample hk⟩,
    fun s hp => ⟨exec_clockReduction hp, exec_clockRaise hp⟩,
    fun s rail gt => ⟨fun h => if_neg (Nat.not_le.2 h), fun h => if_pos h, rfl⟩, life_spec⟩,
    fun s a => ⟨fun hr hd => ?_, fun h => ?_⟩, fun s ecc hr hu hf => ?_, fun s img hr hu => ?_, fun s img hu => ?_,
    fun s nonce => ⟨rfl, report_spec s nonce⟩⟩
  · rw [exec_powerOn, if_neg]
    rintro ⟨ht, hj⟩
    rcases h with h | h
    · exact absurd (h.symm.trans ht) (by decide)
    · omega
  · rw [exec_powerOn, if_pos ⟨ht, hj⟩]
  · rw [exec_powerUpCommand _ ht, if_neg (Int.not_lt.2 hj)]
  · rw [exec_powerUpCommand _ ht, if_pos hj]
  · exact if_neg (by simp [hp])
  · exact if_pos (by simp [State.senseJunction, ht, hu, hc])
  · obtain ⟨h1, h2, h3, h4, h5, h6, h7, h8, h9, h10, h11, h12, h13, h14, h15, h16, h17, h18, hpeek⟩ := start_spec s i
    exact ⟨h1, h2, h3, h4, h5, h6, h7, h8, h9, h10, h11, h12, h13, h14, h15, h16, h17, h18, hpeek,
      fun hprev hlen hok hA hm => start_ready hprev hlen hok hA hm⟩
  · obtain ⟨hoff, hcourses, hpanels, hhbm, hhost, hlpddr, hlife, hseq, hbase, hdomain, hgt⟩ := railsOff_spec s
    cases vaux
    · exact ⟨_, rfl, hoff, hcourses, hpanels, hhbm, hhost, hgt, fun _ => ⟨hlpddr, hlife, hseq, hbase, hdomain⟩, fun h => by cases h⟩
    · exact ⟨_, rfl, hoff, hcourses, hpanels, hhbm, hhost, rfl, (fun h => by cases h), fun _ => ⟨rfl, rfl, rfl, rfl⟩⟩
  · exact if_pos (by simpa [hk] using hs)
  · exact if_neg (by simp [hr, hd])
  · refine if_pos ?_
    rcases h with h | h <;> simp [h]
  · obtain ⟨r, he⟩ := failOver_eq ((failReason_isSome_iff s ecc).2 ⟨hr, hf⟩) hu
    obtain ⟨hdev, hreg, hmem, hwork, htables⟩ := takeOver_spec s r
    exact ⟨_, congrArg Host.Outcome.next he, congrArg Device.activeCx hdev, congrArg Device.missed hdev, congrArg Device.cxError hdev,
      (congrArg Device.life hdev :), hreg, hmem, hwork, htables⟩
  · obtain ⟨t, he, hmeasure, hreg, hmem, hupd⟩ := exec_liveUpdate hr hu img
    refine ⟨t, he, hmeasure, hreg, hmem, fun hok hmajor hminor => hupd.trans (if_pos ⟨hok, hmajor, hminor⟩), fun h => ?_⟩
    rw [hupd, hu, if_neg]
    rintro ⟨hok, hmajor, hminor⟩
    rcases h with h | h | h
    · exact absurd (h.symm.trans hok) (by decide)
    · exact h hmajor
    · omega
  · have hsome : s.dev.updating.isSome := by rw [hu]; rfl
    exact ⟨exec_updateDone hu, exec_updateDone_busy hsome, exec_updateAbandoned hsome⟩

end Sys2Proof.Laws
end

section
/-! Forms that issue uniformly for all their strands (R285), and TDSC (R46, R286). -/
namespace Sys2Proof.Laws
open Sys2Proof.Machine Sys2Proof.Safety

variable {s : State} {i : Instr} {req : List Reg} {I : Iss}

/-! ## An instruction that changes no course but by moving on -/

theorem passed_work (s : State) (I : Iss) : (passed s I).work = s.work := by
  unfold passed
  split <;> rfl

/-- An effect that leaves the courses and the parked faults' issuers as they were completes with nothing but its own change. -/
theorem complete_passes {rmw visible : Bool} {u : State} (h : Issues s i rmw req I) (hx : exec i s = .next (State.complete I { s := u, visible }))
    (hcourses : u.courses = (passed s I).courses)
    (hfaults : ∀ p ∈ u.async.faults, ∃ q ∈ s.async.faults, p.2.who = q.2.who) :
    Passes s i I I.c (fun _ => pcNext I.E.pc) u := by
  have hown : u.course? I.core I.slot = some (passedCourse I.c) := (congrArg (kget · _) hcourses).trans (passed_course h.course)
  have hothers (k : Nat) (hk : k ≠ courseKey I.core I.slot) : kget u.courses k = kget s.courses k := by
    rw [hcourses]
    exact passed_others s I hk
  have hparked (p) (hp : p ∈ u.async.faults) : p.2.who ≠ .course I.core I.slot I.E.pc := by
    obtain ⟨q, hq, hwho⟩ := hfaults p hp
    rw [hwho]
    exact h.faults q hq
  obtain ⟨c, hmoves, hkreg, hstrands, hcomplete⟩ := complete_moves (e := { s := u, visible }) hothers hown h.course h.live rfl hparked
    rfl rfl rfl rfl rfl
  refine ⟨_, c, hx, hmoves, ⟨hkreg, hstrands⟩, ?_⟩
  rw [hcomplete]
  rfl

/-! ## Forms that issue uniformly (R285) -/

section
variable {visible : Bool} {body : Iss → (Reg → Word) → State → Except Stop State}

theorem runShared_ok {u : State} (h : Issues s i false req I) (hb : body I (I.c.read I.leader) (passed s I) = .ok u) :
    runShared s i req visible body = .next (State.complete I { s := u, visible }) :=
  runCourse_ok h (s2 := passed s I) (by rw [hb])

/-- A failure of the one issue is every executing strand's, but for ILLEGAL, which is the whole entry's. -/
theorem runShared_traps {x : Trp} (h : Issues s i false req I) (hb : body I (I.c.read I.leader) (passed s I) = .error (.trap x))
    (hx : x.cause ≠ Cause.illegal) : runShared s i req visible body = .next ((passed s I).failed I (.trap x) (maskOf I.lanes)) :=
  runCourse_error h (s2 := passed s I) (by rw [hb]; simp [hx])
end

/-! ## Descriptor fields (R47, R286) -/

theorem poke_faults_who (s : State) (l : Loc) (bs : List Byte) :
    ∀ p ∈ (s.poke l bs).async.faults, ∃ q ∈ s.async.faults, p.2.who = q.2.who := by
  intro p hp
  unfold State.poke at hp
  dsimp only at hp
  split at hp
  · obtain ⟨q, hq, rfl⟩ := List.mem_map.1 hp
    refine ⟨q, hq, ?_⟩
    dsimp only
    split <;> rfl
  · exact ⟨p, hp, rfl⟩

/-- A descriptor field is stored where the descriptor has a home, and nowhere else. -/
theorem setTile_cases (s : State) (t : Tile) (off n v : Nat) : s.setTile t off n v = s ∨ ∃ l bs, s.setTile t off n v = s.poke l bs := by
  unfold State.setTile
  split
  · exact .inr ⟨_, _, rfl⟩
  · exact .inl rfl

theorem setTile_courses (s : State) (t : Tile) (off n v : Nat) : (s.setTile t off n v).courses = s.courses := by
  rcases setTile_cases s t off n v with h | ⟨l, bs, h⟩ <;> rw [h]
  rfl

theorem setTile_faults_who (s : State) (t : Tile) (off n v : Nat) :
    ∀ p ∈ (s.setTile t off n v).async.faults, ∃ q ∈ s.async.faults, p.2.who = q.2.who := by
  rcases setTile_cases s t off n v with h | ⟨l, bs, h⟩ <;> rw [h]
  · exact fun p hp => ⟨p, hp, rfl⟩
  · exact poke_faults_who s l bs

/-! ## TDSC (R286) -/

/-- What TDSC makes of a launch's descriptor `idx` when its field number `field` takes `v`: the change, or FORMAT with its detail. -/
def tdscResult (s : State) (l : Nat) (L : Launch) (idx v field : Nat) : Except Stop State :=
  let off := (tdscField field).1
  let n := (tdscField field).2
  let a := L.hdr.ttbase + BitVec.ofNat 64 (64 * idx)
  if L.hdr.ttcount ≤ idx || 256 ^ n ≤ v then .error (tileStop 0x01 idx) else
  match s.readRange (launchWho l L) a 64 with
  | .error e => .error (e.stop a)
  | .ok b =>
    match tileFields l idx a L.hdr.ntens (b.take off ++ leBytes n v ++ b.drop (off + n)) with
    | none => .error (tileStop 0x01 idx)
    | some t => if (s.dirOf l idx).isSome && field != 5 && field != 9 then .error (tileStop 0x02 idx) else .ok (s.setTile t off n v)

/-- The descriptor that a field of `n` bytes at `off` makes of the bytes read, if it is valid. -/
def tdscTile (l : Nat) (L : Launch) (idx v field : Nat) (b : List Byte) : Option Tile :=
  tileFields l idx (L.hdr.ttbase + BitVec.ofNat 64 (64 * idx)) L.hdr.ntens
    (b.take (tdscField field).1 ++ leBytes (tdscField field).2 v ++ b.drop ((tdscField field).1 + (tdscField field).2))

section
variable {l idx v field : Nat} {L : Launch}

theorem tdscResult_out_of_range (h : L.hdr.ttcount ≤ idx ∨ 256 ^ (tdscField field).2 ≤ v) :
    tdscResult s l L idx v field = .error (tileStop 0x01 idx) :=
  if_pos (by simpa using h)

/-- In range, with the descriptor read, the answer turns on the descriptor that the field makes. -/
theorem tdscResult_in_range {b : List Byte} (hidx : idx < L.hdr.ttcount) (hv : v < 256 ^ (tdscField field).2)
    (hb : s.readRange (launchWho l L) (L.hdr.ttbase + BitVec.ofNat 64 (64 * idx)) 64 = .ok b) :
    tdscResult s l L idx v field =
      match tdscTile l L idx v field b with
      | none => .error (tileStop 0x01 idx)
      | some t => if (s.dirOf l idx).isSome && field != 5 && field != 9 then .error (tileStop 0x02 idx)
        else .ok (s.setTile t (tdscField field).1 (tdscField field).2 v) := by
  unfold tdscResult
  have hn : ¬ (L.hdr.ttcount ≤ idx || 256 ^ (tdscField field).2 ≤ v) = true := by simp [hidx, hv]
  simp only [if_neg hn, hb, tdscTile]
end

/-- TDSC for the issuing course's launch. -/
def tdscBody (f : Gen) (I : Iss) (val : Reg → Word) (s : State) : Except Stop State :=
  match s.launchId I.c with
  | none => .error (tileStop 0x01 (val f.sa).toNat)
  | some l => match s.launch? l with
    | none => .error (tileStop 0x01 (val f.sa).toNat)
    | some L => tdscResult s l L (val f.sa).toNat (val f.sb).toNat (bitsOf f.imm.toNat 3 0)

theorem exec_tdsc (f : Gen) (s : State) : exec (.tdsc f) s = runShared s (.tdsc f) [f.sa, f.sb] true (tdscBody f) := by
  change execTdsc f s = _
  unfold execTdsc
  rfl

theorem tdscBody_passed {f : Gen} {l : Nat} {L : Launch} (hl : s.launchId I.c = some l) (hL : s.launch? l = some L) (val : Reg → Word) :
    tdscBody f I val (passed s I) =
      tdscResult (passed s I) l L (val f.sa).toNat (val f.sb).toNat (bitsOf f.imm.toNat 3 0) := by
  have hl' : (passed s I).launchId I.c = some l := by
    unfold State.launchId State.skein? at hl ⊢
    rwa [passed_work]
  have hL' : (passed s I).launch? l = some L := by
    unfold State.launch? at hL ⊢
    rwa [passed_work]
  simp only [tdscBody, hl', hL']

theorem exec_tdsc_traps {f : Gen} {d : Byte} {idx : Nat} (h : Issues s (.tdsc f) false [f.sa, f.sb] I)
    (hr : tdscBody f I (I.c.read I.leader) (passed s I) = .error (tileStop d idx)) :
    ∃ x, Traps s (.tdsc f) I x (maskOf I.lanes) ∧ x.cause = Cause.format ∧ x.detail = d ∧ x.tval = BitVec.ofNat 64 idx :=
  ⟨{ cause := Cause.format, detail := d, tval := BitVec.ofNat 64 idx },
    (exec_tdsc f s).trans (runShared_traps h hr (show Cause.format ≠ Cause.illegal by decide)), rfl, rfl, rfl⟩

/-- Settles O22: each branch of `tdscResult` is a branch of the statement; a failure is FORMAT with the branch's detail, and success changes
the field alone. -/
theorem tileDescriptors : Obligations.TileDescriptors := by
  unfold Obligations.TileDescriptors
  intro f s I l L h hl hL
  extract_lets idx v field off n a
  have hbody : tdscBody f I (I.c.read I.leader) (passed s I) = tdscResult (passed s I) l L idx v field := tdscBody_passed hl hL _
  have hdir : (passed s I).dirOf l idx = s.dirOf l idx := by
    unfold State.dirOf
    rw [passed_async]
  refine ⟨fun hout => exec_tdsc_traps h (hbody.trans (tdscResult_out_of_range hout)), fun hidx hv b hb => ?_⟩
  have hread := hbody.trans (tdscResult_in_range hidx hv hb)
  change let t := tdscTile l L idx v field b
    _ ∧ _ ∧ _
  extract_lets t
  refine ⟨fun (ht : tdscTile l L idx v field b = none) => ?_, fun ht hin h5 h9 => ?_, fun y (ht : tdscTile l L idx v field b = some y) hfree => ?_⟩
  · rw [ht] at hread
    obtain ⟨x, hx, hcause, hdetail, -⟩ := exec_tdsc_traps h hread
    exact ⟨x, hx, hcause, hdetail⟩
  · obtain ⟨y, hy⟩ := Option.ne_none_iff_exists'.1 ht
    have hheld : (((passed s I).dirOf l idx).isSome && field != 5 && field != 9) = true := by
      simp [hdir, Option.isSome_iff_ne_none, hin, h5, h9]
    rw [show tdscTile l L idx v field b = some y from hy] at hread
    obtain ⟨x, hx, hcause, hdetail, -⟩ := exec_tdsc_traps h (hread.trans (if_pos hheld))
    exact ⟨x, hx, hcause, hdetail⟩
  · have hmay : ¬ (((passed s I).dirOf l idx).isSome && field != 5 && field != 9) = true := by
      rw [hdir]
      rcases hfree with hfree | hfree | hfree <;> simp [hfree]
    rw [ht] at hread
    refine complete_passes h ((exec_tdsc f s).trans (runShared_ok h (hread.trans (if_neg hmay)))) (setTile_courses _ _ _ _ _) ?_
    rw [← passed_async s I]
    exact setTile_faults_who _ _ _ _ _

end Sys2Proof.Laws
end

section
/-! A COLLECTIVE node whose own block meets a watchpoint (R386, R416, R446), where the table of courses lists a slot twice. -/
namespace Sys2Proof.Laws
open Sys2Proof.Machine Sys2Proof.Safety

/-- Memory of one device: page tables that map the first GiB of HBM4E onto itself (R245, R246), a descriptor at 0x3000 that broadcasts 64 elements
at 0x5000 to 0x6000 here and to device 1, and a graph at 0x5000 whose node 0 is a COLLECTIVE with that descriptor. -/
def broadcastCells : Memory :=
  [(0x3000, 4), (0x3002, 9), (0x3003, 2), (0x300D, 1), (0x3011, 0x50), (0x3019, 0x60), (0x3020, 0x40), (0x3051, 1), (0x5000, 3), (0x5011, 0x30),
    (0x100000, 0x01), (0x100002, 0x20), (0x200000, 0x1B)]

/-- The node and the descriptor as they are read. -/
def broadcastNode : BitVec 512 := 3 + 0x3000 <<< 128
def broadcastDesc : List Byte :=
  leBytes 16 (4 + 9 * 2 ^ 16 + 2 * 2 ^ 24 + 2 ^ 104) ++ leBytes 16 (0x5000 + 0x6000 * 2 ^ 64) ++ leBytes 48 0x40 ++ leBytes 48 (2 ^ 8)

/-- An instance of that graph with node 0 ready. -/
def broadcastRun : GraphRun :=
  { queue := 0, ctx := 1, entry := { ContextEntry.zero with ptroot := 0x100000 }, gbase := 0x5000, first := 0, nnodes := 2, area := 0x7000,
    areaAt := [], donesig := 0, doneaddr := 0, cause := 5, parent := 0, counts := [], ordinary := [0], ready := [0], running := [], loops := [],
    backs := [], early := [], ended := false, failed := false }

/-- A watchpoint on engine writes at 0x6000 (R417). -/
def watchDst : Watch := { base := 0x6000, ctl := 2 ^ 37 + 2 ^ 38, home := [(⟨.hbm, 0x6000⟩, 8)] }

/-- The walker is about to start the node while the watchpoint stands in a panel of an attached skein, and the table of courses lists the
skein's one slot twice, with different registers. -/
def listedTwice : State :=
  let c := Course.start (loadLaunch false) 0 0 0 0
  { State.reset with
    mem := { Memories.start with hbm := broadcastCells }
    work := { WorkState.start with
      launches := [(0, loadLaunch false)], skeins := [(0, { loadSkein with attached := true })], runs := [(20, broadcastRun)], nextId := 21 }
    panels := [(0, { Panel.start (loadHeader false) 0 0 with watches := Vector.replicate 4 watchDst })]
    courses := [(0, c), (0, { c with kreg := Vector.replicate 8 1 })] }

/-- The node may start. -/
theorem listedTwice_node : nodeIs listedTwice 20 3 broadcastRun 0 [] broadcastNode :=
  ⟨rfl, rfl, rfl, by decide +kernel, by decide +kernel, rfl, by decide, by decide +kernel⟩

/-- Its descriptor reads and passes the checks. -/
theorem listedTwice_descriptor :
    let u := (started listedTwice 20 broadcastRun 0 [] broadcastNode).2
    u.readRange (graphWho broadcastRun) (ndWord broadcastNode 0x10) 128 = .ok broadcastDesc ∧
      u.descOk (BitVec.ofNat 1024 (leNat broadcastDesc)) = true ∧ u.joinTaken none (BitVec.ofNat 1024 (leNat broadcastDesc)) = false := by
  decide +kernel

/-- The registers per course in slot 0 of core 0. -/
def kregs (t : State) : Option (List Word) := (kget t.courses 0).map (·.kreg.toList)

theorem kregs_of_registersKept {s t : State} (h : RegistersKept s t) : kregs t = kregs s := by
  have h0 := congrArg (Option.map Prod.fst) (h 0)
  rwa [Option.map_map, Option.map_map] at h0

/-- The copy of the device's own block meets the watchpoint, and the stop of the skein writes both listed courses, the second over the first. -/
theorem listedTwice_kregs {t : State} (h : exec (.nodeCollective 20) listedTwice = .next t) : kregs t ≠ kregs listedTwice := by
  have hrun : (match exec (.nodeCollective 20) listedTwice with | .next t => decide (kregs t ≠ kregs listedTwice) | _ => false) = true := by
    decide +kernel
  rw [h] at hrun
  exact of_decide_eq_true hrun

/-- Refutes O42: no premise keeps the table of courses from listing a slot twice, and then a COLLECTIVE node whose own block meets a watchpoint
of an attached skein (R386, R416) does not keep every course's registers: the stop writes the second listed course over the first. The
counterexample needs such a table, which is not one of strictly rising keys (`krising`). -/
theorem not_graphNodes : ¬ Obligations.GraphNodes := by
  unfold Obligations.GraphNodes
  rintro ⟨hnodes, -⟩
  obtain ⟨-, -, -, -, -, -, -, hcollective, -⟩ := hnodes listedTwice 20 broadcastRun 0 [] broadcastNode
  obtain ⟨hread, hok, hjoin⟩ := listedTwice_descriptor
  obtain ⟨t, -, hexec, hregisters, -⟩ := hcollective listedTwice_node broadcastDesc (by decide +kernel) (by decide +kernel) hread hok hjoin
  exact listedTwice_kregs hexec (kregs_of_registersKept hregisters)

end Sys2Proof.Laws
end

section
/-! A skein takes its granules cleared (R85, R252): COMMIT does not keep every byte of memory. -/
namespace Sys2Proof.Laws
open Sys2Proof.Machine Sys2Proof.Safety

/-- A skein that waits for two granules of one core. -/
def usedGranuleSkein : Skein := { loadSkein with phase := .queued, cores := [], granules := [] }

/-- It waits while the first granule of core 5, which is free, holds a byte that an earlier skein has left. -/
def usedGranule : State :=
  { State.reset with
    mem := { Memories.start with unit := [((unitLoc 5 0 0).addr, 0x55)] }
    work := { WorkState.start with
      launches := [(0, loadLaunch false)], skeins := [(0, usedGranuleSkein)], nextId := 10 } }

/-- Its commit is under way, from the affine dispatcher to core 5. -/
def usedGranuleAgent : Agent := { agent := 4, skein := 0, state := .committing 5 0 }

theorem usedGranule_byte : usedGranule.peek (unitLoc 5 0 0) = 0x55 := by decide +kernel

/-- The granule that the skein takes reads as zero (R252). -/
theorem usedGranule_placed_byte :
    (usedGranule.placeSkein usedGranuleAgent usedGranuleSkein (loadLaunch false) 5).peek (unitLoc 5 0 0) = 0 := by decide +kernel

/-- Refutes O44: the statement has COMMIT keep every byte outside the rings of records, but a granule that a skein takes reads as zero in every
byte, so that no context reads another's leavings (R252). The counterexample is an ordinary placement on a core whose free granule is not
all zero. -/
theorem not_skeinLives : ¬ Obligations.SkeinLives := by
  unfold Obligations.SkeinLives
  rintro ⟨-, hcommit, -⟩
  obtain ⟨-, hmem, -⟩ := hcommit usedGranule usedGranuleAgent usedGranuleSkein (loadLaunch false) 5 rfl rfl rfl (by decide +kernel)
    (by decide +kernel) (by decide +kernel) (fun c x hx => nomatch hx)
  have hkept := hmem (unitLoc 5 0 0) (.inl (by decide))
  rw [usedGranule_placed_byte, usedGranule_byte] at hkept
  exact absurd hkept (by decide)

end Sys2Proof.Laws
end

section
/-! Launch queues (R57 to R63): what taking, holding and rejecting a head packet leave of the queue, the launcher and the registers. -/
namespace Sys2Proof.Laws
open Sys2Proof.Machine Sys2Proof.Safety

variable {s t : State}

/-! ## The tail (R58, R59) -/

/-- A running queue whose tail is out of range stops with an error. -/
theorem readTail_outOfRange {q : Nat} {b : List Byte} (hrun : (s.queue q).state = 1)
    (hb : s.readRange (s.whoOf (s.queue q).ctx.toNat) (s.queue q).tailaddr 8 = .ok b)
    (hout : leNat b < (s.queue q).head.toNat ∨ (s.queue q).head.toNat + 2 ^ (s.queue q).log2size.toNat < leNat b) :
    (s.readTail q).queue q = { s.queue q with state := 2, packet := none, waiting := none } ∧ RegistersKept s (s.readTail q) := by
  unfold State.readTail
  extract_lets x
  rw [if_neg (by simp [x, hrun])]
  simp only [x, hb]
  rw [if_pos (by simpa using hout)]
  refine ⟨?_, registersKept_of_courses (emitErr_courses _ _ _)⟩
  rw [State.queue, emitErr_tables]
  exact queue_setQueue_self s q _

/-- A head packet that has been read is not read again (R58). -/
theorem loadPacket_read {q : Nat} (h : (s.queue q).packet.isSome) : s.loadPacket q = s := by
  have hread : s.packetUnread (s.queue q) = false := by simp [State.packetUnread, Option.isNone_eq_false_iff.2 h]
  simp [State.loadPacket, hread]

/-! ## HEAD moves past a packet (R57, R62) -/

theorem Recorded.time (h : Recorded s t) : t.time = s.time := (congrArg State.time h :)
theorem Recorded.work (h : Recorded s t) : t.work = s.work := (congrArg State.work h :)
theorem Recorded.dbg (h : Recorded s t) : t.dbg = s.dbg := (congrArg State.dbg h :)

/-- A queue's entry past its head packet. -/
def pastHead (x : Queue) : Queue := { x with head := x.head + 1, packet := none, waiting := none }

/-- The queue's HEAD and the launcher's turn are what a passed packet changes, beside the word at HEADADDR. -/
theorem passHead_recorded (s : State) (q : Nat) (x : Queue) : Recorded { s.setQueue q (pastHead x) with
    work := { s.work with lastQueue := s.work.lastQueue.setIfInBounds x.qclass.toNat (q + 1) } } (s.passHead q x) := by
  unfold State.passHead
  extract_lets
  split
  · next h => exact writeRange_recorded h
  · exact Recorded.refl _

/-- A state that has the tables of a passed packet has the queue past its head, and the other queues as they were. -/
theorem queue_of_passHead {q : Nat} {x : Queue} (h : t.tables = (s.passHead q x).tables) :
    t.queue q = pastHead x ∧ ∀ r, r ≠ q → t.queue r = s.queue r := by
  have htables : t.tables = (s.setQueue q (pastHead x)).tables := h.trans (passHead_recorded s q x).tables
  have hqueue (r : Nat) : t.queue r = (s.setQueue q (pastHead x)).queue r := by rw [State.queue, htables]; rfl
  exact ⟨(hqueue q).trans (queue_setQueue_self s q _), fun r hr => (hqueue r).trans (queue_setQueue_ne s q r _ hr)⟩

/-- Accepting a packet keeps the launcher busy for its gap, beside passing the packet and recording it (R62). -/
theorem packetTaken_carried (s : State) (q : Nat) (x : Queue) : Carried { s.passHead q x with
    work := { (s.passHead q x).work with takeAt := (s.passHead q x).time.gt + acceptGap } } (s.packetTaken q x) := emit_carried _ _

/-- An accepted packet passes, and the launcher is busy for its gap. -/
theorem packetTaken_spec (s : State) (q : Nat) (x : Queue) :
    ((s.packetTaken q x).queue q = pastHead x ∧ ∀ r, r ≠ q → (s.packetTaken q x).queue r = s.queue r) ∧
      (s.packetTaken q x).work.takeAt = s.time.gt + 64 ∧ RegistersKept s (s.packetTaken q x) ∧ (s.packetTaken q x).work.runs = s.work.runs := by
  have hpass := passHead_recorded s q x
  have htaken := (packetTaken_carried s q x).recorded
  refine ⟨queue_of_passHead htaken.tables, ?_, registersKept_of_courses (htaken.courses.trans hpass.courses), ?_⟩
  · rw [htaken.work]
    exact congrArg (fun t : TimeState => t.gt + 64) hpass.time
  · rw [htaken.work]
    exact (congrArg WorkState.runs hpass.work :)

/-- A rejected packet passes too, and takes none of the launcher's time. -/
theorem packetBad_spec (s : State) (q : Nat) (x : Queue) :
    (s.packetBad q x).queue q = pastHead x ∧ (s.packetBad q x).work.takeAt = s.work.takeAt := by
  obtain ⟨hself, -⟩ := queue_of_passHead (s := s) (t := s.packetBad q x) (q := q) (x := x) (emitErr_tables _ _ _)
  have hpass : (s.passHead q x).work.takeAt = s.work.takeAt := (congrArg WorkState.takeAt (passHead_recorded s q x).work :)
  exact ⟨hself, (congrArg WorkState.takeAt (emitErr_recorded (s.passHead q x) _ _).work).trans hpass⟩

/-! ## The head packet is judged (R61, R62) -/

section
variable {q type p : Nat} {eff : Queue → Nat → State → State}

/-- On its turn the launcher takes a packet that it can read: by its type, and then by its checks. -/
theorem takePacket_turn (hturn : s.nextQueue = some q) (hfree : s.work.takeAt ≤ s.time.gt) (hheld : (s.queue q).waiting = none)
    (hp : s.headPacket (s.queue q) = some p) : s.takePacket q type eff =
      if (if pkType p ≤ 4 then pkType p else 0) != type then s
      else if packetOk (s.ctxEntry (s.queue q).ctx.toNat) p then eff (s.queue q) p s else s.packetBad q (s.queue q) := by
  simp [State.takePacket, hturn, State.launcherFree, hfree, hheld, hp]

/-- A packet that passes its checks has its type's effect. -/
theorem takePacket_accepted (htype : type ≤ 4) (h : headIs s q type p) : s.takePacket q type eff = eff (s.queue q) p s := by
  obtain ⟨hturn, hfree, hheld, hp, rfl, hok⟩ := h
  rw [takePacket_turn hturn hfree hheld hp, if_pos htype, if_neg (by simp), if_pos hok]

/-- One that fails them is rejected whatever its effect would have been. -/
theorem takePacket_rejected (hturn : s.nextQueue = some q) (hfree : s.work.takeAt ≤ s.time.gt) (hheld : (s.queue q).waiting = none)
    (hp : s.headPacket (s.queue q) = some p) (hbad : packetOk (s.ctxEntry (s.queue q).ctx.toNat) p = false)
    (htype : type = if pkType p ≤ 4 then pkType p else 0) : s.takePacket q type eff = s.packetBad q (s.queue q) := by
  rw [takePacket_turn hturn hfree hheld hp, ← htype, if_neg (by simp), if_neg (by simp [hbad])]

/-- A WAIT packet passes when its counter has the value, and holds the head otherwise (R61). -/
theorem exec_packetWait (h : headIs s q 3 p) {i : Nat} (hi : counterOf (s.ctxEntry (s.queue q).ctx.toNat) (pkField p 8 2) = some i) :
    exec (.packetWait q) s = .next (if pkField p 0x10 8 ≤ (s.counter i).value.toNat then s.packetTaken q (s.queue q)
      else s.setQueue q { s.queue q with packet := some (some p), waiting := some (i, BitVec.ofNat 64 (pkField p 0x10 8)) }) := by
  have hv : (BitVec.ofNat 64 (pkField p 0x10 8)).toNat = pkField p 0x10 8 := by
    rw [BitVec.toNat_ofNat]
    exact Nat.mod_mod _ _
  change Host.Outcome.next (s.takePacket q 3 _) = _
  simp only [takePacket_accepted (by decide) h, hi, hv]

/-- A GRAPH packet whose area can be zeroed starts a run of its graph (R63). -/
theorem exec_packetGraph (h : headIs s q 1 p) {s1 : State} {homes : List (Loc × Nat)}
    (hw : s.writeRange (s.whoOf (s.queue q).ctx.toNat) (BitVec.ofNat 64 (pkField p 0x18 8)) (List.replicate (areaBytes (pkField p 0x12 2)) 0) = .ok s1)
    (hh : s.homes (s.whoOf (s.queue q).ctx.toNat) .store (BitVec.ofNat 64 (pkField p 0x18 8)) (areaBytes (pkField p 0x12 2) / 128 + 2)
      (areaBytes (pkField p 0x12 2)) = .ok homes) :
    exec (.packetGraph q) s = .next ((s1.packetTaken q (s.queue q)).startInstance q (s.queue q) p homes) := by
  change Host.Outcome.next (s.takePacket q 1 _) = _
  simp only [takePacket_accepted (by decide) h, hw, hh]

/-- The packet that holds a head passes when the launcher's turn comes to it again. -/
theorem exec_waitPacketRelease (hturn : s.nextQueue = some q) (hfree : s.work.takeAt ≤ s.time.gt) (hheld : (s.queue q).waiting.isSome) :
    exec (.waitPacketRelease q) s = .next (s.packetTaken q (s.queue q)) := by
  change execWaitPacketRelease q s = _
  simp [execWaitPacketRelease, hturn, State.launcherFree, hfree, hheld]

end

/-! ## A run of a graph starts (R63, R64) -/

/-- The run that GRAPH packet `p` starts: node FIRST is ready with one ordinary arrival. -/
def newRun (s : State) (q : Nat) (x : Queue) (p : Nat) (homes : List (Loc × Nat)) : GraphRun :=
  { queue := q, ctx := x.ctx.toNat, entry := s.ctxEntry x.ctx.toNat, gbase := BitVec.ofNat 64 (pkField p 8 8), first := pkField p 0x10 2,
    nnodes := pkField p 0x12 2, area := BitVec.ofNat 64 (pkField p 0x18 8), areaAt := homes, donesig := BitVec.ofNat 64 (pkField p 0x20 8),
    doneaddr := BitVec.ofNat 64 (pkField p 0x28 8), cause := (s.newCause launcherTaker).1, parent := pkParent p, counts := [],
    ordinary := [pkField p 0x10 2], ready := [pkField p 0x10 2], running := [], loops := [], backs := [], early := [], ended := false,
    failed := false }

/-- The run stands under the state's next identifier, and its start is recorded. -/
theorem startInstance_carried (s : State) (q : Nat) (x : Queue) (p : Nat) (homes : List (Loc × Nat)) : Carried { s with
    work := { (s.newCause launcherTaker).2.work with
      nextId := s.work.nextId + 1
      runs := kset s.work.runs s.work.nextId (newRun s q x p homes) } } (s.startInstance q x p homes) := emit_carried _ _

/-- Settles O41: the tail by `readTail`'s two outcomes, each packet by its type's effect or by its rejection, and what passing a packet leaves. -/
theorem launchQueues : Obligations.LaunchQueues := by
  unfold Obligations.LaunchQueues
  refine ⟨fun s q => ⟨rfl, fun v s1 h => ?_, fun b => ?_, loadPacket_read⟩, fun s q p => ?_, fun s q x hx => ?_, fun s q x p homes => ?_⟩
  · change execTailWrite q (some v) s = _
    simp only [execTailWrite, h]
  · intro x hrun hb
    exact ⟨readTail_running hrun hb, readTail_outOfRange hrun hb⟩
  · intro x e
    refine ⟨fun h => ?_, fun h => ?_, fun h i hi => ?_, fun h => ?_, fun h s1 homes => exec_packetGraph h, exec_waitPacketRelease,
      fun hturn hfree hheld hp hbad i hi htype => ?_⟩
    · exact congrArg Host.Outcome.next (takePacket_accepted (by decide) h)
    · exact congrArg Host.Outcome.next (takePacket_accepted (by decide) h)
    · rw [exec_packetWait h hi]
      exact ⟨fun hle => by rw [if_pos hle], fun hlt => by rw [if_neg (Nat.not_le.2 hlt)]⟩
    · exact congrArg Host.Outcome.next (takePacket_accepted (by decide) h)
    · simp only [List.mem_cons, List.not_mem_nil, or_false] at hi
      rcases hi with rfl | rfl | rfl | rfl | rfl <;>
        exact congrArg Host.Outcome.next (takePacket_rejected hturn hfree hheld hp hbad htype)
  · obtain ⟨⟨hself, hother⟩, hat, hreg, hruns⟩ := packetTaken_spec s q x
    obtain ⟨hbad, hbadAt⟩ := packetBad_spec s q x
    exact ⟨hself, hother, hat, hreg, hruns, hbad, hbadAt⟩
  · have hstart := startInstance_carried s q x p homes
    refine ⟨newRun s q x p homes, ?_, rfl, rfl, rfl, rfl, rfl, rfl, rfl, rfl, rfl, hstart.bytes, registersKept_of_courses hstart.recorded.courses⟩
    rw [hstart.recorded.work]
    exact kget_kset_self _ _ _

end Sys2Proof.Laws
end

section
/-! Global time (R52, R77, R78): sync messages, the delay of a link and the discipline; and the checkpoint channel's SEAL and VERIFY (R443 to
R445). -/
namespace Sys2Proof.Laws
open Sys2Proof.Machine Sys2Proof.Safety

variable {s t : State}

/-! ## Messages that leave (R77) -/

/-- The state after some packets have left by its ports. -/
def outgoing (s : State) (l : List Packet) : State := { s with async := { s.async with outbox := s.async.outbox ++ l } }

theorem outgoing_outgoing (s : State) (l m : List Packet) : outgoing (outgoing s l) m = outgoing s (l ++ m) := by
  simp [outgoing, List.append_assoc]

/-- A control flit leaves as a packet of its kind and body, whatever its route (R371). -/
theorem sendControl_outgoing (s : State) (dst ctx : Nat) (f : Flow) (body : Body) :
    ∃ p : Packet, p.kind = 0x0C ∧ p.body = body ∧ s.sendControl dst ctx f body = outgoing s [p] := by
  unfold State.sendControl State.launchPacket State.portOut
  split <;> exact ⟨_, rfl, rfl, rfl⟩

theorem sendPtp_outgoing (s : State) (dst : Nat) (m : PtpMsg) :
    ∃ p : Packet, p.kind = 0x0C ∧ p.body = .ptp s.ptpDomain m ∧ s.sendPtp dst m = outgoing s [p] := sendControl_outgoing _ _ _ _ _

/-- The master's two messages to one follower. -/
def sendSync (seq : Half) (s : State) (dst : Nat) : State := (s.sendPtp dst (.sync seq none)).sendPtp dst (.followUp seq s.time.gt)

/-- Whether a packet is one of the two messages of a two-step sync. -/
def IsSync (s : State) (seq : Half) (p : Packet) : Prop :=
  p.kind = 0x0C ∧ (p.body = .ptp s.ptpDomain (.sync seq none) ∨ p.body = .ptp s.ptpDomain (.followUp seq s.time.gt))

theorem sendSync_outgoing (seq : Half) (s : State) (dst : Nat) :
    ∃ a b, IsSync s seq a ∧ IsSync s seq b ∧ sendSync seq s dst = outgoing s [a, b] := by
  obtain ⟨a, hka, hba, ha⟩ := sendPtp_outgoing s dst (.sync seq none)
  obtain ⟨b, hkb, hbb, hb⟩ := sendPtp_outgoing (outgoing s [a]) dst (.followUp seq s.time.gt)
  exact ⟨a, b, ⟨hka, .inl hba⟩, ⟨hkb, .inr hbb⟩, by rw [sendSync, ha, hb, outgoing_outgoing]; rfl⟩

/-- Two messages leave for each follower. -/
theorem sendSync_foldl_outgoing (seq : Half) (l : List Nat) (s : State) :
    ∃ ps, l.foldl (sendSync seq) s = outgoing s ps ∧ ps.length = 2 * l.length ∧ ∀ p ∈ ps, IsSync s seq p := by
  induction l generalizing s with
  | nil => exact ⟨[], by simp [outgoing], rfl, fun p hp => nomatch hp⟩
  | cons d l ih =>
    obtain ⟨a, b, ha, hb, hab⟩ := sendSync_outgoing seq s d
    obtain ⟨ps, hps, hlen, hall⟩ := ih (outgoing s [a, b])
    refine ⟨a :: b :: ps, ?_, ?_, ?_⟩
    · rw [List.foldl_cons, hab, hps, outgoing_outgoing]
      rfl
    · simp only [List.length_cons, hlen]
      omega
    · simp only [List.mem_cons, forall_eq_or_imp]
      exact ⟨ha, hb, hall⟩

theorem exec_syncInterval (h : s.isMaster = true) : exec .syncInterval s =
    .next (((List.range s.domainSize).filter s.linkUp).foldl (sendSync s.time.ptpSeq)
      { s with time := { s.time with lastSync := s.time.gt, ptpSeq := s.time.ptpSeq + 1 } }) :=
  if_neg (by simp [h])

/-! ## Messages that arrive (R52, R77) -/

/-- A PTP message is heard in its own domain only. -/
theorem exec_fabricControl_ptp {p : Packet} {dom : Byte} {m : PtpMsg} (h : p.body = .ptp dom m) :
    exec (.fabricControl p) s = .next (if dom = s.ptpDomain then s.ptpArrives p.src.toNat m else s) := by
  change execFabricControl p s = _
  simp [execFabricControl, h]

/-- The state of a follower that has heard a master. -/
def followerOf (s : State) (src : Nat) : State := { s with time := { s.time with master := some src } }

theorem masterHeard_follower (h : s.isMaster = false) (src : Nat) : s.masterHeard src = followerOf s src := by
  simp [State.masterHeard, h, followerOf]

theorem follows_iff (h : s.isMaster = false) (src : Nat) :
    s.follows src = true ↔ s.time.master = none ∨ ∃ d, s.time.master = some d ∧ src ≤ d := by
  unfold State.follows
  cases s.time.master <;> simp [h]

/-- A sync of a master that is followed is timed, or, in one step, already gives an estimate. -/
theorem ptpArrives_sync (h : s.isMaster = false) {src : Nat} (hf : s.follows src = true) (seq : Half) :
    (s.ptpArrives src (.sync seq none) =
      { followerOf s src with time := { (followerOf s src).time with syncIn := some (src, seq, s.time.gt) } }) ∧
    ∀ stamp, s.ptpArrives src (.sync seq (some stamp)) = (followerOf s src).estimate src stamp s.time.gt := by
  simp only [State.ptpArrives, h, hf, masterHeard_follower h]
  exact ⟨rfl, fun _ => rfl⟩

theorem ptpArrives_sync_ignored (h : s.isMaster = false) {src d : Nat} (hd : s.time.master = some d) (hlt : d < src) (seq : Half)
    (stamp : Option Nat) : s.ptpArrives src (.sync seq stamp) = s := by
  have hf : s.follows src = false := by simp [State.follows, hd, hlt]
  simp [State.ptpArrives, h, hf]

/-- The second step of a sync gives the time at which the first was sent. -/
theorem ptpArrives_followUp (h : s.isMaster = false) {src heard : Nat} {seq : Half} (hin : s.time.syncIn = some (src, seq, heard))
    (hm : s.time.master = some src) (stamp : Nat) : s.ptpArrives src (.followUp seq stamp) =
      ({ s with time := { s.time with syncIn := none } } : State).estimate src stamp heard := by
  have hf : s.follows src = true := (follows_iff h src).2 (.inr ⟨src, hm, Nat.le_refl src⟩)
  simp [State.ptpArrives, hin, hf]

/-- A request for the delay is answered in two steps. -/
theorem ptpArrives_pdelayReq (s : State) (src : Nat) (seq : Half) : ∃ a b, s.ptpArrives src (.pdelayReq seq) = outgoing s [a, b] ∧
    a.body = .ptp s.ptpDomain (.pdelayResp seq s.time.gt) ∧ b.body = .ptp s.ptpDomain (.pdelayFollowUp seq s.time.gt) := by
  obtain ⟨a, -, hba, ha⟩ := sendPtp_outgoing s src (.pdelayResp seq s.time.gt)
  obtain ⟨b, -, hbb, hb⟩ := sendPtp_outgoing (outgoing s [a]) src (.pdelayFollowUp seq s.time.gt)
  exact ⟨a, b, by rw [State.ptpArrives, ha, hb, outgoing_outgoing]; rfl, hba, hbb⟩

theorem ptpArrives_pdelayResp {src t1 : Nat} {seq : Half} (h : kget s.time.asking src = some (seq, t1, none)) (t2 : Nat) :
    s.ptpArrives src (.pdelayResp seq t2) =
      { s with time := { s.time with asking := kset s.time.asking src (seq, t1, some (t2, s.time.gt)) } } := by
  simp [State.ptpArrives, h]

theorem ptpArrives_pdelayFollowUp {src t1 t2 t4 : Nat} {seq : Half} (h : kget s.time.asking src = some (seq, t1, some (t2, t4))) (t3 : Nat) :
    s.ptpArrives src (.pdelayFollowUp seq t3) = { s with time := { s.time with
      asking := kdel s.time.asking src, delays := kset s.time.delays src (linkDelay t1 t2 t3 t4) } } := by
  simp [State.ptpArrives, h]

/-! ## The discipline (R78) -/

/-- A record that follows a change of global time leaves the registers and the memory of the state before. -/
theorem Carried.afterTime {time : TimeState} (h : Carried { s with time } t) : t.time = time ∧ RegistersKept s t ∧ MemoryKept s t := by
  obtain ⟨hrest, -, hbytes, -⟩ := h
  exact ⟨(congrArg State.time hrest :), registersKept_of_courses (congrArg State.courses hrest :), hbytes⟩

/-- The way of a record does not depend on global time once the record is made. -/
theorem Carried.withTime (h : Carried s t) (time : TimeState) : Carried { s with time } { t with time } := by
  obtain ⟨hrest, hplace, hbytes, hform⟩ := h
  exact ⟨congrArg (fun u : State => { u with time }) hrest, hplace, hbytes, hform⟩

/-- Global time when an estimate has been counted toward the lock. -/
def talliedTime (s : State) (e : Int) : TimeState :=
  let inside := decide (e.natAbs ≤ timeBand)
  { s.time with
    offset := if s.isMaster then 0 else e
    inBand := if inside then s.time.inBand + 1 else 0
    outBand := if inside then 0 else s.time.outBand + 1
    unsync := !inside && !s.isMaster }

/-- Whether time is locked after an estimate: the lock is taken or lost when enough estimates in a row were inside or outside the band. -/
def lockedAfter (s : State) (e : Int) : Bool :=
  if !s.time.locked && lockCount ≤ (talliedTime s e).inBand && !s.outranked then true
  else if s.time.locked && lockCount ≤ (talliedTime s e).outBand then false
  else s.time.locked

/-- The state in which an estimate has been counted and the lock decided. -/
def relocked (s : State) (e : Int) : State :=
  if !s.time.locked && lockCount ≤ (talliedTime s e).inBand && !s.outranked then
    ({ s with time := { talliedTime s e with locked := true } } : State).emit { source := s.complexSrc, type := 0x07, payload := wrapInt e 64 }
  else if s.time.locked && lockCount ≤ (talliedTime s e).outBand then
    ({ s with time := { talliedTime s e with locked := false } } : State).emit { source := s.complexSrc, type := 0x09, payload := wrapInt e 64 }
  else { s with time := talliedTime s e }

theorem relocked_carried (s : State) (e : Int) :
    Carried { s with time := { talliedTime s e with locked := lockedAfter s e } } (relocked s e) := by
  unfold relocked lockedAfter
  split_ifs
  · exact emit_carried _ _
  · exact emit_carried _ _
  · exact Carried.refl _

/-- Global time when an estimate has been acted on. -/
def correctedTime (time : TimeState) (e : Int) : TimeState :=
  if e < -(stepLag : Int) then { time with gt := (time.gt + e.natAbs) % 2 ^ 64, slew := 0, slewAcc := 0 } else { time with slew := e }

theorem correct_carried (s : State) (e : Int) : Carried { s with time := correctedTime s.time e } (s.correct e) := by
  unfold State.correct correctedTime
  split
  · exact emit_carried _ _
  · exact Carried.refl _

theorem discipline_loaded (h : s.time.loaded = true) (e : Int) : s.discipline e = (relocked s e).correct e :=
  if_neg (by simp [h])

/-- A later estimate sets the lock and corrects time, and records what it has done. -/
theorem discipline_carried (h : s.time.loaded = true) (e : Int) :
    Carried { s with time := correctedTime { talliedTime s e with locked := lockedAfter s e } e } (s.discipline e) := by
  have hlock := relocked_carried s e
  have hcorrect := correct_carried (relocked s e) e
  obtain ⟨htime, -, -⟩ := hlock.afterTime
  rw [discipline_loaded h]
  rw [htime] at hcorrect
  exact (hlock.withTime _).trans hcorrect

/-- The first estimate loads the reference's time, and only global time changes. -/
theorem discipline_unloaded (h : s.time.loaded = false) (e : Int) : s.discipline e = { s with time := { s.time with
    gt := wrapInt ((s.time.gt : Int) - e) 64, loaded := true, offset := if s.isMaster then 0 else e, inBand := 0, outBand := 0 } } :=
  if_pos (by simp [h])

theorem wrapInt_cast (v : Int) (n : Nat) : (wrapInt v n : Int) = v % 2 ^ n := by
  rw [wrapInt, Int.toNat_of_nonneg (Int.emod_nonneg _ (by positivity)), Nat.cast_pow, Nat.cast_ofNat]

theorem correctedTime_slewed {time : TimeState} {e : Int} (h : -16000000 ≤ e) : correctedTime time e = { time with slew := e } :=
  if_neg (Int.not_lt.2 h)

/-- A lag beyond the limit is stepped over. -/
theorem correctedTime_stepped {time : TimeState} {e : Int} (h : e < -16000000) :
    ((correctedTime time e).gt : Int) = ((time.gt : Int) - e) % 2 ^ 64 ∧ (correctedTime time e).slew = 0 := by
  rw [correctedTime, if_pos (show e < -(stepLag : Int) from h)]
  refine ⟨?_, rfl⟩
  simp only
  omega

theorem correctedTime_locked (time : TimeState) (e : Int) : (correctedTime time e).locked = time.locked := by
  unfold correctedTime
  split <;> rfl

theorem lockedAfter_taken {e : Int} (hl : s.time.locked = false) (he : e.natAbs ≤ 160) (hn : 15 ≤ s.time.inBand) (ho : s.outranked = false) :
    lockedAfter s e = true := by
  have hin : lockCount ≤ (talliedTime s e).inBand := by simpa [talliedTime, timeBand, he, lockCount] using hn
  simp [lockedAfter, hl, hin, ho]

theorem lockedAfter_lost {e : Int} (hl : s.time.locked = true) (he : 160 < e.natAbs) (hn : 15 ≤ s.time.outBand) :
    lockedAfter s e = false := by
  have hout : lockCount ≤ (talliedTime s e).outBand := by simpa [talliedTime, timeBand, Nat.not_le.2 he, lockCount] using hn
  simp [lockedAfter, hl, hout]

/-! ## SEAL (R444) -/

section
variable {ctx : Nat} {a : Word} {h : List Byte}

theorem exec_seal_unreadable (hh : s.shardHeader ctx a = none) : exec (.seal ctx a) s = .next (s.ckptReply 0x08) := by
  change execSeal ctx a s = _
  simp only [execSeal, hh]

theorem exec_seal_waits (hh : s.shardHeader ctx a = some h) (hm : ∃ x ∈ s.async.ops, s.copyMeets ctx a (256 + shardPlen h) x.2 = true) :
    exec (.seal ctx a) s = .next (s.laterAt (s.time.gt + s.clockGt) (.seal ctx a)) := by
  change execSeal ctx a s = _
  simp only [execSeal, hh]
  exact if_pos (List.any_eq_true.2 hm)

/-- No copy writes into the shard: its two digests are stored, and the seal is recorded. -/
theorem exec_seal_sealed {pay : List Byte} {s1 : State} (hh : s.shardHeader ctx a = some h)
    (hm : ∀ x ∈ s.async.ops, s.copyMeets ctx a (256 + shardPlen h) x.2 = false) (hp : s.shardPayload ctx a h = some pay)
    (hw : s.writeRange (s.whoOf ctx) (a + 0x40) (sha384 pay ++ sha384 (h.take 0x40 ++ sha384 pay)) = .ok s1) :
    exec (.seal ctx a) s = .next ((s1.emit { source := s1.complexSrc, type := 0xD5, ctx, payload := vaOf a + shardNo h * 2 ^ 56 }).ckptReply 0) := by
  change execSeal ctx a s = _
  simp only [execSeal, hh]
  rw [if_neg (fun hany => ?_)]
  · simp only [hp, hw]
  · obtain ⟨x, hx, hmeets⟩ := List.any_eq_true.1 hany
    exact Bool.false_ne_true ((hm x hx).symm.trans hmeets)

end

/-! ## VERIFY (R445) -/

/-- A drawn free value changes no shard's code. -/
theorem shardCode_freeCount (s : State) (n ctx : Nat) (job : BitVec 128) (k ref : Nat) (a : Word) :
    ({ s with freeCount := n } : State).shardCode ctx job k ref a = s.shardCode ctx job k ref a := by
  have hread : SameReads s { s with freeCount := n } := ⟨rfl, rfl, rfl⟩
  simp only [State.shardCode, State.shardHeader, State.shardPayload, readRange_congr hread]
  rfl

/-- What a listed shard whose code is 0 has passed. -/
structure ShardPasses (s : State) (ctx : Nat) (job : BitVec 128) (count step : Nat) (a : Word) (h pay : List Byte) : Prop where
  header  : s.shardHeader ctx a = some h
  payload : s.shardPayload ctx a h = some pay
  magic   : hdrField h 0 4 = 0x00579C4B
  version : hdrField h 4 2 = 1
  step    : shardStep h = step
  count   : shardCount h = count
  job     : hdrField h 8 16 = job.toNat
  digest  : (h.drop 0x40).take 48 = sha384 pay
  sealed  : (h.drop 0x70).take 48 = sha384 (h.take 0x70)

/-- A check that gives a code where it fails has passed where the code is 0, and so have the checks after it. -/
theorem passed_of_code {failed : Bool} {code rest : Byte} (hcode : code ≠ 0) (h : (if failed then code else rest) = 0) :
    failed = false ∧ rest = 0 := by
  cases failed
  · exact ⟨rfl, h⟩
  · exact absurd h hcode

theorem shardPasses_of_code {ctx : Nat} {job : BitVec 128} {n ref : Nat} {a : Word} (hc : s.shardCode ctx job n ref a = 0) :
    ∃ h pay, ShardPasses s ctx job n ref a h pay := by
  unfold State.shardCode at hc
  split at hc
  · cases hc
  next h hh =>
  split at hc
  · cases hc
  next pay hp =>
  obtain ⟨hform, hc⟩ := passed_of_code (by decide) hc
  obtain ⟨hseal, hc⟩ := passed_of_code (by decide) hc
  obtain ⟨hjob, hc⟩ := passed_of_code (by decide) hc
  obtain ⟨hcount, hc⟩ := passed_of_code (by decide) hc
  obtain ⟨hstep, hc⟩ := passed_of_code (by decide) hc
  obtain ⟨hdigest, -⟩ := passed_of_code (by decide) hc
  simp only [shardFormOk, Bool.not_eq_false', Bool.and_eq_true, beq_iff_eq] at hform
  obtain ⟨⟨⟨⟨⟨hmagic, hversion⟩, -⟩, -⟩, -⟩, -⟩ := hform
  simp only [bne_eq_false_iff_eq] at hseal hjob hcount hstep hdigest
  exact ⟨h, pay, hh, hp, hmagic, hversion, hstep, hcount, hjob, hdigest, hseal⟩

/-- A number stands at one place of a list of headers when it is counted at most once. -/
theorem uniqueAt_iff (hs : List (Option (List Byte))) (no : Nat) : uniqueAt hs no = true ↔ ((hs.filterMap id).map shardNo).count no ≤ 1 := by
  unfold uniqueAt
  rw [decide_eq_true_eq, ← List.countP_eq_length_filter, List.count, List.countP_map, List.countP_filterMap]
  have hcount (p q : Option (List Byte) → Bool) (h : ∀ o, p o = q o) : hs.countP p ≤ 1 ↔ hs.countP q ≤ 1 := by rw [funext h]
  refine hcount _ _ (fun o => ?_)
  cases o <;> rfl

/-- The shards of a list have different numbers when each one's number stands at one place. -/
theorem nodup_of_uniqueAt {f : Word → Option (List Byte)} {l : List Word}
    (h : ∀ a ∈ l, ∀ x, f a = some x → uniqueAt (l.map f) (shardNo x) = true) : ((l.filterMap f).map shardNo).Nodup := by
  have heq : (l.map f).filterMap id = l.filterMap f := by simp [List.filterMap_map]
  rw [List.nodup_iff_count_le_one]
  intro no
  by_cases hno : no ∈ (l.filterMap f).map shardNo
  · obtain ⟨x, hx, rfl⟩ := List.mem_map.1 hno
    obtain ⟨a, ha, hax⟩ := List.mem_filterMap.1 hx
    rw [← heq]
    exact (uniqueAt_iff _ _).1 (h a ha x hax)
  · rw [List.count_eq_zero_of_not_mem hno]
    exact Nat.zero_le 1

/-- A shard's code with the set check: its number must stand at one place of the list. -/
def setCode (hs : List (Option (List Byte))) (code : Byte) (o : Option (List Byte)) : Byte :=
  o.elim code (fun h => if code == 0 && !uniqueAt hs (shardNo h) then 0x05 else code)

theorem setCode_eq_zero {hs : List (Option (List Byte))} {code : Byte} {o : Option (List Byte)} (h : setCode hs code o = 0) :
    code = 0 ∧ ∀ x, o = some x → uniqueAt hs (shardNo x) = true := by
  cases o with
  | none => exact ⟨h, fun _ hx => nomatch hx⟩
  | some x =>
    simp only [setCode, Option.elim] at h
    split at h
    · cases h
    · next hc => subst h; exact ⟨rfl, fun y hy => by cases hy; simpa using hc⟩

/-- VERIFY answers 0x08 where it cannot store its result, and else whether any shard's code is not 0. -/
theorem exec_verify (s : State) (ctx : Nat) (l : List Word) (job : BitVec 128) (result : Word) :
    ∃ (v : State) (e : Ev) (ref : Nat) (r : Byte), exec (.verify ctx l job result) s = .next ((v.emit e).ckptReply r) ∧
      v.courses = s.courses ∧ v.dbg = s.dbg ∧ r ∈ [0x00, 0x01, 0x08] ∧
      (r = 0 → ∀ a ∈ l, setCode (l.map (s.shardHeader ctx)) (s.shardCode ctx job l.length ref a) (s.shardHeader ctx a) = 0) := by
  change ∃ v e ref r, execVerify ctx l job result s = _ ∧ _
  unfold execVerify
  extract_lets hs
  split
  next u ref count hfree =>
  obtain ⟨n, rfl⟩ : ∃ n, u = { s with freeCount := n } := by
    split at hfree <;> cases hfree <;> exact ⟨_, rfl⟩
  extract_lets codes refused status block
  split
  next v r hstore =>
  have hv : Recorded { s with freeCount := n } v ∧ (r = 8 ∨ r = status) := by
    split at hstore
    · next hok =>
      cases hstore
      split at hok
      · cases hok
      · exact ⟨writeRange_recorded hok, .inr rfl⟩
    · cases hstore
      exact ⟨Recorded.refl _, .inl rfl⟩
  obtain ⟨hrec, hr⟩ := hv
  have hcodes (h0 : status = 0) (a : Word) (ha : a ∈ l) :
      setCode hs (s.shardCode ctx job l.length ref a) (s.shardHeader ctx a) = 0 := by
    have hnone : refused = false := by
      by_contra hrefused
      simp [status, hrefused] at h0
    have hmem : setCode hs (s.shardCode ctx job l.length ref a) (s.shardHeader ctx a) ∈ codes := by
      refine List.mem_map.2 ⟨(a, s.shardHeader ctx a), ?_, ?_⟩
      · rw [← List.map_prod_left_eq_zip]
        exact List.mem_map_of_mem ha
      · simp only [shardCode_freeCount]
        cases s.shardHeader ctx a <;> rfl
    simpa using List.any_eq_false.1 hnone _ hmem
  extract_lets w
  obtain ⟨e, hw⟩ : ∃ e, w = v.emit e := by
    unfold w
    split <;> exact ⟨_, rfl⟩
  have hstatus : status = 0 ∨ status = 1 := by
    unfold status
    split
    · exact .inr rfl
    · exact .inl rfl
  refine ⟨v, e, ref, r, by rw [hw], hrec.courses, hrec.dbg, ?_, fun hr0 => ?_⟩
  · rcases hr with rfl | rfl
    · decide
    · rcases hstatus with h | h <;> simp [h]
  · rcases hr with rfl | rfl
    · exact absurd hr0 (by decide)
    · exact hcodes hr0

/-- Settles O54: sync messages by the packets that leave, arrivals by the lemma of each message, the discipline by what it makes of global time,
and SEAL and VERIFY by their outcomes. -/
theorem timeAndCheckpoints : Obligations.TimeAndCheckpoints := by
  unfold Obligations.TimeAndCheckpoints
  refine ⟨fun s => ⟨fun h => ?_, fun h => if_pos (by simp [h])⟩,
    fun s e => ⟨fun h => congrArg Host.Outcome.next (if_pos h), fun h => congrArg Host.Outcome.next (if_neg (by simp [h]))⟩,
    fun s p dom m hm => ?_, fun s src stamp heard d hd => ?_, fun s e => ?_,
    fun s ctx a => ⟨exec_seal_unreadable, fun h hh => ⟨exec_seal_waits hh, fun hfree pay s1 hp hw => ?_⟩⟩, fun s ctx l job result => ?_⟩
  · obtain ⟨ps, hps, hlen, hall⟩ := sendSync_foldl_outgoing s.time.ptpSeq ((List.range s.domainSize).filter s.linkUp)
      { s with time := { s.time with lastSync := s.time.gt, ptpSeq := s.time.ptpSeq + 1 } }
    exact ⟨_, (exec_syncInterval h).trans (congrArg _ hps), rfl, rfl, rfl, rfl, ps, rfl, hlen, hall⟩
  · intro src got heard
    have hgot : got = .next (if dom = s.ptpDomain then s.ptpArrives src m else s) := exec_fabricControl_ptp hm
    refine ⟨fun hdom => by rw [hgot, if_neg hdom], fun hdom => ?_⟩
    rw [if_pos hdom] at hgot
    rw [hgot]
    refine ⟨fun seq stamp hsync hf => ⟨fun hmaster => ?_, fun d hd hlt => ?_⟩, fun seq stamp h hfollow hf hin hmaster => ?_, fun seq hreq => ?_,
      fun seq t1 t2 hresp hask => ?_, fun seq t1 t2 t3 t4 hresp hask => ?_⟩
    · obtain ⟨htwo, hone⟩ := ptpArrives_sync hf ((follows_iff hf src).2 hmaster) seq
      subst hsync
      exact ⟨fun hs => by rw [hs, htwo]; rfl, fun t ht => by rw [ht, hone]; rfl⟩
    · rw [hsync, ptpArrives_sync_ignored hf hd hlt]
    · rw [hfollow, ptpArrives_followUp hf hin hmaster]
    · obtain ⟨a, b, harrives, ha, hb⟩ := ptpArrives_pdelayReq s src seq
      exact ⟨outgoing s [a, b], a, b, by rw [hreq, harrives], rfl, rfl, hdom ▸ ha, hdom ▸ hb⟩
    · rw [hresp, ptpArrives_pdelayResp hask]
    · rw [hresp, ptpArrives_pdelayFollowUp hask]
      rfl
  · intro u
    simp only [State.estimate, hd, beq_iff_eq]
    rfl
  · intro t
    cases hloaded : s.time.loaded
    · have ht : t = _ := discipline_unloaded hloaded e
      rw [ht]
      exact ⟨fun _ => rfl, fun _ _ => rfl, fun _ => ⟨wrapInt_cast _ 64, rfl⟩, fun h => by cases h⟩
    · obtain ⟨htime, hreg, hmem⟩ := (discipline_carried hloaded e).afterTime
      refine ⟨hreg, hmem, (fun h => by cases h), fun _ => ⟨fun he => ?_, fun he => ?_, fun hl he hn ho => ?_, fun hl he hn => ?_⟩⟩
      · rw [htime, correctedTime_slewed he]
        exact ⟨rfl, rfl⟩
      · rw [htime]
        exact correctedTime_stepped he
      · rw [htime, correctedTime_locked]
        exact lockedAfter_taken hl he hn ho
      · rw [htime, correctedTime_locked]
        exact lockedAfter_lost hl he hn
  · have hseal := exec_seal_sealed hh hfree hp hw
    refine ⟨_, hseal, (emit_carried s1 _).bytes, (emit_courses s1 _).trans (writeRange_courses hw), ?_⟩
    exact congrArg (fun d : DebugState => d.ckptReplies ++ [0]) ((emit_dbg s1 _).trans (writeRange_recorded hw).dbg)
  · obtain ⟨v, e, ref, r, hexec, hcourses, hdbg, hr, hcodes⟩ := exec_verify s ctx l job result
    refine ⟨_, r, hexec, registersKept_of_courses ((emit_courses v e).trans hcourses),
      congrArg (fun d : DebugState => d.ckptReplies ++ [r]) ((emit_dbg v e).trans hdbg), hr, fun h0 => ⟨?_, ref, fun a ha => ?_⟩⟩
    · exact nodup_of_uniqueAt (fun a ha => (setCode_eq_zero (hcodes h0 a ha)).2)
    · obtain ⟨h, pay, hpass⟩ := shardPasses_of_code (setCode_eq_zero (hcodes h0 a ha)).1
      exact ⟨h, pay, hpass.header, hpass.payload, hpass.magic, hpass.version, hpass.step, hpass.count, hpass.job, hpass.digest, hpass.sealed⟩

end Sys2Proof.Laws
end

section
/-! The placement unit's attempts, reservations and replies (R86 to R93, R448). -/
namespace Sys2Proof.Laws
open Sys2Proof.Machine Sys2Proof.Safety

variable {s t u : State}

/-! ## The least of a list (R86, R89) -/

section
variable {α : Type} {key : α → Nat} {l : List α}

theorem leastBy_eq_none (h : leastBy key l = none) : l = [] := by
  cases l with
  | nil => rfl
  | cons x t =>
    simp only [leastBy] at h
    split at h
    · split at h <;> cases h
    · cases h

/-- What `leastBy` finds is in the list, and nothing in the list has a lower key. -/
theorem leastBy_spec {x : α} (h : leastBy key l = some x) : x ∈ l ∧ ∀ y ∈ l, key x ≤ key y := by
  induction l generalizing x with
  | nil => cases h
  | cons y t ih =>
    simp only [leastBy] at h
    split at h
    · next z hz =>
      obtain ⟨hmem, hleast⟩ := ih hz
      split at h
      · next hle =>
        cases h
        exact ⟨List.mem_cons_self, List.forall_mem_cons.2 ⟨le_rfl, fun w hw => hle.trans (hleast w hw)⟩⟩
      · next hlt =>
        cases h
        exact ⟨List.mem_cons_of_mem _ hmem, List.forall_mem_cons.2 ⟨(Nat.not_le.1 hlt).le, hleast⟩⟩
    · next hnone =>
      cases h
      simp [leastBy_eq_none hnone]
end

/-! ## The agenda (log 4) -/

theorem mem_insertItem {x it : Item} {l : List Item} : x ∈ insertItem it l ↔ x = it ∨ x ∈ l := by
  induction l with
  | nil => simp [insertItem]
  | cons y t ih =>
    simp only [insertItem]
    split
    · exact List.mem_cons
    · simp only [List.mem_cons, ih]
      exact or_left_comm

/-- What is put for a time stands in the agenda. -/
theorem laterAt_due (s : State) (n : Nat) (i : Instr) : ⟨n, .event i⟩ ∈ (s.laterAt n i).agenda := mem_insertItem.2 (.inl rfl)

/-- What stands in the agenda is not put out of it. -/
theorem mem_agenda_laterAt {x : Item} (h : x ∈ s.agenda) (n : Nat) (i : Instr) : x ∈ (s.laterAt n i).agenda := mem_insertItem.2 (.inr h)

/-! ## Steps that touch neither registers nor memory -/

/-- The courses stay, and of memory and its records only the rings of the firn store change. -/
structure Undisturbed (s t : State) : Prop where
  courses : t.courses = s.courses
  place   : t.firn.base = s.firn.base ∧ t.firn.size = s.firn.size ∧ t.firn.opsz = s.firn.opsz
  bytes   : MemoryKept s t

theorem Undisturbed.quiet (h : Undisturbed s t) : RegistersKept s t ∧ MemoryKept s t := ⟨registersKept_of_courses h.courses, h.bytes⟩

theorem Undisturbed.trans (h : Undisturbed s t) (k : Undisturbed t u) : Undisturbed s u := by
  obtain ⟨hbase, hsize, hopsz⟩ := h.place
  obtain ⟨kbase, ksize, kopsz⟩ := k.place
  exact ⟨k.courses.trans h.courses, ⟨kbase.trans hbase, ksize.trans hsize, kopsz.trans hopsz⟩, keptOutside_trans h.bytes h.place k.bytes⟩

theorem Carried.undisturbed (h : Carried s t) : Undisturbed s t := ⟨h.recorded.courses, h.at_place, h.bytes⟩

/-- Only the launcher's, the walker's and the placement unit's state and the agenda change. -/
theorem undisturbed_update (s : State) (work : WorkState) (agenda : List Item) : Undisturbed s { s with work, agenda } :=
  ⟨rfl, ⟨rfl, rfl, rfl⟩, fun _ _ => rfl⟩

theorem deniedEv_carried (s : State) (a : Agent) (k : Skein) (o reason : Nat) : Carried s (s.deniedEv a k o reason) := emit_carried _ _

@[simp] theorem placeEv_work (k : Skein) (type payload : Nat) : (s.placeEv k type payload).work = s.work := emit_work _ _
@[simp] theorem placeEv_time (k : Skein) (type payload : Nat) : (s.placeEv k type payload).time = s.time := emit_time _ _
@[simp] theorem deniedEv_work (a : Agent) (k : Skein) (o reason : Nat) : (s.deniedEv a k o reason).work = s.work := emit_work _ _
@[simp] theorem deniedEv_agenda (a : Agent) (k : Skein) (o reason : Nat) : (s.deniedEv a k o reason).agenda = s.agenda := emit_agenda _ _

/-! ## Skeins and agents -/

theorem skein_modSkein_self {i : Nat} {k : Skein} (h : s.skein? i = some k) (f : Skein → Skein) : (s.modSkein i f).skein? i = some (f k) :=
  kget_kmod_self h f

section
variable {a b : Agent} {n : Nat} {p : Attempt → Bool}

/-- The entry that an agent has in some state is in the list, is the agent's and is in such a state. -/
theorem agentIn_spec (h : s.agentIn n p = some a) : a ∈ s.work.agents ∧ a.agent = n ∧ p a.state = true := by
  have hfound := List.find?_some h
  simp only [Bool.and_eq_true, beq_iff_eq] at hfound
  exact ⟨List.mem_of_find?_eq_some h, hfound⟩

theorem mem_putAgent_some (h : a ∈ s.work.agents) : b ∈ (s.putAgent a (some b)).work.agents :=
  List.mem_flatMap.2 ⟨a, h, by simp⟩

theorem not_mem_putAgent {b : Option Agent} (h : b ≠ some a) : a ∉ (s.putAgent a b).work.agents := by
  intro hmem
  obtain ⟨x, -, hx⟩ := List.mem_flatMap.1 hmem
  split at hx
  · exact h (Option.mem_toList.1 hx)
  · next hne => simp_all

theorem putAgent_none (s : State) (a : Agent) : s.putAgent a none = s.setAgents (s.work.agents.filter (fun x => x != a)) := by
  have hlist : ∀ l : List Agent, l.flatMap (fun x => if x == a then [] else [x]) = l.filter (fun x => x != a) := by
    intro l
    induction l with
    | nil => rfl
    | cons x l ih =>
      rw [List.flatMap_cons, ih, List.filter_cons]
      by_cases hx : x = a <;> simp [hx]
  exact congrArg s.setAgents (hlist _)
end

/-! ## Choices (R86, R89) -/

/-- A cast-on agent's rectangle is a candidate that fits, and none that fits comes before it (R89). -/
theorem castonChoice_spec {sk : Nat} {v : Launch} {o : Nat} (h : s.castonChoice sk v = some o) :
    let fits (o : Nat) : Prop := ∀ x ∈ (v.hdr.rect o).zipIdx, s.accepts sk v x.1 x.2 [] = true
    let key (o : Nat) : Nat := ((v.hdr.rect o).filter s.idleCore).length * 16 + ((List.range 8).filter (fun i => s.idleCore (regionOf o * 8 + i))).length
    o ∈ s.candidates v ∧ fits o ∧ ∀ o' ∈ s.candidates v, fits o' → key o ≤ key o' := by
  intro fits key
  obtain ⟨hmem, hleast⟩ := leastBy_spec h
  obtain ⟨hcand, hfits⟩ := List.mem_filter.1 hmem
  exact ⟨hcand, List.all_eq_true.1 hfits, fun o' ho' hf => hleast o' (List.mem_filter.2 ⟨ho', List.all_eq_true.2 hf⟩)⟩

/-- The affine dispatcher's choice does not depend on the records of events. -/
theorem affineChoice_carried (h : Carried s t) (sk : Nat) (v : Launch) (ch : Option Nat) : t.affineChoice sk v ch = s.affineChoice sk v ch :=
  calc t.affineChoice sk v ch = ({ t with firn := s.firn, mem := s.mem } : State).affineChoice sk v ch := rfl
    _ = s.affineChoice sk v ch := by rw [h.rest]

/-- Cores that can accept their shares are not reserved. -/
theorem unreserved_of_fits {sk : Nat} {v : Launch} {cores without : List Nat}
    (h : ∀ x ∈ cores.zipIdx, s.accepts sk v x.1 x.2 without = true) : ∀ c ∈ cores, s.reserved c = false := by
  intro c hc
  obtain ⟨k, hk, rfl⟩ := List.mem_iff_getElem.1 hc
  have hfit := h (cores[k], k) (List.mk_mem_zipIdx_iff_getElem?.2 (List.getElem?_eq_getElem hk))
  simp only [State.accepts, Bool.and_eq_true, Bool.not_eq_true'] at hfit
  obtain ⟨⟨-, hfree⟩, -⟩ := hfit
  exact hfree

/-! ## Attempts (R86 to R89) -/

/-- The skein's attempt is counted; either the reservation is under way, or the skein is blocked and stays with a cast-on agent. -/
theorem attempt_spec {a : Agent} {k : Skein} (hk : s.skein? a.skein = some k) (choice : Option Nat) :
    ∃ k', Undisturbed s (s.attempt a choice) ∧ (s.attempt a choice).skein? a.skein = some k' ∧ k'.attempts = k.attempts + 1 ∧
      (∀ o, choice = some o → ⟨s.time.gt + 40, .event (.reserve a.agent)⟩ ∈ (s.attempt a choice).agenda ∧
        (s.attempt a choice).work.agents = s.work.agents ++ [{ a with state := .sent o }]) ∧
      (choice = none → k'.blocked = true ∧
        (s.attempt a choice).work.agents = if a.agent = 4 then s.work.agents else s.work.agents ++ [{ a with state := .holding }]) := by
  have hcounted := skein_modSkein_self hk (fun k => { k with attempts := k.attempts + 1 })
  cases choice with
  | some o =>
    refine ⟨_, undisturbed_update _ _ _, hcounted, rfl, fun o' ho => ?_, fun h => nomatch h⟩
    cases ho
    exact ⟨laterAt_due _ _ _, rfl⟩
  | none =>
    have hblocked := skein_modSkein_self hcounted (fun k => { k with blocked := true })
    unfold State.attempt
    simp only [beq_iff_eq]
    split
    · exact ⟨_, undisturbed_update _ _ _, hblocked, rfl, (fun _ h => nomatch h), fun _ => ⟨rfl, rfl⟩⟩
    · exact ⟨_, undisturbed_update _ _ _, hblocked, rfl, (fun _ h => nomatch h), fun _ => ⟨rfl, rfl⟩⟩

/-- An agent holds a skein or has an attempt under way. -/
def underWay : Attempt → Bool
  | .releasing _ _ => false
  | _ => true

/-- A free cast-on agent tries the first skein that it may take (R88). -/
theorem exec_castonAttempt_takes {agent i : Nat} {k : Skein} {v : Launch} (hagent : agent < 4) (hidle : s.agentIn agent underWay = none)
    (hfree : s.work.agentFree[agent]?.getD 0 ≤ s.time.gt)
    (hfirst : (s.takeable true).find? (fun x => decide (x.2.nextTry ≤ s.time.gt)) = some (i, k)) (hv : s.skeinLaunch k = some v) :
    exec (.castonAttempt agent) s = .next (s.attempt { agent, skein := i, state := .holding } (s.castonChoice i v)) := by
  change execCastonAttempt agent s = _
  unfold execCastonAttempt
  erw [if_neg (Nat.not_le.2 hagent), hidle]
  simp only [if_neg (Nat.not_lt.2 hfree), hfirst, hv]

/-- The affine dispatcher tries the first skein that it may take, and looks again in the next cycle; an affinity that names no channel is
recorded first (R86, R87). -/
theorem exec_affineAttempt_takes {i : Nat} {k : Skein} {v : Launch} (hfree : s.work.agentFree[4] ≤ s.time.gt)
    (hfirst : (s.takeable false).find? (fun x => decide (x.2.nextTry ≤ s.time.gt)) = some (i, k)) (hv : s.skeinLaunch k = some v) :
    ∃ t, Carried s t ∧ exec .affineAttempt s =
      .next ((t.attempt { agent := 4, skein := i, state := .holding } (s.affineChoice i v (s.affinity k.launch v).1)).freeAgent 4) := by
  let t := if (s.affinity k.launch v).2 == 0 then s
    else s.placeEv k 0x47 (v.hdr.affinity.toNat % 2 ^ 56 + (s.affinity k.launch v).2 * 2 ^ 56)
  have ht : Carried s t := by
    unfold t
    split
    · exact Carried.refl s
    · exact emit_carried _ _
  refine ⟨t, ht, ?_⟩
  rw [← affineChoice_carried ht]
  change execAffineAttempt s = _
  simp only [execAffineAttempt, if_neg (Nat.not_lt.2 hfree), hfirst, hv, t]

@[simp] theorem attempt_time (s : State) (a : Agent) (choice : Option Nat) : (s.attempt a choice).time = s.time := by
  cases choice with
  | some o => rfl
  | none =>
    simp only [State.attempt]
    split <;> rfl

theorem freeAgent_agentFree (s : State) : (s.freeAgent 4).work.agentFree[4] = nextCycle s.time.gt := by
  simp [State.freeAgent]

/-! ## The arbiter (R90) -/

def isSent : Attempt → Bool
  | .sent _ => true
  | _ => false

/-- A granted request, whose commit window ends 640 gt later (R91). -/
def grantedFrom (s : State) (agent : Nat) (a : Agent) (o : Nat) : State :=
  ((s.laterAt (s.time.gt + 40) (.reserveReply agent)).putAgent a (some { a with state := .granted o s.time.gt })).laterAt (s.time.gt + 640)
    (.commitWindowLapse agent)

/-- A denied request. -/
def deniedFrom (s : State) (agent : Nat) (a : Agent) (k : Skein) (o reason : Nat) : State :=
  ((s.laterAt (s.time.gt + 40) (.reserveReply agent)).putAgent a (some { a with state := .denied o })).deniedEv a k o reason

section
variable {agent o : Nat} {a : Agent} {k : Skein} {v : Launch} (hsent : s.agentIn agent isSent = some a) (ha : a.state = .sent o)
  (hk : s.skein? a.skein = some k) (hv : s.skeinLaunch k = some v)
include hsent ha hk hv

/-- A request is granted when every core of the rectangle can accept its share. -/
theorem exec_reserve_grants (hfit : ∀ x ∈ (v.hdr.rect o).zipIdx, s.accepts a.skein v x.1 x.2 [] = true) :
    exec (.reserve agent) s = .next (grantedFrom s agent a o) := by
  have hall : ((v.hdr.rect o).zipIdx.all fun (c, i) => s.accepts a.skein v c i []) = true := List.all_eq_true.2 hfit
  have hnone : ((v.hdr.rect o).any s.reserved) = false := List.any_eq_false.2 (fun c hc => by simp [unreserved_of_fits hfit c hc])
  change execReserve agent s = _
  unfold execReserve
  erw [hsent]
  simp only [ha, hk, hv, Option.bind_some, hall, hnone]
  rfl

/-- It is denied when some core cannot. -/
theorem exec_reserve_denies (hfit : ∃ x ∈ (v.hdr.rect o).zipIdx, s.accepts a.skein v x.1 x.2 [] = false) :
    ∃ reason, exec (.reserve agent) s = .next (deniedFrom s agent a k o reason) := by
  have hall : ((v.hdr.rect o).zipIdx.all fun (c, i) => s.accepts a.skein v c i []) = false :=
    List.all_eq_false.2 (hfit.imp (fun _ h => ⟨h.1, by simp [h.2]⟩))
  change ∃ reason, execReserve agent s = _
  unfold execReserve
  erw [hsent]
  simp only [ha, hk, hv, Option.bind_some, hall]
  split
  · exact ⟨1, rfl⟩
  · exact ⟨2, rfl⟩
end

/-- The grant is in the agents' list; its reply is due, and so is the end of its commit window. -/
theorem grantedFrom_spec {a : Agent} (h : a ∈ s.work.agents) (agent o : Nat) :
    Undisturbed s (grantedFrom s agent a o) ∧ ⟨s.time.gt + 40, .event (.reserveReply agent)⟩ ∈ (grantedFrom s agent a o).agenda ∧
      { a with state := .granted o s.time.gt } ∈ (grantedFrom s agent a o).work.agents ∧
      ⟨s.time.gt + 640, .event (.commitWindowLapse agent)⟩ ∈ (grantedFrom s agent a o).agenda :=
  ⟨undisturbed_update _ _ _, mem_agenda_laterAt (laterAt_due s _ _) _ _, mem_putAgent_some (s := s) h, laterAt_due _ _ _⟩

/-- The denial is in the agents' list, and its reply is due. -/
theorem deniedFrom_spec {a : Agent} (h : a ∈ s.work.agents) (agent : Nat) (k : Skein) (o reason : Nat) :
    Undisturbed s (deniedFrom s agent a k o reason) ∧
      ⟨s.time.gt + 40, .event (.reserveReply agent)⟩ ∈ (deniedFrom s agent a k o reason).agenda ∧
      { a with state := .denied o } ∈ (deniedFrom s agent a k o reason).work.agents := by
  refine ⟨(undisturbed_update s _ _).trans (deniedEv_carried _ _ _ _ _).undisturbed, ?_, ?_⟩
  · rw [deniedFrom, deniedEv_agenda]
    exact laterAt_due s _ _
  · rw [deniedFrom, deniedEv_work]
    exact mem_putAgent_some (s := s) h

/-! ## The reply (R90 to R93) -/

def isAnswered : Attempt → Bool
  | .granted _ _ => true
  | .denied _ => true
  | _ => false

theorem isAnswered_iff {x : Attempt} : isAnswered x = true ↔ (∃ o since, x = .granted o since) ∨ ∃ o, x = .denied o := by
  cases x <;> simp [isAnswered]

/-- The gang quota of a cast-on launch's context has no room for its members beside the cores in use (R93, log 51). -/
def overQuota (s : State) (v : Launch) : Prop := v.hdr.place = 1 ∧ v.entry.gang.toNat < s.gangUsage v.ctx + v.hdr.members

/-- A grant that waits for quota is to be released, and its agent is free in the next cycle. -/
def heldForQuota (s : State) (agent : Nat) (a : Agent) (v : Launch) (o since : Nat) : State :=
  ((s.putAgent a (some { a with state := .releasing o since })).modSkein a.skein (fun k =>
    { k with quota := some (s.gangUsage v.ctx - v.hdr.members) })).freeAgent agent

/-- QUOTA_WAIT is recorded, and the release is on its way. -/
def quotaWaits (s : State) (agent : Nat) (a : Agent) (k : Skein) (v : Launch) (o since : Nat) : State :=
  ((heldForQuota s agent a v o since).placeEv k 0x43 (s.gangUsage v.ctx % 2 ^ 16 + v.hdr.members * 2 ^ 16)).laterAt (s.time.gt + 40)
    (.release agent)

section
variable {agent o since : Nat} {a : Agent} {k : Skein} {v : Launch} (hanswer : s.agentIn agent isAnswered = some a)
include hanswer

theorem exec_reserveReply_denied (ha : a.state = .denied o) : exec (.reserveReply agent) s = .next (s.turnedDown a) := by
  change execReserveReply agent s = _
  unfold execReserveReply
  erw [hanswer]
  simp only [ha]

variable (ha : a.state = .granted o since) (hk : s.skein? a.skein = some k) (hv : s.skeinLaunch k = some v)
include ha hk hv

theorem exec_reserveReply_commits (hquota : ¬ overQuota s v) : exec (.reserveReply agent) s =
    .next ((s.putAgent a (some { a with state := .committing o since })).laterAt (s.time.gt + 40) (.commit agent)) := by
  change execReserveReply agent s = _
  unfold execReserveReply
  erw [hanswer]
  simp only [ha, hk, hv, Option.bind_some]
  exact if_neg (by simpa [overQuota] using hquota)

theorem exec_reserveReply_waits (hquota : overQuota s v) : exec (.reserveReply agent) s = .next (quotaWaits s agent a k v o since) := by
  change execReserveReply agent s = _
  unfold execReserveReply
  erw [hanswer]
  simp only [ha, hk, hv, Option.bind_some]
  rw [if_pos (by simpa [overQuota] using hquota), placeEv_time]
  rfl
end

/-- The reservation is about to be released, and the skein waits until its context's usage has fallen by its members. -/
theorem quotaWaits_spec {a : Agent} {k : Skein} (ha : a ∈ s.work.agents) (hk : s.skein? a.skein = some k) (agent : Nat) (v : Launch)
    (o since : Nat) : let t := quotaWaits s agent a k v o since
    Undisturbed s t ∧ t.skein? a.skein = some { k with quota := some (s.gangUsage v.ctx - v.hdr.members) } ∧
      { a with state := .releasing o since } ∈ t.work.agents ∧ ⟨s.time.gt + 40, .event (.release agent)⟩ ∈ t.agenda := by
  intro t
  have hwork : t.work = (heldForQuota s agent a v o since).work := placeEv_work _ _ _
  refine ⟨((undisturbed_update s _ _).trans (emit_carried _ _).undisturbed).trans (undisturbed_update _ _ _), ?_, ?_, laterAt_due _ _ _⟩
  · rw [State.skein?, hwork]
    exact kget_kmod_self hk _
  · rw [hwork]
    exact mem_putAgent_some ha

theorem turnedDown_castOn {a : Agent} {k : Skein} (hk : s.skein? a.skein = some k) (ha : a.agent ≠ 4) : s.turnedDown a =
    (s.putAgent a (some { a with state := .holding })).modSkein a.skein (fun x =>
      { x with denials := k.denials + 1, nextTry := s.time.gt + 10 * backOff (k.denials + 1) }) := by
  simp [State.turnedDown, hk, ha]

theorem turnedDown_affine {a : Agent} {k : Skein} (hk : s.skein? a.skein = some k) (ha : a.agent = 4) : s.turnedDown a =
    (s.putAgent a none).modSkein a.skein (fun k => { k with nextTry := s.time.gt + 40 }) := by
  simp [State.turnedDown, hk, ha]

/-! ## The end of a reservation (R90, R91) -/

def isReleasing : Attempt → Bool
  | .releasing _ _ => true
  | _ => false

theorem exec_release {agent : Nat} {a : Agent} (h : s.agentIn agent isReleasing = some a) :
    exec (.release agent) s = .next (s.setAgents (s.work.agents.filter (fun x => x != a))) := by
  rw [← putAgent_none]
  change execRelease agent s = _
  unfold execRelease
  erw [h]

/-- A reservation whose commit window has ended. -/
def windowOver (gt : Nat) : Attempt → Bool
  | .granted _ t => decide (t + 640 ≤ gt)
  | .committing _ t => decide (t + 640 ≤ gt)
  | .releasing _ t => decide (t + 640 ≤ gt)
  | _ => false

theorem cases_of_windowOver {gt : Nat} {x : Attempt} (h : windowOver gt x = true) :
    ∃ o since, x = .granted o since ∨ x = .committing o since ∨ x = .releasing o since := by
  cases x <;> simp_all [windowOver]

/-- The arbiter drops the reservation and records a denial; the agent learns of it by its COMMIT, but for one that is releasing. -/
theorem exec_commitWindowLapse {agent : Nat} {a : Agent} {k : Skein} (h : s.agentIn agent (windowOver s.time.gt) = some a)
    (hk : s.skein? a.skein = some k) : ∃ b o, exec (.commitWindowLapse agent) s = .next ((s.putAgent a b).deniedEv a k o 3) ∧ b ≠ some a ∧
      ∀ o since, a.state = .granted o since ∨ a.state = .committing o since → b = some { a with state := .lapsed o } := by
  have hexec : exec (.commitWindowLapse agent) s = execCommitWindowLapse agent s := rfl
  simp only [execCommitWindowLapse] at hexec
  erw [h] at hexec
  have hne (o : Nat) (ho : a.state ≠ .lapsed o) : some ({ a with state := .lapsed o } : Agent) ≠ some a :=
    fun e => ho (congrArg Agent.state (Option.some.inj e)).symm
  obtain ⟨-, -, hover⟩ := agentIn_spec h
  obtain ⟨o, since, ha | ha | ha⟩ := cases_of_windowOver hover
  · simp only [ha, hk] at hexec
    exact ⟨_, o, hexec, hne o (by simp [ha]), by simp [ha]⟩
  · simp only [ha, hk] at hexec
    exact ⟨_, o, hexec, hne o (by simp [ha]), by simp [ha]⟩
  · simp only [ha, hk] at hexec
    exact ⟨none, o, hexec, nofun, by simp [ha]⟩

/-- Settles O43: the choice by what `leastBy` finds, each instruction by what it makes of the attempt, and the frame by what the changes and
the records of events leave. -/
theorem reservations : Obligations.Reservations := by
  unfold Obligations.Reservations
  intro quiet due launched
  refine ⟨fun s agent i k v hagent hidle hfree hfirst hl => ?_, fun s sk v o => castonChoice_spec, fun s i k v hfree hfirst hl => ?_,
    fun s agent a o k v hsent ha hl => ?_, fun s agent a k v hanswer hl => ?_, fun s agent a h => exec_release h,
    fun s agent a k h hk => ?_⟩
  · obtain ⟨hk, hv⟩ := hl
    obtain ⟨k', hsame, hk', hcount, hfound, hnone⟩ := attempt_spec (a := { agent, skein := i, state := .holding }) hk (s.castonChoice i v)
    refine ⟨_, k', exec_castonAttempt_takes hagent hidle hfree hfirst hv, hsame.quiet, hk', hcount, hfound, fun hc => ?_⟩
    obtain ⟨hblocked, hagents⟩ := hnone hc
    exact ⟨hblocked, hagents.trans (if_neg hagent.ne)⟩
  · obtain ⟨hk, hv⟩ := hl
    obtain ⟨u, hu, hexec⟩ := exec_affineAttempt_takes hfree hfirst hv
    have hwork := hu.recorded.work
    have hgt : u.time.gt = s.time.gt := congrArg TimeState.gt hu.recorded.time
    obtain ⟨k', hsame, hk', hcount, hfound, hnone⟩ := attempt_spec (s := u) (a := { agent := 4, skein := i, state := .holding })
      ((congrArg (fun w : WorkState => kget w.skeins i) hwork).trans hk) (s.affineChoice i v (s.affinity k.launch v).1)
    rw [hwork, hgt] at hfound
    rw [hwork] at hnone
    refine ⟨_, k', hexec, ((hu.undisturbed.trans hsame).trans (undisturbed_update _ _ _)).quiet, hk', hcount, ?_, hfound, hnone⟩
    rw [freeAgent_agentFree, attempt_time, hgt]
  · obtain ⟨hk, hv⟩ := hl
    obtain ⟨hmem, -, -⟩ := agentIn_spec hsent
    by_cases hfit : ∀ x ∈ (v.hdr.rect o).zipIdx, s.accepts a.skein v x.1 x.2 [] = true
    · obtain ⟨hsame, hreply, hgranted, hlapse⟩ := grantedFrom_spec hmem agent o
      refine ⟨_, exec_reserve_grants hsent ha hk hv hfit, hsame.quiet, hreply, fun ⟨c, hc, hr⟩ => ?_, fun _ _ => ⟨hgranted, hlapse⟩,
        fun ⟨x, hx, hr⟩ => ?_⟩
      · simp [unreserved_of_fits hfit c hc] at hr
      · simp [hfit x hx] at hr
    · obtain ⟨reason, hexec⟩ := exec_reserve_denies hsent ha hk hv (by simpa using hfit)
      obtain ⟨hsame, hreply, hdenied⟩ := deniedFrom_spec hmem agent k o reason
      exact ⟨_, hexec, hsame.quiet, hreply, fun _ => hdenied, fun _ h => absurd h hfit, fun _ => hdenied⟩
  · obtain ⟨hk, hv⟩ := hl
    obtain ⟨hmem, -, hp⟩ := agentIn_spec hanswer
    rcases isAnswered_iff.1 hp with ⟨o, since, ha⟩ | ⟨o, ha⟩
    · by_cases hquota : overQuota s v
      · obtain ⟨hsame, hk', hrel, hdue⟩ := quotaWaits_spec hmem hk agent v o since
        refine ⟨_, _, exec_reserveReply_waits hanswer ha hk hv hquota, hsame.quiet, hk', fun o' since' _ hroom => ?_,
          fun o' since' ha' _ _ => ?_, (fun _ ha' => nomatch ha.symm.trans ha'), fun _ ha' => nomatch ha.symm.trans ha'⟩
        · obtain ⟨hplace, hover⟩ := hquota
          exact hroom.elim (absurd hplace) (fun hle => absurd hover (Nat.not_lt.2 hle))
        · cases ha.symm.trans ha'
          exact ⟨hrel, hdue, rfl⟩
      · refine ⟨_, k, exec_reserveReply_commits hanswer ha hk hv hquota, (undisturbed_update _ _ _).quiet, hk, fun o' since' ha' _ => ?_,
          (fun _ _ _ hplace hover => absurd ⟨hplace, hover⟩ hquota), (fun _ ha' => nomatch ha.symm.trans ha'),
          fun _ ha' => nomatch ha.symm.trans ha'⟩
        cases ha.symm.trans ha'
        exact ⟨mem_putAgent_some hmem, laterAt_due _ _ _⟩
    · have hexec := exec_reserveReply_denied hanswer ha
      by_cases h4 : a.agent = 4
      · rw [turnedDown_affine hk h4] at hexec
        exact ⟨_, _, hexec, (undisturbed_update _ _ _).quiet, skein_modSkein_self (s := s.putAgent a none) hk _,
          (fun _ _ ha' => nomatch ha.symm.trans ha'), (fun _ _ ha' => nomatch ha.symm.trans ha'), (fun _ _ h => absurd h4 h),
          fun _ _ _ => ⟨not_mem_putAgent nofun, rfl⟩⟩
      · rw [turnedDown_castOn hk h4] at hexec
        exact ⟨_, _, hexec, (undisturbed_update _ _ _).quiet, skein_modSkein_self (s := s.putAgent a _) hk _,
          (fun _ _ ha' => nomatch ha.symm.trans ha'), (fun _ _ ha' => nomatch ha.symm.trans ha'),
          (fun _ _ _ => ⟨mem_putAgent_some hmem, rfl, rfl⟩), fun _ _ h => absurd h h4⟩
  · obtain ⟨hmem, -, -⟩ := agentIn_spec h
    obtain ⟨b, o, hexec, hne, hlapsed⟩ := exec_commitWindowLapse h hk
    refine ⟨_, hexec, ((undisturbed_update s _ _).trans (deniedEv_carried _ _ _ _ _).undisturbed).quiet, ?_, fun o' since hs => ?_⟩
    · rw [deniedEv_work]
      exact not_mem_putAgent hne
    · rw [deniedEv_work, hlapsed o' since hs]
      exact mem_putAgent_some hmem

end Sys2Proof.Laws
end

section
/-! Encoding and decoding of a slot (R104 to R116): each field of a packed slot reads back, so that a well-formed instruction decodes to itself. -/
namespace Sys2Proof.Laws

/-! ## Fields (R104 to R111) -/

@[simp] theorem ofField_field (r : Reg) : Reg.ofField r.field = r := by
  cases r with
  | w i => revert i; decide
  | k i => revert i; decide
  | v i => revert i; decide
  | p i => revert i; decide
  | t i => revert i; decide

@[simp] theorem guardOfBits_bits (g : Guard) : Guard.ofBits g.bits = g := by
  obtain ⟨neg, pred⟩ := g
  revert neg pred; decide

section
variable (opc : Byte) (c : Common) (low : BitVec 51)

/-- A field of a packed slot, read from the parts side by side. -/
theorem extract_packSlot (a n : Nat) : (packSlot opc c low).extractLsb' a n =
    (opc ++ c.mod ++ c.guard.bits ++ c.dst.field ++ c.sa.field ++ c.sb.field ++ c.sc.field ++ BitVec.ofBool c.u ++ low).extractLsb' a n := rfl

@[simp] theorem opcode_packSlot : (packSlot opc c low).extractLsb' 88 8 = opc := by
  simp (disch := decide) only [extract_packSlot, BitVec.extractLsb'_append_eq_of_le, Nat.reduceSub, BitVec.extractLsb'_eq_self]

@[simp] theorem u_packSlot : (packSlot opc c low).getLsbD 51 = c.u := by
  have h : (packSlot opc c low).extractLsb' 51 1 = BitVec.ofBool c.u := by
    simp (disch := decide) only [extract_packSlot, BitVec.extractLsb'_append_eq_of_le, Nat.reduceSub, BitVec.extractLsb'_append_eq_right]
  simpa using congrArg (·.getLsbD 0) h

@[simp] theorem commonOf_packSlot : commonOf (packSlot opc c low) = c := by
  simp (disch := decide) only [commonOf, extract_packSlot, u_packSlot, BitVec.extractLsb'_append_eq_of_le, Nat.reduceSub,
    BitVec.extractLsb'_append_eq_right, ofField_field, guardOfBits_bits]

@[simp] theorem low_packSlot : (packSlot opc c low).extractLsb' 0 51 = low := BitVec.extractLsb'_append_eq_right
end

@[simp] theorem genOf_genLow (f : Gen) : genOf f.toCommon (genLow f) = f := by
  have hfn : (genLow f).extractLsb' 48 3 = f.fn := BitVec.extractLsb'_append_eq_left
  have himm : (genLow f).extractLsb' 0 48 = f.imm := BitVec.extractLsb'_append_eq_right
  rw [genOf, hfn, himm]

theorem extract_brnLow (f : Brn) (a n : Nat) : (brnLow f).extractLsb' a n = (f.rsv ++ f.offset ++ f.slot ++ f.prio).extractLsb' a n := rfl

@[simp] theorem brnOf_brnLow (f : Brn) : brnOf f.toCommon (brnLow f) = f := by
  simp (disch := decide) only [brnOf, extract_brnLow, BitVec.extractLsb'_append_eq_of_le, Nat.reduceSub, BitVec.extractLsb'_eq_self,
    BitVec.extractLsb'_append_eq_right]

theorem extract_memLow (f : Mem) (a n : Nat) : (memLow f).extractLsb' a n = (f.scale ++ BitVec.ofBool f.x ++ f.disp).extractLsb' a n := rfl

theorem x_memLow (f : Mem) : (memLow f).getLsbD 48 = f.x := by
  have h : (memLow f).extractLsb' 48 1 = BitVec.ofBool f.x := by
    simp (disch := decide) only [extract_memLow, BitVec.extractLsb'_append_eq_of_le, Nat.reduceSub, BitVec.extractLsb'_append_eq_right]
  simpa using congrArg (·.getLsbD 0) h

@[simp] theorem memOf_memLow (f : Mem) : memOf f.toCommon (memLow f) = f := by
  simp (disch := decide) only [memOf, extract_memLow, x_memLow, BitVec.extractLsb'_append_eq_of_le, Nat.reduceSub, BitVec.extractLsb'_eq_self,
    BitVec.extractLsb'_append_eq_right]

theorem extract_jmpLow (f : Jmp) (a n : Nat) : (jmpLow f).extractLsb' a n = (f.rsv ++ f.bound ++ f.prio ++ f.label).extractLsb' a n := rfl

@[simp] theorem jmpOf_jmpLow (f : Jmp) : jmpOf f.toCommon (jmpLow f) = f := by
  simp (disch := decide) only [jmpOf, extract_jmpLow, BitVec.extractLsb'_append_eq_of_le, Nat.reduceSub, BitVec.extractLsb'_eq_self,
    BitVec.extractLsb'_append_eq_right]


/-! ## Opcodes (R114, R115) -/

section
variable (opc : Byte) (legal : Legal) (c : Common) (low : BitVec 51) (modOk : Bool) (dst sa sb sc : Use) (dstW : Bool) (used : BitVec 51)
  (bad : Option Nat) (own : Option (Nat × Nat))

@[simp] theorem mk_opc : (mk opc legal c low modOk dst sa sb sc dstW used bad own).opc = opc := rfl
@[simp] theorem mk_legal : (mk opc legal c low modOk dst sa sb sc dstW used bad own).legal = legal := rfl
@[simp] theorem mk_c : (mk opc legal c low modOk dst sa sb sc dstW used bad own).c = c := rfl
@[simp] theorem mk_low : (mk opc legal c low modOk dst sa sb sc dstW used bad own).low = low := rfl
@[simp] theorem mk_modOk : (mk opc legal c low modOk dst sa sb sc dstW used bad own).modOk = modOk := rfl
end

/-- The opcode of a coded instruction is assigned, and legal in each stream that the instruction's form is legal in. -/
theorem opcode_of_form {stream : Bool} {i : Instr} {f : Form} (hf : i.form stream = some f) (hl : f.legal.ok stream = true) :
    opcodeAssigned f.opc = true ∧ opcodeLegal stream f.opc = true := by
  cases i
  all_goals cases hf
  all_goals
    simp only [mk_opc, mk_legal] at hl ⊢
    revert hl
    cases stream <;> decide

section
variable (stream : Bool) (c : Common) (low : BitVec 51)

/-! Where one opcode has several instructions, FN, the modifier or the stream tells which. -/

theorem ofParts_exit : Instr.ofParts stream 0x07#8 c low = some (if stream then .streamExit (genOf c low) else .exit (genOf c low)) := rfl

theorem ofParts_bitCount : Instr.ofParts stream 0x22#8 c low = if (genOf c low).fn == 0 then some (.clz (genOf c low))
    else if (genOf c low).fn == 1 then some (.ctz (genOf c low)) else if (genOf c low).fn == 2 then some (.popc (genOf c low))
    else if (genOf c low).fn == 3 then some (.brev (genOf c low)) else if (genOf c low).fn == 4 then some (.abs (genOf c low)) else none := rfl

theorem ofParts_moveImmediate : Instr.ofParts stream 0x2B#8 c low = if (genOf c low).fn == 0 then some (.movi (genOf c low))
    else if (genOf c low).fn == 1 then some (.movh (genOf c low)) else none := rfl

theorem ofParts_tileLog : Instr.ofParts stream 0x88#8 c low = if c.mod.toNat % 4 == 0 then some (.tlogCompact (genOf c low))
    else if c.mod.toNat % 4 == 1 then some (.tlogApply (genOf c low)) else if c.mod.toNat % 4 == 2 then some (.tlogDiscard (genOf c low))
    else if c.mod.toNat % 4 == 3 then some (.tlogQuery (genOf c low)) else none := rfl

theorem ofParts_copy : Instr.ofParts stream 0x89#8 c low = if c.mod.toNat % 2 == 0 then some (.cpy (genOf c low))
    else if c.mod.toNat % 2 == 1 then some (.cpySnap (genOf c low)) else none := rfl

theorem ofParts_collectiveWatchdog : Instr.ofParts stream 0xB6#8 c low = if c.mod.toNat % 4 == 0 then some (.cwdQuery (genOf c low))
    else if c.mod.toNat % 4 == 1 then some (.cwdExtend (genOf c low)) else none := rfl

theorem ofParts_cause : Instr.ofParts stream 0xC7#8 c low = if c.mod.toNat % 2 == 0 then some (.caus (genOf c low))
    else if c.mod.toNat % 2 == 1 then some (.causNew (genOf c low)) else none := rfl
end

/-- The opcode map answers the instruction whose opcode, fields and low bits it is given, where its form's modifier is accepted and its form
is legal in the stream. -/
theorem ofParts_of_form {stream : Bool} {i : Instr} {f : Form} (hf : i.form stream = some f) (hl : f.legal.ok stream = true)
    (hm : f.modOk = true) : Instr.ofParts stream f.opc f.c f.low = some i := by
  cases i
  all_goals cases hf
  case exit | streamExit => cases stream <;> simp_all [Legal.ok, ofParts_exit]
  case clz | ctz | popc | brev | abs =>
    obtain ⟨-, hfn⟩ : _ ∧ _ = _ := by simpa only [mk_modOk, Bool.and_eq_true, beq_iff_eq] using hm
    simp [ofParts_bitCount, hfn]
  case movi | movh =>
    obtain ⟨-, hfn⟩ : _ ∧ _ = _ := by simpa only [mk_modOk, Bool.and_eq_true, beq_iff_eq] using hm
    simp [ofParts_moveImmediate, hfn]
  case tlogCompact | tlogApply | tlogDiscard | tlogQuery | cpy | cpySnap | cwdQuery | cwdExtend | caus | causNew =>
    simp only [mk_modOk, beq_iff_eq] at hm
    simp [ofParts_tileLog, ofParts_copy, ofParts_collectiveWatchdog, ofParts_cause, hm]
  all_goals
    conv_lhs => whnf
    simp only [mk_c, mk_low, genOf_genLow, brnOf_brnLow, memOf_memLow, jmpOf_jmpLow]

/-! ## Round trip (R116) -/

theorem check_none {stream : Bool} {f : Form} (h : f.check stream = none) : f.legal.ok stream = true ∧ f.modOk = true := by
  unfold Form.check at h
  split at h
  · cases h
  · next hl =>
    split at h
    · cases h
    · next hm => simp_all

/-- A slot packed from a form that the checks pass decodes to the form's instruction. -/
theorem decodeSlot_packSlot {stream : Bool} {i : Instr} {f : Form} (hf : i.form stream = some f) (hc : f.check stream = none) :
    decodeSlot stream (packSlot f.opc f.c f.low) = .ok i := by
  obtain ⟨hl, hm⟩ := check_none hc
  obtain ⟨hassigned, hlegal⟩ := opcode_of_form hf hl
  simp [decodeSlot, hassigned, hlegal, ofParts_of_form hf hl hm, hf, hc]

/-- The slot of a coded instruction is packed from its form, whichever the stream. -/
theorem encode_of_form {stream : Bool} {i : Instr} {f : Form} (hf : i.form stream = some f) : encode i = packSlot f.opc f.c f.low := by
  cases i
  all_goals cases hf
  all_goals rfl

/-- Settles O58: the packed fields read back, and the opcode map answers the instruction itself, so that the checks are those it passes. -/
theorem encodingRoundTrip : Obligations.EncodingRoundTrip := by
  intro stream i hwf
  unfold Instr.wellFormed at hwf
  split at hwf
  · next f hf =>
    rw [encode_of_form hf]
    exact decodeSlot_packSlot hf (Option.isNone_iff_eq_none.1 hwf)
  · cases hwf

/-- Settles O57: each word by evaluation of the decoder. -/
theorem decodeWords : Obligations.DecodeWords :=
  ⟨rfl, rfl, rfl, rfl, rfl, rfl, rfl, rfl, rfl, rfl, rfl, rfl, rfl, rfl, rfl, rfl⟩

end Sys2Proof.Laws
end

section
/-! Relative transfers (R119, R160, R161, R184): where strands and sequencers go, and what they meet when the target fails. -/
namespace Sys2Proof.Laws
open Sys2Proof.Machine Sys2Proof.Safety

/-! ## What the check of a target leaves (R119) -/

theorem checkTarget_async (s : State) (core : Nat) (w : Who) (tgt : Bool) (pc : Word) : (s.checkTarget core w tgt pc).1.async = s.async := by
  rcases checkTarget_spec s core w tgt pc with h | ⟨x, h⟩ <;> rw [h]
  rfl

theorem checkTarget_panels (s : State) (core : Nat) (w : Who) (tgt : Bool) (pc : Word) : (s.checkTarget core w tgt pc).1.panels = s.panels := by
  rcases checkTarget_spec s core w tgt pc with h | ⟨x, h⟩ <;> rw [h]
  rfl

/-! ## Transfers of strands -/

section
variable {s : State} {i : Instr} {req : List Reg} {I : Iss} {rmw : Bool}

/-- An effect that moves strands, and changes neither the courses nor the parked faults of courses, completes with its own change and theirs. -/
theorem complete_transfers {e : Eff} (h : Issues s i rmw req I) (hx : exec i s = .next (State.complete I e))
    (hcourses : e.s.courses = (passed s I).courses) (hfaults : ∀ p ∈ e.s.async.faults, p.2.who ≠ .course I.core I.slot I.E.pc)
    (hpopped : e.popped = false) (hleave : e.leave = []) (harrive : e.arrive = none) (hhits : e.hits = []) (hwait : e.wait = none) :
    Passes s i I I.c (goesTo I.E e.jumps) e.s := by
  have hown : e.s.course? I.core I.slot = some (passedCourse I.c) := (congrArg (kget · _) hcourses).trans (passed_course h.course)
  have hothers (k : Nat) (hk : k ≠ courseKey I.core I.slot) : kget e.s.courses k = kget s.courses k := by
    rw [hcourses]
    exact passed_others s I hk
  obtain ⟨c, hmoves, hkreg, hstrands, hcomplete⟩ := complete_moves hothers hown h.course h.live rfl hfaults hpopped hleave harrive hhits hwait
  refine ⟨_, c, hx, hmoves, ⟨hkreg, hstrands⟩, ?_⟩
  rw [hcomplete]
  rfl

theorem passed_faults (h : Issues s i rmw req I) : ∀ p ∈ (passed s I).async.faults, p.2.who ≠ .course I.core I.slot I.E.pc := by
  rw [passed_async]
  exact h.faults

/-- Where a strand goes when some strands transfer to one place. -/
theorem goesTo_one (E : Entry) (lanes : List Nat) (pc : Word) (prio : Half) :
    goesTo E (lanes.map (fun i => (i, pc, prio))) = fun i => if i ∈ lanes then pc else pcNext E.pc := by
  funext i
  unfold goesTo
  rw [List.find?_map]
  by_cases h : i ∈ lanes
  · obtain ⟨j, hj⟩ := Option.isSome_iff_exists.1 (List.find?_isSome (p := (· == i)).2 ⟨i, h, beq_self_eq_true i⟩)
    simp [hj, h]
  · have hnone : lanes.find? (· == i) = none := List.find?_eq_none.2 (fun j hj hji => h (eq_of_beq hji ▸ hj))
    simp [hnone, h]

variable {body : Iss → State → Ran} {lanes : List Nat} {pc : Word} {prio : Half} {folds : List Word} {branch : Bool}

/-- Where no strand transfers, all go on. -/
theorem jumpTo_nobody (h : Issues s i rmw req I) (hx : exec i s = runCourse s i rmw req body)
    (hb : body I (passed s I) = I.jumpTo (passed s I) [] pc prio folds branch) : Passes s i I I.c (fun _ => pcNext I.E.pc) s := by
  obtain ⟨t, c, ht, hmoves, hregs, hrest⟩ := complete_transfers (e := { s := passed s I, folds }) h (hx.trans (runCourse_ok h hb)) rfl
    (passed_faults h) rfl rfl rfl rfl rfl
  exact ⟨t, c, ht, hmoves, hregs, hrest.trans (passed_quiet s I)⟩

/-- Strands transfer to a target that passes its checks. -/
theorem jumpTo_taken (h : Issues s i rmw req I) (hx : exec i s = runCourse s i rmw req body)
    (hb : body I (passed s I) = I.jumpTo (passed s I) lanes pc prio folds branch) (hlanes : lanes ≠ []) (ht : (target s I pc).2 = none) :
    Passes s i I I.c (fun i => if i ∈ lanes then pc else pcNext I.E.pc) (target s I pc).1 := by
  have hok : I.jumpTo (passed s I) lanes pc prio folds branch = ((target s I pc).1, .ok
      { s := (target s I pc).1, jumps := lanes.map (fun i => (i, pc, prio)), folds, back := branch && decide (pc.toNat ≤ I.E.pc.toNat) }) := by
    unfold target at ht ⊢
    generalize hg : (passed s I).checkTarget I.core I.w true pc = g at ht ⊢
    obtain ⟨u, o⟩ := g
    subst ht
    simp [Iss.jumpTo, hlanes, hg]
  rw [← goesTo_one I.E lanes pc prio]
  refine complete_transfers h (hx.trans (runCourse_ok h (hb.trans hok))) (checkTarget_courses ..) ?_ rfl rfl rfl rfl rfl
  dsimp only [target]
  rw [checkTarget_async]
  exact passed_faults h

/-- A target that fails raises its exception in the strands that would go there. -/
theorem jumpTo_stops {e : Stop} (h : Issues s i rmw req I) (hx : exec i s = runCourse s i rmw req body)
    (hb : body I (passed s I) = I.jumpTo (passed s I) lanes pc prio folds branch) (hlanes : lanes ≠ []) (ht : (target s I pc).2 = some e) :
    exec i s = .next ((target s I pc).1.failed I e (maskOf lanes)) := by
  rw [hx]
  refine runCourse_error h (hb.trans ?_)
  unfold target at ht ⊢
  generalize hg : (passed s I).checkTarget I.core I.w true pc = g at ht ⊢
  obtain ⟨u, o⟩ := g
  subst ht
  simp [Iss.jumpTo, hlanes, hg]
end

/-! ## Transfers of a sequencer (R184) -/

section
variable {s u : State} {core pslot : Nat} {p : Panel} {pc : Word} {body : Nat → Nat → Panel → State → SRan}

/-- A sequencer that goes to a PC, with its own effect on the state. -/
theorem sequenced_modPanel (h : Streams s core pslot p) (hpanels : u.panels = s.panels) :
    Sequenced u (u.modPanel core pslot (fun q => { q with spc := pc, swait := .none })) core pslot p p.m pc where
  panel := by
    have hp : kget u.panels (panelKey core pslot) = some p := hpanels ▸ h.panel
    simp [State.panel?, State.modPanel, kget_kmod_self, hp]
  others k hk := kget_kmod_ne hk _
  rest := rfl

theorem beyond_faults (h : Streams s core pslot p) (hasync : u.async = s.async) :
    (if u.async.faults.isEmpty then u else u.faultOver (.stream core pslot)) = u := by
  split
  · rfl
  · exact faultOver_none (hasync ▸ h.faults)

theorem runStream_goto (h : Streams s core pslot p) (hb : body core pslot p s = .goto u pc) (hpanels : u.panels = s.panels)
    (hasync : u.async = s.async) : ∃ t, runStream s body = .next t ∧ Sequenced u t core pslot p p.m pc := by
  refine ⟨_, ?_, sequenced_modPanel h hpanels⟩
  simp only [runStream, h.focus, h.panel, hb, beyond_faults h hasync]

theorem runStream_done (h : Streams s core pslot p) (hb : body core pslot p s = .done u) (hpanels : u.panels = s.panels)
    (hasync : u.async = s.async) : ∃ t, runStream s body = .next t ∧ Sequenced u t core pslot p p.m (pcNext p.spc) := by
  refine ⟨_, ?_, sequenced_modPanel h hpanels⟩
  simp only [runStream, h.focus, h.panel, hb, beyond_faults h hasync]

theorem runStream_trap {t : Trp} (h : Streams s core pslot p) (hb : body core pslot p s = .trap u t) :
    runStream s body = .next (u.streamTrap core pslot t) := by
  simp only [runStream, h.focus, h.panel, hb]

theorem inStream_true (h : Streams s core pslot p) : s.inStream = true := by
  simp [State.inStream, h.focus]

theorem streamJump_goto (hx : (s.checkTarget core (s.skeinWho p.skein core none) true pc).2 = none) :
    streamJump s core p pc = .goto (s.checkTarget core (s.skeinWho p.skein core none) true pc).1 pc := by
  unfold streamJump
  generalize s.checkTarget core (s.skeinWho p.skein core none) true pc = g at hx ⊢
  obtain ⟨u, o⟩ := g
  subst hx
  rfl

theorem streamJump_trap {t : Trp} (hx : (s.checkTarget core (s.skeinWho p.skein core none) true pc).2 = some (.trap t)) :
    streamJump s core p pc = .trap (s.checkTarget core (s.skeinWho p.skein core none) true pc).1 t := by
  unfold streamJump
  generalize s.checkTarget core (s.skeinWho p.skein core none) true pc = g at hx ⊢
  obtain ⟨u, o⟩ := g
  subst hx
  rfl
end

/-! ## BRA and BRP (R160, R161) -/

theorem brpHolds_iff {m : Byte} (h : m.toNat ≤ 5) (x : Word) : brpHolds m x = true ↔ signTest m.toNat x := by
  have hzero : x = 0#64 ↔ x.toInt = 0 := by rw [← BitVec.toInt_inj, BitVec.toInt_zero]
  unfold brpHolds signTest
  generalize m.toNat = n at h
  interval_cases n <;> simp [BitVec.msb_eq_toInt, hzero] <;> omega

theorem exec_bra (f : Brn) (s : State) : exec (.bra f) s = execBra f s := rfl
theorem exec_brp (f : Brn) (s : State) : exec (.brp f) s = execBrp f s := rfl

section
variable {s : State} {I : Iss} {f : Brn}

theorem exec_bra_course (h : Issues s (.bra f) false [] I) : exec (.bra f) s =
    runCourse s (.bra f) false [] (fun I s => I.jumpTo s I.lanes (brnTarget I.E.pc f) f.prio [] true) := by
  rw [exec_bra, execBra, if_neg (by simp [inStream_false h])]

/-- The executing strands that take a BRP. -/
def brpTaken (f : Brn) (I : Iss) : List Nat := I.lanes.filter (fun i => brpHolds f.mod (I.c.read (sourceOf I i) f.sa))

theorem exec_brp_course (h : Issues s (.brp f) false [] I) : exec (.brp f) s = runCourse s (.brp f) false []
    (fun I s => I.jumpTo s (brpTaken f I) (brnTarget I.E.pc f) f.prio (I.foldVals [.inl f.sa]) true) := by
  rw [exec_brp, execBrp, if_neg (by simp [inStream_false h])]
  rfl

theorem mem_brpTaken (hm : f.mod.toNat ≤ 5) (i : Nat) :
    i ∈ brpTaken f I ↔ i ∈ I.lanes ∧ signTest f.mod.toNat (I.c.read (sourceOf I i) f.sa) := by
  rw [brpTaken, List.mem_filter, brpHolds_iff hm]

theorem brpTaken_lt (h : Issues s (.brp f) false [] I) : ∀ i ∈ brpTaken f I, i < 16 :=
  fun i hi => (lanes_lt h).1 i (List.mem_of_mem_filter hi)
end

section
variable {s : State} {core pslot : Nat} {p : Panel} {f : Brn}

theorem exec_bra_stream (h : Streams s core pslot p) : exec (.bra f) s =
    runStream s (fun core _ p s => streamJump s core p (brnTarget p.spc f)) := by
  rw [exec_bra, execBra, if_pos (inStream_true h)]

theorem exec_brp_stream (h : Streams s core pslot p) : exec (.brp f) s = runStream s (fun core _ p s =>
    if brpHolds f.mod (p.rd.get f.sa) then streamJump s core p (brnTarget p.spc f) else .done s) := by
  rw [exec_brp, execBrp, if_pos (inStream_true h)]
end

/-- Settles O15: the strands that transfer are the executing strands, of BRP those that pass its test; each case is one outcome of the
check of the target. -/
theorem branches : Obligations.Branches := by
  refine ⟨fun f s I h => ⟨fun ht => ?_, fun e he => ?_⟩, fun f s I h hm => ⟨fun hnone => ?_, fun hsome ht => ?_, fun hsome e he => ?_⟩,
    fun f s core pslot p h => ⟨fun hx => ?_, fun hm hno => ?_, fun hm hyes hx => ?_, fun t ht => ?_⟩⟩
  · exact jumpTo_taken h (exec_bra_course h) rfl h.some ht
  · exact jumpTo_stops h (exec_bra_course h) rfl h.some he
  · refine jumpTo_nobody h (exec_brp_course h) (pc := brnTarget I.E.pc f) (congrArg (I.jumpTo _ · _ _ _ _) ?_)
    exact List.eq_nil_iff_forall_not_mem.2 (fun i hi => hnone i ((mem_brpTaken hm i).1 hi))
  · obtain ⟨i, hi⟩ := hsome
    refine ⟨_, fun k => ?_, jumpTo_taken h (exec_brp_course h) rfl (List.ne_nil_of_mem ((mem_brpTaken hm i).2 hi)) ht⟩
    exact ⟨fun hk => if_pos ((mem_brpTaken hm k).2 hk), fun hk => if_neg (mt (mem_brpTaken hm k).1 hk)⟩
  · obtain ⟨i, hi⟩ := hsome
    refine ⟨_, jumpTo_stops h (exec_brp_course h) rfl (List.ne_nil_of_mem ((mem_brpTaken hm i).2 hi)) he, fun lane hlane => ?_⟩
    rw [maskOf_bit _ (brpTaken_lt h) lane hlane, decide_eq_true_eq, mem_brpTaken hm]
  · rw [exec_bra_stream h]
    exact runStream_goto h (streamJump_goto hx) (checkTarget_panels ..) (checkTarget_async ..)
  · rw [exec_brp_stream h]
    exact runStream_done h (if_neg (fun hyes => hno ((brpHolds_iff hm _).1 hyes))) rfl rfl
  · rw [exec_brp_stream h]
    exact runStream_goto h ((if_pos ((brpHolds_iff hm _).2 hyes)).trans (streamJump_goto hx)) (checkTarget_panels ..) (checkTarget_async ..)
  · rw [exec_bra_stream h]
    exact runStream_trap h (streamJump_trap ht)

end Sys2Proof.Laws
end

section
/-! What a transfer's target goes through (R102, R119, R123, R124): its line is obtained, and each check's failure is answered in order. -/
namespace Sys2Proof.Laws
open Sys2Proof.Machine Sys2Proof.Safety

variable {s : State} {core : Nat} {w : Who} {line pc : Word} {x : IcLine}

/-! ## The instruction cache (R123) -/

theorem icFind_icPut (s : State) (core : Nat) (x : IcLine) : (s.icPut core x).icFind core x.ctx x.line = some x := by
  rw [State.icFind, icPut_core, if_pos rfl]
  simp [icInsert]

theorem icFind_key {ctx : Nat} (h : s.icFind core ctx line = some x) : x.ctx = ctx ∧ x.line = line := by
  simpa using List.find?_some h

/-- Putting a line in a core's cache changes only that core's cache and fills. -/
theorem icPut_otherwise (s : State) (core n : Nat) (x : IcLine) :
    ({ (s.icPut core x).core n with icache := (s.core n).icache, filling := (s.core n).filling } : Core) = s.core n ∧
      (n ≠ core → (s.icPut core x).core n = s.core n) := by
  rw [icPut_core]
  refine ⟨?_, fun h => if_neg h⟩
  split
  · next h => rw [h]
  · rfl

/-! ## A line is obtained (R124) -/

/-- The line that an issue or a transfer obtains: the cached one, or one that is read now. -/
def Obtains (s : State) (core : Nat) (w : Who) (line : Word) (x : IcLine) : Prop :=
  s.icFind core w.ctx line = some x ∨ (s.icFind core w.ctx line = none ∧ ∃ bits, s.fillRead w line = .ok bits ∧ x = icMark w.ctx line bits)

theorem obtain_obtains (h : Obtains s core w line x) : s.obtain core w line = (s.icPut core x, .ok x) := by
  unfold State.obtain
  rcases h with h | ⟨h, bits, hbits, rfl⟩
  · rw [h]
  · rw [h, hbits]

theorem Obtains.key (h : Obtains s core w line x) : x.ctx = w.ctx ∧ x.line = line := by
  rcases h with h | ⟨-, bits, -, rfl⟩
  · exact icFind_key h
  · exact ⟨rfl, rfl⟩

theorem Obtains.cached (h : Obtains s core w line x) : (s.icPut core x).icFind core w.ctx line = some x := by
  obtain ⟨hctx, hline⟩ := h.key
  rw [← hctx, ← hline]
  exact icFind_icPut s core x

theorem obtain_fails {e : Stop} (hc : s.icFind core w.ctx line = none) (hr : s.fillRead w line = .error e) :
    s.obtain core w line = (s, .error e) := by
  simp only [State.obtain, hc, hr]

/-! ## The checks of a target (R119) -/

/-- What the checks answer of a target on an obtained line. -/
def targetStop (x : IcLine) (pc : Word) : Option Stop :=
  if x.lbad then some (Trp.stop Cause.parity 0 (pc ||| 8))
  else if lineReservedOk x.bits = false then some (Trp.stop Cause.illegal 0x06 pc)
  else if lineTarget x.bits (pcSlot pc) = false then some (Trp.stop Cause.target 0x01 pc) else none

theorem checkTarget_invalid (h : pcValid pc = false) : s.checkTarget core w true pc = (s, some (Trp.stop Cause.target 0x02 pc)) := by
  simp [State.checkTarget, h]

theorem checkTarget_obtained (hv : pcValid pc = true) (h : Obtains s core w (pcLine pc) x) :
    s.checkTarget core w true pc = (s.icPut core x, targetStop x pc) := by
  simp only [State.checkTarget, hv, Bool.not_true, Bool.false_eq_true, if_false, obtain_obtains h, lineWordStop, targetStop]
  cases x.lbad <;> cases lineReservedOk x.bits <;> cases lineTarget x.bits (pcSlot pc) <;> rfl

theorem checkTarget_unread {e : Stop} (hv : pcValid pc = true) (hc : s.icFind core w.ctx (pcLine pc) = none)
    (hr : s.fillRead w (pcLine pc) = .error e) : s.checkTarget core w true pc = (s, some (e.at_ pc)) := by
  simp [State.checkTarget, hv, obtain_fails hc hr]

/-- The check of a target changes nothing but the core's cache and fills. -/
theorem checkTarget_otherwise (s : State) (core : Nat) (w : Who) (pc : Word) :
    ({ (s.checkTarget core w true pc).1 with cores := s.cores } : State) = s ∧ ∀ n,
      ({ (s.checkTarget core w true pc).1.core n with icache := (s.core n).icache, filling := (s.core n).filling } : Core) = s.core n ∧
        (n ≠ core → (s.checkTarget core w true pc).1.core n = s.core n) := by
  rcases checkTarget_spec s core w true pc with h | ⟨x, h⟩ <;> rw [h]
  · exact ⟨rfl, fun _ => ⟨rfl, fun _ => rfl⟩⟩
  · exact ⟨icPut_rest s core x, fun n => icPut_otherwise s core n x⟩

/-- Settles O16: the target's PC, then its line as it is obtained, then the checks on the line. -/
theorem transferTargets : Obligations.TransferTargets := by
  refine fun s core w pc => ⟨checkTarget_otherwise s core w pc, checkTarget_invalid, fun hv x hx => ?_,
    fun hv hc e hr => checkTarget_unread hv hc hr⟩
  rw [checkTarget_obtained hv hx]
  exact ⟨Obtains.cached hx, rfl⟩

end Sys2Proof.Laws
end

section
/-! One step is one turn, and a turn runs the instruction it decodes (R102, R116, R120, R123, R124, R142, R414, R418, R419; log 4). -/
namespace Sys2Proof.Laws
open Sys2Proof.Machine Sys2Proof.Safety

variable {s s1 s2 t : State} {core slot : Nat} {i : Instr}

/-! ## Steps (R16) -/

theorem step_unpowered (h : s.dev.powered = false) : step s = s.restOnce := by
  simp [step, State.stepOnce, h]

theorem step_passes (h : s.dev.powered = true) (ha : s.advance = (none, s1)) : step s = .next s1 := by
  simp [step, State.stepOnce, h, ha]

theorem step_performs {u : Turn} (h : s.dev.powered = true) (ha : s.advance = (some u, s1)) (hp : s1.perform u = .next t) :
    step s = .next { t with focus := .none } := by
  simp [step, State.stepOnce, h, ha, hp]

/-! ## The instruction at a PC (R116, R120) -/

theorem slotCheck_ok {stream : Bool} {x : IcLine} {pc : Word} (hl : x.lbad = false) (hr : lineReservedOk x.bits = true)
    (hs : x.sbad.getLsbD (pcSlot pc) = false) (hd : decodeSlot stream (lineSlot x.bits (pcSlot pc)) = .ok i) : slotCheck stream x pc = .ok i := by
  simp [slotCheck, hl, hr, hs, hd]

theorem fetched_obtained {c : Course} {E : Entry} {x : IcLine} (hstart : c.started = true ∨ c.level ≠ 0)
    (hx : Obtains s core (s.courseWho core c) (pcLine E.pc) x) : s.fetched core slot c E = (s.icPut core x, slotCheck false x E.pc) := by
  have hb : (c.started || c.level.val != 0) = true := by
    rcases hstart with h | h
    · simp [h]
    · simp [Fin.val_eq_zero_iff, h]
  simp only [State.fetched, hb, if_true, obtain_obtains hx]

theorem seqFetched_obtained {p : Panel} {x : IcLine} (hstart : p.sstarted = true)
    (hx : Obtains s core (s.skeinWho p.skein core none) (pcLine p.spc) x) : s.seqFetched core p = (s.icPut core x, slotCheck true x p.spc) := by
  simp only [State.seqFetched, hstart, if_true, obtain_obtains hx]

/-! ## A course's turn (R142, R414, R418, R419) -/

section
variable {c : Course} {E : Entry}

/-- A course that has issued an instruction at level 0 has started. -/
def begunAt (s : State) (core slot : Nat) (c : Course) : State :=
  if c.level = 0 then s.modCourse core slot (fun c => { c with started := true }) else s

theorem issueEntry_runs (hready : E.wait = .none → c.stepsNow = false ∧ c.breakpoint E.pc = none)
    (hf : s.fetched core slot c E = (s2, .ok i)) (hs : (begunAt s2 core slot c).scoreboard core c E i = false) :
    s.issueEntry core slot c E = exec i { begunAt s2 core slot c with focus := .course core slot } := by
  have hstep : (E.wait == .none && c.stepsNow) = false := by
    by_cases h : E.wait = .none
    · simp [(hready h).1]
    · simp [h]
  have hbreak : (E.wait == .none && (c.breakpoint E.pc).isSome) = false := by
    by_cases h : E.wait = .none
    · simp [(hready h).2]
    · simp [h]
  have hbegun : (if c.level.val == 0 then s2.modCourse core slot (fun c => { c with started := true }) else s2) = begunAt s2 core slot c := by
    simp [begunAt, Fin.val_eq_zero_iff]
  simp only [State.issueEntry, hstep, hbreak, hf, hbegun, hs, Bool.false_eq_true, if_false]

/-- A course whose head entry's instruction takes effect issues that and no more. -/
theorem issueCourse_issues {n : Nat} (hc : s.course? core slot = some c) (hE : headEntry c.front = some E)
    (hi : s.issueEntry core slot c E = .next t) (hheld : ({ t with focus := .none } : State).heldAt core slot E = false) :
    issueCourse (n + 1) core slot s = .next (if t.focus = .course core slot then ({ t with focus := .none } : State).stepped core slot
      else { t with focus := .none }) := by
  simp only [issueCourse, hc, hE, hi, hheld, Bool.false_eq_true, if_false, beq_iff_eq]
end

/-- A course's turn runs the instruction of its head entry. -/
theorem step_course {c0 : Course} {E : Entry} (h : s.dev.powered = true) (ha : s.advance = (some (.course core slot), s1))
    (hc : s1.course? core slot = some c0) (hE : headEntry c0.polled.front = some E)
    (hi : (s1.setCourse core slot c0.polled).issueEntry core slot c0.polled E = .next t)
    (hheld : ({ t with focus := .none } : State).heldAt core slot E = false) :
    step s = .next (if t.focus = .course core slot then { ({ t with focus := .none } : State).stepped core slot with focus := .none }
      else { t with focus := .none }) := by
  have hp : s1.perform (.course core slot) = .next (if t.focus = .course core slot then ({ t with focus := .none } : State).stepped core slot
      else { t with focus := .none }) := by
    simp only [State.perform, State.courseTurn, hc]
    exact issueCourse_issues (course?_setCourse _ _ _ _) hE hi hheld
  rw [step_performs h ha hp]
  split <;> rfl

/-- A sequencer's turn runs the instruction at its PC. -/
theorem step_stream {k : Nat} {p : Panel} (h : s.dev.powered = true) (ha : s.advance = (some (.stream core k), s1))
    (hp : s1.panel? core k = some p) (hend : p.ending = false) (hf : s1.seqFetched core p = (s2, .ok i))
    (hx : exec i { (s2.modPanel core k (fun p => { p with sstarted := true })) with focus := .stream core k } = .next t) :
    step s = .next { t with focus := .none } := by
  refine step_performs h ha ?_
  simp only [State.perform, State.streamTurn, hp, hend, hf, hx, Bool.false_eq_true, if_false]

/-! ## The order of turns (R137; log 4) -/

theorem keyBefore_iff (a b : Nat × Nat) : keyBefore a b = true ↔ a.1 < b.1 ∨ a.1 = b.1 ∧ a.2 < b.2 := by
  simp [keyBefore]

theorem keyBefore_irrefl (a : Nat × Nat) : keyBefore a a = false := by
  simp [keyBefore]

/-- Keys are in a total order: what is not before a key is not before a later one. -/
theorem not_keyBefore_trans {a b c : Nat × Nat} (h : keyBefore b a = false) (k : keyBefore c b = false) : keyBefore c a = false := by
  simp only [← Bool.not_eq_true, keyBefore_iff] at h k ⊢
  omega

theorem keyBefore_asymm {a b : Nat × Nat} (h : keyBefore a b = true) : keyBefore b a = false := by
  simp only [← Bool.not_eq_true, keyBefore_iff] at h ⊢
  omega

theorem firstTurn_none {l : List Turn} (h : firstTurn l = none) : l = [] := by
  cases l with
  | nil => rfl
  | cons t l =>
    simp only [firstTurn] at h
    split at h
    · split at h <;> cases h
    · cases h

/-- The first turn of some is one of them, and no other's key is before its. -/
theorem firstTurn_spec {l : List Turn} {t : Turn} (h : firstTurn l = some t) : t ∈ l ∧ ∀ u ∈ l, keyBefore u.key t.key = false := by
  induction l generalizing t with
  | nil => cases h
  | cons x l ih =>
    simp only [firstTurn] at h
    split at h
    · next y hy =>
      obtain ⟨hmem, hleast⟩ := ih hy
      split at h
      · next hbefore =>
        cases h
        refine ⟨List.mem_cons_of_mem _ hmem, fun u hu => ?_⟩
        rcases List.mem_cons.1 hu with rfl | hu
        · exact keyBefore_asymm hbefore
        · exact hleast u hu
      · next hbefore =>
        cases h
        refine ⟨List.mem_cons_self, fun u hu => ?_⟩
        rcases List.mem_cons.1 hu with rfl | hu
        · exact keyBefore_irrefl _
        · exact not_keyBefore_trans (Bool.not_eq_true _ ▸ hbefore) (hleast u hu)
    · next hnone =>
      cases h
      rw [firstTurn_none hnone]
      exact ⟨List.mem_cons_self, fun u hu => by rw [List.mem_singleton.1 hu, keyBefore_irrefl]⟩

/-- The next turn is one of those that can be taken; where some come after the turn that was taken last, it is the first of those. -/
theorem nextTurn_spec {l : List Turn} {u : Turn} (h : s.nextTurn l = some u) : u ∈ l ∧ ∀ v ∈ l, keyBefore s.rotor v.key = true →
    keyBefore s.rotor u.key = true ∧ keyBefore v.key u.key = false := by
  unfold State.nextTurn at h
  split at h
  · next y hy =>
    cases h
    obtain ⟨hmem, hleast⟩ := firstTurn_spec hy
    obtain ⟨hin, hafter⟩ := List.mem_filter.1 hmem
    exact ⟨hin, fun v hv hlater => ⟨hafter, hleast v (List.mem_filter.2 ⟨hv, hlater⟩)⟩⟩
  · next hnone =>
    exact ⟨(firstTurn_spec h).1, fun v hv hlater => absurd hlater (List.filter_eq_nil_iff.1 (firstTurn_none hnone) v hv)⟩

/-- The first item of the agenda comes next where nothing else is due and no unit's turn would have passed before it. -/
theorem advance_agenda {it : Item} {rest : List Item} (hplace : s.placementDue = [])
    (htimers : s.reqTimers ++ s.collTimers ++ s.faultTimers ++ s.sampleTimers ++ s.syncTimer ++ s.launcherTimer ++ s.partTimers = [])
    (hagenda : s.agenda = it :: rest) (hturns : ∀ u, s.nextTurn s.turns = some u → it.at_ < s.time.gt + s.turnGt u) :
    s.advance = (some it.turn, ({ s with agenda := rest } : State).passTo it.at_) := by
  have hdue : s.due = some (it.at_, it.turn, { s with agenda := rest }) := by
    simp only [State.due, hplace, htimers, hagenda, earliest]
  unfold State.advance
  cases hu : s.nextTurn s.turns with
  | none => simp only [hdue]
  | some u => simp only [hdue, if_pos (hturns u hu)]

/-- Settles O56: a step by what comes next; a turn by what the fetch answers; the order by the keys. -/
theorem stepRuns : Obligations.StepRuns := by
  refine ⟨fun s h => ⟨fun ha => ?_, fun it rest ha => ⟨fun i hi hacts => ?_, fun hno => ?_⟩⟩, fun s s1 h => ⟨step_passes h, fun i t ha hx => ?_,
    fun core slot c0 E s2 i t ha hc => ?_, fun core k p s2 i t ha hp hend hf hx => step_stream h ha hp hend hf hx⟩,
    fun s core slot c E x i => ?_, fun s core p x i => ?_, fun s l t ht => nextTurn_spec ht,
    fun s it rest hplace htimers ha hturns => advance_agenda hplace htimers ha hturns⟩
  · rw [step_unpowered h]
    simp [State.restOnce, ha]
  · rw [step_unpowered h]
    simp [State.restOnce, ha, hi, hacts]
  · rw [step_unpowered h]
    simp only [State.restOnce, ha]
    split
    · next i hi => simp [hno i hi]
    · rfl
  · exact step_performs h ha hx
  · intro c hE hready hf s3 hs hx t1 hheld
    exact step_course h ha hc hE ((issueEntry_runs hready hf hs).trans hx) hheld
  · intro w hstart hx hl hr hs hd
    rw [fetched_obtained hstart hx, slotCheck_ok hl hr hs hd]
  · intro w hstart hx hl hr hs hd
    rw [seqFetched_obtained hstart (.inl hx), slotCheck_ok hl hr hs hd]

end Sys2Proof.Laws
end

section
/-! What spilling and filling a strand's window leaves of the machine (R151, R153, R276): the courses, the panels and what is parked. -/
namespace Sys2Proof.Laws
open Sys2Proof.Machine Sys2Proof.Safety

/-- Beside the courses and the panels: no course and no panel changes, no skein, no header of a launch, and a fault that is parked
was parked before or is an operation's. -/
structure Aside (b s : State) : Prop where
  courses : s.courses = b.courses
  panels  : s.panels = b.panels
  skeins  : s.work.skeins = b.work.skeins
  headers : ∀ l, (s.launch? l).map (·.hdr) = (b.launch? l).map (·.hdr)
  faults  : ∀ p ∈ s.async.faults, (∃ q ∈ b.async.faults, p.2.who = q.2.who) ∨ ∃ id, p.2.who = .op id

/-- If there is an answer, its state is one beside the courses and the panels. -/
def OkAside {ε : Type} (b : State) (r : Except ε State) : Prop := ∀ t, r = .ok t → Aside b t

section
variable {b s t u : State} {α β ε : Type}

theorem Aside.refl (s : State) : Aside s s := ⟨rfl, rfl, rfl, fun _ => rfl, fun p hp => .inl ⟨p, hp, rfl⟩⟩

theorem Aside.trans (h : Aside s t) (k : Aside t u) : Aside s u where
  courses := k.courses.trans h.courses
  panels := k.panels.trans h.panels
  skeins := k.skeins.trans h.skeins
  headers l := (k.headers l).trans (h.headers l)
  faults p hp := by
    rcases k.faults p hp with ⟨q, hq, e⟩ | e
    · rw [e]
      exact h.faults q hq
    · exact .inr e

/-- No parked fault of an instruction appears. -/
theorem Aside.unparked (h : Aside s t) {core slot : Nat} {pc : Word} (hs : ∀ p ∈ s.async.faults, p.2.who ≠ .course core slot pc) :
    ∀ p ∈ t.async.faults, p.2.who ≠ .course core slot pc := by
  intro p hp
  rcases h.faults p hp with ⟨q, hq, e⟩ | ⟨id, e⟩ <;> rw [e]
  · exact hs q hq
  · nofun

/-- A change that keeps courses, panels and the work at hand, and gives no parked fault another owner. -/
theorem aside_of_who (hc : t.courses = s.courses) (hp : t.panels = s.panels) (hk : t.work.skeins = s.work.skeins)
    (hl : t.work.launches = s.work.launches) (hw : ∀ p ∈ t.async.faults, ∃ q ∈ s.async.faults, p.2.who = q.2.who) : Aside s t :=
  ⟨hc, hp, hk, fun l => by rw [State.launch?, hl]; rfl, fun p h => .inl (hw p h)⟩

/-- A change of neither courses nor panels nor work nor parked faults. -/
theorem aside_of_eq (hc : t.courses = s.courses) (hp : t.panels = s.panels) (hk : t.work.skeins = s.work.skeins)
    (hl : t.work.launches = s.work.launches) (hw : t.async.faults = s.async.faults) : Aside s t :=
  aside_of_who hc hp hk hl (fun p h => ⟨p, hw ▸ h, rfl⟩)

theorem Carried.aside (h : Carried s t) : Aside s t := by
  have hrest := h.rest
  have hwork : t.work = s.work := (congrArg State.work hrest :)
  exact aside_of_eq (congrArg State.courses hrest :) (congrArg State.panels hrest :) (by rw [hwork]) (by rw [hwork])
    (congrArg (·.async.faults) hrest :)

/-- The deepest call depth of a course's launch stays. -/
theorem Aside.depth (h : Aside s t) (c : Course) : (t.launchOf c).elim 64 (·.hdr.depth) = (s.launchOf c).elim 64 (·.hdr.depth) := by
  have hhdr (u : State) : (u.launchOf c).elim 64 (·.hdr.depth) =
      ((u.skein? c.skein).bind (fun k => (u.launch? k.launch).map (·.hdr))).elim 64 (·.depth) := by
    unfold State.launchOf
    cases u.skein? c.skein with
    | none => rfl
    | some k => cases hk : u.launch? k.launch <;> simp [hk]
  have hskein : t.skein? c.skein = s.skein? c.skein := by rw [State.skein?, h.skeins]; rfl
  rw [hhdr, hhdr, hskein]
  simp only [h.headers]

theorem ok_aside (h : Aside b s) : OkAside b (.ok s : Except ε State) := by rintro t ⟨⟩; exact h
theorem error_aside {e : ε} : OkAside b (.error e : Except ε State) := by rintro t ⟨⟩
theorem fst_aside {x : State × α} {a : α} (e : x = (t, a)) (h : Aside b x.1) : Aside b t := by rw [e] at h; exact h

theorem foldl_aside {f : State → α → State} {l : List α} (hf : ∀ t x, Aside t (f t x)) : Aside s (l.foldl f s) :=
  List.foldlRecOn l f (Aside.refl s) (fun t ht x _ => ht.trans (hf t x))

/-! ## Bytes and events -/

theorem poke_aside (s : State) (l : Loc) (bs : List Byte) : Aside s (s.poke l bs) := aside_of_who rfl rfl rfl rfl (poke_faults_who s l bs)

theorem emit_aside (s : State) (e : Ev) : Aside s (s.emit e) := (emit_carried s e).aside

theorem writeRange_aside {w : Who} {a : Word} {bs : List Byte} (h : s.writeRange w a bs = .ok t) : Aside s t := by
  unfold State.writeRange at h
  split at h
  · cases h
  · next l _ =>
    cases h
    exact List.foldlRecOn (motive := fun x : State × List Byte => Aside s x.1) l _ (Aside.refl s)
      (fun x hx p _ => hx.trans (poke_aside _ _ _))

theorem errEntry_aside (s : State) (ctx : Nat) (r : Record) : Aside s (s.errEntry ctx r) := by
  have hlost (t : State) (r : Record) : Aside t (t.ringWrite r) := (ringWrite_carried t r).aside
  unfold State.errEntry
  extract_lets _ _ _ raised
  have hr : Aside s raised := aside_of_eq rfl rfl rfl rfl rfl
  split
  · exact hlost _ _
  split
  · exact hlost _ _
  extract_lets
  split
  · exact hlost _ _
  next h1 =>
  have h1 := hr.trans (writeRange_aside h1)
  split
  · exact h1.trans (hlost _ _)
  · next h2 => exact h1.trans (writeRange_aside h2)

theorem emitErr_aside (s : State) (ctx : Nat) (e : Ev) : Aside s (s.emitErr ctx e) :=
  ((resetMark_carried s).aside.trans (emit_aside _ e)).trans (errEntry_aside _ ctx _)

theorem hostFault_aside {p : Parked} {id : Nat} (hp : p.who = .op id) : Aside s (s.hostFault p) := by
  unfold State.hostFault
  split
  · next i q hq =>
    have hwho : q.who = p.who := by
      unfold kfind at hq
      simpa using List.find?_some hq
    refine ⟨rfl, rfl, rfl, fun _ => rfl, fun x hx => ?_⟩
    rcases mem_kset hx with rfl | hx
    · exact .inr ⟨id, hwho.trans hp⟩
    · exact .inl ⟨x, hx, rfl⟩
  · dsimp only [State.newId]
    have he := emitErr_aside { s with work := { s.work with nextId := s.work.nextId + 1 } } 0 (faultEv p 0x60)
    refine ⟨he.courses, he.panels, he.skeins, he.headers, fun x hx => ?_⟩
    rcases mem_kset hx with rfl | hx
    · exact .inr ⟨id, hp⟩
    · exact he.faults x hx

/-! ## Tiles' logs (R273 to R280) -/

theorem setTile_aside (s : State) (t : Tile) (off n v : Nat) : Aside s (s.setTile t off n v) := by
  rcases setTile_cases s t off n v with h | ⟨l, bs, h⟩ <;> rw [h]
  · exact Aside.refl s
  · exact poke_aside s l bs

theorem admitTile_aside {t : Tile} {skein : Option Nat} (h : s.admitTile t skein = some u) : Aside s u := by
  unfold State.admitTile at h
  split at h
  · cases h
    exact Aside.refl s
  split at h
  · cases h
  · cases h
    exact aside_of_eq rfl rfl rfl rfl rfl

theorem writeLog_aside (s : State) (t : Tile) (l : List LogEntry) : Aside s (s.writeLog t l) :=
  Aside.trans (foldl_aside (fun _ _ => poke_aside _ _ _)) (setTile_aside _ _ _ _ _)

theorem dropMalformed_aside (s : State) (t : Tile) (b : Ev) : Aside s (s.dropMalformed t b) :=
  foldl_aside (fun _ _ => emit_aside _ _)

theorem compactLog_aside (s : State) (t : Tile) (b : Ev) : Aside s (s.compactLog t b).1 :=
  ((dropMalformed_aside s t b).trans (writeLog_aside _ _ _)).trans (emit_aside _ _)

theorem countStats_aside (s : State) (l : Option Nat) (keys : List Nat) : Aside s (s.countStats l keys) := by
  unfold State.countStats
  split
  · exact Aside.refl s
  next l =>
  split
  · exact Aside.refl s
  refine ⟨rfl, rfl, rfl, fun k => ?_, fun p hp => .inl ⟨p, hp, rfl⟩⟩
  unfold State.launch? State.modLaunch
  dsimp only
  by_cases hk : k = l
  · subst hk
    cases hx : kget s.work.launches k with
    | none => rw [show kmod s.work.launches k _ = _ from by simp only [kmod, hx]; rfl, hx]
    | some x => rw [kget_kmod_self hx]; rfl
  · rw [kget_kmod_ne hk]

theorem applySector_aside {t : Tile} {log : List LogEntry} {sec : Nat} (h : s.applySector t log sec = .ok u) : Aside s u := by
  unfold State.applySector at h
  extract_lets at h
  split at h
  · cases h
  · cases h
    exact (poke_aside _ _ _).trans (countStats_aside _ _ _)

theorem applySectors_aside (s : State) (t : Tile) (log : List LogEntry) (l : List Nat) : Aside s (s.applySectors t log l).1 := by
  induction l generalizing s with
  | nil => exact Aside.refl s
  | cons sec l ih =>
    unfold State.applySectors
    split
    · exact Aside.refl s
    · next e => exact (applySector_aside e).trans (ih _)

theorem logFault_aside (s : State) (op : Option Nat) (b : Ev) (tile : Nat) (a : Word) : Aside s (s.logFault op b tile a) := by
  unfold State.logFault
  split
  · exact Aside.refl s
  · exact emit_aside _ _

theorem applyHome_aside (s : State) (op : Option Nat) (t : Tile) (b : Ev) : Aside s (s.applyHome op t b).1 := by
  unfold State.applyHome
  extract_lets s0 good
  have h1 : Aside s (s0.applySectors t good (t.dirtySectors good)).1 := (dropMalformed_aside s t b).trans (applySectors_aside _ _ _ _)
  split
  · next e => exact (fst_aside e h1).trans (setTile_aside _ _ _ _ _)
  · next e => exact ((fst_aside e h1).trans (writeLog_aside _ _ _)).trans (logFault_aside _ _ _ _ _)

theorem parkLog_aside (s : State) (t : Tile) (b : Ev) (act : BitVec 2) (e : XFail) (a : Word) : Aside s (s.parkLog t b act e a) := by
  unfold State.parkLog
  dsimp only [State.newId]
  refine Aside.trans ?_ (hostFault_aside (id := s.work.nextId) rfl)
  exact aside_of_eq rfl rfl rfl rfl rfl

theorem pushEntry_aside (s : State) (t : Tile) (b : Ev) (y : LogEntry) : Aside s (s.pushEntry t b y) := by
  have h1 : Aside s ((s.pokeNat (t.logLoc t.logcnt) 16 y.bits).setTile t 0x34 2 (t.logcnt + 1)) :=
    (poke_aside _ _ _).trans (setTile_aside _ _ _ _ _)
  unfold State.pushEntry
  extract_lets
  split
  · exact h1.trans (compactLog_aside _ _ _)
  · exact h1

theorem append_aside {t : Tile} {b : Ev} {y : LogEntry} (h : s.append t b y = .ok u) : Aside s u := by
  unfold State.append at h
  extract_lets queue at h
  have hqueue (v : State) : Aside v (queue v) := aside_of_eq rfl rfl rfl rfl rfl
  split at h
  · cases h
    exact hqueue s
  split at h
  · cases h
  next t' _ =>
  split at h
  · cases h
    exact pushEntry_aside _ _ _ _
  have h1 := compactLog_aside s t' b
  split at h
  next e1 =>
  have h1 := fst_aside e1 h1
  split at h
  · cases h
    exact h1.trans (pushEntry_aside _ _ _ _)
  split at h
  · cases h
  split at h
  · next e2 =>
    cases h
    exact ((h1.trans (fst_aside e2 (applyHome_aside _ _ _ _))).trans (emit_aside _ _)).trans (pushEntry_aside _ _ _ _)
  · next e2 =>
    cases h
    exact ((h1.trans (fst_aside e2 (applyHome_aside _ _ _ _))).trans (parkLog_aside _ _ _ _ _ _)).trans (hqueue _)

theorem appendAll_aside {t : Tile} {b : Ev} {l : List LogEntry} (h : s.appendAll t b l = .ok u) : Aside s u := by
  induction l generalizing s with
  | nil =>
    cases h
    exact Aside.refl _
  | cons y l ih =>
    unfold State.appendAll at h
    split at h
    · cases h
    · next e => exact (append_aside e).trans (ih h)

theorem logBytes_aside {launch tile : Nat} {b : Ev} {l : List (Nat × Byte)} (h : s.logBytes launch tile b l = .ok u) : Aside s u := by
  unfold State.logBytes at h
  split at h
  · cases h
  split at h
  · cases h
  · next e => exact (admitTile_aside e).trans (appendAll_aside h)

theorem routeWrite_aside {b : Ev} {bs : List Byte} {r : Route} (h : s.routeWrite b bs r = .ok u) : Aside s u := by
  cases r with
  | plain l n =>
    cases h
    exact poke_aside _ _ _
  | split ds =>
    refine List.foldlRecOn (motive := OkAside s) _ _ (ok_aside (foldl_aside (fun t x => ?_))) (fun r hr x _ => ?_) u h
    · dsimp only
      split
      · exact poke_aside _ _ _
      · exact Aside.refl t
    · dsimp only
      split
      · exact error_aside
      · exact fun v hv => (hr _ rfl).trans (logBytes_aside hv)

/-! ## Spills (R151, R153) -/

variable {I : Iss} {lane : Nat}

theorem spill_aside {off v : Nat} (h : s.spill I lane off v = .ok u) : Aside s u := by
  unfold State.spill at h
  split at h
  · cases h
  split at h
  · cases h
  · next e =>
    cases h
    exact routeWrite_aside e

theorem spillAll_aside (s : State) (I : Iss) (lane : Nat) (l : List (Nat × Nat)) : Aside s (s.spillAll I lane l).1 := by
  induction l generalizing s with
  | nil => exact Aside.refl s
  | cons p l ih =>
    unfold State.spillAll
    split
    · exact Aside.refl s
    · next e => exact (spill_aside e).trans (ih _)

theorem windowEv_aside (s : State) (I : Iss) (lane type payload : Nat) : Aside s (s.windowEv I lane type payload) := emit_aside _ _

theorem spillSeq_aside (s : State) (I : Iss) (lane type payload : Nat) (l : List (Nat × Nat)) :
    Aside s (s.spillSeq I lane type payload l).1 := by
  have h := spillAll_aside s I lane l
  unfold State.spillSeq
  split
  · next e => exact fst_aside e h
  next e =>
  dsimp only
  split
  · exact fst_aside e h
  · exact (fst_aside e h).trans (windowEv_aside _ _ _ _ _)

theorem callStrand_aside (s : State) (I : Iss) (f : Brn) (depthMax lane : Nat) : Aside s (s.callStrand I f depthMax lane).1 := by
  unfold State.callStrand
  extract_lets
  split
  next q _ _ _ _ =>
  split
  · next e1 => exact fst_aside e1 (spillSeq_aside _ _ _ _ _ _)
  next e1 =>
  have h1 := fst_aside e1 (spillSeq_aside _ _ _ _ _ _)
  split
  · next e2 => exact h1.trans (fst_aside e2 (spillSeq_aside _ _ _ _ _ _))
  · next e2 => exact h1.trans (fst_aside e2 (spillSeq_aside _ _ _ _ _ _))

end
end Sys2Proof.Laws
end

section
/-! Jump tables, calls and returns as instructions (R150, R162, R164, R165): their strands' own results, put together. -/
namespace Sys2Proof.Laws
open Sys2Proof.Machine Sys2Proof.Safety

/-! ## What a check of a target and of a landing leaves -/

section
variable {s t : State} {core : Nat} {w : Who}

theorem checkTarget_work (s : State) (core : Nat) (w : Who) (tgt : Bool) (pc : Word) : (s.checkTarget core w tgt pc).1.work = s.work := by
  rcases checkTarget_spec s core w tgt pc with h | ⟨x, h⟩ <;> rw [h]
  rfl

theorem checkTarget_aside (s : State) (core : Nat) (w : Who) (tgt : Bool) (pc : Word) : Aside s (s.checkTarget core w tgt pc).1 :=
  aside_of_eq (checkTarget_courses ..) (checkTarget_panels ..) (by rw [checkTarget_work]) (by rw [checkTarget_work]) (by rw [checkTarget_async])

theorem obtain_aside (s : State) (core : Nat) (w : Who) (line : Word) : Aside s (s.obtain core w line).1 := by
  unfold State.obtain
  split
  · exact aside_of_eq rfl rfl rfl rfl rfl
  split
  · exact Aside.refl s
  · exact aside_of_eq rfl rfl rfl rfl rfl

theorem checkLanding_aside (s : State) (core : Nat) (w : Who) (label : Half) (pc : Word) : Aside s (s.checkLanding core w label pc).1 := by
  unfold State.checkLanding
  split
  · exact Aside.refl s
  split
  · next e => exact fst_aside e (checkTarget_aside _ _ _ _ _)
  next e1 =>
  have h1 := fst_aside e1 (checkTarget_aside _ _ _ _ _)
  split
  · next e2 => exact h1.trans (fst_aside e2 (obtain_aside _ _ _ _))
  next e2 =>
  have h2 := h1.trans (fst_aside e2 (obtain_aside _ _ _ _))
  split <;> exact h2

theorem jumpTable_aside (s : State) (I : Iss) (f : Jmp) (lane : Nat) : Aside s (s.jumpTable I f lane).1 := by
  unfold State.jumpTable
  extract_lets
  split
  · exact Aside.refl s
  split
  · exact Aside.refl s
  split
  · exact Aside.refl s
  extract_lets
  split
  · next e => exact fst_aside e (checkLanding_aside _ _ _ _ _)
  · next e => exact fst_aside e (checkLanding_aside _ _ _ _ _)

theorem retStrand_aside (s : State) (I : Iss) (lane : Nat) : Aside s (s.retStrand I lane).1 := by
  unfold State.retStrand
  extract_lets
  split
  · exact Aside.refl s
  split
  · exact Aside.refl s
  next filled _ =>
  extract_lets s1
  have h1 : Aside s s1 := by
    unfold s1
    split
    · exact windowEv_aside _ _ _ _ _
    · exact Aside.refl s
  split
  · exact h1
  split
  · next e => exact h1.trans (fst_aside e (checkTarget_aside _ _ _ _ _))
  next u e =>
  have h2 := h1.trans (fst_aside e (checkTarget_aside _ _ _ _ _))
  extract_lets
  split
  · exact h2
  next u' _ _ _ =>
  change Aside s u'
  refine h2.trans ?_
  unfold u'
  split
  · exact windowEv_aside _ _ _ _ _
  · exact Aside.refl _
end

/-! ## Strands one by one -/

theorem combineStops_none {l : List (Nat × Stop)} (h : combineStops l = none) : l = [] := by
  unfold combineStops at h
  dsimp only at h
  split at h
  · nomatch h
  split at h
  · nomatch h
  · rfl

section
variable {α : Type} {f : State → Nat → State × Except Stop α}

/-- One strand after another, each on the state its predecessors left. -/
def inTurn (f : State → Nat → State × Except Stop α) (acc : State × List (Nat × Except Stop α)) (i : Nat) :
    State × List (Nat × Except Stop α) := ((f acc.1 i).1, acc.2 ++ [(i, (f acc.1 i).2)])

/-- What the strands' answers come to: the failure that counts, or every answer. -/
def together (p : State × List (Nat × Except Stop α)) : State × Except (Stop × BitVec 16) (List (Nat × α)) :=
  match combineStops (p.2.filterMap (fun (i, r) => match r with | .error e => some (i, e) | .ok _ => none)) with
  | some e => (p.1, .error e)
  | none => (p.1, .ok (p.2.filterMap (fun (i, r) => match r with | .ok a => some (i, a) | .error _ => none)))

theorem eachState_eq (lanes : List Nat) (s : State) : Iss.eachState lanes s f = together (lanes.foldl (inTurn f) (s, [])) := rfl

theorem inTurn_lanes (lanes : List Nat) (acc : State × List (Nat × Except Stop α)) :
    (lanes.foldl (inTurn f) acc).2.map Prod.fst = acc.2.map Prod.fst ++ lanes := by
  induction lanes generalizing acc with
  | nil => simp
  | cons i l ih => simp [ih, inTurn]

theorem inTurn_aside (hf : ∀ t i, Aside t (f t i).1) (lanes : List Nat) (acc : State × List (Nat × Except Stop α)) :
    Aside acc.1 (lanes.foldl (inTurn f) acc).1 :=
  List.foldlRecOn (motive := fun x : State × List (Nat × Except Stop α) => Aside acc.1 x.1) lanes _ (Aside.refl _)
    (fun x hx i _ => hx.trans (hf x.1 i))

theorem answers_lanes {l : List (Nat × Except Stop α)}
    (h : l.filterMap (fun (i, r) => match r with | .error e => some (i, e) | .ok _ => none) = []) :
    (l.filterMap (fun (i, r) => match r with | .ok a => some (i, a) | .error _ => none)).map Prod.fst = l.map Prod.fst := by
  induction l with
  | nil => rfl
  | cons x l ih =>
    obtain ⟨i, r⟩ := x
    cases r with
    | error e => simp at h
    | ok a => simpa using ih (by simpa using h)

/-- When no strand fails, each strand has its answer. -/
theorem eachState_ok {lanes : List Nat} {s s1 : State} {rs : List (Nat × α)} (hf : ∀ t i, Aside t (f t i).1)
    (h : Iss.eachState lanes s f = (s1, .ok rs)) : Aside s s1 ∧ rs.map Prod.fst = lanes := by
  rw [eachState_eq, together] at h
  split at h
  · cases h
  next hstops =>
  cases h
  refine ⟨inTurn_aside hf lanes (s, []), ?_⟩
  exact (answers_lanes (combineStops_none hstops)).trans (by simp [inTurn_lanes])

/-- Strands one by one may be given what depends on the state only as long as no strand changes it. -/
theorem eachState_congr {g : State → Nat → State × Except Stop α} {s : State} (hf : ∀ t i, Aside t (f t i).1)
    (h : ∀ t, Aside s t → ∀ i, f t i = g t i) (lanes : List Nat) : Iss.eachState lanes s f = Iss.eachState lanes s g := by
  have hgo (l : List Nat) (acc : State × List (Nat × Except Stop α)) (ha : Aside s acc.1) : l.foldl (inTurn f) acc = l.foldl (inTurn g) acc := by
    induction l generalizing acc with
    | nil => rfl
    | cons i l ih =>
      have hi : inTurn f acc i = inTurn g acc i := by simp only [inTurn, h acc.1 ha i]
      rw [List.foldl_cons, List.foldl_cons, ih _ (ha.trans (hf acc.1 i)), hi]
  rw [eachState_eq, eachState_eq, hgo lanes (s, []) (Aside.refl s)]

theorem eachState_answered {lanes : List Nat} {rs : List (Nat × α)} (h : rs.map Prod.fst = lanes) {i : Nat} (hi : i ∈ lanes) :
    ∃ a, (i, a) ∈ rs := by
  rw [← h] at hi
  obtain ⟨⟨j, a⟩, ha, rfl⟩ := List.mem_map.1 hi
  exact ⟨a, ha⟩
end

/-! ## Where strands go, and watchpoints -/

theorem goesTo_other {E : Entry} {jumps : List (Nat × Word × Half)} {i : Nat} (h : i ∉ jumps.map Prod.fst) : goesTo E jumps i = pcNext E.pc := by
  have hnone : jumps.find? (fun x => x.1 == i) = none :=
    List.find?_eq_none.2 (fun x hx hxi => h (eq_of_beq hxi ▸ List.mem_map_of_mem hx))
  simp [goesTo, hnone]

theorem goesTo_mem {E : Entry} {jumps : List (Nat × Word × Half)} {i : Nat} (h : i ∈ jumps.map Prod.fst) :
    ∃ prio, (i, goesTo E jumps i, prio) ∈ jumps := by
  obtain ⟨x, hx, hxi⟩ := List.mem_map.1 h
  obtain ⟨y, hy⟩ := Option.isSome_iff_exists.1 (List.find?_isSome (p := fun x : Nat × Word × Half => x.1 == i).2 ⟨x, hx, beq_iff_eq.2 hxi⟩)
  obtain rfl : y.1 = i := eq_of_beq (List.find?_some (p := fun x : Nat × Word × Half => x.1 == i) hy)
  refine ⟨y.2.2, ?_⟩
  simp only [goesTo, hy]
  exact List.mem_of_find?_eq_some hy

theorem unwatched_of {s t : State} (h : Unwatched s) (hp : t.panels = s.panels) : t.unwatched = true := by
  unfold State.unwatched
  rw [hp, List.all_eq_true]
  intro x hx
  rw [List.all_eq_true]
  intro y hy
  obtain ⟨n, hn, rfl⟩ := List.mem_iff_getElem.1 hy
  have := h x hx ⟨n, by simpa using hn⟩
  simpa using this

theorem passed_panels (s : State) (I : Iss) : (passed s I).panels = s.panels := (congrArg State.panels (passed_quiet s I) :)

/-! ## JTB (R162) -/

section
variable {s s1 : State} {I : Iss}

/-- The transfers of a jump table's strands: under uniform issue they all go as the leader does (R140). -/
def tableJumps (I : Iss) (rs : List (Nat × Opnd × Word × Half)) : List (Nat × Word × Half) :=
  (if I.uni then match rs with | (_, x) :: _ => I.lanes.map (fun i => (i, x)) | [] => [] else rs).map (fun (i, _, pc, prio) => (i, pc, prio))

theorem tableJumps_lanes {rs : List (Nat × Opnd × Word × Half)} (h : rs.map Prod.fst = I.runs) :
    (tableJumps I rs).map Prod.fst = I.lanes := by
  unfold tableJumps
  unfold Iss.runs at h
  split at h
  · next hu =>
    rw [if_pos hu]
    match rs, h with
    | x :: _, _ => simp [Function.comp_def]
  · next hu =>
    rw [if_neg hu, ← h, List.map_map]
    rfl

theorem tableJumps_source {rs : List (Nat × Opnd × Word × Half)} (h : rs.map Prod.fst = I.runs) {i : Nat} {pc : Word} {prio : Half}
    (hi : (i, pc, prio) ∈ tableJumps I rs) : ∃ x ∈ rs, x.1 = sourceOf I i ∧ x.2.2.1 = pc := by
  unfold tableJumps at hi
  unfold Iss.runs at h
  unfold sourceOf
  split at h
  · next hu =>
    rw [if_pos hu] at hi ⊢
    match rs, h, hi with
    | x :: l, h, hi =>
      obtain ⟨y, hy, hyi⟩ := List.mem_map.1 hi
      obtain ⟨j, -, rfl⟩ := List.mem_map.1 hy
      cases hyi
      exact ⟨x, List.mem_cons_self, (List.cons.inj h).1, rfl⟩
  · next hu =>
    rw [if_neg hu] at hi ⊢
    obtain ⟨y, hy, hyi⟩ := List.mem_map.1 hi
    cases hyi
    exact ⟨y, hy, rfl, rfl⟩

theorem jtb_passes {f : Jmp} {rs : List (Nat × Opnd × Word × Half)} (h : Issues s (.jtb f) false [] I) (hw : Unwatched s)
    (hrs : Iss.eachState I.runs (passed s I) (fun s i => s.jumpTable I f i) = (s1, .ok rs)) :
    ∃ to_ : Nat → Word, Passes s (.jtb f) I I.c to_ s1 ∧ (∀ i, i ∉ I.lanes → to_ i = pcNext I.E.pc) ∧
      ∀ i ∈ I.lanes, ∃ x ∈ rs, x.1 = sourceOf I i ∧ x.2.2.1 = to_ i := by
  obtain ⟨haside, hlanes⟩ := eachState_ok (fun t i => jumpTable_aside t I f i) hrs
  have hhits (l : List (Nat × Opnd)) : s1.opndHits 33 l = [] := by
    simp [State.opndHits, unwatched_of hw (haside.panels.trans (passed_panels s I))]
  have hx : exec (.jtb f) s = .next (State.complete I
      { s := s1, jumps := tableJumps I rs, hits := s1.opndHits 33 (rs.map (fun (i, o, _, _) => (i, o))) }) := by
    change execJtb f s = _
    unfold execJtb
    refine runCourse_ok h (s2 := s1) ?_
    simp only [hrs]
    rfl
  refine ⟨goesTo I.E (tableJumps I rs), complete_transfers h hx haside.courses (haside.unparked (passed_faults h)) rfl rfl rfl (hhits _) rfl,
    fun i hi => goesTo_other (by rwa [tableJumps_lanes hlanes]), fun i hi => ?_⟩
  obtain ⟨prio, hgoes⟩ := goesTo_mem (E := I.E) (by rwa [tableJumps_lanes hlanes] : i ∈ (tableJumps I rs).map Prod.fst)
  exact tableJumps_source hlanes hgoes

/-! ## CALL and RET (R164, R165) -/

/-- The course whose strands a CALL or a RET has moved. -/
def putIn (c : Course) (l : List (Nat × Strand)) : Course := { l.foldl (fun c (i, x) => c.setSt i x) c with staged := 0 }

theorem putIn_rest (c : Course) (l : List (Nat × Strand)) :
    ({ putIn c l with kreg := c.kreg, strands := c.strands } : Course) = { c with staged := 0 } ∧ (putIn c l).kreg = c.kreg := by
  unfold putIn
  exact List.foldlRecOn (motive := fun d : Course =>
    ({ d with staged := 0, kreg := c.kreg, strands := c.strands } : Course) = { c with staged := 0 } ∧ d.kreg = c.kreg) l _ ⟨rfl, rfl⟩
    (fun d hd x _ => hd)

theorem putIn_st {l : List (Nat × Strand)} (hl : (l.map Prod.fst).Nodup) (hlt : ∀ i ∈ l.map Prod.fst, i < 16) (c : Course) :
    (∀ i, i ∉ l.map Prod.fst → (putIn c l).st i = c.st i) ∧ ∀ x ∈ l, (putIn c l).st x.1 = x.2 := by
  change (∀ i, i ∉ l.map Prod.fst → (l.foldl (fun c (x : Nat × Strand) => c.setSt x.1 x.2) c).st i = c.st i) ∧
    ∀ x ∈ l, (l.foldl (fun c (x : Nat × Strand) => c.setSt x.1 x.2) c).st x.1 = x.2
  induction l generalizing c with
  | nil => exact ⟨fun _ _ => rfl, nofun⟩
  | cons y l ih =>
    rw [List.map_cons, List.nodup_cons] at hl
    obtain ⟨hy, hl⟩ := hl
    have hylt : y.1 < 16 := hlt y.1 (by simp)
    obtain ⟨hother, hown⟩ := ih hl (fun i hi => hlt i (by simp [hi])) (c.setSt y.1 y.2)
    refine ⟨fun i hi => ?_, fun x hx => ?_⟩
    · rw [List.map_cons, List.mem_cons, not_or] at hi
      rw [List.foldl_cons, hother i hi.2, st_setSt _ _ _ _ hylt, if_neg hi.1]
    · rw [List.foldl_cons]
      rcases List.mem_cons.1 hx with rfl | hx
      · rw [hother _ hy, st_setSt _ _ _ _ hylt, if_pos rfl]
      · exact hown x hx

/-- The course an issuing instruction leaves, but for its frontier, with the staged registers that CALL and RET clear (R168). -/
def unstaged (I : Iss) : Iss := { I with c := { I.c with staged := 0 } }

/-- An effect that gives strands their new windows completes with them. -/
theorem complete_windows {i : Instr} {req : List Reg} {rmw : Bool} {e : Eff} {l : List (Nat × Strand)} (h : Issues s i rmw req I)
    (haside : Aside (passed s I) s1) (hs : e.s = s1.putStrands I l) (hnodup : (l.map Prod.fst).Nodup) (hlt : ∀ i ∈ l.map Prod.fst, i < 16)
    (hpopped : e.popped = false) (hleave : e.leave = []) (harrive : e.arrive = none) (hhits : e.hits = []) (hwait : e.wait = none) :
    ∃ c, c.kreg = I.c.kreg ∧ Moves s (State.complete I e) (unstaged I) c (goesTo I.E e.jumps) ∧
      (∀ i, i ∉ l.map Prod.fst → c.st i = I.c.st i) ∧ (∀ x ∈ l, c.st x.1 = x.2) ∧
      ({ State.complete I e with courses := s.courses } : State) = { s1 with courses := s.courses } := by
  have hcourse : kget s1.courses (courseKey I.core I.slot) = some (passedCourse I.c) :=
    (congrArg (kget · _) haside.courses).trans (passed_course h.course)
  have hown : e.s.course? I.core I.slot = some (putIn (passedCourse I.c) l) := by
    rw [hs]
    exact kget_kmod_self hcourse _
  have hfaults : ∀ p ∈ e.s.async.faults, p.2.who ≠ .course I.core I.slot I.E.pc := by
    rw [hs]
    exact haside.unparked (passed_faults h)
  have hothers (k : Nat) (hk : k ≠ courseKey I.core I.slot) :
      kget e.s.courses k = kget (s.setCourse I.core I.slot (unstaged I).c).courses k := by
    rw [hs]
    calc kget (kmod s1.courses (courseKey I.core I.slot) _) k = kget s1.courses k := kget_kmod_ne hk _
      _ = kget (passed s I).courses k := by rw [haside.courses]
      _ = kget s.courses k := passed_others s I hk
      _ = _ := (kget_kset_ne hk _).symm
  obtain ⟨hrest, hkreg⟩ := putIn_rest (passedCourse I.c) l
  have horphan : (putIn (passedCourse I.c) l).orphan = none := (congrArg Course.orphan hrest :).trans h.live
  obtain ⟨hother, hmoved⟩ := putIn_st hnodup hlt (passedCourse I.c)
  obtain ⟨c, hmoves, hkept, hstrands, hcomplete⟩ := complete_moves (I := unstaged I) hothers hown (course?_setCourse ..) h.live
    hrest hfaults hpopped hleave harrive hhits hwait
  have hst (i : Nat) : c.st i = (putIn (passedCourse I.c) l).st i := by unfold Course.st; rw [hstrands]
  have hsame : State.complete I e = State.complete (unstaged I) e :=
    (complete_plain hown horphan hfaults hpopped hleave harrive hhits).trans
      (complete_plain (I := unstaged I) hown horphan hfaults hpopped hleave harrive hhits).symm
  rw [hsame]
  refine ⟨c, hkept.trans hkreg, ⟨hmoves.course, fun k hk => ?_, hmoves.next, hmoves.stay, hmoves.levels, hmoves.passes, hmoves.rest⟩,
    fun i hi => (hst i).trans (hother i hi), fun x hx => (hst x.1).trans (hmoved x hx), ?_⟩
  · exact (hmoves.others k hk).trans (kget_kset_ne hk _)
  · rw [hcomplete, hs]
    rfl

theorem call_moves {f : Brn} {rs : List (Nat × Strand × Bool)} (h : Issues s (.call f) false [] I) (hw : Unwatched s)
    (ht : (target s I (brnTarget I.E.pc f)).2 = none)
    (hrs : Iss.eachState I.lanes (target s I (brnTarget I.E.pc f)).1
      (fun s i => s.callStrand I f ((s.launchOf I.c).elim 64 (·.hdr.depth)) i) = (s1, .ok rs)) :
    ∃ t c, exec (.call f) s = .next t ∧ c.kreg = I.c.kreg ∧
      Moves s t (unstaged I) c (fun i => if i ∈ I.lanes then brnTarget I.E.pc f else pcNext I.E.pc) ∧
      (∀ i < 16, (i ∉ I.lanes → c.st i = I.c.st i) ∧ (i ∈ I.lanes → ∃ x ∈ rs, x.1 = i ∧ c.st i = x.2.1)) ∧
      ({ t with courses := s.courses } : State) = { s1 with courses := s.courses } := by
  have haside0 : Aside (passed s I) (target s I (brnTarget I.E.pc f)).1 := checkTarget_aside ..
  generalize hg : target s I (brnTarget I.E.pc f) = g at ht hrs haside0
  obtain ⟨u, o⟩ := g
  subst ht
  obtain ⟨haside1, hlanes⟩ := eachState_ok (fun t i => callStrand_aside t I f _ i) hrs
  have haside := haside0.trans haside1
  obtain ⟨hlt, hnodup, -⟩ := lanes_lt h
  let l := rs.map (fun x => (x.1, x.2.1))
  have hl : l.map Prod.fst = I.lanes := by rw [← hlanes, List.map_map]; rfl
  have hhits (kind lane : Nat) (offs : List Nat) : (s1.putStrands I l).windowHits I kind lane offs = [] := by
    have hpanels : (s1.putStrands I l).panels = s.panels := haside.panels.trans (passed_panels s I)
    rw [State.windowHits, if_pos (unwatched_of hw hpanels)]
  let e : Eff := { s := s1.putStrands I l, jumps := I.lanes.map (fun i => (i, brnTarget I.E.pc f, f.prio)), visible := rs.any (fun (_, _, b) => b) }
  have hx : exec (.call f) s = .next (State.complete I e) := by
    change execCall f s = _
    unfold execCall
    refine runCourse_ok h (s2 := s1.putStrands I l) ?_
    unfold target at hg
    have hfixed := eachState_congr (fun t i => callStrand_aside t I f ((t.launchOf I.c).elim 64 (·.hdr.depth)) i)
      (g := fun t i => t.callStrand I f ((u.launchOf I.c).elim 64 (·.hdr.depth)) i) (s := u) (fun t ht i => by rw [ht.depth I.c]) I.lanes
    rw [hfixed] at hrs
    simp only [hg, hrs]
    exact congrArg (fun hits => (_, Except.ok { e with hits })) (List.flatMap_eq_nil_iff.2 (fun _ _ => hhits ..))
  obtain ⟨c, hkreg, hmoves, hother, hmoved, hrest⟩ :=
    complete_windows h haside (e := e) (l := l) rfl (hl ▸ hnodup) (hl ▸ hlt) rfl rfl rfl rfl rfl
  rw [goesTo_one] at hmoves
  refine ⟨_, c, hx, hkreg, hmoves, fun i _ => ⟨fun hi => hother i (hl ▸ hi), fun hi => ?_⟩, hrest⟩
  obtain ⟨x, hxi⟩ := eachState_answered hlanes hi
  exact ⟨(i, x), hxi, rfl, hmoved (i, x.1) (List.mem_map_of_mem hxi)⟩

/-- A strand that RET sends on: its number, its state, where it goes and the priority it has there. -/
abbrev Back := Nat × Strand × Word × Half

/-- Answers of which each sends its strand on. -/
theorem all_go {rs : List (Nat × RetEff)} (h : ∀ x ∈ rs, ∃ y pc prio, x.2 = .go y pc prio) :
    ∃ back : List Back, rs = back.map (fun x => (x.1, .go x.2.1 x.2.2.1 x.2.2.2)) := by
  induction rs with
  | nil => exact ⟨[], rfl⟩
  | cons x rs ih =>
    obtain ⟨back, rfl⟩ := ih (fun y hy => h y (List.mem_cons_of_mem _ hy))
    obtain ⟨i, r⟩ := x
    obtain ⟨y, pc, prio, rfl⟩ := h _ List.mem_cons_self
    exact ⟨(i, y, pc, prio) :: back, rfl⟩

theorem ret_moves {f : Gen} {rs : List (Nat × RetEff)} (h : Issues s (.ret f) false [] I) (hw : Unwatched s)
    (hrs : Iss.eachState I.lanes (passed s I) (fun s i => s.retStrand I i) = (s1, .ok rs))
    (hgo : ∀ x ∈ rs, ∃ y pc prio, x.2 = .go y pc prio) :
    ∃ t c, ∃ to_ : Nat → Word, exec (.ret f) s = .next t ∧ c.kreg = I.c.kreg ∧ Moves s t (unstaged I) c to_ ∧
      (∀ i, (i ∉ I.lanes → to_ i = pcNext I.E.pc ∧ (i < 16 → c.st i = I.c.st i)) ∧
        (i ∈ I.lanes → ∃ prio, (i, RetEff.go (c.st i) (to_ i) prio) ∈ rs)) ∧
      ({ t with courses := s.courses } : State) = { s1 with courses := s.courses } := by
  obtain ⟨haside, hlanes⟩ := eachState_ok (fun t i => retStrand_aside t I i) hrs
  obtain ⟨back, rfl⟩ := all_go hgo
  obtain ⟨hlt, hnodup, -⟩ := lanes_lt h
  have hback : back.map Prod.fst = I.lanes := by rw [← hlanes, List.map_map]; rfl
  let l := back.map (fun x => (x.1, x.2.1))
  let jumps := back.map (fun x => (x.1, x.2.2.1, x.2.2.2))
  have hl : l.map Prod.fst = I.lanes := by rw [← hback, List.map_map]; rfl
  have hjumps : jumps.map Prod.fst = I.lanes := by rw [← hback, List.map_map]; rfl
  have hhits (kind lane : Nat) (offs : List Nat) : (s1.putStrands I l).windowHits I kind lane offs = [] := by
    have hpanels : (s1.putStrands I l).panels = s.panels := haside.panels.trans (passed_panels s I)
    rw [State.windowHits, if_pos (unwatched_of hw hpanels)]
  let e : Eff := { s := s1.putStrands I l, jumps }
  have hx : exec (.ret f) s = .next (State.complete I e) := by
    change execRet f s = _
    unfold execRet
    refine runCourse_ok h (s2 := s1.putStrands I l) ?_
    have hsame : back.filterMap (fun x => some (x.1, x.2.1, x.2.2.1, x.2.2.2)) = back := List.filterMap_some
    simp only [hrs, List.filterMap_map, Function.comp_def, List.filterMap_none, hsame]
    exact congrArg (fun hits => (_, Except.ok { e with hits })) (List.flatMap_eq_nil_iff.2 (fun _ _ => hhits ..))
  obtain ⟨c, hkreg, hmoves, hother, hmoved, hrest⟩ :=
    complete_windows h haside (e := e) (l := l) rfl (hl ▸ hnodup) (hl ▸ hlt) rfl rfl rfl rfl rfl
  refine ⟨_, c, _, hx, hkreg, hmoves, fun i => ⟨fun hi => ⟨goesTo_other (hjumps ▸ hi), fun _ => hother i (hl ▸ hi)⟩, fun hi => ?_⟩, hrest⟩
  obtain ⟨prio, hgoes⟩ := goesTo_mem (E := I.E) (hjumps ▸ hi : i ∈ jumps.map Prod.fst)
  obtain ⟨⟨j, y, pc, prio'⟩, hy, hyi⟩ := List.mem_map.1 hgoes
  obtain ⟨rfl, hpc, rfl⟩ : j = i ∧ pc = goesTo I.E jumps i ∧ prio' = prio := by simpa using hyi
  refine ⟨prio', List.mem_map.2 ⟨(j, y, pc, prio'), hy, ?_⟩⟩
  rw [hmoved (j, y) (List.mem_map_of_mem hy), hpc]
end
end Sys2Proof.Laws
end

section
/-! What a jump table, a call and a return do for one strand (R121, R150 to R153, R162, R164, R165). -/
namespace Sys2Proof.Laws
open Sys2Proof.Machine Sys2Proof.Safety

variable {s : State} {I : Iss} {lane : Nat}

/-! ## Jump tables (R121, R162) -/

section
variable {f : Jmp}

theorem jumpTable_beyond (h : f.bound.toNat ≤ (I.c.read lane f.sb).toNat) :
    s.jumpTable I f lane = (s, .error (Trp.stop Cause.landing 0x01 (I.c.read lane f.sb))) := by
  simp [State.jumpTable, h]

theorem jumpTable_unaligned (h : (I.c.read lane f.sb).toNat < f.bound.toNat) (ha : (I.c.read lane f.sa).toNat % 8 ≠ 0) :
    s.jumpTable I f lane = (s, .error (Trp.stop Cause.align 0 (I.c.read lane f.sa))) := by
  simp [State.jumpTable, h, ha]

/-- An entry that is read is checked as a landing. -/
theorem jumpTable_read {o : Opnd} (h : (I.c.read lane f.sb).toNat < f.bound.toNat) (ha : (I.c.read lane f.sa).toNat % 8 = 0)
    (ho : s.reach (s.strandWho I.core I.c.pslot I.c lane) I.core false true (I.c.read lane f.sa + I.c.read lane f.sb * 8) 8 = .ok o) :
    let pc : Word := BitVec.ofNat 64 (leNat (s.routeRead o.route))
    s.jumpTable I f lane = ((s.checkLanding I.core I.w f.label pc).1, (s.checkLanding I.core I.w f.label pc).2.map (fun prio => (o, pc, prio))) := by
  simp only [State.jumpTable, Nat.not_le.2 h, ha, ho, bne_self_eq_false, Bool.false_eq_true, if_false]
  generalize s.checkLanding I.core I.w f.label _ = g
  obtain ⟨u, r⟩ := g
  cases r <;> rfl

theorem checkLanding_invalid {core : Nat} {w : Who} {label : Half} {pc : Word} (h : pcValid pc = false) :
    s.checkLanding core w label pc = (s, .error (Trp.stop Cause.landing 0x02 pc)) := by
  simp [State.checkLanding, h]

/-- A target that passes lands on the LPAD of its line, if it holds one with the label. -/
theorem checkLanding_target {core : Nat} {w : Who} {label : Half} {pc : Word} {x : IcLine} (hv : pcValid pc = true)
    (ht : (s.checkTarget core w true pc).2 = none) (hx : (s.checkTarget core w true pc).1.icFind core w.ctx (pcLine pc) = some x) :
    (s.checkLanding core w label pc).2 = match landingPad x pc with
      | none => .error (Trp.stop Cause.landing 0x03 pc)
      | some (lab, prio) => if lab == label then .ok prio else .error (Trp.stop Cause.landing 0x04 pc) := by
  unfold State.checkLanding
  generalize s.checkTarget core w true pc = g at ht hx ⊢
  obtain ⟨u, o⟩ := g
  subst ht
  simp only [hv, Bool.not_true, Bool.false_eq_true, if_false, obtain_obtains (.inl hx)]
  cases landingPad x pc <;> rfl
end

/-! ## The window (R149) -/

theorem kget_filter_keys {α : Type} {m : KMap α} {q : Nat → Bool} {k : Nat} (h : q k = true) : kget (m.filter (fun p => q p.1)) k = kget m k := by
  induction m with
  | nil => rfl
  | cons y m ih =>
    obtain ⟨j, a⟩ := y
    by_cases hq : q j = true
    · simp only [List.filter_cons, hq, if_true, kget, ih]
    · have hjk : j ≠ k := fun e => hq (e ▸ h)
      simp only [List.filter_cons, hq, Bool.false_eq_true, if_false, kget, if_neg hjk, ih]

theorem posGet_drop (x : Strand) {lo hi n : Nat} (h : n < lo ∨ hi ≤ n) : (x.drop lo hi).posGet n = x.posGet n := by
  have hkeep : (!(decide (lo ≤ n) && decide (n < hi))) = true := by
    simp only [Bool.not_eq_true', Bool.and_eq_false_iff, decide_eq_false_iff_not]
    omega
  unfold Strand.posGet Strand.drop
  exact congrArg (·.getD 0) (kget_filter_keys (m := x.stack) (q := fun n => !(decide (lo ≤ n) && decide (n < hi))) hkeep)

/-- Nothing lies between a position and itself. -/
theorem drop_nothing (x : Strand) (lo : Nat) : x.drop lo lo = x := by
  have hall : x.stack.filter (fun (n, _) => !(lo ≤ n && n < lo)) = x.stack := by
    rw [List.filter_eq_self]
    rintro ⟨n, v⟩ -
    simp only [Bool.not_eq_true', Bool.and_eq_false_iff, decide_eq_false_iff_not]
    omega
  unfold Strand.drop
  rw [hall]

theorem called_eq (n : Nat) (pc : Word) (prio : Half) (x : Strand) : called n pc prio x =
    { x.drop (x.wb + 24) (x.wb + n + 24) with wb := x.wb + n, depth := x.depth + 1, rstack := x.rstack ++ [{ pc, prio, n }] } := rfl

theorem returned_eq (r : RetEntry) (x : Strand) : returned r x =
    { x.drop (x.wb - r.n + 24) (x.wb + 24) with wb := x.wb - r.n, low := min x.low (x.wb - r.n), depth := x.depth - 1,
                                                rstack := x.rstack.dropLast } := rfl

/-- The callee's window is the caller's, n registers on (R150). -/
theorem called_w {n j : Nat} (pc : Word) (prio : Half) (x : Strand) (h : j + n < 24) : (called n pc prio x).w j = x.w (j + n) := by
  have hpos : x.wb + n + j = x.wb + (j + n) := by omega
  rw [called_eq]
  change (x.drop (x.wb + 24) (x.wb + n + 24)).posGet (x.wb + n + j) = x.posGet (x.wb + (j + n))
  rw [hpos]
  exact posGet_drop x (.inl (by omega))

/-- The caller's window again (R150). -/
theorem returned_w {r : RetEntry} {x : Strand} {j : Nat} (hn : r.n ≤ x.wb) (h : j + r.n < 24) : (returned r x).w (j + r.n) = x.w j := by
  have hpos : x.wb - r.n + (j + r.n) = x.wb + j := by omega
  rw [returned_eq]
  change (x.drop (x.wb - r.n + 24) (x.wb + 24)).posGet (x.wb - r.n + (j + r.n)) = x.posGet (x.wb + j)
  rw [hpos]
  exact posGet_drop x (by omega)

/-! ## CALL and RET (R150 to R153) -/

theorem spillSeq_nothing (s : State) (I : Iss) (lane type payload : Nat) : s.spillSeq I lane type payload [] = (s, none) := rfl

/-- A strand with room on chip spills nothing. -/
theorem spills_nothing {x : Strand} {n depthMax : Nat} (hr : x.rstack.length < 16) (hw : x.wb + n + 24 ≤ x.low + depthMax) :
    x.spills n depthMax = ([], [], x.low) := by
  have hlow : ¬ depthMax < x.wb + n + 24 - x.low := by omega
  have hnot : ¬ 16 ≤ x.rstack.length := by omega
  unfold Strand.spills
  simp only [hlow, if_false, Nat.sub_self, List.range_zero, List.map_nil, hnot]
  cases x.rstack <;> rfl

theorem callStrand_onChip {f : Brn} {depthMax : Nat} (hr : (I.c.st lane).rstack.length < 16)
    (hw : (I.c.st lane).wb + f.mod.toNat + 24 ≤ (I.c.st lane).low + depthMax) :
    s.callStrand I f depthMax lane = (s, .ok (called f.mod.toNat (pcNext I.E.pc) I.E.prio (I.c.st lane), false)) := by
  have hnot : ¬ 16 ≤ (I.c.st lane).rstack.length := by omega
  simp only [State.callStrand, spills_nothing hr hw, spillSeq_nothing, drop_nothing, hnot, if_false]
  rfl

theorem retStrand_bottom (h : (I.c.st lane).depth = 0) : s.retStrand I lane = (s, .ok .leave) := by
  simp [State.retStrand, h]

theorem onChip_base {x : Strand} {r : RetEntry} (h : onChip x r) : r.n ≤ x.wb := by
  obtain ⟨-, -, -, -, hwb, -⟩ := h
  exact hwb

theorem retStrand_onChip {r : RetEntry} (h : onChip (I.c.st lane) r) (ht : (s.checkTarget I.core I.w true r.pc).2 = none) :
    s.retStrand I lane = ((s.checkTarget I.core I.w true r.pc).1, .ok (.go (returned r (I.c.st lane)) r.pc r.prio)) := by
  obtain ⟨hdepth, hlast, hpos, hle, hwb, hlow⟩ := h
  have hpop : s.popEntry I lane = .ok (r, (I.c.st lane).rstack.dropLast, false) := by simp [State.popEntry, hlast]
  have hentry : (r.n == 0 || decide (23 < r.n) || decide ((I.c.st lane).wb < r.n)) = false := by
    simp only [Bool.or_eq_false_iff, beq_eq_false_iff_ne, decide_eq_false_iff_not]
    omega
  have hcount : (I.c.st lane).low - ((I.c.st lane).wb - r.n) = 0 := by omega
  unfold State.retStrand
  generalize hg : s.checkTarget I.core I.w true r.pc = g at ht ⊢
  obtain ⟨u, o⟩ := g
  subst ht
  simp only [beq_iff_eq, hdepth, if_false, hpop, Bool.false_eq_true, hentry, hg, hcount, List.range_zero, allOk, Nat.lt_irrefl,
    List.foldl_nil]
  rfl

/-- Settles O17: strand by strand, and one strand's own checks, window and return stack. -/
theorem calls : Obligations.Calls := by
  refine ⟨⟨fun f s I s1 rs h hw hrs => jtb_passes h hw hrs, fun f s I s1 rs h hw ht hrs => call_moves h hw ht hrs,
      fun f s I s1 rs h hw hrs hgo => ret_moves h hw hrs hgo⟩,
    fun s I f lane => ⟨jumpTable_beyond, jumpTable_unaligned, fun hix ha o ho => ⟨fun hv => ?_, fun hv ht x hx => ?_⟩⟩,
    fun s I f depthMax lane hr hw => ⟨callStrand_onChip hr hw, fun j hj => called_w _ _ _ hj⟩,
    fun s I lane r h ht => ⟨retStrand_onChip h ht, fun j hj => returned_w (onChip_base h) hj⟩, fun s I lane h => retStrand_bottom h⟩
  · rw [jumpTable_read hix ha ho, checkLanding_invalid hv]
    rfl
  · rw [jumpTable_read hix ha ho, checkLanding_target hv ht hx]
    cases landingPad x _ with
    | none => rfl
    | some y =>
      obtain ⟨label, prio⟩ := y
      by_cases hlabel : label = f.label <;> simp [hlabel, Except.map]

end Sys2Proof.Laws
end

section
/-! What happens around an issue: line fills, breakpoints, single steps, retries and PC samples (R102, R124, R125, R155, R167, R250, R252, R414,
R415, R419). -/
namespace Sys2Proof.Laws
open Sys2Proof.Machine Sys2Proof.Safety

variable {s t u : State} {core ctx slot : Nat}

/-! ## Line fills (R124, R125) -/

/-- A change of one core leaves the others and everything else. -/
theorem modCore_core (s : State) (core n : Nat) (f : Core → Core) : (s.modCore core f).core n = if n = core then f (s.core core) else s.core n := by
  unfold State.modCore
  split
  · next h => rw [h, core_setCore_self]; rfl
  · next h => rw [core_setCore_ne _ _ _ _ h]

theorem icInsert_ways (x : IcLine) (l : List IcLine) : ((icInsert x l).filter (fun y => icSet y.line == icSet x.line)).length ≤ 8 := by
  unfold icInsert
  extract_lets rest mine
  have hothers : (rest.filter (fun y => icSet y.line != icSet x.line)).filter (fun y => icSet y.line == icSet x.line) = [] := by
    rw [List.filter_filter, List.filter_eq_nil_iff]
    intro y _
    cases h : icSet y.line == icSet x.line <;> simp [bne, h]
  have hmine : (mine.filter (fun y => icSet y.line == icSet x.line)).length ≤ 7 :=
    (List.length_filter_le ..).trans (by simp only [mine, List.length_take]; omega)
  simp only [List.filter_cons, beq_self_eq_true, if_true, List.filter_append, hothers, List.append_nil, List.length_cons]
  omega

theorem otherFills_ne (k : Core) (ctx : Nat) (line : Word) : ∀ y ∈ k.otherFills ctx line, y.1 ≠ ctx ∨ y.2.1 ≠ line := by
  intro y hy
  have := (List.mem_filter.1 hy).2
  by_contra h
  push Not at h
  simp [h] at this

theorem icPut_ways (s : State) (core : Nat) (x : IcLine) :
    (((s.icPut core x).core core).icache.filter (fun y => icSet y.line == icSet x.line)).length ≤ 8 := by
  rw [icPut_core, if_pos rfl]
  exact icInsert_ways x _

theorem icPut_filling (s : State) (core : Nat) (x : IcLine) : ∀ y ∈ ((s.icPut core x).core core).filling, y.1 ≠ x.ctx ∨ y.2.1 ≠ x.line := by
  rw [icPut_core, if_pos rfl]
  exact otherFills_ne _ _ _

/-- The first sector of a line that is not cached is kept while the fill goes on. -/
theorem icacheFill_first {line : Word} {l : Loc} (hl : s.home { (s.whoOf ctx) with core } .exec (line / 64 * 64) = .ok l)
    (hfirst : line.getLsbD 5 = false) (hc : s.icFind core ctx (line / 64 * 64) = none) :
    exec (.icacheFill core ctx line false) s = .next (s.modCore core (fun k =>
      { k with filling := (ctx, line / 64 * 64, BitVec.ofNat 256 (s.peekNat l 32)) :: k.otherFills ctx (line / 64 * 64) })) := by
  change execIcacheFill core ctx line false s = _
  simp only [execIcacheFill, hl, hfirst, hc, Bool.false_eq_true, if_false, Bool.not_false, if_true, Option.isSome_none]

theorem icacheFill_second {line : Word} {l : Loc} {bits : LineBits} (hl : s.home { (s.whoOf ctx) with core } .exec (line / 64 * 64) = .ok l)
    (hsecond : line.getLsbD 5 = true) (hb : s.fillRead { (s.whoOf ctx) with core } (line / 64 * 64) = .ok bits) :
    exec (.icacheFill core ctx line false) s = .next (s.icPut core (icMark ctx (line / 64 * 64) bits)) := by
  change execIcacheFill core ctx line false s = _
  simp only [execIcacheFill, hl, hsecond, hb, Bool.false_eq_true, if_false, Bool.not_true]

theorem icacheFill_error {line : Word} {l : Loc} (hl : s.home { (s.whoOf ctx) with core } .exec (line / 64 * 64) = .ok l) :
    exec (.icacheFill core ctx line true) s = .next { s with mem := { s.mem with bad := l :: s.mem.bad.filter (· != l) } } := by
  change execIcacheFill core ctx line true s = _
  simp only [execIcacheFill, hl, if_true]

/-- A read of a line does not see the caches, nor the counters of the device's life. -/
theorem lineRead_congr (h : SameReads s t) (w : Who) (line : Word) : t.lineRead w line = s.lineRead w line := by
  have hhome : t.home w .exec line = s.home w .exec line := by rw [State.home, State.home, place_congr h]
  have hbad (l : Loc) : t.badIn l 64 = s.badIn l 64 := by rw [State.badIn, State.badIn, h.mem]
  have hpeek (l : Loc) : t.peekNat l 64 = s.peekNat l 64 := by rw [State.peekNat, State.peekNat, h.mem]
  unfold State.lineRead
  rw [hhome]
  simp only [hbad, hpeek]

/-- A fill reads a line as it is, unless a first sector is kept of it. -/
theorem fillRead_whole {w : Who} {line : Word} (h : ∀ y ∈ (s.core w.core).filling, ¬ (y.1 = w.ctx ∧ y.2.1 = line)) :
    s.fillRead w line = s.lineRead w line := by
  have hnone : (s.core w.core).filling.find? (fun (c, l, _) => c == w.ctx && l == line) = none := by
    rw [List.find?_eq_none]
    intro y hy
    simpa using h y hy
  unfold State.fillRead
  rw [hnone]
  cases s.lineRead w line <;> rfl

theorem icDrop_filling (s : State) (core ctx : Nat) (line : Word) :
    ∀ y ∈ ((s.icDrop core ctx line 64).core core).filling, ¬ (y.1 = ctx ∧ y.2.1 = line) := by
  rintro y hy ⟨h1, h2⟩
  unfold State.icDrop at hy
  rw [modCore_core, if_pos rfl] at hy
  have := (List.mem_filter.1 hy).2
  simp [h1, h2] at this

/-- A slot whose parity fails: its line is read again, and one corrected error is counted. -/
theorem icSoft_spec {line : Word} {y : IcLine} {bits : LineBits} (hy : s.icFind core ctx line = some y)
    (hb : s.lineRead { (s.whoOf ctx) with core } line = .ok bits) :
    s.icSoft core ctx line = ((s.icDrop core ctx line 64).life 1).icPut core (icMark ctx line bits) := by
  have hread : ((s.icDrop core ctx line 64).life 1).fillRead { (s.whoOf ctx) with core } line = .ok bits := by
    rw [fillRead_whole (icDrop_filling s core ctx line)]
    exact (lineRead_congr (s := s) ⟨rfl, rfl, rfl⟩ _ _).trans hb
  have hwho : ((s.icDrop core ctx line 64).life 1).whoOf ctx = s.whoOf ctx := rfl
  simp only [State.icSoft, hy, hwho, hread]

/-! ## Breakpoints and single steps (R414, R415, R419) -/

/-- An enabled breakpoint register stands at a PC. -/
def breaksAt (c : Course) (pc : Word) (i : Fin 4) : Prop :=
  c.bps[i].getLsbD 3 = true ∧ bitsOf c.bps[i].toNat 55 6 = bitsOf pc.toNat 55 6 ∧ bitsOf c.bps[i].toNat 2 0 = bitsOf pc.toNat 2 0

/-- What the model tests of the breakpoint register of a number. -/
def breaksNo (c : Course) (pc : Word) (i : Nat) : Bool :=
  let b := c.bps[i]?.getD 0
  b.getLsbD 3 && bitsOf b.toNat 55 6 == bitsOf pc.toNat 55 6 && bitsOf b.toNat 2 0 == bitsOf pc.toNat 2 0

theorem breaksNo_iff (c : Course) (pc : Word) (i : Fin 4) : breaksNo c pc i.val = true ↔ breaksAt c pc i := by
  have hb : c.bps[i.val]?.getD 0 = c.bps[i] := by simp
  simp only [breaksNo, breaksAt, hb, Bool.and_eq_true, beq_iff_eq, and_assoc]

theorem breakpoint_lowest {c : Course} {pc : Word} {i : Fin 4} (hpass : c.passAt ≠ some pc) (hi : breaksAt c pc i)
    (hlow : ∀ j < i, ¬ breaksAt c pc j) :
    c.breakpoint pc = some i.val := by
  change (if c.passAt == some pc then none else (List.range 4).find? (breaksNo c pc)) = _
  rw [if_neg (by simpa using hpass), List.find?_range_eq_some]
  refine ⟨(breaksNo_iff c pc i).2 hi, by simp [i.isLt], fun j hj => ?_⟩
  have hnot := (breaksNo_iff c pc ⟨j, hj.trans i.isLt⟩).not.2 (hlow _ hj)
  simpa using hnot

theorem aboutTo_ready {c : Course} {E : Entry} (h : headEntry c.front = some E) (hw : E.wait = .none) : c.aboutTo = some E := by
  simp [Course.aboutTo, h, hw]

/-! ## Work that is tried again (R250, R252) -/

theorem course?_modCourse {c : Course} (h : s.course? core slot = some c) (f : Course → Course) :
    (s.modCourse core slot f).course? core slot = some (f c) := kget_kmod_self h f

theorem fr_map (c : Course) (f : Entry → Entry) (l : Nat) :
    ({ c with fr0 := c.fr0.map f, fr1 := c.fr1.map f, fr2 := c.fr2.map f } : Course).fr l = (c.fr l).map f := by
  match l with
  | 0 => rfl
  | 1 => rfl
  | _ + 2 => rfl

/-- What an entry held for a line or a log becomes. -/
def rousedLine (e : Entry) : Entry := match e.wait with
  | .again h => if h == .absentLine || h == .tileLog then { e with wait := h.woken } else e
  | _ => e

theorem rousedLine_eq (e : Entry) :
    rousedLine e = if e.wait = .again .absentLine ∨ e.wait = .again .tileLog then { e with wait := .retry } else e := by
  unfold rousedLine
  split
  · next h hw =>
    rw [hw]
    by_cases hline : h = .absentLine
    · subst hline; rfl
    by_cases hlog : h = .tileLog
    · subst hlog; rfl
    · simp [hline, hlog]
  · next hw => rw [if_neg (by rintro (h | h) <;> exact hw _ h)]

theorem rouse_parked (c : Course) (l : Nat) : (c.rouse (fun h => h == .absentLine || h == .tileLog)).fr l =
    (c.fr l).map (fun e => if e.wait = .again .absentLine ∨ e.wait = .again .tileLog then { e with wait := .retry } else e) := by
  rw [← funext rousedLine_eq]
  exact fr_map c rousedLine l

/-- An entry of an instruction that met a fault issues again. -/
def freed (pc : Word) (e : Entry) : Entry := if e.wait == .again .fault && e.pc == pc then { e with wait := .retry } else e

/-- An operation that met a fault goes on. -/
def freeOp (u : State) (i : Nat) : State := (u.op? i).elim u (fun o => u.setOp i { o with fault := none })

theorem freeOp_rest (u : State) (i : Nat) : ({ freeOp u i with async := { (freeOp u i).async with ops := u.async.ops } } : State) = u := by
  unfold freeOp
  cases u.op? i <;> rfl

/-- Whoever met a fault goes on. -/
def freeFaulted (u : State) : FaultWho → State
  | .course core slot pc => u.modCourse core slot (fun c =>
      { c with fr0 := c.fr0.map (freed pc), fr1 := c.fr1.map (freed pc), fr2 := c.fr2.map (freed pc) })
  | .stream core pslot => u.modPanel core pslot (fun q => { q with run := if q.run == 2 then 0 else q.run, swait := .none })
  | .op i => freeOp u i
  | .engine _ => u

theorem freeFaulted_faults (u : State) (who : FaultWho) : (freeFaulted u who).async.faults = u.async.faults := by
  cases who with
  | op i => exact (congrArg (·.async.faults) (freeOp_rest u i) :)
  | _ => rfl

theorem freeFaulted_mem (u : State) (who : FaultWho) : (freeFaulted u who).mem = u.mem := by
  cases who with
  | op i => exact (congrArg State.mem (freeOp_rest u i) :)
  | _ => rfl

/-- Entries that issue again leave the registers. -/
theorem modCourse_registersKept {f : Course → Course} (hf : ∀ c, registers (f c) = registers c) : RegistersKept s (s.modCourse core slot f) := by
  intro k
  by_cases hk : k = courseKey core slot
  · subst hk
    cases hc : kget s.courses (courseKey core slot) with
    | none => rw [State.modCourse, kmod, hc, hc]
    | some c => rw [State.modCourse, kget_kmod_self hc, Option.map_some, Option.map_some, hf]
  · rw [State.modCourse, kget_kmod_ne hk]

theorem freeFaulted_registers (u : State) (who : FaultWho) : RegistersKept u (freeFaulted u who) := by
  cases who with
  | course core slot pc => exact modCourse_registersKept (fun _ => rfl)
  | op i => exact registersKept_of_courses (congrArg State.courses (freeOp_rest u i) :)
  | _ => exact registersKept_of_courses rfl

/-- A parked fault as its retry leaves it. -/
def retried (p : Parked) (now : Nat) : Parked := { p with again := true, due := false, tried := now }

/-- A fault that is due is tried again: its record says so, and whoever met it goes on. -/
theorem exec_faultRetry {id : Nat} {p : Parked} (hp : kget s.async.faults id = some p) (hagain : p.again = false)
    (hdue : p.due = true ∨ p.tried + 16000000 ≤ s.time.gt) : exec (.faultRetry id) s =
      .next (freeFaulted { s with async := { s.async with faults := kset s.async.faults id (retried p s.time.gt) } } p.who) := by
  have hnow : (p.again || !(p.due || decide (p.tried + retryWait ≤ s.time.gt))) = false := by
    rw [hagain, Bool.false_or, Bool.not_eq_false', Bool.or_eq_true, decide_eq_true_eq]
    exact hdue
  change execFaultRetry id s = _
  have hrecord : ({ p with again := true, due := false, tried := s.time.gt } : Parked) = retried p s.time.gt := rfl
  simp only [execFaultRetry, hp, hnow, Bool.false_eq_true, if_false, hrecord]
  generalize retried p s.time.gt = q
  cases p.who with
  | op i =>
    simp only [freeFaulted, freeOp, State.op?]
    cases kget s.async.ops i <;> rfl
  | _ => rfl

theorem faultRetry_spec {id : Nat} {p : Parked} (hp : kget s.async.faults id = some p) (hagain : p.again = false)
    (hdue : p.due = true ∨ p.tried + 16000000 ≤ s.time.gt) :
    ∃ t, exec (.faultRetry id) s = .next t ∧ kget t.async.faults id = some (retried p s.time.gt) ∧
      t.mem = s.mem ∧ RegistersKept s t ∧
      (∀ core slot pc c, p.who = .course core slot pc → s.course? core slot = some c → ∃ d, t.course? core slot = some d ∧
        ∀ l < 3, d.fr l = (c.fr l).map (fun e => if e.wait = .again .fault ∧ e.pc = pc then { e with wait := .retry } else e)) ∧
      (∀ core k q, p.who = .stream core k → s.panel? core k = some q →
        t.panel? core k = some { q with run := if q.run = 2 then 0 else q.run, swait := .none }) ∧
      (∀ i o, p.who = .op i → s.op? i = some o → t.op? i = some { o with fault := none }) := by
  refine ⟨_, exec_faultRetry hp hagain hdue, ?_, freeFaulted_mem _ _, freeFaulted_registers _ _, fun core slot pc c hwho hc => ?_,
    fun core k q hwho hq => ?_, fun i o hwho ho => ?_⟩
  · rw [freeFaulted_faults]
    exact kget_kset_self _ _ _
  · have hfreed : freed pc = fun e => if e.wait = .again .fault ∧ e.pc = pc then { e with wait := .retry } else e := by
      funext e
      simp [freed]
    rw [hwho]
    refine ⟨_, kget_kmod_self hc _, fun l _ => ?_⟩
    rw [fr_map, hfreed]
  · rw [hwho]
    refine (kget_kmod_self hq _).trans ?_
    simp
  · rw [hwho]
    have ho' : kget s.async.ops i = some o := ho
    simp only [freeFaulted, freeOp, State.op?, ho', Option.elim_some]
    exact kget_kset_self _ _ _

/-! ## PC samples (R155) -/

/-- A trace buffer takes a record: no course, no panel and no register of the firn store changes. -/
def Traced (s t : State) : Prop := t.courses = s.courses ∧ t.panels = s.panels ∧ t.firn = s.firn

theorem Traced.refl (s : State) : Traced s s := ⟨rfl, rfl, rfl⟩

theorem Traced.trans (h : Traced s t) (k : Traced t u) : Traced s u := by
  obtain ⟨h1, h2, h3⟩ := h
  obtain ⟨k1, k2, k3⟩ := k
  exact ⟨k1.trans h1, k2.trans h2, k3.trans h3⟩

theorem writeRange_traced {w : Who} {a : Word} {bs : List Byte} (h : s.writeRange w a bs = .ok t) : Traced s t := by
  unfold State.writeRange at h
  split at h
  · cases h
  · next l _ =>
    cases h
    exact List.foldlRecOn (motive := fun x : State × List Byte => Traced s x.1) l _ (Traced.refl s) (fun x hx p _ => hx.trans ⟨rfl, rfl, rfl⟩)

theorem traceLost_traced (s : State) (l : Nat) (v : Launch) : Traced s (s.traceLost l v) := by
  unfold State.traceLost
  extract_lets v' s1
  have h1 : Traced s s1 := ⟨rfl, rfl, rfl⟩
  split
  · exact h1
  · next e => exact h1.trans (writeRange_traced e)

theorem traceSuspend_traced (s : State) (l : Nat) (v : Launch) (a : Word) : Traced s (s.traceSuspend l v a) := by
  unfold State.traceSuspend
  extract_lets _ _ s1
  refine Traced.trans (t := s1) ?_ (traceLost_traced _ _ _)
  unfold s1
  split
  · exact Traced.refl s
  next e1 =>
  split
  · exact writeRange_traced e1
  · next e2 => exact (writeRange_traced e1).trans (writeRange_traced e2)

theorem traceEv_traced (s : State) (l : Nat) (e : Ev) : Traced s (s.traceEv l e) := by
  unfold State.traceEv State.traceRecord
  split
  · exact Traced.refl s
  split
  · exact Traced.refl s
  split
  · exact traceLost_traced _ _ _
  extract_lets
  split
  · exact traceSuspend_traced _ _ _ _
  extract_lets
  split
  · exact traceSuspend_traced _ _ _ _
  next e1 =>
  split
  · exact (writeRange_traced e1).trans (traceSuspend_traced _ _ _ _)
  · next e2 => exact (writeRange_traced e1).trans (writeRange_traced e2)

/-- The sample of one launch in a partition. -/
def sampleLaunch (core part : Nat) (s : State) (x : Nat × Launch) : State :=
  let cs := s.partCourses x.1 core part
  match s.sampleDue x.2 core part, cs[((s.sampleDue x.2 core part).getD 0) % max cs.length 1]? with
  | some now, some (slot, c) =>
    let s := s.modLaunch x.1 (fun v => { v with sampled := kset v.sampled (core * 8 + part) now })
    let e := c.front.head?
    let ev := s.partEv core slot c 0x54
      (c.headPc.toNat + (e.elim 0 (·.mask.toNat)) * 2 ^ 64 + s.stall core slot c * 2 ^ 80 + slot * 2 ^ 88)
    s.traceEv x.1 { ev with priv := true }
  | _, _ => s

theorem exec_pcSample (core part : Nat) (s : State) : exec (.pcSample core part) s = .next (s.work.launches.foldl (sampleLaunch core part) s) := rfl

theorem sampleLaunch_traced (core part : Nat) (s : State) (x : Nat × Launch) : Traced s (sampleLaunch core part s x) := by
  unfold sampleLaunch
  extract_lets
  split
  · next now slot c _ _ =>
    have h1 : Traced s (s.modLaunch x.1 (fun v => { v with sampled := kset v.sampled (core * 8 + part) now })) := ⟨rfl, rfl, rfl⟩
    exact h1.trans (traceEv_traced _ _ _)
  · exact Traced.refl s

/-- A launch that is not sampled. -/
theorem sampleLaunch_off {core part l : Nat} {v : Launch} (h : bitsOf v.hdr.trctl.toNat 15 0 = 0) : sampleLaunch core part s (l, v) = s := by
  simp [sampleLaunch, State.sampleDue, State.samplePeriod, h]

/-- The samples of a launch that are past. -/
def samplesPast (s : State) (v : Launch) : Nat := s.time.gt / (bitsOf v.hdr.trctl.toNat 15 0 * 64 * s.clockGt)

theorem sampleLaunch_due {core part l slot : Nat} {v : Launch} {c : Course} (hn : bitsOf v.hdr.trctl.toNat 15 0 ≠ 0)
    (hnow : (kget v.sampled (core * 8 + part)).getD 0 < samplesPast s v)
    (hc : (s.partCourses l core part)[samplesPast s v % (s.partCourses l core part).length]? = some (slot, c)) :
    let u := s.modLaunch l (fun v' => { v' with sampled := kset v'.sampled (core * 8 + part) (samplesPast s v) })
    sampleLaunch core part s (l, v) = u.traceEv l { u.partEv core slot c 0x54 (c.headPc.toNat + (c.front.head?.elim 0 (·.mask.toNat)) * 2 ^ 64 +
      u.stall core slot c * 2 ^ 80 + slot * 2 ^ 88) with priv := true } := by
  have hpos : 1 ≤ (s.partCourses l core part).length := by
    cases hcs : s.partCourses l core part with
    | nil => rw [hcs] at hc; cases hc
    | cons x xs => simp
  have hdue : s.sampleDue v core part = some (samplesPast s v) := by
    unfold samplesPast at hnow ⊢
    simp [State.sampleDue, State.samplePeriod, hn, hnow]
  simp only [sampleLaunch, hdue, Option.getD_some, Nat.max_eq_left hpos, hc]

/-! ## All of it -/

/-- Settles O45: each event's own rule. -/
theorem aroundIssue : Obligations.AroundIssue := by
  refine ⟨fun s core ctx line l bits hl => ⟨fun hfirst hc => ?_, fun hsecond hb => ?_, ?_⟩, fun s core ctx line slot y bits hslot hy hb => ?_,
    fun s core slot c E i hc hE hwait hpass ⟨hi, hlow⟩ => ?_, fun s core slot c E hc hE hwait hstep hlevel hfree => ?_, fun _ _ _ => rfl,
    fun s core slot c hc => ?_, fun s id p hp hagain hdue => faultRetry_spec hp hagain hdue, fun s core part => ?_⟩
  · refine ⟨_, icacheFill_first hl hfirst hc, rfl, ?_, ?_, fun n hn => ?_⟩
    · simp [modCore_core]
    · rw [modCore_core, if_pos rfl]
    · rw [modCore_core, if_neg hn]
  · exact ⟨_, icacheFill_second hl hsecond hb, rfl, icFind_icPut s core (icMark ctx (line / 64 * 64) bits),
      icPut_ways s core (icMark ctx (line / 64 * 64) bits), icPut_filling s core (icMark ctx (line / 64 * 64) bits),
      (icPut_otherwise s core core _).1, fun n => (icPut_otherwise s core n _).2⟩
  · exact ⟨_, icacheFill_error hl, List.mem_cons_self, rfl, fun _ => rfl⟩
  · refine ⟨_, ?_, icFind_icPut ((s.icDrop core ctx (line / 64 * 64) 64).life 1) core (icMark ctx (line / 64 * 64) bits), rfl, rfl⟩
    change execIcacheSoftError core ctx line slot s = _
    rw [execIcacheSoftError, if_pos hslot, icSoft_spec hy hb]
  · have hbreak := breakpoint_lowest hpass hi hlow
    have habout := aboutTo_ready hE hwait
    change (_ → execBreakpointHit core slot s = _) ∧ (_ → execBreakpointHit core slot s = _)
    constructor <;> (intro hatt; simp [execBreakpointHit, hc, habout, hbreak, hatt])
  · refine ⟨{ t := { cause := Cause.sstep, detail := 0, tval := Config.freeWord s.freeCount }, mask := E.mask, pc := E.pc, prio := E.prio },
      rfl, rfl, rfl, rfl, rfl, rfl, ?_⟩
    change execSingleStepTrap core slot s = _
    have hsteps : c.stepsNow = true := by simp [Course.stepsNow, hstep, hlevel, hfree]
    simp only [execSingleStepTrap, hc, aboutTo_ready hE hwait, hsteps, Bool.not_true, Bool.false_eq_true, if_false]
    rfl
  · exact ⟨_, _, rfl, course?_modCourse hc _, rfl, rfl, fun l _ => rouse_parked c l⟩
  · refine ⟨_, exec_pcSample core part s, ?_⟩
    obtain ⟨hcourses, hpanels, hfirn⟩ := List.foldlRecOn (motive := Traced s) s.work.launches (sampleLaunch core part) (Traced.refl s)
      (fun t ht x _ => ht.trans (sampleLaunch_traced core part t x))
    refine ⟨registersKept_of_courses hcourses, hpanels, hfirn, fun l v hl => ⟨fun hn => ?_, fun hn hnow slot c hcs => ?_⟩⟩
    · rw [hl]
      exact sampleLaunch_off hn
    · rw [hl]
      exact sampleLaunch_due hn hnow hcs

end Sys2Proof.Laws
end

section
/-! The debug channel (R128, R413, R414, R416, R418, R420, R452). -/
namespace Sys2Proof.Laws
open Sys2Proof.Machine Sys2Proof.Safety

variable {α : Type} {s t u : State} {sk : Nat} {k : Skein}

/-! ## Some entries of a table get new values -/

theorem kget_foldl_kset {m : KMap α} (hm : (kkeys m).Nodup) (g : Nat → α → α) (m0 : KMap α) (k : Nat) :
    kget (m.foldl (fun n x => kset n x.1 (g x.1 x.2)) m0) k = ((kget m k).map (g k)).or (kget m0 k) := by
  induction m generalizing m0 with
  | nil => simp [kget]
  | cons x m ih =>
    obtain ⟨j, a⟩ := x
    obtain ⟨hj, hm⟩ := List.nodup_cons.1 hm
    rw [List.foldl_cons, ih hm, kget_kset]
    by_cases hjk : j = k
    · subst hjk
      have hnone : kget m j = none := by
        cases hc : kget m j with
        | none => rfl
        | some b => exact absurd (List.mem_map_of_mem (f := Prod.fst) (mem_of_kget hc)) hj
      simp [kget, hnone]
    · simp [kget, hjk, Ne.symm hjk]

theorem kget_filter {m : KMap α} (hm : (kkeys m).Nodup) (p : Nat → α → Bool) (k : Nat) :
    kget (m.filter (fun x => p x.1 x.2)) k = (kget m k).filter (p k) := by
  have hfilter : m.filter (fun x => p x.1 x.2) = m.filterMap (fun (j, a) => ((some a).filter (p j)).map (fun b => (j, b))) := by
    rw [← List.filterMap_eq_filter]
    congr 1
    funext ⟨j, a⟩
    by_cases hp : p j a = true <;> simp [Option.guard, Option.filter, hp]
  rw [hfilter, kget_filterMap hm (fun j a => (some a).filter (p j))]
  cases kget m k <;> rfl

/-- The entries that are chosen get new values, the others keep theirs. -/
theorem kget_renewed {m : KMap α} (hm : (kkeys m).Nodup) (p : Nat → α → Bool) (g : Nat → α → α) (k : Nat) :
    kget ((m.filter (fun x => p x.1 x.2)).foldl (fun n x => kset n x.1 (g x.1 x.2)) m) k = (kget m k).map (fun a => if p k a then g k a else a) := by
  have hsub : (kkeys (m.filter (fun x => p x.1 x.2))).Nodup := hm.sublist (List.filter_sublist.map _)
  rw [kget_foldl_kset hsub, kget_filter hm]
  cases kget m k with
  | none => rfl
  | some a => by_cases hp : p k a = true <;> simp [Option.filter, hp]

/-! ## Courses and panels of a skein -/

/-- Each course of a list of courses by their places gets a new state. -/
theorem foldl_setCourse (g : Nat → Nat → Course → Course) (l : KMap Course) (s : State) :
    (l.map (fun x => (x.1 / 32, x.1 % 32, x.2))).foldl (fun s x => s.setCourse x.1 x.2.1 (g x.1 x.2.1 x.2.2)) s =
      { s with courses := l.foldl (fun n x => kset n x.1 (g (x.1 / 32) (x.1 % 32) x.2)) s.courses } := by
  induction l generalizing s with
  | nil => rfl
  | cons x l ih =>
    have hk : courseKey (x.1 / 32) (x.1 % 32) = x.1 := by unfold courseKey; omega
    rw [List.map_cons, List.foldl_cons, ih, State.setCourse, hk]
    rfl

/-- Every course that is chosen gets a new state, the others keep theirs. -/
theorem setCourses_kget (hs : (kkeys s.courses).Nodup) (p : Nat → Course → Bool) (g : Nat → Nat → Course → Course) (key : Nat) :
    kget ((s.coursesWhere p).foldl (fun s x => s.setCourse x.1 x.2.1 (g x.1 x.2.1 x.2.2)) s).courses key =
      (kget s.courses key).map (fun c => if p (key / 32) c then g (key / 32) (key % 32) c else c) := by
  change kget (((s.courses.filter (fun x => p (x.1 / 32) x.2)).map (fun x => (x.1 / 32, x.1 % 32, x.2))).foldl _ s).courses key = _
  rw [foldl_setCourse]
  exact kget_renewed hs (fun k c => p (k / 32) c) (fun k c => g (k / 32) (k % 32) c) key

theorem setCourses_rest (l : List (Nat × Nat × Course)) (g : Nat → Nat → Course → Course) (s : State) :
    ({ l.foldl (fun s x => s.setCourse x.1 x.2.1 (g x.1 x.2.1 x.2.2)) s with courses := s.courses } : State) = s :=
  List.foldlRecOn (motive := fun t : State => ({ t with courses := s.courses } : State) = s) l _ rfl (fun _ h _ _ => h)

theorem setCourses_registersKept (hs : (kkeys s.courses).Nodup) (p : Nat → Course → Bool) (g : Nat → Nat → Course → Course)
    (hg : ∀ core slot c, registers (g core slot c) = registers c) :
    RegistersKept s ((s.coursesWhere p).foldl (fun s x => s.setCourse x.1 x.2.1 (g x.1 x.2.1 x.2.2)) s) := by
  intro key
  rw [setCourses_kget hs, Option.map_map]
  congr 1
  funext c
  simp only [Function.comp]
  split
  · exact hg _ _ _
  · rfl

theorem goOn_registers (c : Course) : registers c.goOn = registers c := by
  unfold Course.goOn
  split <;> rfl

/-- Each panel of a list of panels by their places gets a new state. -/
theorem foldl_setPanel (g : Panel → Panel) (l : KMap Panel) (s : State) :
    (l.map (fun x => (x.1 / 4, x.1 % 4, x.2))).foldl (fun s x => s.setPanel x.1 x.2.1 (g x.2.2)) s =
      { s with panels := l.foldl (fun n x => kset n x.1 (g x.2)) s.panels } := by
  induction l generalizing s with
  | nil => rfl
  | cons x l ih =>
    have hk : panelKey (x.1 / 4) (x.1 % 4) = x.1 := by unfold panelKey; omega
    rw [List.map_cons, List.foldl_cons, ih, State.setPanel, hk]
    rfl

theorem setPanels_kget (hs : (kkeys s.panels).Nodup) (sk : Nat) (g : Panel → Panel) (key : Nat) :
    kget ((s.skeinPanels sk).foldl (fun s x => s.setPanel x.1 x.2.1 (g x.2.2)) s).panels key =
      (kget s.panels key).map (fun p => if p.skein == sk then g p else p) := by
  change kget (((s.panels.filter (fun x => x.2.skein == sk)).map (fun x => (x.1 / 4, x.1 % 4, x.2))).foldl _ s).panels key = _
  rw [foldl_setPanel]
  exact kget_renewed hs (fun _ p => p.skein == sk) (fun _ p => g p) key

theorem setPanels_rest (l : List (Nat × Nat × Panel)) (g : Panel → Panel) (s : State) :
    ({ l.foldl (fun s x => s.setPanel x.1 x.2.1 (g x.2.2)) s with panels := s.panels } : State) = s :=
  List.foldlRecOn (motive := fun t : State => ({ t with panels := s.panels } : State) = s) l _ rfl (fun _ h _ _ => h)

/-! ## A debug stop (R416, R453) -/

/-- The courses, the work at hand and the debug channel stay, and of memory only the rings of the firn store change. -/
structure Halting (s t : State) : Prop extends Undisturbed s t where
  work : t.work = s.work
  dbg  : t.dbg = s.dbg

theorem Halting.trans (h : Halting s t) (k : Halting t u) : Halting s u :=
  ⟨h.toUndisturbed.trans k.toUndisturbed, k.work.trans h.work, k.dbg.trans h.dbg⟩

/-- A change of panels, cores and operations. -/
theorem halting_update (s : State) (panels : KMap Panel) (cores : KMap Core) (async : AsyncState) : Halting s { s with panels, cores, async } :=
  ⟨⟨rfl, ⟨rfl, rfl, rfl⟩, fun _ _ => rfl⟩, rfl, rfl⟩

theorem Halting.refl (s : State) : Halting s s := halting_update s s.panels s.cores s.async

theorem emit_halting (s : State) (e : Ev) : Halting s (s.emit e) := ⟨(emit_carried s e).undisturbed, emit_work s e, emit_dbg s e⟩

theorem modEngine_halting (s : State) (core : Nat) (f : Engine → Engine) : Halting s (s.modEngine core f) := halting_update s s.panels _ s.async

theorem endOp_halting (s : State) (op : Nat) : Halting s (s.endOp op) := ⟨⟨rfl, ⟨rfl, rfl, rfl⟩, fun _ _ => rfl⟩, rfl, rfl⟩

theorem stopEngine_halting (s : State) (core code : Nat) : Halting s (s.stopEngine core code) := by
  unfold State.stopEngine
  extract_lets
  split
  · exact Halting.refl s
  split
  · exact Halting.refl s
  split
  · exact modEngine_halting _ _ _
  extract_lets s1 s2
  have h1 : Halting s s1 := (modEngine_halting _ _ _).trans (endOp_halting _ _)
  exact (h1.trans (halting_update s1 s1.panels s1.cores _)).trans (emit_halting _ _)

/-- A pull of the trigger latches, unless one has just been pulled. -/
theorem pullTrigger_cases (s : State) (tag : Half) (source : Nat) :
    ((∃ t0, s.dbg.pulled = some t0 ∧ s.time.gt < t0 + 16000) ∧ s.pullTrigger tag source = s) ∨
    ((∀ t0, s.dbg.pulled = some t0 → t0 + 16000 ≤ s.time.gt) ∧ ∃ snapshots,
      s.pullTrigger tag source = { s with dbg := { s.dbg with pulled := some s.time.gt, snapshots } }) := by
  unfold State.pullTrigger
  extract_lets recent _ parts others
  cases hp : s.dbg.pulled with
  | none =>
    have hrecent : recent = false := by simp only [recent, hp]
    rw [hrecent]
    exact .inr ⟨nofun, _, rfl⟩
  | some t0 =>
    have hrecent : recent = decide (s.time.gt < t0 + 16000) := by simp only [recent, hp]
    rw [hrecent]
    by_cases h : s.time.gt < t0 + 16000
    · exact .inl ⟨⟨t0, rfl, h⟩, by simp [h]⟩
    · refine .inr ⟨by rintro _ ⟨⟩; omega, _, by rw [decide_eq_false h]; rfl⟩

/-- What a pull of the trigger leaves. -/
theorem pullTrigger_leaves (s : State) (tag : Half) (source : Nat) :
    ({ s.pullTrigger tag source with dbg := s.dbg } : State) = s ∧ (s.pullTrigger tag source).dbg.replies = s.dbg.replies := by
  rcases pullTrigger_cases s tag source with ⟨-, h⟩ | ⟨-, snapshots, h⟩ <;> rw [h] <;> exact ⟨rfl, rfl⟩

/-- A course of a skein that stops. -/
def stoppedCourse (hit : Option (Nat × Nat)) (core slot : Nat) (c : Course) : Course :=
  { c with stopped := true,
           stopRec := BitVec.ofNat 64 ((if hit == some (core, slot) then 2 ^ 16 else 0) + (if c.started && c.heldAtStop then 2 ^ 17 else 0)) }

/-- A panel of a skein that stops, and the job its engine runs. -/
def stopPanel (s : State) (x : Nat × Nat × Panel) : State :=
  let s := s.setPanel x.1 x.2.1 { x.2.2 with stopped := true }
  if (s.engine x.1).owner == some x.2.1 then s.stopEngine x.1 4 else s

theorem stopPanel_halting (s : State) (x : Nat × Nat × Panel) : Halting s (stopPanel s x) := by
  unfold stopPanel
  extract_lets _ s1
  have h1 : Halting s s1 := halting_update s _ s.cores s.async
  split
  · exact h1.trans (stopEngine_halting _ _ _)
  · exact h1

/-- The courses of a skein stopped, and its panels. -/
def halted (s : State) (sk : Nat) (hit : Option (Nat × Nat)) : State :=
  let s := (s.skeinCourses sk).foldl (fun s x => s.setCourse x.1 x.2.1 (stoppedCourse hit x.1 x.2.1 x.2.2)) s
  (s.skeinPanels sk).foldl stopPanel s

theorem halted_halting (s : State) (sk : Nat) (hit : Option (Nat × Nat)) :
    Halting ((s.skeinCourses sk).foldl (fun s x => s.setCourse x.1 x.2.1 (stoppedCourse hit x.1 x.2.1 x.2.2)) s) (halted s sk hit) :=
  List.foldlRecOn (motive := fun t => Halting _ t) _ stopPanel (Halting.refl _) (fun t h x _ => h.trans (stopPanel_halting t x))

/-- The skein then, marked as stopped, and no step in progress. -/
def haltedSkein (s : State) (sk : Nat) (hit : Option (Nat × Nat)) : State :=
  { (halted s sk hit).modSkein sk (fun k => { k with stopped := true }) with dbg := { (halted s sk hit).dbg with stepping := none } }

/-- DEBUG_STOP. -/
def stopEv (s : State) (sk : Nat) (k : Skein) (h : StopHit) : Ev :=
  { source := src 1 0, type := 0xC7, cause := k.cause, parent := k.parent, ctx := s.skeinCtx sk,
    payload := h.reason.toNat + h.core.toNat * 2 ^ 8 + h.slot.toNat * 2 ^ 16 + h.pc.toNat * 2 ^ 32 }

theorem debugStop_running {h : StopHit} {hit : Option (Nat × Nat)} (hk : s.skein? sk = some k) (hrun : k.stopped = false) :
    s.debugStop sk h hit = ((haltedSkein s sk hit).emit (stopEv (haltedSkein s sk hit) sk k h)).pullTrigger 0 3 := by
  unfold State.debugStop
  simp only [hk, hrun, Bool.false_and, Bool.false_eq_true, if_false]
  rfl

theorem haltedSkein_courses (hs : (kkeys s.courses).Nodup) (sk : Nat) (hit : Option (Nat × Nat)) (key : Nat) :
    kget (haltedSkein s sk hit).courses key =
      (kget s.courses key).map (fun c => if c.skein == sk then stoppedCourse hit (key / 32) (key % 32) c else c) := by
  change kget (halted s sk hit).courses key = _
  rw [(halted_halting s sk hit).courses]
  exact setCourses_kget hs (fun _ c => c.skein == sk) (stoppedCourse hit) key

/-- What stopping a skein leaves beside its courses, its panels and its mark. -/
theorem haltedSkein_leaves (s : State) (sk : Nat) (hit : Option (Nat × Nat)) :
    Undisturbed { s with courses := (haltedSkein s sk hit).courses } (haltedSkein s sk hit) ∧
      (haltedSkein s sk hit).work.skeins = kmod s.work.skeins sk (fun k => { k with stopped := true }) ∧
      (haltedSkein s sk hit).dbg.replies = s.dbg.replies := by
  have hstop := halted_halting s sk hit
  have hrest := setCourses_rest (s.skeinCourses sk) (stoppedCourse hit) s
  have hwork : (halted s sk hit).work = s.work := hstop.work.trans (congrArg State.work hrest :)
  have hdbg : (halted s sk hit).dbg = s.dbg := hstop.dbg.trans (congrArg State.dbg hrest :)
  generalize (s.skeinCourses sk).foldl (fun s x => s.setCourse x.1 x.2.1 (stoppedCourse hit x.1 x.2.1 x.2.2)) s = s1 at hstop hrest
  have hfirn : s1.firn = s.firn := (congrArg State.firn hrest :)
  have hmem : s1.mem = s.mem := (congrArg State.mem hrest :)
  refine ⟨⟨rfl, by rw [← hfirn]; exact hstop.place, fun l hl => ?_⟩, ?_, ?_⟩
  · have hout : outsideRings s1 l := by
      unfold outsideRings at hl ⊢
      rw [hfirn]
      exact hl
    have hpeek : s.peek l = s1.peek l := by rw [State.peek, State.peek, hmem]
    exact (hstop.bytes l hout).trans hpeek.symm
  · change kmod (halted s sk hit).work.skeins sk _ = _
    rw [hwork]
  · change (halted s sk hit).dbg.replies = _
    rw [hdbg]

theorem debugStop_spec {h : StopHit} {hit : Option (Nat × Nat)} (hk : s.skein? sk = some k) (hrun : k.stopped = false)
    (hs : (kkeys s.courses).Nodup) :
    (∀ key, kget (s.debugStop sk h hit).courses key =
      (kget s.courses key).map (fun c => if c.skein == sk then stoppedCourse hit (key / 32) (key % 32) c else c)) ∧
      MemoryKept s (s.debugStop sk h hit) ∧ (s.debugStop sk h hit).skein? sk = some { k with stopped := true } ∧
      (s.debugStop sk h hit).dbg.replies = s.dbg.replies := by
  rw [debugStop_running hk hrun]
  have hcourses := haltedSkein_courses hs sk hit
  obtain ⟨hquiet, hskeins, hreplies⟩ := haltedSkein_leaves s sk hit
  generalize haltedSkein s sk hit = u at hcourses hquiet hskeins hreplies
  have hemit := (emit_carried u (stopEv u sk k h)).undisturbed
  obtain ⟨hleaves, hkept⟩ := pullTrigger_leaves (u.emit (stopEv u sk k h)) 0 3
  have hmem : ((u.emit (stopEv u sk k h)).pullTrigger 0 3).mem = (u.emit (stopEv u sk k h)).mem := (congrArg State.mem hleaves :)
  refine ⟨fun key => ?_, fun l hl => ?_, ?_, ?_⟩
  · rw [(congrArg State.courses hleaves : _ = (u.emit _).courses), emit_courses, hcourses]
  · rw [State.peek, hmem]
    exact (hquiet.trans hemit).bytes l hl
  · rw [State.skein?, (congrArg State.work hleaves : _ = (u.emit _).work), emit_work, hskeins]
    exact kget_kmod_self hk _
  · rw [hkept, emit_dbg, hreplies]

theorem exec_stop (hk : s.skein? sk = some k) (hatt : k.attached = true) (hplaced : k.phase = .placed) (hrun : k.stopped = false) :
    exec (.stop sk) s = .next ((s.debugStop sk { reason := 5, core := 0, slot := 0, pc := 0 } none).reply true []) := by
  change execStop sk s = _
  simp [execStop, hk, hatt, hplaced, hrun]

theorem stop_spec (hk : s.skein? sk = some k) (hatt : k.attached = true) (hplaced : k.phase = .placed) (hrun : k.stopped = false)
    (hs : (kkeys s.courses).Nodup) : ∃ t, exec (.stop sk) s = .next t ∧ RegistersKept s t ∧ MemoryKept s t ∧
      (t.skein? sk).elim false (·.stopped) = true ∧ (∀ key c, kget t.courses key = some c → c.skein = sk → c.stopped = true) ∧
      t.dbg.replies = s.dbg.replies ++ [(true, [])] := by
  obtain ⟨hcourses, hmem, hskein, hreplies⟩ := debugStop_spec (h := { reason := 5, core := 0, slot := 0, pc := 0 }) (hit := none) hk hrun hs
  refine ⟨_, exec_stop hk hatt hplaced hrun, fun key => ?_, hmem, ?_, fun key c hc hsk => ?_, congrArg (· ++ [(true, [])]) hreplies⟩
  · change (kget (s.debugStop sk _ none).courses key).map registers = _
    rw [hcourses, Option.map_map]
    cases kget s.courses key with
    | none => rfl
    | some c =>
      simp only [Option.map_some, Function.comp]
      split <;> rfl
  · change ((s.debugStop sk _ none).skein? sk).elim false (·.stopped) = true
    rw [hskein]
    rfl
  · change kget (s.debugStop sk _ none).courses key = some c at hc
    rw [hcourses] at hc
    obtain ⟨d, -, rfl⟩ := Option.map_eq_some_iff.1 hc
    by_cases hd : (d.skein == sk) = true
    · rw [if_pos hd]
      rfl
    · rw [if_neg hd] at hsk
      exact absurd (beq_iff_eq.2 hsk) hd

/-! ## RESUME and steps (R418) -/

/-- The skein as its resumption leaves it. -/
def resumedSkein (k : Skein) : Skein :=
  { k with stopped := false, stashP := k.stashP.map (fun p => { p with stopped := false }), stashC := k.stashC.map Course.goOn }

/-- The courses of a skein go on, and its panels. -/
def resumedUnits (s : State) (sk : Nat) : State :=
  let s := (s.skeinCourses sk).foldl (fun s x => s.setCourse x.1 x.2.1 x.2.2.goOn) s
  (s.skeinPanels sk).foldl (fun s x => s.setPanel x.1 x.2.1 { x.2.2 with stopped := false }) s

theorem exec_resume (hk : s.skein? sk = some k) (hstop : k.stopped = true) : exec (.resume sk) s =
    .next (((resumedUnits (if s.stepsSkein sk then { s with dbg := { s.dbg with stepping := none } } else s) sk).modSkein sk
      resumedSkein).reply true []) := by
  change execResume sk s = _
  simp only [execResume, hk, hstop, Bool.not_true, Bool.false_eq_true, if_false]
  rfl

theorem resumedUnits_courses (hs : (kkeys s.courses).Nodup) (sk key : Nat) :
    kget (resumedUnits s sk).courses key = (kget s.courses key).map (fun c => if c.skein == sk then c.goOn else c) := by
  have hkget := setCourses_kget hs (fun _ c => c.skein == sk) (fun _ _ c => c.goOn) key
  unfold resumedUnits
  extract_lets s1
  rw [(congrArg State.courses (setPanels_rest (s1.skeinPanels sk) (fun p => { p with stopped := false }) s1) : _ = s1.courses)]
  exact hkget

theorem resumedUnits_panels (hs : (kkeys s.panels).Nodup) (sk key : Nat) :
    kget (resumedUnits s sk).panels key = (kget s.panels key).map (fun p => if p.skein == sk then { p with stopped := false } else p) := by
  unfold resumedUnits
  extract_lets s1
  have hpanels : s1.panels = s.panels := (congrArg State.panels (setCourses_rest (s.skeinCourses sk) (fun _ _ c => c.goOn) s) :)
  rw [setPanels_kget (s := s1) (hpanels ▸ hs) sk (fun p => { p with stopped := false }), hpanels]

theorem resumedUnits_rest (s : State) (sk : Nat) : ({ resumedUnits s sk with courses := s.courses, panels := s.panels } : State) = s := by
  unfold resumedUnits
  extract_lets s1
  have hpanels := setPanels_rest (s1.skeinPanels sk) (fun p => { p with stopped := false }) s1
  have hcourses : ({ s1 with courses := s.courses } : State) = s := setCourses_rest (s.skeinCourses sk) (fun _ _ c => c.goOn) s
  have hkept : s1.panels = s.panels := (congrArg State.panels hcourses :)
  calc _ = ({ s1 with courses := s.courses, panels := s.panels } : State) := by
        rw [← hkept]
        exact congrArg (fun t : State => ({ t with courses := s.courses } : State)) hpanels
    _ = s := by
        rw [← hkept]
        exact hcourses

theorem resume_spec (hk : s.skein? sk = some k) (hstop : k.stopped = true) (hs : (kkeys s.courses).Nodup) (hp : (kkeys s.panels).Nodup) :
    ∃ t, exec (.resume sk) s = .next t ∧ RegistersKept s t ∧ t.mem = s.mem ∧ (t.skein? sk).elim true (·.stopped) = false ∧
      (∀ key c, kget s.courses key = some c → c.skein = sk → kget t.courses key = some c.goOn) ∧
      (∀ key p, kget s.panels key = some p → p.skein = sk → kget t.panels key = some { p with stopped := false }) ∧
      ∀ key c, kget s.courses key = some c → c.skein ≠ sk → kget t.courses key = some c := by
  have hx := exec_resume hk hstop
  generalize hs0 : (if s.stepsSkein sk then { s with dbg := { s.dbg with stepping := none } } else s) = s0 at hx
  have hsame : ({ s0 with dbg := s.dbg } : State) = s := by rw [← hs0]; split <;> rfl
  have hcourses : s0.courses = s.courses := (congrArg State.courses hsame :)
  have hpanels : s0.panels = s.panels := (congrArg State.panels hsame :)
  have hrest := resumedUnits_rest s0 sk
  have hc (key : Nat) : kget (resumedUnits s0 sk).courses key = (kget s.courses key).map (fun c => if c.skein == sk then c.goOn else c) := by
    rw [resumedUnits_courses (hcourses ▸ hs), hcourses]
  refine ⟨_, hx, fun key => ?_, ?_, ?_, fun key c hkey hsk => ?_, fun key p hkey hsk => ?_, fun key c hkey hsk => ?_⟩
  · change (kget (resumedUnits s0 sk).courses key).map registers = _
    rw [hc, Option.map_map]
    congr 1
    funext c
    simp only [Function.comp]
    split
    · exact goOn_registers c
    · rfl
  · exact (congrArg State.mem hrest : _ = s0.mem).trans (congrArg State.mem hsame : _ = s.mem)
  · have hwork : s0.work = s.work := (congrArg State.work hsame :)
    have hskein : (resumedUnits s0 sk).skein? sk = some k := by
      rw [State.skein?, (congrArg State.work hrest : _ = s0.work), hwork]
      exact hk
    change (((resumedUnits s0 sk).modSkein sk resumedSkein).skein? sk).elim true (·.stopped) = false
    rw [skein_modSkein_self hskein]
    rfl
  · exact (hc key).trans (by simp [hkey, hsk])
  · have hkget := resumedUnits_panels (s := s0) (hpanels ▸ hp) sk key
    rw [hpanels, hkey] at hkget
    exact hkget.trans (by simp [hsk])
  · exact (hc key).trans (by simp [hkey, hsk])

theorem mayStep_stopped (hk : s.skein? sk = some k) (hstop : k.stopped = true) (hplaced : k.phase = .placed) (hnone : s.dbg.stepping = none) :
    s.mayStep sk = true := by
  simp [State.mayStep, hk, hstop, hplaced, hnone]

theorem stepCourse_spec {core slot : Nat} {c : Course} (hc : s.course? core slot = some c) (ho : c.orphan = none) (hk : s.skein? c.skein = some k)
    (hstop : k.stopped = true) (hplaced : k.phase = .placed) (hnone : s.dbg.stepping = none) : exec (.stepCourse core slot) s =
      .next (({ (s.setCourse core slot c.goOn) with dbg := { s.dbg with stepping := some (core, c.pslot, some slot) } } : State).reply true []) := by
  change execStepCourse core slot s = _
  simp only [execStepCourse, hc, mayStep_stopped hk hstop hplaced hnone, ho, Bool.not_true, Option.isSome_none,
    Bool.or_self, Bool.false_eq_true, if_false]
  rfl

/-- Whether a course runs on a panel. -/
def onPanel (core i key : Nat) (c : Course) : Bool := key == core && c.pslot == i && c.orphan.isNone

/-- The courses of a panel go on. -/
def panelStepped (s : State) (core i : Nat) : State :=
  (s.panelCourses core i).foldl (fun s x => s.setCourse x.1 x.2.1 x.2.2.goOn) s

theorem exec_stepPhase {core i : Nat} {p : Panel} (hp : s.panel? core i = some p) (hmay : s.mayStep p.skein = true) : exec (.stepPhase core i) s =
    .next (({ (panelStepped s core i).modPanel core i (fun p => { p with stopped := false }) with
      dbg := { (panelStepped s core i).dbg with stepping := some (core, i, none) } } : State).reply true []) := by
  have hfold : (s.panelCourses core i).foldl (fun s (x : Nat × Nat × Course) => s.setCourse core x.2.1 x.2.2.goOn) s = panelStepped s core i := by
    refine List.foldl_ext _ _ s (fun t x hx => ?_)
    obtain ⟨y, hy, rfl⟩ := List.mem_map.1 hx
    have hcore := (List.mem_filter.1 hy).2
    simp only [Bool.and_eq_true, beq_iff_eq] at hcore
    obtain ⟨⟨hcore, -⟩, -⟩ := hcore
    simp only [hcore]
  change execStepPhase core i s = _
  simp only [execStepPhase, hp, hmay, Bool.not_true, Bool.false_eq_true, if_false]
  rw [← hfold]
  rfl

theorem stepPhase_spec {core i : Nat} {p : Panel} (hp : s.panel? core i = some p) (hk : s.skein? p.skein = some k) (hstop : k.stopped = true)
    (hplaced : k.phase = .placed) (hnone : s.dbg.stepping = none) (hs : (kkeys s.courses).Nodup) :
    ∃ t, exec (.stepPhase core i) s = .next t ∧ RegistersKept s t ∧ t.mem = s.mem ∧
      t.panel? core i = some { p with stopped := false } ∧ t.dbg.stepping = some (core, i, none) ∧
      ∀ slot c, slot < 32 → s.course? core slot = some c → t.course? core slot =
        some (if c.pslot = i ∧ c.orphan = none then c.goOn else c) := by
  have hrest : ({ panelStepped s core i with courses := s.courses } : State) = s := setCourses_rest (s.panelCourses core i) (fun _ _ c => c.goOn) s
  have hpanel : (panelStepped s core i).panel? core i = some p := by
    rw [State.panel?, (congrArg State.panels hrest : _ = s.panels)]
    exact hp
  have hkget := setCourses_kget hs (onPanel core i) (fun _ _ c => c.goOn)
  refine ⟨_, exec_stepPhase hp (mayStep_stopped hk hstop hplaced hnone),
    setCourses_registersKept hs (onPanel core i) (fun _ _ c => c.goOn) (fun _ _ c => goOn_registers c), (congrArg State.mem hrest :),
    kget_kmod_self hpanel _, rfl, fun slot c hslot hc => ?_⟩
  have hkey : courseKey core slot / 32 = core := by unfold courseKey; omega
  refine (hkget (courseKey core slot)).trans ?_
  rw [show kget s.courses (courseKey core slot) = some c from hc, hkey]
  by_cases hon : c.pslot = i ∧ c.orphan = none
  · simp [onPanel, hon]
  · rw [if_neg hon]
    have hoff : onPanel core i core c = false := by
      simpa [onPanel, Option.isSome_iff_ne_none] using hon
    simp [hoff]

/-! ## The records of a stopped skein (R413) -/

section
variable {h : Header} {x : ImgPart} {off : Nat}

theorem partNow_resident (hk : s.skein? sk = some k) (hplaced : k.phase = .placed) : s.partNow sk h x = s.partBytes sk x := by
  have hsaved : s.isSaved sk = false := by simp [State.isSaved, hk, hplaced]
  rw [State.partNow, if_neg (by simp [hsaved])]

/-- A read that stays in one part of a resident skein's records. -/
theorem recordRead_part {n : Nat} (hk : s.skein? sk = some k) (hplaced : k.phase = .placed) (hx : imgPartAt h off = some x) (hn : n ≠ 0)
    (hfit : off - x.at_ h + n ≤ x.size) :
    s.recordRead sk h (n + 1) off n = some (((s.partBytes sk x).drop (off - x.at_ h)).take n) := by
  obtain ⟨m, rfl⟩ := Nat.exists_eq_succ_of_ne_zero hn
  have hmin : min (m + 1) (x.size - (off - x.at_ h)) = m + 1 := by omega
  rw [State.recordRead]
  simp [hx, hmin, State.recordRead, partNow_resident hk hplaced]

/-- A write that stays in one part. -/
theorem recordWrite_part {b : List Byte} (hk : s.skein? sk = some k) (hplaced : k.phase = .placed) (hx : imgPartAt h off = some x) (hb : b ≠ [])
    (hfit : off - x.at_ h + b.length ≤ x.size) : s.recordWrite sk h (b.length + 1) off b =
      some (s.partWrite sk x ((s.partBytes sk x).take (off - x.at_ h) ++ b ++ (s.partBytes sk x).drop (off - x.at_ h + b.length))) := by
  have hmin : min b.length (x.size - (off - x.at_ h)) = b.length := by omega
  have hsaved : s.isSaved sk = false := by simp [State.isSaved, hk, hplaced]
  obtain ⟨m, hm⟩ := Nat.exists_eq_succ_of_ne_zero (fun e => hb (List.length_eq_zero_iff.1 e))
  have hdone (u : State) (o : Nat) : u.recordWrite sk h b.length o [] = some u := by rw [hm]; rfl
  rw [State.recordWrite]
  simp [hb, hx, hmin, hsaved, hdone, partNow_resident hk hplaced]

theorem debugRead_part {n : Nat} (hk : s.skein? sk = some k) (hatt : k.attached = true) (hstop : k.stopped = true) (hplaced : k.phase = .placed)
    (hsteps : s.stepsSkein sk = false) (hh : s.skeinHdr sk = some h) (hx : imgPartAt h off = some x) (hn : n ≠ 0)
    (hfit : off - x.at_ h + n ≤ x.size) : exec (.debugRead sk off n) s =
      .next (s.reply true (((s.partBytes sk x).drop (off - x.at_ h)).take n)) := by
  change execDebugRead sk off n s = _
  simp [execDebugRead, hk, hh, hatt, hstop, hsteps, recordRead_part hk hplaced hx hn hfit]

theorem debugWrite_part {b : List Byte} (hk : s.skein? sk = some k) (hatt : k.attached = true) (hstop : k.stopped = true)
    (hplaced : k.phase = .placed) (hsteps : s.stepsSkein sk = false) (hh : s.skeinHdr sk = some h) (hx : imgPartAt h off = some x) (hb : b ≠ [])
    (hfit : off - x.at_ h + b.length ≤ x.size) : exec (.debugWrite sk off b) s = .next ((s.partWrite sk x
      ((s.partBytes sk x).take (off - x.at_ h) ++ b ++ (s.partBytes sk x).drop (off - x.at_ h + b.length))).reply true []) := by
  change execDebugWrite sk off b s = _
  simp [execDebugWrite, hk, hh, hatt, hstop, hsteps, recordWrite_part hk hplaced hx hb hfit]

/-- A skein that is not attached, or runs, is neither read nor written. -/
theorem debugRead_refused (hk : s.skein? sk = some k) (hno : k.attached = false ∨ k.stopped = false) (off n : Nat) :
    exec (.debugRead sk off n) s = .next (s.reply false []) := by
  change execDebugRead sk off n s = _
  cases hh : s.skeinHdr sk <;> rcases hno with hno | hno <;> simp [execDebugRead, hk, hh, hno]

theorem debugWrite_refused (hk : s.skein? sk = some k) (hno : k.attached = false ∨ k.stopped = false) (off : Nat) (b : List Byte) :
    exec (.debugWrite sk off b) s = .next (s.reply false []) := by
  change execDebugWrite sk off b s = _
  cases hh : s.skeinHdr sk <;> rcases hno with hno | hno <;> simp [execDebugWrite, hk, hh, hno]
end

/-! ## ICINV at skein scope -/

/-- Whether a line is one that ICINV drops. -/
def dropsLine (ctx : Nat) (base : Word) (len : Nat) (y : IcLine) : Bool :=
  y.ctx == ctx && decide (base.toNat ≤ y.line.toNat) && decide (y.line.toNat < base.toNat + len)

theorem icDrop_icache {base : Word} {len : Nat} (hlen : len ≠ 0) (s : State) (core ctx n : Nat) :
    ((s.icDrop core ctx base len).core n).icache =
      if n = core then (s.core core).icache.filter (fun y => !dropsLine ctx base len y) else (s.core n).icache := by
  have hzero : (len == 0) = false := by simpa using hlen
  unfold State.icDrop
  rw [modCore_core]
  by_cases h : n = core
  · simp only [if_pos h, dropsLine, hzero, Bool.false_or, Bool.and_assoc]
  · simp only [if_neg h]

theorem icDrops_icache {base : Word} {len : Nat} (hlen : len ≠ 0) (sk : Nat) (cores : List Nat) (s : State) (n : Nat) :
    ((cores.foldl (fun s c => s.icDrop c (s.skeinCtx sk) base len) s).core n).icache =
      if n ∈ cores then (s.core n).icache.filter (fun y => !dropsLine (s.skeinCtx sk) base len y) else (s.core n).icache := by
  induction cores generalizing s with
  | nil => simp
  | cons c l ih =>
    have hctx : (s.icDrop c (s.skeinCtx sk) base len).skeinCtx sk = s.skeinCtx sk := rfl
    rw [List.foldl_cons, ih, hctx, icDrop_icache hlen]
    by_cases hn : n = c
    · subst hn
      by_cases hl : n ∈ l <;> simp [hl, List.filter_filter]
    · simp [hn]

theorem icDrops_rest (sk : Nat) (base : Word) (len : Nat) (cores : List Nat) (s : State) :
    ({ cores.foldl (fun s c => s.icDrop c (s.skeinCtx sk) base len) s with cores := s.cores } : State) = s :=
  List.foldlRecOn (motive := fun t : State => ({ t with cores := s.cores } : State) = s) cores _ rfl (fun _ h _ _ => h)

theorem exec_debugIcinv {base : Word} {len : Nat} (hk : s.skein? sk = some k)
    (hok : base.toNat % 64 = 0 ∧ len ≠ 0 ∧ len % 64 = 0 ∧ len < 2 ^ 32) : exec (.debugIcinv sk base len) s =
      .next ((k.cores.foldl (fun s c => s.icDrop c (s.skeinCtx sk) base len) s).reply true []) := by
  obtain ⟨hbase, hlen, hmult, hlt⟩ := hok
  have hnot : ¬ 2 ^ 32 ≤ len := by omega
  change execDebugIcinv sk base len s = _
  simp only [execDebugIcinv, hk, hbase, hmult, beq_false_of_ne hlen, hnot, bne_self_eq_false, decide_false, Bool.or_self,
    Bool.false_eq_true, if_false]

theorem exec_debugIcinv_refused {base : Word} {len : Nat} (hk : s.skein? sk = some k)
    (hok : ¬ (base.toNat % 64 = 0 ∧ len ≠ 0 ∧ len % 64 = 0 ∧ len < 2 ^ 32)) :
    exec (.debugIcinv sk base len) s = .next (s.reply false []) := by
  have hbad : (base.toNat % 64 != 0 || len == 0 || len % 64 != 0 || decide (2 ^ 32 ≤ len)) = true := by
    simp only [Bool.or_eq_true, bne_iff_ne, beq_iff_eq, decide_eq_true_eq]
    omega
  change execDebugIcinv sk base len s = _
  simp only [execDebugIcinv, hk, hbad, if_true]

theorem debugIcinv_spec {base : Word} {len : Nat} (hk : s.skein? sk = some k)
    (hok : base.toNat % 64 = 0 ∧ len ≠ 0 ∧ len % 64 = 0 ∧ len < 2 ^ 32) :
    ∃ t, exec (.debugIcinv sk base len) s = .next t ∧ t.courses = s.courses ∧ t.mem = s.mem ∧
      ∀ core, (t.core core).icache = if core ∈ k.cores then (s.core core).icache.filter (fun y =>
        !(y.ctx == s.skeinCtx sk && decide (base.toNat ≤ y.line.toNat) && decide (y.line.toNat < base.toNat + len))) else (s.core core).icache := by
  have hrest := icDrops_rest sk base len k.cores s
  refine ⟨_, exec_debugIcinv hk hok, (congrArg State.courses hrest :), (congrArg State.mem hrest :), fun core => ?_⟩
  obtain ⟨-, hlen, -, -⟩ := hok
  exact icDrops_icache hlen sk k.cores s core

/-! ## The trigger, and all of it -/

/-- A stop that ends a step (R418). -/
theorem debugStop_stepOver (hk : s.skein? sk = some k) (hplaced : k.phase = .placed) (hsteps : s.stepsSkein sk = true) (hover : s.stepOver = true)
    (core : Byte) (slot : BitVec 5) (pc : Word) : exec (.debugStop sk { reason := 6, core, slot, pc }) s =
      .next (s.debugStop sk { reason := 6, core, slot, pc } none) := by
  change execDebugStop sk _ s = _
  simp [execDebugStop, hk, hplaced, hsteps, hover]

theorem commands_of_none (hno : s.skein? sk = none) : ∀ i ∈ [Instr.attach (.skein sk), .detach sk, .stop sk, .resume sk, .debugIcinv sk 0 64],
    exec i s = .next (s.reply false []) := by
  simp only [List.forall_mem_cons, List.not_mem_nil, false_implies, implies_true, and_true]
  change execAttach (.skein sk) s = _ ∧ execDetach sk s = _ ∧ execStop sk s = _ ∧ execResume sk s = _ ∧ execDebugIcinv sk 0 64 s = _
  simp [execAttach, execDetach, execStop, execResume, execDebugIcinv, hno]

theorem trigger_spec (s : State) : ∃ t, exec .trigger s = .next t ∧ t.courses = s.courses ∧ t.mem = s.mem ∧
    t.dbg.replies = s.dbg.replies ++ [(true, [])] ∧
    ((∀ t0, s.dbg.pulled = some t0 → t0 + 16000 ≤ s.time.gt) → t.dbg.pulled = some s.time.gt) ∧
    (∀ t0, s.dbg.pulled = some t0 → s.time.gt < t0 + 16000 → t.dbg.pulled = s.dbg.pulled ∧ t.dbg.snapshots = s.dbg.snapshots) := by
  obtain ⟨hleaves, hreplies⟩ := pullTrigger_leaves s 0 2
  refine ⟨(s.pullTrigger 0 2).reply true [], rfl, (congrArg State.courses hleaves :), (congrArg State.mem hleaves :),
    congrArg (· ++ [(true, [])]) hreplies, fun hold => ?_, fun t0 ht0 hrecent => ?_⟩
  · change (s.pullTrigger 0 2).dbg.pulled = some s.time.gt
    rcases pullTrigger_cases s 0 2 with ⟨⟨t0, ht0, hrecent⟩, -⟩ | ⟨-, snapshots, h⟩
    · exact absurd (hold t0 ht0) (by omega)
    · rw [h]
  · change (s.pullTrigger 0 2).dbg.pulled = s.dbg.pulled ∧ (s.pullTrigger 0 2).dbg.snapshots = s.dbg.snapshots
    rcases pullTrigger_cases s 0 2 with ⟨-, h⟩ | ⟨hold, -⟩
    · rw [h]
      exact ⟨rfl, rfl⟩
    · exact absurd (hold t0 ht0) (by omega)

/-- Settles O53: each command of the debug channel, and the stop that ends a step. -/
theorem debugChannel : Obligations.DebugChannel := by
  refine ⟨fun s sk k hk => ⟨?_, ?_, stop_spec hk, resume_spec hk,
      fun hno off n b => ⟨debugRead_refused hk hno off n, debugWrite_refused hk hno off b⟩,
      fun hatt hstop hplaced hsteps h x off n hh hx => ⟨debugRead_part hk hatt hstop hplaced hsteps hh hx,
        fun b => debugWrite_part hk hatt hstop hplaced hsteps hh hx⟩,
      fun base len => ⟨debugIcinv_spec hk, exec_debugIcinv_refused hk⟩, fun hplaced hsteps hover => debugStop_stepOver hk hplaced hsteps hover⟩,
    fun s sk hno => commands_of_none hno, fun _ _ _ _ => rfl, fun s core slot c k hc ho hk hstop hplaced hnone =>
      stepCourse_spec hc ho hk hstop hplaced hnone,
    fun s core i p k hp hk hstop hplaced hnone hs => stepPhase_spec hp hk hstop hplaced hnone hs, trigger_spec⟩
  · change execAttach (.skein sk) s = _
    simp only [execAttach, hk]
  · change execDetach sk s = _
    simp only [execDetach, hk]

end Sys2Proof.Laws
end

section
/-! Integer instructions of the matrix stream (R115, R139, R170, R184): a sequencer reads and writes m registers. -/
namespace Sys2Proof.Laws
open Sys2Proof.Machine Sys2Proof.Safety

/-! ## Instructions that a sequencer may issue (R115, R116) -/

/-- What the static checks of the matrix stream accept is legal there and no vector form. -/
theorem stream_checked {i : Instr} {f : Form} (hf : i.form true = some f) (hwf : i.wellFormed true = true) :
    f.legal.ok true = true ∧ f.c.mod.getLsbD 7 = false := by
  have hcheck : f.check true = none := by simpa [Instr.wellFormed, hf] using hwf
  refine ⟨(check_none hcheck).1, ?_⟩
  unfold Form.check at hcheck
  split at hcheck
  · cases hcheck
  split at hcheck
  · cases hcheck
  next hmod => simp_all

/-- A two-source form that is legal in the matrix stream is an instruction of both streams, over the same operation on W-bit values. -/
theorem twoSource_both {i : Instr} {f : Gen} {rule : TagRule} {op : (W : Nat) → BitVec W → BitVec W → BitVec W}
    (h : twoSource i = some (f, rule, op)) (hwf : i.wellFormed true = true) :
    ∃ o : Nat → Nat → Nat → Nat, (∀ W (x y : BitVec W), BitVec.ofNat W (o W x.toNat y.toNat) = op W x y) ∧ modV f.mod = false ∧
      ∀ s, exec i s = runBoth s i false [] (intTwo f rule o) := by
  cases i <;> simp only [twoSource, Option.some.injEq, Prod.mk.injEq, reduceCtorEq] at h
  all_goals obtain ⟨rfl, rfl, rfl⟩ := h
  all_goals obtain ⟨hlegal, hv⟩ := stream_checked rfl hwf
  case mulh | mulhu | rol => simp [Legal.ok] at hlegal
  case add => exact ⟨opAdd, fun W => opAdd_bv, hv, fun s => rfl⟩
  case sub => exact ⟨opSub, fun W => opSub_bv, hv, fun s => rfl⟩
  case mul => exact ⟨opMul, fun W => opMul_bv, hv, fun s => rfl⟩
  case and => exact ⟨opAnd, fun W => opAnd_bv, hv, fun s => rfl⟩
  case or => exact ⟨opOr, fun W => opOr_bv, hv, fun s => rfl⟩
  case xor => exact ⟨opXor, fun W => opXor_bv, hv, fun s => rfl⟩
  case andn => exact ⟨opAndn, fun W => opAndn_bv, hv, fun s => rfl⟩
  case shl => exact ⟨opShl, fun W => opShl_bv, hv, fun s => rfl⟩
  case shr => exact ⟨opShr, fun W => opShr_bv, hv, fun s => rfl⟩
  case sar => exact ⟨opSar, fun W => opSar_bv, hv, fun s => rfl⟩
  case bfi => exact ⟨opBfi _, fun W => opBfi_bv _, hv, fun s => rfl⟩
  case min => exact ⟨opMin, fun W => opMin_bv, hv, fun s => rfl⟩
  case max => exact ⟨opMax, fun W => opMax_bv, hv, fun s => rfl⟩
  case minu => exact ⟨opMinu, fun W => opMinu_bv, hv, fun s => rfl⟩
  case maxu => exact ⟨opMaxu, fun W => opMaxu_bv, hv, fun s => rfl⟩

/-! ## Scalar results (R170) -/

theorem extendTo_widen (f : Gen) (v : Nat) : extendTo (modSx f.mod) (intWidth f.mod) v = widen f (BitVec.ofNat (intWidth f.mod) v) := by
  rw [extendTo_eq _ _ _ (intWidth_le f.mod).1, widen]

theorem extendTo_immediate (f : Gen) :
    extendTo (modSx f.mod) (intWidth f.mod) (immNat f.imm (intWidth f.mod)) = widen f (immBits f (intWidth f.mod)) := by
  rw [extendTo_widen, immNat_eq _ f rfl _ (intWidth_le f.mod).1, BitVec.ofNat_toNat, BitVec.setWidth_eq]

/-- A scalar two-source form writes its operation on the low W bits of its sources, widened. -/
theorem intTwo_scalar {f : Gen} {rule : TagRule} {o : Nat → Nat → Nat → Nat} {op : (W : Nat) → BitVec W → BitVec W → BitVec W}
    (ho : ∀ W (x y : BitVec W), BitVec.ofNat W (o W x.toNat y.toNat) = op W x y) (hv : modV f.mod = false) (rd : Rd) :
    let W := intWidth f.mod
    intTwo f rule o rd = .ok (Res.word f.dst (widen f (op W ((rd.get f.sa).setWidth W)
      (if modImm f.mod then immBits f W else (rd.get f.sb).setWidth W)))) := by
  simp only [intTwo, hv, Bool.false_eq_true, if_false, extendTo_widen, ← ho, BitVec.toNat_setWidth]
  split
  · rw [immNat_eq _ f rfl _ (intWidth_le f.mod).1]
  · rw [BitVec.toNat_setWidth]

/-! ## A sequencer writes an m register (R139, R184) -/

section
variable {s : State} {core pslot : Nat} {p : Panel} {i : Instr} {rmw : Bool} {folds : List (Reg ⊕ Word)} {f : Rd → Except Stop Res} {dst : Reg}
  {v : Word}

/-- The m registers with one written. -/
def mWritten (p : Panel) (r : Reg) (v : Word) : Vector Word 16 := match r with | .w j => p.m.setIfInBounds j.val v | _ => p.m

theorem wr_eq (p : Panel) (r : Reg) (v : Word) : p.wr r v = { p with m := mWritten p r v } := by cases r <;> rfl

/-- A sequencer issues an instruction of both streams whose result is one word. -/
theorem runBoth_stream (h : Streams s core pslot p) (hf : f p.rd = .ok (Res.word dst v)) :
    ∃ t, runBoth s i rmw folds f = .next t ∧ Sequenced s t core pslot p (mWritten p dst v) (pcNext p.spc) := by
  have hbody (q : Panel) : (Res.word dst v).writes.foldl (fun q (x : Reg × VReg) => q.wr x.1 (x.2.bits.setWidth 64)) q = q.wr dst v := by
    simp [Res.word, VReg.ofWord]
  have hrun : runBoth s i rmw folds f = .next
      ((s.modPanel core pslot (fun q => q.wr dst v)).modPanel core pslot (fun q => { q with spc := pcNext p.spc, swait := .none })) := by
    unfold runBoth
    rw [if_pos (inStream_true h)]
    simp only [runStream, h.focus, h.panel, hf, hbody]
    rw [beyond_faults (u := s.modPanel core pslot (fun q => q.wr dst v)) h rfl]
  have hp : kget s.panels (panelKey core pslot) = some p := h.panel
  refine ⟨_, hrun, ?_, fun k hk => (kget_kmod_ne hk _).trans (kget_kmod_ne hk _), rfl⟩
  change kget (kmod (kmod s.panels _ _) _ _) _ = _
  rw [kget_kmod_self (kget_kmod_self hp _), wr_eq]
end

/-- Settles O13: each form's result on the m registers, written by the sequencer. -/
theorem streamScalars : Obligations.StreamScalars := by
  intro s core pslot p h
  refine ⟨fun i f rule op hi hwf => ?_, fun f _ => runBoth_stream h rfl, fun f _ => ?_⟩
  · obtain ⟨o, ho, hv, hexec⟩ := twoSource_both hi hwf
    rw [hexec]
    exact runBoth_stream h (intTwo_scalar ho hv p.rd)
  · exact runBoth_stream h (congrArg (fun x => Except.ok (Res.word f.dst x)) (extendTo_immediate f))

end Sys2Proof.Laws
end

section
/-! Strands that leave a course (R144, R166, R343, R400): their masks, and the course's barriers and levels as they go. -/
namespace Sys2Proof.Laws
open Sys2Proof.Machine Sys2Proof.Safety

/-! ## Entries without some strands -/

theorem apart_or {a b m : BitVec 16} (ha : a &&& m = 0) (hb : b &&& m = 0) : (a ||| b) &&& m = 0 := by
  apply BitVec.eq_of_getLsbD_eq
  intro i hi
  have hai := congrArg (·.getLsbD i) ha
  have hbi := congrArg (·.getLsbD i) hb
  simp only [BitVec.getLsbD_and, BitVec.getLsbD_or, BitVec.ofNat_eq_ofNat, BitVec.getLsbD_zero] at hai hbi ⊢
  rw [Bool.and_or_distrib_right, hai, hbi, Bool.or_false]

theorem apart_bit {m : BitVec 16} {lane : Nat} (h : m.getLsbD lane = false) : BitVec.ofNat 16 (1 <<< lane) &&& m = 0 := by
  apply BitVec.eq_of_getLsbD_eq
  intro i hi
  rw [BitVec.getLsbD_and, BitVec.getLsbD_ofNat, Nat.one_shiftLeft, Nat.testBit_two_pow]
  by_cases hil : lane = i
  · simp [← hil, h]
  · simp [hil]

theorem apart_lane {a m : BitVec 16} (h : a &&& m = 0) {i : Nat} (hi : a.getLsbD i = true) : m.getLsbD i = false := by
  simpa [hi] using congrArg (·.getLsbD i) h

theorem apart_without (a m : BitVec 16) : (a &&& ~~~m) &&& m = 0 := by
  apply BitVec.eq_of_getLsbD_eq
  intro i hi
  simp [hi]

section
variable {m : BitVec 16}

/-- No entry holds any of some strands. -/
def Clear (m : BitVec 16) (l : List Entry) : Prop := ∀ e ∈ l, e.mask &&& m = 0

theorem groupByPc_clear {l : List (Nat × Word × Half)} (h : ∀ x ∈ l, m.getLsbD x.1 = false) : ∀ g ∈ groupByPc l, g.2.2 &&& m = 0 := by
  induction l with
  | nil => nofun
  | cons x t ih =>
    obtain ⟨lane, pc, prio⟩ := x
    have ih := ih (fun y hy => h y (List.mem_cons_of_mem _ hy))
    have hbit := apart_bit (h (lane, pc, prio) List.mem_cons_self)
    intro g hg
    simp only [groupByPc] at hg
    split at hg
    · next hf =>
      rcases List.mem_cons.1 hg with rfl | hg
      · exact apart_or (ih _ (List.mem_of_find?_eq_some hf)) hbit
      · exact ih g (List.mem_of_mem_filter hg)
    · rcases List.mem_cons.1 hg with rfl | hg
      · exact hbit
      · exact ih g hg

theorem placeGroup_clear {E : Entry} {k : Option Nat} {l : List Entry} {g : Word × Half × BitVec 16} (hl : Clear m l) (hg : g.2.2 &&& m = 0) :
    Clear m (placeGroup E k l g) := by
  obtain ⟨pc, prio, gm⟩ := g
  unfold placeGroup
  dsimp only
  split
  · next f hf =>
    have hfm := hl f (List.mem_of_find?_eq_some hf)
    exact List.forall_mem_cons.2 ⟨apart_or hfm hg, fun e he => hl e (List.mem_of_mem_erase he)⟩
  · refine List.forall_mem_cons.2 ⟨?_, hl⟩
    split <;> split <;> exact hg

/-- The update of R144 gives no entry a strand that neither the entries nor the strands placed hold. -/
theorem updateFrontier_clear {E : Entry} {l : List Entry} {nexts : List (Nat × Word × Half)} {jumped : List Nat} (hl : Clear m (l.erase E))
    (hn : ∀ x ∈ nexts, m.getLsbD x.1 = false) : Clear m (updateFrontier l E nexts jumped) := by
  have hfold : ∀ k, Clear m ((groupByPc nexts).foldl (placeGroup E k) (l.erase E)) := fun k =>
    List.foldlRecOn (motive := Clear m) _ _ hl (fun l hl g hg => placeGroup_clear hl (groupByPc_clear hn g hg))
  intro e he
  exact hfold _ e (mem_sortEntries.1 he)

theorem releaseEntries_clear {level n : Nat} {P : Word32} {l : List Entry} (h : Clear m l) : Clear m (releaseEntries level n P l) := by
  unfold releaseEntries
  refine List.foldlRecOn (motive := Clear m) _ _ h (fun l' hl' e he => ?_)
  refine updateFrontier_clear (fun x hx => hl' x (List.mem_of_mem_erase hx)) (fun x hx => ?_)
  obtain ⟨i, hi, rfl⟩ := List.mem_map.1 hx
  exact apart_lane (h e (List.mem_of_mem_filter he)) (mem_lanesOf.1 hi)

/-- No level of a course holds any of some strands. -/
def Avoids (m : BitVec 16) (c : Course) : Prop := Clear m c.fr0 ∧ Clear m c.fr1 ∧ Clear m c.fr2

theorem Avoids.fr {c : Course} (h : Avoids m c) (l : Nat) : Clear m (c.fr l) := by
  obtain ⟨h0, h1, h2⟩ := h
  unfold Course.fr
  split <;> assumption

theorem Avoids.setFr {c : Course} (h : Avoids m c) {x : List Entry} (hx : Clear m x) (l : Nat) : Avoids m (c.setFr l x) := by
  obtain ⟨h0, h1, h2⟩ := h
  unfold Course.setFr
  split
  · exact ⟨hx, h1, h2⟩
  · exact ⟨h0, hx, h2⟩
  · exact ⟨h0, h1, hx⟩

/-! ## Steps that bring no strand back -/

/-- A course keeps its registers and its strands, and none of some strands comes into its frontiers. -/
structure Steady (m : BitVec 16) (c d : Course) : Prop where
  registers : registers d = registers c
  present   : d.present = c.present
  avoids    : Avoids m c → Avoids m d

/-- Every course keeps its registers and its strands, none of some strands comes into a frontier, and of memory only the rings of the firn
store change. -/
structure Steadily (m : BitVec 16) (s t : State) : Prop where
  courses : ∀ k, Option.Rel (Steady m) (kget s.courses k) (kget t.courses k)
  place   : t.firn.base = s.firn.base ∧ t.firn.size = s.firn.size ∧ t.firn.opsz = s.firn.opsz
  bytes   : MemoryKept s t

theorem Steady.refl (c : Course) : Steady m c c := ⟨rfl, rfl, id⟩

theorem Steady.trans {b c d : Course} (h : Steady m b c) (k : Steady m c d) : Steady m b d :=
  ⟨k.registers.trans h.registers, k.present.trans h.present, fun x => k.avoids (h.avoids x)⟩

variable {s t v : State}

theorem rel_refl (o : Option Course) : Option.Rel (Steady m) o o := by
  cases o with
  | none => exact .none
  | some c => exact .some (Steady.refl c)

theorem rel_trans {o p q : Option Course} (h : Option.Rel (Steady m) o p) (k : Option.Rel (Steady m) p q) : Option.Rel (Steady m) o q := by
  cases h with
  | none => exact k
  | some h =>
    cases k with
    | some k => exact .some (h.trans k)

theorem rel_registers {o p : Option Course} (h : Option.Rel (Steady m) o p) : p.map registers = o.map registers := by
  cases h with
  | none => rfl
  | some h => exact congrArg some h.registers

theorem Undisturbed.steadily (h : Undisturbed s t) : Steadily m s t := ⟨fun k => by rw [h.courses]; exact rel_refl _, h.place, h.bytes⟩

theorem Steadily.refl (s : State) : Steadily m s s := (Halting.refl s).toUndisturbed.steadily

theorem Steadily.trans (h : Steadily m s t) (k : Steadily m t v) : Steadily m s v := by
  obtain ⟨hbase, hsize, hopsz⟩ := h.place
  obtain ⟨kbase, ksize, kopsz⟩ := k.place
  exact ⟨fun i => rel_trans (h.courses i) (k.courses i), ⟨kbase.trans hbase, ksize.trans hsize, kopsz.trans hopsz⟩,
    keptOutside_trans h.bytes h.place k.bytes⟩

theorem Steadily.registersKept (h : Steadily m s t) : RegistersKept s t := fun k => rel_registers (h.courses k)

theorem Steadily.course {core slot : Nat} {c : Course} (h : Steadily m s t) (hc : s.course? core slot = some c) :
    ∃ d, t.course? core slot = some d ∧ Steady m c d := by
  have hrel := h.courses (courseKey core slot)
  rw [show kget s.courses (courseKey core slot) = some c from hc] at hrel
  generalize hd : kget t.courses (courseKey core slot) = o at hrel
  cases hrel with
  | some hsteady => exact ⟨_, hd, hsteady⟩

theorem foldl_steadily {α : Type} {f : State → α → State} {l : List α} (hf : ∀ t, ∀ x ∈ l, Steadily m t (f t x)) : Steadily m s (l.foldl f s) :=
  List.foldlRecOn l f (Steadily.refl s) (fun t ht x hx => ht.trans (hf t x hx))

theorem snd_steadily {α : Type} {x : α × State} {a : α} (e : x = (a, t)) (h : Steadily m s x.2) : Steadily m s t := by rw [e] at h; exact h

theorem modCourse_steadily {core slot : Nat} {f : Course → Course} (hf : ∀ c, Steady m c (f c)) : Steadily m s (s.modCourse core slot f) := by
  refine ⟨fun k => ?_, ⟨rfl, rfl, rfl⟩, fun _ _ => rfl⟩
  by_cases hk : k = courseKey core slot
  · subst hk
    cases hc : kget s.courses (courseKey core slot) with
    | none =>
      rw [State.modCourse, kmod, hc, hc]
      exact .none
    | some c =>
      rw [State.modCourse, kget_kmod_self hc]
      exact .some (hf c)
  · rw [State.modCourse, kget_kmod_ne hk]
    exact rel_refl _

theorem setCourse_steadily {core slot : Nat} {c d : Course} (hc : s.course? core slot = some c) (h : Steady m c d) :
    Steadily m s (s.setCourse core slot d) := by
  refine ⟨fun k => ?_, ⟨rfl, rfl, rfl⟩, fun _ _ => rfl⟩
  by_cases hk : k = courseKey core slot
  · subst hk
    rw [State.setCourse, kget_kset_self, show kget s.courses (courseKey core slot) = some c from hc]
    exact .some h
  · rw [State.setCourse, kget_kset_ne hk]
    exact rel_refl _

/-- A change of work at hand, panels and the fabric. -/
theorem aside_steadily (s : State) (work : WorkState) (panels : KMap Panel) (async : AsyncState) :
    Steadily m s { s with work, panels, async } :=
  Undisturbed.steadily ⟨rfl, ⟨rfl, rfl, rfl⟩, fun _ _ => rfl⟩

theorem emit_steadily (s : State) (e : Ev) : Steadily m s (s.emit e) := (emit_carried s e).undisturbed.steadily

/-! ## Barriers (R343, R345) -/

theorem setBar_steadily (s : State) (u : BarUnit) (n : Nat) (b : Barrier) : Steadily m s (s.setBar u n b) := by
  cases u with
  | course k i => exact modCourse_steadily (fun c => ⟨rfl, rfl, id⟩)
  | panel k i => exact aside_steadily s s.work _ s.async
  | skein i => exact aside_steadily s _ s.panels s.async
  | launch i => exact aside_steadily s _ s.panels s.async

theorem tellJoined_steadily (s : State) (launch n : Nat) (cause : Word32) (departs : Bool) : Steadily m s (s.tellJoined launch n cause departs) := by
  unfold State.tellJoined
  split
  · exact Steadily.refl s
  · exact foldl_steadily (fun t _ _ => aside_steadily t t.work t.panels _)

theorem releaseBar_steady (level n : Nat) (P : Word32) (c : Course) : Steady m c (c.releaseBar level n P) :=
  ⟨rfl, rfl, fun h => ⟨releaseEntries_clear h.1, releaseEntries_clear h.2.1, releaseEntries_clear h.2.2⟩⟩

theorem releaseBar_steadily (s : State) (u : BarUnit) (n : Nat) (P : Word32) : Steadily m s (s.releaseBar u n P) := by
  have hcourses : Steadily m s ((s.unitCourses u).foldl
      (fun s (x : Nat × Nat × Course) => s.modCourse x.1 x.2.1 (Course.releaseBar u.level n P)) s) :=
    foldl_steadily (fun t _ _ => modCourse_steadily (releaseBar_steady _ _ _))
  cases u with
  | panel k i => exact hcourses.trans (aside_steadily _ _ _ _)
  | _ => exact hcourses

theorem completePhase_steadily (s : State) (u : BarUnit) (n : Nat) (b : Barrier) (cause parent : Word32) :
    Steadily m s (s.completePhase u n b cause parent) := by
  unfold State.completePhase
  extract_lets _ _ _ _ _ _ s2
  have h2 : Steadily m s s2 := by
    unfold s2
    split
    · exact (setBar_steadily s u n _).trans (emit_steadily _ _)
    · exact setBar_steadily s u n _
  exact h2.trans (releaseBar_steadily _ _ _ _)

theorem evalOnce_steadily (s : State) (u : BarUnit) (n : Nat) (first cause parent : Word32) :
    Steadily m s (s.evalOnce u n first cause parent).2 := by
  unfold State.evalOnce
  split
  · exact Steadily.refl s
  extract_lets _ _ _ _ tell _ s1 s2
  clear_value tell
  have h2 : Steadily m s s2 := by
    unfold s2
    split
    · exact (setBar_steadily s _ n _).trans (tellJoined_steadily _ _ _ _ _)
    · exact setBar_steadily s _ n _
  split
  · exact h2.trans (completePhase_steadily _ _ _ _ _ _)
  · exact h2

theorem evalCarried_steadily (s : State) (u : BarUnit) (n fuel : Nat) : Steadily m s (s.evalCarried u n fuel) := by
  induction fuel generalizing s with
  | zero => exact Steadily.refl s
  | succ fuel ih =>
    unfold State.evalCarried
    split
    · exact Steadily.refl s
    dsimp only
    split
    · next e => exact (snd_steadily e (evalOnce_steadily s u n _ _ _)).trans (ih _)
    · next e => exact snd_steadily e (evalOnce_steadily s u n _ _ _)

theorem evalBar_steadily (s : State) (u : BarUnit) (n : Nat) (cause parent : Word32) (fuel : Nat) :
    Steadily m s (s.evalBar u n cause parent fuel) := by
  unfold State.evalBar
  split
  · exact Steadily.refl s
  split
  · next e => exact (snd_steadily e (evalOnce_steadily s u n _ _ _)).trans (evalCarried_steadily _ _ _ _)
  · next e => exact snd_steadily e (evalOnce_steadily s u n _ _ _)

theorem evalAll_steadily (s : State) (u : BarUnit) (cause parent : Word32) : Steadily m s (s.evalAll u cause parent) :=
  foldl_steadily (fun t n _ => evalBar_steadily t u n cause parent 3)

theorem departAll_steadily (s : State) (u : BarUnit) (party : Nat) (counted : Nat → Bool) (cause parent : Word32) :
    Steadily m s (s.departAll u party counted cause parent) := by
  refine foldl_steadily (fun t n _ => ?_)
  split
  · exact Steadily.refl t
  split
  · exact Steadily.refl t
  · exact (setBar_steadily _ _ _ _).trans (evalBar_steadily _ _ _ _ _ _)

theorem strandsDepart_steadily (s : State) (core slot : Nat) (lanes : List Nat) (cause parent : Word32) :
    Steadily m s (s.strandsDepart core slot lanes cause parent) := by
  unfold State.strandsDepart
  extract_lets s1
  have h1 : Steadily m s s1 := foldl_steadily (fun t i _ => departAll_steadily t _ i _ cause parent)
  split
  · exact h1
  split
  · exact ((h1.trans (departAll_steadily _ _ _ _ _ _)).trans (evalAll_steadily _ _ _ _)).trans (evalAll_steadily _ _ _ _)
  · exact ((h1.trans (evalAll_steadily _ _ _ _)).trans (evalAll_steadily _ _ _ _)).trans (evalAll_steadily _ _ _ _)

/-! ## A level that empties (R400) -/

theorem moveReturning_nobody (l : List Entry) (pc : Word) (prio : Half) : moveReturning l 0 pc prio = l := by
  simp [moveReturning]

theorem setFr_present (c : Course) (l : Nat) (x : List Entry) : (c.setFr l x).present = c.present := by
  unfold Course.setFr
  split <;> rfl

theorem registers_setFr (c : Course) (l : Nat) (x : List Entry) : registers (c.setFr l x) = registers c := by
  simp [registers]

theorem setFr_fr (c : Course) (l : Fin 3) : c.setFr l.val (c.fr l.val) = c := by
  match l with
  | 0 => rfl
  | 1 => rfl
  | 2 => rfl

theorem popLevel_steadily (s : State) (core slot : Nat) : Steadily m s (s.popLevel core slot 0) := by
  unfold State.popLevel
  split
  · exact Steadily.refl s
  next c hc =>
  extract_lets b low c0 c1 c2 c3 s1 s2
  have hfront (d : Course) : d.setFront d.front = d := by
    unfold Course.setFront Course.front
    exact setFr_fr d d.level
  have h2 : c2 = c1 := by
    unfold c2
    rw [moveReturning_nobody, hfront, ite_self]
  have hsteady : Steady m c c3 := by
    refine ⟨?_, ?_, fun h => ?_⟩
    · change registers c2 = _
      rw [h2]
      exact registers_setFr c c.level.val []
    · change c2.present = _
      rw [h2]
      exact setFr_present c c.level.val []
    · change Avoids m c2
      rw [h2]
      exact h.setFr (m := m) (x := []) nofun _
  have hs1 : Steadily m s s1 := setCourse_steadily hc hsteady
  have hs2 : Steadily m s s2 := by
    unfold s2
    split
    · exact hs1.trans (aside_steadily _ _ _ _)
    · exact hs1
  exact hs2.trans (emit_steadily _ _)

/-! ## Strands leave (R144, R166) -/

/-- A course without some strands. -/
def Course.leftBy (c : Course) (m : BitVec 16) (now : Nat) : Course :=
  let out (l : List Entry) : List Entry := (l.map (fun e => { e with mask := e.mask &&& ~~~m })).filter (fun e => e.mask != 0)
  let left := c.present &&& ~~~m
  { c with present := left, fr0 := out c.fr0, fr1 := out c.fr1, fr2 := out c.fr2, exitAt := if left == 0 then now else c.exitAt }

theorem leftBy_avoids (c : Course) (m : BitVec 16) (now : Nat) : Avoids m (Course.leftBy c m now) := by
  have hout (l : List Entry) : Clear m ((l.map (fun e => { e with mask := e.mask &&& ~~~m })).filter (fun e => e.mask != 0)) := by
    intro e he
    obtain ⟨e', -, rfl⟩ := List.mem_map.1 (List.mem_of_mem_filter he)
    exact apart_without e'.mask m
  exact ⟨hout _, hout _, hout _⟩

/-- The course loses the strands, and what follows brings none of them back. -/
theorem strandsLeave_steadily {core slot : Nat} {lanes : List Nat} {c : Course} (hc : s.course? core slot = some c) :
    Steadily m (s.setCourse core slot (Course.leftBy c (maskOf lanes) s.time.gt)) (s.strandsLeave core slot lanes) := by
  unfold State.strandsLeave
  split
  · next hnone => cases hc.symm.trans hnone
  next c' hc' =>
  obtain rfl : c' = c := Option.some.inj (hc'.symm.trans hc)
  extract_lets gone out left c1 cause parent s1 s2 s3
  have h1 : Steadily m s1 s2 := by
    unfold s2
    split
    · exact popLevel_steadily _ _ _
    · exact Steadily.refl _
  have h2 : Steadily m s2 s3 := by
    unfold s3
    split
    · split
      · exact popLevel_steadily _ _ _
      · exact Steadily.refl _
    · exact Steadily.refl _
  exact (h1.trans h2).trans (strandsDepart_steadily _ _ _ _ _ _)
end

/-- Where an instruction transfers nobody, its entry goes on without bringing a strand that it does not hold. -/
theorem advance_steady {m : BitVec 16} {E : Entry} {e : Eff} (hE : E.mask &&& m = 0) (hj : e.jumps = []) (hw : e.wait = none) (c : Course) :
    Steady m c (c.advance E e) := by
  obtain ⟨l, hl⟩ := advance_eq c E e
  refine ⟨hl ▸ registers_setFr c c.level.val l, hl ▸ setFr_present c c.level.val l, fun h => ?_⟩
  · unfold Course.advance
    simp only [hw, hj]
    refine h.setFr (updateFrontier_clear ?_ ?_) _
    · rw [List.erase_cons_head]
      have hrest : Clear m (c.front.erase E) := fun x hx => h.fr _ x (List.mem_of_mem_erase hx)
      split
      · intro x hx
        obtain ⟨y, hy, rfl⟩ := List.mem_map.1 hx
        exact hrest y hy
      · exact hrest
    · intro x hx
      obtain ⟨i, hi, rfl⟩ := List.mem_map.1 hx
      exact apart_lane hE (mem_lanesOf.1 hi)

section
variable {s : State} {I : Iss} {i : Instr} {req : List Reg} {rmw : Bool}

theorem setCourse_registersKept {core slot : Nat} {c d : Course} (hc : s.course? core slot = some c) (h : registers d = registers c) :
    RegistersKept s (s.setCourse core slot d) := by
  intro k
  by_cases hk : k = courseKey core slot
  · subst hk
    rw [State.setCourse, kget_kset_self, show kget s.courses (courseKey core slot) = some c from hc, Option.map_some, Option.map_some, h]
  · rw [State.setCourse, kget_kset_ne hk]

theorem passed_kept (h : s.course? I.core I.slot = some I.c) : RegistersKept s (passed s I) ∧ MemoryKept s (passed s I) ∧ (passed s I).firn = s.firn := by
  unfold passed
  split
  · exact ⟨setCourse_registersKept h rfl, fun _ _ => rfl, rfl⟩
  · exact ⟨fun _ => rfl, fun _ _ => rfl, rfl⟩

/-- An effect by which all executing strands leave: its state differs from the issuing one in the course's control part alone. -/
theorem complete_left {e : Eff} {c : Course} (h : Issues s i rmw req I) (hown : e.s.course? I.core I.slot = some c)
    (hstart : RegistersKept s e.s ∧ MemoryKept s e.s ∧ e.s.firn = s.firn) (hpresent : c.present = I.c.present) (horphan : c.orphan = none)
    (hfaults : ∀ p ∈ e.s.async.faults, p.2.who ≠ .course I.core I.slot I.E.pc) (hleave : e.leave = I.lanes)
    (hpopped : e.popped = false) (harrive : e.arrive = none) (hhits : e.hits = []) (hj : e.jumps = []) (hw : e.wait = none) :
    Left s (State.complete I e) I I.lanes := by
  let m := maskOf I.lanes
  let E := { I.E with mask := I.E.mask &&& ~~~m }
  let s0 := e.s.setCourse I.core I.slot (Course.leftBy c m e.s.time.gt)
  let u := e.s.strandsLeave I.core I.slot I.lanes
  have hcomplete : State.complete I e = if E.mask == 0 then u else u.modCourse I.core I.slot (·.advance E e) := by
    have hfo : (if e.s.async.faults.isEmpty then e.s else e.s.faultOver (.course I.core I.slot I.E.pc)) = e.s := by
      split
      · rfl
      · exact faultOver_none hfaults
    have hne : I.lanes.isEmpty = false := by simpa using h.some
    unfold State.complete
    simp only [hfo, hown, horphan, Option.isSome_none, hpopped, hleave, harrive, hhits, hne, List.isEmpty_nil, Bool.false_eq_true, if_false, if_true]
    rfl
  have hon : Steadily m s0 (State.complete I e) := by
    rw [hcomplete]
    have hu : Steadily m s0 u := strandsLeave_steadily hown
    split
    · exact hu
    · exact hu.trans (modCourse_steadily (advance_steady (apart_without I.E.mask m) hj hw))
  obtain ⟨hregs, hmem, hfirn⟩ := hstart
  have hregs0 : RegistersKept e.s s0 := setCourse_registersKept hown rfl
  obtain ⟨d, hd, hsteady⟩ := hon.course (course?_setCourse e.s I.core I.slot (Course.leftBy c m e.s.time.gt))
  refine ⟨registersKept_trans (registersKept_trans hregs hregs0) hon.registersKept,
    keptOutside_trans (t := s0) hmem (by rw [← hfirn]; exact ⟨rfl, rfl, rfl⟩) hon.bytes, d, hd, ?_, fun l _ => ?_⟩
  · rw [hsteady.present, ← hpresent]
    rfl
  · exact (hsteady.avoids (leftBy_avoids c m _)).fr l

theorem exit_left {f : Gen} (h : Issues s (.exit f) false [] I) : ∃ t, exec (.exit f) s = .next t ∧ Left s t I I.lanes :=
  ⟨_, runCourse_ok (body := fun I s => (s, .ok { s, leave := I.lanes })) h rfl, complete_left (e := { s := passed s I, leave := I.lanes }) h (passed_course h.course) (passed_kept h.course) rfl h.live
    (passed_faults h) rfl rfl rfl rfl rfl rfl⟩

/-- Strands at call depth zero leave, one after another, and change nothing. -/
theorem eachState_bottom {lanes : List Nat} (hd : ∀ i ∈ lanes, (I.c.st i).depth = 0) :
    Iss.eachState lanes s (fun s i => s.retStrand I i) = (s, .ok (lanes.map (fun i => (i, .leave)))) := by
  have hfold (acc : List (Nat × Except Stop RetEff)) :
      lanes.foldl (inTurn (fun s i => s.retStrand I i)) (s, acc) = (s, acc ++ lanes.map (fun i => (i, .ok .leave))) := by
    induction lanes generalizing acc with
    | nil => simp
    | cons i l ih =>
      have hi : inTurn (fun s i => s.retStrand I i) (s, acc) i = (s, acc ++ [(i, .ok .leave)]) := by
        rw [inTurn, retStrand_bottom (hd i List.mem_cons_self)]
      rw [List.foldl_cons, hi, ih (fun j hj => hd j (List.mem_cons_of_mem _ hj))]
      simp
  rw [eachState_eq, hfold, together]
  simp [List.filterMap_map, combineStops]

theorem ret_left {f : Gen} (h : Issues s (.ret f) false [] I) (hd : ∀ i ∈ I.lanes, (I.c.st i).depth = 0) :
    ∃ t, exec (.ret f) s = .next t ∧ Left s t I I.lanes := by
  let u := (passed s I).putStrands I []
  have hx : exec (.ret f) s = .next (State.complete I { s := u, leave := I.lanes }) := by
    change execRet f s = _
    unfold execRet
    refine runCourse_ok h (s2 := u) ?_
    rw [eachState_bottom hd]
    simp [List.filterMap_map, u]
  have hp := passed_course h.course
  obtain ⟨hregs, hmem, hfirn⟩ := passed_kept h.course
  refine ⟨_, hx, complete_left (e := { s := u, leave := I.lanes }) h (kget_kmod_self hp _)
    ⟨registersKept_trans hregs (modCourse_registersKept (fun _ => rfl)), hmem, hfirn⟩ rfl h.live (passed_faults h) rfl rfl rfl rfl rfl rfl⟩
end

end Sys2Proof.Laws
end

section
/-! Control instructions that go on (R159, R163, R167, R168), and EXIT and RET where strands leave (R165, R166). -/
namespace Sys2Proof.Laws
open Sys2Proof.Machine Sys2Proof.Safety

section
variable {s : State} {I : Iss} {i : Instr} {req : List Reg} {rmw : Bool}

/-- A body that does nothing: the strands go on. -/
theorem runCourse_nothing {body : Iss → State → Ran} (h : Issues s i rmw req I) (hx : exec i s = runCourse s i rmw req body)
    (hb : body I (passed s I) = (passed s I, .ok { s := passed s I })) : Passes s i I I.c (fun _ => pcNext I.E.pc) s := by
  obtain ⟨t, c, ht, hmoves, hregs, hrest⟩ := complete_passes h (hx.trans (runCourse_ok h hb)) rfl
    (fun p hp => ⟨p, (passed_async s I) ▸ hp, rfl⟩)
  exact ⟨t, c, ht, hmoves, hregs, hrest.trans (passed_quiet s I)⟩

/-- An effect that changes only what YIELD and RGN set of its course completes with that and its strands' moves. -/
theorem complete_set {e : Eff} {yielding : Nat} {staged : BitVec 24} (h : Issues s i rmw req I) (hx : exec i s = .next (State.complete I e))
    (hcourses : e.s.courses = kset (passed s I).courses (courseKey I.core I.slot) { passedCourse I.c with yielding, staged })
    (hfaults : ∀ p ∈ e.s.async.faults, p.2.who ≠ .course I.core I.slot I.E.pc) (hpopped : e.popped = false) (hleave : e.leave = [])
    (harrive : e.arrive = none) (hhits : e.hits = []) (hwait : e.wait = none) :
    Passes s i I { I.c with yielding, staged } (goesTo I.E e.jumps) e.s := by
  let J : Iss := { I with c := { I.c with yielding, staged } }
  have hown : e.s.course? I.core I.slot = some (passedCourse J.c) := by
    rw [State.course?, hcourses]
    exact kget_kset_self _ _ _
  have hothers (k : Nat) (hk : k ≠ courseKey I.core I.slot) : kget e.s.courses k = kget (s.setCourse I.core I.slot J.c).courses k := by
    rw [hcourses, kget_kset_ne hk, passed_others s I hk]
    exact (kget_kset_ne hk _).symm
  obtain ⟨c, hmoves, hkreg, hstrands, hcomplete⟩ := complete_moves (I := J) hothers hown (course?_setCourse ..) h.live rfl hfaults hpopped hleave
    harrive hhits hwait
  have hsame : State.complete I e = State.complete J e :=
    (complete_plain hown h.live hfaults hpopped hleave harrive hhits).trans
      (complete_plain (I := J) hown h.live hfaults hpopped hleave harrive hhits).symm
  refine ⟨State.complete J e, c, by rw [hx, hsame], ⟨hmoves.course, fun k hk => ?_, hmoves.next, hmoves.stay, hmoves.levels, hmoves.passes, hmoves.rest⟩,
    ⟨hkreg, hstrands⟩, ?_⟩
  · exact (hmoves.others k hk).trans (kget_kset_ne hk _)
  · rw [hcomplete]
    rfl
end

section
variable {s : State} {I : Iss} {f : Gen}

theorem kmod_of_kget {α : Type} {m : KMap α} {k : Nat} {a : α} (h : kget m k = some a) (f : α → α) : kmod m k f = kset m k (f a) := by
  simp [kmod, h]

/-- What YIELD does to the state: nothing for 0 clocks. -/
def yielded (f : Gen) (I : Iss) (s : State) : State :=
  let n := bitsOf f.imm.toNat 7 0
  if n == 0 then s else
    (s.modCourse I.core I.slot (fun c => { c with yielding := n })).laterAt (s.time.gt + n * s.clockGt) (.yieldExpiry I.core I.slot)

theorem exec_yield (f : Gen) (s : State) :
    exec (.yield f) s = runCourse s (.yield f) false [] (fun I s => (s, .ok { s := yielded f I s })) := rfl

theorem yielded_zero (hn : bitsOf f.imm.toNat 7 0 = 0) : yielded f I s = s := by
  simp [yielded, hn]

/-- YIELD for N clocks, N not 0 (R167). -/
theorem yield_passes (h : Issues s (.yield f) false [] I) (hn : bitsOf f.imm.toNat 7 0 ≠ 0) :
    Passes s (.yield f) I { I.c with yielding := bitsOf f.imm.toNat 7 0 } (fun _ => pcNext I.E.pc)
      (s.laterAt (s.time.gt + bitsOf f.imm.toNat 7 0 * s.clockGt) (.yieldExpiry I.core I.slot)) := by
  have hyielded : yielded f I (passed s I) = ((passed s I).modCourse I.core I.slot (fun c => { c with yielding := bitsOf f.imm.toNat 7 0 })).laterAt
      ((passed s I).time.gt + bitsOf f.imm.toNat 7 0 * (passed s I).clockGt) (.yieldExpiry I.core I.slot) := by
    simp [yielded, hn]
  have hx : exec (.yield f) s = .next (State.complete I { s := yielded f I (passed s I) }) := (exec_yield f s).trans (runCourse_ok h rfl)
  rw [hyielded] at hx
  obtain ⟨t, c, ht, hmoves, hregs, hrest⟩ := complete_set (yielding := bitsOf f.imm.toNat 7 0) (staged := I.c.staged) h hx
    (kmod_of_kget (passed_course h.course) _) (passed_faults h) rfl rfl rfl rfl rfl
  refine ⟨t, c, ht, hmoves, hregs, hrest.trans ?_⟩
  unfold passed
  split <;> rfl

/-- RGN (R168). -/
theorem rgn_passes (h : Issues s (.rgn f) false [] I) :
    Passes s (.rgn f) I { I.c with staged := f.imm.setWidth 24 } (fun _ => pcNext I.E.pc) s := by
  let u := (passed s I).modCourse I.core I.slot (fun c => { c with staged := BitVec.ofNat 24 f.imm.toNat })
  have hx : exec (.rgn f) s = .next (State.complete I { s := u }) := by
    change execRgn f s = _
    exact runCourse_ok h (s2 := u) rfl
  have himm : f.imm.setWidth 24 = BitVec.ofNat 24 f.imm.toNat := by
    apply BitVec.eq_of_toNat_eq
    simp
  rw [himm]
  obtain ⟨t, c, ht, hmoves, hregs, hrest⟩ := complete_set (yielding := I.c.yielding) h hx (kmod_of_kget (passed_course h.course) _) (passed_faults h)
    rfl rfl rfl rfl rfl
  exact ⟨t, c, ht, hmoves, hregs, hrest.trans (passed_quiet s I)⟩
end

/-- Settles O14: an empty body lets the strands go on, YIELD and RGN set their part of the course, and strands that leave do so for good. -/
theorem plainControl : Obligations.PlainControl := by
  refine ⟨⟨fun f s I h => ?_, fun f s core pslot p h => ?_, fun f s I h => runCourse_nothing (body := fun _ s => (s, .ok { s })) h rfl rfl,
      fun f s I h => ?_, fun f s I h => rgn_passes h⟩,
    fun f s I h => exit_left h, fun f s I h hd => ret_left h hd⟩
  · refine runCourse_nothing h (body := fun _ s => (s, .ok { s })) ?_ rfl
    change execNop f s = _
    simp [execNop, inStream_false h]
  · have hx : exec (.nop f) s = runStream s (fun _ _ _ s => .done s) := by
      change execNop f s = _
      simp [execNop, inStream_true h]
    rw [hx]
    exact runStream_done h rfl rfl rfl
  · extract_lets n
    split
    · next hn => exact runCourse_nothing h (exec_yield f s) (by rw [yielded_zero hn])
    · next hn => exact yield_passes h hn

end Sys2Proof.Laws
end

section
/-! Cross-strand instructions (R141, R157, R231 to R235): every executing strand's own value, and UNIFORM where a shared destination's differ. -/
namespace Sys2Proof.Laws
open Sys2Proof.Machine Sys2Proof.Safety

/-! ## A form whose executing strands each write a value of their own -/

section
variable {s : State} {I : Iss} {i : Instr} {req : List Reg} {dst : Reg} {v : Nat → VReg}

/-- What the executing strands store, each its own value, also under U. -/
theorem store_own {rmw : Bool} {c : Course} {u : State} (h : Issues s i rmw req I) (hc : u.course? I.core I.slot = some c)
    (hu : OneValue (own I) dst v) :
    ∃ c', (own I).store u (I.lanes.map (fun j => (j, { writes := [(dst, v j)] }))) = .ok (u.setCourse I.core I.slot c') ∧
      Stored c c' I.lanes dst v (v I.leader) (fun _ => 0) := by
  obtain ⟨hlt, hnodup, -⟩ := lanes_lt h
  let x (j : Nat) : Res := { writes := [(dst, v j)] }
  refine ⟨I.lanes.foldl (fun c j => c.apply j (x j)) c, ?_, foldl_stored I.lanes c dst v (v I.leader) (fun _ => 0) x hlt hnodup
    (fun _ _ => ⟨rfl, rfl⟩) hu⟩
  have hagree : sharedDiffer (I.lanes.map (fun j => (j, x j))) = none :=
    sharedDiffer_none (dst := dst) (v := v) (fun _ _ => rfl) (fun hs j hj k hk => (hu hs j hj).trans (hu hs k hk).symm)
  have hcount (t : State) (l : Option Nat) : t.countStats l [] = t := by cases l <;> rfl
  have hnone : (I.lanes.map (fun j => (j, x j))).flatMap (fun y => y.2.counts) = [] := by simp [List.flatMap_map, x]
  change (own I).store u (I.lanes.map (fun j => (j, x j))) = _
  unfold Iss.store
  simp only [own, Bool.false_eq_true, if_false, hagree, hnone, hcount, List.foldl_map]
  rw [State.modCourse, kmod_of_kget (show kget u.courses (courseKey I.core I.slot) = some c from hc)]
  rfl

/-- A cross-strand form that fails in no strand. -/
theorem runCross_yields {folds : List Reg} {f : Iss → Nat → Except Stop Res} (h : Issues s i false req I)
    (hf : ∀ j ∈ I.lanes, f (own I) j = .ok { writes := [(dst, v j)] }) (hu : OneValue (own I) dst v) :
    ∃ t c, runCross s i req folds f = .next t ∧ Moves s t I c (fun _ => pcNext I.E.pc) ∧ Wrote (own I) c dst v ∧ Quiet s t := by
  obtain ⟨c1, hstore, hstored⟩ := store_own h (passed_course h.course) hu
  let e : Eff := { s := (passed s I).setCourse I.core I.slot c1, folds := (own I).foldVals (folds.map .inl) }
  have hrun : runCross s i req folds f = .next (State.complete I e) := by
    unfold runCross
    refine runCourse_ok h (s2 := passed s I) ?_
    have heach := each_ok (I := own I) (f := fun j => f (own I) j) hf
    change (own I).each _ = .ok (I.lanes.map _) at heach
    unfold own at heach hstore
    simp only [heach, hstore]
    rfl
  obtain ⟨c2, hmoves, hkreg, hstrands, hcomplete⟩ := complete_moves (s := s) (I := I) (e := e) (c := c1)
    (fun k hk => (kget_kset_ne hk _).trans (passed_others s I hk)) (course?_setCourse ..) h.course h.live hstored.course (passed_faults h)
    rfl rfl rfl rfl rfl
  refine ⟨_, c2, hrun, hmoves, stored_wrote (I := own I) (c0 := passedCourse I.c) ⟨rfl, rfl⟩ ⟨hkreg, hstrands⟩ h.some hstored, ?_⟩
  rw [hcomplete]
  exact passed_quiet s I
end

/-! ## What the forms move (R231, R232) -/

section
variable {I : Iss} {r : Reg} {lane u : Nat}

theorem moved_ok (h : (∃ i, r = .v i) → ((I.c.rd lane).vec r).tag ≠ 0) : (own I).moved r lane u = .ok (I.c.whole u r) := by
  cases r with
  | v i =>
    have htag : ((I.c.st lane).vreg i.val).tag ≠ 0 := h ⟨i, rfl⟩
    simp only [Iss.moved, own, beq_eq_false_iff_ne.2 htag]
    rfl
  | _ => rfl

theorem shufSource_eq (f : Gen) : shufSource f (own I) lane =
    (let d := bitsOf f.imm.toNat 3 0
     let u : Int := match bitsOf f.mod.toNat 6 5 with
       | 0 => ((I.c.read lane f.sb).toNat % 16 : Nat)
       | 1 => (lane : Int) - d
       | 2 => (lane : Int) + d
       | _ => (lane ^^^ d : Nat)
     if u.toNat ∈ I.lanes ∧ 0 ≤ u ∧ u < 16 then u.toNat else lane) := by
  unfold shufSource
  extract_lets d u
  refine if_congr ?_ rfl rfl
  simp only [Bool.and_eq_true, decide_eq_true_eq, List.contains_iff_mem, own]
  tauto
end

/-! ## Votes (R234, R235) -/

/-- Bits placed each at its own position. -/
theorem testBit_placed (b : Nat → Bool) (n i : Nat) :
    ((List.range n).map (fun j => if b j then 2 ^ j else 0)).sum < 2 ^ n ∧
      ((List.range n).map (fun j => if b j then 2 ^ j else 0)).sum.testBit i = (decide (i < n) && b i) := by
  induction n with
  | zero => simp
  | succ n ih =>
    obtain ⟨hlt, hbit⟩ := ih
    rw [List.range_succ, List.map_append, List.sum_append, List.map_singleton, List.sum_singleton, Nat.pow_succ]
    generalize ((List.range n).map (fun j => if b j then 2 ^ j else 0)).sum = x at *
    have hsum : x + (if b n then 2 ^ n else 0) = 2 ^ n * (b n).toNat + x := by cases b n <;> simp [Nat.add_comm]
    rw [hsum]
    refine ⟨by cases b n <;> simp <;> omega, ?_⟩
    rw [Nat.testBit_two_pow_mul_add _ hlt]
    split
    · next hi => rw [hbit, decide_eq_true hi, decide_eq_true (Nat.lt_succ_of_lt hi)]
    · next hi =>
      by_cases hin : i = n
      · subst hin
        cases b i <;> simp
      · have hbeyond : (b n).toNat < 2 ^ (i - n) :=
          lt_of_lt_of_le (Bool.toNat_lt (b n)) (Nat.pow_le_pow_right (n := 2) (by decide) (by omega : 1 ≤ i - n))
        rw [Nat.testBit_lt_two_pow hbeyond]
        simp [show ¬ i < n + 1 by omega]

/-- A mask of strands as a scalar result. -/
theorem ofWord_maskOf {l : List Nat} (hl : ∀ j ∈ l, j < 16) (p : Nat → Bool) :
    VReg.ofWord ((maskOf (l.filter p)).setWidth 64) = bitSet 16 (fun u => decide (u ∈ l) && p u) := by
  unfold bitSet
  refine congrArg VReg.ofWord (BitVec.eq_of_getLsbD_eq fun i hi => ?_)
  rw [BitVec.getLsbD_ofNat, (testBit_placed _ 16 i).2, BitVec.getLsbD_setWidth]
  by_cases h : i < 16
  · rw [maskOf_bit _ (fun j hj => hl j (List.mem_of_mem_filter hj)) i h]
    simp [hi, h]
  · rw [BitVec.getLsbD_of_ge _ _ (by omega)]
    simp [h]

theorem lowBits_beq (I : Iss) (r : Reg) (n u w : Nat) :
    ((I.c.read u r).toNat % 2 ^ n == (I.c.read w r).toNat % 2 ^ n) = (lowBits I u r n == lowBits I w r n) := by
  rw [Bool.eq_iff_iff, beq_iff_eq, beq_iff_eq, lowBits, lowBits, ← BitVec.toNat_inj, BitVec.toNat_setWidth, BitVec.toNat_setWidth]

/-! ## Reductions and scans (R233) -/

section
variable {f : Gen} {I : Iss}

theorem crossElems_length (f : Gen) (I : Iss) (u w : Nat) : (crossElems f I u).length = (crossElems f I w).length := by
  unfold crossElems
  cases f.sa <;> simp [vecLanes]

theorem crossElems_get {u w j : Nat} (hj : j < (crossElems f I w).length) : (crossElems f I u)[j]? = some (crossElement f I u j) := by
  rw [crossElems_length f I w u] at hj
  unfold crossElems at hj ⊢
  unfold crossElement
  cases hr : f.sa with
  | v i =>
    simp only [hr, vecLanes, List.length_map, List.length_range] at hj ⊢
    rw [List.getElem?_map, List.getElem?_range hj, Option.map_some, laneOf_eq]
    rfl
  | _ =>
    simp only [hr, List.length_singleton] at hj ⊢
    obtain rfl : j = 0 := by omega
    simp [lowBits]

theorem crossTag_ok {lane : Nat} (h : (∃ i, f.sa = .v i) → ((I.c.rd lane).vec f.sa).tag = fpT f.mod) : crossTag f (own I) lane = .ok () := by
  unfold crossTag
  split
  · next i hi => simp [needTag, own, h ⟨i, hi⟩]
  · rfl

/-- The result that a cross-strand reduction writes from its elements. -/
theorem crossRes_eq (f : Gen) (I : Iss) (lane : Nat) {g e : Nat → Nat} (h : ∀ j < (crossElems f I lane).length, g j = e j) :
    crossRes f ((List.range (crossElems f I lane).length).map g) = { writes := [(f.dst, crossValue f e)] } := by
  rw [List.map_congr_left (fun j hj => h j (List.mem_range.1 hj))]
  unfold crossRes crossValue crossElems
  cases hr : f.sa with
  | v i =>
    simp only [vecLanes, List.length_map, List.length_range]
    rw [vecOfLanes_vector _ _ (fun j => BitVec.ofNat _ (e j)) (fun _ _ => rfl)]
    rfl
  | _ => simp [Res.word]

variable {lane : Nat}

theorem xred_element (f : Gen) (I : Iss) {j : Nat} (hj : j < (crossElems f (own I) lane).length) :
    (redTree (fpT f.mod) (vecOp f.mod) (((List.range 16).map (fun u => if (own I).lanes.contains u then some (crossElems f (own I) u) else none)).map
        (fun e => e.bind (·[j]?)))).1 =
      (redTree (fpT f.mod) (vecOp f.mod) ((List.range 16).map (fun u => if u ∈ I.lanes then some (crossElement f I u j) else none))).1 := by
  rw [List.map_map]
  congr 2
  apply List.map_congr_left
  intro u _
  by_cases hu : u ∈ I.lanes
  · have hget : (crossElems f (own I) u)[j]? = some (crossElement f I u j) := crossElems_get (I := own I) hj
    simp [own, hu] at hget ⊢
    exact hget
  · simp [own, hu]

theorem xscn_element (f : Gen) (I : Iss) (l : List Nat) {j : Nat} (hj : j < (crossElems f (own I) lane).length) :
    l.map (fun u => (true, ((crossElems f (own I) u)[j]?).getD 0)) = l.map (fun u => (true, crossElement f I u j)) := by
  apply List.map_congr_left
  intro u _
  rw [crossElems_get (I := own I) hj]
  rfl
end

/-! ## The forms -/

section
variable {s : State} {I : Iss} {f : Gen}

theorem xshf_yields (h : Issues s (.xshf f) false [] I) (hraw : ∀ lane ∈ I.lanes, (∃ i, f.sa = .v i) → ((I.c.rd lane).vec f.sa).tag ≠ 0)
    {v : Nat → VReg} (hv : ∀ lane, I.c.whole (shufSource f (own I) lane) f.sa = v lane) (hu : OneValue (own I) f.dst v) :
    ∃ t c, exec (.xshf f) s = .next t ∧ Moves s t I c (fun _ => pcNext I.E.pc) ∧ Wrote (own I) c f.dst v ∧ Quiet s t := by
  change ∃ t c, execXshf f s = .next t ∧ _
  refine runCross_yields h (fun lane hlane => ?_) hu
  rw [moved_ok (hraw lane hlane), hv]

theorem xbrd_yields (h : Issues s (.xbrd f) false (if modI5 f.mod then [] else [f.sb]) I)
    (hraw : ∀ lane ∈ I.lanes, (∃ i, f.sa = .v i) → ((I.c.rd lane).vec f.sa).tag ≠ 0) {v : Nat → VReg}
    (hv : ∀ lane, I.c.whole (let u := if modI5 f.mod then bitsOf f.imm.toNat 3 0 else (I.c.read I.leader f.sb).toNat
      if u ∈ I.lanes then u else I.leader) f.sa = v lane) (hu : OneValue (own I) f.dst v) :
    ∃ t c, exec (.xbrd f) s = .next t ∧ Moves s t I c (fun _ => pcNext I.E.pc) ∧ Wrote (own I) c f.dst v ∧ Quiet s t := by
  change ∃ t c, execXbrd f s = .next t ∧ _
  refine runCross_yields h (fun lane hlane => ?_) hu
  dsimp only
  rw [moved_ok (hraw lane hlane), ← hv lane]
  simp only [own, List.contains_iff_mem]

/-- What XVOT answers from the executing strands' own values, by its operation. -/
theorem vote_eq (h : Issues s (.xvot f) false [] I) (op n : Nat) :
    VReg.ofWord (match op with
      | 0 => if I.lanes.all (fun u => I.c.read u f.sa == 1) then 1 else 0
      | 1 => if I.lanes.any (fun u => I.c.read u f.sa == 1) then 1 else 0
      | 2 => (maskOf (I.lanes.filter (fun u => I.c.read u f.sa == 1))).setWidth 64
      | _ => if I.lanes.all (fun u => (I.c.read u f.sa).toNat % 2 ^ n == (I.c.read I.leader f.sa).toNat % 2 ^ n) then 1 else 0) =
    (match op with
      | 0 => VReg.ofWord (if ∀ u ∈ I.lanes, I.c.read u f.sa = 1 then 1 else 0)
      | 1 => VReg.ofWord (if ∃ u ∈ I.lanes, I.c.read u f.sa = 1 then 1 else 0)
      | 2 => bitSet 16 (fun u => decide (u ∈ I.lanes) && I.c.read u f.sa == 1)
      | _ => VReg.ofWord (if ∀ u ∈ I.lanes, lowBits I u f.sa n = lowBits I I.leader f.sa n then 1 else 0)) := by
  match op with
  | 0 => simp only [List.all_eq_true, beq_iff_eq]
  | 1 => simp only [List.any_eq_true, beq_iff_eq]
  | 2 => exact ofWord_maskOf (lanes_lt h).1 _
  | _ + 3 => simp only [lowBits_beq, List.all_eq_true, beq_iff_eq]

theorem ofWord_bits (x : Word) : (VReg.ofWord x).bits.setWidth 64 = x := by simp [VReg.ofWord]

theorem ofWord_bne (x y : Word) : (VReg.ofWord x != VReg.ofWord y) = (x != y) := by
  rw [Bool.eq_iff_iff, bne_iff_ne, bne_iff_ne]
  exact not_congr ⟨fun h => by rw [← ofWord_bits x, h, ofWord_bits], congrArg VReg.ofWord⟩

/-- UNIFORM for a shared destination whose strands' values differ: in the strands whose value is not the leader's, with the leader's as TVAL. -/
theorem sharedDiffer_uniform {l : List Nat} {a : Nat} {dst : Reg} {w : Nat → Word} (hs : Reg.shared dst = true) (hd : ∃ j ∈ a :: l, w j ≠ w a) :
    sharedDiffer ((a :: l).map (fun j => (j, Res.word dst (w j)))) =
      some (Trp.stop Cause.uniform 0 (w a), maskOf ((a :: l).filter (fun j => w j != w a))) := by
  have hbad : (((a :: l).map (fun j => (j, Res.word dst (w j)))).filter (fun (_, y) => y.writes.any (fun (q, u) => q == dst && u != VReg.ofWord (w a)))).map
      Prod.fst = (a :: l).filter (fun j => w j != w a) := by
    rw [List.filter_map, List.map_map]
    simp [Function.comp_def, Res.word, ofWord_bne]
  have hne : ((a :: l).filter (fun j => w j != w a)).isEmpty = false := by
    obtain ⟨j, hj, hwj⟩ := hd
    exact List.isEmpty_eq_false_iff.2 (List.ne_nil_of_mem (List.mem_filter.2 ⟨hj, bne_iff_ne.2 hwj⟩))
  rw [List.map_cons] at hbad ⊢
  have hwrites : (Res.word dst (w a)).writes = [(dst, VReg.ofWord (w a))] := rfl
  simp only [sharedDiffer, hwrites, List.findSome?_singleton, hs, hbad, hne, ofWord_bits, Bool.not_true, Bool.false_eq_true, if_false]

/-- A two-source form whose strands' values for a shared destination differ. -/
theorem twoSource_uniform {i : Instr} {rule : TagRule} {op : (W : Nat) → BitVec W → BitVec W → BitVec W} (hi : twoSource i = some (f, rule, op))
    (h : Issues s i false [] I) (hv : modV f.mod = false) (hs : Reg.shared f.dst = true) {w : Nat → Word}
    (hw : ∀ lane, w lane = let W := intWidth f.mod
      widen f (op W (lowBits I lane f.sa W) (if modImm f.mod then immBits f W else lowBits I lane f.sb W)))
    (hd : ∃ lane ∈ I.lanes, w (sourceOf I lane) ≠ w I.leader) :
    Traps s i I { cause := Cause.uniform, detail := 0, tval := w I.leader } (maskOf (I.lanes.filter (fun j => w j != w I.leader))) := by
  obtain ⟨o, ho, hexec⟩ := twoSource_exec hi
  have hexec : exec i s = runLanes s i false [] (fun _ => intTwo f rule o) := by
    rcases hexec s with hx | hx
    · rw [hx, runBoth, if_neg (by simp [inStream_false h])]
      rfl
    · exact hx
  have huni : I.uni = false := by
    obtain ⟨lane, -, hlane⟩ := hd
    cases hU : I.uni with
    | true => simp [sourceOf, hU] at hlane
    | false => rfl
  have hruns : I.runs = I.lanes := by simp [Iss.runs, huni]
  have heach := each_ok (I := I) (f := fun lane => intTwo f rule o (I.c.rd lane)) (x := fun lane => Res.word f.dst (w lane))
    (fun lane _ => by rw [intTwo_scalar ho hv, hw]; rfl)
  obtain ⟨a, l, hl⟩ : ∃ a l, I.lanes = a :: l := List.exists_cons_of_ne_nil h.some
  have ha : I.leader = a := by rw [h.leader, hl]; rfl
  have hstore : I.store (passed s I) (I.lanes.map (fun j => (j, Res.word f.dst (w j)))) =
      .error (Trp.stop Cause.uniform 0 (w I.leader), maskOf (I.lanes.filter (fun j => w j != w I.leader))) := by
    have hd : ∃ j ∈ a :: l, w j ≠ w a := by simpa [sourceOf, huni, hl, ha] using hd
    unfold Iss.store
    rw [huni, hl, ha, sharedDiffer_uniform hs hd]
    rfl
  unfold Traps
  rw [hexec]
  unfold runLanes
  refine runCourse_error h (s2 := passed s I) ?_
  simp only [heach, hruns, hstore]
  rfl
end

/-- Settles O12, clause by clause: each form by what every executing strand moves, votes on or combines, all read in the state of issue, and
UNIFORM by the check on the values of a shared destination. -/
theorem crossStrand : Obligations.CrossStrand := by
  refine ⟨⟨fun f s I h hraw hu => ?_, fun f s I h hraw hu => ?_, fun f s I h _ hu => ?_, fun f s I h _ hu => ?_⟩,
    ⟨fun f s I h htag hu => ?_, fun f s I h htag hu => ?_⟩, fun i f rule op hi hv s I h hshared => ?_⟩
  · exact xshf_yields h hraw (fun lane => congrArg (I.c.whole · f.sa) (shufSource_eq f)) hu
  · exact xbrd_yields h hraw (fun lane => rfl) hu
  · change ∃ t c, execXvot f s = .next t ∧ _
    refine runCross_yields h (fun lane hlane => ?_) hu
    exact congrArg (fun v => Except.ok (res1 f.dst v 0)) (vote_eq h (bitsOf f.mod.toNat 6 5) (tagWidth (fpT f.mod)))
  · change ∃ t c, execXuni f s = .next t ∧ _
    refine runCross_yields h (fun lane hlane => ?_) hu
    simp only [own, lowBits_beq]
    exact congrArg (fun v => Except.ok (res1 f.dst v 0)) (ofWord_maskOf (lanes_lt h).1 _)
  · change ∃ t c, execXred f s = .next t ∧ _
    refine runCross_yields h (fun lane hlane => ?_) hu
    rw [crossTag_ok (fun hv => htag hv lane hlane)]
    exact congrArg Except.ok (crossRes_eq f (own I) lane (fun j hj => xred_element f I hj))
  · change ∃ t c, execXscn f s = .next t ∧ _
    refine runCross_yields h (fun lane hlane => ?_) hu
    rw [crossTag_ok (fun hv => htag hv lane hlane)]
    exact congrArg Except.ok (crossRes_eq f (own I) lane (fun j hj => by rw [xscn_element f I _ hj]; rfl))
  · extract_lets W v
    intro hd
    refine ⟨_, _, twoSource_uniform hi h hv hshared (fun _ => rfl) hd, rfl, rfl, rfl, fun lane hlane => ?_⟩
    rw [maskOf_bit _ (fun j hj => (lanes_lt h).1 j (List.mem_of_mem_filter hj)) lane hlane, decide_eq_true_eq, List.mem_filter, bne_iff_ne]

end Sys2Proof.Laws
end

section
/-! A vector load whose destination field names a register that the strands share (R141, R157, R260). -/
namespace Sys2Proof.Laws
open Sys2Proof.Machine Sys2Proof.Safety

/-- LDV k3, [w1]: no static check accepts it, since LDV's destination is a v register, but an issue of it is not excluded. -/
def sharedLoad : Mem := ⟨⟨⟨false, 0⟩, 0x0A, .k 3, .w 1, .w 0, .w 0, false⟩, 0, false, 0⟩

/-- A course of two strands, whose w1 are the addresses of two lines. -/
def twoLines : Course :=
  { Course.start (loadLaunch false) 0 0 0 0 with
    present := 3, fr0 := [Entry.fresh loadPc 0 3 false], started := true,
    strands := (Vector.replicate 16 (Strand.start 0 0)).set 0 { Strand.start 0 0 with stack := [(1, 0x3000)] } |>.set 1
      { Strand.start 0 0 with stack := [(1, 0x3040)] } }

/-- It is about to issue; page tables map the first GiB of HBM4E onto itself (R245, R246), and the first line holds a byte that is not zero. -/
def twoLinesLoaded : State :=
  { State.reset with
    mem := { Memories.start with hbm := [(0x3000, 0x2A), (0x100000, 0x01), (0x100002, 0x20), (0x200000, 0x1B)] }
    work := { WorkState.start with
      launches := [(0, { loadLaunch false with entry := { ContextEntry.zero with ptroot := 0x100000 } })], skeins := [(0, loadSkein)], nextId := 10 }
    panels := [(0, Panel.start (loadHeader false) 0 0)]
    courses := [(0, twoLines)]
    focus := .course 0 0 }

def twoLinesIssuer : Iss :=
  { core := 0, slot := 0, c := twoLines, E := Entry.fresh loadPc 0 3 false, w := twoLinesLoaded.courseWho 0 twoLines, lanes := [0, 1],
    uni := false, leader := 0 }

theorem twoLines_issues : Issues twoLinesLoaded (.ldv sharedLoad) false [] twoLinesIssuer where
  focus := rfl
  course := rfl
  live := rfl
  head := by decide
  who := rfl
  form := ⟨_, rfl, by decide, by decide, by decide⟩
  some := nofun
  leader := rfl
  faults := nofun

/-- What each strand's access finds. -/
def twoLinesOperand (lane : Nat) : VOpnd :=
  match (passed twoLinesLoaded twoLinesIssuer).vecOpnd twoLinesIssuer sharedLoad lane false with
  | .ok o => o
  | .error _ => { o := { a := 0, route := .split [], home := [], bit := 0 }, pairs := none }

theorem twoLines_operands : ∀ lane ∈ twoLinesIssuer.runs,
    (passed twoLinesLoaded twoLinesIssuer).vecOpnd twoLinesIssuer sharedLoad lane false = .ok (twoLinesOperand lane) := by
  have hok : twoLinesIssuer.runs.all (fun lane =>
      ((passed twoLinesLoaded twoLinesIssuer).vecOpnd twoLinesIssuer sharedLoad lane false).toOption.isSome) = true := by decide +kernel
  intro lane hlane
  have hlane := List.all_eq_true.1 hok lane hlane
  unfold twoLinesOperand
  split
  · next e => exact e
  · next e => rw [e] at hlane; cases hlane

/-- The strands' values differ, so that the instruction traps with UNIFORM and both strands stay at it. -/
theorem twoLines_stays {t : State} (h : exec (.ldv sharedLoad) twoLinesLoaded = .next t) :
    (t.course? 0 0).elim [] (fun c => c.front.map (·.pc)) = [loadPc] := by
  have hrun : (match exec (.ldv sharedLoad) twoLinesLoaded with
    | .next t => decide ((t.course? 0 0).elim [] (fun c => c.front.map (·.pc)) = [loadPc]) | _ => false) = true := by decide +kernel
  rw [h] at hrun
  exact of_decide_eq_true hrun

/-- Refutes O19: the clauses for LDV and GATH do not ask, as that for LD does, that a destination which strands share gets one value, and no
hypothesis makes the instruction well-formed. LDV with k3 for its destination reads two lines that differ, and traps with UNIFORM (R157) where
the statement has its strands go on. The counterexample needs such a destination, which check 8 of R116 refuses in a slot. -/
theorem not_loadsArrive : ¬ Obligations.LoadsArrive := by
  unfold Obligations.LoadsArrive
  rintro ⟨-, hldv, -⟩
  obtain ⟨t, c, hexec, hmoves, -⟩ := hldv sharedLoad twoLinesLoaded twoLinesIssuer twoLinesOperand twoLines_issues
    (by unfold Unwatched; decide) twoLines_operands
  obtain ⟨e, he, -, hpc⟩ := hmoves.next 0 (by decide)
  have hstays := twoLines_stays hexec
  have hcourse : t.course? 0 0 = some c := hmoves.course
  rw [hcourse] at hstays
  have hmem : e.pc ∈ c.front.map (·.pc) := List.mem_map_of_mem he
  rw [show c.front.map (·.pc) = [loadPc] from hstays, hpc] at hmem
  revert hmem
  decide

end Sys2Proof.Laws
end

section
/-! Answers to a device's own requests, their timeouts, and what relays and links do (R370 to R375, R379, R380, R433). -/
namespace Sys2Proof.Laws
open Sys2Proof.Machine Sys2Proof.Safety

section
variable {s t : State} {c : Course} {p : Packet} {r : Req} {id : Nat}

/-! ## A change of some strands, each by itself -/

/-- Some strands of a course change. -/
def onStrands (c : Course) (l : List Nat) (f : Strand → Strand) : Course := l.foldl (fun c i => c.modSt i f) c

theorem onStrands_st {l : List Nat} (hl : ∀ i ∈ l, i < 16) (hn : l.Nodup) (f : Strand → Strand) (j : Nat) :
    (onStrands c l f).st j = if j ∈ l then f (c.st j) else c.st j := by
  induction l generalizing c with
  | nil => rfl
  | cons i l ih =>
    obtain ⟨hi, hn⟩ := List.nodup_cons.1 hn
    have hst : (c.modSt i f).st j = if j = i then f (c.st i) else c.st j := st_modSt c i j f (hl i List.mem_cons_self)
    have ih : (onStrands c (i :: l) f).st j = if j ∈ l then f ((c.modSt i f).st j) else (c.modSt i f).st j :=
      ih (fun k hk => hl k (List.mem_cons_of_mem _ hk)) hn
    rw [ih, hst]
    by_cases hji : j = i
    · subst hji
      simp [hi]
    · simp [hji]

theorem onStrands_rest (c : Course) (l : List Nat) (f : Strand → Strand) : { onStrands c l f with strands := c.strands } = c :=
  List.foldlRecOn (motive := fun d : Course => { d with strands := c.strands } = c) l _ rfl (fun _ h _ _ => h)

theorem modSt_registers {f : Strand → Strand} (hf : ∀ x, { f x with pending := [], arrs := [] } = { x with pending := [], arrs := [] })
    (c : Course) (i : Nat) : registers (c.modSt i f) = registers c := by
  refine Prod.ext rfl (List.ext_getElem (by simp [registers]) fun j hj _ => ?_)
  have hj16 : j < 16 := by simpa [registers] using hj
  simp only [registers, Course.modSt, Course.setSt, List.getElem_map, Vector.getElem_toList, Vector.getElem_setIfInBounds]
  split
  · next e => subst e; simpa [Course.st, hj16] using hf _
  · rfl

theorem onStrands_registers {f : Strand → Strand} (hf : ∀ x, { f x with pending := [], arrs := [] } = { x with pending := [], arrs := [] })
    (c : Course) (l : List Nat) : registers (onStrands c l f) = registers c :=
  List.foldlRecOn (motive := fun d => registers d = registers c) l _ rfl (fun d h i _ => (modSt_registers hf d i).trans h)

theorem lanesOf_lt {m : BitVec 16} : ∀ i ∈ lanesOf m, i < 16 := fun _ hi => List.mem_range.1 (List.mem_filter.1 hi).1

theorem lanesOf_nodup (m : BitVec 16) : (lanesOf m).Nodup := List.nodup_range.filter _

theorem onLanes_st (m : BitVec 16) (f : Strand → Strand) (j : Nat) :
    (onStrands c (lanesOf m) f).st j = if m.getLsbD j = true then f (c.st j) else c.st j := by
  simp only [onStrands_st lanesOf_lt (lanesOf_nodup m), mem_lanesOf]

/-! ## Pending marks that end (R142) -/

/-- A strand without the pending mark of a register. -/
def unpend (reg : Reg) (x : Strand) : Strand :=
  match pendOf x reg with
  | some q => x.clearPend q
  | none => x

theorem clearPends_eq (c : Course) (m : BitVec 16) (reg : Reg) : c.clearPends m reg = onStrands c (lanesOf m) (unpend reg) := by
  refine List.foldl_ext _ _ _ (fun d i hi => ?_)
  cases h : pendOf (d.st i) reg with
  | some q => simp only [Course.modSt, unpend, h]
  | none => simp only [Course.modSt, unpend, h, setSt_self d i (lanesOf_lt i hi)]

theorem unpend_rest (reg : Reg) (x : Strand) : { unpend reg x with pending := x.pending } = x := by
  unfold unpend
  cases pendOf x reg <;> rfl

theorem unpend_registers (reg : Reg) (x : Strand) : { unpend reg x with pending := [], arrs := [] } = { x with pending := [], arrs := [] } :=
  congrArg (fun y : Strand => { y with pending := [], arrs := [] }) (unpend_rest reg x)

theorem pendOf_congr {x y : Strand} (h : y.wb = x.wb) (reg : Reg) : pendOf y reg = pendOf x reg := by
  cases reg <;> simp [pendOf, h]

theorem unpend_clear {reg : Reg} {x : Strand} {q : Pend} (h : pendOf (unpend reg x) reg = some q) : q ∉ (unpend reg x).pending := by
  have hwb : (unpend reg x).wb = x.wb := (congrArg Strand.wb (unpend_rest reg x) :)
  rw [pendOf_congr hwb] at h
  simp [unpend, h, Strand.clearPend]

theorem clearPends_rest (c : Course) (m : BitVec 16) (reg : Reg) : { c.clearPends m reg with strands := c.strands } = c := by
  rw [clearPends_eq]
  exact onStrands_rest _ _ _

theorem clearPends_registers (c : Course) (m : BitVec 16) (reg : Reg) : registers (c.clearPends m reg) = registers c := by
  rw [clearPends_eq]
  exact onStrands_registers (unpend_registers reg) _ _

theorem clearPends_clear {m : BitVec 16} {reg : Reg} {lane : Nat} (hm : m.getLsbD lane = true) {q : Pend}
    (h : pendOf ((c.clearPends m reg).st lane) reg = some q) : q ∉ ((c.clearPends m reg).st lane).pending := by
  rw [clearPends_eq, onLanes_st, if_pos hm] at h ⊢
  exact unpend_clear h

/-! ## Requests that end (R375) -/

/-- A response touches nothing but the entropy of its flow. -/
theorem rotate_flows (s : State) (f : Flow) (dev : Nat) (mark : Bool) :
    ∃ flows, s.rotate f dev mark = { s with async := { s.async with flows } } := by
  unfold State.rotate
  split <;> exact ⟨_, rfl⟩

theorem dropReq_eq (s : State) (id : Nat) (r : Req) (mark : Bool) :
    ∃ flows, s.dropReq id r mark = { s with async := { s.async with reqs := kdel s.async.reqs id, flows } } :=
  rotate_flows { s with async := { s.async with reqs := kdel s.async.reqs id } } r.flow r.dev mark

theorem dropReq_spec (s : State) (id : Nat) (r : Req) (mark : Bool) : let t := s.dropReq id r mark
    kget t.async.reqs id = none ∧ (∀ j, j ≠ id → kget t.async.reqs j = kget s.async.reqs j) ∧ t.courses = s.courses ∧ t.mem = s.mem := by
  obtain ⟨flows, h⟩ := dropReq_eq s id r mark
  rw [h]
  exact ⟨kget_kdel_self _ _, fun _ hj => kget_kdel_ne hj, rfl, rfl⟩

/-- A posted request that failed is forgotten and reported, in a record and in the error queue (R380). -/
theorem reqFailed_posted {a b d : Nat} (hk : r.kind = .posted a b d) (s : State) (id type reason : Nat) (mark : Bool) :
    let t := s.reqFailed id r type reason mark
    RegistersKept s t ∧ kget t.async.reqs id = none ∧ t.work = s.work := by
  obtain ⟨flows, hdrop⟩ := dropReq_eq s id r mark
  have hfailed : s.reqFailed id r type reason mark = (s.dropReq id r mark).fabricFault r type reason := by
    simp only [State.reqFailed, hk]
  have hrec : Recorded (s.dropReq id r mark) ((s.dropReq id r mark).fabricFault r type reason) := emitErr_recorded _ _ _
  rw [hdrop] at hrec
  rw [hfailed, hdrop]
  refine ⟨registersKept_of_courses hrec.courses, ?_, (congrArg State.work hrec :)⟩
  rw [show _ = kdel s.async.reqs id from (congrArg (·.async.reqs) hrec :)]
  exact kget_kdel_self _ _

/-! ## The acks and nacks of requests (R374, R380, R383, R387) -/

theorem ack_posted (h : s.answered p = some r) {a b d : Nat} (hk : r.kind = .posted a b d) :
    exec (.fabricAck p) s = .next (s.dropReq p.req r p.mark) := by
  change execFabricAck p s = _
  simp only [execFabricAck, h, hk]

theorem nack_posted (h : s.answered p = some r) {a b d : Nat} (hk : r.kind = .posted a b d) :
    exec (.fabricNack p) s = .next (s.reqFailed p.req r 0xA2 (p.info.setWidth 8 : Byte).toNat p.mark) := by
  change execFabricNack p s = _
  simp only [execFabricNack, h, hk]

theorem dropReq_op (s : State) (id : Nat) (r : Req) (mark : Bool) (op : Nat) : (s.dropReq id r mark).op? op = s.op? op := by
  obtain ⟨flows, h⟩ := dropReq_eq s id r mark
  rw [h]
  rfl

theorem ack_entry (h : s.answered p = some r) {op : Nat} (hk : r.kind = .entry op true) {o : Op} (ho : s.op? op = some o) {b : BitVec 512} {x : Bool}
    (hb : o.kind = .entry b x) : exec (.fabricAck p) s = .next ((s.dropReq p.req r p.mark).entryEnd op o b true) := by
  change execFabricAck p s = _
  simp only [execFabricAck, h, hk, dropReq_op, ho, hb]

theorem nack_entry (h : s.answered p = some r) {op : Nat} (hk : r.kind = .entry op true) {o : Op} (ho : s.op? op = some o) {b : BitVec 512} {x : Bool}
    (hb : o.kind = .entry b x) : exec (.fabricNack p) s =
      .next (((s.dropReq p.req r p.mark).fabricFault r 0xA2 (p.info.setWidth 8 : Byte).toNat).entryEnd op o b false) := by
  change execFabricNack p s = _
  simp only [execFabricNack, h, hk, State.reqFailed, dropReq_op, ho, hb]

/-- The state after a packet of a collective that is nacked 0x06: it goes out again later. -/
def sendsAgain (s : State) (p : Packet) (r : Req) (cause : Word32) : State :=
  let s := s.dropReq p.req r p.mark
  { s with async := { s.async with colls := kmod s.async.colls cause.toNat (fun x =>
      { x with resend := x.resend ++ [(r.sent + 16000, r.dev, r.packet.body)] }) } }

theorem nack_coll (h : s.answered p = some r) {cause : Word32} (hk : r.kind = .chunk cause ∨ ∃ q, r.kind = .ready cause q)
    (h6 : (p.info.setWidth 8 : Byte) = 6) : exec (.fabricNack p) s = .next (sendsAgain s p r cause) := by
  change execFabricNack p s = _
  rcases hk with hk | ⟨q, hk⟩ <;> simp [execFabricNack, h, hk, h6, sendsAgain]

theorem sendsAgain_spec {cause : Word32} {z : Coll} (hz : s.coll? cause.toNat = some z) : let t := sendsAgain s p r cause
    kget t.async.reqs p.req = none ∧ t.coll? cause.toNat = some { z with resend := z.resend ++ [(r.sent + 16000, r.dev, r.packet.body)] } ∧
      t.courses = s.courses ∧ t.mem = s.mem := by
  obtain ⟨flows, h⟩ := dropReq_eq s p.req r p.mark
  unfold sendsAgain
  rw [h]
  exact ⟨kget_kdel_self _ _, kget_kmod_self hz _, rfl, rfl⟩

theorem nack_fld (h : s.answered p = some r) {sk n k : Nat} {m : BitVec 16} {x : Reg} {size : Nat} {sx : Bool} (hk : r.kind = .fld sk n k m x size sx) :
    exec (.fabricNack p) s = .next (s.fldEnded p.req r (.nack (p.info.setWidth 8) (p.info.extractLsb' 8 8)) p.mark) := by
  change execFabricNack p s = _
  simp only [execFabricNack, h, hk]

/-! ## No answer in time (R379, R380, R433) -/

section
variable {sk n k size core slot : Nat} {m : BitVec 16} {x : Reg} {sx : Bool}

theorem timeout_fld (hr : kget s.async.reqs id = some r) (hended : r.ended = none) (hlate : r.sent + 160000000 ≤ s.time.gt)
    (hk : r.kind = .fld sk n k m x size sx) (hby : s.courseBy sk n k = some (core, slot, c)) (ho : c.orphan = none) :
    exec (.fldReplyTimeout id) s = .next ((s.emit
      { source := s.portSrc r.dev, type := 0xA3, err := true, cause := r.cause, parent := r.parent, ctx := r.ctx,
        payload := r.dev % 16 + r.laddr.toNat * 2 ^ 16 }).fldEnded id r .timeout false) := by
  change execFldReplyTimeout id s = _
  have hnot : ¬ s.time.gt < r.sent + replyLimit := by unfold replyLimit; omega
  simp [execFldReplyTimeout, hr, hk, hby, hended, ho, hnot]

/-- The course after a reply that it did not live to see. -/
def gaveUp (c : Course) (m : BitVec 16) (x : Reg) : Course := { (c.clearPends m x) with abandoned := c.abandoned + 1 }

/-- The state after a reply to a course that no longer waits for it. -/
def abandoning (s : State) (core slot id : Nat) (d : Course) : State :=
  { (s.setCourse core slot d) with async := { s.async with reqs := kdel s.async.reqs id } }

theorem abandon_fld (hr : kget s.async.reqs id = some r) (hended : r.ended = none) (hlate : r.sent + 160000000 ≤ s.time.gt)
    (hk : r.kind = .fld sk n k m x size sx) (hby : s.courseBy sk n k = some (core, slot, c)) (h0 : c.fr0 = []) (h1 : c.fr1 = []) (h2 : c.fr2 = []) :
    exec (.replyAbandon id) s = .next (abandoning s core slot id (gaveUp c m x)) := by
  change execReplyAbandon id s = _
  have hnot : ¬ s.time.gt < r.sent + replyLimit := by unfold replyLimit; omega
  simp [execReplyAbandon, hr, hk, hby, hended, h0, h1, h2, hnot, gaveUp, abandoning]

theorem abandoning_spec (hc : s.course? core slot = some c) : let t := abandoning s core slot id (gaveUp c m x)
    t.course? core slot = some (gaveUp c m x) ∧ kget t.async.reqs id = none ∧ RegistersKept s t ∧ t.mem = s.mem :=
  ⟨course?_setCourse s core slot _, kget_kdel_self _ _, setCourse_registersKept hc (clearPends_registers c m x), rfl⟩

end

theorem timeout_posted (hr : kget s.async.reqs id = some r) (hended : r.ended = none) (hlate : r.sent + 160000000 ≤ s.time.gt)
    {a b d : Nat} (hk : r.kind = .posted a b d) : exec (.fabricTimeout id) s = .next (s.reqFailed id r 0xA3 0 false) := by
  change execFabricTimeout id s = _
  have hnot : ¬ s.time.gt < r.sent + replyLimit := by unfold replyLimit; omega
  simp [execFabricTimeout, hr, hk, hended, hnot]

/-! ## The reply of a remote load (R157, R258, R379) -/

/-- The value of a reply, extended from its bytes. -/
theorem reply_value (sx : Bool) (size : Nat) (v : Word) : BitVec.ofNat 64 (extendTo (sx && size < 8) (8 * size) v.toNat).toNat =
    if sx = true ∧ size < 8 then (v.setWidth (8 * size)).signExtend 64 else (v.setWidth (8 * size)).setWidth 64 := by
  rw [BitVec.ofNat_toNat, BitVec.setWidth_eq]
  by_cases h : sx = true ∧ size < 8
  · obtain ⟨hsx, hsize⟩ := h
    rw [extendTo_eq _ _ _ (by omega)]
    simp only [hsx, hsize, decide_true, Bool.and_self, and_self, if_true]
    congr 1
    exact BitVec.eq_of_toNat_eq (by simp)
  · have hno : (sx && decide (size < 8)) = false := by simpa using h
    rw [if_neg h, hno]
    exact BitVec.eq_of_toNat_eq (by simp [extendTo])

section
variable {α : Type} {m : KMap α} {k : Nat} {a b : α}

/-- One entry of a table that is the only one of its sort stays so when its value changes. -/
theorem filter_kset_single (hm : krising m = true) {q : α → Bool} (hk : kget m k = some a) (hb : q b = true)
    (hq : m.filter (fun x => q x.2) = [(k, a)]) : (kset m k b).filter (fun x => q x.2) = [(k, b)] := by
  induction m with
  | nil => cases hk
  | cons x t ih =>
    obtain ⟨j, d⟩ := x
    have hge : ¬ k < j := fun hlt => by
      have hnone : kget ((j, d) :: t) k = none := by
        rw [kget, if_neg (by omega)]
        exact kget_none_of_lt hm hlt.le
      rw [hnone] at hk
      cases hk
    simp only [kset, if_neg hge]
    split
    · next hkj =>
      subst hkj
      have hnot : ∀ y ∈ t, y.1 ≠ k := fun y hy e => by
        have hlt := (List.pairwise_cons.1 ((krising_iff_pairwise _).1 hm)).1 y hy
        exact absurd e hlt.ne'
      have ht : t.filter (fun x => q x.2) = [] := by
        by_cases hd : q d = true
        · rw [List.filter_cons_of_pos (by exact hd)] at hq
          exact (List.cons.inj hq).2
        · rw [List.filter_cons_of_neg (by exact hd)] at hq
          have hmem : (k, a) ∈ t := (List.mem_filter.1 (hq ▸ List.mem_singleton.2 rfl)).1
          exact absurd rfl (hnot _ hmem)
      rw [List.filter_cons_of_pos (by exact hb), ht]
    · next hne =>
      have hd : ¬ q d = true := fun hd => by
        rw [List.filter_cons_of_pos (by exact hd)] at hq
        exact hne (congrArg Prod.fst (List.cons.inj hq).1).symm
      rw [List.filter_cons_of_neg (by exact hd)] at hq ⊢
      exact ih (krising_tail hm) (by rwa [kget, if_neg (Ne.symm hne)] at hk) hq

/-- A search by value finds the entry that has replaced what it found. -/
theorem find_kset {q : Nat × α → Bool} (hb : q (k, b) = true) (h : m.find? q = some (k, a)) :
    (kset m k b).find? q = some (k, b) := by
  induction m with
  | nil => cases h
  | cons x t ih =>
    obtain ⟨j, d⟩ := x
    simp only [kset]
    split
    · rw [List.find?_cons_of_pos hb]
    split
    · rw [List.find?_cons_of_pos hb]
    · next hne =>
      have hd : ¬ q (j, d) = true := fun hd => by
        rw [List.find?_cons_of_pos hd] at h
        exact hne (congrArg Prod.fst (Option.some.inj h)).symm
      rw [List.find?_cons_of_neg hd] at h ⊢
      exact ih h
end

section
variable {sk n k size core slot : Nat} {m : BitVec 16} {i : Fin 24} {sx : Bool} {v : Word} {E : Entry}

/-- Whether a course is the one of its skein at a place. -/
def atPlace (sk n k : Nat) (c : Course) : Bool := c.skein == sk && (c.f2 == n && c.f1 == k)

theorem courseBy_eq (s : State) (sk n k : Nat) :
    s.courseBy sk n k = (s.courses.find? (fun x => atPlace sk n k x.2)).map (fun x => (x.1 / 32, x.1 % 32, x.2)) := by
  unfold State.courseBy State.skeinCourses State.coursesWhere
  rw [List.find?_map, List.find?_filter]
  refine congrArg (fun q => (s.courses.find? q).map _) (funext fun x => ?_)
  simp only [atPlace, Function.comp_apply, Bool.decide_and, Bool.decide_eq_true]

/-- A course keeps its place in its skein when only its strands change. -/
theorem courseBy_modCourse {f : Course → Course} (hf : ∀ c, atPlace sk n k (f c) = atPlace sk n k c) (hby : s.courseBy sk n k = some (core, slot, c))
    (hc : s.course? core slot = some c) : (s.modCourse core slot f).courseBy sk n k = some (core, slot, f c) := by
  rw [courseBy_eq, Option.map_eq_some_iff] at hby ⊢
  obtain ⟨⟨key, d⟩, hfind, hkey⟩ := hby
  have hcore : key / 32 = core := congrArg Prod.fst hkey
  have hslot : key % 32 = slot := congrArg (·.2.1) hkey
  have hd : d = c := congrArg (·.2.2) hkey
  have hk : key = courseKey core slot := by unfold courseKey; omega
  subst hd hk
  refine ⟨(courseKey core slot, f d), ?_, by rw [hcore, hslot]⟩
  rw [State.modCourse, kmod_of_kget hc]
  exact find_kset ((hf d).trans (by simpa using List.find?_some hfind)) hfind

theorem forget_self (s : State) (id : Nat) (r : Req) : kget (s.forget [(id, r)]).async.reqs id = none := by
  cases h : kget (s.forget [(id, r)]).async.reqs id with
  | none => rfl
  | some a =>
    have hmem := (List.mem_filter.1 (mem_of_kget h)).2
    simp at hmem

/-- The fault parked at an instruction, if one is, ends. -/
theorem faultOver_undisturbed (s : State) (who : FaultWho) : Undisturbed s (s.faultOver who) ∧ (s.faultOver who).async.reqs = s.async.reqs := by
  unfold State.faultOver
  split
  · next q _ =>
    have h := (emit_carried s (faultEv q 0x61)).undisturbed
    exact ⟨⟨h.courses, h.place, h.bytes⟩, (congrArg AsyncState.reqs (emit_async s _) :)⟩
  · exact ⟨(Halting.refl s).toUndisturbed, rfl⟩

/-- A course whose entry goes on after a reply that writes register i of some strands. -/
def landed (c : Course) (m : BitVec 16) (i : Fin 24) (v : Word) (E : Entry) : Course :=
  (onStrands c (lanesOf m) (·.setW i.val v)).setFront
    (updateFrontier (onStrands c (lanesOf m) (·.setW i.val v)).front E ((lanesOf E.mask).map (fun i => (i, pcNext E.pc, E.prio))) [])

/-- The only reply that an entry waits for has come. -/
theorem fldFinish_landed (hreqs : s.fldReqs sk n k = [(id, r)]) (hend : r.ended = some (.value v)) (hk : r.kind = .fld sk n k m (.w i) size sx)
    (hby : s.courseBy sk n k = some (core, slot, c)) (hE : (c.fr0 ++ c.fr1 ++ c.fr2).find? (fun e => e.wait == .remote) = some E) :
    ∃ u, Undisturbed s u ∧ kget u.async.reqs id = none ∧ s.fldFinish sk n k = u.setCourse core slot (landed c m i
      (if sx = true ∧ size < 8 then (v.setWidth (8 * size)).signExtend 64 else (v.setWidth (8 * size)).setWidth 64) E) := by
  have hforget : Undisturbed s (s.forget [(id, r)]) := ⟨rfl, ⟨rfl, rfl, rfl⟩, fun _ _ => rfl⟩
  obtain ⟨hover, hkept⟩ := faultOver_undisturbed (s.forget [(id, r)]) (.course core slot E.pc)
  have hall : (([(id, r)] : List (Nat × Req)).any fun (_, r) => r.ended.isNone) = false := by simp [hend]
  unfold State.fldFinish
  simp only [hreqs, hall, hby, hE, Bool.false_eq_true, if_false]
  simp only [List.filterMap_cons, hend, Option.bind_some, ReqEnd.trap, Option.map_none, List.filterMap_nil, Req.result, hk, List.foldl_cons, List.foldl_nil,
    reply_value]
  split
  · exact ⟨_, hforget, forget_self s id r, rfl⟩
  · exact ⟨_, hforget.trans hover, by rw [hkept]; exact forget_self s id r, rfl⟩

theorem answered_spec (h : s.answered p = some r) : kget s.async.reqs p.req = some r := by
  unfold State.answered at h
  split at h
  · next e =>
    split at h
    · rwa [Option.some.inj h] at e
    · cases h
  · cases h

/-- Whether a request is an FLD of a course. -/
def loadsFor (sk n k : Nat) (r : Req) : Bool :=
  match r.kind with
  | .fld a b c _ _ _ _ => a == sk && b == n && c == k
  | _ => false

/-- The state once a request has its end. -/
def answeredBy (s : State) (id : Nat) (r : Req) (e : ReqEnd) (mark : Bool) : State :=
  ({ s with async := { s.async with reqs := kset s.async.reqs id { r with ended := some e } } } : State).rotate r.flow r.dev mark

theorem answeredBy_eq (s : State) (id : Nat) (r : Req) (e : ReqEnd) (mark : Bool) : ∃ flows, answeredBy s id r e mark =
    { s with async := { s.async with reqs := kset s.async.reqs id { r with ended := some e }, flows } } := rotate_flows _ _ _ _

/-- The end of a request of a live course ends the marks of its destination, and then looks at the entry that waits. -/
theorem fldEnded_live {reg : Reg} {e : ReqEnd} {mark : Bool} (hk : r.kind = .fld sk n k m reg size sx) (hsaved : s.isSaved sk = false)
    (hby : s.courseBy sk n k = some (core, slot, c)) (hc : s.course? core slot = some c) (ho : c.orphan = none) : s.fldEnded id r e mark =
      ((answeredBy s id r e mark).modCourse core slot (fun c => c.clearPends m reg)).fldFinish sk n k := by
  obtain ⟨flows, heq⟩ := answeredBy_eq s id r e mark
  have hsaved' : (answeredBy s id r e mark).isSaved sk = false := by rw [heq]; exact hsaved
  have hby' : (answeredBy s id r e mark).courseBy sk n k = some (core, slot, c) := by rw [heq]; exact hby
  have hc' : ((answeredBy s id r e mark).modCourse core slot (fun c => c.clearPends m reg)).course? core slot = some (c.clearPends m reg) := by
    rw [heq]
    exact kget_kmod_self hc _
  have ho' : (c.clearPends m reg).orphan = none := (congrArg Course.orphan (clearPends_rest c m reg) :).trans ho
  unfold State.fldEnded
  split
  · next hkind =>
    cases hk.symm.trans hkind
    extract_lets r1 a s1
    have hs1 : s1 = answeredBy s id r e mark := rfl
    simp only [hs1, hsaved', hby', Bool.false_eq_true, if_false, hc', ho', Option.isSome_none]
  · next hno => exact absurd hk (hno _ _ _ _ _ _ _)

/-- The only reply that a course waits for comes: its marks end, its value is written, and the entry goes on. -/
theorem fldEnded_landed (hrise : krising s.async.reqs = true) (hr : kget s.async.reqs id = some r) (hk : r.kind = .fld sk n k m (.w i) size sx)
    (hreqs : s.fldReqs sk n k = [(id, r)]) (hsaved : s.isSaved sk = false) (hby : s.courseBy sk n k = some (core, slot, c))
    (hc : s.course? core slot = some c) (ho : c.orphan = none) (hE : (c.fr0 ++ c.fr1 ++ c.fr2).find? (fun e => e.wait == .remote) = some E)
    (mark : Bool) : ∃ u, MemoryKept s u ∧ kget u.async.reqs id = none ∧ s.fldEnded id r (.value v) mark =
      u.setCourse core slot (landed (c.clearPends m (.w i)) m i
        (if sx = true ∧ size < 8 then (v.setWidth (8 * size)).signExtend 64 else (v.setWidth (8 * size)).setWidth 64) E) := by
  obtain ⟨flows, heq⟩ := answeredBy_eq s id r (.value v) mark
  rw [fldEnded_live hk hsaved hby hc ho, heq]
  set s1 : State := { s with async := { s.async with reqs := kset s.async.reqs id { r with ended := some (.value v) }, flows } }
  have hreqs1 : (s1.modCourse core slot (fun c => c.clearPends m (.w i))).fldReqs sk n k = [(id, { r with ended := some (.value v) })] := by
    have hmem : (id, r) ∈ s.fldReqs sk n k := hreqs ▸ List.mem_singleton.2 rfl
    exact filter_kset_single hrise hr (q := loadsFor sk n k) (List.mem_filter.1 hmem).2 hreqs
  have hby1 : (s1.modCourse core slot (fun c => c.clearPends m (.w i))).courseBy sk n k = some (core, slot, c.clearPends m (.w i)) :=
    courseBy_modCourse (fun d => (congrArg (atPlace sk n k) (clearPends_rest d m (.w i)) :)) hby hc
  have hE1 : ((c.clearPends m (.w i)).fr0 ++ (c.clearPends m (.w i)).fr1 ++ (c.clearPends m (.w i)).fr2).find? (fun e => e.wait == .remote) = some E :=
    (congrArg (fun c : Course => (c.fr0 ++ c.fr1 ++ c.fr2).find? (fun e => e.wait == .remote)) (clearPends_rest c m (.w i)) :).trans hE
  obtain ⟨u, hu, hgone, hfin⟩ := fldFinish_landed hreqs1 rfl hk hby1 hE1
  exact ⟨u, fun l hl => hu.bytes l hl, hgone, hfin⟩

theorem setW_w (x : Strand) (i j : Nat) (v : Word) : (x.setW i v).w j = if j = i then v else x.w j := by
  change (x.posSet (x.wb + i) v).posGet (x.wb + j) = _
  rw [posGet_posSet]
  simp only [Nat.add_left_cancel_iff]
  rfl

/-- A strand's registers after w register i has been written. -/
theorem readOwn_setW (x : Strand) (kreg : Vector Word 8) (v : Word) (reg : Reg) :
    readOwn (x.setW i.val v) kreg reg = if reg = .w i then VReg.ofWord v else readOwn x kreg reg := by
  cases reg with
  | w j =>
    simp only [readOwn, setW_w, Reg.w.injEq, Fin.ext_iff]
    split <;> rfl
  | _ => rfl

theorem readOwn_unpend (x : Strand) (kreg : Vector Word 8) (q reg : Reg) : readOwn (unpend q x) kreg reg = readOwn x kreg reg := by
  conv_rhs => rw [← unpend_rest q x]
  cases reg <;> rfl

theorem landed_st (c : Course) (m : BitVec 16) (i : Fin 24) (v : Word) (E : Entry) (lane : Nat) :
    (landed c m i v E).st lane = if m.getLsbD lane = true then (c.st lane).setW i.val v else c.st lane := by
  refine Eq.trans ?_ (onLanes_st m (·.setW i.val v) lane)
  unfold landed Course.st Course.setFront
  rw [setFr_strands]

theorem landed_kreg (c : Course) (m : BitVec 16) (i : Fin 24) (v : Word) (E : Entry) : (landed c m i v E).kreg = c.kreg :=
  (setFr_kreg _ _ _).trans (congrArg Course.kreg (onStrands_rest c (lanesOf m) (·.setW i.val v)) :)

/-- The strands' registers after the reply: register i of the strands that it is for. -/
theorem landed_whole (v : Word) (lane : Nat) (reg : Reg) : (landed (c.clearPends m (.w i)) m i v E).whole lane reg =
    if m.getLsbD lane = true ∧ reg = .w i then VReg.ofWord v else c.whole lane reg := by
  have hk : (c.clearPends m (.w i)).kreg = c.kreg := (congrArg Course.kreg (clearPends_rest c m (.w i)) :)
  rw [whole_eq, whole_eq, landed_st, landed_kreg, hk, clearPends_eq, onLanes_st]
  by_cases hm : m.getLsbD lane = true
  · simp only [hm, if_true, readOwn_setW, readOwn_unpend, true_and]
  · simp only [hm, Bool.false_eq_true, false_and, if_false]

/-- Their marks of it are gone. -/
theorem landed_clear (v : Word) {lane : Nat} (hm : m.getLsbD lane = true) {q : Pend}
    (h : pendOf ((landed (c.clearPends m (.w i)) m i v E).st lane) (.w i) = some q) :
    q ∉ ((landed (c.clearPends m (.w i)) m i v E).st lane).pending := by
  rw [landed_st, if_pos hm] at h ⊢
  exact clearPends_clear hm h

/-- The entry's strands stand at the next instruction. -/
theorem landed_front (v : Word) {lane : Nat} (hm : E.mask.getLsbD lane = true) :
    ∃ e ∈ (landed c m i v E).front, e.mask.getLsbD lane = true ∧ e.pc = pcNext E.pc := by
  unfold landed
  rw [front_setFront]
  exact (updateFrontier_spec _ _ _ _).2 _ (List.mem_map_of_mem (mem_lanesOf.2 hm)) (lanesOf_lt _ (mem_lanesOf.2 hm))

theorem readResponse_value (h : s.answered p = some r) (hv : p.body = .value v) :
    exec (.fabricReadResponse p) s = .next (s.fldEnded p.req r (.value v) p.mark) := by
  change execFabricReadResponse p s = _
  simp only [execFabricReadResponse, h, hv]
end

/-! ## Relays, links and reserved kinds (R370, R371, R373) -/

/-- The relays that a relay looks at: those after itself, then those before. -/
theorem mem_otherRelays {l : List Nat} {x y : Nat} (hy : y ∈ l) (hne : y ≠ x) {j : Nat} (hj : l.idxOf? x = some j) :
    y ∈ l.drop (j + 1) ++ l.take j := by
  obtain ⟨hlt, hx, -⟩ := List.findIdx?_eq_some_iff_getElem.1 hj
  rw [← List.take_append_drop j l, List.drop_eq_getElem_cons hlt, List.mem_append, List.mem_cons, eq_of_beq hx] at hy
  rw [List.mem_append]
  rcases hy with hy | hy | hy
  · exact .inr hy
  · exact absurd hy hne
  · exact .inl hy

theorem linkUp_congr {t : State} (htime : t.time = s.time) (hdev : t.dev.bootDone = s.dev.bootDone) (hdown : t.async.down = s.async.down) (q : Nat) :
    t.linkUp q = s.linkUp q := by
  unfold State.linkUp State.devNo State.domainSize
  rw [htime, hdev, hdown]

theorem reportLinks_outgoing (s : State) (l : List Nat) : ∃ ps, s.reportLinks l = outgoing s ps := by
  have hstep {t : State} {x : State} (h : ∃ ps, t = outgoing s ps) (hx : ∃ ps, x = outgoing t ps) : ∃ ps, x = outgoing s ps := by
    obtain ⟨ps, rfl⟩ := h
    obtain ⟨qs, rfl⟩ := hx
    exact ⟨ps ++ qs, outgoing_outgoing s ps qs⟩
  have hnone : ∃ ps, s = outgoing s ps := ⟨[], by simp [outgoing]⟩
  unfold State.reportLinks
  refine List.foldlRecOn (motive := fun t => ∃ ps, t = outgoing s ps) _ _ hnone fun t ht q _ => ?_
  refine List.foldlRecOn (motive := fun t => ∃ ps, t = outgoing s ps) _ _ ht fun u hu d _ => hstep hu ?_
  obtain ⟨x, -, -, hx⟩ := sendControl_outgoing u q 0xFFFF (.pair 0) (.link d (!s.async.down.contains (s.devNo, d)))
  exact ⟨[x], hx⟩

section
variable (hrly : p.rly = true) (hrelay : p.relay.toNat = s.devNo) (hdst : p.dst.toNat ≠ s.devNo)
include hrly hrelay hdst

/-- The relay sends a packet on over its own link to the destination, where it has one (R373). -/
theorem packetRelay_direct (hup : s.linkUp p.dst.toNat = true) : exec (.packetRelay p) s = .next (s.portOut p) := by
  change execPacketRelay p s = _
  simp [execPacketRelay, hrly, hrelay, hdst, hup]

section
variable {l : List Nat} {j : Nat} (hup : s.linkUp p.dst.toNat = false)
  (hl : (List.range s.domainSize).filter (fun d => d != p.src.toNat && d != p.dst.toNat) = l) (hj : l.idxOf? s.devNo = some j)
include hup hl hj

/-- Else it goes by the next relay, in the order of the devices after this one, both of whose links are up. -/
theorem packetRelay_on {r : Nat} (hfind : (l.drop (j + 1) ++ l.take j).find? (fun r => s.linkUp r && !s.farDown r p.dst.toNat) = some r) :
    exec (.packetRelay p) s = .next (s.portOut { p with relay := BitVec.ofNat 4 r }) := by
  change execPacketRelay p s = _
  simp only [execPacketRelay, hrly, hrelay, hup, hl, hj, Option.getD_some, hfind]
  simp [hdst]

/-- With no relay left it cannot be delivered. -/
theorem packetRelay_unreachable (hfind : (l.drop (j + 1) ++ l.take j).find? (fun r => s.linkUp r && !s.farDown r p.dst.toNat) = none) :
    exec (.packetRelay p) s = .next (s.answer p 8 (nackInfo 1 0) .none) := by
  change execPacketRelay p s = _
  simp only [execPacketRelay, hrly, hrelay, hup, hl, hj, Option.getD_some, hfind]
  simp [hdst]
end
end

/-- What a device says of its link to a peer is what is held of it. -/
theorem linkHeard_spec {src peer : Nat} {up : Bool} (hsrc : src ≠ s.devNo) : let t := s.linkHeard src peer up
    ({ t with async := { t.async with down := s.async.down } } : State) = s ∧ ((src, peer) ∈ t.async.down ↔ up = false) ∧
      ∀ x, x ≠ (src, peer) → (x ∈ t.async.down ↔ x ∈ s.async.down) := by
  have hne : (src == s.devNo) = false := by simpa using hsrc
  unfold State.linkHeard
  rw [hne]
  refine ⟨rfl, ?_, fun x hx => ?_⟩
  · cases up <;> simp
  · cases up <;> simp [hx]

/-- A change of this device's own links, with its record and what it tells the others, by what is held of the links afterwards. -/
theorem ownLink_spec {u : State} (e : Ev) (l : List Nat) (hc : u.courses = s.courses) (hb : u.firn = s.firn) (hm : u.mem = s.mem) :
    let t := (u.emit e).reportLinks l
    (∀ q, t.linkUp q = u.linkUp q) ∧ t.dev = u.dev ∧ RegistersKept s t ∧ MemoryKept s t := by
  obtain ⟨ps, hps⟩ := reportLinks_outgoing (u.emit e) l
  have hkept : MemoryKept s u := fun l _ => by unfold State.peek; rw [hm]
  rw [hps]
  refine ⟨fun q => ?_, emit_dev u e, registersKept_of_courses ((emit_courses u e).trans hc), ?_⟩
  · exact (linkUp_congr (emit_time u e) (congrArg _ (emit_dev u e)) (congrArg AsyncState.down (emit_async u e)) q :)
  · exact keptOutside_trans hkept (by rw [hb]; exact ⟨rfl, rfl, rfl⟩) (emit_carried u e).bytes

/-- The state with other links held to be down. -/
def withDown (s : State) (l : List (Nat × Nat)) : State := { s with async := { s.async with down := l } }

theorem linkUp_iff (s : State) (q : Nat) :
    s.linkUp q = true ↔ 8 ≤ s.dev.bootDone.toNat ∧ q ≠ s.devNo ∧ q < s.domainSize ∧ (s.devNo, q) ∉ s.async.down := by
  simp [State.linkUp, and_assoc]

/-- A link that is put among those held to be down is down, and the others stay. -/
theorem linkUp_cons (s : State) (peer q : Nat) : (withDown s ((s.devNo, peer) :: s.async.down)).linkUp q = (s.linkUp q && q != peer) := by
  rw [Bool.eq_iff_iff, Bool.and_eq_true, linkUp_iff, linkUp_iff]
  change (_ ∧ _ ∧ _ ∧ (s.devNo, q) ∉ (s.devNo, peer) :: s.async.down) ↔ _
  simp only [List.mem_cons, Prod.mk.injEq, true_and, not_or, bne_iff_ne]
  exact ⟨fun ⟨hb, hd, hn, hq, hl⟩ => ⟨⟨hb, hd, hn, hl⟩, hq⟩, fun ⟨⟨hb, hd, hn, hl⟩, hq⟩ => ⟨hb, hd, hn, hq, hl⟩⟩

theorem linkDown_spec {peer : Nat} (hup : s.linkUp peer = true) : ∃ t, exec (.linkDown peer) s = .next t ∧ t.linkUp peer = false ∧
    (∀ q, q ≠ peer → t.linkUp q = s.linkUp q) ∧ t.dev.life = (s.life 5).dev.life ∧ RegistersKept s t ∧ MemoryKept s t := by
  obtain ⟨hlinks, hdev, hregs, hmem⟩ := ownLink_spec (s := s) (u := (withDown s ((s.devNo, peer) :: s.async.down)).life 5)
    { source := s.portSrc peer, type := 0xA0, payload := peer % 16 } [peer] rfl rfl rfl
  have hlink (q : Nat) := (hlinks q).trans (linkUp_cons s peer q)
  refine ⟨_, ?_, ?_, fun q hq => ?_, (congrArg (·.life) hdev :), hregs, hmem⟩
  · change execLinkDown peer s = _
    rw [execLinkDown, hup]
    rfl
  · rw [hlink, bne_self_eq_false, Bool.and_false]
  · rw [hlink, bne_iff_ne.2 hq, Bool.and_true]

theorem linkUp_spec {peer : Nat} (hdown : (s.devNo, peer) ∈ s.async.down) (hboot : 8 ≤ s.dev.bootDone.toNat) (hne : peer ≠ s.devNo)
    (hlt : peer < s.domainSize) : ∃ t, exec (.linkUp peer) s = .next t ∧ t.linkUp peer = true ∧ (∀ q, q ≠ peer → t.linkUp q = s.linkUp q) ∧
      RegistersKept s t ∧ MemoryKept s t := by
  set l := s.async.down.filter (fun x => x != (s.devNo, peer))
  obtain ⟨hlinks, -, hregs, hmem⟩ := ownLink_spec (s := s) (u := withDown s l) { source := s.portSrc peer, type := 0xA1, payload := peer % 16 }
    (peer :: (l.filter (fun x => x.1 == s.devNo)).map (·.2)) rfl rfl rfl
  have hcontains : s.async.down.contains (s.devNo, peer) = true := by simpa using hdown
  have hmeml (q : Nat) : (s.devNo, q) ∈ l ↔ (s.devNo, q) ∈ s.async.down ∧ q ≠ peer := by simp [l]
  refine ⟨_, ?_, ?_, fun q hq => ?_, hregs, hmem⟩
  · change execLinkUp peer s = _
    rw [execLinkUp, hcontains]
    rfl
  · rw [hlinks, linkUp_iff]
    exact ⟨hboot, hne, hlt, fun h => ((hmeml peer).1 h).2 rfl⟩
  · rw [hlinks, Bool.eq_iff_iff, linkUp_iff, linkUp_iff]
    change (_ ∧ _ ∧ _ ∧ (s.devNo, q) ∉ l) ↔ _
    rw [hmeml]
    simp only [hq, ne_eq, not_false_eq_true, and_true]
    rfl

/-! ## The statement's clauses -/

theorem linkUp_self (s : State) : s.linkUp s.devNo = false := by simp [State.linkUp]

/-- What a relay does whose link to the destination is down (R373). -/
theorem packetRelay_spec (hrly : p.rly = true) (hrelay : p.relay.toNat = s.devNo) (hdst : p.dst.toNat ≠ s.devNo) (hsrc : p.src.toNat ≠ s.devNo)
    (hlt : s.devNo < s.domainSize) (hup : s.linkUp p.dst.toNat = false) :
    let others := (List.range s.domainSize).filter (fun d => d != p.src.toNat && d != p.dst.toNat)
    let up (r : Nat) : Prop := s.linkUp r = true ∧ s.farDown r p.dst.toNat = false
    ((∃ r ∈ others, up r) → ∃ r ∈ others, up r ∧ r ≠ s.devNo ∧
      exec (.packetRelay p) s = .next (s.portOut { p with relay := BitVec.ofNat 4 r })) ∧
    ((∀ r ∈ others, ¬ up r) → exec (.packetRelay p) s = .next (s.answer p 8 (nackInfo 1 0) .none)) := by
  intro others up
  have hself : s.devNo ∈ others := by simp [others, hlt, Ne.symm hsrc, Ne.symm hdst]
  obtain ⟨j, hj⟩ := Option.isSome_iff_exists.1 (List.isSome_idxOf?.2 hself)
  have hupEq (r : Nat) : (s.linkUp r && !s.farDown r p.dst.toNat) = true ↔ up r := by simp [up]
  have hmem {r : Nat} (hr : r ∈ others.drop (j + 1) ++ others.take j) : r ∈ others := by
    rcases List.mem_append.1 hr with hr | hr
    · exact List.mem_of_mem_drop hr
    · exact List.mem_of_mem_take hr
  have hne {r : Nat} (hru : up r) : r ≠ s.devNo := fun e => by
    have h := linkUp_self s
    rw [← e, hru.1] at h
    cases h
  constructor
  · rintro ⟨r, hr, hru⟩
    cases hfind : (others.drop (j + 1) ++ others.take j).find? (fun r => s.linkUp r && !s.farDown r p.dst.toNat) with
    | none => exact absurd ((hupEq r).2 hru) (List.find?_eq_none.1 hfind r (mem_otherRelays hr (hne hru) hj))
    | some r' =>
      have hfound := List.find?_some hfind
      have hru' : up r' := (hupEq r').1 hfound
      exact ⟨r', hmem (List.mem_of_find?_eq_some hfind), hru', hne hru', packetRelay_on hrly hrelay hdst hup rfl hj hfind⟩
  · intro hnone
    have hfind : (others.drop (j + 1) ++ others.take j).find? (fun r => s.linkUp r && !s.farDown r p.dst.toNat) = none :=
      List.find?_eq_none.2 fun r hr hru => hnone r (hmem hr) ((hupEq r).1 hru)
    exact packetRelay_unreachable hrly hrelay hdst hup rfl hj hfind

/-- How a nack or a timeout of an FLD is reported. -/
theorem reqEnd_trap (r d : Byte) (a : Word) :
    (r = 2 ∨ r = 4 → ReqEnd.trap a (.nack r d) = some { cause := Cause.priv, detail := 0x03, tval := a }) ∧
    (r = 3 → ReqEnd.trap a (.nack r d) = some { cause := Cause.xlate, detail := d, tval := a }) ∧
    (r ∉ [2, 3, 4] → ReqEnd.trap a (.nack r d) = some { cause := Cause.ecc, detail := 0x03, tval := a }) := by
  refine ⟨?_, ?_, fun hr => ?_⟩
  · rintro (rfl | rfl) <;> rfl
  · rintro rfl
    rfl
  · simp only [List.mem_cons, List.not_mem_nil, or_false, not_or] at hr
    obtain ⟨h2, h3, h4⟩ := hr
    simp only [ReqEnd.trap, beq_false_of_ne h2, beq_false_of_ne h3, beq_false_of_ne h4, Bool.or_self, Bool.false_eq_true, if_false]

end

/-- Settles O51, clause by clause: a read response by the course that it lands in, the ends of other requests by the request they forget and
report, relays by the search for a path, and links by what is held of them. -/
theorem fabricAnswers : Obligations.FabricAnswers := by
  refine ⟨fun s p r v sk n k m i size sx core slot c E hrise hans hv hk hreqs hsaved hby hc ho hE _ => ?_,
    fun r d a => ?_, fun s p r hans => ⟨?_, ?_, ?_, ?_⟩, dropReq_spec,
    fun s id r hr hended hlate => ⟨fun sk n k m x size sx core slot c hk hby hc => ⟨?_, ?_⟩, ?_⟩, ?_, ?_, ?_,
    fun s peer => ⟨linkDown_spec, linkUp_spec⟩⟩
  · obtain ⟨u, hmem, hgone, hend⟩ := fldEnded_landed hrise (answered_spec hans) hk hreqs hsaved hby hc ho hE p.mark
    refine ⟨_, _, (readResponse_value hans hv).trans (congrArg _ hend), course?_setCourse u core slot _, hgone, hmem, fun lane _ x => ?_,
      fun lane _ hm q hq => landed_clear _ hm hq, fun lane _ hm => landed_front _ hm⟩
    rw [landed_whole]
  · obtain ⟨h24, h3, hother⟩ := reqEnd_trap r d a
    exact ⟨h24, h3, hother, rfl⟩
  · intro a b c hk
    exact ⟨ack_posted hans hk, _, nack_posted hans hk, reqFailed_posted hk s _ _ _ _⟩
  · intro op o b x hk ho hb
    exact ⟨ack_entry hans hk ho hb, nack_entry hans hk ho hb⟩
  · intro c z hk h6 hz
    exact ⟨_, nack_coll hans hk h6, sendsAgain_spec hz⟩
  · intro sk n k m x size sx hk
    exact nack_fld hans hk
  · exact timeout_fld hr hended hlate hk hby
  · intro h0 h1 h2
    obtain ⟨hcourse, hgone, hregs, hmem⟩ := abandoning_spec (id := id) (m := m) (x := x) hc
    exact ⟨_, _, abandon_fld hr hended hlate hk hby h0 h1 h2, hcourse, rfl, hgone, hregs, hmem, fun lane _ hm q hq => clearPends_clear hm hq⟩
  · intro a b c hk
    exact ⟨_, timeout_posted hr hended hlate hk, reqFailed_posted hk s _ _ _ _⟩
  · intro s p hrly hrelay hdst hsrc hlt
    refine ⟨packetRelay_direct hrly hrelay hdst, fun hup => ?_, fun hup => ?_⟩
    · exact (packetRelay_spec hrly hrelay hdst hsrc hlt hup).1
    · exact (packetRelay_spec hrly hrelay hdst hsrc hlt hup).2
  · intro s p
    exact ⟨_, _, rfl, rfl, by rw [kget_kset_self]; rfl, fun q hq => kget_kset_ne hq _, fun hrly => by simp [hrly]⟩
  · intro s p peer up hbody hsrc
    refine ⟨s.linkHeard p.src.toNat peer up, ?_, linkHeard_spec hsrc⟩
    change execFabricControl p s = _
    simp only [execFabricControl, hbody]

end Sys2Proof.Laws
end

section
/-! Integer instructions of a course (R169 to R183): each form's result from its strand's own sources, and DIV0 in the strands whose divisor is
zero. -/
namespace Sys2Proof.Laws
open Sys2Proof.Machine Sys2Proof.Safety

/-! ## A form that writes one register (R140, R144) -/

/-- A form whose running strands each write `dst` completes, be it legal in both streams or in that of courses alone. -/
theorem form_yields {s : State} {I : Iss} {i : Instr} {rmw : Bool} {folds : List (Reg ⊕ Word)} {f : Rd → Except Stop Res} {dst : Reg}
    {v : Nat → VReg} (h : Issues s i rmw [] I) (hexec : exec i s = runBoth s i rmw folds f ∨ exec i s = runReg s i rmw folds f)
    (hf : ∀ lane ∈ I.runs, f (I.c.rd lane) = .ok { writes := [(dst, v lane)] }) (hu : OneValue I dst v) :
    ∃ t c, exec i s = .next t ∧ Moves s t I c (fun _ => pcNext I.E.pc) ∧ Wrote I c dst v ∧ Quiet s t := by
  obtain ⟨hboth, hreg⟩ := runBoth_yields (folds := folds) h hf hu
  rcases hexec with hx | hx
  · rw [hx]
    exact hboth
  · rw [hx]
    exact hreg

/-- A one-source form over W-bit values; W is at most 64 for the sake of ADDI's immediate. -/
theorem oneSource_exec {i : Instr} {f : Gen} {rule : TagRule} {op : (W : Nat) → BitVec W → BitVec W} (h : oneSource i = some (f, rule, op)) :
    ∃ o : Nat → Nat → Nat, (∀ W ≤ 64, ∀ x : BitVec W, BitVec.ofNat W (o W x.toNat) = op W x) ∧
      ∀ s, exec i s = runBoth s i false [] (intOne f rule o) ∨ exec i s = runReg s i false [] (intOne f rule o) := by
  cases i <;> simp only [oneSource, Option.some.injEq, Prod.mk.injEq, reduceCtorEq] at h
  all_goals obtain ⟨rfl, rfl, rfl⟩ := h
  case addi f => exact ⟨fun W a => opAdd W a (immNat f.imm W), fun W hW x => addi_bv f x hW, fun s => .inl rfl⟩
  case clz => exact ⟨opClz, fun W _ => clz_bv, fun s => .inr rfl⟩
  case ctz => exact ⟨opCtz, fun W _ => ctz_bv, fun s => .inr rfl⟩
  case popc => exact ⟨opPopc, fun W _ => popc_bv, fun s => .inr rfl⟩
  case brev => exact ⟨opBrev, fun W _ => brev_bv, fun s => .inr rfl⟩
  case abs => exact ⟨opAbs, fun W _ => abs_bv, fun s => .inr rfl⟩
  case bfx f => exact ⟨opBfx f, fun W _ => bfx_bv f, fun s => .inl rfl⟩

theorem division_exec {i : Instr} {f : Gen} {rule : TagRule} {op : (W : Nat) → BitVec W → BitVec W → BitVec W}
    (h : division i = some (f, rule, op)) :
    ∃ o : Nat → Nat → Nat → Nat, (∀ W (x y : BitVec W), BitVec.ofNat W (o W x.toNat y.toNat) = op W x y) ∧
      ∀ s, exec i s = runReg s i false [] (intDiv f rule o) := by
  cases i <;> simp only [division, Option.some.injEq, Prod.mk.injEq, reduceCtorEq] at h
  all_goals obtain ⟨rfl, rfl, rfl⟩ := h
  case div => exact ⟨opDiv, fun W => div_bv, fun s => rfl⟩
  case divu => exact ⟨opDivu, fun W => divu_bv, fun s => rfl⟩
  case rem => exact ⟨opRem, fun W => rem_bv, fun s => rfl⟩
  case remu => exact ⟨opRemu, fun W => remu_bv, fun s => rfl⟩

/-! ## Results of one strand (R170, R171) -/

section
variable {f : Gen} {rule : TagRule} {rd : Rd}

/-- A v source may stand in a form of width W (R171). -/
def carriesInt (rd : Rd) (W : Nat) (r : Reg) : Prop := intTag (rd.vec r).tag = true ∧ tagWidth (rd.vec r).tag = W

/-- Element j of W bits of a v source. -/
def srcElement (rd : Rd) (r : Reg) (W j : Nat) : BitVec W := (rd.vec r).bits.extractLsb' (W * j) W

theorem vecLanes_srcElement (rd : Rd) (r : Reg) (W : Nat) :
    vecLanes W (rd.vec r).bits = (List.range (512 / W)).map (fun j => (srcElement rd r W j).toNat) :=
  List.map_congr_left fun j _ => laneOf_eq W _ j

theorem srcB_ok {W : Nat} (hW : W ≤ 64) (hb : modImm f.mod = true ∨ carriesInt rd W f.sb) :
    srcB rd f W = .ok ((List.range (512 / W)).map (fun j => (if modImm f.mod then immBits f W else srcElement rd f.sb W j).toNat)) := by
  unfold srcB
  split
  · rw [immNat_eq _ f rfl W hW, List.map_const', List.length_range]
  · next himm => rw [needInt_ok (hb.resolve_left himm), vecLanes_srcElement]

/-- A vector two-source form writes its operation element by element. -/
theorem intTwo_vector {o : Nat → Nat → Nat → Nat} {op : (W : Nat) → BitVec W → BitVec W → BitVec W}
    (ho : ∀ W (x y : BitVec W), BitVec.ofNat W (o W x.toNat y.toNat) = op W x y) (hv : modV f.mod = true)
    (ha : carriesInt rd (intWidth f.mod) f.sa) (hb : modImm f.mod = true ∨ carriesInt rd (intWidth f.mod) f.sb) :
    let W := intWidth f.mod
    intTwo f rule o rd = .ok { writes := [(f.dst,
      { bits := vector W (fun j => op W (srcElement rd f.sa W j) (if modImm f.mod then immBits f W else srcElement rd f.sb W j))
        tag := rule.tag W (rd.vec f.sa).tag, exps := 0 })] } := by
  intro W
  unfold intTwo
  simp only [hv, if_true, needInt_ok ha, srcB_ok (intWidth_le f.mod).1 hb, vecLanes_srcElement, zipWith_range]
  rw [vecOfLanes_vector W _ _ (fun j _ => ho W _ _)]

theorem intOne_scalar {o : Nat → Nat → Nat} {op : (W : Nat) → BitVec W → BitVec W}
    (ho : ∀ W ≤ 64, ∀ x : BitVec W, BitVec.ofNat W (o W x.toNat) = op W x) (hv : modV f.mod = false) (rd : Rd) :
    let W := intWidth f.mod
    intOne f rule o rd = .ok (Res.word f.dst (widen f (op W ((rd.get f.sa).setWidth W)))) := by
  simp only [intOne, hv, Bool.false_eq_true, if_false, extendTo_widen, ← ho _ (intWidth_le f.mod).1, BitVec.toNat_setWidth]

/-- A vector one-source form writes its operation element by element. -/
theorem intOne_vector {o : Nat → Nat → Nat} {op : (W : Nat) → BitVec W → BitVec W}
    (ho : ∀ W ≤ 64, ∀ x : BitVec W, BitVec.ofNat W (o W x.toNat) = op W x) (hv : modV f.mod = true)
    (ha : carriesInt rd (intWidth f.mod) f.sa) :
    let W := intWidth f.mod
    intOne f rule o rd = .ok { writes := [(f.dst,
      { bits := vector W (fun j => op W (srcElement rd f.sa W j)), tag := rule.tag W (rd.vec f.sa).tag, exps := 0 })] } := by
  intro W
  unfold intOne
  simp only [hv, if_true, needInt_ok ha, vecLanes_srcElement, List.map_map, Function.comp_def]
  rw [vecOfLanes_vector W _ _ (fun j _ => ho W (intWidth_le f.mod).1 _)]
end

/-- Settles O1: each form's operation on numbers is the table's on bit vectors, and the strands write what it answers. -/
theorem integers : Obligations.Integers := by
  refine ⟨fun i f rule op hi hv s I h _ hu => ?_, fun i f rule op hi hv s I h hsrc hu => ?_, fun i f rule op hi => ⟨fun hv s I h _ hu => ?_,
    fun hv s I h ha hu => ?_⟩⟩
  · obtain ⟨o, ho, hexec⟩ := twoSource_exec hi
    exact form_yields h (hexec s) (fun lane _ => intTwo_scalar ho hv (I.c.rd lane)) hu
  · obtain ⟨ha, hb⟩ := hsrc
    obtain ⟨o, ho, hexec⟩ := twoSource_exec hi
    exact form_yields h (hexec s) (fun lane hl => intTwo_vector ho hv (ha lane hl) (hb.imp_right (· lane hl))) hu
  · obtain ⟨o, ho, hexec⟩ := oneSource_exec hi
    exact form_yields h (hexec s) (fun lane _ => intOne_scalar ho hv (I.c.rd lane)) hu
  · obtain ⟨o, ho, hexec⟩ := oneSource_exec hi
    exact form_yields h (hexec s) (fun lane hl => intOne_vector ho hv (ha lane hl)) hu

end Sys2Proof.Laws
end

section
/-! Division (R157, R174): it completes where no running strand's divisor is zero, and raises DIV0 in the strands whose divisor is. -/
namespace Sys2Proof.Laws
open Sys2Proof.Machine Sys2Proof.Safety

/-! ## How failures of strands combine (R458) -/

/-- The failure of a strand's answer. -/
def failureOf {α : Type} (x : Nat × Except Stop α) : Option (Nat × Stop) :=
  match x.2 with
  | .error e => some (x.1, e)
  | .ok _ => none

theorem each_error {α : Type} {I : Iss} {f : Nat → Except Stop α} {e : Stop} {m : BitVec 16}
    (h : combineStops ((I.runs.map (fun i => (i, f i))).filterMap failureOf) = some (e, m)) :
    I.each f = .error (e, if I.uni then maskOf I.lanes else m) := by
  unfold Iss.each
  change (match combineStops ((I.runs.map (fun i => (i, f i))).filterMap failureOf) with | some (e, m) => _ | none => _) = _
  rw [h]

section
variable {α : Type} {I : Iss} {f : Nat → Except Stop α} {bad : Nat → Bool} {t : Nat → Trp}

theorem failureOf_filter {l : List Nat} (hb : ∀ i ∈ l, bad i = true → f i = .error (.trap (t i)))
    (hg : ∀ i ∈ l, bad i = false → ∃ a, f i = .ok a) :
    (l.map (fun i => (i, f i))).filterMap failureOf = (l.filter bad).map (fun i => (i, Stop.trap (t i))) := by
  induction l with
  | nil => rfl
  | cons i l ih =>
    have ih := ih (fun j hj => hb j (List.mem_cons_of_mem _ hj)) (fun j hj => hg j (List.mem_cons_of_mem _ hj))
    cases hi : bad i with
    | true => simp only [List.map_cons, List.filterMap_cons, failureOf, hb i List.mem_cons_self hi, ih, List.filter_cons, hi, if_true]
    | false =>
      obtain ⟨x, hx⟩ := hg i List.mem_cons_self hi
      simp only [List.map_cons, List.filterMap_cons, failureOf, hx, ih, List.filter_cons, hi, Bool.false_eq_true, if_false]

/-- The failing strands among those that run, from those that issue. -/
theorem runs_filter {k : Nat} {l : List Nat} (hk : I.lanes.filter (fun j => bad (sourceOf I j)) = k :: l) :
    ∃ r, I.runs.filter bad = sourceOf I k :: r ∧ (if I.uni then maskOf I.lanes else maskOf (sourceOf I k :: r)) = maskOf (k :: l) := by
  cases hU : I.uni with
  | true =>
    simp only [sourceOf, hU, if_true] at hk ⊢
    have hbad : bad I.leader = true := (List.mem_filter.1 (hk ▸ List.mem_cons_self : k ∈ I.lanes.filter _)).2
    refine ⟨[], by simp [Iss.runs, hU, hbad], ?_⟩
    rw [← hk, hbad, List.filter_true]
  | false =>
    simp only [sourceOf, hU, Bool.false_eq_true, if_false] at hk ⊢
    exact ⟨l, by simpa [Iss.runs, hU] using hk, rfl⟩

/-- When some strands trap, all in one way, exactly those trap, and the lowest of them decides. -/
theorem each_traps_lowest {cause detail : Byte}
    (hb : ∀ i ∈ I.runs, bad i = true → f i = .error (.trap (t i)) ∧ (t i).cause = cause ∧ (t i).detail = detail)
    (hg : ∀ i ∈ I.runs, bad i = false → ∃ a, f i = .ok a) {k : Nat} {l : List Nat}
    (hk : I.lanes.filter (fun j => bad (sourceOf I j)) = k :: l) :
    I.each f = .error (.trap (t (sourceOf I k)), maskOf (k :: l)) := by
  obtain ⟨r, hfilter, hmask⟩ := runs_filter hk
  have hall : ∀ i ∈ sourceOf I k :: r, (t i).cause = cause ∧ (t i).detail = detail := fun i hi => by
    obtain ⟨hrun, hbad⟩ := List.mem_filter.1 (hfilter ▸ hi)
    exact (hb i hrun hbad).2
  have hstops := combineStops_traps _ r t cause detail hall
  rw [← hfilter, ← failureOf_filter (fun i hi hbad => (hb i hi hbad).1) hg] at hstops
  rw [each_error hstops, hfilter, hmask]
end

/-- The strands that issue stand in ascending order. -/
theorem lanes_ascend {s : State} {i : Instr} {rmw : Bool} {req : List Reg} {I : Iss} (h : Issues s i rmw req I) : I.lanes.Pairwise (· < ·) := by
  obtain ⟨f, -, hlanes, -⟩ := h.form
  rw [hlanes]
  exact (List.pairwise_lt_range.filter _).filter _

/-- The first of some strands in ascending order is the lowest bit of their mask. -/
theorem maskOf_lowest {k : Nat} {l : List Nat} (hasc : (k :: l).Pairwise (· < ·)) (hlt : ∀ j ∈ k :: l, j < 16) {m : Nat} (hm : m < 16)
    (hset : (maskOf (k :: l)).getLsbD m = true) (hlow : ∀ j < m, (maskOf (k :: l)).getLsbD j = false) : m = k := by
  have hkset : (maskOf (k :: l)).getLsbD k = true := by
    rw [maskOf_bit _ hlt k (hlt k List.mem_cons_self)]
    simp
  rw [maskOf_bit _ hlt m hm, decide_eq_true_eq, List.mem_cons] at hset
  refine hset.resolve_right fun hml => ?_
  rw [hlow k ((List.pairwise_cons.1 hasc).1 m hml)] at hkset
  cases hkset

/-! ## The divisors of one strand (R174) -/

section
variable {f : Gen} {rule : TagRule} {o : Nat → Nat → Nat → Nat} {I : Iss} {lane : Nat}

/-- The zero elements of a v source, as a mask. -/
def zeroElements (rd : Rd) (r : Reg) (W : Nat) : Nat :=
  (((List.range (512 / W)).filter (fun j => srcElement rd r W j == 0)).map (fun j => 2 ^ j)).sum

theorem zeroElements_eq_zero {rd : Rd} {r : Reg} {W : Nat} :
    zeroElements rd r W = 0 ↔ ∀ j < 512 / W, srcElement rd r W j ≠ 0 := by
  simp only [zeroElements, List.sum_eq_zero_iff, List.forall_mem_map, List.mem_filter, List.mem_range, beq_iff_eq, and_imp]
  simp

/-- The mask that a division gathers over its divisors. -/
theorem zeroFold_eq (rd : Rd) (r : Reg) (W : Nat) :
    (vecLanes W (rd.vec r).bits).zipIdx.foldl (fun m x => if x.1 = 0 then m + 2 ^ x.2 else m) 0 = zeroElements rd r W := by
  have hidx : ((List.range (512 / W)).map (fun j => (srcElement rd r W j).toNat)).zipIdx =
      (List.range (512 / W)).map (fun j => ((srcElement rd r W j).toNat, j)) :=
    List.ext_getElem (by simp) (by simp)
  have hzero (j : Nat) : (srcElement rd r W j).toNat = 0 ↔ srcElement rd r W j = 0 := BitVec.toNat_inj (y := 0)
  rw [vecLanes_srcElement, hidx, List.foldl_map, zeroElements, List.sum_eq_foldl, List.foldl_map, List.foldl_filter]
  simp only [hzero, beq_iff_eq]

/-- A vector division whose sources carry integers of its width. -/
theorem intDiv_vector (hv : modV f.mod = true) (rd : Rd) {r : Res} (hr : intTwo f rule o rd = .ok r) :
    intDiv f rule o rd = if zeroElements rd f.sb (intWidth f.mod) = 0 then .ok r
      else .error (Trp.stop Cause.div0 0 (BitVec.ofNat 64 (zeroElements rd f.sb (intWidth f.mod)))) := by
  simp only [intDiv, hv, if_true, hr, zeroFold_eq, beq_iff_eq]

theorem intDiv_scalar (hv : modV f.mod = false) (I : Iss) (lane : Nat) :
    intDiv f rule o (I.c.rd lane) = if lowBits I lane f.sb (intWidth f.mod) = 0
      then .error (Trp.stop Cause.div0 0 ((lowBits I lane f.sa (intWidth f.mod)).setWidth 64)) else intTwo f rule o (I.c.rd lane) := by
  simp only [intDiv, hv, Bool.false_eq_true, if_false, read_mod, beq_iff_eq, ← BitVec.toNat_inj (y := 0), BitVec.ofNat_toNat]
  rfl

/-- What a strand whose divisor is zero raises. -/
def divTrap (f : Gen) (I : Iss) (lane : Nat) : Trp :=
  { cause := Cause.div0, detail := 0
    tval := if modV f.mod then BitVec.ofNat 64 (zeroElements (I.c.rd lane) f.sb (intWidth f.mod))
      else (lowBits I lane f.sa (intWidth f.mod)).setWidth 64 }

theorem zeroDivisor_vector (hv : modV f.mod = true) : zeroDivisor I lane f ↔ zeroElements (I.c.rd lane) f.sb (intWidth f.mod) ≠ 0 := by
  rw [zeroDivisor, if_pos hv, Ne, zeroElements_eq_zero]
  push Not
  rfl

theorem zeroDivisor_scalar (hv : modV f.mod = false) : zeroDivisor I lane f ↔ lowBits I lane f.sb (intWidth f.mod) = 0 := by
  rw [zeroDivisor, if_neg (by simp [hv])]

/-- The sources of a running strand of a vector division carry integers of its width. -/
def SourcesFit (f : Gen) (I : Iss) (lane : Nat) : Prop :=
  modV f.mod = true → carriesInt (I.c.rd lane) (intWidth f.mod) f.sa ∧ carriesInt (I.c.rd lane) (intWidth f.mod) f.sb

theorem intTwo_answers (hfit : SourcesFit f I lane) : ∃ r, intTwo f rule o (I.c.rd lane) = .ok r := by
  unfold intTwo
  cases hv : modV f.mod with
  | false => exact ⟨_, rfl⟩
  | true =>
    obtain ⟨ha, hb⟩ := hfit hv
    rw [if_pos rfl, needInt_ok ha, srcB_ok (intWidth_le f.mod).1 (.inr hb)]
    exact ⟨_, rfl⟩

theorem intDiv_zero (hfit : SourcesFit f I lane) (hz : zeroDivisor I lane f) :
    intDiv f rule o (I.c.rd lane) = .error (.trap (divTrap f I lane)) := by
  cases hv : modV f.mod with
  | false =>
    rw [intDiv_scalar hv, if_pos ((zeroDivisor_scalar hv).1 hz), divTrap, hv]
    rfl
  | true =>
    obtain ⟨r, hr⟩ := intTwo_answers (rule := rule) (o := o) hfit
    rw [intDiv_vector hv _ hr, if_neg ((zeroDivisor_vector hv).1 hz), divTrap, hv]
    rfl

theorem intDiv_nonzero (hfit : SourcesFit f I lane) (hz : ¬ zeroDivisor I lane f) :
    intDiv f rule o (I.c.rd lane) = intTwo f rule o (I.c.rd lane) := by
  cases hv : modV f.mod with
  | false => rw [intDiv_scalar hv, if_neg (mt (zeroDivisor_scalar hv).2 hz)]
  | true =>
    obtain ⟨r, hr⟩ := intTwo_answers (rule := rule) (o := o) hfit
    rw [intDiv_vector hv _ hr, if_pos (not_ne_iff.1 (mt (zeroDivisor_vector hv).2 hz)), hr]
end

open Classical in
/-- DIV0 in the executing strands whose divisor is zero, as the lowest of them raises it. -/
theorem division_traps {s : State} {I : Iss} {i : Instr} {f : Gen} {rule : TagRule} {op : (W : Nat) → BitVec W → BitVec W → BitVec W}
    (hi : division i = some (f, rule, op)) (h : Issues s i false [] I) (hfit : ∀ lane ∈ I.runs, SourcesFit f I lane) {k : Nat} {l : List Nat}
    (hk : I.lanes.filter (fun j => decide (zeroDivisor I (sourceOf I j) f)) = k :: l) :
    Traps s i I (divTrap f I (sourceOf I k)) (maskOf (k :: l)) := by
  obtain ⟨o, -, hexec⟩ := division_exec hi
  have heach := each_traps_lowest (f := fun lane => intDiv f rule o (I.c.rd lane)) (bad := fun lane => decide (zeroDivisor I lane f))
    (t := divTrap f I) (cause := Cause.div0) (detail := 0) (fun lane hl hz => ⟨intDiv_zero (hfit lane hl) (of_decide_eq_true hz), rfl, rfl⟩)
    (fun lane hl hz => by rw [intDiv_nonzero (hfit lane hl) (of_decide_eq_false hz)]; exact intTwo_answers (hfit lane hl)) hk
  unfold Traps
  rw [hexec]
  exact runLanes_traps h heach (show Cause.div0 ≠ Cause.illegal by decide)

/-- A strand runs for those that issue with it. -/
theorem sourceOf_runs {I : Iss} {lane : Nat} (h : lane ∈ I.runs) (hne : I.lanes ≠ []) : ∃ j ∈ I.lanes, sourceOf I j = lane := by
  cases hU : I.uni with
  | true =>
    obtain ⟨j, hj⟩ := List.exists_mem_of_ne_nil _ hne
    exact ⟨j, hj, by simp_all [Iss.runs, sourceOf]⟩
  | false => exact ⟨lane, by simpa [Iss.runs, hU] using h, by simp [sourceOf, hU]⟩

open Classical in
/-- Settles O2: where no divisor is zero a division is a two-source form, and elsewhere the strands whose divisor is zero trap. -/
theorem division : Obligations.Division := by
  refine ⟨fun i f rule op hi himm => ⟨fun hv s I h hnz hu => ?_, fun hv s I h hsrc hu => ?_⟩, fun i f rule op hi himm s I h hsrc hz => ?_⟩
  · obtain ⟨o, ho, hexec⟩ := division_exec hi
    refine form_yields h (.inr (hexec s)) (fun lane hl => ?_) hu
    rw [intDiv_nonzero (by simp [SourcesFit, hv]) (mt (zeroDivisor_scalar hv).1 (hnz lane hl)), intTwo_scalar ho hv, himm]
    rfl
  · obtain ⟨ha, hb, hnz⟩ := hsrc
    obtain ⟨o, ho, hexec⟩ := division_exec hi
    refine form_yields h (.inr (hexec s)) (fun lane hl => ?_) hu
    have hnz : zeroElements (I.c.rd lane) f.sb (intWidth f.mod) = 0 := zeroElements_eq_zero.2 (hnz lane hl)
    rw [intDiv_vector hv _ (intTwo_vector ho hv (ha lane hl) (.inr (hb lane hl))), if_pos hnz, himm]
    rfl
  · obtain ⟨hlt, -, -⟩ := lanes_lt h
    obtain ⟨lane, hlane, hz⟩ := hz
    obtain ⟨j, hj, rfl⟩ := sourceOf_runs hlane h.some
    obtain ⟨k, l, hk⟩ := List.exists_cons_of_ne_nil
      (List.ne_nil_of_mem (List.mem_filter (p := fun j => decide (zeroDivisor I (sourceOf I j) f)).2 ⟨hj, decide_eq_true hz⟩))
    have hbit (m : Nat) (hm : m < 16) : (maskOf (k :: l)).getLsbD m = true ↔ m ∈ I.lanes ∧ zeroDivisor I (sourceOf I m) f := by
      rw [← hk, maskOf_bit _ (fun j hj => hlt j (List.mem_of_mem_filter hj)) m hm, decide_eq_true_eq, List.mem_filter, decide_eq_true_eq]
    refine ⟨_, _, division_traps hi h (fun lane hl hv => ⟨(hsrc hv).1 lane hl, (hsrc hv).2 lane hl⟩) hk, rfl, rfl, hbit, fun m hm hset hlow => ?_⟩
    have hasc := (lanes_ascend h).filter (fun j => decide (zeroDivisor I (sourceOf I j) f))
    rw [hk] at hasc
    obtain rfl := maskOf_lowest hasc (fun j hj => hlt j (List.mem_of_mem_filter (hk ▸ hj))) hm hset hlow
    rfl

end Sys2Proof.Laws
end

section
/-! Moves, comparisons, addresses and identification (R177 to R183): the value of each rule. -/
namespace Sys2Proof.Laws
open Sys2Proof.Machine Sys2Proof.Safety

/-! ## Values of one strand (R177 to R181) -/

section
variable {W : Nat}

theorem ite_beq_zero (x : BitVec W) : (if x.toNat == 0 then (0 : Word) else 1) = if x != 0 then 1 else 0 := by
  have hzero : x.toNat = 0 ↔ x = 0 := BitVec.toNat_inj (y := 0)
  by_cases hx : x = 0 <;> simp [hx, hzero]

theorem movRes_ok (f : Gen) (I : Iss) (lane : Nat) : movRes f (I.c.rd lane) = .ok { writes := [(f.dst,
    match f.dst, f.sa with
    | .v _, a => (I.c.rd lane).vec a
    | .p _, .p j => VReg.ofWord (I.c.read lane (.p j))
    | .p _, a => truth (lowBits I lane a (intWidth f.mod) != 0)
    | _, .p j => VReg.ofWord (I.c.read lane (.p j))
    | _, a => VReg.ofWord (widen f (lowBits I lane a (intWidth f.mod))))] } := by
  simp only [movRes, extendTo_widen, read_mod, ite_beq_zero, BitVec.ofNat_toNat, BitVec.setWidth_eq]
  cases hd : f.dst <;> cases ha : f.sa <;> rfl

theorem cmpCond_eq (n : Nat) (x y : BitVec W) : cmpCond n W x.toNat y.toNat = condition n W x y := by
  have heq : (x.toNat == y.toNat) = (x == y) := by rw [Bool.eq_iff_iff, beq_iff_eq, beq_iff_eq, BitVec.toNat_inj]
  match n with
  | 0 => exact heq
  | 1 => exact congrArg not heq
  | 2 => simp [cmpCond, condition, sgn_toNat, BitVec.slt]
  | 3 => simp [cmpCond, condition, sgn_toNat, BitVec.sle]
  | 4 => rfl
  | n + 5 => simp [cmpCond, condition, BitVec.ule]

/-- MOVH puts 16 bits of the immediate above the low 48 bits of its destination (R179). -/
theorem movh_value (imm : BitVec 48) (x : Word) :
    BitVec.ofNat 64 (x.toNat % 2 ^ 48 + imm.toNat % 2 ^ 16 * 2 ^ 48) = (imm.extractLsb' 0 16 ++ x.extractLsb' 0 48 : BitVec 64) := by
  apply BitVec.eq_of_toNat_eq
  have hlow : x.toNat % 2 ^ 48 < 2 ^ 48 := Nat.mod_lt _ (by decide)
  rw [BitVec.toNat_append, BitVec.extractLsb'_toNat, BitVec.extractLsb'_toNat, Nat.shiftRight_zero, Nat.shiftRight_zero,
    Nat.shiftLeft_eq, Nat.mul_comm, ← Nat.two_pow_add_eq_or_of_lt hlow, BitVec.toNat_ofNat]
  omega
end

/-- Settles O3: each form's value from its strand's own sources. -/
theorem scalarMoves : Obligations.ScalarMoves := by
  refine ⟨fun f s I h _ hu => ?_, fun f s I h _ hu => ?_, fun f s I h _ hu => ?_, fun f s I h _ hu => ?_, fun f s I h _ hu => ?_,
    fun f s I h _ hu => ?_, fun f s I h _ hu => ?_⟩
  · refine form_yields h (.inr (Eq.refl (execSel f s))) (fun lane _ => ?_) hu
    simp only [extendTo_widen, read_mod, ← apply_ite BitVec.toNat, BitVec.ofNat_toNat, BitVec.setWidth_eq, beq_iff_eq]
    rfl
  · exact form_yields h (.inl (Eq.refl (execMov f s))) (fun lane _ => movRes_ok f I lane) hu
  · exact form_yields h (.inl (Eq.refl (execMovi f s))) (fun lane _ => congrArg (fun x => Except.ok (Res.word f.dst x)) (extendTo_immediate f)) hu
  · exact form_yields h (.inl (Eq.refl (execMovh f s))) (fun lane _ => congrArg (fun x => Except.ok (Res.word f.dst x)) (movh_value f.imm _)) hu
  · refine form_yields h (.inr (Eq.refl (execCmp f s))) (fun lane _ => ?_) hu
    simp only [read_mod, immNat_eq _ f rfl _ (intWidth_le f.mod).1, ← apply_ite BitVec.toNat, cmpCond_eq]
    rfl
  · exact form_yields h (.inr (Eq.refl (execPlop f s))) (fun lane _ => rfl) hu
  · exact form_yields h (.inl (Eq.refl (execLea f s))) (fun lane _ => rfl) hu

/-! ## RDID (R183) -/

theorem runCourse_congr {s : State} {i : Instr} {rmw : Bool} {req : List Reg} {I : Iss} {b b' : Iss → State → Ran} (h : Issues s i rmw req I)
    (hb : b I (passed s I) = b' I (passed s I)) : runCourse s i rmw req b = runCourse s i rmw req b' := by
  obtain ⟨u, hu⟩ | ⟨u, hu⟩ : (∃ u, ∃ e, b' I (passed s I) = (u, .ok e)) ∨ ∃ u, ∃ x, b' I (passed s I) = (u, .error x) := by
    rcases b' I (passed s I) with ⟨u, x | e⟩
    · exact .inr ⟨u, x, rfl⟩
    · exact .inl ⟨u, e, rfl⟩
  · obtain ⟨e, hu⟩ := hu
    rw [runCourse_ok h hu, runCourse_ok h (hb.trans hu)]
  · obtain ⟨x, hu⟩ := hu
    rw [runCourse_error h hu, runCourse_error h (hb.trans hu)]

/-- What RDID reads is not of the course's one-time passes. -/
theorem rdidVal_passed (s : State) (I : Iss) (lane n : Nat) : rdidVal (passed s I) I lane n = rdidVal s I lane n := by
  unfold passed
  split <;> rfl

/-- RDID writes as a cross-strand form does: each executing strand a value of its own. -/
theorem rdid_cross {s : State} {I : Iss} {f : Gen} (h : Issues s (.rdid f) false [] I) :
    exec (.rdid f) s = runCross s (.rdid f) [] [] (fun I lane => .ok (Res.word f.dst (rdidVal s I lane (bitsOf f.imm.toNat 7 0)))) := by
  change execRdid f s = _
  refine runCourse_congr h ?_
  have heach := each_ok (I := own I) (fun lane _ =>
    (rfl : Except.ok (Res.word f.dst (rdidVal s (own I) lane (bitsOf f.imm.toNat 7 0))) = _))
  change (own I).each _ = .ok (I.lanes.map _) at heach
  unfold own at heach
  simp only [heach, rdidVal_passed]
  rfl

/-- Settles O4: each executing strand gets its own value of R183. -/
theorem identification : Obligations.Identification := by
  intro f s I h _ hu
  rw [rdid_cross h]
  refine runCross_yields h (fun lane _ => ?_) hu
  refine congrArg (fun x => Except.ok (Res.word f.dst x)) ?_
  simp only [rdidVal, Nat.div_div_eq_div_mul]
  rfl

end Sys2Proof.Laws
end

section
/-! The one rounding of R191 and R209: a floating-point result is the exact value's neighbour among the format's values, and the exact sum and
product. -/
namespace Sys2Proof.Laws
open Sys2Proof.Machine Sys2Proof.Safety

/-! ## The values of encodings (R188) -/

/-- A magnitude's encoding with k fraction bits as a number of units of the lowest subnormal bit. -/
def encMag (k n : Nat) : Nat := if n < 2 ^ k then n else (2 ^ k + n % 2 ^ k) * 2 ^ (n / 2 ^ k - 1)

/-- q steps of 2^a are the encoding q above a binades, also where q carries into the next binade. -/
theorem encMag_binade {k a q : Nat} (hlow : a = 0 ∨ 2 ^ k ≤ q) (hhigh : q ≤ 2 ^ (k + 1)) : encMag k (a * 2 ^ k + q) = q * 2 ^ a := by
  have hpos : 0 < 2 ^ k := Nat.two_pow_pos k
  have hdouble : 2 ^ (k + 1) = 2 ^ k + 2 ^ k := by rw [Nat.pow_succ]; omega
  unfold encMag
  by_cases hsub : q < 2 ^ k
  · obtain rfl : a = 0 := by omega
    simp [hsub]
  · obtain ⟨f, rfl⟩ := Nat.exists_eq_add_of_le (Nat.le_of_not_lt hsub)
    rw [if_neg (by nlinarith)]
    by_cases hf : f < 2 ^ k
    · have hn : a * 2 ^ k + (2 ^ k + f) = f + 2 ^ k * (a + 1) := by ring
      rw [hn, Nat.add_mul_mod_self_left, Nat.add_mul_div_left _ _ hpos, Nat.mod_eq_of_lt hf, Nat.div_eq_of_lt hf, Nat.zero_add,
        Nat.add_sub_cancel]
    · obtain rfl : f = 2 ^ k := by omega
      have hn : a * 2 ^ k + (2 ^ k + 2 ^ k) = 2 ^ k * (a + 2) := by ring
      rw [hn, Nat.mul_mod_right, Nat.mul_div_cancel_left _ hpos, show a + 2 - 1 = a + 1 from rfl, Nat.pow_succ]
      ring

/-- Every encoding is some steps of its binade. -/
theorem exists_binade (k n : Nat) : ∃ a q, n = a * 2 ^ k + q ∧ (a = 0 ∨ 2 ^ k ≤ q) ∧ q < 2 ^ (k + 1) := by
  have hpos : 0 < 2 ^ k := Nat.two_pow_pos k
  have hdouble : 2 ^ (k + 1) = 2 ^ k + 2 ^ k := by rw [Nat.pow_succ]; omega
  by_cases hsub : n < 2 ^ k
  · exact ⟨0, n, by omega, .inl rfl, by omega⟩
  · have hmod := Nat.mod_lt n hpos
    have hdiv := Nat.div_add_mod n (2 ^ k)
    obtain ⟨a, ha⟩ := Nat.exists_eq_add_of_le' ((Nat.one_le_div_iff hpos).2 (Nat.le_of_not_lt hsub))
    refine ⟨a, 2 ^ k + n % 2 ^ k, ?_, .inr (by omega), by omega⟩
    rw [ha] at hdiv
    rw [← Nat.add_assoc, ← Nat.succ_mul, Nat.mul_comm]
    exact hdiv.symm

/-- The encoding grows with the magnitude. -/
theorem encMag_strictMono (k : Nat) : StrictMono (encMag k) := by
  refine strictMono_nat_of_lt_succ fun n => ?_
  obtain ⟨a, q, rfl, hlow, hhigh⟩ := exists_binade k n
  rw [Nat.add_assoc, encMag_binade hlow hhigh.le, encMag_binade (hlow.imp_right (Nat.le_add_right_of_le)) hhigh]
  exact Nat.mul_lt_mul_of_pos_right (Nat.lt_succ_self q) (Nat.two_pow_pos a)

/-! ## The formats (R188, R189) -/

/-- Each format has a sign bit above its greatest encoding, and a fraction below it. -/
theorem format_fits : ∀ T : Tag, fpTag T = true →
    fpMaxEnc T < 2 ^ (tagWidth T - 1) ∧ 1 ≤ fracBits T ∧ fracBits T ≤ tagWidth T - 1 ∧ 2 ≤ tagWidth T := by decide

theorem scaled_fin (k : Int) (neg : Bool) (mag : Nat) {e : Int} :
    scaled k (.fin neg mag e) = (if neg then -1 else 1) * ((mag * 2 ^ (e - k).toNat : Nat) : Int) := by
  simp only [scaled]; push_cast; ring

theorem numOf_fin {T : Tag} (hT : fpTag T = true) {b : Nat} (hb : b < 2 ^ tagWidth T) (hmax : b % 2 ^ (tagWidth T - 1) ≤ fpMaxEnc T)
    {k : Int} (hk : k ≤ lowExp T) :
    (numOf T b).isFin = true ∧ scaled k (numOf T b) =
      (if b.testBit (tagWidth T - 1) then -1 else 1) *
        ((encMag (fracBits T) (b % 2 ^ (tagWidth T - 1)) * 2 ^ (lowExp T - k).toNat : Nat) : Int) := by
  obtain ⟨-, -, hfrac, -⟩ := format_fits T hT
  have hsplit : b % 2 ^ fracBits T = b % 2 ^ (tagWidth T - 1) % 2 ^ fracBits T := (Nat.mod_mod_of_dvd _ (pow_dvd_pow 2 hfrac)).symm
  simp only [numOf, hT, if_true, Nat.mod_eq_of_lt hb, if_neg (Nat.not_lt.2 hmax), hsplit]
  generalize b % 2 ^ (tagWidth T - 1) = m
  have hpos : 0 < 2 ^ fracBits T := Nat.two_pow_pos _
  by_cases hsub : m / 2 ^ fracBits T = 0
  · have hm : m < 2 ^ fracBits T := (Nat.div_eq_zero_iff_lt hpos).1 hsub
    rw [hsub]
    refine ⟨rfl, ?_⟩
    simp only [beq_self_eq_true, if_true, scaled_fin, encMag, if_pos hm, Nat.mod_eq_of_lt hm]
    rfl
  · have hm : ¬ m < 2 ^ fracBits T := fun h => hsub (Nat.div_eq_of_lt h)
    have hexp : ((m / 2 ^ fracBits T : Nat) : Int) - fpBias T - fracBits T - k = ((m / 2 ^ fracBits T - 1 : Nat) : Int) + (lowExp T - k) := by
      have hone : 1 ≤ m / 2 ^ fracBits T := Nat.pos_of_ne_zero hsub
      rw [Nat.cast_sub hone, lowExp]
      push_cast
      ring
    rw [if_neg (by simpa using hsub)]
    refine ⟨rfl, ?_⟩
    rw [scaled_fin, hexp, Int.toNat_add (by omega) (by omega), Int.toNat_natCast, encMag, if_neg hm, Nat.pow_add, Nat.mul_assoc]

theorem le_maxEnc_of_isFin {T : Tag} (hT : fpTag T = true) {b : Nat} (hb : b < 2 ^ tagWidth T) (hfin : (numOf T b).isFin = true) :
    b % 2 ^ (tagWidth T - 1) ≤ fpMaxEnc T := by
  by_contra hmax
  simp only [numOf, hT, if_true, Nat.mod_eq_of_lt hb, if_pos (Nat.not_le.1 hmax)] at hfin
  split at hfin <;> exact Bool.false_ne_true hfin

theorem signBit_testBit {T : Tag} (hT : fpTag T = true) {m : Nat} (hm : m < 2 ^ (tagWidth T - 1)) (neg : Bool) :
    signBit T neg + m < 2 ^ tagWidth T ∧ (signBit T neg + m).testBit (tagWidth T - 1) = neg ∧ (signBit T neg + m) % 2 ^ (tagWidth T - 1) = m := by
  obtain ⟨-, -, -, hw⟩ := format_fits T hT
  obtain ⟨w, hw⟩ := Nat.exists_eq_add_of_le' (Nat.le_of_succ_le hw)
  rw [hw] at hm ⊢
  simp only [Nat.add_sub_cancel] at hm ⊢
  have hdouble : 2 ^ (w + 1) = 2 ^ w + 2 ^ w := by rw [Nat.pow_succ]; omega
  cases neg
  · simp only [signBit, hw, Nat.add_sub_cancel, Bool.false_eq_true, if_false, Nat.zero_add]
    exact ⟨by omega, Nat.testBit_lt_two_pow hm, Nat.mod_eq_of_lt hm⟩
  · simp only [signBit, hw, Nat.add_sub_cancel, if_true]
    refine ⟨by omega, ?_, by rw [Nat.add_mod_left, Nat.mod_eq_of_lt hm]⟩
    rw [Nat.testBit_two_pow_add_eq, Nat.testBit_lt_two_pow hm, Bool.not_false]

/-! ## Rounding to a multiple of a step (R191) -/

/-- Whether a value between q and q + 1 steps of g, r above the lower, goes up in its mode. -/
def roundsUp (rm : Nat) (neg : Bool) (q r g : Nat) : Bool :=
  match rm with
  | 0 => decide (g < 2 * r) || (2 * r == g && q % 2 == 1)
  | 1 => false
  | 2 => !neg
  | _ => neg

theorem roundsUp_scale (rm : Nat) (neg : Bool) (q r g : Nat) {u : Nat} (hu : 0 < u) : roundsUp rm neg q (u * r) (u * g) = roundsUp rm neg q r g := by
  have hlt : u * g < 2 * (u * r) ↔ g < 2 * r := by rw [Nat.mul_left_comm]; exact Nat.mul_lt_mul_left hu
  have heq : (2 * (u * r) == u * g) = (2 * r == g) := by
    rw [Bool.eq_iff_iff, beq_iff_eq, beq_iff_eq, Nat.mul_left_comm]; exact Nat.mul_right_inj hu.ne'
  simp only [roundsUp, hlt, heq]

theorem roundMag_nat (rm : Nat) (neg : Bool) (mag n : Nat) : roundMag rm neg mag n =
    if mag % 2 ^ n = 0 then (mag / 2 ^ n, false)
    else (if roundsUp rm neg (mag / 2 ^ n) (mag % 2 ^ n) (2 ^ n) then mag / 2 ^ n + 1 else mag / 2 ^ n, true) := by
  unfold roundMag
  split
  · next hn =>
    obtain rfl : n = 0 := by omega
    simp [Nat.mod_one]
  · simp only [Int.toNat_natCast, Nat.shiftRight_eq_div_pow]
    rfl

/-- Rounding a value that is written on a finer scale k makes no difference. -/
theorem roundMag_scale (rm : Nat) (neg : Bool) (mag : Nat) {e l k : Int} (he : k ≤ e) (hl : k ≤ l) :
    roundMag rm neg mag (l - e) = roundMag rm neg (mag * 2 ^ (e - k).toNat) ((l - k).toNat : Nat) := by
  obtain ⟨i, rfl⟩ := Int.le.dest he
  obtain ⟨j, rfl⟩ := Int.le.dest hl
  simp only [add_sub_cancel_left, Int.toNat_natCast, add_sub_add_left_eq_sub]
  rw [roundMag_nat]
  by_cases hij : j ≤ i
  · obtain ⟨d, rfl⟩ := Nat.exists_eq_add_of_le hij
    have hsub : -((j : Int) - ((j + d : Nat) : Int)) = (d : Int) := by push_cast; ring
    have hmul : mag * 2 ^ (j + d) = mag * 2 ^ d * 2 ^ j := by rw [Nat.pow_add]; ring
    unfold roundMag
    rw [if_pos (by omega), hsub, Int.toNat_natCast, hmul, Nat.shiftLeft_eq, if_pos (Nat.mul_mod_left _ _),
      Nat.mul_div_cancel _ (Nat.two_pow_pos j)]
  · obtain ⟨d, rfl⟩ := Nat.exists_eq_add_of_le (Nat.le_of_not_le hij)
    have hi : 0 < 2 ^ i := Nat.two_pow_pos i
    have hsub : (((i + d : Nat) : Int) - (i : Int)) = (d : Nat) := by push_cast; ring
    have hzero : 2 ^ i * (mag % 2 ^ d) = 0 ↔ mag % 2 ^ d = 0 := by simp
    rw [hsub, roundMag_nat, Nat.pow_add, Nat.mul_comm mag, Nat.mul_div_mul_left _ _ hi, Nat.mul_mod_mul_left, roundsUp_scale _ _ _ _ _ hi]
    simp only [hzero]

/-- What rounding a value r above A, less than g, answers: y is A or A + g, the neighbour that the mode names, and whether they differ. -/
structure Stepped (rm : Nat) (neg : Bool) (A g r y : Nat) (even : Prop) (inexact : Bool) : Prop where
  inexact : inexact = true ↔ r ≠ 0
  exact   : r = 0 → y = A
  next    : y = A ∨ y = A + g
  nearest : rm = 0 → (y = A ∧ 2 * r ≤ g ∨ y = A + g ∧ g ≤ 2 * r) ∧ (2 * r = g → even)
  below   : rm = 1 ∨ (rm = 2 ∧ neg = true) ∨ (rm = 3 ∧ neg = false) → y = A
  above   : (rm = 2 ∧ neg = false) ∨ (rm = 3 ∧ neg = true) → r ≠ 0 → y = A + g

theorem roundsUp_stepped {rm : Nat} (hrm : rm < 4) (neg : Bool) (q : Nat) {r g : Nat} (hr : r ≠ 0) :
    let q' := if roundsUp rm neg q r g then q + 1 else q
    Stepped rm neg (q * g) g r (q' * g) (q' % 2 = 0) true := by
  intro q'
  have hup : roundsUp rm neg q r g = true → q' = q + 1 := fun h => if_pos h
  have hdown : ¬ roundsUp rm neg q r g = true → q' = q := fun h => if_neg h
  have hnext : q' = q ∨ q' = q + 1 := by by_cases h : roundsUp rm neg q r g = true <;> simp [q', h]
  refine ⟨by simp [hr], fun h => absurd h hr, ?_, ?_, ?_, ?_⟩
  · exact hnext.imp (congrArg (· * g)) fun h => by rw [h, Nat.succ_mul]
  · rintro rfl
    have hrne : roundsUp 0 neg q r g = true ↔ g < 2 * r ∨ 2 * r = g ∧ q % 2 = 1 := by simp [roundsUp]
    by_cases h : roundsUp 0 neg q r g = true
    · rw [hup h, Nat.succ_mul]
      have := hrne.1 h
      exact ⟨.inr (by omega), by omega⟩
    · rw [hdown h]
      have := mt hrne.2 h
      exact ⟨.inl (by omega), by omega⟩
  · rintro (rfl | ⟨rfl, rfl⟩ | ⟨rfl, rfl⟩) <;> rw [hdown Bool.false_ne_true]
  · rintro (⟨rfl, rfl⟩ | ⟨rfl, rfl⟩) _ <;> rw [hup rfl, Nat.succ_mul]

theorem roundMag_stepped {rm : Nat} (hrm : rm < 4) (neg : Bool) (mag n : Nat) :
    let x := roundMag rm neg mag n
    Stepped rm neg (mag / 2 ^ n * 2 ^ n) (2 ^ n) (mag % 2 ^ n) (x.1 * 2 ^ n) (x.1 % 2 = 0) x.2 := by
  rw [roundMag_nat]
  split
  · next hr =>
    have hpos := Nat.two_pow_pos n
    exact ⟨by simp [hr], fun _ => rfl, .inl rfl, fun _ => ⟨.inl ⟨rfl, by omega⟩, fun h => by omega⟩, fun _ => rfl, fun _ h => absurd hr h⟩
  · next hr => exact roundsUp_stepped hrm neg _ hr

/-! ## One rounding (R191) -/

/-- The lowest bit of a value's binade: that of the format's fraction, or of its subnormals. -/
def lowBit (T : Tag) (mag : Nat) (e : Int) : Int := max ((bitLen mag : Int) - 1 + e - fracBits T) (lowExp T)

/-- The encoding of a value's magnitude, which may be beyond the format's greatest. -/
def roundedEnc (T : Tag) (rm : Nat) (neg : Bool) (mag : Nat) (e : Int) : Nat :=
  (lowBit T mag e - lowExp T).toNat * 2 ^ fracBits T + (roundMag rm neg mag (lowBit T mag e - e)).1

theorem roundTo_fin {T : Tag} (hT : fpTag T = true) (rm : Nat) (neg : Bool) {mag : Nat} (hmag : mag ≠ 0) (e : Int) :
    roundTo T rm (.fin neg mag e) = roundFp T rm neg mag e := by
  obtain ⟨m, rfl⟩ := Nat.exists_eq_succ_of_ne_zero hmag
  exact if_pos hT

theorem roundFp_overflow {T : Tag} {rm : Nat} {neg : Bool} {mag : Nat} {e : Int} (h : fpMaxEnc T < roundedEnc T rm neg mag e) :
    (roundFp T rm neg mag e).flags = flagOF ||| flagNX := by
  unfold roundedEnc lowBit lowExp at h
  simp only [roundFp, if_pos h]
  split <;> rfl

theorem roundFp_fits {T : Tag} {rm : Nat} {neg : Bool} {mag : Nat} {e : Int} (h : roundedEnc T rm neg mag e ≤ fpMaxEnc T) :
    (roundFp T rm neg mag e).bits = signBit T neg + roundedEnc T rm neg mag e ∧
      (roundFp T rm neg mag e).flags.getLsbD 4 = (roundMag rm neg mag (lowBit T mag e - e)).2 := by
  unfold roundedEnc lowBit lowExp at *
  simp only [roundFp, if_neg (Nat.not_lt.2 h)]
  refine ⟨trivial, ?_⟩
  split
  · next hx => rw [hx]; split <;> decide
  · next hx => rw [Bool.eq_false_of_not_eq_true hx]; decide

section
variable {T : Tag} {mag : Nat} {e k : Int}

/-- A value lies in the binade of its lowest bit: q steps of it, where q has all bits of the fraction unless the value is subnormal. -/
theorem lowBit_binade (hmag : mag ≠ 0) (he : k ≤ e) (hk : k ≤ lowExp T) :
    let q := mag * 2 ^ (e - k).toNat / 2 ^ (lowBit T mag e - k).toNat
    ((lowBit T mag e - lowExp T).toNat = 0 ∨ 2 ^ fracBits T ≤ q) ∧ q < 2 ^ (fracBits T + 1) := by
  intro q
  have hlen : mag < 2 ^ bitLen mag := (bitLen_spec mag _).2 le_rfl
  have hlen' : 2 ^ (bitLen mag - 1) ≤ mag := Nat.le_of_not_lt fun h => by
    have hle := (bitLen_spec mag _).1 h
    have hzero : bitLen mag = 0 := by omega
    exact hmag (by have := (bitLen_spec mag 0).2 hzero.le; omega)
  have hpos : 0 < bitLen mag := Nat.pos_of_ne_zero fun h => hmag (by have := (bitLen_spec mag 0).2 h.le; omega)
  have hfrac : (bitLen mag : Int) - 1 + e - fracBits T ≤ lowBit T mag e := le_max_left _ _
  have hexp : lowExp T ≤ lowBit T mag e := le_max_right _ _
  constructor
  · by_cases hsub : (lowBit T mag e - lowExp T).toNat = 0
    · exact .inl hsub
    · have hnorm : lowBit T mag e = (bitLen mag : Int) - 1 + e - fracBits T := by
        rcases max_choice ((bitLen mag : Int) - 1 + e - fracBits T) (lowExp T) with h | h
        · exact h
        · exact absurd (show (lowBit T mag e - lowExp T).toNat = 0 by unfold lowBit; rw [h]; simp) hsub
      refine .inr ((Nat.le_div_iff_mul_le (Nat.two_pow_pos _)).2 ?_)
      calc 2 ^ fracBits T * 2 ^ (lowBit T mag e - k).toNat = 2 ^ (bitLen mag - 1) * 2 ^ (e - k).toNat := by
            rw [← Nat.pow_add, ← Nat.pow_add]; congr 1; omega
        _ ≤ mag * 2 ^ (e - k).toNat := Nat.mul_le_mul_right _ hlen'
  · refine (Nat.div_lt_iff_lt_mul (Nat.two_pow_pos _)).2 ?_
    calc mag * 2 ^ (e - k).toNat < 2 ^ bitLen mag * 2 ^ (e - k).toNat := Nat.mul_lt_mul_of_pos_right hlen (Nat.two_pow_pos _)
      _ ≤ 2 ^ (fracBits T + 1) * 2 ^ (lowBit T mag e - k).toNat := by
        rw [← Nat.pow_add, ← Nat.pow_add]; exact Nat.pow_le_pow_right (by decide) (by omega)

/-- The value of an encoding on the scale k. -/
def encVal (T : Tag) (k : Int) (n : Nat) : Nat := encMag (fracBits T) n * 2 ^ (lowExp T - k).toNat

theorem encVal_le {m n : Nat} (h : m ≤ n) : encVal T k m ≤ encVal T k n :=
  Nat.mul_le_mul_right _ ((encMag_strictMono _).monotone h)

theorem encVal_binade {q : Nat} (hk : k ≤ lowExp T) (hlow : (lowBit T mag e - lowExp T).toNat = 0 ∨ 2 ^ fracBits T ≤ q)
    (hhigh : q ≤ 2 ^ (fracBits T + 1)) :
    encVal T k ((lowBit T mag e - lowExp T).toNat * 2 ^ fracBits T + q) = q * 2 ^ (lowBit T mag e - k).toNat := by
  have hexp : lowExp T ≤ lowBit T mag e := le_max_right _ _
  rw [encVal, encMag_binade hlow hhigh, Nat.mul_assoc, ← Nat.pow_add]
  congr 2
  omega

/-- No value of the format lies between the steps next to a value: each is at most the lower or at least the upper. -/
theorem encVal_apart (hmag : mag ≠ 0) (he : k ≤ e) (hk : k ≤ lowExp T) (n : Nat) :
    let g := 2 ^ (lowBit T mag e - k).toNat
    let q := mag * 2 ^ (e - k).toNat / g
    encVal T k n ≤ q * g ∨ q * g + g ≤ encVal T k n := by
  intro g q
  obtain ⟨hlow, hhigh⟩ := lowBit_binade (T := T) hmag he hk
  rcases Nat.lt_or_ge ((lowBit T mag e - lowExp T).toNat * 2 ^ fracBits T + q) n with h | h
  · refine .inr ?_
    rw [← Nat.succ_mul, ← encVal_binade hk (hlow.imp_right Nat.le_succ_of_le) hhigh]
    exact encVal_le h
  · exact .inl ((encVal_le h).trans_eq (encVal_binade hk hlow hhigh.le))

/-- The rounded encoding's value is the neighbour of the value that the mode names. -/
theorem encVal_stepped (hmag : mag ≠ 0) (he : k ≤ e) (hk : k ≤ lowExp T) {rm : Nat} (hrm : rm < 4) (neg : Bool) :
    let X := mag * 2 ^ (e - k).toNat
    let g := 2 ^ (lowBit T mag e - k).toNat
    let x := roundMag rm neg mag (lowBit T mag e - e)
    Stepped rm neg (X / g * g) g (X % g) (encVal T k (roundedEnc T rm neg mag e)) (x.1 % 2 = 0) x.2 := by
  intro X g x
  have hscale : x = roundMag rm neg X ((lowBit T mag e - k).toNat : Nat) := roundMag_scale rm neg mag he (hk.trans (le_max_right _ _))
  have hstep := roundMag_stepped hrm neg X (lowBit T mag e - k).toNat
  rw [← hscale] at hstep
  obtain ⟨hlow, hhigh⟩ := lowBit_binade (T := T) hmag he hk
  have hq : x.1 = X / g ∨ x.1 = X / g + 1 := by
    have hpos : 0 < g := Nat.two_pow_pos _
    refine hstep.next.imp (Nat.eq_of_mul_eq_mul_right hpos) fun h => Nat.eq_of_mul_eq_mul_right hpos ?_
    rw [Nat.succ_mul]
    exact h
  have hval : encVal T k (roundedEnc T rm neg mag e) = x.1 * g := by
    rcases hq with h | h
    · exact encVal_binade hk (hlow.imp_right (h ▸ ·)) (h ▸ hhigh.le)
    · exact encVal_binade hk (hlow.imp_right fun hl => h ▸ Nat.le_succ_of_le hl) (h ▸ hhigh)
  rw [hval]
  exact hstep
end

section
variable {rm A g r x y z : Nat} {neg inexact : Bool} {even : Prop} {t : Int}

/-- A value's nearest neighbour, where z is a value of the format with the sign t: none stands between A and A + g. -/
theorem Stepped.nearest_of_apart (h : Stepped rm neg A g r y even inexact) (hx : x = A + r) (hr : r < g) (ht : t = 1 ∨ t = -1)
    (hz : z ≤ A ∨ A + g ≤ z) (hrm : rm = 0) : let s : Int := if neg then -1 else 1
    (s * y - s * x).natAbs ≤ (t * z - s * x).natAbs ∧ ((s * y - s * x).natAbs = (t * z - s * x).natAbs → t * z ≠ s * y → even) := by
  obtain ⟨hy, hhalf⟩ := h.nearest hrm
  intro s
  have hs : s = 1 ∨ s = -1 := by cases neg <;> simp [s]
  generalize s = s at hs
  have key : (s * y - s * x).natAbs ≤ (t * z - s * x).natAbs ∧
      ((s * y - s * x).natAbs = (t * z - s * x).natAbs → t * z ≠ s * y → 2 * r = g) := by
    rcases hs with rfl | rfl <;> rcases ht with rfl | rfl <;> omega
  exact ⟨key.1, fun h1 h2 => hhalf (key.2 h1 h2)⟩

/-- The neighbour that a directed mode names. -/
theorem Stepped.directed_of_apart (h : Stepped rm neg A g r y even inexact) (hx : x = A + r) (hr : r < g) (ht : t = 1 ∨ t = -1)
    (hz : z ≤ A ∨ A + g ≤ z) : let s : Int := if neg then -1 else 1
    (rm = 1 → (s * y).natAbs ≤ (s * x).natAbs ∧ ((t * z).natAbs ≤ (s * x).natAbs → (t * z).natAbs ≤ (s * y).natAbs)) ∧
    (rm = 2 → s * x ≤ s * y ∧ (s * x ≤ t * z → s * y ≤ t * z)) ∧
    (rm = 3 → s * y ≤ s * x ∧ (t * z ≤ s * x → t * z ≤ s * y)) := by
  have hexact := h.exact
  have hbelow := h.below
  have habove := h.above
  cases neg <;> rcases ht with rfl | rfl <;> simp at hbelow habove ⊢ <;> omega

theorem Stepped.inexact_iff (h : Stepped rm neg A g r y even inexact) (hx : x = A + r) (hr : r < g) : inexact = true ↔ y ≠ x := by
  have hexact := h.exact
  have hnext := h.next
  rw [h.inexact]
  omega
end

section
variable {T : Tag} {rm : Nat} {neg : Bool} {mag : Nat} {e k : Int}

/-- Without overflow the result is the rounded encoding with the sign. -/
theorem roundTo_fits (hT : fpTag T = true) (hmag : mag ≠ 0) (hover : (roundTo T rm (.fin neg mag e)).flags &&& flagOF = 0) :
    roundedEnc T rm neg mag e ≤ fpMaxEnc T ∧ (roundTo T rm (.fin neg mag e)).bits = signBit T neg + roundedEnc T rm neg mag e ∧
      (roundTo T rm (.fin neg mag e)).flags.getLsbD 4 = (roundMag rm neg mag (lowBit T mag e - e)).2 := by
  rw [roundTo_fin hT rm neg hmag e] at *
  have hfits : roundedEnc T rm neg mag e ≤ fpMaxEnc T := Nat.le_of_not_lt fun h => by
    rw [roundFp_overflow h] at hover
    exact absurd hover (by decide)
  exact ⟨hfits, roundFp_fits hfits⟩

theorem scaled_signed (hT : fpTag T = true) (hk : k ≤ lowExp T) {n : Nat} (hn : n ≤ fpMaxEnc T) :
    finite T (signBit T neg + n) ∧ scaled k (numOf T (signBit T neg + n)) = (if neg then -1 else 1) * (encVal T k n : Int) := by
  obtain ⟨hlt, hsign, hmod⟩ := signBit_testBit hT (hn.trans_lt (format_fits T hT).1) neg
  obtain ⟨hfin, hval⟩ := numOf_fin hT hlt (by rw [hmod]; exact hn) hk
  rw [hsign, hmod] at hval
  exact ⟨⟨hlt, hfin⟩, hval⟩

/-- A finite encoding's value is that of its magnitude, with a sign. -/
theorem scaled_finite (hT : fpTag T = true) (hk : k ≤ lowExp T) {b : Nat} (hb : finite T b) :
    ∃ t : Int, (t = 1 ∨ t = -1) ∧ ∃ n, scaled k (numOf T b) = t * (encVal T k n : Int) := by
  obtain ⟨hlt, hfin⟩ := hb
  refine ⟨_, ?_, _, (numOf_fin hT hlt (le_maxEnc_of_isFin hT hlt hfin) hk).2⟩
  split <;> simp

theorem roundedEnc_even (hT : fpTag T = true) (h : (roundMag rm neg mag (lowBit T mag e - e)).1 % 2 = 0) :
    (signBit T neg + roundedEnc T rm neg mag e) % 2 = 0 := by
  obtain ⟨-, hfrac, -, hw⟩ := format_fits T hT
  have hsign : 2 ∣ signBit T neg := by
    unfold signBit
    split
    · exact dvd_pow_self 2 (by omega)
    · exact dvd_zero 2
  have henc : 2 ∣ (lowBit T mag e - lowExp T).toNat * 2 ^ fracBits T := Dvd.dvd.mul_left (dvd_pow_self 2 (by omega)) _
  exact Nat.mod_eq_zero_of_dvd (dvd_add hsign (dvd_add henc (Nat.dvd_of_mod_eq_zero h)))
end

/-! ## Exact sums and products (R209) -/

/-- A finite value brought to a lower exponent e keeps its value. -/
theorem scaled_align (k : Int) (neg : Bool) (mag : Nat) {e e1 : Int} (hk : k ≤ e) (he : e ≤ e1) :
    scaled k (.fin neg mag e1) = (if neg then -((mag <<< (e1 - e).toNat : Nat) : Int) else (mag <<< (e1 - e).toNat : Nat)) * 2 ^ (e - k).toNat := by
  have hexp : (e1 - k).toNat = (e1 - e).toNat + (e - k).toNat := by omega
  rw [scaled_fin, Nat.shiftLeft_eq, hexp, Nat.pow_add]
  cases neg <;> simp [mul_assoc]

/-- A sum by its sign and magnitude. -/
theorem scaled_natAbs (k v : Int) (e : Int) : scaled k (.fin (decide (v < 0)) v.natAbs e) = v * 2 ^ (e - k).toNat := by
  rw [scaled_fin]
  push_cast
  by_cases hv : v < 0
  · simp [hv, abs_of_neg hv]
  · simp [hv, abs_of_nonneg (Int.not_lt.1 hv)]

theorem alignNum_exact (n1 n2 : Bool) (m1 m2 : Nat) {e1 e2 k : Int} (h1 : k ≤ e1) (h2 : k ≤ e2) :
    ∃ a b e, alignNum n1 m1 e1 n2 m2 e2 = (a, b, e) ∧ k ≤ e ∧ scaled k (.fin n1 m1 e1) = a * 2 ^ (e - k).toNat ∧
      scaled k (.fin n2 m2 e2) = b * 2 ^ (e - k).toNat :=
  ⟨_, _, _, rfl, le_min h1 h2, scaled_align k n1 m1 (le_min h1 h2) (min_le_left _ _), scaled_align k n2 m2 (le_min h1 h2) (min_le_right _ _)⟩

theorem add_exact (rm : Nat) (n1 n2 : Bool) (m1 m2 : Nat) {e1 e2 k : Int} (h1 : k ≤ e1) (h2 : k ≤ e2) :
    ∃ n m e, (FpNum.fin n1 m1 e1).add rm (.fin n2 m2 e2) = (.fin n m e, 0) ∧
      (m ≠ 0 → k ≤ e ∧ scaled k (.fin n m e) = scaled k (.fin n1 m1 e1) + scaled k (.fin n2 m2 e2)) ∧
      (m = 0 → scaled k (.fin n1 m1 e1) + scaled k (.fin n2 m2 e2) = 0 ∧ n = if n1 = n2 then n1 else decide (rm = 3)) := by
  obtain ⟨a, b, e, halign, hk, ha, hb⟩ := alignNum_exact n1 n2 m1 m2 h1 h2
  rw [ha, hb, ← add_mul]
  simp only [FpNum.add, halign]
  by_cases hv : a + b = 0
  · rw [if_pos hv]
    exact ⟨_, 0, 0, rfl, fun h => absurd rfl h, fun _ => ⟨by rw [hv, zero_mul], by simp [beq_eq_decide]⟩⟩
  · rw [if_neg hv]
    exact ⟨_, _, _, rfl, fun _ => ⟨hk, scaled_natAbs _ _ _⟩, fun h => absurd (Int.natAbs_eq_zero.1 h) hv⟩

theorem mul_exact (n1 n2 : Bool) (m1 m2 : Nat) (e1 e2 : Int) :
    scaled (e1 + e2) (.fin (n1 != n2) (m1 * m2) (e1 + e2)) = scaled e1 (.fin n1 m1 e1) * scaled e2 (.fin n2 m2 e2) := by
  simp only [scaled_fin, sub_self, Int.toNat_zero, Nat.pow_zero, Nat.mul_one]
  cases n1 <;> cases n2 <;> simp

/-- Settles O6: the result and every other value of the format stand at or beyond the two steps next to the exact value, and the mode names one
of the two; sums and products are computed on integers. -/
theorem roundedOnce : Obligations.RoundedOnce := by
  refine ⟨fun T rm neg mag e k hT hrm hmag he hk => ?_, fun rm n1 n2 m1 m2 e1 e2 k => ⟨fun h1 h2 => ?_, ?_⟩⟩
  · intro x r y hover
    obtain ⟨hfits, hbits, hnx⟩ := roundTo_fits hT hmag hover
    obtain ⟨hfin, hy⟩ := scaled_signed (neg := neg) hT hk hfits
    rw [← hbits] at hfin hy
    have hx : x = (if neg then -1 else 1) * ((mag * 2 ^ (e - k).toNat : Nat) : Int) := scaled_fin k neg mag
    have hstep := encVal_stepped hmag he hk hrm neg
    have hsplit := (Nat.div_add_mod' (mag * 2 ^ (e - k).toNat) (2 ^ (lowBit T mag e - k).toNat)).symm
    have hmod := Nat.mod_lt (mag * 2 ^ (e - k).toNat) (Nat.two_pow_pos (lowBit T mag e - k).toNat)
    refine ⟨hfin, ?_, fun b hb => ?_⟩
    · rw [show r.flags.getLsbD 4 = _ from hnx, hstep.inexact_iff hsplit hmod, show y = _ from hy, hx]
      split <;> simp only [neg_one_mul, one_mul, ne_eq, neg_inj, Int.natCast_inj]
    · obtain ⟨t, ht, n, hz⟩ := scaled_finite hT hk hb
      have hapart := encVal_apart hmag he hk n
      rw [hz, show y = _ from hy, hx]
      refine ⟨fun h0 => ?_, hstep.directed_of_apart hsplit hmod ht hapart⟩
      obtain ⟨hle, htie⟩ := hstep.nearest_of_apart hsplit hmod ht hapart h0
      exact ⟨hle, fun h1 h2 => by rw [show r.bits = _ from hbits]; exact roundedEnc_even hT (htie h1 h2)⟩
  · exact add_exact rm n1 n2 m1 m2 h1 h2
  · exact ⟨n1 != n2, m1 * m2, rfl, mul_exact n1 n2 m1 m2 e1 e2, rfl⟩

end Sys2Proof.Laws
end

section
/-! Floating-point forms of a course (R207 to R211, R213, R214): each form's result on its strand's own operands, and its flags. -/
namespace Sys2Proof.Laws
open Sys2Proof.Machine Sys2Proof.Safety

/-! ## Forms that gather flags, and forms that count (R140, R205, R208) -/

section
variable {s : State} {I : Iss} {i : Instr} {rmw : Bool} {folds : List (Reg ⊕ Word)} {f : Rd → Except Stop Res} {dst : Reg} {v : Nat → VReg}
  {g : Nat → Flags}

/-- A form whose running strands each write `dst` and set flags completes. -/
theorem form_flags (h : Issues s i rmw [] I) (hexec : exec i s = runReg s i rmw folds f)
    (hf : ∀ lane ∈ I.runs, f (I.c.rd lane) = .ok { writes := [(dst, v lane)], flags := g lane }) (hu : OneValue I dst v) :
    ∃ t c, exec i s = .next t ∧ Moves s t I c (fun _ => pcNext I.E.pc) ∧ Wrote I c dst v g ∧ Quiet s t := by
  rw [hexec]
  exact runLanes_quiet (x := fun lane => { writes := [(dst, v lane)], flags := g lane }) h hf (fun _ _ => ⟨rfl, rfl, rfl⟩) hu

/-- The same for a form whose running strands count statistics. -/
theorem form_counts {keys : Nat → List Nat} (h : Issues s i rmw [] I) (hexec : exec i s = runReg s i rmw folds f)
    (hf : ∀ lane ∈ I.runs, f (I.c.rd lane) = .ok { writes := [(dst, v lane)], flags := g lane, counts := keys lane }) (hu : OneValue I dst v) :
    ∃ t c, exec i s = .next t ∧ Moves s t I c (fun _ => pcNext I.E.pc) ∧ Wrote I c dst v g ∧
      ({ t with courses := s.courses } : State) = s.countStats (s.launchId I.c) (I.runs.flatMap keys) := by
  rw [hexec]
  exact runLanes_ok (x := fun lane => { writes := [(dst, v lane)], flags := g lane, counts := keys lane }) h hf (fun _ _ => ⟨rfl, rfl⟩) hu
end

/-! ## Tags of sources (R200) -/

theorem needTag_ok {rd : Rd} {t : Tag} {r : Reg} (h : (rd.vec r).tag = t) : needTag rd t r = .ok () := by
  unfold needTag
  rw [h, beq_self_eq_true, if_pos rfl]

theorem needTags_ok {rd : Rd} {t : Tag} {l : List Reg} (h : ∀ r ∈ l, (rd.vec r).tag = t) : needTags rd (l.map (fun r => (t, r))) = .ok () := by
  induction l with
  | nil => rfl
  | cons r l ih =>
    simp only [List.map_cons, needTags, needTag_ok (h r List.mem_cons_self), ih (fun x hx => h x (List.mem_cons_of_mem r hx))]

/-! ## The forms of R208 on one strand -/

section
variable (f : Gen) (n : Nat) (dt : Tag) (op : Nat → Nat → Nat → Rnd) (I : Iss) (lane : Nat)

theorem fpForm_scalar (hv : modV f.mod = false) :
    let r := op (fpScalar f n I lane 0) (fpScalar f n I lane 1) (fpScalar f n I lane 2)
    fpForm f n dt op (I.c.rd lane) = .ok { writes := [(f.dst, VReg.ofWord (BitVec.ofNat 64 r.bits))], flags := r.flags } := by
  have hsrc (k : Nat) : (match (formSrcs f n)[k]? with
      | some r => ((I.c.rd lane).get r).toNat % 2 ^ tagWidth (fpT f.mod)
      | none => 0) = fpScalar f n I lane k := by
    unfold fpScalar formSrcs
    split <;> simp only [*, read_mod]
  rw [← hsrc 0, ← hsrc 1, ← hsrc 2]
  exact if_neg (Bool.eq_false_iff.mp hv)

theorem fpForm_vector (hv : modV f.mod = true) (htag : ∀ x ∈ [f.sa, f.sb, f.sc].take n, ((I.c.rd lane).vec x).tag = fpT f.mod) :
    let r (j : Nat) := op (fpElement f n I lane 0 j) (fpElement f n I lane 1 j) (fpElement f n I lane 2 j)
    fpForm f n dt op (I.c.rd lane) = .ok { writes := [(f.dst, { bits := vector (tagWidth (fpT f.mod)) (fun j => BitVec.ofNat _ (r j).bits), tag := dt, exps := 0 })]
                                           flags := allFlags (512 / tagWidth (fpT f.mod)) r } := by
  have hsrc (k j : Nat) : (match (formSrcs f n)[k]? with
      | some r => laneOf (tagWidth (fpT f.mod)) ((I.c.rd lane).vec r).bits j
      | none => 0) = fpElement f n I lane k j := by
    unfold fpElement formSrcs
    split
    · simp only [*, laneOf_eq]
      rfl
    · simp only [*]
  intro r
  rw [← vecOfLanes_vector _ (fun j => (r j).bits) _ (fun _ _ => rfl), allFlags]
  simp only [r, ← hsrc]
  unfold fpForm
  simp only [hv, if_true, needTags_ok (l := formSrcs f n) htag, List.map_map, List.foldl_map]
  rfl
end

/-- The instruction runs its form. -/
theorem fpRule_exec {i : Instr} {f : Gen} {n : Nat} {dt : Tag} {r : Nat → Nat → Nat → Rnd} (h : fpRule i = some (f, n, dt, r)) (s : State) :
    exec i s = runReg s i false [] (fpForm f n dt r) := by
  cases i <;> simp only [fpRule, Option.some.injEq, Prod.mk.injEq, reduceCtorEq] at h
  all_goals
    obtain ⟨rfl, rfl, rfl, rfl⟩ := h
    rfl

/-! ## FCMP (R211) -/

/-- Bits set one after the other add up. -/
theorem foldl_placed (b : Nat → Bool) (l : List Nat) (m : Nat) :
    l.foldl (fun m j => if b j then m + 2 ^ j else m) m = m + (l.map (fun j => if b j then 2 ^ j else 0)).sum := by
  induction l generalizing m with
  | nil => rfl
  | cons j l ih =>
    rw [List.foldl_cons, ih, List.map_cons, List.sum_cons]
    split <;> simp [Nat.add_assoc]

section
variable (f : Gen) (I : Iss) (lane : Nat)

theorem fcmpRes_scalar (hv : modV f.mod = false) :
    let T := fpT f.mod
    let c := fpCond (bitsOf f.imm.toNat 3 0) (numOf T (I.c.read lane f.sa).toNat) (numOf T (I.c.read lane f.sb).toNat)
    fcmpRes f (I.c.rd lane) = .ok { writes := [(f.dst, truth c.1)], flags := c.2 } := by
  simp only [fcmpRes, hv, Bool.false_eq_true, if_false]
  rfl

theorem fcmpRes_vector (hv : modV f.mod = true) (ha : ((I.c.rd lane).vec f.sa).tag = fpT f.mod) (hb : ((I.c.rd lane).vec f.sb).tag = fpT f.mod) :
    let T := fpT f.mod
    let c (j : Nat) := fpCond (bitsOf f.imm.toNat 3 0) (numOf T (element I lane f.sa (tagWidth T) j).toNat)
      (numOf T (element I lane f.sb (tagWidth T) j).toNat)
    fcmpRes f (I.c.rd lane) = .ok
      { writes := [(f.dst, VReg.ofWord (BitVec.ofNat 64 ((List.range (512 / tagWidth T)).map (fun j => if (c j).1 then 2 ^ j else 0)).sum))]
        flags := (List.range (512 / tagWidth T)).foldl (fun m j => m ||| (c j).2) 0 } := by
  intro T c
  have htags : needTags (I.c.rd lane) [(T, f.sa), (T, f.sb)] = .ok () := needTags_ok (l := [f.sa, f.sb]) (by simp [ha, hb, T])
  have hc (j : Nat) : fpCond (bitsOf f.imm.toNat 3 0) (numOf T (laneOf (tagWidth T) ((I.c.rd lane).vec f.sa).bits j))
      (numOf T (laneOf (tagWidth T) ((I.c.rd lane).vec f.sb).bits j)) = c j := by rw [laneOf_eq, laneOf_eq]; rfl
  have hplaced := foldl_placed (fun j => (c j).1) (List.range (512 / tagWidth T)) 0
  rw [Nat.zero_add] at hplaced
  unfold fcmpRes
  simp only [hv, if_true, htags, T, List.foldl_map] at hc hplaced ⊢
  simp only [hc, hplaced]
end

/-- Settles O5: each form's result from its strand's operands, or element by element of its sources. -/
theorem floatForms : Obligations.FloatForms := by
  refine ⟨fun i f n dt r hi => ⟨fun hv s I h _ hu => ?_, fun hv s I h htag hu => ?_⟩, fun f => ⟨fun hv s I h _ hu => ?_, fun hv s I h htag hu => ?_⟩⟩
  · exact form_flags h (fpRule_exec hi s) (fun lane _ => fpForm_scalar f n dt r I lane hv) hu
  · exact form_flags h (fpRule_exec hi s) (fun lane hl => fpForm_vector f n dt r I lane hv (fun x hx => htag x hx lane hl)) hu
  · exact form_flags h (Eq.refl (execFcmp f s)) (fun lane _ => fcmpRes_scalar f I lane hv) hu
  · obtain ⟨ha, hb⟩ := htag
    exact form_flags h (Eq.refl (execFcmp f s)) (fun lane hl => fcmpRes_vector f I lane hv (ha lane hl) (hb lane hl)) hu

end Sys2Proof.Laws
end

section
/-! Reductions and scans of a vector (R202, R221): the elements that take part, and integer sums in the tree's order. -/
namespace Sys2Proof.Laws
open Sys2Proof.Machine Sys2Proof.Safety

/-! ## The tree of R202 -/

section
variable {α : Type} {add : α → α → α} {P : α → Prop} {val : α → Nat} {m : Nat}

/-- The sum of what is present. -/
def presentSum (val : α → Nat) (l : List (Option α)) : Nat := ((l.filterMap id).map val).sum

theorem presentSum_none (l : List (Option α)) : presentSum val (none :: l) = presentSum val l := rfl
theorem presentSum_some (x : α) (l : List (Option α)) : presentSum val (some x :: l) = val x + presentSum val l := rfl

theorem treeLevel_short {l : List (Option α)} (h : ∀ a b t, l = a :: b :: t → False) : treeLevel add l = l ∧ l.length ≤ 1 := by
  match l, h with
  | [], _ => simp [treeLevel]
  | [_], _ => simp [treeLevel]
  | a :: b :: t, h => exact absurd rfl (h a b t)

theorem treeLevel_length (l : List (Option α)) : (treeLevel add l).length = (l.length + 1) / 2 := by
  induction l using treeLevel.induct with
  | case1 a b t ih =>
    simp only [treeLevel, List.length_cons, ih]
    omega
  | case2 l h =>
    obtain ⟨hl, hlen⟩ := treeLevel_short (add := add) h
    rw [hl]
    omega

/-- A level of the tree keeps what every input has, and the sum of the inputs. -/
theorem treeLevel_sum (hadd : ∀ x y, P x → P y → P (add x y) ∧ val (add x y) = (val x + val y) % m) (l : List (Option α))
    (hP : ∀ x, some x ∈ l → P x) :
    (∀ x, some x ∈ treeLevel add l → P x) ∧ presentSum val (treeLevel add l) % m = presentSum val l % m := by
  induction l using treeLevel.induct with
  | case1 a b t ih =>
    obtain ⟨hmem, hsum⟩ := ih fun x hx => hP x (List.mem_cons_of_mem _ (List.mem_cons_of_mem _ hx))
    have hcons (c : Option α) (hc : ∀ x, c = some x → P x) : ∀ x, some x ∈ c :: treeLevel add t → P x := fun x hx =>
      (List.mem_cons.1 hx).elim (fun h => hc x h.symm) (hmem x)
    have ha (x : α) (hx : a = some x) : P x := hP x (hx ▸ List.mem_cons_self)
    have hb (x : α) (hx : b = some x) : P x := hP x (hx ▸ List.mem_cons_of_mem _ List.mem_cons_self)
    match a, b, ha, hb with
    | none, none, _, _ => exact ⟨hcons none (by simp), hsum⟩
    | none, some y, _, hb => exact ⟨hcons (some y) hb, by simp only [treeLevel, presentSum_some, presentSum_none]; rw [Nat.add_mod, hsum, ← Nat.add_mod]⟩
    | some x, none, ha, _ => exact ⟨hcons (some x) ha, by simp only [treeLevel, presentSum_some, presentSum_none]; rw [Nat.add_mod, hsum, ← Nat.add_mod]⟩
    | some x, some y, ha, hb =>
      obtain ⟨hxy, hval⟩ := hadd x y (ha x rfl) (hb y rfl)
      refine ⟨hcons (some (add x y)) (by rintro _ ⟨⟩; exact hxy), ?_⟩
      simp only [treeLevel, presentSum_some]
      rw [hval, Nat.add_mod, hsum, Nat.mod_mod, ← Nat.add_mod, Nat.add_assoc]
  | case2 l h =>
    rw [(treeLevel_short h).1]
    exact ⟨hP, rfl⟩

/-- In the tree's order, an addition modulo m gives the sum modulo m of what is present, whatever the number of inputs. -/
theorem treeFold_sum (hadd : ∀ x y, P x → P y → P (add x y) ∧ val (add x y) = (val x + val y) % m) (hval : ∀ x, P x → val x < m)
    (n : Nat) (l : List (Option α)) (hlen : l.length ≤ 2 ^ n) (hP : ∀ x, some x ∈ l → P x) :
    (treeFold add n l = none ∧ presentSum val l % m = 0) ∨ ∃ x, treeFold add n l = some x ∧ P x ∧ val x = presentSum val l % m := by
  have hshort (l : List (Option α)) (hl : l.length ≤ 1) (hP : ∀ x, some x ∈ l → P x) : ((l[0]?).bind id = none ∧ presentSum val l % m = 0) ∨
      ∃ x, (l[0]?).bind id = some x ∧ P x ∧ val x = presentSum val l % m := by
    match l, hl, hP with
    | [], _, _ => exact .inl ⟨rfl, Nat.zero_mod m⟩
    | [none], _, _ => exact .inl ⟨rfl, Nat.zero_mod m⟩
    | [some x], _, hP =>
      have hx := hP x List.mem_cons_self
      exact .inr ⟨x, rfl, hx, (Nat.mod_eq_of_lt (hval x hx)).symm⟩
  induction n generalizing l with
  | zero => exact hshort l hlen hP
  | succ n ih =>
    match l with
    | [] => exact hshort [] (by simp) hP
    | [a] => exact hshort [a] (by simp) hP
    | a :: b :: t =>
      obtain ⟨hmem, hsum⟩ := treeLevel_sum hadd (a :: b :: t) hP
      rw [← hsum]
      refine ih _ ?_ hmem
      rw [treeLevel_length]
      rw [Nat.pow_succ] at hlen
      omega
end

/-- R221: the tree's sum of integer elements. -/
theorem redTree_sum {T : Tag} (hT : fpTag T = false) {l : List (Option Nat)} (hlen : l.length ≤ 1024)
    (hl : ∀ x ∈ l, ∀ v, x = some v → v < 2 ^ tagWidth T) : redTree T 0 l = ((l.filterMap id).sum % 2 ^ tagWidth T, 0) := by
  have hsum : presentSum Prod.fst (l.map (fun x => x.map (fun v => ((v, 0) : Nat × Flags)))) = (l.filterMap id).sum := by
    unfold presentSum
    rw [List.filterMap_map, List.map_filterMap]
    congr 1
    exact List.filterMap_congr fun x _ => by cases x <;> rfl
  have hadd (x y : Nat × Flags) (hx : x.1 < 2 ^ tagWidth T ∧ x.2 = 0) (hy : y.1 < 2 ^ tagWidth T ∧ y.2 = 0) :
      ((redOp T 0 x y).1 < 2 ^ tagWidth T ∧ (redOp T 0 x y).2 = 0) ∧ (redOp T 0 x y).1 = (x.1 + y.1) % 2 ^ tagWidth T := by
    have hop : redOp T 0 x y = ((x.1 + y.1) % 2 ^ tagWidth T, x.2 ||| y.2) := by simp [redOp, hT]
    rw [hop, hx.2, hy.2]
    exact ⟨⟨Nat.mod_lt _ (Nat.two_pow_pos _), rfl⟩, rfl⟩
  have hP (x : Nat × Flags) (hx : some x ∈ l.map (fun x => x.map (fun v => ((v, 0) : Nat × Flags)))) : x.1 < 2 ^ tagWidth T ∧ x.2 = 0 := by
    obtain ⟨o, ho, hx⟩ := List.mem_map.1 hx
    obtain ⟨v, rfl, rfl⟩ := Option.map_eq_some_iff.1 hx
    exact ⟨hl _ ho v rfl, rfl⟩
  unfold redTree
  rcases treeFold_sum hadd (fun _ h => h.1) 10 _ (by rw [List.length_map]; exact hlen) hP with ⟨h, h0⟩ | ⟨x, h, hx, hval⟩
  · rw [h, ← hsum, h0]
    rfl
  · rw [h, ← hsum, ← hval, ← hx.2]
    rfl

/-! ## The elements that take part (R221) -/

theorem zipIdx_vecLanes (W : Nat) (x : Vec) : (vecLanes W x).zipIdx = (List.range (512 / W)).map (fun j => (laneOf W x j, j)) := by
  unfold vecLanes
  refine List.ext_getElem (by simp) fun j _ _ => by simp

theorem redScan_length (T : Tag) (op : Nat) (acc : Option (Nat × Flags)) (l : List (Bool × Nat)) : (redScan T op acc l).1.length = l.length := by
  induction l generalizing acc with
  | nil => rfl
  | cons x l ih =>
    obtain ⟨on, x⟩ := x
    simp only [redScan]
    split
    · exact congrArg (· + 1) (ih _)
    · exact congrArg (· + 1) (ih _)

/-- A scan's elements as a vector. -/
theorem typed_getD (T : Tag) {l : List Nat} (h : l.length = 512 / tagWidth T) :
    typed T (fun j => BitVec.ofNat _ ((l[j]?).getD 0)) = { bits := vecOfLanes (tagWidth T) l, tag := T, exps := 0 } := by
  have hl : l = (List.range (512 / tagWidth T)).map (fun j => (l[j]?).getD 0) := by
    refine List.ext_getElem (by simp [h]) fun j hj _ => by simp [hj]
  unfold typed
  rw [← vecOfLanes_vector _ _ _ (fun _ _ => rfl), ← hl]

/-- Settles O9: the elements that take part are the enabled ones, each form combines them as it says, and an integer sum in the tree's order is
the sum modulo 2^W. -/
theorem vectorReductions : Obligations.VectorReductions := by
  refine ⟨⟨fun f s I h htag hu => ?_, fun f s I h htag hu => ?_⟩, fun T l hT hlen hl => redTree_sum hT hlen hl⟩
  · refine form_flags h (Eq.refl (execVred f s)) (fun lane hl => ?_) hu
    simp only [needTag_ok (htag lane hl), zipIdx_vecLanes, List.map_map, laneOf_eq]
    rfl
  · refine form_flags h (Eq.refl (execVscn f s)) (fun lane hl => ?_) hu
    refine Eq.trans ?_ (congrArg (fun v => Except.ok ({ writes := [(f.dst, v)], flags := _ } : Res)) (typed_getD _ (by simp [redScan_length])).symm)
    simp only [needTag_ok (htag lane hl), zipIdx_vecLanes, List.map_map, laneOf_eq]
    rfl

end Sys2Proof.Laws
end

section
/-! The block formats (R193 to R198, R222, R223): a block's elements and exponents in a register, VQNT and VDQN. -/
namespace Sys2Proof.Laws
open Sys2Proof.Machine Sys2Proof.Safety

/-! ## Bits of packed elements (R171) -/

theorem testBit_packLanes {w : Nat} (hw : 0 < w) (l : List Nat) (i : Nat) :
    (packLanes w l).testBit i = ((l[i / w]?).getD 0).testBit (i % w) := by
  induction l generalizing i with
  | nil => simp [packLanes]
  | cons v l ih =>
    rw [packLanes, Nat.add_comm, Nat.testBit_two_pow_mul_add _ (Nat.mod_lt _ (Nat.two_pow_pos w))]
    split
    · next hi => rw [Nat.testBit_mod_two_pow, decide_eq_true hi, Bool.true_and, Nat.div_eq_of_lt hi, Nat.mod_eq_of_lt hi]; rfl
    · next hi =>
      obtain ⟨j, rfl⟩ := Nat.exists_eq_add_of_le (Nat.le_of_not_lt hi)
      rw [ih, Nat.add_sub_cancel_left, Nat.add_mod_left, Nat.add_div_left _ hw, List.getElem?_cons_succ]

theorem packLanes_lt {w : Nat} (l : List Nat) : packLanes w l < 2 ^ (w * l.length) := by
  induction l with
  | nil => simp [packLanes]
  | cons v l ih =>
    have hv := Nat.mod_lt v (Nat.two_pow_pos w)
    have hstep : 2 ^ w * (packLanes w l + 1) ≤ 2 ^ w * 2 ^ (w * l.length) := Nat.mul_le_mul_left _ ih
    rw [packLanes, List.length_cons, Nat.mul_succ, Nat.add_comm (w * _), Nat.pow_add]
    rw [Nat.mul_succ] at hstep
    omega

theorem getLsbD_vector {w : Nat} (hw : 0 < w) (e : Nat → BitVec w) {i : Nat} (hi : i < 512) (hdvd : w ∣ 512) :
    (vector w e).getLsbD i = (e (i / w)).getLsbD (i % w) := by
  have hj : i / w < 512 / w := Nat.div_lt_div_of_lt_of_dvd hdvd hi
  rw [← vecOfLanes_vector w (fun j => (e j).toNat) e (fun j _ => by simp), vecOfLanes, BitVec.getLsbD_ofNat, decide_eq_true hi, Bool.true_and,
    testBit_packLanes hw, List.getElem?_map, List.getElem?_range hj]
  rfl

theorem getLsbD_element (I : Iss) (lane : Nat) (r : Reg) {w : Nat} (hw : 0 < w) (i : Nat) :
    (element I lane r w (i / w)).getLsbD (i % w) = ((I.c.rd lane).vec r).bits.getLsbD i := by
  rw [element, BitVec.getLsbD_extractLsb', decide_eq_true (Nat.mod_lt i hw), Bool.true_and, Nat.div_add_mod]

/-- A field of n bits of a number replaced. -/
theorem testBit_replaceField (whole at_ n : Nat) {v : Nat} (hv : v < 2 ^ n) (i : Nat) :
    (whole - whole / 2 ^ at_ % 2 ^ n * 2 ^ at_ + v * 2 ^ at_).testBit i =
      if at_ ≤ i ∧ i < at_ + n then v.testBit (i - at_) else whole.testBit i := by
  have hparts : whole - whole / 2 ^ at_ % 2 ^ n * 2 ^ at_ + v * 2 ^ at_ =
      2 ^ at_ * (2 ^ n * (whole / 2 ^ at_ / 2 ^ n) + v) + whole % 2 ^ at_ := by
    have h1 := Nat.div_add_mod whole (2 ^ at_)
    have h2 := Nat.div_add_mod (whole / 2 ^ at_) (2 ^ n)
    generalize whole / 2 ^ at_ / 2 ^ n = h at *
    generalize whole / 2 ^ at_ % 2 ^ n = m at *
    rw [← h2, Nat.mul_add] at h1
    rw [Nat.mul_add, Nat.mul_comm m, Nat.mul_comm v]
    omega
  rw [hparts, Nat.testBit_two_pow_mul_add _ (Nat.mod_lt _ (Nat.two_pow_pos at_))]
  by_cases h1 : i < at_
  · rw [if_pos h1, if_neg (by omega), Nat.testBit_mod_two_pow, decide_eq_true h1, Bool.true_and]
  · rw [if_neg h1, Nat.testBit_two_pow_mul_add _ hv]
    by_cases h2 : i - at_ < n
    · rw [if_pos h2, if_pos (by omega)]
    · rw [if_neg h2, if_neg (by omega), Nat.testBit_div_two_pow, Nat.testBit_div_two_pow]
      congr 1
      omega

/-! ## What a conversion answers (R194, R197) -/

theorem foldl_max_le {l : List Int} {a b : Int} (ha : a ≤ b) (hl : ∀ x ∈ l, x ≤ b) : l.foldl max a ≤ b := by
  induction l generalizing a with
  | nil => exact ha
  | cons x l ih => exact ih (max_le ha (hl x List.mem_cons_self)) (fun y hy => hl y (List.mem_cons_of_mem x hy))

/-- R197: a block has an element for each value, and its exponents are bytes. -/
theorem wbConvert_fits (T : Tag) (xs : List FpNum) :
    (wbConvert T xs).elems.length = xs.length ∧ (wbConvert T xs).e0 < 256 ∧ (wbConvert T xs).e1 < 256 := by
  unfold wbConvert
  extract_lets m hi lo nz clamp E1 L E0 conv
  split
  · simp
  split
  · simp
  have hE1 : E1 ≤ 254 := max_le (by decide) (min_le_left _ _)
  have hE0 : E0 ≤ 254 := by
    unfold E0
    split
    · exact hE1
    · refine max_le (by decide) (foldl_max_le (by decide) fun x hx => ?_)
      obtain ⟨y, hy, rfl⟩ := List.mem_map.1 hx
      have hlt := (List.mem_filter.1 hy).2
      simp only [Bool.and_eq_true, decide_eq_true_eq] at hlt
      omega
  exact ⟨by simp [conv], by dsimp only; omega, by dsimp only; omega⟩

/-! ## VQNT (R222) -/

/-- Block K of a register replaced: c elements of w bits. -/
theorem testBit_replaceBlock {w c : Nat} (hw : 0 < w) (whole K : Nat) {l : List Nat} (hl : l.length = c) (i : Nat) :
    (whole - whole / 2 ^ (w * (c * K)) % 2 ^ (w * c) * 2 ^ (w * (c * K)) + packLanes w l * 2 ^ (w * (c * K))).testBit i =
      if c * K ≤ i / w ∧ i / w < c * K + c then ((l[i / w - c * K]?).getD 0).testBit (i % w) else whole.testBit i := by
  subst hl
  rw [testBit_replaceField _ _ _ (packLanes_lt l)]
  have hlow : l.length * K ≤ i / w ↔ w * (l.length * K) ≤ i := by rw [Nat.le_div_iff_mul_le hw, Nat.mul_comm]
  have hhigh : i / w < l.length * K + l.length ↔ i < w * (l.length * K) + w * l.length := by
    rw [Nat.div_lt_iff_lt_mul hw, Nat.add_mul, Nat.mul_comm, Nat.mul_comm l.length w]
  simp only [← hlow, ← hhigh]
  split
  · next h => rw [testBit_packLanes hw, Nat.sub_mul_div, Nat.sub_mul_mod (hlow.1 h.1)]
  · rfl

theorem wbTag_width : ∀ T : Tag, wbTag T = true → 0 < tagWidth T ∧ tagWidth T ∣ 512 := by decide

/-- The elements of a register of a block format whose block K is replaced: of block 0 the others become 0. -/
theorem ofNat_replaceBlock {w K : Nat} (hw : 0 < w) (hdvd : w ∣ 512) (I : Iss) (lane : Nat) (r : Reg) {l : List Nat} (hl : l.length = 32) :
    let old := if K = 0 then 0 else ((I.c.rd lane).vec r).bits.toNat
    BitVec.ofNat 512 (old - old / 2 ^ (32 * w * K) % 2 ^ (32 * w) * 2 ^ (32 * w * K) + packLanes w l * 2 ^ (32 * w * K)) =
      vector w (fun j => if 32 * K ≤ j ∧ j < 32 * K + 32 then BitVec.ofNat _ ((l[j - 32 * K]?).getD 0)
        else if K = 0 then 0 else element I lane r _ j) := by
  intro old
  refine BitVec.eq_of_getLsbD_eq fun i hi => ?_
  rw [getLsbD_vector hw _ hi hdvd, Nat.mul_comm 32 w, Nat.mul_assoc, BitVec.getLsbD_ofNat, testBit_replaceBlock hw _ _ hl,
    decide_eq_true hi, Bool.true_and]
  split
  · rw [BitVec.getLsbD_ofNat, decide_eq_true (Nat.mod_lt i hw), Bool.true_and]
  · unfold old
    split
    · simp
    · rw [getLsbD_element I lane r hw]
      rfl

/-- The same for the exponent pairs. -/
theorem ofNat_replacePair (K : Nat) (exps : Word) {e0 e1 : Nat} (h0 : e0 < 256) (h1 : e1 < 256) :
    let old := if K = 0 then 0 else exps.toNat
    BitVec.ofNat 64 (old - old / 2 ^ (16 * K) % 2 ^ 16 * 2 ^ (16 * K) + (e0 + e1 * 256) * 2 ^ (16 * K)) =
      BitVec.ofNat 64 ((List.range 8).map (fun j => (if j = 2 * K then e0 else if j = 2 * K + 1 then e1
        else if K = 0 then 0 else (exps.extractLsb' (8 * j) 8).toNat) * 2 ^ (8 * j))).sum := by
  intro old
  let byte (j : Nat) : Nat := if j = 2 * K then e0 else if j = 2 * K + 1 then e1 else if K = 0 then 0 else (exps.extractLsb' (8 * j) 8).toNat
  have hbyte (j : Nat) : byte j % 2 ^ 8 = byte j := by
    refine Nat.mod_eq_of_lt ?_
    unfold byte
    split
    · exact h0
    split
    · exact h1
    split
    · decide
    · exact BitVec.isLt _
  have hpair : e0 + e1 * 256 = packLanes 8 [e0, e1] := by simp only [packLanes]; omega
  have hsum : ((List.range 8).map (fun j => byte j * 2 ^ (8 * j))).sum = packLanes 8 ((List.range 8).map byte) := by
    rw [packLanes_sum]
    simp only [hbyte]
  change _ = BitVec.ofNat 64 ((List.range 8).map (fun j => byte j * 2 ^ (8 * j))).sum
  refine BitVec.eq_of_getLsbD_eq fun i hi => ?_
  have hblock := testBit_replaceBlock (w := 8) (c := 2) (by decide) old K (l := [e0, e1]) rfl i
  rw [← Nat.mul_assoc] at hblock
  simp only [Nat.reduceMul] at hblock
  rw [hsum, hpair, BitVec.getLsbD_ofNat, BitVec.getLsbD_ofNat, hblock, testBit_packLanes (by decide), List.getElem?_map,
    List.getElem?_range (by omega)]
  congr 1
  simp only [Option.map_some, Option.getD_some, byte]
  split
  · next h =>
    rcases (by omega : i / 8 = 2 * K ∨ i / 8 = 2 * K + 1) with hj | hj
    · simp [hj]
    · simp [hj]
  · rw [if_neg (by omega), if_neg (by omega)]
    unfold old
    split
    · simp
    · change _ = (exps.extractLsb' (8 * (i / 8)) 8).getLsbD (i % 8)
      rw [BitVec.getLsbD_extractLsb', decide_eq_true (Nat.mod_lt i (by decide)), Bool.true_and, Nat.div_add_mod]
      rfl

/-- The values that VQNT converts: of two registers of FP32, or of one of 16-bit elements. -/
def vqntValues (f : Gen) (I : Iss) (lane : Nat) : List FpNum :=
  if f.sb != .w 0 then (List.range 32).map (fun j => numOf 0x15 (element I lane (if j < 16 then f.sa else f.sb) 32 (j % 16)).toNat)
  else (List.range 32).map (fun j => numOf ((I.c.rd lane).vec f.sa).tag (element I lane f.sa 16 j).toNat)

theorem vqntValues_length (f : Gen) (I : Iss) (lane : Nat) : (vqntValues f I lane).length = 32 := by
  unfold vqntValues
  split <;> simp

theorem vecLanes_pair (I : Iss) (lane : Nat) (a b : Reg) : vecLanes 32 ((I.c.rd lane).vec a).bits ++ vecLanes 32 ((I.c.rd lane).vec b).bits =
    (List.range 32).map (fun j => (element I lane (if j < 16 then a else b) 32 (j % 16)).toNat) := by
  simp only [vecLanes]
  rfl

/-- What VQNT reads of its sources on one strand, or the tag that stops it. -/
def vqntSource (f : Gen) (rd : Rd) : Except Stop (List FpNum) :=
  let a := rd.vec f.sa
  if f.sb != .w 0 then
    if a.tag != 0x15 then .error (tagStop f.sa a.tag)
    else if (rd.vec f.sb).tag != 0x15 then .error (tagStop f.sb (rd.vec f.sb).tag)
    else .ok ((vecLanes 32 a.bits ++ vecLanes 32 (rd.vec f.sb).bits).map (numOf 0x15))
  else if a.tag != 0x13 && a.tag != 0x14 then .error (tagStop f.sa a.tag)
  else .ok ((vecLanes 16 a.bits).map (numOf a.tag))

theorem vqntSource_ok {f : Gen} {I : Iss} {lane : Nat}
    (hsrc : if f.sb != .w 0 then ((I.c.rd lane).vec f.sa).tag = 0x15 ∧ ((I.c.rd lane).vec f.sb).tag = 0x15
      else ((I.c.rd lane).vec f.sa).tag = 0x13 ∨ ((I.c.rd lane).vec f.sa).tag = 0x14) :
    vqntSource f (I.c.rd lane) = .ok (vqntValues f I lane) := by
  unfold vqntSource vqntValues
  by_cases htwo : (f.sb != .w 0) = true
  · rw [if_pos htwo] at hsrc
    obtain ⟨ha, hb⟩ := hsrc
    simp only [htwo, if_true, ha, hb, bne_self_eq_false, Bool.false_eq_true, if_false, vecLanes_pair, List.map_map]
    rfl
  · rw [if_neg htwo] at hsrc
    have htag : (((I.c.rd lane).vec f.sa).tag != 0x13 && ((I.c.rd lane).vec f.sa).tag != 0x14) = false := by
      rcases hsrc with h | h <;> rw [h] <;> decide
    simp only [htwo, Bool.false_eq_true, if_false, htag, vecLanes, List.map_map]
    rfl

/-- VQNT on one strand whose sources carry the formats it takes. -/
theorem vqntRes_ok {f : Gen} {I : Iss} {lane ntens : Nat} (hT : wbTag (fpT f.mod) = true)
    (hsrc : if f.sb != .w 0 then ((I.c.rd lane).vec f.sa).tag = 0x15 ∧ ((I.c.rd lane).vec f.sb).tag = 0x15
      else ((I.c.rd lane).vec f.sa).tag = 0x13 ∨ ((I.c.rd lane).vec f.sa).tag = 0x14)
    (hdst : bitsOf f.imm.toNat 9 8 ≠ 0 → ((I.c.rd lane).vec f.dst).tag = fpT f.mod) (htens : bitsOf f.imm.toNat 27 16 < ntens) :
    let T := fpT f.mod
    let K := bitsOf f.imm.toNat 9 8
    let tens := bitsOf f.imm.toNat 27 16
    let old := (I.c.rd lane).vec f.dst
    let b := wbConvert T (vqntValues f I lane)
    vqntRes f ntens (I.c.rd lane) = .ok
      { writes := [(f.dst, { bits := vector (tagWidth T) (fun j => if 32 * K ≤ j ∧ j < 32 * K + 32 then BitVec.ofNat _ ((b.elems[j - 32 * K]?).getD 0)
                               else if K = 0 then 0 else element I lane f.dst _ j)
                             tag := T
                             exps := BitVec.ofNat 64 ((List.range 8).map (fun j => (if j = 2 * K then b.e0 else if j = 2 * K + 1 then b.e1
                               else if K = 0 then 0 else (old.exps.extractLsb' (8 * j) 8).toNat) * 2 ^ (8 * j))).sum })]
        flags := (if b.inexact then flagNX else 0) ||| (if b.sat = 0 then 0 else flagOF)
        counts := List.replicate b.sat (3 * tens) ++ List.replicate b.flush (3 * tens + 1) ++ List.replicate b.nonfin (3 * tens + 2) } := by
  intro T K tens old b
  obtain ⟨hw, hdvd⟩ := wbTag_width T hT
  obtain ⟨hlen, h0, h1⟩ := wbConvert_fits T (vqntValues f I lane)
  have hread := vqntSource_ok hsrc
  have hkeep : (bitsOf f.imm.toNat 9 8 != 0 && ((I.c.rd lane).vec f.dst).tag != fpT f.mod) = false := by
    by_cases hK : bitsOf f.imm.toNat 9 8 = 0
    · simp [hK]
    · simp [hdst hK]
  have hten : needTensor ntens (bitsOf f.imm.toNat 27 16) = .ok () := if_pos htens
  have hold (k x y : Nat) : (if k == 0 then (0, 0) else (x, y)) = (if k = 0 then 0 else x, if k = 0 then 0 else y) := by
    by_cases hk : k = 0 <;> simp [hk]
  rw [← ofNat_replaceBlock hw hdvd I lane f.dst (hlen.trans (vqntValues_length f I lane)), ← ofNat_replacePair K _ h0 h1]
  unfold vqntSource at hread
  unfold vqntRes
  simp only [hread, hkeep, hten, hold, Bool.false_eq_true, if_false]
  rfl

/-! ## VDQN (R223) -/

theorem wbPair_eq (exps : Word) (K : Nat) :
    wbPair exps K = ((exps.extractLsb' (16 * K + 8 * 0) 8).toNat, (exps.extractLsb' (16 * K + 8 * 1) 8).toNat) := by
  unfold wbPair bitsOf
  rw [BitVec.extractLsb'_toNat, BitVec.extractLsb'_toNat, show 16 * K + 7 + 1 - 16 * K = 8 by omega,
    show 16 * K + 15 + 1 - (16 * K + 8) = 8 by omega]
  rfl

/-- The elements of a block that VDQN converts: of FP32 one half of them. -/
theorem vdqn_elements (T : Tag) (high : Bool) (t : Tag) (bits : Vec) (K : Nat) :
    (if T = 0x15 then ((wbElems t bits K).drop (if high then 16 else 0)).take 16 else wbElems t bits K) =
      (List.range (if T = 0x15 then 16 else 32)).map (fun j =>
        (bits.extractLsb' (tagWidth t * (32 * K + (if T = 0x15 ∧ high then 16 else 0) + j)) (tagWidth t)).toNat) := by
  simp only [← laneOf_eq, wbElems]
  by_cases hT : T = 0x15
  · simp only [hT, if_true, true_and]
    refine List.ext_getElem (by cases high <;> simp) fun j h1 h2 => ?_
    simp [Nat.add_assoc]
  · simp only [hT, false_and, if_false, Nat.add_zero]

theorem vdqn_lanes : ∀ T : Tag, stdFpTag T = true → T ≠ 0x16 → 512 / tagWidth T = if T = 0x15 then 16 else 32 := by decide

/-- VDQN on one strand whose source carries a block format with block K. -/
theorem vdqnRes_ok {f : Gen} {I : Iss} {lane ntens : Nat} (hT : stdFpTag (fpT f.mod) = true) (h64 : fpT f.mod ≠ 0x16)
    (hwb : wbTag ((I.c.rd lane).vec f.sa).tag = true) (hK : bitsOf f.imm.toNat 9 8 < wbBlocks ((I.c.rd lane).vec f.sa).tag)
    (htens : bitsOf f.imm.toNat 27 16 < ntens) :
    let T := fpT f.mod
    let K := bitsOf f.imm.toNat 9 8
    let tens := bitsOf f.imm.toNat 27 16
    let A := ((I.c.rd lane).vec f.sa).tag
    let e (j : Nat) : Nat := (((I.c.rd lane).vec f.sa).exps.extractLsb' (16 * K + 8 * j) 8).toNat
    let n := if T = 0x15 then 16 else 32
    let r (j : Nat) := roundTo T (fpRm f.mod) (wbElem A (e 0) (e 1)
      (element I lane f.sa (tagWidth A) (32 * K + (if T = 0x15 ∧ f.imm.getLsbD 10 then 16 else 0) + j)).toNat)
    vdqnRes f ntens (I.c.rd lane) = .ok
      { writes := [(f.dst, typed T (fun j => BitVec.ofNat _ (r j).bits))], flags := allFlags n r
        counts := if e 0 = 255 ∨ e 1 = 255 then [3 * tens + 2] else (List.range n).flatMap (fun j => cntKeys tens (r j).cnt) } := by
  intro T K tens A e n r
  have hten : needTensor ntens (bitsOf f.imm.toNat 27 16) = .ok () := if_pos htens
  have hlanes : 512 / tagWidth T = n := vdqn_lanes T hT h64
  unfold vdqnRes
  simp only [hwb, Bool.not_true, Bool.false_eq_true, if_false, if_neg (Nat.not_le.2 hK), hten, wbPair_eq, vdqn_elements, List.map_map,
    List.foldl_map, List.flatMap_map, Bool.or_eq_true, beq_iff_eq]
  rw [typed, ← vecOfLanes_vector _ (fun j => (r j).bits) _ (fun _ _ => rfl), hlanes]
  rfl

/-- Settles O10: each running strand converts its values into block K, or block K into values, and counts what R205 says. -/
theorem blockFormats : Obligations.BlockFormats := by
  refine ⟨fun f => ?_, fun f => ?_⟩
  · intro T K tens two b hT s I h hpre hu
    obtain ⟨hsrc, hdst, -, htens⟩ := hpre
    refine form_counts h (Eq.refl (execVqnt f s)) (fun lane hl => vqntRes_ok hT ?_ (fun hK => hdst hK lane hl) htens) hu
    by_cases htwo : two = true
    · rw [if_pos htwo] at hsrc ⊢
      exact ⟨hsrc.1 lane hl, hsrc.2 lane hl⟩
    · rw [if_neg htwo] at hsrc ⊢
      exact hsrc lane hl
  · intro T K tens e n r hT h64 s I h hpre hu
    obtain ⟨hwb, htens⟩ := hpre
    exact form_counts h (Eq.refl (execVdqn f s)) (fun lane hl => vdqnRes_ok hT h64 (hwb lane hl).1 (hwb lane hl).2 htens) hu

end Sys2Proof.Laws
end

section
/-! Collectives at a participant (R202, R343, R387, R389, R390, R447, R449): packets in the order of their flow, chunks and their pieces, the
reduction, what goes out again, and the watchdog. -/
namespace Sys2Proof.Laws
open Sys2Proof.Machine Sys2Proof.Safety

/-! ## Requests in the order of their flow (R376) -/

section
variable {s t : State} {p : Packet}

theorem seqAt_setSeq (s : State) (src : Nat) (f : Flow) (e : Byte) (n : Half) : (s.setSeq src f e n).seqAt src f = (e, n) := by
  simp [State.seqAt, State.setSeq]

/-- Only the numbers that flows expect, and what has come early, are different. -/
def SameButFlows (s t : State) : Prop := ({ t with async := { t.async with expected := s.async.expected, early := s.async.early } } : State) = s

theorem SameButFlows.trans {u : State} (h : SameButFlows s t) (k : SameButFlows t u) : SameButFlows s u := by
  unfold SameButFlows at h k ⊢
  rw [← k] at h
  exact h

theorem setSeq_sameButFlows (s : State) (early : List Packet) (src : Nat) (f : Flow) (e : Byte) (n : Half) :
    SameButFlows s (({ s with async := { s.async with early } } : State).setSeq src f e n) := rfl

theorem skipDone_sameButFlows (src : Nat) (f : Flow) (n : Nat) (s : State) : SameButFlows s (s.skipDone src f n) := by
  induction n generalizing s with
  | zero => rfl
  | succ n ih =>
    unfold State.skipDone
    dsimp only
    split
    · rfl
    · exact (setSeq_sameButFlows ..).trans (ih _)

/-- Nothing that was performed ahead of its turn is stepped over where there is none. -/
theorem skipDone_none (h : ∀ q ∈ s.async.early, q.kind ≠ 0) (src : Nat) (f : Flow) (n : Nat) : s.skipDone src f n = s := by
  cases n with
  | zero => rfl
  | succ n =>
    unfold State.skipDone
    dsimp only
    rw [List.find?_eq_none.2 fun q hq => by simpa using fun _ _ _ => h q hq]

/-- A request that is the next of its flow is performed as it arrives. -/
theorem inFlow_performed (h : nextOfFlow s p) {f : State → Bool × State} {s1 : State} (hf : f s = (true, s1)) : Performed (s.inFlow p f) p s1 := by
  obtain ⟨hdst, hseq⟩ := h
  have hturn : s.inTurn p = true := by simp [State.inTurn, ← hseq]
  have hrun : s.inFlow p f = State.skipDone (({ s1 with async := { s1.async with early := s1.async.early.erase p } } : State).setSeq
      p.src.toNat p.flow p.ent (p.seq + 1)) p.src.toNat p.flow (s1.async.early.erase p).length := by
    unfold State.inFlow
    simp [← hseq, hdst, hturn, hf]
  rw [hrun]
  refine ⟨(setSeq_sameButFlows ..).trans (skipDone_sameButFlows _ _ _ _), fun hnone => ?_⟩
  rw [skipDone_none fun q hq => hnone q (List.mem_of_mem_erase hq), seqAt_setSeq]

/-- A request that its target acknowledges. -/
theorem acked_of_served (h : nextOfFlow s p) {i : Instr} {f : State → Bool × State} {s1 : State} (hexec : exec i s = .next (s.inFlow p f))
    (hf : f s = s.served p (.ok (s1, 7, .none))) : Acked s p i s1 :=
  ⟨_, hexec, inFlow_performed h hf⟩
end

/-! ## Packets of a collective (R343, R387, R389, R390) -/

section
variable {s : State} {p : Packet} {tag : Word32} {c : Coll} {j : Nat}

theorem ready_acked (h : nextOfFlow s p) {stage dst : Word} (hb : p.body = .ready tag stage dst) (hc : s.collPacket p tag false = .ok (c, j)) :
    Acked s p (.fabricReady p) ((s.setColl (c.modPos j (fun x => { x with ready := true, stage, dst, last := s.stamp }))).collCheck c.cause.toNat) := by
  have hexec : exec (.fabricReady p) s = execFabricReady p s := rfl
  rw [execFabricReady, hb] at hexec
  exact acked_of_served h hexec (by rw [hc]; rfl)

theorem chunk_acked (h : nextOfFlow s p) {result : Bool} {o : Word} {bs : List Byte} (hb : p.body = .chunk tag result o bs)
    (hc : s.collPacket p tag false = .ok (c, j)) (hop : ∀ x, s.op? c.op = some x → x.fault = none) {s1 : State}
    (hstore : s.agtStore (s.collAgt c) o bs = .ok s1) :
    let rel := (o - cdInto c.desc j (cdSelf c.desc) result (cdStage c.desc) (cdDst c.desc)).toNat
    let y := (c.modPos j (fun x => { x with last := s1.stamp })).piece j result rel bs.length (cdBytes c.desc j (cdSelf c.desc) result)
    Acked s p (.fabricChunk p) ((if y.1 then (s1.opGoesOn c.op).countChunk y.2 j result p.src.toNat
      else (s1.opGoesOn c.op).setColl y.2).collCheck c.cause.toNat) := by
  intro rel y
  have hexec : exec (.fabricChunk p) s = execFabricChunk p s := rfl
  rw [execFabricChunk, hb] at hexec
  have hfault : (s.op? c.op).elim false (fun o => o.fault.isSome) = false := by
    cases ho : s.op? c.op with
    | none => rfl
    | some x => simp [hop x ho]
  refine acked_of_served h hexec ?_
  simp only [hc, hfault, hstore, Bool.false_eq_true, if_false]
  rfl

theorem barrierPacket_acked (h : nextOfFlow s p) (hc : s.collPacket p tag true = .ok (c, j)) {i : Instr} {departs : Bool}
    (hexec : exec i s = .next (s.barrierPacket p tag departs)) : Acked s p i (s.peerArrives p c departs) :=
  acked_of_served h hexec (by rw [hc])

theorem exec_late {r : Record} (hb : p.body = .late r) : exec (.fabricControl p) s = .next (s.lateArrives p r) := by
  change execFabricControl p s = _
  rw [execFabricControl, hb]
end

/-! ## Pieces and chunks that are counted (R387) -/

theorem modPos_get {c : Coll} {j : Nat} {x : Position} (h : c.pos[j]? = some x) (f : Position → Position) :
    (c.modPos j f).pos[j]? = some (f x) ∧ ∀ k, k ≠ j → (c.modPos j f).pos[k]? = c.pos[k]? := by
  obtain ⟨hlt, -⟩ := List.getElem?_eq_some_iff.1 h
  simp only [Coll.modPos, h]
  exact ⟨List.getElem?_set_self hlt, fun k hk => List.getElem?_set_ne (Ne.symm hk)⟩

theorem modPos_at {c : Coll} {j : Nat} (h : j < c.pos.length) (f : Position → Position) : (c.modPos j f).at j = f (c.at j) := by
  have hget := List.getElem?_eq_getElem h
  rw [Coll.at, (modPos_get hget f).1, Coll.at, hget]
  rfl

theorem piece_spec (c : Coll) {j : Nat} (result : Bool) (rel n bytes : Nat) (hchunk : 0 < cdChunk c.desc) (hj : j < c.pos.length) :
    let i := rel / cdChunk c.desc
    let key := 2 * i + (if result then 1 else 0)
    let size := min (cdChunk c.desc) (bytes - i * cdChunk c.desc)
    let y := c.piece j result rel n bytes
    (y.1 = true ↔ size ≤ (kget (c.at j).parts key).getD 0 + n) ∧ (y.1 = true → kget (y.2.at j).parts key = none) ∧
      (y.1 = false → kget (y.2.at j).parts key = some ((kget (c.at j).parts key).getD 0 + n)) ∧ y.2.counter = c.counter := by
  have hmax : max (cdChunk c.desc) 1 = cdChunk c.desc := max_eq_left hchunk
  intro i key size y
  have hy : y = (decide (size ≤ (kget (c.at j).parts key).getD 0 + n), c.modPos j (fun x => { x with
      parts := if decide (size ≤ (kget (c.at j).parts key).getD 0 + n) then kdel x.parts key else kset x.parts key ((kget (c.at j).parts key).getD 0 + n) })) := by
    simp only [y, Coll.piece, hmax]
    rfl
  rw [hy]
  refine ⟨decide_eq_true_iff, fun hwhole => ?_, fun hpart => ?_, rfl⟩
  · rw [modPos_at hj, show decide _ = true from hwhole]
    exact kget_kdel_self _ _
  · rw [modPos_at hj, show decide _ = false from hpart]
    exact kget_kset_self _ _ _

theorem countChunk_spec (s : State) {c : Coll} {j : Nat} (result : Bool) (dev : Nat) {x : Position} (hx : c.pos[j]? = some x)
    (ha : cdAcsig c.desc < 2 ^ 16) : let t := s.countChunk c j result dev
    ∃ z, t.coll? c.cause.toNat = some z ∧ z.counter = (if result then c.counter else c.counter - 1) ∧
      z.pos[j]? = some (if result then { x with result := x.result + 1 } else { x with chunks := x.chunks + 1 }) ∧
      (∀ k, k ≠ j → z.pos[k]? = c.pos[k]?) ∧ t.courses = s.courses ∧ t.mem = s.mem := by
  let f (x : Position) : Position := if result then { x with result := x.result + 1 } else { x with chunks := x.chunks + 1 }
  let z : Coll := if result then c.modPos j f else { c.modPos j f with counter := (c.modPos j f).counter - 1 }
  have hdesc : z.desc = c.desc := by unfold z; split <;> rfl
  have hcause : z.cause = c.cause := by unfold z; split <;> rfl
  have hpos : z.pos = (c.modPos j f).pos := by unfold z; split <;> rfl
  have hbit : (cdAcsig z.desc).testBit 16 = false := by rw [hdesc]; exact Nat.testBit_lt_two_pow ha
  have ht : s.countChunk c j result dev = s.setColl z := by
    change (if (cdAcsig z.desc).testBit 16 then _ else s.setColl z) = _
    rw [hbit]
    rfl
  obtain ⟨hself, hother⟩ := modPos_get hx f
  rw [ht]
  refine ⟨z, ?_, ?_, by rw [hpos, hself], by rw [hpos]; exact hother, rfl, rfl⟩
  · rw [State.coll?, State.setColl, hcause]
    exact kget_kset_self _ _ _
  · unfold z
    split <;> rfl

/-! ## What goes out again (R387) -/

section
variable {s : State} {i : Nat} {c : Coll} {t dev : Nat} {tag : Word32}

theorem due_partition {b : Body} (ht : t ≤ s.time.gt) (hone : c.resend = [(t, dev, b)]) :
    c.resend.partition (fun x => decide (x.1 ≤ s.time.gt)) = ([(t, dev, b)], []) := by
  rw [hone, List.partition_eq_filter_filter]
  simp [ht]

theorem readyResend_ready {a b : Word} (hc : s.coll? i = some c) (ht : t ≤ s.time.gt) (hone : c.resend = [(t, dev, .ready tag a b)]) :
    exec (.readyResend i) s = .next ((s.setColl { c with resend := [] }).sendReq (.ready c.cause ((cdPosOf c.desc dev).getD 0)) (.coll c.cause) dev
      0x0A c.ctx 0 (cdMode c.desc) c.cause c.parent 0 (.ready tag a b)) := by
  change execReadyResend i s = _
  simp only [execReadyResend, hc, due_partition ht hone]
  rfl

theorem readyResend_chunk {result : Bool} {o : Word} {bs : List Byte} (hc : s.coll? i = some c) (ht : t ≤ s.time.gt)
    (hone : c.resend = [(t, dev, .chunk tag result o bs)]) :
    exec (.readyResend i) s = .next ((s.setColl { c with resend := [] }).sendReq (.chunk c.cause) (.coll c.cause) dev 9 c.ctx 0 (cdMode c.desc)
      c.cause c.parent 0 (.chunk tag result o bs)) := by
  change execReadyResend i s = _
  simp only [execReadyResend, hc, due_partition ht hone]
  rfl
end

/-! ## The reduce panel (R202, R387, R447) -/

theorem reducePanel_reduces {s : State} {i : Nat} {c : Coll} {o : Op} {core : Nat} {ins : List (List Byte)} {s1 : State} (hc : s.coll? i = some c)
    (ho : s.op? c.op = some o) (hfault : o.fault = none) (hop : cdOp c.desc = 1 ∨ cdOp c.desc = 3) (hred : c.reduced = false) (hcount : c.counter = 0)
    (hcore : s.reduceCore c.ctx = some core) (hins : s.reduceInputs c = .ok ins)
    (hstore : s.agtStore (s.collAgt c) (cdDst c.desc + BitVec.ofNat 64 (if cdOp c.desc = 1 then cdSelf c.desc * cdSegment c.desc else 0))
      (reduceBytes (cdTag c.desc) (cdRed c.desc) ins (cdSegment c.desc)) = .ok s1) :
    exec (.reducePanel i) s =
      .next ((((s1.opGoesOn c.op).emit (c.ev 0xA6 (core + cdName c.desc * 2 ^ 8))).setColl { c with reduced := true }).collCheck i) := by
  have hreduces : cdReduces c.desc = true := by simpa [cdReduces] using hop
  change execReducePanel i s = _
  unfold execReducePanel
  simp [hc, ho, hfault, hreduces, hred, hcount, hcore, hins, hstore]

theorem reduceElem_sum {T : Tag} (hT : fpTag T = false) {xs : List Nat} (hxs : ∀ x ∈ xs, x < 2 ^ tagWidth T) :
    reduceElem T 0 xs = xs.sum % 2 ^ tagWidth T := by
  have hsum : presentSum id (xs.map some) = xs.sum := by simp [presentSum, List.filterMap_map]
  have hadd (x y : Nat) (_ : x < 2 ^ tagWidth T) (_ : y < 2 ^ tagWidth T) :
      reduceVal T 0 x y < 2 ^ tagWidth T ∧ id (reduceVal T 0 x y) = (id x + id y) % 2 ^ tagWidth T := by
    have hval : reduceVal T 0 x y = (x + y) % 2 ^ tagWidth T := by simp [reduceVal, hT]
    rw [hval]
    exact ⟨Nat.mod_lt _ (Nat.two_pow_pos _), rfl⟩
  have hlen : (xs.map some).length ≤ 2 ^ xs.length := by rw [List.length_map]; exact Nat.lt_two_pow_self.le
  unfold reduceElem
  rcases treeFold_sum hadd (fun _ h => h) xs.length _ hlen (by simpa using hxs) with ⟨h, h0⟩ | ⟨x, h, -, hx⟩
  · rw [h, ← hsum, h0]
    rfl
  · rw [h, ← hsum, ← hx]
    rfl

/-! ## The watchdog (R389) -/

/-- One control flit leaves for each of some devices. -/
theorem sendControls_outgoing (dst : Nat → Nat) (ctx : Nat) (f : Flow) (b : Body) (l : List Nat) (s : State) :
    ∃ ps, l.foldl (fun s q => s.sendControl (dst q) ctx f b) s = outgoing s ps ∧ ps.length = l.length := by
  induction l generalizing s with
  | nil => exact ⟨[], by simp [outgoing], rfl⟩
  | cons q l ih =>
    obtain ⟨p, -, -, hp⟩ := sendControl_outgoing s (dst q) ctx f b
    obtain ⟨ps, hps, hlen⟩ := ih (outgoing s [p])
    refine ⟨p :: ps, ?_, congrArg (· + 1) hlen⟩
    rw [List.foldl_cons, hp, hps, outgoing_outgoing]
    rfl

theorem collLate_fires {s : State} {i : Nat} {c : Coll} (hc : s.coll? i = some c) (hi : c.cause.toNat = i) (hfired : c.fired = false)
    (hdone : c.done = false) (hwatch : c.watchAt ≤ s.time.gt) : ∃ t z, exec (.collLate i) s = .next t ∧
      t.coll? i = some z ∧ z.fired = true ∧ z.late = (c.firstLate s.devNo).2.2 ∧ RegistersKept s t ∧
      t.async.outbox.length = s.async.outbox.length + (cdPeers c.desc).length := by
  let x := c.firstLate s.devNo
  let z : Coll := { c with fired := true, late := x.2.2, lateSteps := BitVec.ofNat 32 x.1 }
  let ev : Ev := { c.ev 0xA8 (x.2.2 % 16 + s.devNo % 16 * 2 ^ 4 + x.1 % 2 ^ 32 * 2 ^ 8 + x.2.1 % 2 ^ 48 * 2 ^ 40) with err := true }
  obtain ⟨u, hu⟩ : ∃ u, (s.setColl z).emitErr c.ctx ev = u := ⟨_, rfl⟩
  have hrec : Recorded (s.setColl z) u := hu ▸ emitErr_recorded _ _ _
  obtain ⟨ps, hps, hlen⟩ := sendControls_outgoing (cdPart c.desc) c.ctx (.coll c.cause) (.late ((s.setColl z).recordFor ev)) (cdPeers c.desc) u
  have hcolls : u.async.colls = (s.setColl z).async.colls := (congrArg (·.async.colls) hrec :)
  have hout : u.async.outbox = s.async.outbox := (congrArg (·.async.outbox) hrec :)
  have hcourses : u.courses = s.courses := hrec.courses
  have hexec : exec (.collLate i) s = .next (outgoing u ps) := by
    have hdue : (c.fired || c.done || decide (s.time.gt < c.watchAt)) = false := by simp [hfired, hdone, hwatch]
    rw [← hps, ← hu]
    change execCollLate i s = _
    simp only [execCollLate, hc, hdue, Bool.false_eq_true, if_false]
    rfl
  refine ⟨_, z, hexec, ?_, rfl, rfl, registersKept_of_courses hcourses, ?_⟩
  · change kget u.async.colls i = some z
    rw [hcolls, ← hi]
    exact kget_kset_self _ _ _
  · change (u.async.outbox ++ ps).length = _
    rw [List.length_append, hout, hlen]

/-- The least element by a relation that goes by a number first is one of the list, and none has a smaller number. -/
theorem foldl_least {α : Type} {key : α → Nat} {before : α → α → Bool} (h1 : ∀ a b, before a b = true → key a ≤ key b)
    (h2 : ∀ a b, before a b = false → key b ≤ key a) (l : List α) (x : α) :
    let m := l.foldl (fun m y => if before y m then y else m) x
    m ∈ x :: l ∧ ∀ y ∈ x :: l, key m ≤ key y := by
  induction l generalizing x with
  | nil => simp
  | cons y l ih =>
    intro m
    have hm : m ∈ (if before y x then y else x) :: l ∧ ∀ z ∈ (if before y x then y else x) :: l, key m ≤ key z := ih _
    obtain ⟨hmem, hle⟩ := hm
    have hfirst : key (if before y x then y else x) ≤ key x ∧ key (if before y x then y else x) ≤ key y := by
      split
      · next h => exact ⟨h1 y x h, le_rfl⟩
      · next h => exact ⟨le_rfl, h2 y x (Bool.eq_false_of_not_eq_true h)⟩
    constructor
    · rcases List.mem_cons.1 hmem with h | h
      · rw [h]
        split <;> simp
      · exact List.mem_cons_of_mem _ (List.mem_cons_of_mem _ h)
    · intro z hz
      rcases List.mem_cons.1 hz with rfl | hz
      · exact (hle _ List.mem_cons_self).trans hfirst.1
      rcases List.mem_cons.1 hz with rfl | hz
      · exact (hle _ List.mem_cons_self).trans hfirst.2
      · exact hle z (List.mem_cons_of_mem _ hz)

/-- What the watchdog compares of a position: its steps, its last packet and its device. -/
def lateness (c : Coll) (j : Nat) : Nat × Nat × Nat := ((c.at j).steps, (c.at j).last, cdPart c.desc j)

/-- The order in which the watchdog takes them. -/
def precedes (a b : Nat × Nat × Nat) : Bool := a.1 < b.1 || (a.1 == b.1 && (a.2.1 < b.2.1 || (a.2.1 == b.2.1 && a.2.2 < b.2.2)))

theorem fst_le_of_precedes (a b : Nat × Nat × Nat) : (precedes a b = true → a.1 ≤ b.1) ∧ (precedes a b = false → b.1 ≤ a.1) := by
  simp only [precedes, Bool.or_eq_true, Bool.and_eq_true, decide_eq_true_eq, beq_iff_eq, Bool.or_eq_false_iff, decide_eq_false_iff_not]
  omega

/-- R389: the first late participant is one from which something is expected, with the fewest steps, or this device. -/
theorem firstLate_spec (c : Coll) (self : Nat) : let late := (cdPeers c.desc).filter c.awaits
    (late = [] → (c.firstLate self).2.2 = self) ∧
    (late ≠ [] → ∃ j ∈ late, (c.firstLate self).2.2 = cdPart c.desc j ∧ ∀ k ∈ late, (c.at j).steps ≤ (c.at k).steps) := by
  intro late
  have hlate : (cdPeers c.desc).filter c.awaits = late := rfl
  clear_value late
  cases late with
  | nil =>
    refine ⟨fun _ => ?_, fun h => absurd rfl h⟩
    unfold Coll.firstLate
    rw [hlate]
    rfl
  | cons j0 js =>
    refine ⟨fun h => absurd h (List.cons_ne_nil j0 js), fun _ => ?_⟩
    have hfold : c.firstLate self = (js.map (lateness c)).foldl (fun m y => if precedes y m then y else m) (lateness c j0) := by
      unfold Coll.firstLate
      rw [hlate]
      rfl
    obtain ⟨hmem, hle⟩ := foldl_least (fun a b => (fst_le_of_precedes a b).1) (fun a b => (fst_le_of_precedes a b).2) (js.map (lateness c)) (lateness c j0)
    rw [← hfold, ← List.map_cons] at hmem hle
    obtain ⟨j, hj, hfirst⟩ := List.mem_map.1 hmem
    refine ⟨j, hj, by rw [← hfirst]; rfl, fun k hk => ?_⟩
    have hjk := hle _ (List.mem_map_of_mem hk)
    rwa [← hfirst] at hjk

/-- Settles O52, clause by clause: requests by the order of their flow, pieces and chunks by what is counted, sums by the tree's law, and the
watchdog by the flits that leave and the least of the late. -/
theorem collectiveEvents : Obligations.CollectiveEvents := by
  refine ⟨fun s p tag stage dst c j h hb hc => ready_acked h hb hc, fun s p tag result o bs c j s1 h hb hc hop hstore => ?_,
    fun c j result rel n bytes hchunk hj => piece_spec c result rel n bytes hchunk hj,
    fun s c j result dev x hx ha => countChunk_spec s result dev hx ha, fun s p tag c j h hc => ⟨fun hb => ?_, fun hb => ⟨?_, ?_⟩⟩,
    fun s p r hb => ⟨fun e he => ?_, fun he => ?_⟩, fun s i c t dev tag hc ht => ⟨fun a b hone => readyResend_ready hc ht hone,
    fun result o bs hone => readyResend_chunk hc ht hone⟩,
    fun s i c o core ins s1 hc ho hfault hop hred hcount hcore hins hstore => reducePanel_reduces hc ho hfault hop hred hcount hcore hins hstore,
    fun T xs hT _ _ _ hxs => reduceElem_sum hT hxs, fun s i c hc hi hfired hdone hwatch => collLate_fires hc hi hfired hdone hwatch,
    fun c self => firstLate_spec c self⟩
  · intro d rel y s2
    have hack : Acked s p (.fabricChunk p) ((if y.1 then s2.countChunk y.2 j result p.src.toNat else s2.setColl y.2).collCheck c.cause.toNat) :=
      chunk_acked h hb hc hop hstore
    exact ⟨fun hwhole => by rwa [if_pos hwhole] at hack, fun hpart => by rwa [if_neg (Bool.eq_false_iff.1 hpart)] at hack⟩
  · refine barrierPacket_acked h hc (departs := false) ?_
    change execFabricBarrierArrival p s = _
    rw [execFabricBarrierArrival, hb]
  · refine barrierPacket_acked h hc (departs := true) ?_
    change execDepartureReport p s = _
    rw [execDepartureReport, hb]
  · refine barrierPacket_acked h hc (departs := true) ?_
    change execFabricBarrierArrival p s = _
    rw [execFabricBarrierArrival, hb]
  · rw [exec_late hb, State.lateArrives, he]
  · rw [exec_late hb, State.lateArrives, he]

end Sys2Proof.Laws
end

section
/-! FCVT (R205, R212): a scalar, the part of a register that a widening conversion reads, or the part that another conversion writes. -/
namespace Sys2Proof.Laws
open Sys2Proof.Machine Sys2Proof.Safety

section
variable {f : Gen} {I : Iss} {lane ntens : Nat}

theorem needTensor_ok {tens : Nat} (h : tens < ntens) : needTensor ntens tens = .ok () := if_pos h

/-- The source type of FCVT. -/
def cvtFrom (f : Gen) : Tag := BitVec.ofNat 5 (bitsOf f.imm.toNat 4 0)

/-- FCVT of one element of its source. -/
def cvtElement (f : Gen) (I : Iss) (lane j : Nat) : Rnd :=
  cvtLane (cvtFrom f) (fpT f.mod) (fpRm f.mod) (element I lane f.sa (tagWidth (cvtFrom f)) j).toNat

theorem cvtElement_eq (f : Gen) (I : Iss) (lane j : Nat) : cvtLane (cvtFrom f) (fpT f.mod) (fpRm f.mod)
    (laneOf (tagWidth (cvtFrom f)) ((I.c.rd lane).vec f.sa).bits j) = cvtElement f I lane j := by rw [laneOf_eq]; rfl

theorem fcvtRes_scalar (hv : modV f.mod = false) (htens : bitsOf f.imm.toNat 27 16 < ntens) :
    let T := fpT f.mod
    let r := cvtLane (cvtFrom f) T (fpRm f.mod) (I.c.read lane f.sa).toNat
    fcvtRes f ntens (I.c.rd lane) = .ok
      { writes := [(f.dst, VReg.ofWord (extendTo (signedTag T) (tagWidth T) r.bits))], flags := r.flags
        counts := cntKeys (bitsOf f.imm.toNat 27 16) r.cnt } := by
  simp only [fcvtRes, hv, Bool.false_eq_true, if_false, needTensor_ok htens]
  rfl

variable (hv : modV f.mod = true) (htag : ((I.c.rd lane).vec f.sa).tag = cvtFrom f) (htens : bitsOf f.imm.toNat 27 16 < ntens)
include hv htag htens

/-- To a wider format, the elements of part P of the source become the whole result. -/
theorem fcvtRes_wider (hw : tagWidth (cvtFrom f) < tagWidth (fpT f.mod)) :
    let T := fpT f.mod
    let L := 512 / max (tagWidth (cvtFrom f)) (tagWidth T)
    let r (j : Nat) := cvtElement f I lane (bitsOf f.imm.toNat 10 8 * L + j)
    fcvtRes f ntens (I.c.rd lane) = .ok
      { writes := [(f.dst, typed T (fun j => BitVec.ofNat _ (r j).bits))], flags := allFlags L r
        counts := (List.range L).flatMap (fun j => cntKeys (bitsOf f.imm.toNat 27 16) (r j).cnt) } := by
  intro T L r
  have hL : L = 512 / tagWidth T := congrArg (512 / ·) (max_eq_right hw.le)
  have hbits : vecOfLanes (tagWidth T) ((List.range L).map (fun j => (r j).bits)) = vector (tagWidth T) (fun j => BitVec.ofNat _ (r j).bits) := by
    rw [hL]
    exact vecOfLanes_vector _ _ _ (fun _ _ => rfl)
  rw [typed, ← hbits, allFlags]
  simp only [r, ← cvtElement_eq]
  unfold fcvtRes
  unfold cvtFrom at htag hw ⊢
  simp only [hv, if_true, needTag_ok htag, needTensor_ok htens, hw, List.map_map, List.foldl_map, List.flatMap_map]
  rfl

/-- Else the elements of the source become part P of the result, and the rest of it stays. -/
theorem fcvtRes_part (hw : tagWidth (fpT f.mod) ≤ tagWidth (cvtFrom f)) :
    let T := fpT f.mod
    let L := 512 / max (tagWidth (cvtFrom f)) (tagWidth T)
    let P := bitsOf f.imm.toNat 10 8
    let r := cvtElement f I lane
    fcvtRes f ntens (I.c.rd lane) = .ok
      { writes := [(f.dst, typed T (fun j => if P * L ≤ j ∧ j < P * L + L then BitVec.ofNat _ (r (j - P * L)).bits
          else element I lane f.dst (tagWidth T) j))]
        flags := allFlags L r, counts := (List.range L).flatMap (fun j => cntKeys (bitsOf f.imm.toNat 27 16) (r j).cnt) } := by
  intro T L P r
  have hbits : vecOfLanes (tagWidth T) ((List.range (512 / tagWidth T)).map (fun j => if P * L ≤ j && decide (j < P * L + L)
        then (((List.range L).map r)[j - P * L]?).elim 0 (·.bits) else laneOf (tagWidth T) ((I.c.rd lane).vec f.dst).bits j)) =
      vector (tagWidth T) (fun j => if P * L ≤ j ∧ j < P * L + L then BitVec.ofNat _ (r (j - P * L)).bits
        else element I lane f.dst (tagWidth T) j) := by
    refine vecOfLanes_vector _ _ _ fun j _ => ?_
    simp only [Bool.and_eq_true, decide_eq_true_eq]
    split
    · next hj =>
      rw [List.getElem?_map, List.getElem?_range (by omega)]
      rfl
    · rw [laneOf_eq, BitVec.ofNat_toNat, BitVec.setWidth_eq]
      rfl
  rw [typed, ← hbits, allFlags]
  simp only [r, ← cvtElement_eq]
  unfold fcvtRes
  unfold cvtFrom at htag hw ⊢
  simp only [hv, if_true, needTag_ok htag, needTensor_ok htens, Nat.not_lt.2 hw, if_false, List.foldl_map, List.flatMap_map]
  rfl
end

/-- FCVT reads its destination where it narrows elements. -/
theorem exec_fcvt {f : Gen} {rmw : Bool} (h : (modV f.mod && decide (tagWidth (fpT f.mod) < tagWidth (cvtFrom f))) = rmw) (s : State) :
    exec (.fcvt f) s = runReg s (.fcvt f) rmw [] (fcvtRes f s.ntens) := by
  subst h
  rfl

/-- Settles O7: each running strand converts its scalar, or the elements of one part, and counts what R205 says. -/
theorem conversion : Obligations.Conversion := by
  intro f T S rm tens P L
  refine ⟨fun hv s I h htens hu => ?_, fun hv hw => ?_, fun hv hw => ?_⟩
  · exact form_counts h (exec_fcvt (by simp [hv]) s) (fun lane _ => fcvtRes_scalar hv htens) hu
  · rintro r s I h ⟨htag, htens⟩ hu
    exact form_counts h (exec_fcvt (by rw [hv]; exact decide_eq_false (lt_asymm hw)) s) (fun lane hl => fcvtRes_wider hv (htag lane hl) htens hw) hu
  · rintro r s I h ⟨htag, htens⟩ hu
    exact form_counts h (exec_fcvt (by rw [hv]; rfl) s) (fun lane hl => fcvtRes_part hv (htag lane hl) htens hw) hu

end Sys2Proof.Laws
end

section
/-! A vector form whose destination field names a register that the strands share (R141, R157, R219). -/
namespace Sys2Proof.Laws
open Sys2Proof.Machine Sys2Proof.Safety

/-- VSEL.INT32 k3, v2, v3, w1: no static check accepts it, since VSEL's destination is a v register, but an issue of it is not excluded. -/
def sharedSelect : Gen := ⟨⟨⟨false, 0⟩, 0x09, .k 3, .v 2, .v 3, .w 1, false⟩, 0, 0⟩

/-- A strand whose vector registers hold the INT32 elements x, 0, 0 and so on. -/
def elementStrand (x : Vec) : Strand := { Strand.start 0 0 with v := Vector.replicate 8 { bits := x, tag := 0x09, exps := 0 } }

/-- A course of two strands whose vectors differ. -/
def twoVectors : Course :=
  { twoLines with strands := (Vector.replicate 16 (Strand.start 0 0)).set 0 (elementStrand 1) |>.set 1 (elementStrand 2) }

/-- It is about to issue. -/
def twoVectorsLoaded : State := { twoLinesLoaded with courses := [(0, twoVectors)] }

def twoVectorsIssuer : Iss := { twoLinesIssuer with c := twoVectors, w := twoVectorsLoaded.courseWho 0 twoVectors }

theorem twoVectors_issues : Issues twoVectorsLoaded (.vsel sharedSelect) false [] twoVectorsIssuer where
  focus := rfl
  course := rfl
  live := rfl
  head := by decide
  who := rfl
  form := ⟨_, rfl, by decide, by decide, by decide⟩
  some := nofun
  leader := rfl
  faults := nofun

/-- k3 is held once per course, so two executing strands that have both taken their value have one value. -/
theorem wrote_k3_agree {I : Iss} {c : Course} {v : Nat → VReg} {g : Nat → Flags} (h : Wrote I c (.k 3) v g) {i j : Nat} (hi : i ∈ I.lanes)
    (hj : j ∈ I.lanes) (hi16 : i < 16) (hj16 : j < 16) :
    VReg.ofWord ((v (sourceOf I i)).bits.setWidth 64) = VReg.ofWord ((v (sourceOf I j)).bits.setWidth 64) := by
  have hki := h.regs i hi16 (.k 3)
  have hkj := h.regs j hj16 (.k 3)
  rw [if_pos ⟨rfl, .inl hi⟩, if_pos hi] at hki
  rw [if_pos ⟨rfl, .inl hj⟩, if_pos hj] at hkj
  exact hki.symm.trans hkj

/-- Refutes O8: the clauses for VPRM and VSEL do not ask, as the others do, that a destination which strands share gets one value, and no
hypothesis makes the instruction well-formed. VSEL with k3 for its destination selects 1 in one strand and 2 in the other, and k3 cannot hold
both; by R141 and R157 the instruction raises UNIFORM. The counterexample needs such a destination, which check 8 of R116 refuses in a slot. -/
theorem not_vectorElements : ¬ Obligations.VectorElements := by
  unfold Obligations.VectorElements
  rintro ⟨-, -, hsel⟩
  obtain ⟨t, c, e, -, -, -, hwrote, -⟩ := hsel sharedSelect twoVectorsLoaded twoVectorsIssuer twoVectors_issues
    ⟨by unfold tagged; decide, by unfold tagged; decide⟩
  have hagree := wrote_k3_agree hwrote (i := 0) (j := 1) (by decide) (by decide) (by decide) (by decide)
  dsimp only at hagree
  exact absurd hagree (by decide +kernel)

end Sys2Proof.Laws
end

section
/-! Balanced digits in a radix 2^g (R229): how many, how large, and that they are the number's. -/
namespace Sys2Proof.Laws
open Sys2Proof.Machine

section
variable {g n : Nat} {X : Int}

theorem toNat_ofInt_wrap (v : Int) (n : Nat) : (BitVec.ofInt n v).toNat = wrapInt v n := BitVec.toNat_ofInt ..

/-- The lowest balanced digit. -/
theorem digit_eq (g : Nat) (X : Int) : signExt (wrapInt X g) g = X.bmod (2 ^ g) := by
  rw [← toNat_ofInt_wrap, signExt_toNat, BitVec.toInt_ofInt]

theorem digitsAll_succ (g n : Nat) (X : Int) :
    digitsAll g (n + 1) X = X.bmod (2 ^ g) :: digitsAll g n ((X - X.bmod (2 ^ g)) / 2 ^ g) := by rw [digitsAll, digit_eq]

theorem digitsAll_length (g n : Nat) (X : Int) : (digitsAll g n X).length = n := by
  induction n generalizing X with
  | zero => rfl
  | succ n ih => rw [digitsAll_succ, List.length_cons, ih]

theorem digitsAll_bound {d : Int} (hd : d ∈ digitsAll g n X) : -(2 ^ (g - 1)) ≤ d ∧ d < 2 ^ (g - 1) := by
  induction n generalizing X with
  | zero => cases hd
  | succ n ih =>
    rw [digitsAll_succ, List.mem_cons] at hd
    rcases hd with rfl | hd
    · rw [← BitVec.toInt_ofInt]
      exact ⟨BitVec.le_toInt _, BitVec.toInt_lt⟩
    · exact ih hd

/-- What n digits are worth, each at its own power of the radix. -/
def digitsValue (g : Nat) (l : List Int) : Int := (l.zipIdx.map (fun x => x.1 * 2 ^ (g * x.2))).sum

theorem digitsValue_cons (g : Nat) (d : Int) (l : List Int) : digitsValue g (d :: l) = d + 2 ^ g * digitsValue g l := by
  have hpow (x : Int × Nat) : x.1 * 2 ^ (g * (x.2 + 1)) = 2 ^ g * (x.1 * 2 ^ (g * x.2)) := by ring
  simp only [digitsValue, List.zipIdx_cons, List.map_cons, List.sum_cons, List.zipIdx_succ (i := 0), List.map_map, Function.comp_def, hpow,
    List.sum_map_mul_left, Nat.mul_zero, pow_zero, mul_one]

/-- The digits taken are the number's, modulo the radix to their count. -/
theorem digitsAll_value (g n : Nat) (X : Int) : (2 ^ (g * n) : Int) ∣ X - digitsValue g (digitsAll g n X) := by
  induction n generalizing X with
  | zero => simp
  | succ n ih =>
    have hdvd : (2 ^ g : Int) ∣ X - X.bmod (2 ^ g) := by exact_mod_cast Int.dvd_self_sub_bmod (x := X) (m := 2 ^ g)
    have hX : X - digitsValue g (digitsAll g (n + 1) X) = 2 ^ g * ((X - X.bmod (2 ^ g)) / 2 ^ g -
        digitsValue g (digitsAll g n ((X - X.bmod (2 ^ g)) / 2 ^ g))) := by
      rw [digitsAll_succ, digitsValue_cons, mul_sub, Int.mul_ediv_cancel' hdvd, sub_sub]
    rw [hX, Nat.mul_succ, Nat.add_comm, pow_add]
    exact mul_dvd_mul_left _ (ih _)
end

end Sys2Proof.Laws
end

section
/-! Packed vectors (R226 to R229): VPACK's sum, VPMUL's product in two registers, and VUNPK's digits, each held to its headroom. -/
namespace Sys2Proof.Laws
open Sys2Proof.Machine Sys2Proof.Safety

/-! ## VPACK (R227) -/

theorem signed_laneOf (T : Tag) (I : Iss) (lane : Nat) (r : Reg) (j : Nat) :
    (if signedTag T then signExt (laneOf (tagWidth T) ((I.c.rd lane).vec r).bits j) (tagWidth T)
      else (laneOf (tagWidth T) ((I.c.rd lane).vec r).bits j : Int)) = elementInt T (element I lane r (tagWidth T) j) := by
  rw [laneOf_eq, signExt_toNat]
  rfl

theorem foldl_add_eq_sum (a : Nat → Int) (l : List Nat) : l.foldl (fun p i => p + a i) 0 = (l.map a).sum := by
  rw [List.sum_eq_foldl, List.foldl_map]

theorem vpack_yields (f : Gen) : let T := fpT f.mod
    let N := bitsOf f.imm.toNat 7 0
    let S := bitsOf f.imm.toNat 15 8
    Yields (.vpack f) false [] (fun _ I => tagged I f.sa T) f.dst (fun _ I lane =>
      { bits := BitVec.ofInt 512 ((List.range N).map (fun i =>
          elementInt T (element I lane f.sa (tagWidth T) (if modI5 f.mod then S + N - 1 - i else S + i)) * 2 ^ (packG f * i))).sum
        tag := packedTag, exps := 0 }) := by
  intro T N S s I h htag hu
  refine form_flags h (Eq.refl (execVpack f s)) (fun lane hl => ?_) hu
  have hneed : needTag (I.c.rd lane) (fpT f.mod) f.sa = .ok () := needTag_ok (htag lane hl)
  simp only [hneed, signed_laneOf, foldl_add_eq_sum, ofNat_wrapInt]
  rfl

/-! ## Two registers of every strand (R228) -/

section
variable {l : List Nat} {c : Course}

theorem modSt_comm (c : Course) {i j : Nat} (hij : i ≠ j) (p q : Strand → Strand) : (c.modSt i p).modSt j q = (c.modSt j q).modSt i p := by
  have hother (k m : Nat) (hkm : k ≠ m) (x : Strand) : (c.setSt k x).st m = c.st m := by
    unfold Course.st Course.setSt
    rw [Vector.getElem?_setIfInBounds_ne hkm]
  have hset (v : Vector Strand 16) (x y : Strand) : (v.setIfInBounds i x).setIfInBounds j y = (v.setIfInBounds j y).setIfInBounds i x := by
    ext k hk
    simp only [Vector.getElem_setIfInBounds]
    rcases eq_or_ne j k with rfl | hjk
    · rw [if_pos rfl, if_neg hij, if_pos rfl]
    · rw [if_neg hjk, if_neg hjk]
  unfold Course.modSt
  rw [hother i j hij, hother j i hij.symm]
  exact congrArg (fun v => { c with strands := v }) (hset c.strands _ _)

theorem foldl_modSt_comm {i : Nat} (hi : i ∉ l) (p : Nat → Strand → Strand) (q : Strand → Strand) :
    l.foldl (fun c j => c.modSt j (p j)) (c.modSt i q) = (l.foldl (fun c j => c.modSt j (p j)) c).modSt i q := by
  induction l generalizing c with
  | nil => rfl
  | cons j l ih =>
    obtain ⟨hij, hi⟩ := not_or.1 (mt List.mem_cons.2 hi)
    rw [List.foldl_cons, modSt_comm c hij, ih hi, List.foldl_cons]

/-- Two changes of each strand may be made one after the other over all strands. -/
theorem foldl_modSt_pair (hl : l.Nodup) (p q : Nat → Strand → Strand) :
    l.foldl (fun c j => (c.modSt j (p j)).modSt j (q j)) c = l.foldl (fun c j => c.modSt j (q j)) (l.foldl (fun c j => c.modSt j (p j)) c) := by
  induction l generalizing c with
  | nil => rfl
  | cons i l ih =>
    obtain ⟨hi, hl⟩ := List.nodup_cons.1 hl
    rw [List.foldl_cons, ih hl, List.foldl_cons, List.foldl_cons, foldl_modSt_comm hi]
end

section
variable {s u : State} {I : Iss} {i : Instr} {rmw : Bool} {req : List Reg} {x : Nat → Res} {c : Course}

/-- No value is compared across strands where no strand writes a register that they share (R141). -/
theorem sharedDiffer_unshared {rs : List (Nat × Res)} (h : ∀ y ∈ rs, ∀ w ∈ y.2.writes, Reg.shared w.1 = false) : sharedDiffer rs = none := by
  cases rs with
  | nil => rfl
  | cons y rs =>
    refine List.findSome?_eq_none_iff.2 fun w hw => ?_
    simp only [h y List.mem_cons_self w hw, Bool.not_false, if_true]

/-- What the strands of an instruction store that write no shared register and count nothing. -/
theorem store_unshared (hc : u.course? I.core I.slot = some c)
    (hx : ∀ j ∈ I.runs, (∀ w ∈ (x j).writes, Reg.shared w.1 = false) ∧ (x j).counts = []) :
    I.store u (I.runs.map (fun j => (j, x j))) = .ok (u.setCourse I.core I.slot (I.lanes.foldl (fun c j => c.apply j (x (sourceOf I j))) c)) := by
  have hagree : sharedDiffer (I.runs.map (fun j => (j, x j))) = none := by
    refine sharedDiffer_unshared fun y hy => ?_
    obtain ⟨j, hj, rfl⟩ := List.mem_map.1 hy
    exact (hx j hj).1
  have hcount : (I.runs.map (fun j => (j, x j))).flatMap (fun y => y.2.counts) = [] := by
    rw [List.flatMap_map, List.flatMap_eq_nil_iff]
    exact fun j hj => (hx j hj).2
  have hnone (t : State) (l : Option Nat) : t.countStats l [] = t := by cases l <;> rfl
  have hmod (p : Course → Course) : u.modCourse I.core I.slot p = u.setCourse I.core I.slot (p c) := by
    rw [State.modCourse, kmod_of_kget (show kget u.courses (courseKey I.core I.slot) = some c from hc)]
    rfl
  unfold Iss.store
  simp only [hagree, ite_self, hcount, hnone, hmod]
  cases hU : I.uni with
  | true => simp only [Iss.runs, sourceOf, hU, if_true, List.map_cons, List.map_nil]
  | false => simp only [Iss.runs, sourceOf, hU, Bool.false_eq_true, if_false, List.foldl_map]

/-- A register instruction whose strands store completes with the registers they leave. -/
theorem runLanes_stores {folds : List (Reg ⊕ Word)} {f : Nat → Rd → Except Stop Res} (h : Issues s i rmw req I)
    (hf : ∀ j ∈ I.runs, f j (I.c.rd j) = .ok (x j))
    (hstore : I.store (passed s I) (I.runs.map (fun j => (j, x j))) = .ok ((passed s I).setCourse I.core I.slot c))
    (hrest : { c with kreg := I.c.kreg, strands := I.c.strands } = passedCourse I.c) :
    ∃ t c', runLanes s i rmw folds f req = .next t ∧ Moves s t I c' (fun _ => pcNext I.E.pc) ∧ (c'.kreg = c.kreg ∧ c'.strands = c.strands) ∧
      Quiet s t := by
  let e : Eff := { s := (passed s I).setCourse I.core I.slot c, folds := I.foldVals folds }
  have hrun : runLanes s i rmw folds f req = .next (State.complete I e) := by
    unfold runLanes
    refine runCourse_ok h (s2 := passed s I) ?_
    simp only [each_ok hf, hstore]
    rfl
  obtain ⟨c', hmoves, hkreg, hstrands, hcomplete⟩ := complete_moves (s := s) (I := I) (e := e) (c := c)
    (fun k hk => (kget_kset_ne hk _).trans (passed_others s I hk)) (course?_setCourse ..) h.course h.live hrest (passed_faults h)
    rfl rfl rfl rfl rfl
  refine ⟨_, c', hrun, hmoves, ⟨hkreg, hstrands⟩, ?_⟩
  rw [hcomplete]
  exact passed_quiet s I

/-- An instruction whose running strands each write two vector registers completes, and the registers read as if the one had been written
everywhere before the other. -/
theorem runLanes_pair {folds : List (Reg ⊕ Word)} {f : Nat → Rd → Except Stop Res} {a b : Fin 8} {v w : Nat → VReg} (h : Issues s i rmw req I)
    (hf : ∀ j ∈ I.runs, f j (I.c.rd j) = .ok { writes := [(.v a, v j), (.v b, w j)] }) :
    ∃ t c1 c, runLanes s i rmw folds f req = .next t ∧ Moves s t I c (fun _ => pcNext I.E.pc) ∧ Wrote I c1 (.v a) v ∧
      Wrote { I with c := c1 } c (.v b) w ∧ Quiet s t := by
  obtain ⟨hlt, hnodup, -⟩ := lanes_lt h
  let one (r : Reg) (v : Nat → VReg) (j : Nat) : Res := { writes := [(r, v (sourceOf I j))] }
  let all (r : Reg) (v : Nat → VReg) (c : Course) : Course := I.lanes.foldl (fun c j => c.apply j (one r v j)) c
  have hstored (r : Fin 8) (v : Nat → VReg) (c : Course) : Stored c (all (.v r) v c) I.lanes (.v r) (fun j => v (sourceOf I j)) (v I.leader)
      (fun _ => 0) :=
    foldl_stored I.lanes c (.v r) _ _ _ (one (.v r) v) hlt hnodup (fun _ _ => ⟨rfl, rfl⟩) nofun
  have hpair : I.lanes.foldl (fun c j => c.apply j { writes := [(.v a, v (sourceOf I j)), (.v b, w (sourceOf I j))] }) (passedCourse I.c) =
      all (.v b) w (all (.v a) v (passedCourse I.c)) :=
    foldl_modSt_pair hnodup (fun j => (·.setV a.val (v (sourceOf I j)))) (fun j => (·.setV b.val (w (sourceOf I j))))
  have hstore := store_unshared (passed_course h.course) (x := fun j => { writes := [(.v a, v j), (.v b, w j)] })
    (fun _ _ => ⟨by simp [Reg.shared], rfl⟩)
  rw [hpair] at hstore
  have h1 := hstored a v (passedCourse I.c)
  have h2 := hstored b w (all (.v a) v (passedCourse I.c))
  have hrest := (congrArg (fun d : Course => { d with kreg := I.c.kreg, strands := I.c.strands }) h2.course).trans h1.course
  obtain ⟨t, c, hrun, hmoves, hregs, hquiet⟩ := runLanes_stores (folds := folds) h hf hstore hrest
  exact ⟨t, all (.v a) v (passedCourse I.c), c, hrun, hmoves,
    stored_wrote (c0 := passedCourse I.c) (g := fun _ => 0) ⟨rfl, rfl⟩ ⟨rfl, rfl⟩ h.some h1,
    stored_wrote (I := { I with c := all (.v a) v (passedCourse I.c) }) (g := fun _ => 0) ⟨rfl, rfl⟩ hregs h.some h2, hquiet⟩
end

/-! ## VPMUL (R228) -/

theorem mul_signExtend {W : Nat} (x y : BitVec W) (n : Nat) : x.signExtend n * y.signExtend n = BitVec.ofInt n (x.toInt * y.toInt) := by
  rw [BitVec.ofInt_mul]
  rfl

/-- The exact product's low and high halves, by numbers and on bit vectors. -/
theorem product_halves {W : Nat} (x y : BitVec W) (n : Nat) :
    let p := wrapInt (signExt x.toNat W * signExt y.toNat W) n
    BitVec.ofNat W p = (x.signExtend n * y.signExtend n).setWidth W ∧
      BitVec.ofNat W (p / 2 ^ W) = ((x.signExtend n * y.signExtend n) >>> W).setWidth W := by
  intro p
  have hp : p = (x.signExtend n * y.signExtend n).toNat := by
    rw [mul_signExtend, toNat_ofInt_wrap]
    unfold p
    rw [signExt_toNat, signExt_toNat]
  rw [hp]
  exact ⟨BitVec.ofNat_toNat .., BitVec.eq_of_toNat_eq (by simp [Nat.shiftRight_eq_div_pow])⟩

/-- The pair of registers of an even one. -/
theorem evenV_pair {r : Reg} (h : evenV r = true) : ∃ i j : Fin 8, r = .v i ∧ nextV (.v i) = .v j := by
  cases r with
  | v i => exact ⟨i, _, rfl, rfl⟩
  | _ => cases h

theorem vpmul_writes {s : State} {I : Iss} {f : Gen} (h : Issues s (.vpmul f) false [] I) (ha : tagged I f.sa packedTag)
    (hb : tagged I f.sb packedTag) (heven : evenV f.dst = true) :
    let p (lane : Nat) : BitVec 1024 :=
      ((I.c.rd lane).vec f.sa).bits.signExtend 1024 * ((I.c.rd lane).vec f.sb).bits.signExtend 1024
    ∃ t c1 c, exec (.vpmul f) s = .next t ∧ Moves s t I c (fun _ => pcNext I.E.pc) ∧
      Wrote I c1 f.dst (fun lane => { bits := (p lane).setWidth 512, tag := packedTag, exps := 0 }) ∧
      Wrote { I with c := c1 } c (nextV f.dst) (fun lane => { bits := (p lane >>> 512).setWidth 512, tag := packedTag, exps := 0 }) ∧
      Quiet s t := by
  intro p
  obtain ⟨i, j, hdst, hnext⟩ := evenV_pair heven
  rw [hdst, hnext]
  change ∃ t c1 c, execVpmul f s = .next t ∧ _
  unfold execVpmul runReg
  refine runLanes_pair h fun lane hl => ?_
  have htags : needTags (I.c.rd lane) [(packedTag, f.sa), (packedTag, f.sb)] = .ok () :=
    needTags_ok (l := [f.sa, f.sb]) (by simp [ha lane hl, hb lane hl])
  obtain ⟨hlow, hhigh⟩ := product_halves ((I.c.rd lane).vec f.sa).bits ((I.c.rd lane).vec f.sb).bits 1024
  simp only [htags, hlow, hhigh, hdst, hnext]
  rfl

/-! ## VUNPK (R229) -/

theorem tagWidth_divides : ∀ T : Tag, tagWidth T = 0 ∨ 0 < tagWidth T ∧ tagWidth T ∣ 512 := by decide

/-- A vector from any number of elements: those beyond its own drop out, and those it lacks are 0. -/
theorem vecOfLanes_any (T : Tag) (l : List Nat) :
    vecOfLanes (tagWidth T) l = vector (tagWidth T) (fun j => BitVec.ofNat _ ((l[j]?).getD 0)) := by
  rcases tagWidth_divides T with hw | ⟨hw, hdvd⟩
  · have hzero : packLanes 0 l = 0 := by
      induction l with
      | nil => rfl
      | cons v l ih => simp [packLanes, ih, Nat.mod_one]
    simp [hw, vecOfLanes, vector, hzero]
  · refine BitVec.eq_of_getLsbD_eq fun i hi => ?_
    rw [getLsbD_vector hw _ hi hdvd, vecOfLanes, BitVec.getLsbD_ofNat, testBit_packLanes hw, BitVec.getLsbD_ofNat, decide_eq_true hi,
      decide_eq_true (Nat.mod_lt i hw)]

section
variable {f : Gen} {I : Iss} {lane : Nat}

/-- The digits that VUNPK takes must stand from -reach to reach - 1. -/
def unpackReach (f : Gen) : Int := 2 ^ (packG f - bitsOf f.imm.toNat 23 20 - 1)

/-- The number that VUNPK takes apart, of one register or of a pair. -/
def unpackSource (f : Gen) (I : Iss) (lane : Nat) : Int :=
  if f.mod.getLsbD 6 then (((I.c.rd lane).vec (nextV f.sa)).bits ++ ((I.c.rd lane).vec f.sa).bits : BitVec 1024).toInt
  else ((I.c.rd lane).vec f.sa).bits.toInt

def unpackDigits (f : Gen) (I : Iss) (lane : Nat) : List Int :=
  digitsFrom (packG f) (bitsOf f.imm.toNat 15 8) (bitsOf f.imm.toNat 7 0) (unpackSource f I lane)

/-- Some digit does not fit. -/
def unpackBad (f : Gen) (I : Iss) (lane : Nat) : Bool :=
  (unpackDigits f I lane).any (fun d => decide (d < -unpackReach f) || decide (unpackReach f - 1 < d))

theorem unpackBad_iff : unpackBad f I lane = true ↔ ∃ d ∈ unpackDigits f I lane, d < -unpackReach f ∨ unpackReach f ≤ d := by
  simp only [unpackBad, List.any_eq_true, Bool.or_eq_true, decide_eq_true_eq, Int.sub_one_lt_iff]

/-- A pair of registers read as one number. -/
theorem signExt_pair {W : Nat} (lo hi : BitVec W) : signExt (lo.toNat + hi.toNat * 2 ^ W) (W + W) = (hi ++ lo).toInt := by
  have hnat : lo.toNat + hi.toNat * 2 ^ W = (hi ++ lo).toNat := by
    rw [BitVec.toNat_append, Nat.shiftLeft_eq, Nat.mul_comm, ← Nat.two_pow_add_eq_or_of_lt lo.isLt, Nat.add_comm]
  rw [hnat, signExt_toNat]

theorem unpackSource_eq (f : Gen) (I : Iss) (lane : Nat) :
    (if f.mod.getLsbD 6 then signExt (((I.c.rd lane).vec f.sa).bits.toNat + ((I.c.rd lane).vec (nextV f.sa)).bits.toNat * 2 ^ 512) 1024
      else signExt ((I.c.rd lane).vec f.sa).bits.toNat 512) = unpackSource f I lane :=
  if_congr Iff.rfl (signExt_pair ..) (signExt_toNat _)

/-- The mask that VUNPK gathers is 0 where no digit fails. -/
theorem failing_digits_zero (bad : Int → Bool) (l : List Int) (k m : Nat) :
    (l.zipIdx k).foldl (fun m x => if bad x.1 then m + 2 ^ x.2 else m) m = 0 ↔ m = 0 ∧ l.any bad = false := by
  induction l generalizing k m with
  | nil => simp
  | cons d l ih =>
    rw [List.zipIdx_cons, List.foldl_cons, ih, List.any_cons]
    cases bad d <;> simp

/-- A digit held to what fits. -/
def heldDigit (f : Gen) (d : Int) : Int := max (-unpackReach f) (min (unpackReach f - 1) d)

theorem heldDigit_zero (f : Gen) : heldDigit f 0 = 0 := by
  have hpos : 0 < unpackReach f := by unfold unpackReach; positivity
  unfold heldDigit
  omega

/-- VUNPK's result, from however many digits it takes. -/
theorem unpackBits_eq (f : Gen) (I : Iss) (lane : Nat) :
    vecOfLanes (tagWidth (fpT f.mod)) ((unpackDigits f I lane).map (fun d => wrapInt (heldDigit f d) (tagWidth (fpT f.mod)))) =
      vector (tagWidth (fpT f.mod)) (fun j => BitVec.ofInt _ (heldDigit f (((unpackDigits f I lane)[j]?).getD 0))) := by
  rw [vecOfLanes_any]
  congr 1
  funext j
  rw [List.getElem?_map]
  cases (unpackDigits f I lane)[j]? with
  | none => simp [heldDigit_zero]
  | some d => exact ofNat_wrapInt ..

theorem unpackMask_bad (f : Gen) (I : Iss) (lane : Nat) :
    ((unpackDigits f I lane).zipIdx.foldl (fun m x =>
      if decide (x.1 < -unpackReach f) || decide (unpackReach f - 1 < x.1) then m + 2 ^ x.2 else m) 0 != 0) = unpackBad f I lane := by
  rw [Bool.eq_iff_iff, bne_iff_ne, Ne, failing_digits_zero (fun d => decide (d < -unpackReach f) || decide (unpackReach f - 1 < d))]
  simp only [true_and, Bool.not_eq_false]
  rfl

/-- The tags of VUNPK's sources (R200). -/
theorem unpack_needTags (ha : ((I.c.rd lane).vec f.sa).tag = packedTag)
    (hb : f.mod.getLsbD 6 = true → ((I.c.rd lane).vec (nextV f.sa)).tag = packedTag) :
    needTags (I.c.rd lane) ((packedTag, f.sa) :: (if f.mod.getLsbD 6 then [(packedTag, nextV f.sa)] else [])) = .ok () := by
  cases hp : f.mod.getLsbD 6 with
  | true => exact needTags_ok (l := [f.sa, nextV f.sa]) (by simp [ha, hb hp])
  | false => exact needTags_ok (l := [f.sa]) (by simp [ha])

/-- VUNPK on one strand whose sources are packed: GUARD where a digit fails and is not clamped, else the digits held to what fits. -/
theorem vunpkRes_eq (ha : ((I.c.rd lane).vec f.sa).tag = packedTag)
    (hb : f.mod.getLsbD 6 = true → ((I.c.rd lane).vec (nextV f.sa)).tag = packedTag) :
    ∃ tval, vunpkRes f (I.c.rd lane) = if unpackBad f I lane && !modI5 f.mod then .error (.trap { cause := Cause.guard, detail := 0, tval })
      else .ok { writes := [(f.dst, typed (fpT f.mod) (fun j => BitVec.ofInt _ (heldDigit f (((unpackDigits f I lane)[j]?).getD 0))))] } := by
  unfold vunpkRes
  simp only [unpack_needTags ha hb, unpackSource_eq]
  refine ⟨_, ite_congr (congrArg (fun b => (b && !modI5 f.mod) = true) (unpackMask_bad f I lane)) (fun _ => rfl) (fun _ => ?_)⟩
  rw [typed, ← unpackBits_eq]
  rfl

/-- The sources of a running strand of VUNPK are packed. -/
def UnpackTags (f : Gen) (I : Iss) : Prop := tagged I f.sa packedTag ∧ (f.mod.getLsbD 6 = true → tagged I (nextV f.sa) packedTag)

variable {s : State}

theorem vunpk_yields (h : Issues s (.vunpk f) false (if f.u && f.mod.getLsbD 6 then [nextV f.sa] else []) I) (htags : UnpackTags f I)
    (hfit : modI5 f.mod = true ∨ ∀ lane ∈ I.runs, ∀ x ∈ unpackDigits f I lane, -unpackReach f ≤ x ∧ x < unpackReach f) {v : Nat → VReg}
    (hv : ∀ lane, v lane = typed (fpT f.mod) (fun j => BitVec.ofInt _ (heldDigit f (((unpackDigits f I lane)[j]?).getD 0))))
    (hu : OneValue I f.dst v) :
    ∃ t c, exec (.vunpk f) s = .next t ∧ Moves s t I c (fun _ => pcNext I.E.pc) ∧ Wrote I c f.dst v ∧ Quiet s t := by
  refine runLanes_quiet (x := fun lane => { writes := [(f.dst, v lane)] }) h (fun lane hl => ?_) (fun _ _ => ⟨rfl, rfl, rfl⟩) hu
  obtain ⟨tval, hres⟩ := vunpkRes_eq (htags.1 lane hl) (fun hp => htags.2 hp lane hl)
  have hgood : ¬ (unpackBad f I lane && !modI5 f.mod) = true := by
    rw [Bool.and_eq_true, unpackBad_iff]
    rintro ⟨⟨x, hx, hout⟩, hsat⟩
    have hin := hfit.resolve_left (by simpa using hsat) lane hl x hx
    omega
  rw [hres, if_neg hgood, hv]

theorem vunpk_traps (h : Issues s (.vunpk f) false (if f.u && f.mod.getLsbD 6 then [nextV f.sa] else []) I) (htags : UnpackTags f I)
    (hsat : modI5 f.mod = false) (hbad : ∃ lane ∈ I.runs, unpackBad f I lane = true) :
    ∃ t m, Traps s (.vunpk f) I t m ∧ t.cause = Cause.guard ∧ t.detail = 0 ∧
      ∀ lane < 16, m.getLsbD lane = true ↔ lane ∈ I.lanes ∧ unpackBad f I (sourceOf I lane) = true := by
  obtain ⟨hlt, -, -⟩ := lanes_lt h
  have hres (lane : Nat) (hl : lane ∈ I.runs) := vunpkRes_eq (htags.1 lane hl) (fun hp => htags.2 hp lane hl)
  choose! tval hres using hres
  simp only [hsat, Bool.not_false, Bool.and_true] at hres
  obtain ⟨lane, hlane, hbad⟩ := hbad
  obtain ⟨j, hj, rfl⟩ := sourceOf_runs hlane h.some
  obtain ⟨k, l, hk⟩ := List.exists_cons_of_ne_nil
    (List.ne_nil_of_mem (List.mem_filter (p := fun j => unpackBad f I (sourceOf I j)).2 ⟨hj, hbad⟩))
  have heach := each_traps_lowest (f := fun lane => vunpkRes f (I.c.rd lane)) (bad := unpackBad f I)
    (t := fun lane => { cause := Cause.guard, detail := 0, tval := tval lane }) (cause := Cause.guard) (detail := 0)
    (fun lane hl hb => ⟨by rw [hres lane hl, if_pos hb], rfl, rfl⟩)
    (fun lane hl hb => ⟨_, by rw [hres lane hl, if_neg (by simp [hb])]⟩) hk
  refine ⟨_, _, runLanes_traps h heach (show Cause.guard ≠ Cause.illegal by decide), rfl, rfl, fun m hm => ?_⟩
  rw [← hk, maskOf_bit _ (fun j hj => hlt j (List.mem_of_mem_filter hj)) m hm, decide_eq_true_eq, List.mem_filter]
end

/-- Settles O11: VPACK's fold is the sum, VPMUL's number the product of the two vectors, VUNPK's strands hold their digits or trap, and balanced
digits are the number's. -/
theorem packedPolynomials : Obligations.PackedPolynomials := by
  refine ⟨vpack_yields, fun f s I h ha hb heven => vpmul_writes h ha hb heven, fun f => ?_, fun g n X _ => ?_⟩
  · intro T pair reach X d req tags
    refine ⟨fun s I h ⟨htags, hfit⟩ hu => vunpk_yields h htags hfit (fun _ => rfl) hu, fun s I h htags hsat hbad => ?_⟩
    have hiff (lane : Nat) : unpackBad f I lane = true ↔ ∃ x ∈ d I lane, x < -reach ∨ reach ≤ x := unpackBad_iff
    simp only [← hiff] at hbad ⊢
    exact vunpk_traps h htags hsat hbad
  · have hfrom : digitsFrom g 0 n X = digitsAll g n X := by rw [digitsFrom, Nat.zero_add, List.drop_zero]
    rw [hfrom]
    exact ⟨digitsAll_length g n X, fun d hd => digitsAll_bound hd, digitsAll_value g n X⟩

end Sys2Proof.Laws
end

section
/-! Bytes stored along a route (R244, R253, R255, R276): each at its home, in order, where no log takes part. -/
namespace Sys2Proof.Laws
open Sys2Proof.Machine Sys2Proof.Safety

/-! ## What a list of homes leaves of one byte -/

/-- What the byte at `x` becomes when the homes of a list take theirs, the first of which has number `k`. -/
def byteAfter (ys : List Loc) (w : Nat → Byte → Byte) (k : Nat) (x : Loc) (b : Byte) : Byte :=
  (ys.zipIdx k).foldl (fun b (y, j) => if y = x then w j b else b) b

theorem byteAfter_cons (y : Loc) (ys : List Loc) (w : Nat → Byte → Byte) (k : Nat) (x : Loc) (b : Byte) :
    byteAfter (y :: ys) w k x b = byteAfter ys w (k + 1) x (if y = x then w k b else b) := rfl

theorem byteAfter_shift (ys : List Loc) (w : Nat → Byte → Byte) (k : Nat) (x : Loc) (b : Byte) :
    byteAfter ys (fun j => w (j + 1)) k x b = byteAfter ys w (k + 1) x b := by
  induction ys generalizing k b with
  | nil => rfl
  | cons y ys ih => rw [byteAfter_cons, byteAfter_cons, ih]

/-- Among homes in a row, that of `x` takes the byte of its number. -/
theorem byteAfter_row (l : Loc) (n : Nat) (w : Nat → Byte → Byte) (x : Loc) (b : Byte) :
    byteAfter ((List.range n).map l.plus) w 0 x b =
      if x.store = l.store ∧ l.addr ≤ x.addr ∧ x.addr < l.addr + n then w (x.addr - l.addr) b else b := by
  induction n with
  | zero =>
    rw [if_neg]
    · rfl
    · rintro ⟨-, hlow, hhigh⟩
      omega
  | succ n ih =>
    unfold byteAfter at ih ⊢
    rw [List.range_succ, List.map_append, List.zipIdx_append, List.foldl_append, ih]
    simp only [List.map_cons, List.map_nil, List.zipIdx_cons, List.zipIdx_nil, List.foldl_cons, List.foldl_nil, List.length_map,
      List.length_range, Nat.zero_add]
    obtain ⟨st, a⟩ := x
    by_cases hst : st = l.store
    · by_cases hlast : a = l.addr + n
      · subst hst hlast
        simp [Loc.plus]
      · have hne : ¬ l.plus n = ⟨st, a⟩ := by simp [Loc.plus, Ne.symm hlast]
        rw [if_neg hne]
        exact ite_congr (propext ⟨fun ⟨h, hlow, hhigh⟩ => ⟨h, hlow, by omega⟩, fun ⟨h, hlow, hhigh⟩ => ⟨h, hlow, by dsimp only at hhigh ⊢; omega⟩⟩)
          (fun _ => rfl) (fun _ => rfl)
    · have hne : ¬ l.plus n = ⟨st, a⟩ := by simp [Loc.plus, Ne.symm hst]
      rw [if_neg hne, if_neg (fun h => hst h.1), if_neg (fun h => hst h.1)]

/-! ## Stores one after another -/

section
variable {s t u : State} {l m : List (List Loc × (Nat → Byte → Byte))}

theorem storedBytes_nil (s : State) : StoredBytes s s [] := ⟨fun _ => rfl, rfl, rfl⟩

theorem storedBytes_append (h : StoredBytes s t l) (k : StoredBytes t u m) : StoredBytes s u (l ++ m) where
  bytes x := by rw [k.bytes, h.bytes, List.foldl_append]
  absent := k.absent.trans h.absent
  rest := by
    have hrest := h.rest
    rw [← k.rest] at hrest
    exact hrest

/-- One home after another takes its byte. -/
theorem storedBytes_cons {y : Loc} {ys : List Loc} {w : Nat → Byte → Byte} (h : StoredBytes s t [([y], w)])
    (k : StoredBytes t u [(ys, fun j => w (j + 1))]) : StoredBytes s u [(y :: ys, w)] where
  bytes x := by
    refine (k.bytes x).trans ?_
    rw [h.bytes x]
    exact byteAfter_shift ys w 0 x _
  absent := k.absent.trans h.absent
  rest := (storedBytes_append h k).rest

/-- A course's one-time passes are all that their use changes. -/
theorem passed_eq (s : State) (I : Iss) : ∃ m, passed s I = { s with courses := m } :=
  ⟨(passed s I).courses, by unfold passed; split <;> rfl⟩

theorem storedBytes_of_passed {I : Iss} (h : StoredBytes (passed s I) t l) : StoredBytes s { t with courses := s.courses } l := by
  obtain ⟨m, hm⟩ := passed_eq s I
  rw [hm] at h
  exact ⟨h.bytes, h.absent, (congrArg (fun u : State => { u with courses := s.courses }) h.rest :)⟩

/-- A store at a home whose byte-by-byte effect is known. -/
theorem poke_storedBytes (s : State) (y : Loc) (bs : List Byte) {ys : List Loc} {w : Nat → Byte → Byte}
    (h : ∀ x, (s.poke y bs).peek x = byteAfter ys w 0 x (s.peek x)) : StoredBytes s (s.poke y bs) [(ys, w)] :=
  ⟨h, poke_absent s y bs, poke_rest s y bs⟩

/-- One byte stored. -/
theorem poke_storedByte (s : State) (y : Loc) (w : Nat → Byte → Byte) : StoredBytes s (s.poke y [w 0 (s.peek y)]) [([y], w)] := by
  refine poke_storedBytes s y _ (fun x => ?_)
  rw [peek_poke]
  change _ = if y = x then _ else _
  have hyx : y = x ↔ x.store = y.store ∧ y.addr ≤ x.addr ∧ x.addr < y.addr + [w 0 (s.peek y)].length := by
    obtain ⟨st, a⟩ := x
    obtain ⟨st', a'⟩ := y
    simp only [Loc.mk.injEq, List.length_singleton]
    exact ⟨fun ⟨hst, ha⟩ => ⟨hst.symm, by omega, by omega⟩, fun ⟨hst, hlow, hhigh⟩ => ⟨hst.symm, by omega⟩⟩
  by_cases h : y = x
  · rw [if_pos (hyx.1 h), if_pos h, h]
    simp
  · rw [if_neg (mt hyx.2 h), if_neg h]

/-- Bytes in a row are stored at a home. -/
theorem poke_storedRow (s : State) (y : Loc) (bs : List Byte) {w : Nat → Byte → Byte} (hw : ∀ j < bs.length, ∀ b, w j b = (bs[j]?).getD 0) :
    StoredBytes s (s.poke y bs) [((List.range bs.length).map y.plus, w)] := by
  refine poke_storedBytes s y bs (fun x => ?_)
  rw [peek_poke, byteAfter_row]
  split
  · next hx => rw [hw _ (by omega)]
  · rfl
end

/-! ## Routes -/

/-- A route of n bytes. -/
def Spans (n : Nat) : Route → Prop
  | .plain _ m => m = n
  | .split ds => ds.length = n

/-- Where no log takes part, a route by bytes is a list of homes. -/
theorem logless_split {ds : List Dest} (h : logless (.split ds)) : ∃ ys : List Loc, ds = ys.map .mem ∧ cells (.split ds) = ys := by
  have hmem : ∀ d ∈ ds, ∃ l, d = .mem l := h ds rfl
  clear h
  induction ds with
  | nil => exact ⟨[], rfl, rfl⟩
  | cons d ds ih =>
    obtain ⟨ys, rfl, hys⟩ := ih (fun e he => hmem e (List.mem_cons_of_mem _ he))
    obtain ⟨y, rfl⟩ := hmem d List.mem_cons_self
    exact ⟨y :: ys, rfl, congrArg (y :: ·) hys⟩

theorem cells_length {r : Route} {n : Nat} (h : logless r) (hn : Spans n r) : (cells r).length = n := by
  cases r with
  | plain l m =>
    obtain rfl : m = n := hn
    simp [cells]
  | split ds =>
    obtain ⟨ys, rfl, hys⟩ := logless_split h
    rw [hys]
    simpa [Spans] using hn

theorem spans_cells {r : Route} (h : logless r) : Spans (cells r).length r := by
  cases r with
  | plain l m => simp [cells, Spans]
  | split ds =>
    obtain ⟨ys, rfl, hys⟩ := logless_split h
    rw [hys]
    simp [Spans]

/-- Bytes stored one by one at homes. -/
theorem pokes_storedBytes (s : State) (ys : List Loc) (bs : List Byte) {w : Nat → Byte → Byte} (hlen : bs.length = ys.length)
    (hw : ∀ j < bs.length, ∀ b, w j b = (bs[j]?).getD 0) :
    StoredBytes s ((ys.zip bs).foldl (fun s x => s.poke x.1 [x.2]) s) [(ys, w)] := by
  induction ys generalizing s bs w with
  | nil => exact ⟨fun _ => rfl, rfl, rfl⟩
  | cons y ys ih =>
    obtain ⟨b, bs, rfl⟩ : ∃ b bs', bs = b :: bs' := List.exists_cons_of_length_eq_add_one hlen
    obtain rfl : w 0 (s.peek y) = b := hw 0 (by simp) _
    exact storedBytes_cons (poke_storedByte s y w)
      (ih _ bs (by simpa using hlen) (fun j hj a => hw (j + 1) (by simpa using hj) a))

/-- Bytes written along a route where no log takes part are stored at its homes. -/
theorem routeWrite_stores (s : State) (b : Ev) {r : Route} {bs : List Byte} {w : Nat → Byte → Byte} (hr : logless r) (hn : Spans bs.length r)
    (hw : ∀ j < bs.length, ∀ a, w j a = (bs[j]?).getD 0) : ∃ t, s.routeWrite b bs r = .ok t ∧ StoredBytes s t [(cells r, w)] := by
  cases r with
  | plain l n =>
    obtain rfl : n = bs.length := hn
    exact ⟨_, rfl, poke_storedRow s l bs hw⟩
  | split ds =>
    obtain ⟨ys, rfl, hys⟩ := logless_split hr
    rw [hys]
    refine ⟨_, ?_, pokes_storedBytes s ys bs (by simpa [Spans] using hn.symm) hw⟩
    simp [State.routeWrite, List.zip_map_left, List.foldl_map, List.filterMap_map]

/-- A number's bytes, written along a route where no log takes part. -/
theorem routeWrite_leBytes (s : State) (b : Ev) {r : Route} {n : Nat} (v : Nat) (hr : logless r) (hn : Spans n r) :
    ∃ t, s.routeWrite b (leBytes n v) r = .ok t ∧ StoredBytes s t [(cells r, byteOf v)] := by
  refine routeWrite_stores s b hr (by rwa [leBytes_length]) (fun j hj a => ?_)
  rw [leBytes_length] at hj
  rw [leBytes_getElem? hj]
  rfl

/-- A nibble of a byte (R255). -/
theorem withNibble_eq (hi : Bool) (v : Nat) (b : Byte) : withNibble hi v b =
    if hi then BitVec.ofNat 8 (b.toNat % 16 + v % 16 * 16) else BitVec.ofNat 8 (b.toNat / 16 * 16 + v % 16) := by
  have key : ∀ (b : Byte) (n : Fin 16), ((b &&& 0x0F) ||| (BitVec.ofNat 8 n.val <<< 4) = BitVec.ofNat 8 (b.toNat % 16 + n.val * 16)) ∧
      (b &&& 0xF0) ||| BitVec.ofNat 8 n.val = BitVec.ofNat 8 (b.toNat / 16 * 16 + n.val) := by decide
  obtain ⟨hhigh, hlow⟩ := key b ⟨v % 16, Nat.mod_lt _ (by decide)⟩
  unfold withNibble
  split
  · exact hhigh
  · exact hlow

/-- A nibble merged along a route of one byte where no log takes part. -/
theorem routeNibble_stores (s : State) (b : Ev) (hi : Bool) (v : Nat) {r : Route} (hr : logless r) (hn : Spans 1 r) :
    ∃ t, s.routeNibble b hi v r = .ok t ∧ StoredBytes s t [(cells r, fun _ => withNibble hi v)] := by
  obtain ⟨y, hcells, hnibble⟩ : ∃ y, cells r = [y] ∧ s.routeNibble b hi v r = .ok (s.poke y [withNibble hi v (s.peek y)]) := by
    cases r with
    | plain l n =>
      obtain rfl : n = 1 := hn
      refine ⟨l, rfl, ?_⟩
      rw [withNibble_eq]
      rfl
    | split ds =>
      obtain ⟨ys, rfl, hys⟩ := logless_split hr
      obtain ⟨y, rfl⟩ : ∃ y, ys = [y] := List.length_eq_one_iff.1 (by simpa [Spans] using hn)
      refine ⟨y, hys, ?_⟩
      rw [withNibble_eq]
      rfl
  rw [hcells]
  exact ⟨_, hnibble, poke_storedByte s y (fun _ => withNibble hi v)⟩

end Sys2Proof.Laws
end

section
/-! Stores (R244, R255, R256, R259 to R261): an operand's route has as many bytes as the access, strands store in ascending order, and where no
log takes part every strand's bytes are at its homes. -/
namespace Sys2Proof.Laws
open Sys2Proof.Machine Sys2Proof.Safety

/-! ## The bytes of an operand's route (R253 to R256) -/

section
variable {s : State} {α β : Type}

theorem allOk_forall {f : α → Except Stop β} {l : List α} {ys : List β} (h : allOk f l = .ok ys) :
    List.Forall₂ (fun x y => f x = .ok y) l ys := by
  induction l generalizing ys with
  | nil => cases h; exact .nil
  | cons x l ih =>
    unfold allOk at h
    split at h
    · cases h
    next hx =>
    split at h
    · cases h
    next hl =>
    cases h
    exact .cons hx (ih hl)

theorem allOk_spans {f : Nat → Except Stop Dest} {n : Nat} {ds : List Dest} (h : allOk f (List.range n) = .ok ds) : Spans n (.split ds) := by
  simpa [Spans] using (allOk_forall h).length_eq.symm

theorem routeAt_spans {core n : Nat} {store : Bool} {a : Word} {l : Loc} {r : Route} (h : s.routeAt core store a l n = .ok r) : Spans n r := by
  unfold State.routeAt at h
  split at h
  · cases h
    exact Eq.refl n
  split at h
  · cases h
  next hds =>
  cases h
  exact allOk_spans hds

theorem reach_spans {w : Who} {core n : Nat} {store reads : Bool} {a : Word} {o : Opnd} (h : s.reach w core store reads a n = .ok o) :
    Spans n o.route := by
  unfold State.reach at h
  split at h
  · cases h
  split at h
  · cases h
  split at h
  · cases h
  next hr =>
  split at h
  · cases h
  cases h
  exact routeAt_spans hr

theorem reachTile_spans {w : Who} {core off n bit : Nat} {store reads : Bool} {t : Tile} {o : Opnd}
    (h : s.reachTile w core store reads t off n bit = .ok o) : Spans n o.route := by
  unfold State.reachTile at h
  extract_lets at h
  split at h
  · cases h
  next hds =>
  extract_lets at h
  split at h
  · cases h
  cases h
  exact allOk_spans hds

theorem pairOpnd_spans {w : Who} {core line blk n : Nat} {store : Bool} {t : Tile} {o : Opnd}
    (h : s.pairOpnd w core store t line blk n = .ok o) : Spans n o.route := by
  unfold State.pairOpnd at h
  extract_lets at h
  split at h
  · cases h
  next hds =>
  split at h
  · cases h
  cases h
  exact allOk_spans hds

variable {I : Iss} {f : Mem} {lane W : Nat} {store reads : Bool}

theorem scalarOpnd_spans {o : Opnd} (h : s.scalarOpnd I f lane W store reads = .ok o) : Spans (max (W / 8) 1) o.route := by
  unfold State.scalarOpnd at h
  extract_lets at h
  split at h
  · split at h
    · cases h
    split at h
    · cases h
    split at h
    · cases h
    split at h
    · cases h
    split at h
    split at h
    · cases h
    exact reachTile_spans h
  · split at h
    · cases h
    next o' ho =>
    cases h
    exact reach_spans (o := o') ho

theorem vecOpnd_spans {x : VOpnd} (h : s.vecOpnd I f lane store = .ok x) :
    Spans 64 x.o.route ∧ ∀ p ∈ x.pairs, Spans (wbBlocks (vecTag f.mod) * 2) p.route := by
  unfold State.vecOpnd at h
  extract_lets at h
  split at h
  · split at h
    · cases h
    split at h
    · cases h
    split at h
    · cases h
    split at h
    split at h
    extract_lets at h
    split at h
    · cases h
    split at h
    · cases h
    split at h
    · cases h
    next ho =>
    split at h
    · split at h
      · cases h
      next hp =>
      cases h
      refine ⟨reachTile_spans ho, fun p hmem => ?_⟩
      cases hmem
      exact pairOpnd_spans hp
    · cases h
      exact ⟨reachTile_spans ho, nofun⟩
  · split at h
    · cases h
    next ho =>
    cases h
    exact ⟨reach_spans ho, nofun⟩

theorem gathOpnds_spans {l : List (Nat × Opnd)} (h : s.gathOpnds I f lane store = .ok l) : ∀ x ∈ l, Spans (sizeBits f.mod / 8) x.2.route := by
  unfold State.gathOpnds at h
  split at h
  · cases h
  next addrs haddrs =>
  have hall := allOk_forall h
  clear h haddrs
  induction hall with
  | nil => nofun
  | cons hx _ ih =>
    refine List.forall_mem_cons.2 ⟨?_, ih⟩
    dsimp only at hx
    split at hx
    · cases hx
    next ho =>
    cases hx
    exact reach_spans ho

/-- A scatter's operands have addresses. -/
theorem gathAddrs_of_gathOpnds {l : List (Nat × Opnd)} (h : s.gathOpnds I f lane store = .ok l) : ∃ a, gathAddrs f (I.c.rd lane) = .ok a := by
  unfold State.gathOpnds at h
  split at h
  · cases h
  next a ha => exact ⟨a, ha⟩

theorem sizeBits_cases (m : Byte) : sizeBits m = 4 ∨ sizeBits m = 8 ∨ sizeBits m = 16 ∨ sizeBits m = 32 ∨ sizeBits m = 64 := by
  unfold sizeBits
  split <;> simp
end

/-! ## Strands that act in turn -/

section
variable {s t u : State} {I : Iss} {α β : Type}

theorem performs_aside {f : State → Nat → α → Except Stop State} (hf : ∀ t i a u, f t i a = .ok u → Aside t u) {l : List (Nat × α)}
    (h : I.performs s f l = .ok u) : Aside s u := by
  induction l generalizing s with
  | nil => cases h; exact Aside.refl _
  | cons x l ih =>
    obtain ⟨i, a⟩ := x
    unfold Iss.performs at h
    split at h
    · cases h
    · next ha => exact (hf _ _ _ _ ha).trans (ih h)

theorem performs_stores {f : State → Nat → α → Except Stop State} {g : Nat × α → List (List Loc × (Nat → Byte → Byte))} (I : Iss)
    {l : List (Nat × α)} (hf : ∀ x ∈ l, ∀ t, ∃ u, f t x.1 x.2 = .ok u ∧ StoredBytes t u (g x)) (s0 : State) :
    ∃ t, I.performs s0 f l = .ok t ∧ StoredBytes s0 t (l.flatMap g) := by
  induction l generalizing s0 with
  | nil => exact ⟨_, rfl, storedBytes_nil _⟩
  | cons x l ih =>
    obtain ⟨hx, hl⟩ := List.forall_mem_cons.1 hf
    obtain ⟨t, hft, ht⟩ := hx s0
    obtain ⟨u, hfu, hu⟩ := ih hl t
    refine ⟨u, ?_, storedBytes_append ht hu⟩
    unfold Iss.performs
    rw [hft]
    exact hfu

/-- The meaning of a form whose strands find their operands and then act in turn: what the operand of a strand is, what it does, and the
operands that watchpoints see. -/
def performing (kind : Nat) (ops : Iss → State → Nat → Except Stop α) (act : Iss → State → State → Nat → β → Except Stop State)
    (flat : List (Nat × α) → List (Nat × β)) (seen : List (Nat × α) → List (Nat × Opnd)) (I : Iss) (s : State) : Ran :=
  (s, match I.each (ops I s) with
    | .error e => .error e
    | .ok os => match I.performs s (act I s) (flat os) with
      | .error e => .error e
      | .ok s => .ok { s, visible := true, hits := s.opndHits kind (seen os) })

theorem opndHits_unwatched (hw : Unwatched s) (hp : t.panels = s.panels) (kind : Nat) (l : List (Nat × Opnd)) : t.opndHits kind l = [] := by
  simp [State.opndHits, unwatched_of hw hp]

variable {i : Instr} {rmw : Bool} {kind : Nat} {ops : Iss → State → Nat → Except Stop α}
  {act : Iss → State → State → Nat → β → Except Stop State} {flat : List (Nat × α) → List (Nat × β)} {seen : List (Nat × α) → List (Nat × Opnd)}
  {o : Nat → α}

/-- Such a form passes on when its strands act without a failure. -/
theorem performing_passes (h : Issues s i rmw [] I) (hx : exec i s = runCourse s i rmw [] (performing kind ops act flat seen)) (hw : Unwatched s)
    (hops : ∀ lane ∈ I.runs, ops I (passed s I) lane = .ok (o lane)) (hact : ∀ t i a u, act I (passed s I) t i a = .ok u → Aside t u)
    (hp : I.performs (passed s I) (act I (passed s I)) (flat (I.runs.map (fun lane => (lane, o lane)))) = .ok u) :
    Passes s i I I.c (fun _ => pcNext I.E.pc) u := by
  have ha := performs_aside hact hp
  have hrun : exec i s = .next (State.complete I { s := u, visible := true }) := by
    refine hx.trans (runCourse_ok h (s2 := passed s I) ?_)
    simp only [performing, each_ok hops, hp, opndHits_unwatched hw (ha.panels.trans (passed_panels s I))]
  exact complete_transfers (e := { s := u, visible := true }) h hrun ha.courses (ha.unparked (passed_faults h)) rfl rfl rfl rfl rfl

/-- Such a form stores its strands' bytes in order when each strand's action does. -/
theorem performing_stores {g : Nat × β → List (List Loc × (Nat → Byte → Byte))} (h : Issues s i rmw [] I)
    (hx : exec i s = runCourse s i rmw [] (performing kind ops act flat seen)) (hw : Unwatched s)
    (hops : ∀ lane ∈ I.runs, ops I (passed s I) lane = .ok (o lane)) (hact : ∀ t i a u, act I (passed s I) t i a = .ok u → Aside t u)
    (hg : ∀ x ∈ flat (I.runs.map (fun lane => (lane, o lane))), ∀ t, ∃ u, act I (passed s I) t x.1 x.2 = .ok u ∧ StoredBytes t u (g x)) :
    ∃ u, Passes s i I I.c (fun _ => pcNext I.E.pc) u ∧
      StoredBytes s u ((flat (I.runs.map (fun lane => (lane, o lane)))).flatMap g) := by
  obtain ⟨u, hp, hu⟩ := performs_stores I hg (passed s I)
  obtain ⟨t, c, ht, hmoves, hregs, hrest⟩ := performing_passes h hx hw hops hact hp
  exact ⟨{ u with courses := s.courses }, ⟨t, c, ht, hmoves, hregs, hrest⟩, storedBytes_of_passed hu⟩
end

/-! ## ST (R259) -/

section
variable {s u : State} {I : Iss}

theorem routeNibble_aside {b : Ev} {hi : Bool} {v : Nat} {r : Route} (h : s.routeNibble b hi v r = .ok u) : Aside s u := by
  unfold State.routeNibble at h
  extract_lets at h
  split at h
  · split at h
    · cases h
    split at h
    · exact routeWrite_aside h
    split at h
    · cases h
    next ht => exact (admitTile_aside ht).trans (appendAll_aside h)
  · exact routeWrite_aside h

/-- What one strand of ST does: a nibble is merged into its byte. -/
def stAct (f : Mem) (I : Iss) (s0 s1 : State) (lane : Nat) (o : Opnd) : Except Stop State :=
  if sizeBits f.mod == 4 then s1.routeNibble (s0.workEv I.c 0) (o.bit == 4) (I.c.read lane f.dst).toNat o.route
  else s1.routeWrite (s0.workEv I.c 0) (leBytes (sizeBits f.mod / 8) (I.c.read lane f.dst).toNat) o.route

theorem exec_st (f : Mem) (s : State) : exec (.st f) s = runCourse s (.st f) false []
    (performing 34 (fun I s lane => s.scalarOpnd I f lane (sizeBits f.mod) true false) (stAct f) id id) := by
  change execSt f s = _
  unfold execSt
  refine congrArg (runCourse s (.st f) false []) (funext₂ fun I s => ?_)
  dsimp only [performing]
  cases I.each (fun lane => s.scalarOpnd I f lane (sizeBits f.mod) true false) <;> rfl

theorem stAct_aside {f : Mem} (t : State) (lane : Nat) (o : Opnd) (u : State) (h : stAct f I (passed s I) t lane o = .ok u) : Aside t u := by
  unfold stAct at h
  split at h
  · exact routeNibble_aside h
  · exact routeWrite_aside h

/-- The byte that a strand of ST leaves at home j of its operand. -/
def stByte (f : Mem) (I : Iss) (lane : Nat) (o : Opnd) (j : Nat) (b : Byte) : Byte :=
  if sizeBits f.mod = 4 then withNibble (o.bit == 4) (I.c.read lane f.dst).toNat b else byteOf (I.c.read lane f.dst).toNat j b

theorem stAct_stores {f : Mem} {o : Opnd} (s0 t : State) (lane : Nat) (hn : Spans (max (sizeBits f.mod / 8) 1) o.route)
    (hr : logless o.route) : ∃ u, stAct f I s0 t lane o = .ok u ∧ StoredBytes t u [(cells o.route, stByte f I lane o)] := by
  by_cases h4 : sizeBits f.mod = 4
  · have hbyte : stByte f I lane o = fun _ => withNibble (o.bit == 4) (I.c.read lane f.dst).toNat := by
      funext j b
      exact if_pos h4
    have hact : stAct f I s0 t lane o = t.routeNibble (s0.workEv I.c 0) (o.bit == 4) (I.c.read lane f.dst).toNat o.route :=
      if_pos (beq_iff_eq.2 h4)
    rw [h4] at hn
    rw [hbyte, hact]
    exact routeNibble_stores t _ _ _ hr hn
  · have hbyte : stByte f I lane o = byteOf (I.c.read lane f.dst).toNat := by
      funext j b
      exact if_neg h4
    have hact : stAct f I s0 t lane o = t.routeWrite (s0.workEv I.c 0) (leBytes (sizeBits f.mod / 8) (I.c.read lane f.dst).toNat) o.route :=
      if_neg (by simpa using h4)
    have hsize : max (sizeBits f.mod / 8) 1 = sizeBits f.mod / 8 := by
      have := sizeBits_cases f.mod
      omega
    rw [hsize] at hn
    rw [hbyte, hact]
    exact routeWrite_leBytes t _ _ hr hn

/-! ## STV (R260) -/

/-- The operand of one strand of STV, whose source carries the tag of the form. -/
def stvOpnd (f : Mem) (I : Iss) (s : State) (lane : Nat) : Except Stop VOpnd :=
  let r := (I.c.rd lane).vec f.dst
  if vecTag f.mod != 0 && r.tag != vecTag f.mod then .error (tagStop f.dst r.tag) else s.vecOpnd I f lane true

/-- What one strand of STV does: its 64 bytes, and the exponent pairs of a block tile. -/
def stvAct (f : Mem) (I : Iss) (s0 s1 : State) (lane : Nat) (x : VOpnd) : Except Stop State :=
  match s1.routeWrite (s0.workEv I.c 0) (leBytes 64 ((I.c.rd lane).vec f.dst).bits.toNat) x.o.route with
  | .error e => .error e
  | .ok s1 => x.pairs.elim (.ok s1) (fun p => s1.routeWrite (s0.workEv I.c 0)
      (leBytes (wbBlocks (vecTag f.mod) * 2) ((I.c.rd lane).vec f.dst).exps.toNat) p.route)

theorem exec_stv (f : Mem) (s : State) : exec (.stv f) s = runCourse s (.stv f) false []
    (performing 34 (stvOpnd f) (stvAct f) id (fun os => os.flatMap (fun (i, x) => x.all.map (fun o => (i, o))))) := by
  change execStv f s = _
  unfold execStv
  refine congrArg (runCourse s (.stv f) false []) (funext₂ fun I s => ?_)
  dsimp only [performing]
  change (_, match I.each (stvOpnd f I s) with | .error e => _ | .ok os => _) = _
  have hact : stvAct f I s = fun s1 lane (x : VOpnd) =>
      match s1.routeWrite (s.workEv I.c 0) (leBytes 64 ((I.c.rd lane).vec f.dst).bits.toNat) x.o.route with
      | .error e => .error e
      | .ok s1 => match x.pairs with
        | some p => s1.routeWrite (s.workEv I.c 0) (leBytes (wbBlocks (vecTag f.mod) * 2) ((I.c.rd lane).vec f.dst).exps.toNat) p.route
        | none => .ok s1 := by
    funext s1 lane x
    obtain ⟨o, _ | p⟩ := x <;> rfl
  rw [hact]
  cases I.each (stvOpnd f I s) <;> rfl

theorem stvOpnd_eq {f : Mem} {lane : Nat} (htag : vecTag f.mod = 0 ∨ ((I.c.rd lane).vec f.dst).tag = vecTag f.mod) (s : State) :
    stvOpnd f I s lane = s.vecOpnd I f lane true :=
  if_neg (by rcases htag with h | h <;> simp [h])

theorem stvAct_aside {f : Mem} (t : State) (lane : Nat) (x : VOpnd) (u : State) (h : stvAct f I (passed s I) t lane x = .ok u) : Aside t u := by
  unfold stvAct at h
  split at h
  · cases h
  next ht =>
  refine (routeWrite_aside ht).trans ?_
  cases hp : x.pairs with
  | none => rw [hp] at h; cases h; exact Aside.refl _
  | some p => rw [hp] at h; exact routeWrite_aside h

/-- What a strand of STV stores. -/
def stvStores (f : Mem) (I : Iss) (lane : Nat) (x : VOpnd) : List (List Loc × (Nat → Byte → Byte)) :=
  let r := (I.c.rd lane).vec f.dst
  (cells x.o.route, byteOf r.bits.toNat) :: x.pairs.elim [] (fun p => [(cells p.route, byteOf r.exps.toNat)])

theorem stvAct_stores {f : Mem} {x : VOpnd} (s0 t : State) (lane : Nat) (hx : Spans 64 x.o.route ∧ ∀ p ∈ x.pairs, Spans (wbBlocks (vecTag f.mod) * 2) p.route)
    (hr : logless x.o.route ∧ ∀ p ∈ x.pairs, logless p.route) : ∃ u, stvAct f I s0 t lane x = .ok u ∧ StoredBytes t u (stvStores f I lane x) := by
  obtain ⟨o, pairs⟩ := x
  obtain ⟨u, hwrite, hu⟩ := routeWrite_leBytes t (s0.workEv I.c 0) ((I.c.rd lane).vec f.dst).bits.toNat hr.1 hx.1
  unfold stvAct
  rw [hwrite]
  cases pairs with
  | none => exact ⟨u, rfl, hu⟩
  | some p =>
    obtain ⟨v, hwrite', hv⟩ := routeWrite_leBytes u (s0.workEv I.c 0) ((I.c.rd lane).vec f.dst).exps.toNat (hr.2 p rfl) (hx.2 p rfl)
    exact ⟨v, hwrite', storedBytes_append hu hv⟩

/-! ## SCAT (R261) -/

/-- The operands of one strand of SCAT, whose source carries the tag of the form, or any but raw. -/
def scatOpnds (f : Mem) (I : Iss) (s : State) (lane : Nat) : Except Stop (List (Nat × Opnd)) :=
  let T := gathTag f.mod
  let r := (I.c.rd lane).vec f.dst
  match gathAddrs f (I.c.rd lane) with
  | .error e => .error e
  | .ok _ => if (if T == 0 then r.tag == 0 else r.tag != T) then .error (tagStop f.dst r.tag) else s.gathOpnds I f lane true

/-- What a strand of SCAT does with one of its elements. -/
def scatAct (f : Mem) (I : Iss) (s0 s1 : State) (lane : Nat) (x : Nat × Opnd) : Except Stop State :=
  s1.routeWrite (s0.workEv I.c 0) (leBytes (sizeBits f.mod / 8) (element I lane f.dst (sizeBits f.mod) x.1).toNat) x.2.route

/-- The elements of the strands, in the order of the strands and of their lanes. -/
def scatFlat (os : List (Nat × List (Nat × Opnd))) : List (Nat × (Nat × Opnd)) := os.flatMap (fun (i, l) => l.map (fun (j, o) => (i, (j, o))))

theorem exec_scat (f : Mem) (s : State) : exec (.scat f) s = runCourse s (.scat f) false []
    (performing 34 (scatOpnds f) (scatAct f) scatFlat (fun os => (scatFlat os).map (fun (i, x) => (i, x.2)))) := by
  change execScat f s = _
  unfold execScat
  refine congrArg (runCourse s (.scat f) false []) (funext₂ fun I s => ?_)
  dsimp only [performing]
  change (_, match I.each (scatOpnds f I s) with | .error e => _ | .ok os => _) = _
  have hact : scatAct f I s = fun s1 lane (x : Nat × Opnd) => s1.routeWrite (s.workEv I.c 0)
      (leBytes (sizeBits f.mod / 8) (laneOf (sizeBits f.mod) ((I.c.rd lane).vec f.dst).bits x.1)) x.2.route := by
    funext s1 lane x
    rw [laneOf_eq]
    rfl
  rw [hact]
  cases I.each (scatOpnds f I s) <;> rfl

theorem scatOpnds_eq {f : Mem} {lane : Nat} {l : List (Nat × Opnd)}
    (htag : if gathTag f.mod = 0 then ((I.c.rd lane).vec f.dst).tag ≠ 0 else ((I.c.rd lane).vec f.dst).tag = gathTag f.mod)
    (hl : s.gathOpnds I f lane true = .ok l) : scatOpnds f I s lane = .ok l := by
  obtain ⟨a, ha⟩ := gathAddrs_of_gathOpnds hl
  unfold scatOpnds
  simp only [ha]
  rw [if_neg, hl]
  simp only [beq_iff_eq]
  split at htag
  · next h0 =>
    rw [if_pos h0]
    simpa using htag
  · next h0 =>
    rw [if_neg h0]
    simp [htag]

theorem scatFlat_runs (o : Nat → List (Nat × Opnd)) :
    scatFlat (I.runs.map (fun lane => (lane, o lane))) = I.runs.flatMap (fun lane => (o lane).map (fun x => (lane, x))) := by
  simp only [scatFlat, List.flatMap_map]
end

/-- Settles O20: each form's strands act in turn; without a log each action stores its bytes at its homes. -/
theorem storesLand : Obligations.StoresLand := by
  unfold Obligations.StoresLand
  refine ⟨?_, ?_, ?_⟩
  · intro f s I o h hw W ho
    refine ⟨fun s2 hp => performing_passes h (exec_st f s) hw ho stAct_aside hp, fun hr => ?_⟩
    obtain ⟨u, hu, hstored⟩ := performing_stores (g := fun x => [(cells x.2.route, stByte f I x.1 x.2)]) h (exec_st f s) hw ho stAct_aside
      (List.forall_mem_map.2 fun lane hl t => stAct_stores _ t lane (scalarOpnd_spans (ho lane hl)) (hr lane hl))
    refine ⟨u, hu, ?_⟩
    rw [id, List.flatMap_map, ← List.map_eq_flatMap] at hstored
    exact hstored
  · intro f s I o h hw htag ho
    have hops (lane : Nat) (hl : lane ∈ I.runs) : stvOpnd f I (passed s I) lane = .ok (o lane) :=
      (stvOpnd_eq (htag.imp_right (· lane hl)) _).trans (ho lane hl)
    refine ⟨fun s2 hp => performing_passes h (exec_stv f s) hw hops stvAct_aside hp, fun hr => ?_⟩
    obtain ⟨u, hu, hstored⟩ := performing_stores (g := fun x => stvStores f I x.1 x.2) h (exec_stv f s) hw hops stvAct_aside
      (List.forall_mem_map.2 fun lane hl t => stvAct_stores _ t lane (vecOpnd_spans (ho lane hl)) (hr lane hl))
    refine ⟨u, hu, ?_⟩
    rw [id, List.flatMap_map] at hstored
    exact hstored
  · intro f s I o h hw W htag ho
    have hops (lane : Nat) (hl : lane ∈ I.runs) : scatOpnds f I (passed s I) lane = .ok (o lane) := by
      refine scatOpnds_eq ?_ (ho lane hl)
      split at htag
      · next h0 => rw [if_pos h0]; exact htag lane hl
      · next h0 => rw [if_neg h0]; exact htag lane hl
    refine ⟨fun s2 hp => performing_passes h (exec_scat f s) hw hops (fun _ _ _ _ => routeWrite_aside) (scatFlat_runs o ▸ hp), fun hr => ?_⟩
    obtain ⟨u, hu, hstored⟩ := performing_stores
      (g := fun x => [(cells x.2.2.route, byteOf (element I x.1 f.dst (sizeBits f.mod) x.2.1).toNat)]) h (exec_scat f s) hw hops
      (fun _ _ _ _ => routeWrite_aside) (by
        rw [scatFlat_runs]
        intro x hx t
        obtain ⟨lane, hl, hx⟩ := List.mem_flatMap.1 hx
        obtain ⟨y, hy, rfl⟩ := List.mem_map.1 hx
        exact routeWrite_leBytes t _ _ (hr lane hl y hy) (gathOpnds_spans (ho lane hl) y hy))
    refine ⟨u, hu, ?_⟩
    rw [scatFlat_runs, List.flatMap_assoc] at hstored
    simp only [List.flatMap_map, ← List.map_eq_flatMap] at hstored
    exact hstored

end Sys2Proof.Laws
end

section
/-! Results of loads (R140 to R142, R258): the executing strands' registers become pending and their data leave. -/
namespace Sys2Proof.Laws
open Sys2Proof.Machine Sys2Proof.Safety

section
variable {s t u : State} {I : Iss} {dst : Reg} {v : Nat → VReg}

/-- What a datum of each strand of a list leaves: the course's strands are marked, and of the rest of the machine the data alone change. -/
structure Sent (I : Iss) (dst : Reg) (v : Nat → VReg) (l : List Nat) (u t : State) : Prop where
  course : ∀ c, u.course? I.core I.slot = some c → (∀ lane ∈ l, c.st lane = I.c.st lane) →
    t.course? I.core I.slot = some (onStrands c l (marked · dst))
  others : ∀ k, k ≠ courseKey I.core I.slot → kget t.courses k = kget u.courses k
  rest   : ∀ m, ({ t with courses := m } : State) = l.foldl (datumFor I dst v) { u with courses := m }

theorem modSt_self (c : Course) (lane : Nat) (h : lane < 16) {f : Strand → Strand} (hf : f (c.st lane) = c.st lane) : c.modSt lane f = c := by
  unfold Course.modSt
  rw [hf]
  exact setSt_self c lane h

theorem sendDatum_sent (u : State) (lane : Nat) (hlt : lane < 16) : Sent I dst v [lane] u (u.sendDatum I lane dst (v lane)) where
  course c hc hst := by
    have hst : c.st lane = I.c.st lane := hst lane List.mem_cons_self
    unfold State.sendDatum
    cases hp : pendOf (I.c.st lane) dst with
    | none =>
      have hmark : marked (c.st lane) dst = c.st lane := by simp [marked, hst, hp]
      exact hc.trans (congrArg some (modSt_self c lane hlt (f := (marked · dst)) hmark).symm)
    | some p =>
      have hmark : (c.st lane).setPend p = marked (c.st lane) dst := by simp [marked, hst, hp]
      exact (kget_kmod_self hc _).trans (congrArg (fun x => some (c.setSt lane x)) hmark)
  others k hk := by
    unfold State.sendDatum
    split
    · rfl
    · exact kget_kmod_ne hk _
  rest m := by
    unfold State.sendDatum datumFor
    cases hp : pendOf (I.c.st lane) dst <;> simp [hp, State.newId, State.modCourse]

theorem Sent.cons {lane : Nat} {l : List Nat} (hlt : lane < 16) (hn : lane ∉ l) (h : Sent I dst v [lane] u t) {w : State} (k : Sent I dst v l t w) :
    Sent I dst v (lane :: l) u w where
  course c hc hst := by
    refine k.course _ (h.course c hc (fun j hj => hst j (by simp_all))) (fun j hj => ?_)
    have hne : j ≠ lane := fun e => hn (e ▸ hj)
    exact (st_modSt c lane j _ hlt).trans ((if_neg hne).trans (hst j (List.mem_cons_of_mem _ hj)))
  others j hj := (k.others j hj).trans (h.others j hj)
  rest m := (k.rest m).trans (congrArg (l.foldl (datumFor I dst v)) (h.rest m))

/-- The data of some strands leave, strand by strand. -/
def sendData (I : Iss) (dst : Reg) (v : Nat → VReg) (l : List Nat) (u : State) : State := l.foldl (fun t lane => t.sendDatum I lane dst (v lane)) u

theorem sendData_sent {l : List Nat} (hlt : ∀ lane ∈ l, lane < 16) (hn : l.Nodup) (u : State) : Sent I dst v l u (sendData I dst v l u) := by
  induction l generalizing u with
  | nil => exact ⟨fun c hc _ => hc, fun _ _ => rfl, fun _ => rfl⟩
  | cons lane l ih =>
    obtain ⟨hlane, hlt⟩ := List.forall_mem_cons.1 hlt
    obtain ⟨hout, hn⟩ := List.nodup_cons.1 hn
    exact (sendDatum_sent u lane hlane).cons hlane hout (ih hlt hn _)

/-- Data on the way are neither watchpoints nor faults. -/
theorem datumFor_kept (l : List Nat) (u : State) :
    (l.foldl (datumFor I dst v) u).panels = u.panels ∧ (l.foldl (datumFor I dst v) u).async.faults = u.async.faults := by
  refine List.foldlRecOn (motive := fun t : State => t.panels = u.panels ∧ t.async.faults = u.async.faults) l _ ⟨rfl, rfl⟩ (fun t ht lane _ => ?_)
  unfold datumFor
  split <;> exact ht

theorem Sent.kept {l : List Nat} (h : Sent I dst v l u t) : t.panels = u.panels ∧ t.async.faults = u.async.faults := by
  obtain ⟨hpanels, hfaults⟩ := datumFor_kept (I := I) (dst := dst) (v := v) l { u with courses := t.courses }
  rw [← h.rest t.courses] at hpanels hfaults
  exact ⟨hpanels, hfaults⟩

variable {i : Instr} {rmw : Bool}

theorem receivers_spec (h : Issues s i rmw [] I) : (∀ lane ∈ receivers I dst, lane < 16) ∧ (receivers I dst).Nodup := by
  obtain ⟨hlt, hn, -⟩ := lanes_lt h
  unfold receivers
  split
  · exact ⟨fun lane hl => hlt lane (List.mem_of_mem_take hl), (List.take_sublist 1 _).nodup hn⟩
  · exact ⟨hlt, hn⟩

theorem sendData_panels (h : Issues s i rmw [] I) (u : State) : (sendData I dst v (receivers I dst) u).panels = u.panels :=
  (sendData_sent (receivers_spec h).1 (receivers_spec h).2 u).kept.1

/-- Where a destination that strands share gets one value, every receiver's datum leaves. -/
theorem deliver_ok (hu : OneValue I dst v) (u : State) : I.deliver u dst (I.runs.map (fun lane => (lane, v lane))) =
    .ok (sendData I dst (fun lane => v (sourceOf I lane)) (receivers I dst) u) := by
  let w (lane : Nat) : VReg := v (sourceOf I lane)
  have hagree : sharedDiffer (I.lanes.map (fun lane => (lane, { writes := [(dst, w lane)] }))) = none :=
    sharedDiffer_none (dst := dst) (v := w) (x := fun lane => { writes := [(dst, w lane)] }) (fun _ _ => rfl)
      (fun hs j hj k hk => (hu hs j hj).trans (hu hs k hk).symm)
  have hdeliver : I.deliver u dst (I.runs.map (fun lane => (lane, v lane))) =
      match sharedDiffer (I.lanes.map (fun lane => (lane, { writes := [(dst, w lane)] }))) with
      | some e => .error e
      | none => .ok ((if Reg.shared dst then (I.lanes.map (fun lane => (lane, w lane))).take 1 else I.lanes.map (fun lane => (lane, w lane))).foldl
          (fun s x => s.sendDatum I x.1 dst x.2) u) := by
    unfold w Iss.deliver Iss.runs sourceOf
    cases I.uni <;>
      simp only [Bool.false_eq_true, if_false, if_true, List.map_cons, List.map_nil, List.map_map, Function.comp_def] <;> rfl
  rw [hdeliver, hagree]
  refine congrArg Except.ok ?_
  unfold sendData receivers
  split
  · rw [← List.map_take, List.foldl_map]
  · rw [List.foldl_map]

/-- An effect that sends its strands' data completes as a load. -/
theorem complete_loads {visible : Bool} (h : Issues s i rmw [] I) (ha : Aside (passed s I) u) (hx : exec i s = .next (State.complete I
    { s := sendData I dst (fun lane => v (sourceOf I lane)) (receivers I dst) u, visible })) : Loads s u i I dst v := by
  obtain ⟨hlt, hn⟩ := receivers_spec (dst := dst) h
  have hsent := sendData_sent (I := I) (dst := dst) (v := fun lane => v (sourceOf I lane)) hlt hn u
  generalize sendData I dst (fun lane => v (sourceOf I lane)) (receivers I dst) u = w at hx hsent
  have hown : u.course? I.core I.slot = some (passedCourse I.c) := (congrArg (kget · _) ha.courses).trans (passed_course h.course)
  have hothers (k : Nat) (hk : k ≠ courseKey I.core I.slot) : kget w.courses k = kget s.courses k := by
    rw [hsent.others k hk, ha.courses, passed_others s I hk]
  have hrest := onStrands_rest (passedCourse I.c) (receivers I dst) (marked · dst)
  have hkreg : (onStrands (passedCourse I.c) (receivers I dst) (marked · dst)).kreg = I.c.kreg := (congrArg Course.kreg hrest :)
  obtain ⟨c, hmoves, hk, hstrands, hcomplete⟩ := complete_moves (e := { s := w, visible }) hothers (hsent.course _ hown (fun _ _ => rfl))
    h.course h.live (by rw [← hkreg]; exact hrest) (by rw [hsent.kept.2]; exact ha.unparked (passed_faults h)) rfl rfl rfl rfl rfl
  refine ⟨_, c, hx, hmoves, hk.trans hkreg, fun lane _ => ?_, ?_⟩
  · have hst : c.st lane = (onStrands (passedCourse I.c) (receivers I dst) (marked · dst)).st lane := by
      unfold Course.st
      rw [hstrands]
    exact hst.trans (onStrands_st hlt hn _ lane)
  · rw [hcomplete]
    exact hsent.rest s.courses
end
end Sys2Proof.Laws
end

section
/-! Atomics (R262, R263): the strands act in ascending order, each on the value that its predecessors left, and receive the old values. -/
namespace Sys2Proof.Laws
open Sys2Proof.Machine Sys2Proof.Safety

/-! ## One step for each element of a list -/

section
variable {σ : Type} {l : List Nat}

theorem idxOf_tail {a b : Nat} (hb : b ∈ l) (ha : a ∉ l) : (a :: l).idxOf b = l.idxOf b + 1 :=
  List.idxOf_cons_ne l (fun e => ha (e ▸ hb))

/-- A fold over a list without repetition, by the states before and after each element. -/
theorem foldl_positions (hn : l.Nodup) {g : σ → Nat → σ} {st : Nat → σ} (h : ∀ a ∈ l, g (st (l.idxOf a)) a = st (l.idxOf a + 1)) :
    l.foldl g (st 0) = st l.length := by
  induction l generalizing st with
  | nil => rfl
  | cons a l ih =>
    obtain ⟨ha, hn⟩ := List.nodup_cons.1 hn
    have hfirst : g (st 0) a = st 1 := by simpa using h a List.mem_cons_self
    rw [List.foldl_cons, hfirst]
    exact ih hn (st := fun k => st (k + 1)) (fun b hb => by simpa [idxOf_tail hb ha] using h b (List.mem_cons_of_mem _ hb))

/-- Where each element can take a step from every state, there are states such that each takes its own. -/
theorem exists_positions (hn : l.Nodup) {R : Nat → σ → σ → Prop} (h : ∀ a ∈ l, ∀ x, ∃ y, R a x y) (x0 : σ) :
    ∃ st : Nat → σ, st 0 = x0 ∧ ∀ a ∈ l, R a (st (l.idxOf a)) (st (l.idxOf a + 1)) := by
  induction l generalizing x0 with
  | nil => exact ⟨fun _ => x0, rfl, nofun⟩
  | cons a l ih =>
    obtain ⟨ha, hn⟩ := List.nodup_cons.1 hn
    obtain ⟨y, hy⟩ := h a List.mem_cons_self x0
    obtain ⟨st, rfl, hst⟩ := ih hn (fun b hb => h b (List.mem_cons_of_mem _ hb)) y
    refine ⟨fun k => if k = 0 then x0 else st (k - 1), rfl, List.forall_mem_cons.2 ⟨by simpa using hy, fun b hb => ?_⟩⟩
    simpa [idxOf_tail hb ha] using hst b hb

theorem positions_aside (hn : l.Nodup) {st : Nat → State} (h : ∀ a ∈ l, Aside (st (l.idxOf a)) (st (l.idxOf a + 1))) :
    Aside (st 0) (st l.length) := by
  induction l generalizing st with
  | nil => exact Aside.refl _
  | cons a l ih =>
    obtain ⟨ha, hn⟩ := List.nodup_cons.1 hn
    have hfirst : Aside (st 0) (st 1) := by simpa using h a List.mem_cons_self
    exact hfirst.trans (ih hn (st := fun k => st (k + 1)) (fun b hb => by simpa [idxOf_tail hb ha] using h b (List.mem_cons_of_mem _ hb)))

theorem take_idxOf_succ {a : Nat} (ha : a ∈ l) : l.take (l.idxOf a + 1) = l.take (l.idxOf a) ++ [a] := by
  rw [List.take_add_one, List.getElem?_idxOf ha]
  rfl
end

/-! ## Numbers along a route -/

theorem loadList_length (s : State) (l : Loc) (n : Nat) : (s.loadList l n).length = n := by
  unfold State.loadList
  split
  · simp
  · exact readList_length _ _ _

theorem routeRead_length (s : State) {r : Route} {n : Nat} (h : Spans n r) : (s.routeRead r).length = n := by
  cases r with
  | plain l m =>
    obtain rfl : m = n := h
    exact loadList_length s l m
  | split ds =>
    obtain rfl : ds.length = n := h
    unfold State.routeRead
    rw [List.length_flatMap, List.map_congr_left (g := fun _ => 1)]
    · simp
    · intro d _
      cases d with
      | mem l => exact loadList_length s l 1
      | log launch tile off => dsimp only; split <;> rfl

theorem leBytes_mod (n v : Nat) : leBytes n (v % 256 ^ n) = leBytes n v := by
  induction n generalizing v with
  | zero => rfl
  | succ n ih =>
    have hlow : v % 256 ^ (n + 1) % 256 = v % 256 := Nat.mod_mod_of_dvd _ ⟨256 ^ n, Nat.pow_succ' ..⟩
    have hhigh : v % 256 ^ (n + 1) / 256 = v / 256 % 256 ^ n := by rw [Nat.pow_succ', Nat.mod_mul_right_div_self]
    unfold leBytes
    rw [hhigh, ih]
    refine congrArg (· :: _) (BitVec.eq_of_toNat_eq ?_)
    simp [hlow]

/-! ## The rules of R262 -/

/-- The model's rule on numbers is a rule on W-bit values. -/
def RuleIs (o : AtomOp) (op : (W : Nat) → (old op dst : BitVec W) → Option (BitVec W)) : Prop :=
  ∀ W, W = 32 ∨ W = 64 → ∀ old a d : BitVec W, (o W old.toNat a.toNat d.toNat).map (BitVec.ofNat W) = op W old a d

theorem atomMinMax_map {W : Nat} (uns wantMax : Bool) (old a d : BitVec W) : (atomMinMax uns wantMax W old.toNat a.toNat d.toNat).map (BitVec.ofNat W) =
    some (if (if uns then old.ult a else old.slt a) = wantMax then a else old) := by
  have hless : (if uns then decide (old.toNat < a.toNat) else decide (sgn W old.toNat < sgn W a.toNat)) = if uns then old.ult a else old.slt a := by
    cases uns
    · simp [sgn_toNat, BitVec.slt]
    · rfl
  unfold atomMinMax
  dsimp only
  rw [hless, Option.map_some]
  generalize (if uns then old.ult a else old.slt a) = b
  cases b <;> cases wantMax <;> simp

theorem minRule (uns : Bool) : RuleIs (atomMinMax uns false) (fun _ old op _ => some (if (if uns then old.ult op else old.slt op) then old else op)) := by
  intro W _ old a d
  rw [atomMinMax_map]
  dsimp only
  generalize (if uns then old.ult a else old.slt a) = b
  cases b <;> simp

/-- Of two values that are equal, AMAX may keep either. -/
theorem maxRule (uns : Bool) : RuleIs (atomMinMax uns true) (fun _ old op _ => some (if (if uns then op.ult old else op.slt old) then old else op)) := by
  intro W _ old a d
  rw [atomMinMax_map]
  refine congrArg some ?_
  cases uns
  · simp only [Bool.false_eq_true, if_false, BitVec.slt_iff_toInt_lt]
    by_cases h : old.toInt < a.toInt
    · rw [if_pos h, if_neg (by omega)]
    · by_cases h' : a.toInt < old.toInt
      · rw [if_neg h, if_pos h']
      · rw [if_neg h, if_neg h']
        exact BitVec.eq_of_toInt_eq (by omega)
  · simp only [if_true, BitVec.ult_iff_lt, BitVec.lt_def]
    by_cases h : old.toNat < a.toNat
    · rw [if_pos h, if_neg (by omega)]
    · by_cases h' : a.toNat < old.toNat
      · rw [if_neg h, if_pos h']
      · rw [if_neg h, if_neg h']
        exact BitVec.eq_of_toNat_eq (by omega)

theorem bitsRule {g : (W : Nat) → (old op : BitVec W) → BitVec W} {o : Nat → Nat → Nat} (h : ∀ W (old a : BitVec W), (g W old a).toNat = o old.toNat a.toNat) :
    RuleIs (fun _ old op _ => some (o old op)) (fun W old op _ => some (g W old op)) :=
  fun W _ old a _ => congrArg some (BitVec.eq_of_toNat_eq (by rw [BitVec.toNat_ofNat, ← h, Nat.mod_eq_of_lt (g W old a).isLt]))

theorem addRule : RuleIs (fun W old op _ => some ((old + op) % 2 ^ W)) (fun _ old op _ => some (old + op)) :=
  fun W _ old a _ => congrArg some (BitVec.eq_of_toNat_eq (by simp))

theorem casRule : RuleIs (fun _ old op dst => if old == op then some dst else none) (fun _ old op dst => if old = op then some dst else none) := by
  intro W _ old a d
  by_cases h : old = a
  · simp [h]
  · have hne : old.toNat ≠ a.toNat := fun e => h (BitVec.eq_of_toNat_eq e)
    simp [h, hne]

theorem fadRule : RuleIs (fun W old op _ => let t : Tag := if W == 32 then 0x15 else 0x16; some (addRnd t 0 (numOf t old) (numOf t op)).bits)
    (fun W old op _ => let T : Tag := if W = 32 then 0x15 else 0x16
      some (BitVec.ofNat W (addRnd T 0 (numOf T old.toNat) (numOf T op.toNat)).bits)) := by
  intro W hW old a d
  rcases hW with rfl | rfl <;> rfl

theorem atomic_exec {i : Instr} {f : Mem} {rmw : Bool} {op : (W : Nat) → (old op dst : BitVec W) → Option (BitVec W)} (h : atomic i = some (f, rmw, op)) :
    ∃ o : AtomOp, (∀ s, exec i s = runAtomic s i f rmw o) ∧ RuleIs o op := by
  cases i <;> simp only [atomic, Option.some.injEq, Prod.mk.injEq, reduceCtorEq] at h
  all_goals obtain ⟨rfl, rfl, rfl⟩ := h
  case aadd f => exact ⟨_, fun s => (rfl : execAadd f s = _), addRule⟩
  case amin f => exact ⟨_, fun s => (rfl : execAmin f s = _), minRule _⟩
  case amax f => exact ⟨_, fun s => (rfl : execAmax f s = _), maxRule _⟩
  case aand f => exact ⟨_, fun s => (rfl : execAand f s = _), bitsRule fun _ _ _ => BitVec.toNat_and ..⟩
  case aor f => exact ⟨_, fun s => (rfl : execAor f s = _), bitsRule fun _ _ _ => BitVec.toNat_or ..⟩
  case axor f => exact ⟨_, fun s => (rfl : execAxor f s = _), bitsRule fun _ _ _ => BitVec.toNat_xor ..⟩
  case axch f => exact ⟨_, fun s => (rfl : execAxch f s = _), bitsRule (o := fun _ op => op) fun _ _ _ => rfl⟩
  case acas f => exact ⟨_, fun s => (rfl : execAcas f s = _), casRule⟩
  case afad f => exact ⟨_, fun s => (rfl : execAfad f s = _), fadRule⟩

/-! ## A strand's turn (R262, R263) -/

/-- What one strand of an atomic does to the machine. -/
def atomAct (o : AtomOp) (f : Mem) (I : Iss) (s0 s : State) (lane : Nat) (x : Opnd) : Except (Stop × BitVec 16) State :=
  let W := sizeBits f.mod
  match o W (leNat (s.routeRead x.route)) ((I.c.read lane f.sc).toNat % 2 ^ W) ((I.c.read lane f.dst).toNat % 2 ^ W) with
  | none => .ok s
  | some new => match s.routeWrite (s0.workEv I.c 0) (leBytes (W / 8) new) x.route with
    | .error e => .error (e, maskOf I.lanes)
    | .ok s => .ok s

/-- The value that a strand reads, as the register that receives it. -/
def atomOld (s : State) (x : Opnd) : VReg := VReg.ofWord (BitVec.ofNat 64 (leNat (s.routeRead x.route)))

/-- A strand's turn, after those of its predecessors, whose old values are kept. -/
def atomTurn (o : AtomOp) (f : Mem) (I : Iss) (s0 : State) (acc : Except (Stop × BitVec 16) (State × List (Nat × VReg))) (x : Nat × Opnd) :
    Except (Stop × BitVec 16) (State × List (Nat × VReg)) :=
  match acc with
  | .error e => .error e
  | .ok (s, vals) => match atomAct o f I s0 s x.1 x.2 with
    | .error e => .error e
    | .ok t => .ok (t, vals ++ [(x.1, atomOld s x.2)])

/-- The operand of a strand of an atomic. -/
def atomOpnd (f : Mem) (I : Iss) (s : State) (lane : Nat) : Except Stop Opnd :=
  s.reach (s.strandWho I.core I.c.pslot I.c lane) I.core true true (memAddr f (I.c.rd lane)) (sizeBits f.mod / 8)

def atomBody (o : AtomOp) (f : Mem) (I : Iss) (s : State) : Ran :=
  (s, match I.each (atomOpnd f I s) with
    | .error e => .error e
    | .ok os => match os.foldl (atomTurn o f I s) (.ok (s, [])) with
      | .error e => .error e
      | .ok (t, vals) => match I.deliver t f.dst vals with
        | .error e => .error e
        | .ok t => .ok { s := t, visible := true, hits := t.opndHits 35 os })

theorem runAtomic_eq (s : State) (i : Instr) (f : Mem) (rmw : Bool) (o : AtomOp) : runAtomic s i f rmw o = runCourse s i rmw [] (atomBody o f) := by
  unfold runAtomic
  refine congrArg (runCourse s i rmw []) (funext₂ fun I s => ?_)
  unfold atomBody
  have hturn : atomTurn o f I s = fun acc x => match acc with
      | .error e => .error e
      | .ok (t, vals) =>
        match o (sizeBits f.mod) (leNat (t.routeRead x.2.route)) ((I.c.read x.1 f.sc).toNat % 2 ^ sizeBits f.mod)
            ((I.c.read x.1 f.dst).toNat % 2 ^ sizeBits f.mod) with
        | none => .ok (t, vals ++ [(x.1, atomOld t x.2)])
        | some new => match t.routeWrite (s.workEv I.c 0) (leBytes (sizeBits f.mod / 8) new) x.2.route with
          | .error e => .error (e, maskOf I.lanes)
          | .ok t' => .ok (t', vals ++ [(x.1, atomOld t x.2)]) := by
    funext acc x
    rcases acc with e | ⟨t, vals⟩
    · rfl
    unfold atomTurn atomAct
    dsimp only
    cases o (sizeBits f.mod) (leNat (t.routeRead x.2.route)) ((I.c.read x.1 f.sc).toNat % 2 ^ sizeBits f.mod)
        ((I.c.read x.1 f.dst).toNat % 2 ^ sizeBits f.mod) with
    | none => rfl
    | some new =>
      dsimp only
      cases t.routeWrite (s.workEv I.c 0) (leBytes (sizeBits f.mod / 8) new) x.2.route <;> rfl
  rw [hturn]
  dsimp only
  change (s, match I.each (atomOpnd f I s) with | .error e => _ | .ok os => _) = _
  cases I.each (atomOpnd f I s) <;> rfl

section
variable {o : AtomOp} {op : (W : Nat) → (old op dst : BitVec W) → Option (BitVec W)} {f : Mem} {I : Iss} {s0 : State} {x : Opnd}

theorem wholeBytes (hW : sizeBits f.mod = 32 ∨ sizeBits f.mod = 64) : 2 ^ sizeBits f.mod = 256 ^ (sizeBits f.mod / 8) := by
  rcases hW with h | h <;> rw [h] <;> norm_num

/-- The rule's answer for one strand, and the number that the model computes for it. -/
theorem rule_answer (hrule : RuleIs o op) (hW : sizeBits f.mod = 32 ∨ sizeBits f.mod = 64) (t : State) (lane : Nat) (hx : Spans (sizeBits f.mod / 8) x.route) :
    (o (sizeBits f.mod) (leNat (t.routeRead x.route)) ((I.c.read lane f.sc).toNat % 2 ^ sizeBits f.mod)
      ((I.c.read lane f.dst).toNat % 2 ^ sizeBits f.mod)).map (BitVec.ofNat (sizeBits f.mod)) =
    op (sizeBits f.mod) (BitVec.ofNat (sizeBits f.mod) (leNat (t.routeRead x.route))) (lowBits I lane f.sc (sizeBits f.mod))
      (lowBits I lane f.dst (sizeBits f.mod)) := by
  have hold : leNat (t.routeRead x.route) < 2 ^ sizeBits f.mod := by
    have hlt := leNat_lt (t.routeRead x.route)
    rwa [routeRead_length t hx, ← wholeBytes hW] at hlt
  have hr := hrule (sizeBits f.mod) hW (BitVec.ofNat _ (leNat (t.routeRead x.route))) (lowBits I lane f.sc _) (lowBits I lane f.dst _)
  rw [BitVec.toNat_ofNat, Nat.mod_eq_of_lt hold, ← read_mod, ← read_mod] at hr
  exact hr

theorem atomAct_none (hrule : RuleIs o op) (hW : sizeBits f.mod = 32 ∨ sizeBits f.mod = 64) {t : State} {lane : Nat}
    (hx : Spans (sizeBits f.mod / 8) x.route) (hop : op (sizeBits f.mod) (BitVec.ofNat (sizeBits f.mod) (leNat (t.routeRead x.route)))
      (lowBits I lane f.sc (sizeBits f.mod)) (lowBits I lane f.dst (sizeBits f.mod)) = none) : atomAct o f I s0 t lane x = .ok t := by
  have ho := Option.map_eq_none_iff.1 ((rule_answer hrule hW t lane hx).trans hop)
  unfold atomAct
  simp only [ho]

theorem atomAct_some (hrule : RuleIs o op) (hW : sizeBits f.mod = 32 ∨ sizeBits f.mod = 64) {t u : State} {lane : Nat} {v : BitVec (sizeBits f.mod)}
    (hx : Spans (sizeBits f.mod / 8) x.route) (hop : op (sizeBits f.mod) (BitVec.ofNat (sizeBits f.mod) (leNat (t.routeRead x.route)))
      (lowBits I lane f.sc (sizeBits f.mod)) (lowBits I lane f.dst (sizeBits f.mod)) = some v)
    (hwrite : t.routeWrite (s0.workEv I.c 0) (leBytes (sizeBits f.mod / 8) v.toNat) x.route = .ok u) : atomAct o f I s0 t lane x = .ok u := by
  obtain ⟨n, ho, rfl⟩ := Option.map_eq_some_iff.1 ((rule_answer hrule hW t lane hx).trans hop)
  rw [BitVec.toNat_ofNat, wholeBytes hW, leBytes_mod] at hwrite
  unfold atomAct
  simp only [ho, hwrite]

theorem atomAct_aside {t u : State} {lane : Nat} (h : atomAct o f I s0 t lane x = .ok u) : Aside t u := by
  unfold atomAct at h
  dsimp only at h
  split at h
  · cases h; exact Aside.refl _
  split at h
  · cases h
  next hw => cases h; exact routeWrite_aside hw

/-- The strands' turns, one after the other, from the states between them. -/
theorem atomTurns {l : List Nat} {os : Nat → Opnd} {st : Nat → State} (hn : l.Nodup)
    (h : ∀ lane ∈ l, atomAct o f I s0 (st (l.idxOf lane)) lane (os lane) = .ok (st (l.idxOf lane + 1))) :
    (l.map (fun lane => (lane, os lane))).foldl (atomTurn o f I s0) (.ok (st 0, [])) =
      .ok (st l.length, l.map (fun lane => (lane, atomOld (st (l.idxOf lane)) (os lane)))) := by
  let old (lane : Nat) : Nat × VReg := (lane, atomOld (st (l.idxOf lane)) (os lane))
  rw [List.foldl_map, ← List.take_length (l := l.map old)]
  refine (foldl_positions hn (st := fun k => (.ok (st k, (l.map old).take k) : Except (Stop × BitVec 16) _)) fun lane hl => ?_).trans (by simp [old])
  unfold atomTurn
  simp only [h lane hl]
  rw [← List.map_take, ← List.map_take, take_idxOf_succ hl, List.map_append]
  rfl

variable {s : State} {i : Instr} {rmw : Bool}

theorem runs_nodup (h : Issues s i rmw [] I) : I.runs.Nodup := by
  unfold Iss.runs
  split
  · exact List.nodup_singleton _
  · exact (lanes_lt h).2.1

/-- An atomic whose strands' turns succeed answers with the values before them. -/
theorem atomBody_loads {os : Nat → Opnd} {st : Nat → State} (h : Issues s i rmw [] I) (hx : exec i s = runCourse s i rmw [] (atomBody o f))
    (hw : Unwatched s) (hops : ∀ lane ∈ I.runs, atomOpnd f I (passed s I) lane = .ok (os lane)) (hst : st 0 = passed s I)
    (hact : ∀ lane ∈ I.runs, atomAct o f I (passed s I) (st (I.runs.idxOf lane)) lane (os lane) = .ok (st (I.runs.idxOf lane + 1)))
    (hone : OneValue I f.dst (fun lane => atomOld (st (I.runs.idxOf lane)) (os lane))) :
    Loads s (st I.runs.length) i I f.dst (fun lane => atomOld (st (I.runs.idxOf lane)) (os lane)) := by
  have hn := runs_nodup h
  have ha : Aside (passed s I) (st I.runs.length) := hst ▸ positions_aside hn (fun lane hl => atomAct_aside (hact lane hl))
  refine complete_loads (visible := true) h ha (hx.trans (runCourse_ok h (s2 := passed s I) ?_))
  unfold atomBody
  rw [each_ok hops]
  dsimp only
  rw [← hst, atomTurns hn (hst ▸ hact)]
  dsimp only
  rw [deliver_ok hone]
  dsimp only
  rw [opndHits_unwatched hw ((sendData_panels h _).trans (ha.panels.trans (passed_panels s I)))]
end

/-- A strand's turn where no log takes part: the rule's answer is stored at the operand's homes. -/
def Turned (op : (W : Nat) → (old op dst : BitVec W) → Option (BitVec W)) (f : Mem) (I : Iss) (b : Ev) (x : Opnd) (lane : Nat) (t u : State) : Prop :=
  match op (sizeBits f.mod) (BitVec.ofNat (sizeBits f.mod) (leNat (t.routeRead x.route))) (lowBits I lane f.sc (sizeBits f.mod))
    (lowBits I lane f.dst (sizeBits f.mod)) with
  | none => u = t
  | some v => t.routeWrite b (leBytes (sizeBits f.mod / 8) v.toNat) x.route = .ok u ∧ StoredBytes t u [(cells x.route, byteOf v.toNat)]

theorem exists_turned (op : (W : Nat) → (old op dst : BitVec W) → Option (BitVec W)) {f : Mem} (I : Iss) (b : Ev) {x : Opnd} (lane : Nat)
    (hx : Spans (sizeBits f.mod / 8) x.route) (hlog : logless x.route) (t : State) : ∃ u, Turned op f I b x lane t u := by
  unfold Turned
  split
  · exact ⟨t, rfl⟩
  · next v _ => exact routeWrite_leBytes t b v.toNat hlog hx

section
variable {op : (W : Nat) → (old op dst : BitVec W) → Option (BitVec W)} {f : Mem} {I : Iss} {b : Ev} {x : Opnd} {lane : Nat} {t u : State}

theorem Turned.of_none (h : Turned op f I b x lane t u) (hop : op (sizeBits f.mod) (BitVec.ofNat (sizeBits f.mod) (leNat (t.routeRead x.route)))
    (lowBits I lane f.sc (sizeBits f.mod)) (lowBits I lane f.dst (sizeBits f.mod)) = none) : u = t := by
  unfold Turned at h
  rwa [hop] at h

theorem Turned.of_some (h : Turned op f I b x lane t u) {v : BitVec (sizeBits f.mod)}
    (hop : op (sizeBits f.mod) (BitVec.ofNat (sizeBits f.mod) (leNat (t.routeRead x.route)))
      (lowBits I lane f.sc (sizeBits f.mod)) (lowBits I lane f.dst (sizeBits f.mod)) = some v) :
    t.routeWrite b (leBytes (sizeBits f.mod / 8) v.toNat) x.route = .ok u ∧ StoredBytes t u [(cells x.route, byteOf v.toNat)] := by
  unfold Turned at h
  rwa [hop] at h
end

/-- Settles O21: the strands' turns follow the rule, and the datum of each is the value before its turn. -/
theorem atomics : Obligations.Atomics := by
  unfold Obligations.Atomics
  intro i f rmw op hi hW s I o h hw W ho old acts answers
  obtain ⟨rule, hx, hrule⟩ := atomic_exec hi
  have hspan (lane : Nat) (hl : lane ∈ I.runs) : Spans (sizeBits f.mod / 8) (o lane).route := reach_spans (ho lane hl)
  have hanswers (st : Nat → State) (hst : acts st (fun lane v => (st (I.runs.idxOf lane)).routeWrite ((passed s I).workEv I.c 0)
      (leBytes (W / 8) v.toNat) (o lane).route = .ok (st (I.runs.idxOf lane + 1)))) : answers st := by
    obtain ⟨hfirst, hst⟩ := hst
    refine fun hone => atomBody_loads h ((hx s).trans (runAtomic_eq s i f rmw rule)) hw ho hfirst (fun lane hl => ?_) hone
    have hturn := hst lane hl
    split at hturn
    · next hop => rw [hturn]; exact atomAct_none hrule hW (hspan lane hl) hop
    · next v hop => exact atomAct_some hrule hW (hspan lane hl) hop hturn
  refine ⟨hanswers, fun hlog => ?_⟩
  obtain ⟨st, hfirst, hst⟩ := exists_positions (runs_nodup h)
    (fun lane hl t => exists_turned op I ((passed s I).workEv I.c 0) lane (hspan lane hl) (hlog lane hl) t) (passed s I)
  refine ⟨st, ⟨hfirst, fun lane hl => ?_⟩, hanswers st ⟨hfirst, fun lane hl => ?_⟩⟩
  · split
    · next hop => exact (hst lane hl).of_none hop
    · next v hop => exact ((hst lane hl).of_some hop).2
  · split
    · next hop => exact (hst lane hl).of_none hop
    · next v hop => exact ((hst lane hl).of_some hop).1
end Sys2Proof.Laws
end

section
/-! Elements of tiles (R255, R256, R276, R279, R289): reads answer each strand's element, writes act on it at its place or by an entry of its
tile's log. -/
namespace Sys2Proof.Laws
open Sys2Proof.Machine Sys2Proof.Safety

section
variable {s : State} {I : Iss} {i : Instr} {dst : Reg} {v : Nat → VReg}

/-! ## TGET and TCMP -/

/-- A load from the state that the instruction acts on. -/
theorem loads_of_passed (h : Loads s (passed s I) i I dst v) : Loads s s i I dst v := by
  obtain ⟨m, hm⟩ := passed_eq s I
  rwa [hm] at h

/-- What TGET answers for an element that has been read. -/
def tgetValue (x : (Tile × Nat × Opnd) × Nat × FpNum) : VReg :=
  let t := x.1.1
  VReg.ofWord (if fpTag t.tag || wbTag t.tag then BitVec.ofNat 64 (roundTo (wideTag t.tag) 0 x.2.2).bits else extendTo (signedTag t.tag) t.ew x.2.1)

def tgetBody (f : Mem) (I : Iss) (s : State) : Ran :=
  (s, match I.each (fun lane => s.elemRead I f.sa (tileIndex f (I.c.rd lane))) with
    | .error e => .error e
    | .ok os => match I.deliver s f.dst (os.map (fun y => (y.1, tgetValue y.2))) with
      | .error e => .error e
      | .ok t => .ok { s := t, hits := t.opndHits 33 (os.map (fun y => (y.1, y.2.1.2.2))) })

theorem exec_tget (f : Mem) (s : State) : exec (.tget f) s = runCourse s (.tget f) false [] (tgetBody f) := by
  change execTget f s = _
  unfold execTget
  refine congrArg (runCourse s (.tget f) false []) (funext₂ fun I s => ?_)
  unfold tgetBody
  cases I.each (fun lane => s.elemRead I f.sa (tileIndex f (I.c.rd lane))) <;> rfl

theorem tget_loads {f : Mem} {x : Nat → (Tile × Nat × Opnd) × Nat × FpNum} (h : Issues s (.tget f) false [] I) (hw : Unwatched s)
    (hx : ∀ lane ∈ I.runs, (passed s I).elemRead I f.sa (tileIndex f (I.c.rd lane)) = .ok (x lane))
    (hone : OneValue I f.dst (fun lane => tgetValue (x lane))) : Loads s s (.tget f) I f.dst (fun lane => tgetValue (x lane)) := by
  refine loads_of_passed (complete_loads (visible := false) h (Aside.refl _) ((exec_tget f s).trans (runCourse_ok h (s2 := passed s I) ?_)))
  unfold tgetBody
  rw [each_ok hx]
  dsimp only
  rw [List.map_map]
  simp only [Function.comp_def]
  rw [deliver_ok hone]
  dsimp only
  rw [opndHits_unwatched hw ((sendData_panels h _).trans (passed_panels s I))]

/-- What TCMP answers for an element's number n and the number y it is compared with. -/
def tcmpHolds (f : Gen) (n y : FpNum) : Bool :=
  let k := bitsOf f.mod.toNat 1 0
  if k = 0 then n.eq y else if k = 1 then !n.eq y else if k = 2 then n.lt y else y.lt n || n.eq y

def tcmpRes (f : Gen) (I : Iss) (lane : Nat) (x : (Tile × Nat × Opnd) × Nat × FpNum) : Res :=
  let n := x.2.2
  let y := valueNum x.1.1.tag (I.c.read lane f.sc)
  Res.word f.dst (if (match bitsOf f.mod.toNat 1 0 with
    | 0 => n.eq y
    | 1 => !n.eq y
    | 2 => n.lt y
    | _ => y.lt n || n.eq y) then 1 else 0)

theorem tcmpRes_eq (f : Gen) (I : Iss) (lane : Nat) (x : (Tile × Nat × Opnd) × Nat × FpNum) :
    tcmpRes f I lane x = { writes := [(f.dst, truth (tcmpHolds f x.2.2 (valueNum x.1.1.tag (I.c.read lane f.sc))))] } := by
  unfold tcmpRes tcmpHolds
  generalize bitsOf f.mod.toNat 1 0 = k
  match k with
  | 0 | 1 | 2 | k + 3 => rfl

def tcmpBody (f : Gen) (I : Iss) (s : State) : Ran :=
  (s, match I.each (fun lane => s.elemRead I f.sa (I.c.read lane f.sb).toNat) with
    | .error e => .error e
    | .ok os => match I.store s (os.map (fun y => (y.1, tcmpRes f I y.1 y.2))) with
      | .error e => .error e
      | .ok t => .ok { s := t, hits := t.opndHits 33 (os.map (fun y => (y.1, y.2.1.2.2))) })

theorem exec_tcmp (f : Gen) (s : State) : exec (.tcmp f) s = runCourse s (.tcmp f) false [] (tcmpBody f) := by
  change execTcmp f s = _
  unfold execTcmp
  refine congrArg (runCourse s (.tcmp f) false []) (funext₂ fun I s => ?_)
  unfold tcmpBody
  cases I.each (fun lane => s.elemRead I f.sa (I.c.read lane f.sb).toNat) <;> rfl

theorem store_kept {t u : State} {rs : List (Nat × Res)} (h : I.store t rs = .ok u) : u.panels = t.panels := by
  unfold Iss.store at h
  split at h
  · cases h
  · cases h
    unfold State.countStats
    split <;> [rfl; skip]
    split <;> rfl

theorem tcmp_writes {f : Gen} {x : Nat → (Tile × Nat × Opnd) × Nat × FpNum} (h : Issues s (.tcmp f) false [] I) (hw : Unwatched s)
    (hx : ∀ lane ∈ I.runs, (passed s I).elemRead I f.sa (I.c.read lane f.sb).toNat = .ok (x lane))
    (hone : OneValue I f.dst (fun lane => truth (tcmpHolds f (x lane).2.2 (valueNum (x lane).1.1.tag (I.c.read lane f.sc))))) :
    ∃ t c, exec (.tcmp f) s = .next t ∧ Moves s t I c (fun _ => pcNext I.E.pc) ∧
      Wrote I c f.dst (fun lane => truth (tcmpHolds f (x lane).2.2 (valueNum (x lane).1.1.tag (I.c.read lane f.sc)))) ∧ Quiet s t := by
  let res (lane : Nat) (_ : Rd) : Except Stop Res := .ok (tcmpRes f I lane (x lane))
  have hres : exec (.tcmp f) s = runLanes s (.tcmp f) false [] res := by
    refine (exec_tcmp f s).trans (runCourse_congr h ?_)
    unfold tcmpBody
    rw [each_ok hx, each_ok (x := fun lane => tcmpRes f I lane (x lane)) (fun _ _ => rfl)]
    dsimp only
    rw [List.map_map]
    cases hst : I.store (passed s I) (I.runs.map (fun lane => (lane, tcmpRes f I lane (x lane)))) with
    | error e => simp only [Function.comp_def, hst]
    | ok t =>
      simp only [Function.comp_def, hst, opndHits_unwatched hw ((store_kept hst).trans (passed_panels s I))]
      rfl
  rw [hres]
  exact runLanes_quiet h (fun _ _ => rfl) (fun lane _ => by rw [tcmpRes_eq]; exact ⟨rfl, rfl, rfl⟩) hone

/-! ## TSET and TACC -/

/-- What one strand of TSET does: its value rounded into the tag, counted and stored. -/
def tsetAct (f : Mem) (I : Iss) (s0 s1 : State) (lane : Nat) (x : Tile × Nat × Opnd) : Except Stop State :=
  let n := valueNum x.1.tag (I.c.read lane f.dst)
  let r := roundTo x.1.tag (bitsOf f.mod.toNat 1 0) n
  (s1.countStats (some x.1.launch) (cntKeys x.1.tensor (if n.isFin then r.cnt else .nonfin))).storeElem (s0.workEv I.c 0) x.1 x.2.1 x.2.2 r.bits

theorem exec_tset (f : Mem) (s : State) : exec (.tset f) s = runCourse s (.tset f) false []
    (performing 34 (fun I s lane => s.elemOpnd I f.sa false true false (tileIndex f (I.c.rd lane))) (tsetAct f) id
      (fun os => os.map (fun y => (y.1, y.2.2.2)))) := by
  change execTset f s = _
  unfold execTset
  refine congrArg (runCourse s (.tset f) false []) (funext₂ fun I s => ?_)
  dsimp only [performing]
  cases I.each (fun lane => s.elemOpnd I f.sa false true false (tileIndex f (I.c.rd lane))) <;> rfl

/-- The element of one strand of TACC, with an operand that its log can hold. -/
def taccOpnd (f : Gen) (I : Iss) (s : State) (lane : Nat) : Except Stop (Tile × Nat × Opnd) :=
  match s.elemOpnd I f.sa false true true (I.c.read lane f.sb).toNat with
  | .error e => .error e
  | .ok (t, k, o) => if o.logged && t.tag == 0x16 then .error (tileStop 0x02 t.idx) else .ok (t, k, o)

theorem exec_tacc (f : Gen) (s : State) : exec (.tacc f) s = runCourse s (.tacc f) false []
    (performing 35 (taccOpnd f) (fun I s0 s1 lane x => s1.accElem (s0.workEv I.c 0) (2 + bitsOf f.mod.toNat 1 0) (I.c.read lane f.sc) x) id
      (fun os => os.map (fun y => (y.1, y.2.2.2)))) := by
  change execTacc f s = _
  unfold execTacc
  refine congrArg (runCourse s (.tacc f) false []) (funext₂ fun I s => ?_)
  dsimp only [performing]
  change (s, match I.each (taccOpnd f I s) with | .error e => _ | .ok os => _) = _
  cases I.each (taccOpnd f I s) <;> rfl

theorem storeElem_aside {t : Tile} {b : Ev} {k v : Nat} {o : Opnd} {u : State} (h : s.storeElem b t k o v = .ok u) : Aside s u := by
  unfold State.storeElem at h
  split at h
  · split at h
    · cases h
    split at h
    · cases h
    next ht => exact (admitTile_aside ht).trans (append_aside h)
  · exact routeWrite_aside h

theorem accElem_aside {b : Ev} {op : Nat} {v : Word} {x : Tile × Nat × Opnd} {u : State} (h : s.accElem b op v x = .ok u) : Aside s u := by
  obtain ⟨t, k, o⟩ := x
  unfold State.accElem at h
  dsimp only at h
  split at h
  · split at h
    · cases h
    split at h
    · cases h
    split at h
    · cases h
    next ht => exact (admitTile_aside ht).trans (append_aside h)
  · exact (countStats_aside _ _ _).trans (routeWrite_aside h)

theorem taccOpnd_ok {f : Gen} {lane : Nat} {x : Tile × Nat × Opnd}
    (h : s.elemOpnd I f.sa false true true (I.c.read lane f.sb).toNat = .ok x ∧ (x.2.2.logged = false ∨ x.1.tag ≠ 0x16)) :
    taccOpnd f I s lane = .ok x := by
  obtain ⟨t, k, o⟩ := x
  obtain ⟨hx, htag⟩ := h
  have hgood : ¬ (o.logged && t.tag == 0x16) = true := by simpa [or_iff_not_imp_left] using htag
  unfold taccOpnd
  simp only [hx]
  exact if_neg hgood
end

/-! ## One element at its place (R256, R262, R279) -/

section
variable {s : State} {t : Tile} {o : Opnd}

theorem logged_of_logless (h : logless o.route) : o.logged = false := by
  obtain ⟨a, route, home, bit⟩ := o
  cases route with
  | plain l n => rfl
  | split ds =>
    obtain ⟨ys, rfl, -⟩ := logless_split h
    cases ys <;> rfl

/-- An element's bytes with a new element in them. -/
def elemStored (s : State) (t : Tile) (o : Opnd) (v : Nat) : List (List Loc × (Nat → Byte → Byte)) :=
  let old := leNat (s.routeRead o.route)
  [(cells o.route, byteOf (old - old / 2 ^ o.bit % 2 ^ t.ew * 2 ^ o.bit + v % 2 ^ t.ew * 2 ^ o.bit))]

theorem elemInto_stores (u : State) (b : Ev) (hlog : logless o.route) (hlen : (cells o.route).length = t.eb) (v : Nat) :
    ∃ s', u.routeWrite b (elemInto t o.bit (s.routeRead o.route) v) o.route = .ok s' ∧ StoredBytes u s' (elemStored s t o v) :=
  routeWrite_leBytes u b _ hlog (hlen ▸ spans_cells hlog)

theorem storeElem_stores (b : Ev) (k : Nat) (hlog : logless o.route) (hlen : (cells o.route).length = t.eb) (v : Nat) :
    ∃ s', s.storeElem b t k o v = .ok s' ∧ StoredBytes s s' (elemStored s t o v) := by
  unfold State.storeElem
  rw [logged_of_logless hlog]
  exact elemInto_stores s b hlog hlen v

/-- The counts that an operation on an element makes (R279). -/
def elemKeys (t : Tile) : Cnt → List Nat
  | .sat => [3 * t.tensor]
  | .nonfin => [3 * t.tensor + 2]
  | _ => []

theorem accElem_stores (b : Ev) (op k : Nat) (hlog : logless o.route) (hlen : (cells o.route).length = t.eb) {v : Nat} (hv : v < 2 ^ 64) :
    let a := elemOp t.tag op (leNat (s.routeRead o.route) / 2 ^ o.bit % 2 ^ t.ew) (v % 2 ^ if fpTag t.tag then tagWidth (wideTag t.tag) else t.ew)
    ∃ s', s.accElem b op (BitVec.ofNat 64 v) (t, k, o) = .ok s' ∧
      StoredBytes (s.countStats (some t.launch) (elemKeys t a.2)) s' (elemStored s t o a.1) := by
  intro a
  obtain ⟨s', hwrite, hstored⟩ := elemInto_stores (s := s) (s.countStats (some t.launch) (elemKeys t a.2)) b hlog hlen a.1
  refine ⟨s', ?_, hstored⟩
  have hoperand : (if fpTag t.tag then (BitVec.ofNat 64 v).toNat % 2 ^ tagWidth (wideTag t.tag) else (BitVec.ofNat 64 v).toNat % 2 ^ t.ew) =
      v % 2 ^ if fpTag t.tag then tagWidth (wideTag t.tag) else t.ew := by
    rw [BitVec.toNat_ofNat, Nat.mod_eq_of_lt hv]
    split <;> rfl
  unfold State.accElem
  dsimp only
  rw [logged_of_logless hlog, hoperand]
  refine Eq.trans ?_ hwrite
  unfold elemKeys
  rfl
end

/-! ## One element by its tile's log (R276, R289) -/

section
variable {s : State} {t t' : Tile}

theorem tileFields_name {launch idx ntens : Nat} {a : Word} {b : List Byte} (h : tileFields launch idx a ntens b = some t) :
    t.launch = launch ∧ t.idx = idx := by
  unfold tileFields at h
  extract_lets at h
  split at h
  · obtain rfl := Option.some.inj h
    exact ⟨rfl, rfl⟩
  · cases h

theorem readTile_name {launch idx : Nat} (h : s.readTile launch idx = .ok t) : t.launch = launch ∧ t.idx = idx := by
  unfold State.readTile at h
  split at h
  · cases h
  split at h
  · cases h
  extract_lets at h
  split at h
  · cases h
  split at h
  · next t0 ht =>
    cases h
    exact tileFields_name (t := t0) ht
  · cases h

theorem admitTile_held (h : (s.dirOf t.launch t.idx).isSome) (skein : Option Nat) : s.admitTile t skein = some s := by
  unfold State.admitTile
  obtain ⟨d, hd⟩ := Option.isSome_iff_exists.1 h
  rw [hd]

theorem pushEntry_below (b : Ev) (y : LogEntry) (h : t.logcnt + 1 < t.threshold) :
    s.pushEntry t b y = (s.pokeNat (t.logLoc t.logcnt) 16 y.bits).setTile t 0x34 2 (t.logcnt + 1) :=
  if_neg (not_le.2 h)

theorem append_room (b : Ev) (y : LogEntry) (hread : s.readTile t.launch t.idx = .ok t) (hbusy : s.logBusy t.launch t.idx = false)
    (hroom : t.logcnt < t.logcap) : s.append t b y = .ok (s.pushEntry t b y) := by
  unfold State.append
  simp only [hbusy, hread, hroom, if_true, Bool.false_eq_true, if_false]

theorem storeElem_appends (b : Ev) (k : Nat) {o : Opnd} (v : Nat) (hlog : o.logged = true) (hread : s.readTile t.launch t.idx = .ok t')
    (hdir : (s.dirOf t'.launch t'.idx).isSome) (hbusy : s.logBusy t'.launch t'.idx = false) (hroom : t'.logcnt < t'.logcap)
    (hbelow : t'.logcnt + 1 < t'.threshold) : s.storeElem b t k o v = .ok ((s.pokeNat (t'.logLoc t'.logcnt) 16
      ({ index := k, op := 1, type := t'.tag.toNat, mask := t'.fullMask, value := v, rsv := 0 } : LogEntry).bits).setTile t' 0x34 2 (t'.logcnt + 1)) := by
  obtain ⟨hlaunch, hidx⟩ := readTile_name hread
  have hread' : s.readTile t'.launch t'.idx = .ok t' := by rwa [hlaunch, hidx]
  unfold State.storeElem
  rw [if_pos hlog]
  simp only [hread, admitTile_held hdir]
  rw [append_room b _ hread' hbusy hroom, pushEntry_below b _ hbelow]
end

/-- Settles O25: reads answer with each strand's element, and writes act in turn, at a place or by a log entry. -/
theorem tileElements : Obligations.TileElements := by
  unfold Obligations.TileElements
  refine ⟨?_, ?_, ?_, ?_, ?_, ?_⟩
  · intro f s I x h hw hx v hone
    exact tget_loads h hw hx hone
  · intro f s I x h hw hx v hone
    exact tcmp_writes h hw hx hone
  · intro f s I x s2 h hw hx hp
    exact performing_passes h (exec_tset f s) hw hx (fun _ _ _ _ hact => (countStats_aside _ _ _).trans (storeElem_aside hact)) hp
  · intro f s I x s2 h hw hx hp
    exact performing_passes h (exec_tacc f s) hw (fun lane hl => taccOpnd_ok (hx lane hl)) (fun _ _ _ _ => accElem_aside) hp
  · intro s b t k o v op hlog hlen _
    refine ⟨storeElem_stores b k hlog hlen v, fun hv => ?_⟩
    obtain ⟨s', hacc, hstored⟩ := accElem_stores (s := s) b op k hlog hlen hv
    exact ⟨s', hacc, hstored⟩
  · intro s b t t' k o v hlog hread hdir hbusy hroom hbelow
    exact storeElem_appends b k v hlog hread hdir hbusy hroom hbelow
end Sys2Proof.Laws
end

section
/-! Remote loads, stores and atomics (R253, R372, R374, R378 to R380): a request is remembered under its identifier, leaves on its flow's route or is
nacked at home, and a course's requests take identifiers in the order of its strands. -/
namespace Sys2Proof.Laws
open Sys2Proof.Machine Sys2Proof.Safety

/-! ## One request (R371 to R374) -/

section
variable (s : State) (kind : ReqKind) (f : Flow) (dst pk ctx ent : Nat) (mode : BitVec 2) (cause parent : Word32) (a : Word) (body : Body)

/-- The flow's record as a request finds it (R372, R375). -/
def flowNow : FlowState := s.settleFlow (s.flowFor f dst ent mode)

/-- The packet of a request, as it is remembered. -/
def requestPacket : Packet := (s.newId.2.sendPacket f dst pk ctx ent mode cause s.work.nextId body).2

/-- A request that has no response yet. -/
def newRequest : Req :=
  { kind, flow := f, dev := dst, ctx, cause, parent, laddr := a, sent := s.time.gt
    packet := requestPacket s f dst pk ctx ent mode cause body, ended := none }

/-- The answer that an unreachable request gets at home (R374). -/
def nackFor : Packet :=
  let p := requestPacket s f dst pk ctx ent mode cause body
  { p with kind := 8, src := p.dst, dst := p.src, info := 1, len := 0, body := .none }

/-- What becomes of a request that has a route or has none. -/
def requested (routed : Bool) : State :=
  let u := if routed then (s.newId.2.sendPacket f dst pk ctx ent mode cause s.work.nextId body).1 else s.newId.2
  let v := { u with async := { u.async with reqs := kset u.async.reqs s.work.nextId (newRequest s kind f dst pk ctx ent mode cause parent a body) } }
  if routed then v else v.later (.fabricNack (nackFor s f dst pk ctx ent mode cause body))

theorem sendReq_eq : s.sendReq kind f dst pk ctx ent mode cause parent a body =
    requested s kind f dst pk ctx ent mode cause parent a body (s.route dst (flowNow s f dst ent mode).ent).isSome := rfl

/-- A request is remembered under the next identifier. -/
theorem sendReq_reqs : (s.sendReq kind f dst pk ctx ent mode cause parent a body).async.reqs =
    kset s.async.reqs s.work.nextId (newRequest s kind f dst pk ctx ent mode cause parent a body) := by
  rw [sendReq_eq]
  cases (s.route dst (flowNow s f dst ent mode).ent).isSome <;> rfl

theorem sendReq_nextId : (s.sendReq kind f dst pk ctx ent mode cause parent a body).work.nextId = s.work.nextId + 1 := by
  rw [sendReq_eq]
  cases (s.route dst (flowNow s f dst ent mode).ent).isSome <;> rfl

/-- What a request leaves as it was. -/
structure Unasked (s t : State) : Prop where
  courses : t.courses = s.courses
  mem     : t.mem = s.mem
  time    : t.time = s.time
  faults  : t.async.faults = s.async.faults

theorem sendReq_unasked : Unasked s (s.sendReq kind f dst pk ctx ent mode cause parent a body) := by
  rw [sendReq_eq]
  cases (s.route dst (flowNow s f dst ent mode).ent).isSome <;> exact ⟨rfl, rfl, rfl, rfl⟩

theorem flowNow_names : (flowNow s f dst ent mode).flow = f ∧ (flowNow s f dst ent mode).dev = dst := by
  have hfor : (s.flowFor f dst ent mode).flow = f ∧ (s.flowFor f dst ent mode).dev = dst := by
    unfold State.flowFor
    cases hfind : s.async.flows.find? (fun x => x.flow == f && x.dev == dst) with
    | none => exact ⟨rfl, rfl⟩
    | some x => simpa using List.find?_some hfind
  unfold flowNow State.settleFlow
  split
  · exact hfor
  · split <;> exact hfor

theorem flowFor_setFlow (x : FlowState) (hx : x.flow = f ∧ x.dev = dst) : (s.setFlow x).flowFor f dst ent mode = x := by
  unfold State.flowFor State.setFlow
  rw [List.find?_cons_of_pos (by simp [hx])]
  rfl

/-- A request with a route takes its flow's next SEQ and leaves by a port. -/
theorem sendReq_routed (h : (s.route dst (flowNow s f dst ent mode).ent).isSome) :
    let t := s.sendReq kind f dst pk ctx ent mode cause parent a body
    let x := flowNow s f dst ent mode
    t.flowFor f dst ent mode = { x with seq := x.seq + 1 } ∧ t.agenda = s.agenda ∧
      ∃ p, t.async.outbox = s.async.outbox ++ [p] ∧
        ({ p with rly := false, relay := 0, mark := false } : Packet) = requestPacket s f dst pk ctx ent mode cause body := by
  intro t x
  have ht : t = requested s kind f dst pk ctx ent mode cause parent a body true := by rw [← h]; exact sendReq_eq ..
  rw [ht]
  refine ⟨flowFor_setFlow s f dst ent mode { x with seq := x.seq + 1 } (flowNow_names s f dst ent mode), rfl, _, rfl, ?_⟩
  split <;> rfl

/-- A request without a route leaves its flow as it was, and its nack is due at once. -/
theorem sendReq_unrouted (h : s.route dst (flowNow s f dst ent mode).ent = none) :
    let t := s.sendReq kind f dst pk ctx ent mode cause parent a body
    t.async.outbox = s.async.outbox ∧ t.async.flows = s.async.flows ∧
      ⟨s.time.gt, .event (.fabricNack (nackFor s f dst pk ctx ent mode cause body))⟩ ∈ t.agenda := by
  intro t
  have ht : t = requested s kind f dst pk ctx ent mode cause parent a body false := by
    rw [← show (s.route dst (flowNow s f dst ent mode).ent).isSome = false by rw [h]; rfl]
    exact sendReq_eq ..
  rw [ht]
  exact ⟨rfl, rfl, laterAt_due _ _ _⟩
end

/-! ## The requests of a course's strands (R378 to R380) -/

section
variable {s t : State} {I : Iss} {kind : Nat → ReqKind} {pk : Nat} {o : Nat → Word × Nat × Nat} {body : Nat → Body}

/-- One strand's request on its course's flow. -/
def courseRequest (I : Iss) (kind : Nat → ReqKind) (pk : Nat) (o : Nat → Word × Nat × Nat) (body : Nat → Body) (t : State) (lane : Nat) : State :=
  t.sendReq (kind lane) I.flow (o lane).2.1 pk (t.skeinCtx I.c.skein) I.c.entropy.toNat I.c.fmode (t.causeOf I.c) (t.parentOf I.c) (o lane).1 (body lane)

theorem requests_unasked (l : List Nat) (s : State) : Unasked s (l.foldl (courseRequest I kind pk o body) s) := by
  refine List.foldlRecOn (motive := Unasked s) l _ ⟨rfl, rfl, rfl, rfl⟩ (fun t ht lane _ => ?_)
  obtain ⟨hcourses, hmem, htime, hfaults⟩ := sendReq_unasked t (kind lane) I.flow (o lane).2.1 pk (t.skeinCtx I.c.skein) I.c.entropy.toNat
    I.c.fmode (t.causeOf I.c) (t.parentOf I.c) (o lane).1 (body lane)
  exact ⟨hcourses.trans ht.courses, hmem.trans ht.mem, htime.trans ht.time, hfaults.trans ht.faults⟩

/-- Requests that are already remembered stay. -/
theorem requests_earlier (l : List Nat) (s : State) {id : Nat} (hid : id < s.work.nextId) :
    kget (l.foldl (courseRequest I kind pk o body) s).async.reqs id = kget s.async.reqs id := by
  induction l generalizing s with
  | nil => rfl
  | cons lane l ih =>
    have hnext : id < (courseRequest I kind pk o body s lane).work.nextId := Nat.lt_succ_of_lt hid |>.trans_eq (sendReq_nextId ..).symm
    rw [List.foldl_cons, ih _ hnext, courseRequest, sendReq_reqs, kget_kset_ne hid.ne]

/-- The requests take identifiers in the order of their strands. -/
theorem requests_remembered {l : List Nat} {j lane : Nat} (hj : l[j]? = some lane) (s : State) :
    ∃ r, kget (l.foldl (courseRequest I kind pk o body) s).async.reqs (s.work.nextId + j) = some r ∧ r.kind = kind lane ∧ r.dev = (o lane).2.1 ∧
      r.laddr = (o lane).1 ∧ r.sent = s.time.gt ∧ r.ended = none ∧ r.packet.body = body lane := by
  induction l generalizing s j with
  | nil => cases hj
  | cons first l ih =>
    cases j with
    | zero =>
      obtain rfl : first = lane := Option.some.inj hj
      have hnext : s.work.nextId < (courseRequest I kind pk o body s first).work.nextId := (Nat.lt_succ_self _).trans_eq (sendReq_nextId ..).symm
      refine ⟨newRequest s (kind first) I.flow (o first).2.1 pk (s.skeinCtx I.c.skein) I.c.entropy.toNat I.c.fmode (s.causeOf I.c) (s.parentOf I.c)
        (o first).1 (body first), ?_, rfl, rfl, rfl, rfl, rfl, rfl⟩
      rw [List.foldl_cons, Nat.add_zero, requests_earlier _ _ hnext, courseRequest, sendReq_reqs, kget_kset_self]
    | succ j =>
      have htime : (courseRequest I kind pk o body s first).time = s.time := (sendReq_unasked ..).time
      have hnext : (courseRequest I kind pk o body s first).work.nextId = s.work.nextId + 1 := sendReq_nextId ..
      have hrest := ih hj (courseRequest I kind pk o body s first)
      rwa [hnext, Nat.add_assoc, Nat.add_comm 1, htime] at hrest
end

/-! ## FLD (R378, R379) -/

section
variable {s : State} {I : Iss}

theorem setPends_eq (c : Course) (m : BitVec 16) (r : Reg) : c.setPends m r = onStrands c (lanesOf m) (marked · r) := by
  refine List.foldl_ext _ _ c (fun d i hi => ?_)
  cases hp : pendOf (d.st i) r with
  | none =>
    have hmark : marked (d.st i) r = d.st i := by simp [marked, hp]
    exact (modSt_self d i (lanesOf_lt i hi) hmark).symm
  | some p =>
    have hmark : (d.st i).setPend p = marked (d.st i) r := by simp [marked, hp]
    exact congrArg (d.setSt i) hmark

theorem mem_pending_setPend (x : Strand) (p : Pend) : p ∈ (x.setPend p).pending := by
  unfold Strand.setPend
  split
  · next h => simpa using h
  · exact List.mem_cons_self

theorem marked_registers (x : Strand) (r : Reg) : { marked x r with pending := [], arrs := [] } = { x with pending := [], arrs := [] } := by
  unfold marked Strand.setPend
  split
  · split <;> rfl
  · rfl

/-- An entry that waits keeps its strands and its PC. -/
theorem advance_waits (c : Course) {E : Entry} {e : Eff} {w : Wait} (hw : e.wait = some w) (hb : e.back = false) :
    ∃ x ∈ (c.advance E e).front, x.mask = E.mask ∧ x.pc = E.pc ∧ x.wait = w := by
  unfold Course.advance
  simp only [hw, hb, front_setFront, mem_sortEntries, Bool.false_eq_true, if_false]
  exact ⟨_, List.mem_cons_self, rfl, rfl, rfl⟩

/-- What a reply to one strand's FLD is written to. -/
def fldKind (f : Gen) (I : Iss) (lane : Nat) : ReqKind :=
  .fld I.c.skein I.c.f2 I.c.f1 (if I.uni then maskOf I.lanes else maskOf [lane]) f.dst (fabBytes f.mod) (f.mod.getLsbD 3)

/-- The state that FLD leaves before its entry parks. -/
def fldState (f : Gen) (I : Iss) (o : Nat → Word × Nat × Nat) (s : State) : State :=
  I.runs.foldl (courseRequest I (fldKind f I) 1 o (fun lane => .read (BitVec.ofNat 64 (o lane).2.2) (fabBytes f.mod)))
    (s.modCourse I.core I.slot (fun c => c.setPends (maskOf I.lanes) f.dst))

theorem exec_fld {f : Gen} {o : Nat → Word × Nat × Nat} (h : Issues s (.fld f) false [] I)
    (ho : ∀ lane ∈ I.runs, (passed s I).peerOpnd I f lane (fabBytes f.mod) .peerLoad = .ok (o lane)) :
    exec (.fld f) s = .next (State.complete I { s := fldState f I o (passed s I), visible := true, wait := some .remote }) := by
  change execFld f s = _
  unfold execFld
  refine runCourse_ok h (s2 := passed s I) ?_
  dsimp only
  rw [each_ok ho]
  dsimp only
  rw [List.foldl_map]
  rfl

/-- The course with its strands' destination pending. -/
def fldCourse (f : Gen) (I : Iss) : Course := onStrands (passedCourse I.c) (lanesOf (maskOf I.lanes)) (marked · f.dst)

theorem fldState_course {f : Gen} {o : Nat → Word × Nat × Nat} (h : Issues s (.fld f) false [] I) :
    (fldState f I o (passed s I)).course? I.core I.slot = some (fldCourse f I) := by
  unfold fldState
  rw [State.course?, (requests_unasked ..).courses]
  exact (kget_kmod_self (passed_course h.course) _).trans (congrArg some (setPends_eq ..))

theorem fldState_others (f : Gen) (I : Iss) (o : Nat → Word × Nat × Nat) (s : State) {k : Nat} (hk : k ≠ courseKey I.core I.slot) :
    kget (fldState f I o (passed s I)).courses k = kget s.courses k := by
  unfold fldState
  rw [(requests_unasked ..).courses]
  exact (kget_kmod_ne hk _).trans (passed_others s I hk)

theorem fldState_mem (f : Gen) (o : Nat → Word × Nat × Nat) : (fldState f I o (passed s I)).mem = s.mem :=
  (requests_unasked ..).mem.trans (congrArg State.mem (passed_quiet s I) :)

theorem fldState_remembered (f : Gen) (o : Nat → Word × Nat × Nat) {j lane : Nat} (hj : I.runs[j]? = some lane) :
    ∃ r, kget (fldState f I o (passed s I)).async.reqs (s.work.nextId + j) = some r ∧ r.kind = fldKind f I lane ∧ r.dev = (o lane).2.1 ∧
      r.laddr = (o lane).1 ∧ r.sent = s.time.gt ∧ r.ended = none ∧ r.packet.body = .read (BitVec.ofNat 64 (o lane).2.2) (fabBytes f.mod) := by
  have hwork : ((passed s I).modCourse I.core I.slot (fun c => c.setPends (maskOf I.lanes) f.dst)).work = s.work := passed_work s I
  have htime : ((passed s I).modCourse I.core I.slot (fun c => c.setPends (maskOf I.lanes) f.dst)).time = s.time :=
    (congrArg State.time (passed_quiet s I) :)
  rw [← hwork, ← htime]
  exact requests_remembered hj _

/-- FLD completes with its entry parked and its strands' destination pending. -/
theorem exec_fld_parks {f : Gen} {o : Nat → Word × Nat × Nat} (h : Issues s (.fld f) false [] I)
    (ho : ∀ lane ∈ I.runs, (passed s I).peerOpnd I f lane (fabBytes f.mod) .peerLoad = .ok (o lane)) :
    exec (.fld f) s = .next ((fldState f I o (passed s I)).setCourse I.core I.slot
      ((fldCourse f I).advance I.E { s := fldState f I o (passed s I), visible := true, wait := some .remote })) := by
  have hrest := onStrands_rest (passedCourse I.c) (lanesOf (maskOf I.lanes)) (marked · f.dst)
  have hlive : (fldCourse f I).orphan = none := (congrArg Course.orphan hrest).trans h.live
  have hfaults : (fldState f I o (passed s I)).async.faults = (passed s I).async.faults := (requests_unasked ..).faults
  rw [exec_fld h ho, complete_plain (e := { s := fldState f I o (passed s I), visible := true, wait := some .remote }) (fldState_course h) hlive
    (hfaults ▸ passed_faults h) rfl rfl rfl rfl]

theorem fldCourse_pending {f : Gen} (h : Issues s (.fld f) false [] I) {lane : Nat} (hl : lane ∈ I.lanes) {p : Pend}
    (hp : pendOf (I.c.st lane) f.dst = some p) : p ∈ ((fldCourse f I).st lane).pending := by
  obtain ⟨hlt, -, -⟩ := lanes_lt h
  have hbit : (maskOf I.lanes).getLsbD lane = true := (maskOf_bit I.lanes hlt lane (hlt lane hl)).trans (decide_eq_true hl)
  have hst : (fldCourse f I).st lane = marked (I.c.st lane) f.dst := by
    unfold fldCourse
    rw [onLanes_st, if_pos hbit]
    rfl
  rw [hst, marked, hp]
  exact mem_pending_setPend _ p

theorem fldCourse_registers (f : Gen) (I : Iss) : registers (fldCourse f I) = registers I.c :=
  onStrands_registers (marked_registers · f.dst) (passedCourse I.c) _
end

/-! ## FST and FATM (R380) -/

theorem runPosted_passes {s : State} {I : Iss} {i : Instr} {f : Gen} {kind : Nat} {body : Word → Nat → Word → Body} {o : Nat → Word × Nat × Nat}
    (hx : exec i s = runPosted s i f kind body) (h : Issues s i false [] I)
    (ho : ∀ lane ∈ I.runs, (passed s I).peerOpnd I f lane (fabBytes f.mod) .peerStore = .ok (o lane)) :
    Passes s i I I.c (fun _ => pcNext I.E.pc) (I.runs.foldl (courseRequest I (fun _ => .posted I.c.skein I.c.f2 I.c.f1) kind o
      (fun lane => body (BitVec.ofNat 64 (o lane).2.2) (fabBytes f.mod) (I.c.read lane f.sb))) (passed s I)) := by
  have hasked := requests_unasked (I := I) (kind := fun _ => .posted I.c.skein I.c.f2 I.c.f1) (pk := kind) (o := o)
    (body := fun lane => body (BitVec.ofNat 64 (o lane).2.2) (fabBytes f.mod) (I.c.read lane f.sb)) I.runs (passed s I)
  refine complete_passes (visible := true) h (hx.trans ?_) hasked.courses fun p hp => ⟨p, ?_, rfl⟩
  · unfold runPosted
    refine runCourse_ok h (s2 := passed s I) ?_
    dsimp only
    rw [each_ok ho]
    dsimp only
    rw [List.foldl_map]
    rfl
  · rwa [hasked.faults, passed_async] at hp

/-- Settles O33: a form's requests are those of its strands in order, and each is remembered and routed as one request is. -/
theorem remoteAccesses : Obligations.RemoteAccesses := by
  unfold Obligations.RemoteAccesses
  refine ⟨?_, ?_, ?_⟩
  · intro f s I o h ho
    let u := fldState f I o (passed s I)
    let e : Eff := { s := u, visible := true, wait := some .remote }
    obtain ⟨l, hadvance⟩ := advance_eq (fldCourse f I) I.E e
    obtain ⟨x, hx, hmask, hpc, hwait⟩ := advance_waits (fldCourse f I) (E := I.E) (e := e) rfl rfl
    refine ⟨_, _, exec_fld_parks h ho, ⟨course?_setCourse .., fun j hj => ⟨x, hx, hmask ▸ hj, hpc, hwait⟩⟩, ?_, fun k => ?_, fun a => ?_, ?_⟩
    · intro lane hl p hp
      rw [hadvance]
      have hst : ((fldCourse f I).setFront l).st lane = (fldCourse f I).st lane := by simp [Course.setFront, Course.st]
      rw [hst]
      exact fldCourse_pending h hl hp
    · by_cases hk : k = courseKey I.core I.slot
      · subst hk
        have hreg : registers ((fldCourse f I).advance I.E e) = registers I.c := by
          rw [hadvance]
          exact (registers_setFr ..).trans (fldCourse_registers f I)
        exact (congrArg (Option.map registers) (kget_kset_self ..)).trans ((congrArg some hreg).trans (congrArg (Option.map registers) h.course).symm)
      · exact congrArg (Option.map registers) ((kget_kset_ne hk _).trans (fldState_others f I o s hk))
    · exact congrArg (fun m : Memories => (m.of a.store).read a.addr) (fldState_mem f o)
    · intro j lane hj
      exact fldState_remembered f o hj
  · intro i f kind body hform s I o h ho
    have hx : exec i s = runPosted s i f kind body := by
      rcases hform with ⟨rfl, rfl, rfl⟩ | ⟨rfl, rfl, rfl⟩
      · exact (rfl : execFst f s = _)
      · exact (rfl : execFatm f s = _)
    exact runPosted_passes hx h ho
  · intro s kind flow dst pk ctx ent mode cause parent a body t x
    have hreqs := sendReq_reqs s kind flow dst pk ctx ent mode cause parent a body
    refine ⟨newRequest s kind flow dst pk ctx ent mode cause parent a body, ?_, rfl, rfl, rfl, rfl, rfl, rfl, rfl, fun id hid => ?_,
      sendReq_routed s kind flow dst pk ctx ent mode cause parent a body, fun hroute => ?_⟩
    · exact (congrArg (kget · _) hreqs).trans (kget_kset_self ..)
    · exact (congrArg (kget · _) hreqs).trans (kget_kset_ne hid _)
    · obtain ⟨houtbox, hflows, hnack⟩ := sendReq_unrouted s kind flow dst pk ctx ent mode cause parent a body hroute
      exact ⟨houtbox, hflows, _, hnack, rfl, rfl⟩
end Sys2Proof.Laws
end
